-- ==== Sys2Proof/Word.lean ====
section
/-!
DEFINITION. The words of the machine and their plainest arithmetic: bytes, halfwords, 64-bit words and the 256-bit short vectors (R8, R71, R113).
-/

namespace Sys2Proof

abbrev Byte := BitVec 8
abbrev Half := BitVec 16
abbrev Word := BitVec 64
/-- A short vector register (R113). -/
abbrev Quad := BitVec 256
/-- A long vector register (R113). -/
abbrev LongVec := BitVec 2048

/-- A number and a canonical list keyed by it: keys strictly rising. -/
abbrev NatMap (α : Type) := List (Nat × α)

end Sys2Proof
end

