-- ==== Sys2Proof/Machine/Exact.lean ====
section
/-!
DEFINITION. Exact arithmetic: rationals that the kernel can compute with, integer square roots, and the values of floating codes (R90, R91).
-/

namespace Sys2Proof.Machine

/-- Bits [hi:lo] of a number. -/
def bits (x hi lo : Nat) : Nat := x / 2 ^ lo % 2 ^ (hi - lo + 1)

/-- A rational number with a positive denominator. -/
structure Q where
  num : Int
  den : Nat
  deriving DecidableEq, Repr

/-- In lowest terms. -/
def Q.norm (q : Q) : Q :=
  let g := Nat.gcd q.num.natAbs q.den
  if g ≤ 1 then q else ⟨q.num / (g : Int), q.den / g⟩

def Q.ofInt (i : Int) : Q := ⟨i, 1⟩
def Q.ofNat (n : Nat) : Q := ⟨n, 1⟩
def Q.add (a b : Q) : Q :=
  if a.den = b.den then Q.norm ⟨a.num + b.num, a.den⟩ else Q.norm ⟨a.num * b.den + b.num * a.den, a.den * b.den⟩
def Q.neg (a : Q) : Q := ⟨-a.num, a.den⟩
def Q.sub (a b : Q) : Q := Q.add a (Q.neg b)
def Q.mul (a b : Q) : Q := Q.norm ⟨a.num * b.num, a.den * b.den⟩
def Q.abs (a : Q) : Q := ⟨a.num.natAbs, a.den⟩
/-- The inverse of a nonzero number. -/
def Q.inv (a : Q) : Q := if 0 < a.num then ⟨a.den, a.num.natAbs⟩ else ⟨-(a.den : Int), a.num.natAbs⟩
def Q.div (a b : Q) : Q := Q.mul a (Q.inv b)
def Q.lt (a b : Q) : Bool := decide (a.num * b.den < b.num * a.den)
def Q.le (a b : Q) : Bool := decide (a.num * b.den ≤ b.num * a.den)
def Q.eq (a b : Q) : Bool := decide (a.num * b.den = b.num * a.den)
def Q.isZero (a : Q) : Bool := decide (a.num = 0)
def Q.isNeg (a : Q) : Bool := decide (a.num < 0)
def Q.min (a b : Q) : Q := if Q.le a b then a else b
def Q.max (a b : Q) : Q := if Q.le a b then b else a

/-- 2^e. -/
def Q.pow2 (e : Int) : Q := if 0 ≤ e then ⟨(2 ^ e.toNat : Nat), 1⟩ else ⟨1, 2 ^ (-e).toNat⟩

/-- q × 2^e. -/
def Q.scale (q : Q) (e : Int) : Q := Q.mul q (Q.pow2 e)

/-- The greatest integer not above q. -/
def Q.floor (q : Q) : Int := q.num / (q.den : Int)

/-- The least integer not below q. -/
def Q.ceil (q : Q) : Int := -((-q.num) / (q.den : Int))

/-- Sum of a list. -/
def Q.sum (l : List Q) : Q := l.foldl Q.add ⟨0, 1⟩

/-- floor(log2 q) of a positive q. -/
def Q.log2 (q : Q) : Int :=
  let k : Int := (Nat.log2 q.num.natAbs : Int) - Nat.log2 q.den
  if Q.lt (Q.abs q) (Q.pow2 k) then k - 1 else k

/-- Integer square root by bits: the greatest r with r² ≤ n, searched below 2^b above r. -/
def isqrtFrom (n : Nat) : Nat → Nat → Nat
  | 0, r => r
  | b + 1, r => if (r + 2 ^ b) * (r + 2 ^ b) ≤ n then isqrtFrom n b (r + 2 ^ b) else isqrtFrom n b r

/-- floor(sqrt n). -/
def isqrt (n : Nat) : Nat := isqrtFrom n (Nat.log2 n / 2 + 1) 0

/-- The square root of a positive q, exact where it is rational with the bits kept, else a number between the two neighbours at that precision: it rounds as the exact root does to
any format of at most 60 bits. -/
def Q.sqrt (q : Q) : Q :=
  let e := Q.log2 q / 2 - 70
  let y := Q.scale q (-2 * e)
  let n := (Q.floor y).toNat
  let r := isqrt n
  if Q.eq y (Q.ofNat (r * r)) then Q.scale (Q.ofNat r) e else Q.scale ⟨2 * r + 1, 2⟩ e

/-- The value of a code (R91): a NaN with whether it is signalling and its sign, an infinity, a zero with its sign, or a nonzero number. -/
inductive Val where
  | nan (signalling neg : Bool)
  | inf (neg : Bool)
  | zero (neg : Bool)
  | num (q : Q)
  deriving DecidableEq, Repr

/-- A number as a value; an exact zero takes the given sign. -/
def Val.ofQ (q : Q) (zeroNeg : Bool := false) : Val := if q.isZero then .zero zeroNeg else .num q

/-- The number a finite value stands for; zero for the others. -/
def Val.toQ : Val → Q
  | .num q => q
  | _ => ⟨0, 1⟩

def Val.isNan : Val → Bool
  | .nan _ _ => true
  | _ => false
def Val.isSignalling : Val → Bool
  | .nan b _ => b
  | _ => false
def Val.isFinite : Val → Bool
  | .num _ => true
  | .zero _ => true
  | _ => false
/-- The sign of a value. -/
def Val.isNeg : Val → Bool
  | .nan _ n => n
  | .inf n => n
  | .zero n => n
  | .num q => q.isNeg
def Val.neg : Val → Val
  | .nan b n => .nan b (!n)
  | .inf n => .inf (!n)
  | .zero n => .zero (!n)
  | .num q => .num q.neg

/-- Order of values that are not NaN, −0 equal to +0. -/
def Val.lt : Val → Val → Bool
  | .inf true, .inf true => false
  | .inf true, _ => true
  | _, .inf true => false
  | .inf false, _ => false
  | _, .inf false => true
  | a, b => Q.lt a.toQ b.toQ

def Val.eq (a b : Val) : Bool := !Val.lt a b && !Val.lt b a

end Sys2Proof.Machine
end

