-- ==== Sys2Proof/Machine/Flags.lean ====
section
/-!
DEFINITION. Floating formats, the named rounding steps and the flags they raise (R90-R96), and the floating operations of IEEE 754-2019 with their flags (R111, R112).
-/

namespace Sys2Proof.Machine

/-! ### Flags (R94) -/

abbrev Flags := BitVec 5
def flagNV : Flags := 16
def flagDZ : Flags := 8
def flagOF : Flags := 4
def flagUF : Flags := 2
def flagNX : Flags := 1
def flagIf (b : Bool) (f : Flags) : Flags := if b then f else 0

/-! ### Formats (R90) -/

/-- Which codes of a floating format are infinities and NaNs. -/
inductive FloatKind where
  | ieee | e4m3 | finite
  deriving DecidableEq, Repr

/-- A floating format. -/
structure FloatFmt where
  ebits : Nat
  mbits : Nat
  bias : Nat
  kind : FloatKind
  canonical : Nat
  deriving DecidableEq, Repr

def fmtF32 : FloatFmt := ⟨8, 23, 127, .ieee, 0x7FC00000⟩
def fmtBf16 : FloatFmt := ⟨8, 7, 127, .ieee, 0x7FC0⟩
def fmtF16 : FloatFmt := ⟨5, 10, 15, .ieee, 0x7E00⟩
def fmtE4m3 : FloatFmt := ⟨4, 3, 7, .e4m3, 0x7F⟩
def fmtE5m2 : FloatFmt := ⟨5, 2, 15, .ieee, 0x7E⟩
def fmtE3m2 : FloatFmt := ⟨3, 2, 3, .finite, 0⟩
def fmtE2m3 : FloatFmt := ⟨2, 3, 1, .finite, 0⟩
def fmtE2m1 : FloatFmt := ⟨2, 1, 1, .finite, 0⟩
def fmtF64 : FloatFmt := ⟨11, 52, 1023, .ieee, 0x7FF8000000000000⟩

/-- Bits of a code. -/
def FloatFmt.width (f : FloatFmt) : Nat := 1 + f.ebits + f.mbits
/-- Code of the largest finite magnitude. -/
def FloatFmt.maxCode (f : FloatFmt) : Nat :=
  match f.kind with
  | .ieee => (2 ^ f.ebits - 1) * 2 ^ f.mbits - 1
  | .e4m3 => 0x7E
  | .finite => 2 ^ (f.ebits + f.mbits) - 1
/-- Code of +∞ of a format that has it. -/
def FloatFmt.infCode (f : FloatFmt) : Nat := (2 ^ f.ebits - 1) * 2 ^ f.mbits
/-- The sign bit. -/
def FloatFmt.sign (f : FloatFmt) (neg : Bool) : Nat := if neg then 2 ^ (f.ebits + f.mbits) else 0
/-- Exponent of the smallest normal magnitude. -/
def FloatFmt.minExp (f : FloatFmt) : Int := 1 - (f.bias : Int)

/-- The value of a code (R91). -/
def FloatFmt.decode (f : FloatFmt) (x : Nat) : Val :=
  let m := x % 2 ^ f.mbits
  let e := x / 2 ^ f.mbits % 2 ^ f.ebits
  let neg := x / 2 ^ (f.ebits + f.mbits) % 2 = 1
  let top := 2 ^ f.ebits - 1
  let mag : Q :=
    if e = 0 then Q.scale (Q.ofNat m) (f.minExp - f.mbits) else Q.scale (Q.ofNat (2 ^ f.mbits + m)) ((e : Int) - f.bias - f.mbits)
  let v : Val := if mag.isZero then .zero neg else .num (if neg then mag.neg else mag)
  match f.kind with
  | .ieee => if e = top then (if m = 0 then .inf neg else .nan (decide (m < 2 ^ (f.mbits - 1))) neg) else v
  | .e4m3 => if e = top ∧ m = 2 ^ f.mbits - 1 then .nan false neg else v
  | .finite => v

/-- A nonzero subnormal code. -/
def FloatFmt.subnormal (f : FloatFmt) (x : Nat) : Bool :=
  decide (x / 2 ^ f.mbits % 2 ^ f.ebits = 0) && decide (x % 2 ^ f.mbits ≠ 0)

/-- An exact value that is nonzero and below the smallest normal magnitude (R96). -/
def FloatFmt.tiny (f : FloatFmt) : Val → Bool
  | .num q => Q.lt q.abs (Q.pow2 f.minExp)
  | _ => false

/-! ### Rounding (R93) -/

/-- Rounds n/d to an integer of the given sign under a mode of RMODE (R75), with whether it was inexact. -/
def roundNat (mode : BitVec 2) (neg : Bool) (n d : Nat) : Nat × Bool :=
  let q := n / d
  let r := n % d
  let up : Bool :=
    if mode = 0 then decide (d < 2 * r) || (decide (2 * r = d) && decide (q % 2 = 1))
    else if mode = 1 then false
    else if mode = 2 then !neg && decide (0 < r)
    else neg && decide (0 < r)
  (if up then q + 1 else q, decide (r ≠ 0))

/-- Rounds |q| / 2^e to an integer. -/
def roundUnit (mode : BitVec 2) (neg : Bool) (q : Q) (e : Int) : Nat × Bool :=
  if 0 ≤ e then roundNat mode neg q.num.natAbs (q.den * 2 ^ e.toNat) else roundNat mode neg (q.num.natAbs * 2 ^ (-e).toNat) q.den

/-- The code of an overflow (R93). -/
def FloatFmt.overflow (f : FloatFmt) (mode : BitVec 2) (sat neg : Bool) : Nat :=
  if sat || f.kind ≠ .ieee then f.maxCode
  else if mode = 0 then f.infCode
  else if mode = 1 then f.maxCode
  else if mode = 2 then (if neg then f.maxCode else f.infCode)
  else (if neg then f.infCode else f.maxCode)

/-- Rounds a nonzero number; tininess is detected after rounding (R93, R94). -/
def FloatFmt.roundNum (f : FloatFmt) (mode : BitVec 2) (sat : Bool) (q : Q) : Nat × Flags :=
  let neg := q.isNeg
  let el := Q.log2 q
  let (m, ix) := roundUnit mode neg q (el - f.mbits)
  let (m, e) := if m = 2 ^ (f.mbits + 1) then (2 ^ f.mbits, el + 1) else (m, el)
  if el < f.minExp then
    let (m', ix') := roundUnit mode neg q (f.minExp - f.mbits)
    (f.sign neg + m', flagIf ix' flagNX ||| flagIf (ix' && decide (e < f.minExp)) flagUF)
  else
    let code := (e + f.bias).toNat * 2 ^ f.mbits + (m - 2 ^ f.mbits)
    if f.maxCode < code then (f.sign neg + f.overflow mode sat neg, flagOF ||| flagNX) else (f.sign neg + code, flagIf ix flagNX)

/-- round_ieee of a value: a NaN gives the canonical NaN and no flag of its own (R91, R93). -/
def roundIeee (f : FloatFmt) (mode : BitVec 2) : Val → Nat × Flags
  | .nan _ _ => (f.canonical, 0)
  | .inf neg => (f.sign neg + f.infCode, 0)
  | .zero neg => (f.sign neg, 0)
  | .num q => f.roundNum mode false q

/-- round_sat of a value into a float format of codes 3 to 7 (R93, R95). A NaN's NV for being signalling is included. -/
def roundSat (f : FloatFmt) : Val → Nat × Flags
  | .nan sig _ => if f.kind = .finite then (0, flagNV) else (f.canonical, flagIf sig flagNV)
  | .inf neg => if f.kind = .ieee then (f.sign neg + f.infCode, 0) else (f.sign neg + f.maxCode, flagNV)
  | .zero neg => (f.sign neg, 0)
  | .num q => f.roundNum 0 true q

/-- Rounding into an integer format from `lo` to `hi` (R108). -/
def roundInteger (mode : BitVec 2) (lo hi : Int) : Val → Int × Flags
  | .nan _ _ => (0, flagNV)
  | .inf neg => (if neg then lo else hi, flagNV)
  | .zero _ => (0, 0)
  | .num q =>
    let (m, ix) := roundUnit mode q.isNeg q 0
    let i : Int := if q.isNeg then -(m : Int) else m
    if i < lo then (lo, flagNV) else if hi < i then (hi, flagNV) else (i, flagIf ix flagNX)

/-- round_ne32: nearest even to .f32, with no flag kept. -/
def roundNe32 (v : Val) : Nat := (roundIeee fmtF32 0 v).1

/-- The value of v rounded to .f32. -/
def toF32 (v : Val) : Val := fmtF32.decode (roundNe32 v)

/-! ### Operations (R111, R112) -/

/-- Flags of operands: NV for a signalling NaN (R94). -/
def operandFlags (l : List Val) : Flags := flagIf (l.any Val.isSignalling) flagNV

/-- The sign of an exact zero sum of unlike signs: + except under round toward −inf. -/
def zeroSum (mode : BitVec 2) (a b : Bool) : Bool := if a = b then a else decide (mode = 3)

/-- a + b, exactly. -/
def addVal (mode : BitVec 2) (a b : Val) : Val × Flags :=
  let f := operandFlags [a, b]
  match a, b with
  | .nan _ _, _ => (.nan false false, f)
  | _, .nan _ _ => (.nan false false, f)
  | .inf x, .inf y => if x = y then (.inf x, f) else (.nan false false, f ||| flagNV)
  | .inf x, _ => (.inf x, f)
  | _, .inf y => (.inf y, f)
  | .zero x, .zero y => (.zero (zeroSum mode x y), f)
  | .zero _, .num q => (.num q, f)
  | .num q, .zero _ => (.num q, f)
  | .num p, .num q => (Val.ofQ (Q.add p q) (decide (mode = 3)), f)

/-- a × b, exactly. -/
def mulVal (a b : Val) : Val × Flags :=
  let f := operandFlags [a, b]
  let s := a.isNeg ^^ b.isNeg
  match a, b with
  | .nan _ _, _ => (.nan false false, f)
  | _, .nan _ _ => (.nan false false, f)
  | .inf _, .zero _ => (.nan false false, f ||| flagNV)
  | .zero _, .inf _ => (.nan false false, f ||| flagNV)
  | .inf _, _ => (.inf s, f)
  | _, .inf _ => (.inf s, f)
  | .zero _, _ => (.zero s, f)
  | _, .zero _ => (.zero s, f)
  | .num p, .num q => (.num (Q.mul p q), f)

/-- a × b + c, exactly. An ∞ × 0 raises NV even when c is a quiet NaN. (DEDUCED: log 22) -/
def fmaVal (mode : BitVec 2) (a b c : Val) : Val × Flags :=
  let (p, f) := mulVal a b
  let (r, g) := addVal mode p c
  (r, f ||| g)

/-- a / b, exactly. -/
def divVal (a b : Val) : Val × Flags :=
  let f := operandFlags [a, b]
  let s := a.isNeg ^^ b.isNeg
  match a, b with
  | .nan _ _, _ => (.nan false false, f)
  | _, .nan _ _ => (.nan false false, f)
  | .inf _, .inf _ => (.nan false false, f ||| flagNV)
  | .zero _, .zero _ => (.nan false false, f ||| flagNV)
  | .inf _, _ => (.inf s, f)
  | _, .inf _ => (.zero s, f)
  | .zero _, _ => (.zero s, f)
  | .num _, .zero _ => (.inf s, f ||| flagDZ)
  | .num p, .num q => (.num (Q.div p q), f)

/-- The square root. -/
def sqrtVal (a : Val) : Val × Flags :=
  match a with
  | .nan sig _ => (.nan false false, flagIf sig flagNV)
  | .inf neg => if neg then (.nan false false, flagNV) else (.inf false, 0)
  | .zero neg => (.zero neg, 0)
  | .num q => if q.isNeg then (.nan false false, flagNV) else (.num q.sqrt, 0)

/-- a ranks below b, −0 below +0 (R112). (DEDUCED: log 12) -/
def ranksBelow (a b : Val) : Bool :=
  match a, b with
  | .zero x, .zero y => x && !y
  | _, _ => Val.lt a b

/-- minimumNumber and maximumNumber (R112). -/
def minMaxVal (max : Bool) (a b : Val) : Val × Flags :=
  let f := operandFlags [a, b]
  match a, b with
  | .nan _ _, .nan _ _ => (.nan false false, f)
  | .nan _ _, _ => (b, f)
  | _, .nan _ _ => (a, f)
  | _, _ => (if ranksBelow a b then (if max then b else a) else (if max then a else b), f)

/-- The comparisons of FCMP (R112). -/
def compareVal (cc : BitVec 2) (a b : Val) : Bool × Flags :=
  let un := a.isNan || b.isNan
  let quiet := operandFlags [a, b]
  if cc = 0 then (!un && Val.eq a b, quiet)
  else if cc = 1 then (!un && Val.lt a b, flagIf un flagNV)
  else if cc = 2 then (!un && !Val.lt b a, flagIf un flagNV)
  else (un, quiet)

end Sys2Proof.Machine
end

