-- ==== Sys2Proof/Config.lean ====
section
/-!
DEFINITION. What the spec leaves open, as constants without a body: no proof can see their values. A free value is taken with the counter
`State.freeCtr`, or from the operands it depends on. Each constant names its entry of the assumption log. The fixed figures of the module stand after them.
-/

namespace Sys2Proof.Config

/-- Which of the translations that a cache may hold an access uses, when a changed entry has not been invalidated (R143; log 6). -/
opaque pickTranslation : Nat → Nat

/-- Which of the values that a halfword of code may still have a fetch returns (R16; log 29). -/
opaque pickFetch : Nat → Nat

/-- Which line a full L1 drops when it allocates another (R154 names no replacement; log 5). -/
opaque pickVictim : Nat → Nat

/-- The set of an 8-way L1 that a line falls into, modulo 128: R5 gives the ways and names no index (log 5). -/
opaque l1Set : Nat → Nat

/-- Which free run of parking entries a home takes (R168-R171 name none; log 7). -/
opaque pickParkingEntry : Nat → Nat

/-- A bit left open by the spec (log 4). -/
opaque freeBit : Nat → Bool

/-- A 64-bit value left open by the spec (log 4). -/
opaque freeWord : Nat → Word

/-- round_ne16 of a value that it is not stated for: a NaN is (0, 0), −∞ is (−1, 0), a negative number is its numerator and denominator (R312; log 4). -/
opaque openHalf : Int → Nat → BitVec 16

/-- Where a ray with an infinite direction lane meets a triangle, as a .f32 code: R345 solves over the reals (log 4). -/
opaque openHit : (ray triangle : Nat) → BitVec 32

/-- The cell of a brick along an axis for a step whose x is no number, infinity times zero in R347 (log 4). -/
opaque openCell : (ray brick axis t : Nat) → Nat

/-- u along an axis of a field leaf, as numerator and denominator, where its quotient is not one of reals: equal or infinite corners in R348 (log 4). -/
opaque openCoord : (ray leaf axis : Nat) → Nat × Nat

/-- The result of a `TEXS` whose ray cone, normal or tangent is degenerate or no number, or which takes no taps, by its operands (R370; log 4). -/
opaque openTexture : (coords frame descriptor : Nat) → BitVec 256

/-- A function of coefficient memory whose directory entry has become bad since the command was issued, at a .f32 code (R125, R312; log 4). -/
opaque openCoef : (function code : Nat) → BitVec 32

/-- A byte of a decoded view in a tile of its surface layout, beyond the blocks of the level, by the compressed bytes and the offset (R368; log 100). -/
opaque openTexel : (compressed offset : Nat) → BitVec 8

/-- The NaN of an illegal ASTC block in HDR, of which its definition fixes no code: the bits beside an exponent of ones (R368; log 100). -/
opaque astcNan : BitVec 16

/-- How an ASTC endpoint is widened where the texel is an 8-bit code, on which editions of the definition differ: true where its 8 bits are repeated, false where 0x80 follows them (R368; log 100). -/
opaque astcRepeats : Bool

/-- An Ed448 signature (RFC 8032) over a digest, which the spec names and does not hold (R376, R377; log 8). -/
opaque ed448 : (key digest : Nat) → BitVec 912

/-- The digests of the two images that nothing in the model has read: those that the module booted from before the state after reset, and the firmware behind a first stage that failed; true for
the first stage (R377; log 2). -/
opaque bootDigest : (stage : Bool) → BitVec 512

/-- The digest of the fuse state and the spare map, whose bytes the spec does not lay out, by the fused key hash, counter and identity and by the spares in use (R377; log 4). -/
opaque fuseDigest : (rootKeyHash rollback identity : Nat) → (spares : List (Nat × Nat)) → BitVec 512

/-- Whether so many pinned tiles would leave the elastic tiles below half their clock under a cap in watts; the spec gives no load figures (R380; log 4). -/
opaque powerRefuses : (pinned cap : Nat) → Bool

/-- HBM of the module in bytes: physical addresses 0 to 0x00BF_FFFF_FFFF (R135). -/
def hbmBytes : Nat := 0xC000000000

/-- Lines of 32 bytes in a core's L1 of 32 KiB (R5, R154). -/
def l1Lines : Nat := 1024

/-- Ways of an L1, and its sets (R5). -/
def l1Ways : Nat := 8
def l1Sets : Nat := 128

/-- Entries of a slice's first-level and last-level translation caches (R5, R141). -/
def firstLevel : Nat := 64
def lastLevel : Nat := 3072

/-- Granules of 256 bytes that a shared-cache slice of 1 MiB holds (R5, R142). -/
def sliceGranules : Nat := 4096

/-- Bytes of the node cache (R5, R333). -/
def nodeCacheBytes : Nat := 131072

/-- Hardware list entries of a slice and of a local-store controller (R168). -/
def sliceEntries : Nat := 512
def storeEntries : Nat := 256

/-- Entries of each engine's command FIFO (R202, R225). -/
def fifoEntries : Nat := 16

/-- Cycles before a refused request is sent again (R171). -/
def resendCycles : Nat := 32

end Sys2Proof.Config
end

