-- ==== Sys2Proof/Syntax.lean ====
section
/-!
DEFINITION. The instruction set of Decgal as an inductive: one constructor for every row of spec/opcode_table.json.
The 248 rows with bits carry their fields as bit vectors of the widths of R17, R18 and R30; the 78 rows without bits are the
steps of the module's other agents (spec/95_what_each_step_holds.md) and carry what the step acts on.
-/

namespace Sys2Proof

/-- The guard field of R21: predicate `p`, and `neg` (the N bit) for execution when the predicate is false. The same two fields are the condition of `BR` (R87). -/
structure Guard where
  p : BitVec 4
  neg : Bool
  deriving DecidableEq, Repr

/-- The mode of a Qorger link port (R373). -/
inductive PortMode where
  | qorger | eth | off
  deriving DecidableEq, Repr

/-- An image with what the management complex checks before it runs it (R376): whether the Ed448 signature over its SHAKE256 digest verifies with the
given key, the hash of that key, and the version held against the rollback counter. -/
structure SignedImage where
  bytes : List (BitVec 8)
  signed : Bool
  keyHash : BitVec 512
  version : Nat
  deriving DecidableEq, Repr

/-- One row that system software writes into the user-queue table (R267). -/
structure QueueRow where
  index : Nat
  ring : BitVec 64
  size : Nat
  notify : BitVec 64
  ctx : Nat
  valid : Bool
  deriving DecidableEq, Repr

/-- An entry of the peer table (R374): the peer module's identity, the ports that lead to it, and pairs of a local context and the context it is bound to there. -/
structure PeerEntry where
  identity : Nat
  ports : List Nat
  contexts : List (Nat × Nat)
  deriving DecidableEq, Repr

/-- The control registers that a default-setting mailbox command writes (R379, R257, R63). -/
structure ControlDefaults where
  rmode : BitVec 2 := 0
  waitlim : BitVec 32 := 0
  retrylim : BitVec 16 := 0
  prio : BitVec 2 := 0
  approx : BitVec 9 := 0
  div0 : Bool := false
  coefbase : BitVec 11 := 0
  trapvec : BitVec 64 := 0
  traprec : BitVec 64 := 0
  fmta : BitVec 64 := 0
  fmtb : BitVec 64 := 0
  fmts : BitVec 64 := 0
  deriving DecidableEq, Repr

/-- Which tray limit of R381 was left. -/
inductive TrayLimit where
  | supply | coolantTemperature | coolantFlow
  deriving DecidableEq, Repr

/-- What step 4 of boot finds (R376): what the host link trained to, with generation 0 for one that did not train; the ports in the modes that the management complex sets, and whether each is
live; the tiles whose cluster's spare takes their place; and the failed units that have no spare, which are reported. -/
structure BringUp where
  pcieGen : Nat
  width : Nat
  cxl : Nat
  ports : List (Nat × PortMode × Bool)
  spared : List Nat
  failed : List Nat
  deriving DecidableEq, Repr

/-- What an event row acts on: the ids, places, values or settings that the row names. `State.input` holds it when the row's step is taken. -/
inductive EventArg where
  /-- The row needs nothing named. -/
  | none
  /-- One id or place: a request, thread, core, tile, die, job, port ... -/
  | one (a : Nat)
  /-- Two of them, in the order the row's meaning names. -/
  | two (a b : Nat)
  /-- Three of them. -/
  | three (a b c : Nat)
  /-- A resume-port answer (R147). -/
  | answer (die tid ctx kind va : Nat)
  /-- A host access (R371, R372): write or read, physical address, size in bytes, data of a write. -/
  | access (write : Bool) (pa size data : Nat)
  /-- A list under one or two places: tiles of a context, members of a group, clusters of a placement list. -/
  | places (a b : Nat) (l : List Nat) (flag : Bool)
  /-- Mesh frame slots of a context (R278). -/
  | slots (die ctx : Nat) (mask : BitVec 64)
  /-- The images that boot reads, and what its training finds (R376). -/
  | images (stage firmware : SignedImage) (bringUp : BringUp)
  /-- One image offered to the mailbox in recovery (R376). -/
  | image (i : SignedImage)
  /-- A user-queue table and its rows (R267). -/
  | queues (die base : Nat) (rows : List QueueRow)
  /-- A row of the peer table (R374). -/
  | peer (n : Nat) (entry : PeerEntry)
  /-- Defaults of a context, or of one core or all cores of a die (R379). -/
  | defaults (die : Nat) (who : Option Nat) (regs : ControlDefaults)
  /-- A port and its mode (R373). -/
  | mode (port : Nat) (m : PortMode)
  /-- A tray limit (R381). -/
  | tray (what : TrayLimit)
  deriving DecidableEq, Repr

/-- Every row of spec/opcode_table.json: first the rows with bits that carry fields, then the three without fields, then
`YIELD`, then the 78 rows without bits. `YIELD`, whose only field is its guard, has a constructor for each of its 31 guards (`Instr.yieldOf` names them by guard):
a type of Lean's compiler holds at most 244 constructors with fields, and the table has 245 such rows. -/
inductive Instr where
  /-- `EXTI` (R34). Loads an extension register with a sign-extended 20-bit immediate. -/
  | exti (x : BitVec 3) (imm : BitVec 20)
  /-- `EXTS` (R34). Loads an extension register with a scalar register plus a sign-extended 16-bit immediate. -/
  | exts (a : BitVec 4) (x : BitVec 3) (imm : BitVec 16)
  /-- `EXTSH` (R34). Shifts an extension register left by 20 bits and adds a 20-bit immediate. -/
  | extsh (x : BitVec 3) (imm : BitVec 20)
  /-- `MOVE` (R34). Copies an extension register to a scalar register. -/
  | move (d : BitVec 4) (x : BitVec 3)
  /-- `ADD` (R78). Adds two scalars modulo 2^64. -/
  | add (gd : Guard) (d : BitVec 4) (a : BitVec 4) (b : BitVec 4)
  /-- `SUB` (R78). Subtracts two scalars modulo 2^64. -/
  | sub (gd : Guard) (d : BitVec 4) (a : BitVec 4) (b : BitVec 4)
  /-- `MUL` (R78). Low 64 bits of the product. -/
  | mul (gd : Guard) (d : BitVec 4) (a : BitVec 4) (b : BitVec 4)
  /-- `MULH` (R78). High 64 bits of the signed product. -/
  | mulh (gd : Guard) (d : BitVec 4) (a : BitVec 4) (b : BitVec 4)
  /-- `MULHN` (R78). High 64 bits of the unsigned product. -/
  | mulhn (gd : Guard) (d : BitVec 4) (a : BitVec 4) (b : BitVec 4)
  /-- `DIV` (R79). Signed division truncating toward zero, with optional DIV0 trap. -/
  | div (gd : Guard) (d : BitVec 4) (a : BitVec 4) (b : BitVec 4)
  /-- `DIVN` (R79). Unsigned division. -/
  | divn (gd : Guard) (d : BitVec 4) (a : BitVec 4) (b : BitVec 4)
  /-- `REM` (R79). Signed remainder with the sign of the dividend. -/
  | rem (gd : Guard) (d : BitVec 4) (a : BitVec 4) (b : BitVec 4)
  /-- `REMN` (R79). Unsigned remainder. -/
  | remn (gd : Guard) (d : BitVec 4) (a : BitVec 4) (b : BitVec 4)
  /-- `AND` (R78). Bitwise AND. -/
  | and (gd : Guard) (d : BitVec 4) (a : BitVec 4) (b : BitVec 4)
  /-- `OR` (R78). Bitwise OR. -/
  | or (gd : Guard) (d : BitVec 4) (a : BitVec 4) (b : BitVec 4)
  /-- `XOR` (R78). Bitwise XOR. -/
  | xor (gd : Guard) (d : BitVec 4) (a : BitVec 4) (b : BitVec 4)
  /-- `ANDN` (R78). AND with the complement of the second source. -/
  | andn (gd : Guard) (d : BitVec 4) (a : BitVec 4) (b : BitVec 4)
  /-- `SHL` (R80). Logical shift left by the low 8 bits of sB. -/
  | shl (gd : Guard) (d : BitVec 4) (a : BitVec 4) (b : BitVec 4)
  /-- `SHR` (R80). Logical shift right. -/
  | shr (gd : Guard) (d : BitVec 4) (a : BitVec 4) (b : BitVec 4)
  /-- `SAR` (R80). Arithmetic shift right. -/
  | sar (gd : Guard) (d : BitVec 4) (a : BitVec 4) (b : BitVec 4)
  /-- `ROL` (R80). Rotate left. -/
  | rol (gd : Guard) (d : BitVec 4) (a : BitVec 4) (b : BitVec 4)
  /-- `MIN` (R78). Signed minimum. -/
  | min (gd : Guard) (d : BitVec 4) (a : BitVec 4) (b : BitVec 4)
  /-- `MAX` (R78). Signed maximum. -/
  | max (gd : Guard) (d : BitVec 4) (a : BitVec 4) (b : BitVec 4)
  /-- `MINN` (R78). Unsigned minimum. -/
  | minn (gd : Guard) (d : BitVec 4) (a : BitVec 4) (b : BitVec 4)
  /-- `MAXN` (R78). Unsigned maximum. -/
  | maxn (gd : Guard) (d : BitVec 4) (a : BitVec 4) (b : BitVec 4)
  /-- `CLZ` (R78). Counts leading zero bits. -/
  | clz (gd : Guard) (d : BitVec 4) (a : BitVec 4)
  /-- `CTZ` (R78). Counts trailing zero bits. -/
  | ctz (gd : Guard) (d : BitVec 4) (a : BitVec 4)
  /-- `POP` (R78). Counts one bits. -/
  | pop (gd : Guard) (d : BitVec 4) (a : BitVec 4)
  /-- `BREV` (R78). Reverses the bits. -/
  | brev (gd : Guard) (d : BitVec 4) (a : BitVec 4)
  /-- `BSWAP` (R78). Reverses the bytes. -/
  | bswap (gd : Guard) (d : BitVec 4) (a : BitVec 4)
  /-- `SEL` (R78). Selects sA or sB by predicate pk. -/
  | sel (gd : Guard) (d : BitVec 4) (a : BitVec 4) (b : BitVec 4) (k : BitVec 4)
  /-- `ADDI` (R81). Adds a sign-extended 12-bit immediate. -/
  | addi (gd : Guard) (d : BitVec 4) (a : BitVec 4) (imm : BitVec 12)
  /-- `ANDI` (R81). ANDs with a sign-extended immediate. -/
  | andi (gd : Guard) (d : BitVec 4) (a : BitVec 4) (imm : BitVec 12)
  /-- `ORI` (R81). ORs with a sign-extended immediate. -/
  | ori (gd : Guard) (d : BitVec 4) (a : BitVec 4) (imm : BitVec 12)
  /-- `XORI` (R81). XORs with a sign-extended immediate. -/
  | xori (gd : Guard) (d : BitVec 4) (a : BitVec 4) (imm : BitVec 12)
  /-- `SHLI` (R81). Logical shift left by an immediate amount. -/
  | shli (gd : Guard) (d : BitVec 4) (a : BitVec 4) (imm : BitVec 8)
  /-- `SHRI` (R81). Logical shift right by an immediate amount. -/
  | shri (gd : Guard) (d : BitVec 4) (a : BitVec 4) (imm : BitVec 8)
  /-- `SARI` (R81). Arithmetic shift right by an immediate amount. -/
  | sari (gd : Guard) (d : BitVec 4) (a : BitVec 4) (imm : BitVec 8)
  /-- `ROLI` (R81). Rotate left by an immediate amount. -/
  | roli (gd : Guard) (d : BitVec 4) (a : BitVec 4) (imm : BitVec 8)
  /-- `CMPI` (R85). Compares a scalar with a sign-extended 8-bit immediate into a predicate. -/
  | cmpi (gd : Guard) (d : BitVec 4) (a : BitVec 4) (cc : BitVec 4) (imm : BitVec 8)
  /-- `PADD` (R83). Lane-wise add on packed scalar lanes. -/
  | padd (gd : Guard) (d : BitVec 4) (a : BitVec 4) (b : BitVec 4) (w : BitVec 2)
  /-- `PSUB` (R83). Lane-wise subtract on packed lanes. -/
  | psub (gd : Guard) (d : BitVec 4) (a : BitVec 4) (b : BitVec 4) (w : BitVec 2)
  /-- `PMUL` (R83). Lane-wise low-half multiply on packed lanes. -/
  | pmul (gd : Guard) (d : BitVec 4) (a : BitVec 4) (b : BitVec 4) (w : BitVec 2)
  /-- `PMIN` (R83). Lane-wise signed or unsigned minimum. -/
  | pmin (gd : Guard) (d : BitVec 4) (a : BitVec 4) (b : BitVec 4) (w : BitVec 2) (ns : BitVec 1)
  /-- `PMAX` (R83). Lane-wise signed or unsigned maximum. -/
  | pmax (gd : Guard) (d : BitVec 4) (a : BitVec 4) (b : BitVec 4) (w : BitVec 2) (ns : BitVec 1)
  /-- `PSHL` (R83). Lane-wise shift left, optionally by a broadcast amount. -/
  | pshl (gd : Guard) (d : BitVec 4) (a : BitVec 4) (b : BitVec 4) (w : BitVec 2) (bc : BitVec 1)
  /-- `PSHR` (R83). Lane-wise logical shift right. -/
  | pshr (gd : Guard) (d : BitVec 4) (a : BitVec 4) (b : BitVec 4) (w : BitVec 2) (bc : BitVec 1)
  /-- `PSAR` (R83). Lane-wise arithmetic shift right. -/
  | psar (gd : Guard) (d : BitVec 4) (a : BitVec 4) (b : BitVec 4) (w : BitVec 2) (bc : BitVec 1)
  /-- `CMP` (R85). Compares two scalars by condition code into a predicate. -/
  | cmp (gd : Guard) (d : BitVec 4) (a : BitVec 4) (b : BitVec 4) (cc : BitVec 4)
  /-- `PAND` (R86). Predicate AND. -/
  | pand (gd : Guard) (d : BitVec 4) (a : BitVec 4) (b : BitVec 4)
  /-- `POR` (R86). Predicate OR. -/
  | por (gd : Guard) (d : BitVec 4) (a : BitVec 4) (b : BitVec 4)
  /-- `PXOR` (R86). Predicate XOR. -/
  | pxor (gd : Guard) (d : BitVec 4) (a : BitVec 4) (b : BitVec 4)
  /-- `PNOT` (R86). Predicate NOT. -/
  | pnot (gd : Guard) (d : BitVec 4) (a : BitVec 4)
  /-- `BR` (R87). Branches relative to PC when the predicate condition holds. -/
  | br (gd : Guard) (off : BitVec 20)
  /-- `JAL` (R88). Jumps PC-relative and writes the return address. -/
  | jal (d : BitVec 4) (off : BitVec 20)
  /-- `JALR` (R88). Jumps to register plus offset and writes the return address. -/
  | jalr (d : BitVec 4) (a : BitVec 4) (off : BitVec 16)
  /-- `GETC` (R74). Reads a control register into a scalar. -/
  | getc (gd : Guard) (d : BitVec 4) (imm : BitVec 12)
  /-- `SETC` (R74). Writes a scalar into a control register. -/
  | setc (gd : Guard) (d : BitVec 4) (imm : BitVec 12)
  /-- `FENCE` (R192). Full fence at the given scope. -/
  | fence (gd : Guard) (sz : BitVec 3)
  /-- `FENCE_ACQ` (R192). Acquire fence at the given scope. -/
  | fenceAcq (gd : Guard) (sz : BitVec 3)
  /-- `FENCE_REL` (R192). Release fence at the given scope. -/
  | fenceRel (gd : Guard) (sz : BitVec 3)
  /-- `FENCE_I` (R193). Instruction-fetch fence discarding prefetched instructions and the L1. -/
  | fenceI (gd : Guard)
  /-- `TRAP` (R292). Takes trap SOFT with ADDR from sA. -/
  | trap (gd : Guard) (a : BitVec 4)
  /-- `BRK` (R292). Takes trap BRK. -/
  | brk (gd : Guard)
  /-- `ERET` (R292). Returns from a trap handler by reading RESUME, S13 and PRED from the record. -/
  | eret (gd : Guard)
  /-- `HALT` (R292). Stops the thread through the Fettler with reason HALT. -/
  | halt (gd : Guard)
  /-- `SPAWN` (R50). Starts a thread on a named core of the tile, reporting failure in a predicate. -/
  | spawn (gd : Guard) (d : BitVec 4) (a : BitVec 4) (b : BitVec 4)
  /-- `SPAWNR` (R50). Starts a thread on the first core of the tile with a free slot, in rotation. -/
  | spawnr (gd : Guard) (d : BitVec 4) (b : BitVec 4)
  /-- `QUIT` (R53). Ends the thread; the slot empties once writebacks have arrived. -/
  | quit (gd : Guard)
  /-- `PARK` (R55). Consumes the wake bit or parks until a wake arrives. -/
  | park (gd : Guard)
  /-- `WAKE` (R56). Sends a wake to the thread named by a TID. -/
  | wake (gd : Guard) (a : BitVec 4)
  /-- `MIGR_A` (R60). Migrates the thread to the core near an address's home slice. -/
  | migrA (gd : Guard) (d : BitVec 4) (a : BitVec 4)
  /-- `MIGR_C` (R60). Migrates the thread to a named global core. -/
  | migrC (gd : Guard) (d : BitVec 4) (a : BitVec 4)
  /-- `SELF` (R58). Writes an identity word of the thread. -/
  | self (gd : Guard) (d : BitVec 4) (k : BitVec 4)
  /-- `PRIO` (R59). Sets the thread's elastic issue priority. -/
  | prio (gd : Guard) (a : BitVec 4)
  /-- `BARC` (R67). Arrives at the crew barrier and waits for the phase. -/
  | barc (gd : Guard)
  /-- `BARF` (R67). Arrives at the flask barrier and waits for the phase. -/
  | barf (gd : Guard)
  /-- `BARA_CREW` (R67). Arrives at the crew barrier without waiting, returning the phase. -/
  | baraCrew (gd : Guard) (d : BitVec 4)
  /-- `BARA_FLASK` (R67). Arrives at the flask barrier without waiting, returning the phase. -/
  | baraFlask (gd : Guard) (d : BitVec 4)
  /-- `BARW_CREW` (R67). Waits for the crew barrier to pass a phase. -/
  | barwCrew (gd : Guard) (a : BitVec 4)
  /-- `BARW_FLASK` (R67). Waits for the flask barrier to pass a phase. -/
  | barwFlask (gd : Guard) (a : BitVec 4)
  /-- `FADD` (R111). Scalar floating add. -/
  | fadd (gd : Guard) (d : BitVec 4) (a : BitVec 4) (b : BitVec 4) (t : BitVec 2)
  /-- `FSUB` (R111). Scalar floating subtract. -/
  | fsub (gd : Guard) (d : BitVec 4) (a : BitVec 4) (b : BitVec 4) (t : BitVec 2)
  /-- `FMUL` (R111). Scalar floating multiply. -/
  | fmul (gd : Guard) (d : BitVec 4) (a : BitVec 4) (b : BitVec 4) (t : BitVec 2)
  /-- `FFMA` (R111). Scalar fused multiply-add with sD as addend. -/
  | ffma (gd : Guard) (d : BitVec 4) (a : BitVec 4) (b : BitVec 4) (t : BitVec 2)
  /-- `FDIV` (R111). Scalar floating divide. -/
  | fdiv (gd : Guard) (d : BitVec 4) (a : BitVec 4) (b : BitVec 4) (t : BitVec 2)
  /-- `FSQRT` (R111). Scalar floating square root. -/
  | fsqrt (gd : Guard) (d : BitVec 4) (a : BitVec 4) (t : BitVec 2)
  /-- `FMIN` (R112). Scalar minimumNumber. -/
  | fmin (gd : Guard) (d : BitVec 4) (a : BitVec 4) (b : BitVec 4) (t : BitVec 2)
  /-- `FMAX` (R112). Scalar maximumNumber. -/
  | fmax (gd : Guard) (d : BitVec 4) (a : BitVec 4) (b : BitVec 4) (t : BitVec 2)
  /-- `FCMP` (R112). Scalar floating compare into a predicate. -/
  | fcmp (gd : Guard) (d : BitVec 4) (a : BitVec 4) (b : BitVec 4) (t : BitVec 2) (cc : BitVec 2)
  /-- `CVT` (R107). Converts between formats, with scale or DBF header from sB. -/
  | cvt (gd : Guard) (d : BitVec 4) (a : BitVec 4) (b : BitVec 4) (dc : BitVec 4) (fn : BitVec 4)
  /-- `FCLASS` (R109). Classifies a floating value into a one-hot mask (destination code equals source code). -/
  | fclass (gd : Guard) (d : BitVec 4) (a : BitVec 4) (fn : BitVec 8)
  /-- `LD` (R151). Zero-extending load of 1 to 8 bytes, plain or acquire. -/
  | ld (gd : Guard) (d : BitVec 4) (a : BitVec 4) (off : BitVec 4) (sz : BitVec 2) (ord : BitVec 1) (la : BitVec 4)
  /-- `LD_SIGNED` (R151). Sign-extending load of 1, 2 or 4 bytes. -/
  | ldSigned (gd : Guard) (d : BitVec 4) (a : BitVec 4) (off : BitVec 4) (sz : BitVec 2) (ord : BitVec 1) (la : BitVec 4)
  /-- `LDP` (R151). 16-byte pair load into an even-odd register pair. -/
  | ldp (gd : Guard) (d : BitVec 4) (a : BitVec 4) (off : BitVec 4) (ord : BitVec 1) (la : BitVec 4)
  /-- `ST` (R151). Store of 1 to 8 bytes, plain or release. -/
  | st (gd : Guard) (d : BitVec 4) (a : BitVec 4) (off : BitVec 4) (sz : BitVec 2) (ord : BitVec 1) (la : BitVec 4)
  /-- `LDW` (R164). Waiting load that needs FULL and leaves it FULL. -/
  | ldw (gd : Guard) (d : BitVec 4) (a : BitVec 4) (off : BitVec 4) (ord : BitVec 2) (la : BitVec 4)
  /-- `LDC` (R164). Consuming load that waits for FULL and empties the word. -/
  | ldc (gd : Guard) (d : BitVec 4) (a : BitVec 4) (off : BitVec 4) (ord : BitVec 2) (la : BitVec 4)
  /-- `LDX_W` (R164). Try form of LDW reporting failure in a predicate. -/
  | ldxW (gd : Guard) (d : BitVec 4) (a : BitVec 4) (pf : BitVec 4) (ord : BitVec 2) (la : BitVec 4)
  /-- `LDX_C` (R164). Try form of LDC reporting failure in a predicate. -/
  | ldxC (gd : Guard) (d : BitVec 4) (a : BitVec 4) (pf : BitVec 4) (ord : BitVec 2) (la : BitVec 4)
  /-- `STF` (R164). Filling store that waits for EMPTY and makes the word FULL. -/
  | stf (gd : Guard) (d : BitVec 4) (a : BitVec 4) (off : BitVec 4) (ord : BitVec 2) (la : BitVec 4)
  /-- `STFX` (R164). Try form of STF reporting failure in a predicate. -/
  | stfx (gd : Guard) (d : BitVec 4) (a : BitVec 4) (pf : BitVec 4) (ord : BitVec 2) (la : BitVec 4)
  /-- `STFF` (R164). Store that makes the word FULL unconditionally. -/
  | stff (gd : Guard) (d : BitVec 4) (a : BitVec 4) (off : BitVec 4) (ord : BitVec 2) (la : BitVec 4)
  /-- `AMO_ADD` (R175). Atomic add returning the old word. -/
  | amoAdd (gd : Guard) (d : BitVec 4) (a : BitVec 4) (b : BitVec 4) (la : BitVec 4)
  /-- `AMO_AND` (R175). Atomic AND. -/
  | amoAnd (gd : Guard) (d : BitVec 4) (a : BitVec 4) (b : BitVec 4) (la : BitVec 4)
  /-- `AMO_OR` (R175). Atomic OR. -/
  | amoOr (gd : Guard) (d : BitVec 4) (a : BitVec 4) (b : BitVec 4) (la : BitVec 4)
  /-- `AMO_XOR` (R175). Atomic XOR. -/
  | amoXor (gd : Guard) (d : BitVec 4) (a : BitVec 4) (b : BitVec 4) (la : BitVec 4)
  /-- `AMO_MIN` (R175). Atomic signed minimum. -/
  | amoMin (gd : Guard) (d : BitVec 4) (a : BitVec 4) (b : BitVec 4) (la : BitVec 4)
  /-- `AMO_MAX` (R175). Atomic signed maximum. -/
  | amoMax (gd : Guard) (d : BitVec 4) (a : BitVec 4) (b : BitVec 4) (la : BitVec 4)
  /-- `AMO_MINN` (R175). Atomic unsigned minimum. -/
  | amoMinn (gd : Guard) (d : BitVec 4) (a : BitVec 4) (b : BitVec 4) (la : BitVec 4)
  /-- `AMO_MAXN` (R175). Atomic unsigned maximum. -/
  | amoMaxn (gd : Guard) (d : BitVec 4) (a : BitVec 4) (b : BitVec 4) (la : BitVec 4)
  /-- `AMO_SWAP` (R175). Atomic swap. -/
  | amoSwap (gd : Guard) (d : BitVec 4) (a : BitVec 4) (b : BitVec 4) (la : BitVec 4)
  /-- `AMO_CAS` (R175). Atomic compare-and-swap against sD at issue. -/
  | amoCas (gd : Guard) (d : BitVec 4) (a : BitVec 4) (b : BitVec 4) (la : BitVec 4)
  /-- `AMO_FADD_F32` (R176). Atomic .f32 add to one lane of a word. -/
  | amoFaddF32 (gd : Guard) (d : BitVec 4) (a : BitVec 4) (b : BitVec 4) (la : BitVec 4)
  /-- `AMO_FADD_BF16` (R176). Atomic .bf16 add to one lane of a word. -/
  | amoFaddBf16 (gd : Guard) (d : BitVec 4) (a : BitVec 4) (b : BitVec 4) (la : BitVec 4)
  /-- `AMO_ORD_ADD` (R177). Ordered atomic integer add performed when its sequence number equals NEXT. -/
  | amoOrdAdd (gd : Guard) (d : BitVec 4) (a : BitVec 4) (b : BitVec 4) (la : BitVec 4)
  /-- `AMO_ORD_FADD` (R177). Ordered atomic .f32 add. -/
  | amoOrdFadd (gd : Guard) (d : BitVec 4) (a : BitVec 4) (b : BitVec 4) (la : BitVec 4)
  /-- `CCTL_PF` (R158). Prefetches a line into the L1. -/
  | cctlPf (gd : Guard) (a : BitVec 4) (la : BitVec 4)
  /-- `CCTL_PFS` (R158). Prefetches a granule into its home slice. -/
  | cctlPfs (gd : Guard) (a : BitVec 4) (la : BitVec 4)
  /-- `CCTL_INV` (R158). Discards the L1 line holding an address. -/
  | cctlInv (gd : Guard) (a : BitVec 4) (la : BitVec 4)
  /-- `CCTL_INVA` (R158). Discards every line of the L1. -/
  | cctlInva (gd : Guard) (la : BitVec 4)
  /-- `CCTL_TINV` (R159). Discards every translation of a page in a context module-wide. -/
  | cctlTinv (gd : Guard) (a : BitVec 4) (b : BitVec 4) (la : BitVec 4)
  /-- `CCTL_TINVC` (R159). Discards every translation of a context module-wide. -/
  | cctlTinvc (gd : Guard) (b : BitVec 4) (la : BitVec 4)
  /-- `FESET` (R165). Sets a word FULL without touching data. -/
  | feset (gd : Guard) (a : BitVec 4) (la : BitVec 4)
  /-- `FECLR` (R165). Sets a word EMPTY without touching data. -/
  | feclr (gd : Guard) (a : BitVec 4) (la : BitVec 4)
  /-- `FETEST` (R165). Tests a word's full/empty state into a predicate. -/
  | fetest (gd : Guard) (d : BitVec 4) (a : BitVec 4) (la : BitVec 4)
  /-- `RMSG` (R181). Sends an active message to a core's runner slot, run in arrival order. -/
  | rmsg (gd : Guard) (a : BitVec 4) (b : BitVec 4) (la : BitVec 4)
  /-- `RMSG_SEQ` (R183). Sends an active message run in sequence-number order. -/
  | rmsgSeq (gd : Guard) (a : BitVec 4) (b : BitVec 4) (la : BitVec 4)
  /-- `VADD` (R117). Vector lane-wise add. -/
  | vadd (gd : Guard) (d : BitVec 4) (a : BitVec 4) (b : BitVec 4) (w : BitVec 2)
  /-- `VSUB` (R117). Vector lane-wise subtract. -/
  | vsub (gd : Guard) (d : BitVec 4) (a : BitVec 4) (b : BitVec 4) (w : BitVec 2)
  /-- `VMUL` (R117). Vector lane-wise multiply. -/
  | vmul (gd : Guard) (d : BitVec 4) (a : BitVec 4) (b : BitVec 4) (w : BitVec 2)
  /-- `VMIN_I` (R117). Vector signed minimum. -/
  | vminI (gd : Guard) (d : BitVec 4) (a : BitVec 4) (b : BitVec 4) (w : BitVec 2)
  /-- `VMAX_I` (R117). Vector signed maximum. -/
  | vmaxI (gd : Guard) (d : BitVec 4) (a : BitVec 4) (b : BitVec 4) (w : BitVec 2)
  /-- `VMIN_N` (R117). Vector unsigned minimum. -/
  | vminN (gd : Guard) (d : BitVec 4) (a : BitVec 4) (b : BitVec 4) (w : BitVec 2)
  /-- `VMAX_N` (R117). Vector unsigned maximum. -/
  | vmaxN (gd : Guard) (d : BitVec 4) (a : BitVec 4) (b : BitVec 4) (w : BitVec 2)
  /-- `VAND` (R117). Vector bitwise AND. -/
  | vand (gd : Guard) (d : BitVec 4) (a : BitVec 4) (b : BitVec 4) (w : BitVec 2)
  /-- `VOR` (R117). Vector bitwise OR. -/
  | vor (gd : Guard) (d : BitVec 4) (a : BitVec 4) (b : BitVec 4) (w : BitVec 2)
  /-- `VXOR` (R117). Vector bitwise XOR. -/
  | vxor (gd : Guard) (d : BitVec 4) (a : BitVec 4) (b : BitVec 4) (w : BitVec 2)
  /-- `VSHL` (R117). Vector shift left. -/
  | vshl (gd : Guard) (d : BitVec 4) (a : BitVec 4) (b : BitVec 4) (w : BitVec 2)
  /-- `VSHR` (R117). Vector logical shift right. -/
  | vshr (gd : Guard) (d : BitVec 4) (a : BitVec 4) (b : BitVec 4) (w : BitVec 2)
  /-- `VSAR` (R117). Vector arithmetic shift right. -/
  | vsar (gd : Guard) (d : BitVec 4) (a : BitVec 4) (b : BitVec 4) (w : BitVec 2)
  /-- `VSEL` (R117). Vector select by the top bit of each lane of vD. -/
  | vsel (gd : Guard) (d : BitVec 4) (a : BitVec 4) (b : BitVec 4) (w : BitVec 2)
  /-- `VCMP` (R117). Vector compare into an all-ones or zero mask. -/
  | vcmp (gd : Guard) (d : BitVec 4) (a : BitVec 4) (b : BitVec 4) (w : BitVec 2) (cc : BitVec 4)
  /-- `VFADD` (R118). Vector floating add. -/
  | vfadd (gd : Guard) (d : BitVec 4) (a : BitVec 4) (b : BitVec 4) (t : BitVec 2)
  /-- `VFSUB` (R118). Vector floating subtract. -/
  | vfsub (gd : Guard) (d : BitVec 4) (a : BitVec 4) (b : BitVec 4) (t : BitVec 2)
  /-- `VFMUL` (R118). Vector floating multiply. -/
  | vfmul (gd : Guard) (d : BitVec 4) (a : BitVec 4) (b : BitVec 4) (t : BitVec 2)
  /-- `VFFMA` (R118). Vector fused multiply-add with vD as addend. -/
  | vffma (gd : Guard) (d : BitVec 4) (a : BitVec 4) (b : BitVec 4) (t : BitVec 2)
  /-- `VFDIV` (R118). Vector floating divide. -/
  | vfdiv (gd : Guard) (d : BitVec 4) (a : BitVec 4) (b : BitVec 4) (t : BitVec 2)
  /-- `VFSQRT` (R118). Vector floating square root. -/
  | vfsqrt (gd : Guard) (d : BitVec 4) (a : BitVec 4) (t : BitVec 2)
  /-- `VFMIN` (R118). Vector minimumNumber. -/
  | vfmin (gd : Guard) (d : BitVec 4) (a : BitVec 4) (b : BitVec 4) (t : BitVec 2)
  /-- `VFMAX` (R118). Vector maximumNumber. -/
  | vfmax (gd : Guard) (d : BitVec 4) (a : BitVec 4) (b : BitVec 4) (t : BitVec 2)
  /-- `VFCMP` (R118). Vector floating compare into a mask. -/
  | vfcmp (gd : Guard) (d : BitVec 4) (a : BitVec 4) (b : BitVec 4) (t : BitVec 2) (cc : BitVec 2)
  /-- `VLD` (R122). Loads a whole vector register from aligned memory. -/
  | vld (gd : Guard) (d : BitVec 4) (a : BitVec 4) (la : BitVec 4)
  /-- `VST` (R122). Stores a whole vector register to aligned memory. -/
  | vst (gd : Guard) (d : BitVec 4) (a : BitVec 4) (la : BitVec 4)
  /-- `VLDS` (R122). Strided vector load; FN4 2-5 gives the lane width. -/
  | vlds (gd : Guard) (d : BitVec 4) (a : BitVec 4) (b : BitVec 4) (fn : BitVec 4) (la : BitVec 4)
  /-- `VGATH` (R122). Indexed vector gather; FN4 6-9 gives the lane width. -/
  | vgath (gd : Guard) (d : BitVec 4) (a : BitVec 4) (b : BitVec 4) (fn : BitVec 4) (la : BitVec 4)
  /-- `VSCAT` (R122). Indexed vector scatter; FN4 10-13 gives the lane width. -/
  | vscat (gd : Guard) (d : BitVec 4) (a : BitVec 4) (b : BitVec 4) (fn : BitVec 4) (la : BitVec 4)
  /-- `VLONG` (R114). Attaches the tile's long-vector unit, zeroing w0-w15. -/
  | vlong (gd : Guard) (d : BitVec 4)
  /-- `VSHORT` (R114). Releases the long-vector unit after outstanding w writes land. -/
  | vshort (gd : Guard)
  /-- `VFN_EXP2` (R129). Table-driven exp2 per lane. -/
  | vfnExp2 (gd : Guard) (d : BitVec 4) (a : BitVec 4) (t : BitVec 4)
  /-- `VFN_LOG2` (R129). Table-driven log2 per lane. -/
  | vfnLog2 (gd : Guard) (d : BitVec 4) (a : BitVec 4) (t : BitVec 4)
  /-- `VFN_RCP` (R129). Table-driven reciprocal per lane. -/
  | vfnRcp (gd : Guard) (d : BitVec 4) (a : BitVec 4) (t : BitVec 4)
  /-- `VFN_RSQ` (R129). Table-driven reciprocal square root per lane. -/
  | vfnRsq (gd : Guard) (d : BitVec 4) (a : BitVec 4) (t : BitVec 4)
  /-- `VFN_SIN` (R129). Table-driven sin(2πx) per lane. -/
  | vfnSin (gd : Guard) (d : BitVec 4) (a : BitVec 4) (t : BitVec 4)
  /-- `VFN_COS` (R129). Table-driven cos(2πx) per lane. -/
  | vfnCos (gd : Guard) (d : BitVec 4) (a : BitVec 4) (t : BitVec 4)
  /-- `COEFLD` (R126). Copies memory into the tile's coefficient memory. -/
  | coefld (gd : Guard) (a : BitVec 4) (b : BitVec 4) (la : BitVec 4)
  /-- `VRED_ADD` (R120). Pairwise integer sum reduction to a scalar. -/
  | vredAdd (gd : Guard) (d : BitVec 4) (a : BitVec 4) (dc : BitVec 4)
  /-- `VRED_MIN_I` (R120). Signed minimum reduction. -/
  | vredMinI (gd : Guard) (d : BitVec 4) (a : BitVec 4) (dc : BitVec 4)
  /-- `VRED_MAX_I` (R120). Signed maximum reduction. -/
  | vredMaxI (gd : Guard) (d : BitVec 4) (a : BitVec 4) (dc : BitVec 4)
  /-- `VRED_MIN_N` (R120). Unsigned minimum reduction. -/
  | vredMinN (gd : Guard) (d : BitVec 4) (a : BitVec 4) (dc : BitVec 4)
  /-- `VRED_MAX_N` (R120). Unsigned maximum reduction. -/
  | vredMaxN (gd : Guard) (d : BitVec 4) (a : BitVec 4) (dc : BitVec 4)
  /-- `VRED_FADD` (R120). Pairwise floating sum reduction. -/
  | vredFadd (gd : Guard) (d : BitVec 4) (a : BitVec 4) (dc : BitVec 4)
  /-- `VRED_FMIN` (R120). Floating minimum reduction. -/
  | vredFmin (gd : Guard) (d : BitVec 4) (a : BitVec 4) (dc : BitVec 4)
  /-- `VRED_FMAX` (R120). Floating maximum reduction. -/
  | vredFmax (gd : Guard) (d : BitVec 4) (a : BitVec 4) (dc : BitVec 4)
  /-- `VBCAST` (R119). Broadcasts a scalar to every lane. -/
  | vbcast (gd : Guard) (d : BitVec 4) (a : BitVec 4) (w : BitVec 2)
  /-- `VPERM` (R119). Permutes lanes by an index vector. -/
  | vperm (gd : Guard) (d : BitVec 4) (a : BitVec 4) (b : BitVec 4) (w : BitVec 2)
  /-- `MLS` (R207). Loads a dense plate into the shadow plane. -/
  | mls (gd : Guard) (d : BitVec 4) (a : BitVec 4) (b : BitVec 4) (la : BitVec 4)
  /-- `MLSS` (R207). Loads a 4-of-8 sparse plate with masks into the shadow plane. -/
  | mlss (gd : Guard) (d : BitVec 4) (a : BitVec 4) (b : BitVec 4) (la : BitVec 4)
  /-- `MMA` (R209). Streams local-window activation rows through the active plate into accumulators. -/
  | mma (gd : Guard) (d : BitVec 4) (a : BitVec 4) (b : BitVec 4) (la : BitVec 4)
  /-- `MMA_M` (R209). Streams shared-space activation rows through the active plate. -/
  | mmaM (gd : Guard) (d : BitVec 4) (a : BitVec 4) (b : BitVec 4) (la : BitVec 4)
  /-- `MMAZ` (R209). Zeroes the accumulator rows, then streams local rows. -/
  | mmaz (gd : Guard) (d : BitVec 4) (a : BitVec 4) (b : BitVec 4) (la : BitVec 4)
  /-- `MMAZ_M` (R209). Zeroes the accumulator rows, then streams shared-space rows. -/
  | mmazM (gd : Guard) (d : BitVec 4) (a : BitVec 4) (b : BitVec 4) (la : BitVec 4)
  /-- `VPRUNE48` (R220). Prunes four groups of eight to 4-of-8, writing packed values and masks. -/
  | vprune48 (gd : Guard) (d : BitVec 4) (a : BitVec 4) (b : BitVec 4) (t : BitVec 2)
  /-- `VSDOT48` (R221). Dot product of a pruned vector with a dense one. -/
  | vsdot48 (gd : Guard) (d : BitVec 4) (a : BitVec 4) (b : BitVec 4) (t : BitVec 2)
  /-- `MSWAP` (R208). Exchanges the active and shadow planes at its turn. -/
  | mswap (gd : Guard) (la : BitVec 4)
  /-- `MCFG` (R216). Writes APPROX and sets the array's error monitor. -/
  | mcfg (gd : Guard) (a : BitVec 4) (la : BitVec 4)
  /-- `MRD` (R211). Writes accumulator rows to the local window. -/
  | mrd (gd : Guard) (d : BitVec 4) (a : BitVec 4) (b : BitVec 4) (la : BitVec 4)
  /-- `MRD_Z` (R211). Writes accumulator rows, then zeroes them. -/
  | mrdZ (gd : Guard) (d : BitVec 4) (a : BitVec 4) (b : BitVec 4) (la : BitVec 4)
  /-- `MPOP` (R212). Returns one accumulator value after earlier commands. -/
  | mpop (gd : Guard) (d : BitVec 4) (a : BitVec 4) (la : BitVec 4)
  /-- `MDRAIN` (R213). Completes when every earlier array command has completed. -/
  | mdrain (gd : Guard) (la : BitVec 4)
  /-- `MMON` (R217). Returns a monitor counter. -/
  | mmon (gd : Guard) (d : BitVec 4) (k : BitVec 4) (la : BitVec 4)
  /-- `CPY` (R232). Pushes a strided copy command to the copy engine. -/
  | cpy (gd : Guard) (d : BitVec 4) (la : BitVec 4)
  /-- `CPYM` (R233). Pushes a copy multicast to several tiles of the cluster. -/
  | cpym (gd : Guard) (d : BitVec 4) (b : BitVec 4) (la : BitVec 4)
  /-- `CPYR` (R235). Pushes an additive copy into a peer module's memory. -/
  | cpyr (gd : Guard) (d : BitVec 4) (a : BitVec 4) (la : BitVec 4)
  /-- `CNV` (R239). Pushes a format conversion command to the conversion engine. -/
  | cnv (gd : Guard) (d : BitVec 4) (la : BitVec 4)
  /-- `AMAXRS` (R241). Atomically reads an amax word and resets it to 0. -/
  | amaxrs (gd : Guard) (d : BitVec 4) (a : BitVec 4) (la : BitVec 4)
  /-- `SSCAN` (R242). Pushes a state-space scan into the matrix array's FIFO. -/
  | sscan (gd : Guard) (d : BitVec 4) (a : BitVec 4) (b : BitVec 4) (la : BitVec 4)
  /-- `SEMUP` (R250). Adds to a tile semaphore and wakes waiters. -/
  | semup (gd : Guard) (b : BitVec 4) (k : BitVec 4)
  /-- `SEMDN` (R250). Takes a unit if available, never waits. -/
  | semdn (gd : Guard) (d : BitVec 4) (k : BitVec 4)
  /-- `SEMW` (R250). Takes a unit or parks on the semaphore. -/
  | semw (gd : Guard) (k : BitVec 4)
  /-- `QPUSH` (R254). Appends a word to a tile queue. -/
  | qpush (gd : Guard) (d : BitVec 4) (b : BitVec 4) (q : BitVec 4)
  /-- `QPOP` (R254). Removes and returns the head of a tile queue. -/
  | qpop (gd : Guard) (d : BitVec 4) (b : BitVec 4) (q : BitVec 4)
  /-- `QPEEK` (R254). Returns the head of a tile queue without removing it. -/
  | qpeek (gd : Guard) (d : BitVec 4) (b : BitVec 4) (q : BitVec 4)
  /-- `WQASK` (R265). Asks a work counter for an item, answered by a fill. -/
  | wqask (gd : Guard) (a : BitVec 4) (b : BitVec 4) (la : BitVec 4)
  /-- `WQPUT` (R265). Raises a work counter's LIMIT and optionally closes it. -/
  | wqput (gd : Guard) (a : BitVec 4) (b : BitVec 4) (la : BitVec 4)
  /-- `LAUNCH` (R260). Launches a child grid from a packet to a die's device launch queue. -/
  | launch (gd : Guard) (a : BitVec 4) (b : BitVec 4) (la : BitVec 4)
  /-- `JOBSIG` (R263). Arms a signal word filled when a job completes. -/
  | jobsig (gd : Guard) (d : BitVec 4) (a : BitVec 4) (b : BitVec 4) (la : BitVec 4)
  /-- `CYC` (R281). Reads a cycle count, arithmetic count, frame slot or stretch count. -/
  | cyc (gd : Guard) (d : BitVec 4) (k : BitVec 4)
  /-- `TFENCE_OPEN` (R282). Opens a counted region, clearing TIMING.BROKEN. -/
  | tfenceOpen (gd : Guard)
  /-- `TFENCE_CLOSE` (R282). Closes a counted region, reporting whether the count broke. -/
  | tfenceClose (gd : Guard) (d : BitVec 4)
  /-- `DIGEST` (R283). Forms a SHAKE256 digest over a table of regions. -/
  | digest (gd : Guard) (d : BitVec 4) (a : BitVec 4) (b : BitVec 4) (la : BitVec 4)
  /-- `STEPB` (R284). Compares a step digest across the replica group. -/
  | stepb (gd : Guard) (d : BitVec 4) (a : BitVec 4) (b : BitVec 4) (la : BitVec 4)
  /-- `RLINIT` (R320). Initialises an interval list header. -/
  | rlinit (gd : Guard) (a : BitVec 4) (b : BitVec 4) (la : BitVec 4)
  /-- `RLINS` (R321). Inserts an answer record into an interval list. -/
  | rlins (gd : Guard) (d : BitVec 4) (a : BitVec 4) (b : BitVec 4) (la : BitVec 4)
  /-- `RLGET` (R322). Reads one record of a list. -/
  | rlget (gd : Guard) (d : BitVec 4) (a : BitVec 4) (b : BitVec 4) (la : BitVec 4)
  /-- `RLSTAT` (R322). Reads one doubleword of a list header. -/
  | rlstat (gd : Guard) (d : BitVec 4) (a : BitVec 4) (k : BitVec 4) (la : BitVec 4)
  /-- `RLFIN` (R323). Finishes a list and composites its records front to back. -/
  | rlfin (gd : Guard) (d : BitVec 4) (a : BitVec 4) (la : BitVec 4)
  /-- `TRVGO` (R326). Starts a traversal of a scene structure for a ray. -/
  | trvgo (gd : Guard) (d : BitVec 4) (a : BitVec 4) (b : BitVec 4) (la : BitVec 4)
  /-- `TRVBUD` (R332). Sets a list's node-visit budget. -/
  | trvbud (gd : Guard) (a : BitVec 4) (b : BitVec 4) (la : BitVec 4)
  /-- `TRI` (R345). Intersects a ray with a triangle into a zero-length record. -/
  | tri (gd : Guard) (d : BitVec 4) (a : BitVec 4) (b : BitVec 4) (pf : BitVec 4)
  /-- `SPLAT` (R346). Answers a ray against a Gaussian splat. -/
  | splat (gd : Guard) (d : BitVec 4) (a : BitVec 4) (b : BitVec 4) (pf : BitVec 4)
  /-- `VOLSEG` (R347). Marches a ray through a density brick. -/
  | volseg (gd : Guard) (d : BitVec 4) (a : BitVec 4) (b : BitVec 4) (pf : BitVec 4)
  /-- `DKL` (R348). Looks up a neural field's features and sends a row command to the array. -/
  | dkl (gd : Guard) (d : BitVec 4) (a : BitVec 4) (b : BitVec 4) (pf : BitVec 4)
  /-- `GCTX` (R360). Ends the open group and binds a graphics context, draw and group. -/
  | gctx (gd : Guard) (a : BitVec 4) (b : BitVec 4) (la : BitVec 4)
  /-- `RASTRI` (R362). Pushes a screen-space triangle to the raster unit. -/
  | rastri (gd : Guard) (b : BitVec 4) (la : BitVec 4)
  /-- `RASFRAG` (R363). Pops a fragment or reports the group drained. -/
  | rasfrag (gd : Guard) (d : BitVec 4) (b : BitVec 4) (la : BitVec 4)
  /-- `BLEND` (R364). Blends a colour into a surface pixel through the reorder window. -/
  | blend (gd : Guard) (a : BitVec 4) (b : BitVec 4) (la : BitVec 4)
  /-- `TEXS` (R370). Anisotropic texture sample from a ray cone. -/
  | texs (gd : Guard) (d : BitVec 4) (a : BitVec 4) (b : BitVec 4) (la : BitVec 4)
  /-- `TEXL` (R370). Bilinear texture sample at a given level. -/
  | texl (gd : Guard) (d : BitVec 4) (a : BitVec 4) (b : BitVec 4) (la : BitVec 4)
  /-- `SURFREL` (R367). Releases a surface once all earlier blends on it are performed. -/
  | surfrel (gd : Guard) (a : BitVec 4) (la : BitVec 4)
  /-- `SURFACQ` (R367). Acquires a surface at device scope. -/
  | surfacq (gd : Guard) (a : BitVec 4) (la : BitVec 4)
  /-- `C_MOV` (R89). 16-bit register move. -/
  | cMov (d : BitVec 4) (a : BitVec 4)
  /-- `C_ADD` (R89). 16-bit add into sD. -/
  | cAdd (d : BitVec 4) (a : BitVec 4)
  /-- `C_SUB` (R89). 16-bit subtract from sD. -/
  | cSub (d : BitVec 4) (a : BitVec 4)
  /-- `C_ADDI` (R89). 16-bit add of a signed 7-bit immediate. -/
  | cAddi (d : BitVec 4) (imm : BitVec 7)
  /-- `C_LDI` (R89). 16-bit load of a signed 7-bit immediate. -/
  | cLdi (d : BitVec 4) (imm : BitVec 7)
  /-- `C_LD` (R89). 16-bit 8-byte load from base s8-s15. -/
  | cLd (d : BitVec 4) (a : BitVec 3) (off : BitVec 3)
  /-- `C_ST` (R89). 16-bit 8-byte store to base s8-s15. -/
  | cSt (d : BitVec 4) (a : BitVec 3) (off : BitVec 3)
  /-- `C_BR` (R89). 16-bit conditional branch. -/
  | cBr (pf : BitVec 4) (off : BitVec 7)
  /-- `C_J` (R89). 16-bit jump. -/
  | cJ (off : BitVec 11)
  /-- `C_CMP` (R89). 16-bit compare with zero into a predicate. -/
  | cCmp (d : BitVec 4) (a : BitVec 4) (cc : BitVec 3)
  /-- `C_SHLI` (R89). 16-bit shift left by an immediate. -/
  | cShli (d : BitVec 4) (imm : BitVec 7)
  /-- `C_PUSH` (R89). 16-bit store below the stack pointer. -/
  | cPush (d : BitVec 4) (k : BitVec 7)
  /-- `C_POP` (R89). 16-bit load from below the stack pointer. -/
  | cPop (d : BitVec 4) (k : BitVec 7)
  /-- `C_NOP` (R89). 16-bit no-operation. -/
  | cNop
  /-- `C_YIELD` (R89). 16-bit YIELD. -/
  | cYield
  /-- `C_QUIT` (R89). 16-bit QUIT. -/
  | cQuit
  /-- `YIELD` (R54), unguarded. -/
  | yield
  /-- `YIELD` (R54), under the guard p1. -/
  | yieldIf1
  /-- `YIELD` (R54), under the guard p2. -/
  | yieldIf2
  /-- `YIELD` (R54), under the guard p3. -/
  | yieldIf3
  /-- `YIELD` (R54), under the guard p4. -/
  | yieldIf4
  /-- `YIELD` (R54), under the guard p5. -/
  | yieldIf5
  /-- `YIELD` (R54), under the guard p6. -/
  | yieldIf6
  /-- `YIELD` (R54), under the guard p7. -/
  | yieldIf7
  /-- `YIELD` (R54), under the guard p8. -/
  | yieldIf8
  /-- `YIELD` (R54), under the guard p9. -/
  | yieldIf9
  /-- `YIELD` (R54), under the guard p10. -/
  | yieldIf10
  /-- `YIELD` (R54), under the guard p11. -/
  | yieldIf11
  /-- `YIELD` (R54), under the guard p12. -/
  | yieldIf12
  /-- `YIELD` (R54), under the guard p13. -/
  | yieldIf13
  /-- `YIELD` (R54), under the guard p14. -/
  | yieldIf14
  /-- `YIELD` (R54), under the guard p15. -/
  | yieldIf15
  /-- `YIELD` (R54), under the guard !p1. -/
  | yieldUnless1
  /-- `YIELD` (R54), under the guard !p2. -/
  | yieldUnless2
  /-- `YIELD` (R54), under the guard !p3. -/
  | yieldUnless3
  /-- `YIELD` (R54), under the guard !p4. -/
  | yieldUnless4
  /-- `YIELD` (R54), under the guard !p5. -/
  | yieldUnless5
  /-- `YIELD` (R54), under the guard !p6. -/
  | yieldUnless6
  /-- `YIELD` (R54), under the guard !p7. -/
  | yieldUnless7
  /-- `YIELD` (R54), under the guard !p8. -/
  | yieldUnless8
  /-- `YIELD` (R54), under the guard !p9. -/
  | yieldUnless9
  /-- `YIELD` (R54), under the guard !p10. -/
  | yieldUnless10
  /-- `YIELD` (R54), under the guard !p11. -/
  | yieldUnless11
  /-- `YIELD` (R54), under the guard !p12. -/
  | yieldUnless12
  /-- `YIELD` (R54), under the guard !p13. -/
  | yieldUnless13
  /-- `YIELD` (R54), under the guard !p14. -/
  | yieldUnless14
  /-- `YIELD` (R54), under the guard !p15. -/
  | yieldUnless15
  /-- `REQUEST_ARRIVAL` (R164). A memory, full/empty or atomic request arrives at its home and is performed, enlisted or held. Acts on: (r : Nat), or (r i : Nat) for one of the accesses that the request makes apart (R123, R127, R350). -/
  | requestArrival
  /-- `PUT` (R174). The core's atomic unit puts the new value back, ending the reservation and presenting held requests. Acts on: (r : Nat). -/
  | put
  /-- `WRITEBACK` (R23). A long-latency operation completes and writes its destinations, readying a waiting thread. Acts on: (k op : Nat). -/
  | writeback
  /-- `WAITLIM_EXPIRY` (R172). A wait reaches WAITLIM and the core sends a withdraw. Acts on: (k op : Nat) for an operation in flight, (k : Nat) for a thread that waits at an instruction. -/
  | waitlimExpiry
  /-- `WITHDRAW` (R172). A withdraw at the home removes an unserved waiter, leading to WAIT_EXPIRED. Acts on: (r : Nat). -/
  | withdraw
  /-- `RESEND` (R171). A refused request is resent after 32 cycles, counting against RETRYLIM. Acts on: (r : Nat). -/
  | resend
  /-- `TRAP_ENTRY` (R286). A trap is taken at an issue point: record written, handler entered, or thread stopped if undeliverable. Acts on: (k : Nat). -/
  | trapEntry
  /-- `WAKE_ARRIVAL` (R56). A wake reaches its slot and wakes the thread or sets its wake bit. Acts on: (i : Nat). -/
  | wakeArrival
  /-- `MIGRATION_DEPARTURE` (R60). After draining, a leaving thread packs its migration packet and empties its slot. Acts on: (k : Nat). -/
  | migrationDeparture
  /-- `RUN_QUEUE_ARRIVAL` (R61). A migrating context arrives at the target core's run queue or parking area. Acts on: (i : Nat). -/
  | runQueueArrival
  /-- `RUN_QUEUE_ENTRY` (R61). A freed slot is taken by the oldest eligible queued context. Acts on: (core : Nat). -/
  | runQueueEntry
  /-- `QUIT_SLOT_EMPTY` (R53). Once a quitting thread's writebacks have arrived its slot empties and it leaves its crew and flask. Acts on: (k : Nat). -/
  | quitSlotEmpty
  /-- `MESSAGE_ARRIVAL` (R183). An active message is accepted into a runner queue or the parking area. Acts on: (i : Nat). -/
  | messageArrival
  /-- `HANDLER_START` (R63). The runner slot starts the next queued message's handler. Acts on: (core : Nat). -/
  | handlerStart
  /-- `RESUME_NONE` (R147). Resume-port answer with ACTION 0: rereads CONS and releases held faults. Acts on: (die : Nat). -/
  | resumeNone
  /-- `RESUME_REISSUE` (R147). Resume-port answer reissuing the matching faulting accesses. Acts on: (die tid ctx kind va : Nat). -/
  | resumeReissue
  /-- `RESUME_CONVERT` (R147). Resume-port answer converting the matching faults to deferred PROTECTION. Acts on: (die tid ctx kind va : Nat). -/
  | resumeConvert
  /-- `REGISTER_WRITE` (R147). A write to a register with no row of its own, including narrow resume-port writes completing as Unsupported Request. Acts on: (die off width : Nat). -/
  | registerWrite
  /-- `ENGINE_ACCEPTANCE` (R225). An engine command waiting for FIFO room is accepted. Acts on: (k op : Nat). -/
  | engineAcceptance
  /-- `COPY_EXECUTION` (R232). The copy engine performs a copy command row by row and writes its token. Acts on: (tile : Nat). -/
  | copyExecution
  /-- `CONVERSION_EXECUTION` (R239). The conversion engine converts a command's rows and writes scales and token. Acts on: (tile : Nat). -/
  | conversionExecution
  /-- `SSCAN_EXECUTION` (R243). The state-space block runs a scan chunk by chunk and writes the token. Acts on: (tile : Nat). -/
  | sscanExecution
  /-- `ARRAY_COMMAND` (R202). The matrix array performs the next accepted command wholly in acceptance order. Acts on: (tile : Nat). -/
  | arrayCommand
  /-- `DECKLE_ROW_COMMAND` (R349). The array performs a DKL row command and returns the NETWORK record. Acts on: (tile : Nat), or (tile i : Nat) for one word of the row's head alone (R350). -/
  | deckleRowCommand
  /-- `PACKET_TAKE` (R268). A hardware queue slot's notify LDC is served and it takes packets up to the write index. Acts on: (die slot : Nat). -/
  | packetTake
  /-- `PACKET_ACCEPTANCE` (R256). The Tundish accepts a launch packet, checks it and reads FMTP, or rejects it. Acts on: (die : Nat). -/
  | packetAcceptance
  /-- `FLASK_PLACEMENT` (R258). The Tundish places a waiting flask on a cluster when it fits. Acts on: (die grid cluster : Nat). -/
  | flaskPlacement
  /-- `GRID_COMPLETION` (R261). A grid completes, decrementing its parent's CHILDREN and its job's COUNT. Acts on: (grid : Nat). -/
  | gridCompletion
  /-- `WQASK_ARRIVAL` (R265). An ask reaches the Tundish and is answered or held pending. Acts on: (r : Nat). -/
  | wqaskArrival
  /-- `WQPUT_ARRIVAL` (R265). A put reaches the Tundish, raising LIMIT and serving pending asks. Acts on: (r : Nat). -/
  | wqputArrival
  /-- `TIME_SLICE_EXPIRY` (R268). The queue scheduler's time slice ends and it rotates queues onto slots. Acts on: (die : Nat). -/
  | timeSliceExpiry
  /-- `NOTIFY_WRITE` (R372). A host 8-byte write to BAR2 fills a user queue's notify word at system scope. Acts on: (off width data : Nat). -/
  | notifyWrite
  /-- `HOST_APERTURE_ACCESS` (R372). A host access through BAR4 to HBM by physical address. Acts on: (write : Bool) (pa size data : Nat). -/
  | hostApertureAccess
  /-- `DROOP_STRETCH` (R274). A droop detector lengthens an elastic core cycle. Acts on: (tile : Nat). -/
  | droopStretch
  /-- `DETECTOR_TRIP` (R275). A detector trips on a pinned tile, stretching a cycle and setting BROKEN in every thread. Acts on: (tile : Nat). -/
  | detectorTrip
  /-- `PEER_DIGEST_ARRIVAL` (R284). Replica digests arrive and the step is decided agreed, rerun or halt. Acts on: (job member digest : Nat). -/
  | peerDigestArrival
  /-- `MEMBER_TIMEOUT` (R284). A replica member issues no STEPB within the timeout and is lost. Acts on: (job member : Nat). -/
  | memberTimeout
  /-- `SPILL` (R296). Spill-port request stopping a thread and writing its save area. Acts on: (die tid : Nat). -/
  | spill
  /-- `RESTORE` (R300). Spill-port request reloading a spilled thread into its held slot. Acts on: (die tid : Nat). -/
  | restore
  /-- `DISCARD` (R295). Spill-port request emptying a spilled thread's slot. Acts on: (die tid : Nat). -/
  | discard
  /-- `WATCHDOG_EXPIRY` (R301). A flask's idle count reaches WDLIM and every member is stopped. Acts on: (flask : Nat). -/
  | watchdogExpiry
  /-- `TILE_SPARING` (R305). The management complex moves a failing tile onto its cluster's spare. Acts on: (tile : Nat). -/
  | tileSparing
  /-- `COUCH_PERFORM` (R324). The Couch performs the next list command on a list whole. Acts on: (tile i : Nat). -/
  | couchPerform
  /-- `TRAVERSAL_BEGIN` (R327). An accepted traversal begins once the list's previous traversal has ended. Acts on: (tile i : Nat). -/
  | traversalBegin
  /-- `NODE_VISIT` (R329). The Sprue pops a stack entry, prunes or visits the node and emits leaves. Acts on: (tile i : Nat). -/
  | nodeVisit
  /-- `RING_ENTRY_WRITE` (R330). The Sprue fills a leaf-ring entry once its word 0 is EMPTY. Acts on: (tile i : Nat). -/
  | ringEntryWrite
  /-- `RASTERIZE` (R362). The raster unit rasterizes a pushed triangle into the group's fragment queue. Acts on: (k : Nat). -/
  | rasterize
  /-- `BLEND_PERFORM` (R365). A held blend is performed at the granule's home in group order. Acts on: (i : Nat). -/
  | blendPerform
  /-- `LINK_TRAINING` (R371). The host link trains to a PCIe generation and width and CXL mode. Acts on: (gen width cxl : Nat). -/
  | linkTraining
  /-- `PORT_FAILURE` (R375). A Qorger port fails and unacknowledged flits are resent over another port. Acts on: (port : Nat). -/
  | portFailure
  /-- `POWER_ON` (R376). The management complex boots, verifies firmware and brings up the dies. Acts on: (stage firmware : SignedImage). -/
  | powerOn
  /-- `SIGNED_IMAGE` (R376). In recovery the mailbox accepts a signed image. Acts on: (image : SignedImage). -/
  | signedImage
  /-- `ATTESTATION_REQUEST` (R377). Returns a signed attestation report for a nonce. Acts on: (nonce : Nat). -/
  | attestationRequest
  /-- `PLACE_CONTEXT_TABLE` (R135). Mailbox command placing a die's context table. Acts on: (die base : Nat). -/
  | placeContextTable
  /-- `PLACE_FAULT_RING` (R147). Mailbox command placing the fault ring and its control block. Acts on: (die base : Nat). -/
  | placeFaultRing
  /-- `PLACE_PARKING_AREA` (R169). Mailbox command placing a die's parking area. Acts on: (die base entries : Nat). -/
  | placeParkingArea
  /-- `PLACE_QUEUE_TABLE` (R267). Mailbox command placing and filling the user queue table. Acts on: (die base : Nat) (rows : List QueueRow). -/
  | placeQueueTable
  /-- `SET_TIME_SLICE` (R268). Mailbox command setting the queue scheduler's time slice. Acts on: (die cycles : Nat). -/
  | setTimeSlice
  /-- `PLACE_SAVE_AREAS` (R295). Mailbox command placing SABASE. Acts on: (die base : Nat). -/
  | placeSaveAreas
  /-- `PLACE_DECODE_TABLE` (R368). Mailbox command placing or rewriting the texture decode table. Acts on: (die base : Nat). -/
  | placeDecodeTable
  /-- `ASSIGN_FIXED_TIMING_TILES` (R275). Mailbox command assigning tiles to a context for fixed timing. Acts on: (die ctx : Nat) (tiles : List Nat) (fixed : Bool). -/
  | assignFixedTimingTiles
  /-- `RESERVE_FRAME_SLOTS` (R278). Mailbox command reserving mesh frame slots to a context. Acts on: (die ctx : Nat) (slots : BitVec 64). -/
  | reserveFrameSlots
  /-- `SET_WDLIM` (R301). Mailbox command setting a context's watchdog limit. Acts on: (die ctx limit : Nat). -/
  | setWdlim
  /-- `FORM_REPLICA_GROUP` (R284). Mailbox command forming a replica group and timeout. Acts on: (job : Nat) (members : List Nat) (timeout : Nat). -/
  | formReplicaGroup
  /-- `SET_PEER_TABLE` (R374). Mailbox command writing the peer table. Acts on: (peer : Nat) (entry : PeerEntry). -/
  | setPeerTable
  /-- `SET_CONTEXT_DEFAULTS` (R257). Mailbox command setting a context's default control registers. Acts on: (die ctx : Nat) (regs : ControlDefaults). -/
  | setContextDefaults
  /-- `SET_RUNNER_DEFAULTS` (R63). Mailbox command setting runner-slot defaults of a core or die. Acts on: (die : Nat) (core : Option Nat) (regs : ControlDefaults). -/
  | setRunnerDefaults
  /-- `SET_PLACEMENT_LIST` (R270). Mailbox command setting a context's DET placement list. Acts on: (die ctx : Nat) (clusters : List Nat). -/
  | setPlacementList
  /-- `FATAL_TRAP_REPORT` (R262). Mailbox command reporting a fatal trap, setting the job's ERR. Acts on: (job tid : Nat). -/
  | fatalTrapReport
  /-- `SET_PORT_MODE` (R373). Sets a Qorger port to QORGER, ETH or OFF. Acts on: (port : Nat) (mode : PortMode). -/
  | setPortMode
  /-- `SET_POWER_CAP` (R380). Sets the module's power cap. Acts on: (watts : Nat). -/
  | setPowerCap
  /-- `POWER_LIMIT_EXCEEDED` (R380). Measured draw crosses the cap and elastic clocks are stepped down or restored. Acts on: (draw : Nat). -/
  | powerLimitExceeded
  /-- `TEMPERATURE_EXCURSION` (R381). HBM or die temperature crosses a limit, throttling, halting jobs or shutting down. Acts on: (hbm : Bool) (celsius : Nat). -/
  | temperatureExcursion
  /-- `LANE_SPARING` (R373). A failing lane of a QORGER port is spared and the port runs on at reduced width. Acts on: (port : Nat). -/
  | laneSparing
  /-- `SLOT_STATE_ERROR` (R304). An uncorrectable error in slot state stops the thread with reason MCHECK and a notice. Acts on: (k : Nat). -/
  | slotStateError
  /-- `CXL_MEM_ACCESS` (R371). A host access over CXL.mem to the module's HBM as device-coherent memory. Acts on: (write : Bool) (pa size data : Nat). -/
  | cxlMemAccess
  /-- `NOTIFY_WINDOW_READ` (R372). A host read of BAR2 completes as an Unsupported Request and changes nothing. Acts on: (off size : Nat). -/
  | notifyWindowRead
  /-- `TRAY_EXCURSION` (R381). The supply voltage or coolant leaves its tray limits and the management complex reports the excursion. Acts on: (what : TrayLimit). -/
  | trayExcursion
  deriving DecidableEq, Repr

/-- `YIELD` under a guard. (R21 rejects the guard !p0, which `decode` never passes here.) -/
def Instr.yieldOf (gd : Guard) : Instr :=
  match gd.neg, gd.p.toNat with
  | false, 0 => .yield
  | false, 1 => .yieldIf1
  | false, 2 => .yieldIf2
  | false, 3 => .yieldIf3
  | false, 4 => .yieldIf4
  | false, 5 => .yieldIf5
  | false, 6 => .yieldIf6
  | false, 7 => .yieldIf7
  | false, 8 => .yieldIf8
  | false, 9 => .yieldIf9
  | false, 10 => .yieldIf10
  | false, 11 => .yieldIf11
  | false, 12 => .yieldIf12
  | false, 13 => .yieldIf13
  | false, 14 => .yieldIf14
  | false, 15 => .yieldIf15
  | true, 1 => .yieldUnless1
  | true, 2 => .yieldUnless2
  | true, 3 => .yieldUnless3
  | true, 4 => .yieldUnless4
  | true, 5 => .yieldUnless5
  | true, 6 => .yieldUnless6
  | true, 7 => .yieldUnless7
  | true, 8 => .yieldUnless8
  | true, 9 => .yieldUnless9
  | true, 10 => .yieldUnless10
  | true, 11 => .yieldUnless11
  | true, 12 => .yieldUnless12
  | true, 13 => .yieldUnless13
  | true, 14 => .yieldUnless14
  | true, 15 => .yieldUnless15
  | _, _ => .yield

end Sys2Proof
end

