-- ==== Sys2Proof/WellFormed.lean ====
section
/-!
DEFINITION. Which instructions are well formed: the encodings that R36 and the owning chapters do not reject as ILLEGAL whatever the thread's mode.
The one rejection that depends on the thread's state, a vector index of 8 or more in SHORT mode or any of the v-only forms in LONG mode (R113),
is made at issue (Machine/Operands.lean).
-/

namespace Sys2Proof

/-- R21: the guard G = 0 with N = 1 is reserved. -/
def Guard.ok (g : Guard) : Bool := !(g.p == 0 && g.neg)

/-- The control register indices that R75 assigns. -/
def readableIndex (i : BitVec 12) : Bool :=
  [0x000, 0x001, 0x002, 0x003, 0x004, 0x005, 0x008, 0x010, 0x020, 0x021, 0x022, 0x023, 0x030, 0x031, 0x038, 0x040,
    0x050, 0x051, 0x052, 0x060, 0x070, 0x071].contains i.toNat

/-- The control registers that R75 marks read-write. -/
def writableIndex (i : BitVec 12) : Bool :=
  [0x008, 0x020, 0x021, 0x022, 0x023, 0x030, 0x031, 0x038, 0x040, 0x050, 0x051, 0x052, 0x060, 0x070, 0x071].contains i.toNat

/-- R106: a code of the block-scaled narrow formats, which `CVT` converts only through a wider one. -/
def narrowCode (c : BitVec 4) : Bool := decide (3 ≤ c.toNat ∧ c.toNat ≤ 11)

/-- R106: the pairs of codes that `CVT` accepts, and the rule that a register is named only when one side is a narrow code. -/
def convertible (dst src b : BitVec 4) : Bool :=
  dst != src && !(narrowCode dst && narrowCode src) && (narrowCode dst || narrowCode src || b == 0)

/-- R106: `FCLASS` has the destination code equal to the source code, and that code is 0 to 7 or 12. -/
def classCode (f : BitVec 8) : Bool :=
  f.extractLsb' 4 4 == f.extractLsb' 0 4 && (decide ((f.extractLsb' 0 4).toNat ≤ 7) || f.extractLsb' 0 4 == 12)

/-- No rule of R36 that looks at the word alone rejects the instruction. A row without bits has no encoding, so nothing to reject. -/
def Instr.wf : Instr → Bool
  | .exti _ _ => true
  | .exts _ _ _ => true
  | .extsh _ _ => true
  | .move _ _ => true
  | .add gd _ _ _ => gd.ok
  | .sub gd _ _ _ => gd.ok
  | .mul gd _ _ _ => gd.ok
  | .mulh gd _ _ _ => gd.ok
  | .mulhn gd _ _ _ => gd.ok
  | .div gd _ _ _ => gd.ok
  | .divn gd _ _ _ => gd.ok
  | .rem gd _ _ _ => gd.ok
  | .remn gd _ _ _ => gd.ok
  | .and gd _ _ _ => gd.ok
  | .or gd _ _ _ => gd.ok
  | .xor gd _ _ _ => gd.ok
  | .andn gd _ _ _ => gd.ok
  | .shl gd _ _ _ => gd.ok
  | .shr gd _ _ _ => gd.ok
  | .sar gd _ _ _ => gd.ok
  | .rol gd _ _ _ => gd.ok
  | .min gd _ _ _ => gd.ok
  | .max gd _ _ _ => gd.ok
  | .minn gd _ _ _ => gd.ok
  | .maxn gd _ _ _ => gd.ok
  | .clz gd _ _ => gd.ok
  | .ctz gd _ _ => gd.ok
  | .pop gd _ _ => gd.ok
  | .brev gd _ _ => gd.ok
  | .bswap gd _ _ => gd.ok
  | .sel gd _ _ _ _ => gd.ok
  | .addi gd _ _ _ => gd.ok
  | .andi gd _ _ _ => gd.ok
  | .ori gd _ _ _ => gd.ok
  | .xori gd _ _ _ => gd.ok
  | .shli gd _ _ _ => gd.ok
  | .shri gd _ _ _ => gd.ok
  | .sari gd _ _ _ => gd.ok
  | .roli gd _ _ _ => gd.ok
  | .cmpi gd d _ cc _ => gd.ok && decide (d ≠ 0) && decide (cc.toNat ≤ 11)
  | .padd gd _ _ _ w => gd.ok && decide (w ≠ 3)
  | .psub gd _ _ _ w => gd.ok && decide (w ≠ 3)
  | .pmul gd _ _ _ w => gd.ok && decide (w ≠ 3)
  | .pmin gd _ _ _ w _ => gd.ok && decide (w ≠ 3)
  | .pmax gd _ _ _ w _ => gd.ok && decide (w ≠ 3)
  | .pshl gd _ _ _ w _ => gd.ok && decide (w ≠ 3)
  | .pshr gd _ _ _ w _ => gd.ok && decide (w ≠ 3)
  | .psar gd _ _ _ w _ => gd.ok && decide (w ≠ 3)
  | .cmp gd d _ _ cc => gd.ok && decide (d ≠ 0) && decide (cc.toNat ≤ 11)
  | .pand gd d _ _ => gd.ok && decide (d ≠ 0)
  | .por gd d _ _ => gd.ok && decide (d ≠ 0)
  | .pxor gd d _ _ => gd.ok && decide (d ≠ 0)
  | .pnot gd d _ => gd.ok && decide (d ≠ 0)
  | .br gd _ => gd.ok
  | .jal _ _ => true
  | .jalr _ _ _ => true
  | .getc gd _ imm => gd.ok && readableIndex imm
  | .setc gd _ imm => gd.ok && writableIndex imm
  | .fence gd sz => gd.ok && decide (sz.toNat ≤ 4)
  | .fenceAcq gd sz => gd.ok && decide (sz.toNat ≤ 4)
  | .fenceRel gd sz => gd.ok && decide (sz.toNat ≤ 4)
  | .fenceI gd => gd.ok
  | .trap gd _ => gd.ok
  | .brk gd => gd.ok
  | .eret gd => gd.ok
  | .halt gd => gd.ok
  | .spawn gd d _ _ => gd.ok && decide (d ≠ 0)
  | .spawnr gd d _ => gd.ok && decide (d ≠ 0)
  | .quit gd => gd.ok
  | .yield => true
  | .yieldIf1 => true
  | .yieldIf2 => true
  | .yieldIf3 => true
  | .yieldIf4 => true
  | .yieldIf5 => true
  | .yieldIf6 => true
  | .yieldIf7 => true
  | .yieldIf8 => true
  | .yieldIf9 => true
  | .yieldIf10 => true
  | .yieldIf11 => true
  | .yieldIf12 => true
  | .yieldIf13 => true
  | .yieldIf14 => true
  | .yieldIf15 => true
  | .yieldUnless1 => true
  | .yieldUnless2 => true
  | .yieldUnless3 => true
  | .yieldUnless4 => true
  | .yieldUnless5 => true
  | .yieldUnless6 => true
  | .yieldUnless7 => true
  | .yieldUnless8 => true
  | .yieldUnless9 => true
  | .yieldUnless10 => true
  | .yieldUnless11 => true
  | .yieldUnless12 => true
  | .yieldUnless13 => true
  | .yieldUnless14 => true
  | .yieldUnless15 => true
  | .park gd => gd.ok
  | .wake gd _ => gd.ok
  | .migrA gd d _ => gd.ok && decide (d ≠ 0)
  | .migrC gd d _ => gd.ok && decide (d ≠ 0)
  | .self gd _ k => gd.ok && decide (k.toNat ≤ 3)
  | .prio gd _ => gd.ok
  | .barc gd => gd.ok
  | .barf gd => gd.ok
  | .baraCrew gd _ => gd.ok
  | .baraFlask gd _ => gd.ok
  | .barwCrew gd _ => gd.ok
  | .barwFlask gd _ => gd.ok
  | .fadd gd _ _ _ _ => gd.ok
  | .fsub gd _ _ _ _ => gd.ok
  | .fmul gd _ _ _ _ => gd.ok
  | .ffma gd _ _ _ _ => gd.ok
  | .fdiv gd _ _ _ _ => gd.ok
  | .fsqrt gd _ _ _ => gd.ok
  | .fmin gd _ _ _ _ => gd.ok
  | .fmax gd _ _ _ _ => gd.ok
  | .fcmp gd d _ _ _ _ => gd.ok && decide (d ≠ 0)
  | .cvt gd _ _ b dc fn => gd.ok && convertible dc fn b
  | .fclass gd _ _ fn => gd.ok && classCode fn
  | .ld gd _ _ _ _ _ _ => gd.ok
  | .ldSigned gd _ _ _ sz _ _ => gd.ok && decide (sz ≠ 3)
  | .ldp gd d _ _ _ _ => gd.ok && decide (d.toNat % 2 = 0)
  | .st gd _ _ _ _ _ _ => gd.ok
  | .ldw gd _ _ _ _ _ => gd.ok
  | .ldc gd _ _ _ _ _ => gd.ok
  | .ldxW gd _ _ pf _ _ => gd.ok && decide (pf ≠ 0)
  | .ldxC gd _ _ pf _ _ => gd.ok && decide (pf ≠ 0)
  | .stf gd _ _ _ _ _ => gd.ok
  | .stfx gd _ _ pf _ _ => gd.ok && decide (pf ≠ 0)
  | .stff gd _ _ _ _ _ => gd.ok
  | .amoAdd gd _ _ _ _ => gd.ok
  | .amoAnd gd _ _ _ _ => gd.ok
  | .amoOr gd _ _ _ _ => gd.ok
  | .amoXor gd _ _ _ _ => gd.ok
  | .amoMin gd _ _ _ _ => gd.ok
  | .amoMax gd _ _ _ _ => gd.ok
  | .amoMinn gd _ _ _ _ => gd.ok
  | .amoMaxn gd _ _ _ _ => gd.ok
  | .amoSwap gd _ _ _ _ => gd.ok
  | .amoCas gd _ _ _ _ => gd.ok
  | .amoFaddF32 gd _ _ _ _ => gd.ok
  | .amoFaddBf16 gd _ _ _ _ => gd.ok
  | .amoOrdAdd gd _ _ _ _ => gd.ok
  | .amoOrdFadd gd _ _ _ _ => gd.ok
  | .cctlPf gd _ _ => gd.ok
  | .cctlPfs gd _ _ => gd.ok
  | .cctlInv gd _ _ => gd.ok
  | .cctlInva gd _ => gd.ok
  | .cctlTinv gd _ _ _ => gd.ok
  | .cctlTinvc gd _ _ => gd.ok
  | .feset gd _ _ => gd.ok
  | .feclr gd _ _ => gd.ok
  | .fetest gd d _ _ => gd.ok && decide (d ≠ 0)
  | .rmsg gd _ _ _ => gd.ok
  | .rmsgSeq gd _ _ _ => gd.ok
  | .vadd gd _ _ _ _ => gd.ok
  | .vsub gd _ _ _ _ => gd.ok
  | .vmul gd _ _ _ _ => gd.ok
  | .vminI gd _ _ _ _ => gd.ok
  | .vmaxI gd _ _ _ _ => gd.ok
  | .vminN gd _ _ _ _ => gd.ok
  | .vmaxN gd _ _ _ _ => gd.ok
  | .vand gd _ _ _ _ => gd.ok
  | .vor gd _ _ _ _ => gd.ok
  | .vxor gd _ _ _ _ => gd.ok
  | .vshl gd _ _ _ _ => gd.ok
  | .vshr gd _ _ _ _ => gd.ok
  | .vsar gd _ _ _ _ => gd.ok
  | .vsel gd _ _ _ _ => gd.ok
  | .vcmp gd _ _ _ _ cc => gd.ok && decide (cc.toNat ≤ 11)
  | .vfadd gd _ _ _ _ => gd.ok
  | .vfsub gd _ _ _ _ => gd.ok
  | .vfmul gd _ _ _ _ => gd.ok
  | .vffma gd _ _ _ _ => gd.ok
  | .vfdiv gd _ _ _ _ => gd.ok
  | .vfsqrt gd _ _ _ => gd.ok
  | .vfmin gd _ _ _ _ => gd.ok
  | .vfmax gd _ _ _ _ => gd.ok
  | .vfcmp gd _ _ _ _ _ => gd.ok
  | .vld gd _ _ _ => gd.ok
  | .vst gd _ _ _ => gd.ok
  | .vlds gd _ _ _ fn _ => gd.ok && decide (2 ≤ fn.toNat) && decide (fn.toNat ≤ 5)
  | .vgath gd _ _ _ fn _ => gd.ok && decide (6 ≤ fn.toNat) && decide (fn.toNat ≤ 9)
  | .vscat gd _ _ _ fn _ => gd.ok && decide (10 ≤ fn.toNat) && decide (fn.toNat ≤ 13)
  | .vlong gd d => gd.ok && decide (d ≠ 0)
  | .vshort gd => gd.ok
  | .vfnExp2 gd _ _ t => gd.ok && decide (t.toNat ≤ 2)
  | .vfnLog2 gd _ _ t => gd.ok && decide (t.toNat ≤ 2)
  | .vfnRcp gd _ _ t => gd.ok && decide (t.toNat ≤ 2)
  | .vfnRsq gd _ _ t => gd.ok && decide (t.toNat ≤ 2)
  | .vfnSin gd _ _ t => gd.ok && decide (t.toNat ≤ 2)
  | .vfnCos gd _ _ t => gd.ok && decide (t.toNat ≤ 2)
  | .coefld gd _ _ _ => gd.ok
  | .vredAdd gd _ _ dc => gd.ok && decide (dc.toNat ≤ 3)
  | .vredMinI gd _ _ dc => gd.ok && decide (dc.toNat ≤ 3)
  | .vredMaxI gd _ _ dc => gd.ok && decide (dc.toNat ≤ 3)
  | .vredMinN gd _ _ dc => gd.ok && decide (dc.toNat ≤ 3)
  | .vredMaxN gd _ _ dc => gd.ok && decide (dc.toNat ≤ 3)
  | .vredFadd gd _ _ dc => gd.ok && decide (dc.toNat ≤ 3)
  | .vredFmin gd _ _ dc => gd.ok && decide (dc.toNat ≤ 3)
  | .vredFmax gd _ _ dc => gd.ok && decide (dc.toNat ≤ 3)
  | .vbcast gd _ _ _ => gd.ok
  | .vperm gd _ _ _ _ => gd.ok
  | .mls gd _ _ _ _ => gd.ok
  | .mlss gd _ _ _ _ => gd.ok
  | .mma gd _ _ _ _ => gd.ok
  | .mmaM gd _ _ _ _ => gd.ok
  | .mmaz gd _ _ _ _ => gd.ok
  | .mmazM gd _ _ _ _ => gd.ok
  | .vprune48 gd d a _ t => gd.ok && decide (d.toNat ≤ 7) && decide (a.toNat ≤ 7) && decide (t ≠ 3)
  | .vsdot48 gd d a _ t => gd.ok && decide (d.toNat ≤ 7) && decide (a.toNat ≤ 7) && decide (t ≠ 3)
  | .mswap gd _ => gd.ok
  | .mcfg gd _ _ => gd.ok
  | .mrd gd _ _ _ _ => gd.ok
  | .mrdZ gd _ _ _ _ => gd.ok
  | .mpop gd _ _ _ => gd.ok
  | .mdrain gd _ => gd.ok
  | .mmon gd _ k _ => gd.ok && decide (k.toNat ≤ 3)
  | .cpy gd _ _ => gd.ok
  | .cpym gd _ _ _ => gd.ok
  | .cpyr gd _ _ _ => gd.ok
  | .cnv gd _ _ => gd.ok
  | .amaxrs gd _ _ _ => gd.ok
  | .sscan gd _ _ _ _ => gd.ok
  | .semup gd _ _ => gd.ok
  | .semdn gd d _ => gd.ok && decide (d ≠ 0)
  | .semw gd _ => gd.ok
  | .qpush gd d _ q => gd.ok && decide (d ≠ 0) && decide (q.toNat ≤ 3)
  | .qpop gd _ b q => gd.ok && decide (b ≠ 0) && decide (q.toNat ≤ 3)
  | .qpeek gd _ b q => gd.ok && decide (b ≠ 0) && decide (q.toNat ≤ 3)
  | .wqask gd _ _ _ => gd.ok
  | .wqput gd _ _ _ => gd.ok
  | .launch gd _ _ _ => gd.ok
  | .jobsig gd d _ _ _ => gd.ok && decide (d ≠ 0)
  | .cyc gd _ k => gd.ok && decide (k.toNat ≤ 3)
  | .tfenceOpen gd => gd.ok
  | .tfenceClose gd d => gd.ok && decide (d ≠ 0)
  | .digest gd _ _ _ _ => gd.ok
  | .stepb gd _ _ _ _ => gd.ok
  | .rlinit gd _ _ _ => gd.ok
  | .rlins gd _ _ b _ => gd.ok && decide (b.toNat ≤ 7)
  | .rlget gd d _ _ _ => gd.ok && decide (d.toNat ≤ 7)
  | .rlstat gd _ _ k _ => gd.ok && decide (k.toNat ≤ 3)
  | .rlfin gd d _ _ => gd.ok && decide (d.toNat ≤ 7)
  | .trvgo gd _ _ b _ => gd.ok && decide (b.toNat ≤ 7)
  | .trvbud gd _ _ _ => gd.ok
  | .tri gd d _ b pf => gd.ok && decide (pf ≠ 0) && decide (d.toNat ≤ 7) && decide (b.toNat ≤ 7)
  | .splat gd d _ b pf => gd.ok && decide (pf ≠ 0) && decide (d.toNat ≤ 7) && decide (b.toNat ≤ 7)
  | .volseg gd d _ b pf => gd.ok && decide (pf ≠ 0) && decide (d.toNat ≤ 7) && decide (b.toNat ≤ 7)
  | .dkl gd d _ b pf => gd.ok && decide (pf ≠ 0) && decide (d.toNat ≤ 7) && decide (b.toNat ≤ 7)
  | .gctx gd _ _ _ => gd.ok
  | .rastri gd b _ => gd.ok && decide (b.toNat ≤ 7)
  | .rasfrag gd d b _ => gd.ok && decide (b ≠ 0) && decide (d.toNat ≤ 7)
  | .blend gd _ b _ => gd.ok && decide (b.toNat ≤ 7)
  | .texs gd d _ b _ => gd.ok && decide (d.toNat ≤ 7) && decide (b.toNat ≤ 7)
  | .texl gd d _ b _ => gd.ok && decide (d.toNat ≤ 7) && decide (b.toNat ≤ 7)
  | .surfrel gd _ _ => gd.ok
  | .surfacq gd _ _ => gd.ok
  | .cMov d a => decide (d ≠ 0 ∨ a ≠ 0)
  | .cAdd _ _ => true
  | .cSub _ _ => true
  | .cAddi _ _ => true
  | .cLdi _ _ => true
  | .cLd _ _ _ => true
  | .cSt _ _ _ => true
  | .cBr _ _ => true
  | .cJ _ => true
  | .cCmp d _ cc => decide (d ≠ 0) && decide (cc.toNat ≤ 5)
  | .cShli _ _ => true
  | .cNop => true
  | .cYield => true
  | .cQuit => true
  | .cPush _ k => decide (1 ≤ k.toNat) && decide (k.toNat ≤ 7)
  | .cPop _ k => decide (1 ≤ k.toNat) && decide (k.toNat ≤ 7)
  | .requestArrival => true
  | .put => true
  | .writeback => true
  | .waitlimExpiry => true
  | .withdraw => true
  | .resend => true
  | .trapEntry => true
  | .wakeArrival => true
  | .migrationDeparture => true
  | .runQueueArrival => true
  | .runQueueEntry => true
  | .quitSlotEmpty => true
  | .messageArrival => true
  | .handlerStart => true
  | .resumeNone => true
  | .resumeReissue => true
  | .resumeConvert => true
  | .registerWrite => true
  | .engineAcceptance => true
  | .copyExecution => true
  | .conversionExecution => true
  | .sscanExecution => true
  | .arrayCommand => true
  | .deckleRowCommand => true
  | .packetTake => true
  | .packetAcceptance => true
  | .flaskPlacement => true
  | .gridCompletion => true
  | .wqaskArrival => true
  | .wqputArrival => true
  | .timeSliceExpiry => true
  | .notifyWrite => true
  | .hostApertureAccess => true
  | .droopStretch => true
  | .detectorTrip => true
  | .peerDigestArrival => true
  | .memberTimeout => true
  | .spill => true
  | .restore => true
  | .discard => true
  | .watchdogExpiry => true
  | .tileSparing => true
  | .couchPerform => true
  | .traversalBegin => true
  | .nodeVisit => true
  | .ringEntryWrite => true
  | .rasterize => true
  | .blendPerform => true
  | .linkTraining => true
  | .portFailure => true
  | .powerOn => true
  | .signedImage => true
  | .attestationRequest => true
  | .placeContextTable => true
  | .placeFaultRing => true
  | .placeParkingArea => true
  | .placeQueueTable => true
  | .setTimeSlice => true
  | .placeSaveAreas => true
  | .placeDecodeTable => true
  | .assignFixedTimingTiles => true
  | .reserveFrameSlots => true
  | .setWdlim => true
  | .formReplicaGroup => true
  | .setPeerTable => true
  | .setContextDefaults => true
  | .setRunnerDefaults => true
  | .setPlacementList => true
  | .fatalTrapReport => true
  | .setPortMode => true
  | .setPowerCap => true
  | .powerLimitExceeded => true
  | .temperatureExcursion => true
  | .laneSparing => true
  | .slotStateError => true
  | .cxlMemAccess => true
  | .notifyWindowRead => true
  | .trayExcursion => true

end Sys2Proof
end

