-- ==== Sys2Proof/Decode.lean ====
section
/-!
DEFINITION. Decoding of instruction words (R14, R17, R18, R30, R31, R35, R36), total on any bytes, and after it the encoder.
The field readers stand first, then one definition per major, then the two maps, then the decoders of bytes. Every word that gives no
instruction is rejected by name; the machine raises ILLEGAL for each (R36).
-/

namespace Sys2Proof

/-- D, bits [10:7] (R17). -/
def fD (x : BitVec 32) : BitVec 4 := x.extractLsb' 7 4
/-- A, bits [14:11] (R17). -/
def fA (x : BitVec 32) : BitVec 4 := x.extractLsb' 11 4
/-- G and N, bits [18:15] and [19] (R17). -/
def fGuard (x : BitVec 32) : Guard := ⟨x.extractLsb' 15 4, x.getLsbD 19⟩
/-- The condition of the B format: G in [10:7] and N in [11] (R18). -/
def fBranch (x : BitVec 32) : Guard := ⟨x.extractLsb' 7 4, x.getLsbD 11⟩
/-- B, bits [23:20] of the R and L formats (R18). -/
def fB (x : BitVec 32) : BitVec 4 := x.extractLsb' 20 4
/-- LA, bits [27:24] of the L format (R18). -/
def fLA (x : BitVec 32) : BitVec 4 := x.extractLsb' 24 4
/-- FN4, bits [31:28] of the L format (R18). -/
def fFN4 (x : BitVec 32) : BitVec 4 := x.extractLsb' 28 4
/-- FN8, bits [31:24] of the R format (R18). -/
def fFN8 (x : BitVec 32) : BitVec 8 := x.extractLsb' 24 8

/-- Major 0x0C (R34). -/
def decExtension (x : BitVec 32) : Option Instr :=
  match (x.extractLsb' 10 2).toNat with
  | 0 => some (.exti (x.extractLsb' 7 3) (x.extractLsb' 12 20))
  | 1 => some (.exts (x.extractLsb' 12 4) (x.extractLsb' 7 3) (x.extractLsb' 16 16))
  | 2 => some (.extsh (x.extractLsb' 7 3) (x.extractLsb' 12 20))
  | 3 => if x.extractLsb' 16 16 = 0 then some (.move (x.extractLsb' 12 4) (x.extractLsb' 7 3)) else none
  | _ => none

/-- Major 0x00 (R78, R79, R80). -/
def decInteger (x : BitVec 32) : Option Instr :=
  match (x.extractLsb' 28 4).toNat with
  | 0x0 => match (x.extractLsb' 24 4).toNat with
    | 0x0 => some (.add (fGuard x) (fD x) (fA x) (fB x))
    | 0x1 => some (.sub (fGuard x) (fD x) (fA x) (fB x))
    | 0x2 => some (.mul (fGuard x) (fD x) (fA x) (fB x))
    | 0x3 => some (.mulh (fGuard x) (fD x) (fA x) (fB x))
    | 0x4 => some (.mulhn (fGuard x) (fD x) (fA x) (fB x))
    | 0x5 => some (.div (fGuard x) (fD x) (fA x) (fB x))
    | 0x6 => some (.divn (fGuard x) (fD x) (fA x) (fB x))
    | 0x7 => some (.rem (fGuard x) (fD x) (fA x) (fB x))
    | 0x8 => some (.remn (fGuard x) (fD x) (fA x) (fB x))
    | _ => none
  | 0x1 => match (x.extractLsb' 24 4).toNat with
    | 0x0 => some (.and (fGuard x) (fD x) (fA x) (fB x))
    | 0x1 => some (.or (fGuard x) (fD x) (fA x) (fB x))
    | 0x2 => some (.xor (fGuard x) (fD x) (fA x) (fB x))
    | 0x3 => some (.andn (fGuard x) (fD x) (fA x) (fB x))
    | 0x8 => some (.shl (fGuard x) (fD x) (fA x) (fB x))
    | 0x9 => some (.shr (fGuard x) (fD x) (fA x) (fB x))
    | 0xa => some (.sar (fGuard x) (fD x) (fA x) (fB x))
    | 0xb => some (.rol (fGuard x) (fD x) (fA x) (fB x))
    | _ => none
  | 0x2 => match (x.extractLsb' 24 4).toNat with
    | 0x0 => some (.min (fGuard x) (fD x) (fA x) (fB x))
    | 0x1 => some (.max (fGuard x) (fD x) (fA x) (fB x))
    | 0x2 => some (.minn (fGuard x) (fD x) (fA x) (fB x))
    | 0x3 => some (.maxn (fGuard x) (fD x) (fA x) (fB x))
    | _ => none
  | 0x3 => match (x.extractLsb' 24 4).toNat with
    | 0x0 => if x.extractLsb' 20 4 = 0 then some (.clz (fGuard x) (fD x) (fA x)) else none
    | 0x1 => if x.extractLsb' 20 4 = 0 then some (.ctz (fGuard x) (fD x) (fA x)) else none
    | 0x2 => if x.extractLsb' 20 4 = 0 then some (.pop (fGuard x) (fD x) (fA x)) else none
    | 0x3 => if x.extractLsb' 20 4 = 0 then some (.brev (fGuard x) (fD x) (fA x)) else none
    | 0x4 => if x.extractLsb' 20 4 = 0 then some (.bswap (fGuard x) (fD x) (fA x)) else none
    | _ => none
  | 0x4 => some (.sel (fGuard x) (fD x) (fA x) (fB x) (fLA x))
  | _ => none

/-- Major 0x01 (R81). -/
def decAddi (x : BitVec 32) : Option Instr :=
  some (.addi (fGuard x) (fD x) (fA x) (x.extractLsb' 20 12))

/-- Major 0x02 (R81). -/
def decAndi (x : BitVec 32) : Option Instr :=
  some (.andi (fGuard x) (fD x) (fA x) (x.extractLsb' 20 12))

/-- Major 0x03 (R81). -/
def decOri (x : BitVec 32) : Option Instr :=
  some (.ori (fGuard x) (fD x) (fA x) (x.extractLsb' 20 12))

/-- Major 0x04 (R81). -/
def decXori (x : BitVec 32) : Option Instr :=
  some (.xori (fGuard x) (fD x) (fA x) (x.extractLsb' 20 12))

/-- Major 0x05 (R81). -/
def decShiftImmediate (x : BitVec 32) : Option Instr :=
  match (x.extractLsb' 28 2).toNat with
  | 0 => if x.extractLsb' 30 2 = 0 then some (.shli (fGuard x) (fD x) (fA x) (x.extractLsb' 20 8)) else none
  | 1 => if x.extractLsb' 30 2 = 0 then some (.shri (fGuard x) (fD x) (fA x) (x.extractLsb' 20 8)) else none
  | 2 => if x.extractLsb' 30 2 = 0 then some (.sari (fGuard x) (fD x) (fA x) (x.extractLsb' 20 8)) else none
  | 3 => if x.extractLsb' 30 2 = 0 then some (.roli (fGuard x) (fD x) (fA x) (x.extractLsb' 20 8)) else none
  | _ => none

/-- Major 0x06 (R85). -/
def decCmpi (x : BitVec 32) : Option Instr :=
  some (.cmpi (fGuard x) (fD x) (fA x) (fB x) (fFN8 x))

/-- Major 0x07 (R83). -/
def decPacked (x : BitVec 32) : Option Instr :=
  match (x.extractLsb' 24 4).toNat with
  | 0x0 => if x.extractLsb' 28 2 = 0 then some (.padd (fGuard x) (fD x) (fA x) (fB x) (x.extractLsb' 30 2)) else none
  | 0x1 => if x.extractLsb' 28 2 = 0 then some (.psub (fGuard x) (fD x) (fA x) (fB x) (x.extractLsb' 30 2)) else none
  | 0x2 => if x.extractLsb' 28 2 = 0 then some (.pmul (fGuard x) (fD x) (fA x) (fB x) (x.extractLsb' 30 2)) else none
  | 0x3 => if x.extractLsb' 28 1 = 0 then some (.pmin (fGuard x) (fD x) (fA x) (fB x) (x.extractLsb' 30 2) (x.extractLsb' 29 1)) else none
  | 0x4 => if x.extractLsb' 28 1 = 0 then some (.pmax (fGuard x) (fD x) (fA x) (fB x) (x.extractLsb' 30 2) (x.extractLsb' 29 1)) else none
  | 0x5 => if x.extractLsb' 29 1 = 0 then some (.pshl (fGuard x) (fD x) (fA x) (fB x) (x.extractLsb' 30 2) (x.extractLsb' 28 1)) else none
  | 0x6 => if x.extractLsb' 29 1 = 0 then some (.pshr (fGuard x) (fD x) (fA x) (fB x) (x.extractLsb' 30 2) (x.extractLsb' 28 1)) else none
  | 0x7 => if x.extractLsb' 29 1 = 0 then some (.psar (fGuard x) (fD x) (fA x) (fB x) (x.extractLsb' 30 2) (x.extractLsb' 28 1)) else none
  | _ => none

/-- Major 0x08 (R85). -/
def decCompare (x : BitVec 32) : Option Instr :=
  if x.extractLsb' 28 4 = 0 then some (.cmp (fGuard x) (fD x) (fA x) (fB x) (fLA x)) else none

/-- Major 0x09 (R86). -/
def decPredicate (x : BitVec 32) : Option Instr :=
  match (x.extractLsb' 24 8).toNat with
  | 0x0 => some (.pand (fGuard x) (fD x) (fA x) (fB x))
  | 0x1 => some (.por (fGuard x) (fD x) (fA x) (fB x))
  | 0x2 => some (.pxor (fGuard x) (fD x) (fA x) (fB x))
  | 0x3 => if x.extractLsb' 20 4 = 0 then some (.pnot (fGuard x) (fD x) (fA x)) else none
  | _ => none

/-- Major 0x0A (R87). -/
def decBranch (x : BitVec 32) : Option Instr :=
  some (.br (fBranch x) (x.extractLsb' 12 20))

/-- Major 0x0B (R88). -/
def decJump (x : BitVec 32) : Option Instr :=
  match (x.extractLsb' 11 1).toNat with
  | 0 => some (.jal (fD x) (x.extractLsb' 12 20))
  | 1 => some (.jalr (fD x) (x.extractLsb' 12 4) (x.extractLsb' 16 16))
  | _ => none

/-- Major 0x0D (R74). -/
def decControl (x : BitVec 32) : Option Instr :=
  match (x.extractLsb' 11 4).toNat with
  | 0x0 => some (.getc (fGuard x) (fD x) (x.extractLsb' 20 12))
  | 0x1 => some (.setc (fGuard x) (fD x) (x.extractLsb' 20 12))
  | _ => none

/-- Major 0x0E (R192, R193, R292). -/
def decSystem (x : BitVec 32) : Option Instr :=
  match (x.extractLsb' 29 3).toNat with
  | 0 => (match (x.extractLsb' 27 2).toNat with
    | 0 => if x.extractLsb' 20 4 = 0 ∧ x.extractLsb' 7 8 = 0 then some (.fence (fGuard x) (x.extractLsb' 24 3)) else none
    | 1 => if x.extractLsb' 20 4 = 0 ∧ x.extractLsb' 7 8 = 0 then some (.fenceAcq (fGuard x) (x.extractLsb' 24 3)) else none
    | 2 => if x.extractLsb' 20 4 = 0 ∧ x.extractLsb' 7 8 = 0 then some (.fenceRel (fGuard x) (x.extractLsb' 24 3)) else none
    | _ => if x.extractLsb' 20 7 = 0 ∧ x.extractLsb' 7 8 = 0 then some (.fenceI (fGuard x)) else none)
  | 1 => (match (x.extractLsb' 24 5).toNat with
    | 0 => if x.extractLsb' 20 4 = 0 ∧ x.extractLsb' 7 4 = 0 then some (.trap (fGuard x) (fA x)) else none
    | 1 => if x.extractLsb' 20 4 = 0 ∧ x.extractLsb' 7 8 = 0 then some (.brk (fGuard x)) else none
    | 2 => if x.extractLsb' 20 4 = 0 ∧ x.extractLsb' 7 8 = 0 then some (.eret (fGuard x)) else none
    | 3 => if x.extractLsb' 20 4 = 0 ∧ x.extractLsb' 7 8 = 0 then some (.halt (fGuard x)) else none
    | _ => none)
  | _ => none

/-- Major 0x10 (R50, R53, R54, R55, R56, R58, R59, R60). -/
def decThread (x : BitVec 32) : Option Instr :=
  match (x.extractLsb' 24 8).toNat with
  | 0x0 => some (.spawn (fGuard x) (fD x) (fA x) (fB x))
  | 0x1 => if x.extractLsb' 11 4 = 0 then some (.spawnr (fGuard x) (fD x) (fB x)) else none
  | 0x2 => if x.extractLsb' 20 4 = 0 ∧ x.extractLsb' 7 8 = 0 then some (.quit (fGuard x)) else none
  | 0x3 => if x.extractLsb' 20 4 = 0 ∧ x.extractLsb' 7 8 = 0 ∧ (fGuard x).ok then some (.yieldOf (fGuard x)) else none
  | 0x4 => if x.extractLsb' 20 4 = 0 ∧ x.extractLsb' 7 8 = 0 then some (.park (fGuard x)) else none
  | 0x5 => if x.extractLsb' 20 4 = 0 ∧ x.extractLsb' 7 4 = 0 then some (.wake (fGuard x) (fA x)) else none
  | 0x6 => if x.extractLsb' 20 4 = 0 then some (.migrA (fGuard x) (fD x) (fA x)) else none
  | 0x7 => if x.extractLsb' 20 4 = 0 then some (.migrC (fGuard x) (fD x) (fA x)) else none
  | 0x8 => if x.extractLsb' 11 4 = 0 then some (.self (fGuard x) (fD x) (fB x)) else none
  | 0x9 => if x.extractLsb' 20 4 = 0 ∧ x.extractLsb' 7 4 = 0 then some (.prio (fGuard x) (fA x)) else none
  | _ => none

/-- Major 0x11 (R67). -/
def decBarrier (x : BitVec 32) : Option Instr :=
  match (x.extractLsb' 24 8).toNat with
  | 0x0 => if x.extractLsb' 20 4 = 0 ∧ x.extractLsb' 7 8 = 0 then some (.barc (fGuard x)) else none
  | 0x1 => if x.extractLsb' 20 4 = 0 ∧ x.extractLsb' 7 8 = 0 then some (.barf (fGuard x)) else none
  | 0x2 => if x.extractLsb' 20 4 = 0 ∧ x.extractLsb' 11 4 = 0 then some (.baraCrew (fGuard x) (fD x)) else none
  | 0x3 => if x.extractLsb' 20 4 = 0 ∧ x.extractLsb' 11 4 = 0 then some (.baraFlask (fGuard x) (fD x)) else none
  | 0x4 => if x.extractLsb' 20 4 = 0 ∧ x.extractLsb' 7 4 = 0 then some (.barwCrew (fGuard x) (fA x)) else none
  | 0x5 => if x.extractLsb' 20 4 = 0 ∧ x.extractLsb' 7 4 = 0 then some (.barwFlask (fGuard x) (fA x)) else none
  | _ => none

/-- Major 0x14 (R111, R112). -/
def decFloat (x : BitVec 32) : Option Instr :=
  match (x.extractLsb' 28 4).toNat with
  | 0x0 => if x.extractLsb' 24 2 = 0 then some (.fadd (fGuard x) (fD x) (fA x) (fB x) (x.extractLsb' 26 2)) else none
  | 0x1 => if x.extractLsb' 24 2 = 0 then some (.fsub (fGuard x) (fD x) (fA x) (fB x) (x.extractLsb' 26 2)) else none
  | 0x2 => if x.extractLsb' 24 2 = 0 then some (.fmul (fGuard x) (fD x) (fA x) (fB x) (x.extractLsb' 26 2)) else none
  | 0x3 => if x.extractLsb' 24 2 = 0 then some (.ffma (fGuard x) (fD x) (fA x) (fB x) (x.extractLsb' 26 2)) else none
  | 0x4 => if x.extractLsb' 24 2 = 0 then some (.fdiv (fGuard x) (fD x) (fA x) (fB x) (x.extractLsb' 26 2)) else none
  | 0x5 => if x.extractLsb' 20 6 = 0 then some (.fsqrt (fGuard x) (fD x) (fA x) (x.extractLsb' 26 2)) else none
  | 0x6 => if x.extractLsb' 24 2 = 0 then some (.fmin (fGuard x) (fD x) (fA x) (fB x) (x.extractLsb' 26 2)) else none
  | 0x7 => if x.extractLsb' 24 2 = 0 then some (.fmax (fGuard x) (fD x) (fA x) (fB x) (x.extractLsb' 26 2)) else none
  | 0x8 => some (.fcmp (fGuard x) (fD x) (fA x) (fB x) (x.extractLsb' 26 2) (x.extractLsb' 24 2))
  | _ => none

/-- Major 0x15 (R107, R109). -/
def decConvert (x : BitVec 32) : Option Instr :=
  if x.extractLsb' 28 4 = x.extractLsb' 24 4 then if x.extractLsb' 20 4 = 0 then some (.fclass (fGuard x) (fD x) (fA x) (fFN8 x)) else none
  else some (.cvt (fGuard x) (fD x) (fA x) (fB x) (fFN4 x) (fLA x))

/-- Major 0x18 (R151). -/
def decLoad (x : BitVec 32) : Option Instr :=
  if x.extractLsb' 27 1 = 0 then some (.ld (fGuard x) (fD x) (fA x) (fFN4 x) (x.extractLsb' 24 2) (x.extractLsb' 26 1) (fB x))
  else if x.extractLsb' 24 2 = 3 then some (.ldp (fGuard x) (fD x) (fA x) (fFN4 x) (x.extractLsb' 26 1) (fB x))
  else some (.ldSigned (fGuard x) (fD x) (fA x) (fFN4 x) (x.extractLsb' 24 2) (x.extractLsb' 26 1) (fB x))

/-- Major 0x19 (R151). -/
def decStore (x : BitVec 32) : Option Instr :=
  if x.extractLsb' 27 1 = 0 then some (.st (fGuard x) (fD x) (fA x) (fFN4 x) (x.extractLsb' 24 2) (x.extractLsb' 26 1) (fB x)) else none

/-- Major 0x1A (R164). -/
def decFullLoad (x : BitVec 32) : Option Instr :=
  match (x.extractLsb' 24 2).toNat with
  | 0 => some (.ldw (fGuard x) (fD x) (fA x) (fFN4 x) (x.extractLsb' 26 2) (fB x))
  | 1 => some (.ldc (fGuard x) (fD x) (fA x) (fFN4 x) (x.extractLsb' 26 2) (fB x))
  | 2 => some (.ldxW (fGuard x) (fD x) (fA x) (fFN4 x) (x.extractLsb' 26 2) (fB x))
  | 3 => some (.ldxC (fGuard x) (fD x) (fA x) (fFN4 x) (x.extractLsb' 26 2) (fB x))
  | _ => none

/-- Major 0x1B (R164). -/
def decFullStore (x : BitVec 32) : Option Instr :=
  match (x.extractLsb' 24 2).toNat with
  | 0 => some (.stf (fGuard x) (fD x) (fA x) (fFN4 x) (x.extractLsb' 26 2) (fB x))
  | 1 => some (.stfx (fGuard x) (fD x) (fA x) (fFN4 x) (x.extractLsb' 26 2) (fB x))
  | 2 => some (.stff (fGuard x) (fD x) (fA x) (fFN4 x) (x.extractLsb' 26 2) (fB x))
  | _ => none

/-- Major 0x1C (R175, R176, R177). -/
def decAmo (x : BitVec 32) : Option Instr :=
  match (x.extractLsb' 28 4).toNat with
  | 0x0 => some (.amoAdd (fGuard x) (fD x) (fA x) (fB x) (fLA x))
  | 0x1 => some (.amoAnd (fGuard x) (fD x) (fA x) (fB x) (fLA x))
  | 0x2 => some (.amoOr (fGuard x) (fD x) (fA x) (fB x) (fLA x))
  | 0x3 => some (.amoXor (fGuard x) (fD x) (fA x) (fB x) (fLA x))
  | 0x4 => some (.amoMin (fGuard x) (fD x) (fA x) (fB x) (fLA x))
  | 0x5 => some (.amoMax (fGuard x) (fD x) (fA x) (fB x) (fLA x))
  | 0x6 => some (.amoMinn (fGuard x) (fD x) (fA x) (fB x) (fLA x))
  | 0x7 => some (.amoMaxn (fGuard x) (fD x) (fA x) (fB x) (fLA x))
  | 0x8 => some (.amoSwap (fGuard x) (fD x) (fA x) (fB x) (fLA x))
  | 0x9 => some (.amoCas (fGuard x) (fD x) (fA x) (fB x) (fLA x))
  | 0xa => some (.amoFaddF32 (fGuard x) (fD x) (fA x) (fB x) (fLA x))
  | 0xb => some (.amoFaddBf16 (fGuard x) (fD x) (fA x) (fB x) (fLA x))
  | 0xc => some (.amoOrdAdd (fGuard x) (fD x) (fA x) (fB x) (fLA x))
  | 0xd => some (.amoOrdFadd (fGuard x) (fD x) (fA x) (fB x) (fLA x))
  | _ => none

/-- Major 0x1D (R158, R159). -/
def decCache (x : BitVec 32) : Option Instr :=
  match (x.extractLsb' 28 4).toNat with
  | 0x0 => if x.extractLsb' 20 4 = 0 ∧ x.extractLsb' 7 4 = 0 then some (.cctlPf (fGuard x) (fA x) (fLA x)) else none
  | 0x1 => if x.extractLsb' 20 4 = 0 ∧ x.extractLsb' 7 4 = 0 then some (.cctlPfs (fGuard x) (fA x) (fLA x)) else none
  | 0x2 => if x.extractLsb' 20 4 = 0 ∧ x.extractLsb' 7 4 = 0 then some (.cctlInv (fGuard x) (fA x) (fLA x)) else none
  | 0x3 => if x.extractLsb' 20 4 = 0 ∧ x.extractLsb' 7 8 = 0 then some (.cctlInva (fGuard x) (fLA x)) else none
  | 0x4 => if x.extractLsb' 7 4 = 0 then some (.cctlTinv (fGuard x) (fA x) (fB x) (fLA x)) else none
  | 0x5 => if x.extractLsb' 7 8 = 0 then some (.cctlTinvc (fGuard x) (fB x) (fLA x)) else none
  | _ => none

/-- Major 0x1E (R165). -/
def decFullState (x : BitVec 32) : Option Instr :=
  match (x.extractLsb' 28 4).toNat with
  | 0x0 => if x.extractLsb' 20 4 = 0 ∧ x.extractLsb' 7 4 = 0 then some (.feset (fGuard x) (fA x) (fLA x)) else none
  | 0x1 => if x.extractLsb' 20 4 = 0 ∧ x.extractLsb' 7 4 = 0 then some (.feclr (fGuard x) (fA x) (fLA x)) else none
  | 0x2 => if x.extractLsb' 20 4 = 0 then some (.fetest (fGuard x) (fD x) (fA x) (fLA x)) else none
  | _ => none

/-- Major 0x1F (R181, R183). -/
def decMessage (x : BitVec 32) : Option Instr :=
  match (x.extractLsb' 28 4).toNat with
  | 0x0 => if x.extractLsb' 7 4 = 0 then some (.rmsg (fGuard x) (fA x) (fB x) (fLA x)) else none
  | 0x1 => if x.extractLsb' 7 4 = 0 then some (.rmsgSeq (fGuard x) (fA x) (fB x) (fLA x)) else none
  | _ => none

/-- Major 0x20 (R117). -/
def decVecInteger (x : BitVec 32) : Option Instr :=
  match (x.extractLsb' 28 2).toNat with
  | 0 => match (x.extractLsb' 24 4).toNat with
    | 0x0 => some (.vadd (fGuard x) (fD x) (fA x) (fB x) (x.extractLsb' 30 2))
    | 0x1 => some (.vsub (fGuard x) (fD x) (fA x) (fB x) (x.extractLsb' 30 2))
    | 0x2 => some (.vmul (fGuard x) (fD x) (fA x) (fB x) (x.extractLsb' 30 2))
    | 0x3 => some (.vminI (fGuard x) (fD x) (fA x) (fB x) (x.extractLsb' 30 2))
    | 0x4 => some (.vmaxI (fGuard x) (fD x) (fA x) (fB x) (x.extractLsb' 30 2))
    | 0x5 => some (.vminN (fGuard x) (fD x) (fA x) (fB x) (x.extractLsb' 30 2))
    | 0x6 => some (.vmaxN (fGuard x) (fD x) (fA x) (fB x) (x.extractLsb' 30 2))
    | 0x7 => some (.vand (fGuard x) (fD x) (fA x) (fB x) (x.extractLsb' 30 2))
    | 0x8 => some (.vor (fGuard x) (fD x) (fA x) (fB x) (x.extractLsb' 30 2))
    | 0x9 => some (.vxor (fGuard x) (fD x) (fA x) (fB x) (x.extractLsb' 30 2))
    | 0xa => some (.vshl (fGuard x) (fD x) (fA x) (fB x) (x.extractLsb' 30 2))
    | 0xb => some (.vshr (fGuard x) (fD x) (fA x) (fB x) (x.extractLsb' 30 2))
    | 0xc => some (.vsar (fGuard x) (fD x) (fA x) (fB x) (x.extractLsb' 30 2))
    | 0xd => some (.vsel (fGuard x) (fD x) (fA x) (fB x) (x.extractLsb' 30 2))
    | _ => none
  | 1 => some (.vcmp (fGuard x) (fD x) (fA x) (fB x) (x.extractLsb' 30 2) (fLA x))
  | _ => none

/-- Major 0x21 (R118). -/
def decVecFloat (x : BitVec 32) : Option Instr :=
  match (x.extractLsb' 28 2).toNat with
  | 0 => match (x.extractLsb' 24 4).toNat with
    | 0x0 => some (.vfadd (fGuard x) (fD x) (fA x) (fB x) (x.extractLsb' 30 2))
    | 0x1 => some (.vfsub (fGuard x) (fD x) (fA x) (fB x) (x.extractLsb' 30 2))
    | 0x2 => some (.vfmul (fGuard x) (fD x) (fA x) (fB x) (x.extractLsb' 30 2))
    | 0x3 => some (.vffma (fGuard x) (fD x) (fA x) (fB x) (x.extractLsb' 30 2))
    | 0x4 => some (.vfdiv (fGuard x) (fD x) (fA x) (fB x) (x.extractLsb' 30 2))
    | 0x5 => if x.extractLsb' 20 4 = 0 then some (.vfsqrt (fGuard x) (fD x) (fA x) (x.extractLsb' 30 2)) else none
    | 0x6 => some (.vfmin (fGuard x) (fD x) (fA x) (fB x) (x.extractLsb' 30 2))
    | 0x7 => some (.vfmax (fGuard x) (fD x) (fA x) (fB x) (x.extractLsb' 30 2))
    | _ => none
  | 1 => if x.extractLsb' 26 2 = 0 then some (.vfcmp (fGuard x) (fD x) (fA x) (fB x) (x.extractLsb' 30 2) (x.extractLsb' 24 2)) else none
  | _ => none

/-- Major 0x22 (R122). -/
def decVecMemory (x : BitVec 32) : Option Instr :=
  match (fFN4 x).toNat with
  | 0 => if x.extractLsb' 20 4 = 0 then some (.vld (fGuard x) (fD x) (fA x) (fLA x)) else none
  | 1 => if x.extractLsb' 20 4 = 0 then some (.vst (fGuard x) (fD x) (fA x) (fLA x)) else none
  | 2 | 3 | 4 | 5 => some (.vlds (fGuard x) (fD x) (fA x) (fB x) (fFN4 x) (fLA x))
  | 6 | 7 | 8 | 9 => some (.vgath (fGuard x) (fD x) (fA x) (fB x) (fFN4 x) (fLA x))
  | 10 | 11 | 12 | 13 => some (.vscat (fGuard x) (fD x) (fA x) (fB x) (fFN4 x) (fLA x))
  | _ => none

/-- Major 0x23 (R114). -/
def decVecMode (x : BitVec 32) : Option Instr :=
  match (x.extractLsb' 24 8).toNat with
  | 0x0 => if x.extractLsb' 20 4 = 0 ∧ x.extractLsb' 11 4 = 0 then some (.vlong (fGuard x) (fD x)) else none
  | 0x1 => if x.extractLsb' 20 4 = 0 ∧ x.extractLsb' 7 8 = 0 then some (.vshort (fGuard x)) else none
  | _ => none

/-- Major 0x24 (R126, R129). -/
def decVecFunction (x : BitVec 32) : Option Instr :=
  if fFN4 x = 0xF then if x.extractLsb' 7 4 = 0 then some (.coefld (fGuard x) (fA x) (fB x) (fLA x)) else none
  else match (fLA x).toNat with
  | 0 => if x.extractLsb' 20 4 = 0 then some (.vfnExp2 (fGuard x) (fD x) (fA x) (fFN4 x)) else none
  | 1 => if x.extractLsb' 20 4 = 0 then some (.vfnLog2 (fGuard x) (fD x) (fA x) (fFN4 x)) else none
  | 2 => if x.extractLsb' 20 4 = 0 then some (.vfnRcp (fGuard x) (fD x) (fA x) (fFN4 x)) else none
  | 3 => if x.extractLsb' 20 4 = 0 then some (.vfnRsq (fGuard x) (fD x) (fA x) (fFN4 x)) else none
  | 4 => if x.extractLsb' 20 4 = 0 then some (.vfnSin (fGuard x) (fD x) (fA x) (fFN4 x)) else none
  | 5 => if x.extractLsb' 20 4 = 0 then some (.vfnCos (fGuard x) (fD x) (fA x) (fFN4 x)) else none
  | _ => none

/-- Major 0x25 (R120). -/
def decReduction (x : BitVec 32) : Option Instr :=
  match (x.extractLsb' 28 4).toNat with
  | 0x0 => if x.extractLsb' 20 4 = 0 then some (.vredAdd (fGuard x) (fD x) (fA x) (fLA x)) else none
  | 0x1 => if x.extractLsb' 20 4 = 0 then some (.vredMinI (fGuard x) (fD x) (fA x) (fLA x)) else none
  | 0x2 => if x.extractLsb' 20 4 = 0 then some (.vredMaxI (fGuard x) (fD x) (fA x) (fLA x)) else none
  | 0x3 => if x.extractLsb' 20 4 = 0 then some (.vredMinN (fGuard x) (fD x) (fA x) (fLA x)) else none
  | 0x4 => if x.extractLsb' 20 4 = 0 then some (.vredMaxN (fGuard x) (fD x) (fA x) (fLA x)) else none
  | 0x5 => if x.extractLsb' 20 4 = 0 then some (.vredFadd (fGuard x) (fD x) (fA x) (fLA x)) else none
  | 0x6 => if x.extractLsb' 20 4 = 0 then some (.vredFmin (fGuard x) (fD x) (fA x) (fLA x)) else none
  | 0x7 => if x.extractLsb' 20 4 = 0 then some (.vredFmax (fGuard x) (fD x) (fA x) (fLA x)) else none
  | _ => none

/-- Major 0x26 (R119). -/
def decPermute (x : BitVec 32) : Option Instr :=
  match (x.extractLsb' 24 6).toNat with
  | 0x0 => if x.extractLsb' 20 4 = 0 then some (.vbcast (fGuard x) (fD x) (fA x) (x.extractLsb' 30 2)) else none
  | 0x1 => some (.vperm (fGuard x) (fD x) (fA x) (fB x) (x.extractLsb' 30 2))
  | _ => none

/-- Major 0x28 (R207). -/
def decPlate (x : BitVec 32) : Option Instr :=
  match (x.extractLsb' 28 4).toNat with
  | 0x0 => some (.mls (fGuard x) (fD x) (fA x) (fB x) (fLA x))
  | 0x1 => some (.mlss (fGuard x) (fD x) (fA x) (fB x) (fLA x))
  | _ => none

/-- Major 0x29 (R209). -/
def decStream (x : BitVec 32) : Option Instr :=
  match (x.extractLsb' 28 4).toNat with
  | 0x0 => some (.mma (fGuard x) (fD x) (fA x) (fB x) (fLA x))
  | 0x1 => some (.mmaM (fGuard x) (fD x) (fA x) (fB x) (fLA x))
  | 0x2 => some (.mmaz (fGuard x) (fD x) (fA x) (fB x) (fLA x))
  | 0x3 => some (.mmazM (fGuard x) (fD x) (fA x) (fB x) (fLA x))
  | _ => none

/-- Major 0x2A (R220, R221). -/
def decSparse (x : BitVec 32) : Option Instr :=
  match (x.extractLsb' 26 6).toNat with
  | 0x0 => some (.vprune48 (fGuard x) (fD x) (fA x) (fB x) (x.extractLsb' 24 2))
  | 0x4 => some (.vsdot48 (fGuard x) (fD x) (fA x) (fB x) (x.extractLsb' 24 2))
  | _ => none

/-- Major 0x2B (R208, R211, R212, R213, R216, R217). -/
def decMatrix (x : BitVec 32) : Option Instr :=
  match (x.extractLsb' 28 4).toNat with
  | 0x0 => if x.extractLsb' 20 4 = 0 ∧ x.extractLsb' 7 8 = 0 then some (.mswap (fGuard x) (fLA x)) else none
  | 0x1 => if x.extractLsb' 20 4 = 0 ∧ x.extractLsb' 7 4 = 0 then some (.mcfg (fGuard x) (fA x) (fLA x)) else none
  | 0x2 => some (.mrd (fGuard x) (fD x) (fA x) (fB x) (fLA x))
  | 0x3 => some (.mrdZ (fGuard x) (fD x) (fA x) (fB x) (fLA x))
  | 0x4 => if x.extractLsb' 20 4 = 0 then some (.mpop (fGuard x) (fD x) (fA x) (fLA x)) else none
  | 0x5 => if x.extractLsb' 20 4 = 0 ∧ x.extractLsb' 7 8 = 0 then some (.mdrain (fGuard x) (fLA x)) else none
  | 0x6 => if x.extractLsb' 11 4 = 0 then some (.mmon (fGuard x) (fD x) (fB x) (fLA x)) else none
  | _ => none

/-- Major 0x2C (R232, R233, R235). -/
def decCopy (x : BitVec 32) : Option Instr :=
  match (x.extractLsb' 28 4).toNat with
  | 0x0 => if x.extractLsb' 20 4 = 0 ∧ x.extractLsb' 11 4 = 0 then some (.cpy (fGuard x) (fD x) (fLA x)) else none
  | 0x1 => if x.extractLsb' 11 4 = 0 then some (.cpym (fGuard x) (fD x) (fB x) (fLA x)) else none
  | 0x2 => if x.extractLsb' 20 4 = 0 then some (.cpyr (fGuard x) (fD x) (fA x) (fLA x)) else none
  | _ => none

/-- Major 0x2D (R239, R241). -/
def decConversion (x : BitVec 32) : Option Instr :=
  match (x.extractLsb' 28 4).toNat with
  | 0x0 => if x.extractLsb' 20 4 = 0 ∧ x.extractLsb' 11 4 = 0 then some (.cnv (fGuard x) (fD x) (fLA x)) else none
  | 0x1 => if x.extractLsb' 20 4 = 0 then some (.amaxrs (fGuard x) (fD x) (fA x) (fLA x)) else none
  | _ => none

/-- Major 0x2E (R242). -/
def decScan (x : BitVec 32) : Option Instr :=
  match (x.extractLsb' 28 4).toNat with
  | 0x0 => some (.sscan (fGuard x) (fD x) (fA x) (fB x) (fLA x))
  | _ => none

/-- Major 0x2F (R250). -/
def decSemaphore (x : BitVec 32) : Option Instr :=
  match (x.extractLsb' 24 8).toNat with
  | 0x0 => if x.extractLsb' 7 4 = 0 then some (.semup (fGuard x) (fB x) (fA x)) else none
  | 0x1 => if x.extractLsb' 20 4 = 0 then some (.semdn (fGuard x) (fD x) (fA x)) else none
  | 0x2 => if x.extractLsb' 20 4 = 0 ∧ x.extractLsb' 7 4 = 0 then some (.semw (fGuard x) (fA x)) else none
  | _ => none

/-- Major 0x30 (R254). -/
def decQueue (x : BitVec 32) : Option Instr :=
  match (x.extractLsb' 24 8).toNat with
  | 0x0 => some (.qpush (fGuard x) (fD x) (fB x) (fA x))
  | 0x1 => some (.qpop (fGuard x) (fD x) (fB x) (fA x))
  | 0x2 => some (.qpeek (fGuard x) (fD x) (fB x) (fA x))
  | _ => none

/-- Major 0x31 (R265). -/
def decWork (x : BitVec 32) : Option Instr :=
  match (x.extractLsb' 28 4).toNat with
  | 0x0 => if x.extractLsb' 7 4 = 0 then some (.wqask (fGuard x) (fA x) (fB x) (fLA x)) else none
  | 0x1 => if x.extractLsb' 7 4 = 0 then some (.wqput (fGuard x) (fA x) (fB x) (fLA x)) else none
  | _ => none

/-- Major 0x32 (R260, R263). -/
def decLaunch (x : BitVec 32) : Option Instr :=
  match (x.extractLsb' 28 4).toNat with
  | 0x0 => if x.extractLsb' 7 4 = 0 then some (.launch (fGuard x) (fA x) (fB x) (fLA x)) else none
  | 0x1 => some (.jobsig (fGuard x) (fD x) (fA x) (fB x) (fLA x))
  | _ => none

/-- Major 0x34 (R281, R282, R283, R284). -/
def decTiming (x : BitVec 32) : Option Instr :=
  match (fFN4 x).toNat with
  | 0 => if x.extractLsb' 24 4 = 0 ∧ x.extractLsb' 11 4 = 0 then some (.cyc (fGuard x) (fD x) (fB x)) else none
  | 1 => (match (fB x).toNat with
    | 0 => if x.extractLsb' 24 4 = 0 ∧ x.extractLsb' 7 8 = 0 then some (.tfenceOpen (fGuard x)) else none
    | 1 => if x.extractLsb' 24 4 = 0 ∧ x.extractLsb' 11 4 = 0 then some (.tfenceClose (fGuard x) (fD x)) else none
    | _ => none)
  | 2 => some (.digest (fGuard x) (fD x) (fA x) (fB x) (fLA x))
  | 3 => some (.stepb (fGuard x) (fD x) (fA x) (fB x) (fLA x))
  | _ => none

/-- Major 0x38 (R320, R321, R322, R323). -/
def decList (x : BitVec 32) : Option Instr :=
  match (x.extractLsb' 28 4).toNat with
  | 0x0 => if x.extractLsb' 7 4 = 0 then some (.rlinit (fGuard x) (fA x) (fB x) (fLA x)) else none
  | 0x1 => some (.rlins (fGuard x) (fD x) (fA x) (fB x) (fLA x))
  | 0x2 => some (.rlget (fGuard x) (fD x) (fA x) (fB x) (fLA x))
  | 0x3 => some (.rlstat (fGuard x) (fD x) (fA x) (fB x) (fLA x))
  | 0x4 => if x.extractLsb' 20 4 = 0 then some (.rlfin (fGuard x) (fD x) (fA x) (fLA x)) else none
  | _ => none

/-- Major 0x39 (R326, R332). -/
def decTraversal (x : BitVec 32) : Option Instr :=
  match (x.extractLsb' 28 4).toNat with
  | 0x0 => some (.trvgo (fGuard x) (fD x) (fA x) (fB x) (fLA x))
  | 0x1 => if x.extractLsb' 7 4 = 0 then some (.trvbud (fGuard x) (fA x) (fB x) (fLA x)) else none
  | _ => none

/-- Major 0x3A (R345, R346, R347, R348). -/
def decScene (x : BitVec 32) : Option Instr :=
  match (x.extractLsb' 28 4).toNat with
  | 0x0 => some (.tri (fGuard x) (fD x) (fA x) (fB x) (fLA x))
  | 0x1 => some (.splat (fGuard x) (fD x) (fA x) (fB x) (fLA x))
  | 0x2 => some (.volseg (fGuard x) (fD x) (fA x) (fB x) (fLA x))
  | 0x3 => some (.dkl (fGuard x) (fD x) (fA x) (fB x) (fLA x))
  | _ => none

/-- Major 0x3C (R360, R362, R363, R364). -/
def decRaster (x : BitVec 32) : Option Instr :=
  match (x.extractLsb' 28 4).toNat with
  | 0x0 => if x.extractLsb' 7 4 = 0 then some (.gctx (fGuard x) (fA x) (fB x) (fLA x)) else none
  | 0x1 => if x.extractLsb' 7 8 = 0 then some (.rastri (fGuard x) (fB x) (fLA x)) else none
  | 0x2 => if x.extractLsb' 11 4 = 0 then some (.rasfrag (fGuard x) (fD x) (fB x) (fLA x)) else none
  | 0x3 => if x.extractLsb' 7 4 = 0 then some (.blend (fGuard x) (fA x) (fB x) (fLA x)) else none
  | _ => none

/-- Major 0x3D (R370). -/
def decTexture (x : BitVec 32) : Option Instr :=
  match (x.extractLsb' 28 4).toNat with
  | 0x0 => some (.texs (fGuard x) (fD x) (fA x) (fB x) (fLA x))
  | 0x1 => some (.texl (fGuard x) (fD x) (fA x) (fB x) (fLA x))
  | _ => none

/-- Major 0x3E (R367). -/
def decSurface (x : BitVec 32) : Option Instr :=
  match (x.extractLsb' 28 4).toNat with
  | 0x0 => if x.extractLsb' 20 4 = 0 ∧ x.extractLsb' 7 4 = 0 then some (.surfrel (fGuard x) (fA x) (fLA x)) else none
  | 0x1 => if x.extractLsb' 20 4 = 0 ∧ x.extractLsb' 7 4 = 0 then some (.surfacq (fGuard x) (fA x) (fLA x)) else none
  | _ => none

/-- The 32-bit map of majors (R35); a reserved major gives no instruction. -/
def decodeWord (x : BitVec 32) : Option Instr :=
  match (x.extractLsb' 1 6).toNat with
  | 0x0C => decExtension x
  | 0x00 => decInteger x
  | 0x01 => decAddi x
  | 0x02 => decAndi x
  | 0x03 => decOri x
  | 0x04 => decXori x
  | 0x05 => decShiftImmediate x
  | 0x06 => decCmpi x
  | 0x07 => decPacked x
  | 0x08 => decCompare x
  | 0x09 => decPredicate x
  | 0x0A => decBranch x
  | 0x0B => decJump x
  | 0x0D => decControl x
  | 0x0E => decSystem x
  | 0x10 => decThread x
  | 0x11 => decBarrier x
  | 0x14 => decFloat x
  | 0x15 => decConvert x
  | 0x18 => decLoad x
  | 0x19 => decStore x
  | 0x1A => decFullLoad x
  | 0x1B => decFullStore x
  | 0x1C => decAmo x
  | 0x1D => decCache x
  | 0x1E => decFullState x
  | 0x1F => decMessage x
  | 0x20 => decVecInteger x
  | 0x21 => decVecFloat x
  | 0x22 => decVecMemory x
  | 0x23 => decVecMode x
  | 0x24 => decVecFunction x
  | 0x25 => decReduction x
  | 0x26 => decPermute x
  | 0x28 => decPlate x
  | 0x29 => decStream x
  | 0x2A => decSparse x
  | 0x2B => decMatrix x
  | 0x2C => decCopy x
  | 0x2D => decConversion x
  | 0x2E => decScan x
  | 0x2F => decSemaphore x
  | 0x30 => decQueue x
  | 0x31 => decWork x
  | 0x32 => decLaunch x
  | 0x34 => decTiming x
  | 0x38 => decList x
  | 0x39 => decTraversal x
  | 0x3A => decScene x
  | 0x3C => decRaster x
  | 0x3D => decTexture x
  | 0x3E => decSurface x
  | _ => none

/-- The 16-bit map MAJ16 (R31, R89). -/
def decodeHalf (x : BitVec 16) : Option Instr :=
  match (x.extractLsb' 1 4).toNat with
  | 0x0 => if x.extractLsb' 13 3 = 0 then some (.cMov (x.extractLsb' 5 4) (x.extractLsb' 9 4)) else none
  | 0x1 => if x.extractLsb' 13 3 = 0 then some (.cAdd (x.extractLsb' 5 4) (x.extractLsb' 9 4)) else none
  | 0x2 => if x.extractLsb' 13 3 = 0 then some (.cSub (x.extractLsb' 5 4) (x.extractLsb' 9 4)) else none
  | 0x3 => some (.cAddi (x.extractLsb' 5 4) (x.extractLsb' 9 7))
  | 0x4 => some (.cLdi (x.extractLsb' 5 4) (x.extractLsb' 9 7))
  | 0x5 => if x.extractLsb' 15 1 = 0 then some (.cLd (x.extractLsb' 5 4) (x.extractLsb' 9 3) (x.extractLsb' 12 3)) else none
  | 0x6 => if x.extractLsb' 15 1 = 0 then some (.cSt (x.extractLsb' 5 4) (x.extractLsb' 9 3) (x.extractLsb' 12 3)) else none
  | 0x7 => some (.cBr (x.extractLsb' 5 4) (x.extractLsb' 9 7))
  | 0x8 => some (.cJ (x.extractLsb' 5 11))
  | 0x9 => some (.cCmp (x.extractLsb' 5 4) (x.extractLsb' 9 4) (x.extractLsb' 13 3))
  | 0xA => some (.cShli (x.extractLsb' 5 4) (x.extractLsb' 9 7))
  | 0xB => (match (x.extractLsb' 9 7).toNat with
    | 0 => if x.extractLsb' 5 4 = 0 then some (.cNop) else none
    | 1 => if x.extractLsb' 5 4 = 0 then some (.cYield) else none
    | 2 => if x.extractLsb' 5 4 = 0 then some (.cQuit) else none
    | _ => none)
  | 0xC => some (.cPush (x.extractLsb' 5 4) (x.extractLsb' 9 7))
  | 0xD => some (.cPop (x.extractLsb' 5 4) (x.extractLsb' 9 7))
  | _ => none

/-- Why a stream of bytes gives no instruction. -/
inductive Reject where
  /-- Fewer bytes than the length bit asks for (R14). -/
  | truncated
  /-- The halfword 0x0000 (R31). -/
  | zeroHalfword
  /-- A reserved major, an unassigned function or sub-function, or a nonzero field that must be zero (R36). -/
  | unassigned
  /-- A field value that the owning chapter rejects, or the guard G = 0 with N = 1 (R21, R36). -/
  | illFormed
  deriving DecidableEq, Repr

/-- Keeps an instruction that the checks on its field values accept. -/
def accept : Option Instr → Except Reject Instr
  | none => .error .unassigned
  | some i => if i.wf then .ok i else .error .illFormed

/-- A 32-bit instruction from its word; bit [0] is 1 (R14, R36). -/
def decode32 (x : BitVec 32) : Except Reject Instr :=
  if x.getLsbD 0 then accept (decodeWord x) else .error .unassigned

/-- A 16-bit instruction from its halfword; bit [0] is 0, and 0x0000 is excluded (R14, R31). -/
def decode16 (x : BitVec 16) : Except Reject Instr :=
  if x = 0 then .error .zeroHalfword
  else if x.getLsbD 0 then .error .unassigned
  else accept (decodeHalf x)

/-- Bit [0] of the first halfword decides the length (R14). -/
def isWide (x : BitVec 16) : Bool := x.getLsbD 0

/-- The instruction at the head of a list of bytes, little-endian, with the bytes after it (R14). -/
def decode : List Byte → Except Reject (Instr × List Byte)
  | b0 :: b1 :: rest =>
    if isWide (b1 ++ b0) then
      match rest with
      | b2 :: b3 :: rest' => (decode32 (b3 ++ b2 ++ b1 ++ b0)).map (·, rest')
      | _ => .error .truncated
    else (decode16 (b1 ++ b0)).map (·, rest)
  | _ => .error .truncated

/-- The words of one instruction: a 16-bit form or a 32-bit one (R14). -/
inductive Encoding where
  | half (x : BitVec 16)
  | word (x : BitVec 32)
  deriving DecidableEq, Repr

/-- The bytes of an encoding as memory holds them, lowest address first (R14). -/
def Encoding.bytes : Encoding → List Byte
  | .half x => [x.extractLsb' 0 8, x.extractLsb' 8 8]
  | .word x => [x.extractLsb' 0 8, x.extractLsb' 8 8, x.extractLsb' 16 8, x.extractLsb' 24 8]

/-- The words of an instruction, written from the same formats (R17, R18, R30): the field pieces from the top bit down. The 16-bit forms give 16 bits, the others 32;
a row without bits has no word. -/
def encode : Instr → Option Encoding
  | .exti x imm => some (.word (imm ++ 0#1 ++ 0#1 ++ x ++ 25#7))
  | .exts a x imm => some (.word (imm ++ a ++ 0#1 ++ 1#1 ++ x ++ 25#7))
  | .extsh x imm => some (.word (imm ++ 1#1 ++ 0#1 ++ x ++ 25#7))
  | .move d x => some (.word (0#4 ++ 0#4 ++ 0#4 ++ 0#1 ++ 0#3 ++ d ++ 1#1 ++ 1#1 ++ x ++ 25#7))
  | .add gd d a b => some (.word (0#4 ++ 0#4 ++ b ++ (BitVec.ofBool gd.neg) ++ gd.p ++ a ++ d ++ 1#7))
  | .sub gd d a b => some (.word (0#4 ++ 1#4 ++ b ++ (BitVec.ofBool gd.neg) ++ gd.p ++ a ++ d ++ 1#7))
  | .mul gd d a b => some (.word (0#4 ++ 2#4 ++ b ++ (BitVec.ofBool gd.neg) ++ gd.p ++ a ++ d ++ 1#7))
  | .mulh gd d a b => some (.word (0#4 ++ 3#4 ++ b ++ (BitVec.ofBool gd.neg) ++ gd.p ++ a ++ d ++ 1#7))
  | .mulhn gd d a b => some (.word (0#4 ++ 4#4 ++ b ++ (BitVec.ofBool gd.neg) ++ gd.p ++ a ++ d ++ 1#7))
  | .div gd d a b => some (.word (0#4 ++ 5#4 ++ b ++ (BitVec.ofBool gd.neg) ++ gd.p ++ a ++ d ++ 1#7))
  | .divn gd d a b => some (.word (0#4 ++ 6#4 ++ b ++ (BitVec.ofBool gd.neg) ++ gd.p ++ a ++ d ++ 1#7))
  | .rem gd d a b => some (.word (0#4 ++ 7#4 ++ b ++ (BitVec.ofBool gd.neg) ++ gd.p ++ a ++ d ++ 1#7))
  | .remn gd d a b => some (.word (0#4 ++ 8#4 ++ b ++ (BitVec.ofBool gd.neg) ++ gd.p ++ a ++ d ++ 1#7))
  | .and gd d a b => some (.word (1#4 ++ 0#4 ++ b ++ (BitVec.ofBool gd.neg) ++ gd.p ++ a ++ d ++ 1#7))
  | .or gd d a b => some (.word (1#4 ++ 1#4 ++ b ++ (BitVec.ofBool gd.neg) ++ gd.p ++ a ++ d ++ 1#7))
  | .xor gd d a b => some (.word (1#4 ++ 2#4 ++ b ++ (BitVec.ofBool gd.neg) ++ gd.p ++ a ++ d ++ 1#7))
  | .andn gd d a b => some (.word (1#4 ++ 3#4 ++ b ++ (BitVec.ofBool gd.neg) ++ gd.p ++ a ++ d ++ 1#7))
  | .shl gd d a b => some (.word (1#4 ++ 8#4 ++ b ++ (BitVec.ofBool gd.neg) ++ gd.p ++ a ++ d ++ 1#7))
  | .shr gd d a b => some (.word (1#4 ++ 9#4 ++ b ++ (BitVec.ofBool gd.neg) ++ gd.p ++ a ++ d ++ 1#7))
  | .sar gd d a b => some (.word (1#4 ++ 10#4 ++ b ++ (BitVec.ofBool gd.neg) ++ gd.p ++ a ++ d ++ 1#7))
  | .rol gd d a b => some (.word (1#4 ++ 11#4 ++ b ++ (BitVec.ofBool gd.neg) ++ gd.p ++ a ++ d ++ 1#7))
  | .min gd d a b => some (.word (2#4 ++ 0#4 ++ b ++ (BitVec.ofBool gd.neg) ++ gd.p ++ a ++ d ++ 1#7))
  | .max gd d a b => some (.word (2#4 ++ 1#4 ++ b ++ (BitVec.ofBool gd.neg) ++ gd.p ++ a ++ d ++ 1#7))
  | .minn gd d a b => some (.word (2#4 ++ 2#4 ++ b ++ (BitVec.ofBool gd.neg) ++ gd.p ++ a ++ d ++ 1#7))
  | .maxn gd d a b => some (.word (2#4 ++ 3#4 ++ b ++ (BitVec.ofBool gd.neg) ++ gd.p ++ a ++ d ++ 1#7))
  | .clz gd d a => some (.word (3#4 ++ 0#4 ++ 0#4 ++ (BitVec.ofBool gd.neg) ++ gd.p ++ a ++ d ++ 1#7))
  | .ctz gd d a => some (.word (3#4 ++ 1#4 ++ 0#4 ++ (BitVec.ofBool gd.neg) ++ gd.p ++ a ++ d ++ 1#7))
  | .pop gd d a => some (.word (3#4 ++ 2#4 ++ 0#4 ++ (BitVec.ofBool gd.neg) ++ gd.p ++ a ++ d ++ 1#7))
  | .brev gd d a => some (.word (3#4 ++ 3#4 ++ 0#4 ++ (BitVec.ofBool gd.neg) ++ gd.p ++ a ++ d ++ 1#7))
  | .bswap gd d a => some (.word (3#4 ++ 4#4 ++ 0#4 ++ (BitVec.ofBool gd.neg) ++ gd.p ++ a ++ d ++ 1#7))
  | .sel gd d a b k => some (.word (4#4 ++ k ++ b ++ (BitVec.ofBool gd.neg) ++ gd.p ++ a ++ d ++ 1#7))
  | .addi gd d a imm => some (.word (imm ++ (BitVec.ofBool gd.neg) ++ gd.p ++ a ++ d ++ 3#7))
  | .andi gd d a imm => some (.word (imm ++ (BitVec.ofBool gd.neg) ++ gd.p ++ a ++ d ++ 5#7))
  | .ori gd d a imm => some (.word (imm ++ (BitVec.ofBool gd.neg) ++ gd.p ++ a ++ d ++ 7#7))
  | .xori gd d a imm => some (.word (imm ++ (BitVec.ofBool gd.neg) ++ gd.p ++ a ++ d ++ 9#7))
  | .shli gd d a imm => some (.word (0#4 ++ imm ++ (BitVec.ofBool gd.neg) ++ gd.p ++ a ++ d ++ 11#7))
  | .shri gd d a imm => some (.word (1#4 ++ imm ++ (BitVec.ofBool gd.neg) ++ gd.p ++ a ++ d ++ 11#7))
  | .sari gd d a imm => some (.word (2#4 ++ imm ++ (BitVec.ofBool gd.neg) ++ gd.p ++ a ++ d ++ 11#7))
  | .roli gd d a imm => some (.word (3#4 ++ imm ++ (BitVec.ofBool gd.neg) ++ gd.p ++ a ++ d ++ 11#7))
  | .cmpi gd d a cc imm => some (.word (imm ++ cc ++ (BitVec.ofBool gd.neg) ++ gd.p ++ a ++ d ++ 13#7))
  | .padd gd d a b w => some (.word (w ++ 0#2 ++ 0#4 ++ b ++ (BitVec.ofBool gd.neg) ++ gd.p ++ a ++ d ++ 15#7))
  | .psub gd d a b w => some (.word (w ++ 0#2 ++ 1#4 ++ b ++ (BitVec.ofBool gd.neg) ++ gd.p ++ a ++ d ++ 15#7))
  | .pmul gd d a b w => some (.word (w ++ 0#2 ++ 2#4 ++ b ++ (BitVec.ofBool gd.neg) ++ gd.p ++ a ++ d ++ 15#7))
  | .pmin gd d a b w ns => some (.word (w ++ ns ++ 0#1 ++ 3#4 ++ b ++ (BitVec.ofBool gd.neg) ++ gd.p ++ a ++ d ++ 15#7))
  | .pmax gd d a b w ns => some (.word (w ++ ns ++ 0#1 ++ 4#4 ++ b ++ (BitVec.ofBool gd.neg) ++ gd.p ++ a ++ d ++ 15#7))
  | .pshl gd d a b w bc => some (.word (w ++ 0#1 ++ bc ++ 5#4 ++ b ++ (BitVec.ofBool gd.neg) ++ gd.p ++ a ++ d ++ 15#7))
  | .pshr gd d a b w bc => some (.word (w ++ 0#1 ++ bc ++ 6#4 ++ b ++ (BitVec.ofBool gd.neg) ++ gd.p ++ a ++ d ++ 15#7))
  | .psar gd d a b w bc => some (.word (w ++ 0#1 ++ bc ++ 7#4 ++ b ++ (BitVec.ofBool gd.neg) ++ gd.p ++ a ++ d ++ 15#7))
  | .cmp gd d a b cc => some (.word (0#4 ++ cc ++ b ++ (BitVec.ofBool gd.neg) ++ gd.p ++ a ++ d ++ 17#7))
  | .pand gd d a b => some (.word (0#4 ++ 0#4 ++ b ++ (BitVec.ofBool gd.neg) ++ gd.p ++ a ++ d ++ 19#7))
  | .por gd d a b => some (.word (0#4 ++ 1#4 ++ b ++ (BitVec.ofBool gd.neg) ++ gd.p ++ a ++ d ++ 19#7))
  | .pxor gd d a b => some (.word (0#4 ++ 2#4 ++ b ++ (BitVec.ofBool gd.neg) ++ gd.p ++ a ++ d ++ 19#7))
  | .pnot gd d a => some (.word (0#4 ++ 3#4 ++ 0#4 ++ (BitVec.ofBool gd.neg) ++ gd.p ++ a ++ d ++ 19#7))
  | .br gd off => some (.word (off ++ (BitVec.ofBool gd.neg) ++ gd.p ++ 21#7))
  | .jal d off => some (.word (off ++ 0#1 ++ d ++ 23#7))
  | .jalr d a off => some (.word (off ++ a ++ 1#1 ++ d ++ 23#7))
  | .getc gd d imm => some (.word (imm ++ (BitVec.ofBool gd.neg) ++ gd.p ++ 0#3 ++ 0#1 ++ d ++ 27#7))
  | .setc gd d imm => some (.word (imm ++ (BitVec.ofBool gd.neg) ++ gd.p ++ 0#3 ++ 1#1 ++ d ++ 27#7))
  | .fence gd sz => some (.word (0#4 ++ 0#1 ++ sz ++ 0#4 ++ (BitVec.ofBool gd.neg) ++ gd.p ++ 0#3 ++ 0#1 ++ 0#4 ++ 29#7))
  | .fenceAcq gd sz => some (.word (0#4 ++ 1#1 ++ sz ++ 0#4 ++ (BitVec.ofBool gd.neg) ++ gd.p ++ 0#3 ++ 0#1 ++ 0#4 ++ 29#7))
  | .fenceRel gd sz => some (.word (1#4 ++ 0#1 ++ sz ++ 0#4 ++ (BitVec.ofBool gd.neg) ++ gd.p ++ 0#3 ++ 0#1 ++ 0#4 ++ 29#7))
  | .fenceI gd => some (.word (1#4 ++ 8#4 ++ 0#4 ++ (BitVec.ofBool gd.neg) ++ gd.p ++ 0#3 ++ 0#1 ++ 0#4 ++ 29#7))
  | .trap gd a => some (.word (2#4 ++ 0#4 ++ 0#4 ++ (BitVec.ofBool gd.neg) ++ gd.p ++ a ++ 0#4 ++ 29#7))
  | .brk gd => some (.word (2#4 ++ 1#4 ++ 0#4 ++ (BitVec.ofBool gd.neg) ++ gd.p ++ 0#3 ++ 0#1 ++ 0#4 ++ 29#7))
  | .eret gd => some (.word (2#4 ++ 2#4 ++ 0#4 ++ (BitVec.ofBool gd.neg) ++ gd.p ++ 0#3 ++ 0#1 ++ 0#4 ++ 29#7))
  | .halt gd => some (.word (2#4 ++ 3#4 ++ 0#4 ++ (BitVec.ofBool gd.neg) ++ gd.p ++ 0#3 ++ 0#1 ++ 0#4 ++ 29#7))
  | .spawn gd d a b => some (.word (0#4 ++ 0#4 ++ b ++ (BitVec.ofBool gd.neg) ++ gd.p ++ a ++ d ++ 33#7))
  | .spawnr gd d b => some (.word (0#4 ++ 1#4 ++ b ++ (BitVec.ofBool gd.neg) ++ gd.p ++ 0#3 ++ 0#1 ++ d ++ 33#7))
  | .quit gd => some (.word (0#4 ++ 2#4 ++ 0#4 ++ (BitVec.ofBool gd.neg) ++ gd.p ++ 0#3 ++ 0#1 ++ 0#4 ++ 33#7))
  | .yield => some (.word 0x03000021#32)
  | .yieldIf1 => some (.word 0x03008021#32)
  | .yieldIf2 => some (.word 0x03010021#32)
  | .yieldIf3 => some (.word 0x03018021#32)
  | .yieldIf4 => some (.word 0x03020021#32)
  | .yieldIf5 => some (.word 0x03028021#32)
  | .yieldIf6 => some (.word 0x03030021#32)
  | .yieldIf7 => some (.word 0x03038021#32)
  | .yieldIf8 => some (.word 0x03040021#32)
  | .yieldIf9 => some (.word 0x03048021#32)
  | .yieldIf10 => some (.word 0x03050021#32)
  | .yieldIf11 => some (.word 0x03058021#32)
  | .yieldIf12 => some (.word 0x03060021#32)
  | .yieldIf13 => some (.word 0x03068021#32)
  | .yieldIf14 => some (.word 0x03070021#32)
  | .yieldIf15 => some (.word 0x03078021#32)
  | .yieldUnless1 => some (.word 0x03088021#32)
  | .yieldUnless2 => some (.word 0x03090021#32)
  | .yieldUnless3 => some (.word 0x03098021#32)
  | .yieldUnless4 => some (.word 0x030A0021#32)
  | .yieldUnless5 => some (.word 0x030A8021#32)
  | .yieldUnless6 => some (.word 0x030B0021#32)
  | .yieldUnless7 => some (.word 0x030B8021#32)
  | .yieldUnless8 => some (.word 0x030C0021#32)
  | .yieldUnless9 => some (.word 0x030C8021#32)
  | .yieldUnless10 => some (.word 0x030D0021#32)
  | .yieldUnless11 => some (.word 0x030D8021#32)
  | .yieldUnless12 => some (.word 0x030E0021#32)
  | .yieldUnless13 => some (.word 0x030E8021#32)
  | .yieldUnless14 => some (.word 0x030F0021#32)
  | .yieldUnless15 => some (.word 0x030F8021#32)
  | .park gd => some (.word (0#4 ++ 4#4 ++ 0#4 ++ (BitVec.ofBool gd.neg) ++ gd.p ++ 0#3 ++ 0#1 ++ 0#4 ++ 33#7))
  | .wake gd a => some (.word (0#4 ++ 5#4 ++ 0#4 ++ (BitVec.ofBool gd.neg) ++ gd.p ++ a ++ 0#4 ++ 33#7))
  | .migrA gd d a => some (.word (0#4 ++ 6#4 ++ 0#4 ++ (BitVec.ofBool gd.neg) ++ gd.p ++ a ++ d ++ 33#7))
  | .migrC gd d a => some (.word (0#4 ++ 7#4 ++ 0#4 ++ (BitVec.ofBool gd.neg) ++ gd.p ++ a ++ d ++ 33#7))
  | .self gd d k => some (.word (0#4 ++ 8#4 ++ k ++ (BitVec.ofBool gd.neg) ++ gd.p ++ 0#3 ++ 0#1 ++ d ++ 33#7))
  | .prio gd a => some (.word (0#4 ++ 9#4 ++ 0#4 ++ (BitVec.ofBool gd.neg) ++ gd.p ++ a ++ 0#4 ++ 33#7))
  | .barc gd => some (.word (0#4 ++ 0#4 ++ 0#4 ++ (BitVec.ofBool gd.neg) ++ gd.p ++ 0#3 ++ 0#1 ++ 0#4 ++ 35#7))
  | .barf gd => some (.word (0#4 ++ 1#4 ++ 0#4 ++ (BitVec.ofBool gd.neg) ++ gd.p ++ 0#3 ++ 0#1 ++ 0#4 ++ 35#7))
  | .baraCrew gd d => some (.word (0#4 ++ 2#4 ++ 0#4 ++ (BitVec.ofBool gd.neg) ++ gd.p ++ 0#3 ++ 0#1 ++ d ++ 35#7))
  | .baraFlask gd d => some (.word (0#4 ++ 3#4 ++ 0#4 ++ (BitVec.ofBool gd.neg) ++ gd.p ++ 0#3 ++ 0#1 ++ d ++ 35#7))
  | .barwCrew gd a => some (.word (0#4 ++ 4#4 ++ 0#4 ++ (BitVec.ofBool gd.neg) ++ gd.p ++ a ++ 0#4 ++ 35#7))
  | .barwFlask gd a => some (.word (0#4 ++ 5#4 ++ 0#4 ++ (BitVec.ofBool gd.neg) ++ gd.p ++ a ++ 0#4 ++ 35#7))
  | .fadd gd d a b t => some (.word (0#4 ++ t ++ 0#2 ++ b ++ (BitVec.ofBool gd.neg) ++ gd.p ++ a ++ d ++ 41#7))
  | .fsub gd d a b t => some (.word (1#4 ++ t ++ 0#2 ++ b ++ (BitVec.ofBool gd.neg) ++ gd.p ++ a ++ d ++ 41#7))
  | .fmul gd d a b t => some (.word (2#4 ++ t ++ 0#2 ++ b ++ (BitVec.ofBool gd.neg) ++ gd.p ++ a ++ d ++ 41#7))
  | .ffma gd d a b t => some (.word (3#4 ++ t ++ 0#2 ++ b ++ (BitVec.ofBool gd.neg) ++ gd.p ++ a ++ d ++ 41#7))
  | .fdiv gd d a b t => some (.word (4#4 ++ t ++ 0#2 ++ b ++ (BitVec.ofBool gd.neg) ++ gd.p ++ a ++ d ++ 41#7))
  | .fsqrt gd d a t => some (.word (5#4 ++ t ++ 0#2 ++ 0#4 ++ (BitVec.ofBool gd.neg) ++ gd.p ++ a ++ d ++ 41#7))
  | .fmin gd d a b t => some (.word (6#4 ++ t ++ 0#2 ++ b ++ (BitVec.ofBool gd.neg) ++ gd.p ++ a ++ d ++ 41#7))
  | .fmax gd d a b t => some (.word (7#4 ++ t ++ 0#2 ++ b ++ (BitVec.ofBool gd.neg) ++ gd.p ++ a ++ d ++ 41#7))
  | .fcmp gd d a b t cc => some (.word (8#4 ++ t ++ cc ++ b ++ (BitVec.ofBool gd.neg) ++ gd.p ++ a ++ d ++ 41#7))
  | .cvt gd d a b dc fn => some (.word (dc ++ fn ++ b ++ (BitVec.ofBool gd.neg) ++ gd.p ++ a ++ d ++ 43#7))
  | .fclass gd d a fn => some (.word (fn ++ 0#4 ++ (BitVec.ofBool gd.neg) ++ gd.p ++ a ++ d ++ 43#7))
  | .ld gd d a off sz ord la => some (.word (off ++ 0#1 ++ ord ++ sz ++ la ++ (BitVec.ofBool gd.neg) ++ gd.p ++ a ++ d ++ 49#7))
  | .ldSigned gd d a off sz ord la => some (.word (off ++ 1#1 ++ ord ++ sz ++ la ++ (BitVec.ofBool gd.neg) ++ gd.p ++ a ++ d ++ 49#7))
  | .ldp gd d a off ord la => some (.word (off ++ 1#1 ++ ord ++ 3#2 ++ la ++ (BitVec.ofBool gd.neg) ++ gd.p ++ a ++ d ++ 49#7))
  | .st gd d a off sz ord la => some (.word (off ++ 0#1 ++ ord ++ sz ++ la ++ (BitVec.ofBool gd.neg) ++ gd.p ++ a ++ d ++ 51#7))
  | .ldw gd d a off ord la => some (.word (off ++ ord ++ 0#2 ++ la ++ (BitVec.ofBool gd.neg) ++ gd.p ++ a ++ d ++ 53#7))
  | .ldc gd d a off ord la => some (.word (off ++ ord ++ 1#2 ++ la ++ (BitVec.ofBool gd.neg) ++ gd.p ++ a ++ d ++ 53#7))
  | .ldxW gd d a pf ord la => some (.word (pf ++ ord ++ 2#2 ++ la ++ (BitVec.ofBool gd.neg) ++ gd.p ++ a ++ d ++ 53#7))
  | .ldxC gd d a pf ord la => some (.word (pf ++ ord ++ 3#2 ++ la ++ (BitVec.ofBool gd.neg) ++ gd.p ++ a ++ d ++ 53#7))
  | .stf gd d a off ord la => some (.word (off ++ ord ++ 0#2 ++ la ++ (BitVec.ofBool gd.neg) ++ gd.p ++ a ++ d ++ 55#7))
  | .stfx gd d a pf ord la => some (.word (pf ++ ord ++ 1#2 ++ la ++ (BitVec.ofBool gd.neg) ++ gd.p ++ a ++ d ++ 55#7))
  | .stff gd d a off ord la => some (.word (off ++ ord ++ 2#2 ++ la ++ (BitVec.ofBool gd.neg) ++ gd.p ++ a ++ d ++ 55#7))
  | .amoAdd gd d a b la => some (.word (0#4 ++ la ++ b ++ (BitVec.ofBool gd.neg) ++ gd.p ++ a ++ d ++ 57#7))
  | .amoAnd gd d a b la => some (.word (1#4 ++ la ++ b ++ (BitVec.ofBool gd.neg) ++ gd.p ++ a ++ d ++ 57#7))
  | .amoOr gd d a b la => some (.word (2#4 ++ la ++ b ++ (BitVec.ofBool gd.neg) ++ gd.p ++ a ++ d ++ 57#7))
  | .amoXor gd d a b la => some (.word (3#4 ++ la ++ b ++ (BitVec.ofBool gd.neg) ++ gd.p ++ a ++ d ++ 57#7))
  | .amoMin gd d a b la => some (.word (4#4 ++ la ++ b ++ (BitVec.ofBool gd.neg) ++ gd.p ++ a ++ d ++ 57#7))
  | .amoMax gd d a b la => some (.word (5#4 ++ la ++ b ++ (BitVec.ofBool gd.neg) ++ gd.p ++ a ++ d ++ 57#7))
  | .amoMinn gd d a b la => some (.word (6#4 ++ la ++ b ++ (BitVec.ofBool gd.neg) ++ gd.p ++ a ++ d ++ 57#7))
  | .amoMaxn gd d a b la => some (.word (7#4 ++ la ++ b ++ (BitVec.ofBool gd.neg) ++ gd.p ++ a ++ d ++ 57#7))
  | .amoSwap gd d a b la => some (.word (8#4 ++ la ++ b ++ (BitVec.ofBool gd.neg) ++ gd.p ++ a ++ d ++ 57#7))
  | .amoCas gd d a b la => some (.word (9#4 ++ la ++ b ++ (BitVec.ofBool gd.neg) ++ gd.p ++ a ++ d ++ 57#7))
  | .amoFaddF32 gd d a b la => some (.word (10#4 ++ la ++ b ++ (BitVec.ofBool gd.neg) ++ gd.p ++ a ++ d ++ 57#7))
  | .amoFaddBf16 gd d a b la => some (.word (11#4 ++ la ++ b ++ (BitVec.ofBool gd.neg) ++ gd.p ++ a ++ d ++ 57#7))
  | .amoOrdAdd gd d a b la => some (.word (12#4 ++ la ++ b ++ (BitVec.ofBool gd.neg) ++ gd.p ++ a ++ d ++ 57#7))
  | .amoOrdFadd gd d a b la => some (.word (13#4 ++ la ++ b ++ (BitVec.ofBool gd.neg) ++ gd.p ++ a ++ d ++ 57#7))
  | .cctlPf gd a la => some (.word (0#4 ++ la ++ 0#4 ++ (BitVec.ofBool gd.neg) ++ gd.p ++ a ++ 0#4 ++ 59#7))
  | .cctlPfs gd a la => some (.word (1#4 ++ la ++ 0#4 ++ (BitVec.ofBool gd.neg) ++ gd.p ++ a ++ 0#4 ++ 59#7))
  | .cctlInv gd a la => some (.word (2#4 ++ la ++ 0#4 ++ (BitVec.ofBool gd.neg) ++ gd.p ++ a ++ 0#4 ++ 59#7))
  | .cctlInva gd la => some (.word (3#4 ++ la ++ 0#4 ++ (BitVec.ofBool gd.neg) ++ gd.p ++ 0#3 ++ 0#1 ++ 0#4 ++ 59#7))
  | .cctlTinv gd a b la => some (.word (4#4 ++ la ++ b ++ (BitVec.ofBool gd.neg) ++ gd.p ++ a ++ 0#4 ++ 59#7))
  | .cctlTinvc gd b la => some (.word (5#4 ++ la ++ b ++ (BitVec.ofBool gd.neg) ++ gd.p ++ 0#3 ++ 0#1 ++ 0#4 ++ 59#7))
  | .feset gd a la => some (.word (0#4 ++ la ++ 0#4 ++ (BitVec.ofBool gd.neg) ++ gd.p ++ a ++ 0#4 ++ 61#7))
  | .feclr gd a la => some (.word (1#4 ++ la ++ 0#4 ++ (BitVec.ofBool gd.neg) ++ gd.p ++ a ++ 0#4 ++ 61#7))
  | .fetest gd d a la => some (.word (2#4 ++ la ++ 0#4 ++ (BitVec.ofBool gd.neg) ++ gd.p ++ a ++ d ++ 61#7))
  | .rmsg gd a b la => some (.word (0#4 ++ la ++ b ++ (BitVec.ofBool gd.neg) ++ gd.p ++ a ++ 0#4 ++ 63#7))
  | .rmsgSeq gd a b la => some (.word (1#4 ++ la ++ b ++ (BitVec.ofBool gd.neg) ++ gd.p ++ a ++ 0#4 ++ 63#7))
  | .vadd gd d a b w => some (.word (w ++ 0#2 ++ 0#4 ++ b ++ (BitVec.ofBool gd.neg) ++ gd.p ++ a ++ d ++ 65#7))
  | .vsub gd d a b w => some (.word (w ++ 0#2 ++ 1#4 ++ b ++ (BitVec.ofBool gd.neg) ++ gd.p ++ a ++ d ++ 65#7))
  | .vmul gd d a b w => some (.word (w ++ 0#2 ++ 2#4 ++ b ++ (BitVec.ofBool gd.neg) ++ gd.p ++ a ++ d ++ 65#7))
  | .vminI gd d a b w => some (.word (w ++ 0#2 ++ 3#4 ++ b ++ (BitVec.ofBool gd.neg) ++ gd.p ++ a ++ d ++ 65#7))
  | .vmaxI gd d a b w => some (.word (w ++ 0#2 ++ 4#4 ++ b ++ (BitVec.ofBool gd.neg) ++ gd.p ++ a ++ d ++ 65#7))
  | .vminN gd d a b w => some (.word (w ++ 0#2 ++ 5#4 ++ b ++ (BitVec.ofBool gd.neg) ++ gd.p ++ a ++ d ++ 65#7))
  | .vmaxN gd d a b w => some (.word (w ++ 0#2 ++ 6#4 ++ b ++ (BitVec.ofBool gd.neg) ++ gd.p ++ a ++ d ++ 65#7))
  | .vand gd d a b w => some (.word (w ++ 0#2 ++ 7#4 ++ b ++ (BitVec.ofBool gd.neg) ++ gd.p ++ a ++ d ++ 65#7))
  | .vor gd d a b w => some (.word (w ++ 0#2 ++ 8#4 ++ b ++ (BitVec.ofBool gd.neg) ++ gd.p ++ a ++ d ++ 65#7))
  | .vxor gd d a b w => some (.word (w ++ 0#2 ++ 9#4 ++ b ++ (BitVec.ofBool gd.neg) ++ gd.p ++ a ++ d ++ 65#7))
  | .vshl gd d a b w => some (.word (w ++ 0#2 ++ 10#4 ++ b ++ (BitVec.ofBool gd.neg) ++ gd.p ++ a ++ d ++ 65#7))
  | .vshr gd d a b w => some (.word (w ++ 0#2 ++ 11#4 ++ b ++ (BitVec.ofBool gd.neg) ++ gd.p ++ a ++ d ++ 65#7))
  | .vsar gd d a b w => some (.word (w ++ 0#2 ++ 12#4 ++ b ++ (BitVec.ofBool gd.neg) ++ gd.p ++ a ++ d ++ 65#7))
  | .vsel gd d a b w => some (.word (w ++ 0#2 ++ 13#4 ++ b ++ (BitVec.ofBool gd.neg) ++ gd.p ++ a ++ d ++ 65#7))
  | .vcmp gd d a b w cc => some (.word (w ++ 1#2 ++ cc ++ b ++ (BitVec.ofBool gd.neg) ++ gd.p ++ a ++ d ++ 65#7))
  | .vfadd gd d a b t => some (.word (t ++ 0#2 ++ 0#4 ++ b ++ (BitVec.ofBool gd.neg) ++ gd.p ++ a ++ d ++ 67#7))
  | .vfsub gd d a b t => some (.word (t ++ 0#2 ++ 1#4 ++ b ++ (BitVec.ofBool gd.neg) ++ gd.p ++ a ++ d ++ 67#7))
  | .vfmul gd d a b t => some (.word (t ++ 0#2 ++ 2#4 ++ b ++ (BitVec.ofBool gd.neg) ++ gd.p ++ a ++ d ++ 67#7))
  | .vffma gd d a b t => some (.word (t ++ 0#2 ++ 3#4 ++ b ++ (BitVec.ofBool gd.neg) ++ gd.p ++ a ++ d ++ 67#7))
  | .vfdiv gd d a b t => some (.word (t ++ 0#2 ++ 4#4 ++ b ++ (BitVec.ofBool gd.neg) ++ gd.p ++ a ++ d ++ 67#7))
  | .vfsqrt gd d a t => some (.word (t ++ 0#2 ++ 5#4 ++ 0#4 ++ (BitVec.ofBool gd.neg) ++ gd.p ++ a ++ d ++ 67#7))
  | .vfmin gd d a b t => some (.word (t ++ 0#2 ++ 6#4 ++ b ++ (BitVec.ofBool gd.neg) ++ gd.p ++ a ++ d ++ 67#7))
  | .vfmax gd d a b t => some (.word (t ++ 0#2 ++ 7#4 ++ b ++ (BitVec.ofBool gd.neg) ++ gd.p ++ a ++ d ++ 67#7))
  | .vfcmp gd d a b t cc => some (.word (t ++ 1#2 ++ 0#2 ++ cc ++ b ++ (BitVec.ofBool gd.neg) ++ gd.p ++ a ++ d ++ 67#7))
  | .vld gd d a la => some (.word (0#4 ++ la ++ 0#4 ++ (BitVec.ofBool gd.neg) ++ gd.p ++ a ++ d ++ 69#7))
  | .vst gd d a la => some (.word (1#4 ++ la ++ 0#4 ++ (BitVec.ofBool gd.neg) ++ gd.p ++ a ++ d ++ 69#7))
  | .vlds gd d a b fn la => some (.word (fn ++ la ++ b ++ (BitVec.ofBool gd.neg) ++ gd.p ++ a ++ d ++ 69#7))
  | .vgath gd d a b fn la => some (.word (fn ++ la ++ b ++ (BitVec.ofBool gd.neg) ++ gd.p ++ a ++ d ++ 69#7))
  | .vscat gd d a b fn la => some (.word (fn ++ la ++ b ++ (BitVec.ofBool gd.neg) ++ gd.p ++ a ++ d ++ 69#7))
  | .vlong gd d => some (.word (0#4 ++ 0#4 ++ 0#4 ++ (BitVec.ofBool gd.neg) ++ gd.p ++ 0#3 ++ 0#1 ++ d ++ 71#7))
  | .vshort gd => some (.word (0#4 ++ 1#4 ++ 0#4 ++ (BitVec.ofBool gd.neg) ++ gd.p ++ 0#3 ++ 0#1 ++ 0#4 ++ 71#7))
  | .vfnExp2 gd d a t => some (.word (t ++ 0#4 ++ 0#4 ++ (BitVec.ofBool gd.neg) ++ gd.p ++ a ++ d ++ 73#7))
  | .vfnLog2 gd d a t => some (.word (t ++ 1#4 ++ 0#4 ++ (BitVec.ofBool gd.neg) ++ gd.p ++ a ++ d ++ 73#7))
  | .vfnRcp gd d a t => some (.word (t ++ 2#4 ++ 0#4 ++ (BitVec.ofBool gd.neg) ++ gd.p ++ a ++ d ++ 73#7))
  | .vfnRsq gd d a t => some (.word (t ++ 3#4 ++ 0#4 ++ (BitVec.ofBool gd.neg) ++ gd.p ++ a ++ d ++ 73#7))
  | .vfnSin gd d a t => some (.word (t ++ 4#4 ++ 0#4 ++ (BitVec.ofBool gd.neg) ++ gd.p ++ a ++ d ++ 73#7))
  | .vfnCos gd d a t => some (.word (t ++ 5#4 ++ 0#4 ++ (BitVec.ofBool gd.neg) ++ gd.p ++ a ++ d ++ 73#7))
  | .coefld gd a b la => some (.word (15#4 ++ la ++ b ++ (BitVec.ofBool gd.neg) ++ gd.p ++ a ++ 0#4 ++ 73#7))
  | .vredAdd gd d a dc => some (.word (0#4 ++ dc ++ 0#4 ++ (BitVec.ofBool gd.neg) ++ gd.p ++ a ++ d ++ 75#7))
  | .vredMinI gd d a dc => some (.word (1#4 ++ dc ++ 0#4 ++ (BitVec.ofBool gd.neg) ++ gd.p ++ a ++ d ++ 75#7))
  | .vredMaxI gd d a dc => some (.word (2#4 ++ dc ++ 0#4 ++ (BitVec.ofBool gd.neg) ++ gd.p ++ a ++ d ++ 75#7))
  | .vredMinN gd d a dc => some (.word (3#4 ++ dc ++ 0#4 ++ (BitVec.ofBool gd.neg) ++ gd.p ++ a ++ d ++ 75#7))
  | .vredMaxN gd d a dc => some (.word (4#4 ++ dc ++ 0#4 ++ (BitVec.ofBool gd.neg) ++ gd.p ++ a ++ d ++ 75#7))
  | .vredFadd gd d a dc => some (.word (5#4 ++ dc ++ 0#4 ++ (BitVec.ofBool gd.neg) ++ gd.p ++ a ++ d ++ 75#7))
  | .vredFmin gd d a dc => some (.word (6#4 ++ dc ++ 0#4 ++ (BitVec.ofBool gd.neg) ++ gd.p ++ a ++ d ++ 75#7))
  | .vredFmax gd d a dc => some (.word (7#4 ++ dc ++ 0#4 ++ (BitVec.ofBool gd.neg) ++ gd.p ++ a ++ d ++ 75#7))
  | .vbcast gd d a w => some (.word (w ++ 0#2 ++ 0#4 ++ 0#4 ++ (BitVec.ofBool gd.neg) ++ gd.p ++ a ++ d ++ 77#7))
  | .vperm gd d a b w => some (.word (w ++ 0#2 ++ 1#4 ++ b ++ (BitVec.ofBool gd.neg) ++ gd.p ++ a ++ d ++ 77#7))
  | .mls gd d a b la => some (.word (0#4 ++ la ++ b ++ (BitVec.ofBool gd.neg) ++ gd.p ++ a ++ d ++ 81#7))
  | .mlss gd d a b la => some (.word (1#4 ++ la ++ b ++ (BitVec.ofBool gd.neg) ++ gd.p ++ a ++ d ++ 81#7))
  | .mma gd d a b la => some (.word (0#4 ++ la ++ b ++ (BitVec.ofBool gd.neg) ++ gd.p ++ a ++ d ++ 83#7))
  | .mmaM gd d a b la => some (.word (1#4 ++ la ++ b ++ (BitVec.ofBool gd.neg) ++ gd.p ++ a ++ d ++ 83#7))
  | .mmaz gd d a b la => some (.word (2#4 ++ la ++ b ++ (BitVec.ofBool gd.neg) ++ gd.p ++ a ++ d ++ 83#7))
  | .mmazM gd d a b la => some (.word (3#4 ++ la ++ b ++ (BitVec.ofBool gd.neg) ++ gd.p ++ a ++ d ++ 83#7))
  | .vprune48 gd d a b t => some (.word (0#4 ++ 0#2 ++ t ++ b ++ (BitVec.ofBool gd.neg) ++ gd.p ++ a ++ d ++ 85#7))
  | .vsdot48 gd d a b t => some (.word (1#4 ++ 0#2 ++ t ++ b ++ (BitVec.ofBool gd.neg) ++ gd.p ++ a ++ d ++ 85#7))
  | .mswap gd la => some (.word (0#4 ++ la ++ 0#4 ++ (BitVec.ofBool gd.neg) ++ gd.p ++ 0#3 ++ 0#1 ++ 0#4 ++ 87#7))
  | .mcfg gd a la => some (.word (1#4 ++ la ++ 0#4 ++ (BitVec.ofBool gd.neg) ++ gd.p ++ a ++ 0#4 ++ 87#7))
  | .mrd gd d a b la => some (.word (2#4 ++ la ++ b ++ (BitVec.ofBool gd.neg) ++ gd.p ++ a ++ d ++ 87#7))
  | .mrdZ gd d a b la => some (.word (3#4 ++ la ++ b ++ (BitVec.ofBool gd.neg) ++ gd.p ++ a ++ d ++ 87#7))
  | .mpop gd d a la => some (.word (4#4 ++ la ++ 0#4 ++ (BitVec.ofBool gd.neg) ++ gd.p ++ a ++ d ++ 87#7))
  | .mdrain gd la => some (.word (5#4 ++ la ++ 0#4 ++ (BitVec.ofBool gd.neg) ++ gd.p ++ 0#3 ++ 0#1 ++ 0#4 ++ 87#7))
  | .mmon gd d k la => some (.word (6#4 ++ la ++ k ++ (BitVec.ofBool gd.neg) ++ gd.p ++ 0#3 ++ 0#1 ++ d ++ 87#7))
  | .cpy gd d la => some (.word (0#4 ++ la ++ 0#4 ++ (BitVec.ofBool gd.neg) ++ gd.p ++ 0#3 ++ 0#1 ++ d ++ 89#7))
  | .cpym gd d b la => some (.word (1#4 ++ la ++ b ++ (BitVec.ofBool gd.neg) ++ gd.p ++ 0#3 ++ 0#1 ++ d ++ 89#7))
  | .cpyr gd d a la => some (.word (2#4 ++ la ++ 0#4 ++ (BitVec.ofBool gd.neg) ++ gd.p ++ a ++ d ++ 89#7))
  | .cnv gd d la => some (.word (0#4 ++ la ++ 0#4 ++ (BitVec.ofBool gd.neg) ++ gd.p ++ 0#3 ++ 0#1 ++ d ++ 91#7))
  | .amaxrs gd d a la => some (.word (1#4 ++ la ++ 0#4 ++ (BitVec.ofBool gd.neg) ++ gd.p ++ a ++ d ++ 91#7))
  | .sscan gd d a b la => some (.word (0#4 ++ la ++ b ++ (BitVec.ofBool gd.neg) ++ gd.p ++ a ++ d ++ 93#7))
  | .semup gd b k => some (.word (0#4 ++ 0#4 ++ b ++ (BitVec.ofBool gd.neg) ++ gd.p ++ k ++ 0#4 ++ 95#7))
  | .semdn gd d k => some (.word (0#4 ++ 1#4 ++ 0#4 ++ (BitVec.ofBool gd.neg) ++ gd.p ++ k ++ d ++ 95#7))
  | .semw gd k => some (.word (0#4 ++ 2#4 ++ 0#4 ++ (BitVec.ofBool gd.neg) ++ gd.p ++ k ++ 0#4 ++ 95#7))
  | .qpush gd d b q => some (.word (0#4 ++ 0#4 ++ b ++ (BitVec.ofBool gd.neg) ++ gd.p ++ q ++ d ++ 97#7))
  | .qpop gd d b q => some (.word (0#4 ++ 1#4 ++ b ++ (BitVec.ofBool gd.neg) ++ gd.p ++ q ++ d ++ 97#7))
  | .qpeek gd d b q => some (.word (0#4 ++ 2#4 ++ b ++ (BitVec.ofBool gd.neg) ++ gd.p ++ q ++ d ++ 97#7))
  | .wqask gd a b la => some (.word (0#4 ++ la ++ b ++ (BitVec.ofBool gd.neg) ++ gd.p ++ a ++ 0#4 ++ 99#7))
  | .wqput gd a b la => some (.word (1#4 ++ la ++ b ++ (BitVec.ofBool gd.neg) ++ gd.p ++ a ++ 0#4 ++ 99#7))
  | .launch gd a b la => some (.word (0#4 ++ la ++ b ++ (BitVec.ofBool gd.neg) ++ gd.p ++ a ++ 0#4 ++ 101#7))
  | .jobsig gd d a b la => some (.word (1#4 ++ la ++ b ++ (BitVec.ofBool gd.neg) ++ gd.p ++ a ++ d ++ 101#7))
  | .cyc gd d k => some (.word (0#4 ++ 0#4 ++ k ++ (BitVec.ofBool gd.neg) ++ gd.p ++ 0#3 ++ 0#1 ++ d ++ 105#7))
  | .tfenceOpen gd => some (.word (1#4 ++ 0#4 ++ 0#4 ++ (BitVec.ofBool gd.neg) ++ gd.p ++ 0#3 ++ 0#1 ++ 0#4 ++ 105#7))
  | .tfenceClose gd d => some (.word (1#4 ++ 0#4 ++ 1#4 ++ (BitVec.ofBool gd.neg) ++ gd.p ++ 0#3 ++ 0#1 ++ d ++ 105#7))
  | .digest gd d a b la => some (.word (2#4 ++ la ++ b ++ (BitVec.ofBool gd.neg) ++ gd.p ++ a ++ d ++ 105#7))
  | .stepb gd d a b la => some (.word (3#4 ++ la ++ b ++ (BitVec.ofBool gd.neg) ++ gd.p ++ a ++ d ++ 105#7))
  | .rlinit gd a b la => some (.word (0#4 ++ la ++ b ++ (BitVec.ofBool gd.neg) ++ gd.p ++ a ++ 0#4 ++ 113#7))
  | .rlins gd d a b la => some (.word (1#4 ++ la ++ b ++ (BitVec.ofBool gd.neg) ++ gd.p ++ a ++ d ++ 113#7))
  | .rlget gd d a b la => some (.word (2#4 ++ la ++ b ++ (BitVec.ofBool gd.neg) ++ gd.p ++ a ++ d ++ 113#7))
  | .rlstat gd d a k la => some (.word (3#4 ++ la ++ k ++ (BitVec.ofBool gd.neg) ++ gd.p ++ a ++ d ++ 113#7))
  | .rlfin gd d a la => some (.word (4#4 ++ la ++ 0#4 ++ (BitVec.ofBool gd.neg) ++ gd.p ++ a ++ d ++ 113#7))
  | .trvgo gd d a b la => some (.word (0#4 ++ la ++ b ++ (BitVec.ofBool gd.neg) ++ gd.p ++ a ++ d ++ 115#7))
  | .trvbud gd a b la => some (.word (1#4 ++ la ++ b ++ (BitVec.ofBool gd.neg) ++ gd.p ++ a ++ 0#4 ++ 115#7))
  | .tri gd d a b pf => some (.word (0#4 ++ pf ++ b ++ (BitVec.ofBool gd.neg) ++ gd.p ++ a ++ d ++ 117#7))
  | .splat gd d a b pf => some (.word (1#4 ++ pf ++ b ++ (BitVec.ofBool gd.neg) ++ gd.p ++ a ++ d ++ 117#7))
  | .volseg gd d a b pf => some (.word (2#4 ++ pf ++ b ++ (BitVec.ofBool gd.neg) ++ gd.p ++ a ++ d ++ 117#7))
  | .dkl gd d a b pf => some (.word (3#4 ++ pf ++ b ++ (BitVec.ofBool gd.neg) ++ gd.p ++ a ++ d ++ 117#7))
  | .gctx gd a b la => some (.word (0#4 ++ la ++ b ++ (BitVec.ofBool gd.neg) ++ gd.p ++ a ++ 0#4 ++ 121#7))
  | .rastri gd b la => some (.word (1#4 ++ la ++ b ++ (BitVec.ofBool gd.neg) ++ gd.p ++ 0#3 ++ 0#1 ++ 0#4 ++ 121#7))
  | .rasfrag gd d b la => some (.word (2#4 ++ la ++ b ++ (BitVec.ofBool gd.neg) ++ gd.p ++ 0#3 ++ 0#1 ++ d ++ 121#7))
  | .blend gd a b la => some (.word (3#4 ++ la ++ b ++ (BitVec.ofBool gd.neg) ++ gd.p ++ a ++ 0#4 ++ 121#7))
  | .texs gd d a b la => some (.word (0#4 ++ la ++ b ++ (BitVec.ofBool gd.neg) ++ gd.p ++ a ++ d ++ 123#7))
  | .texl gd d a b la => some (.word (1#4 ++ la ++ b ++ (BitVec.ofBool gd.neg) ++ gd.p ++ a ++ d ++ 123#7))
  | .surfrel gd a la => some (.word (0#4 ++ la ++ 0#4 ++ (BitVec.ofBool gd.neg) ++ gd.p ++ a ++ 0#4 ++ 125#7))
  | .surfacq gd a la => some (.word (1#4 ++ la ++ 0#4 ++ (BitVec.ofBool gd.neg) ++ gd.p ++ a ++ 0#4 ++ 125#7))
  | .cMov d a => some (.half (0#3 ++ a ++ d ++ 0#4 ++ 0#1))
  | .cAdd d a => some (.half (0#3 ++ a ++ d ++ 1#4 ++ 0#1))
  | .cSub d a => some (.half (0#3 ++ a ++ d ++ 2#4 ++ 0#1))
  | .cAddi d imm => some (.half (imm ++ d ++ 3#4 ++ 0#1))
  | .cLdi d imm => some (.half (imm ++ d ++ 4#4 ++ 0#1))
  | .cLd d a off => some (.half (0#1 ++ off ++ a ++ d ++ 5#4 ++ 0#1))
  | .cSt d a off => some (.half (0#1 ++ off ++ a ++ d ++ 6#4 ++ 0#1))
  | .cBr pf off => some (.half (off ++ pf ++ 7#4 ++ 0#1))
  | .cJ off => some (.half (off ++ 8#4 ++ 0#1))
  | .cCmp d a cc => some (.half (cc ++ a ++ d ++ 9#4 ++ 0#1))
  | .cShli d imm => some (.half (imm ++ d ++ 10#4 ++ 0#1))
  | .cNop => some (.half (0#7 ++ 0#4 ++ 11#4 ++ 0#1))
  | .cYield => some (.half (1#7 ++ 0#4 ++ 11#4 ++ 0#1))
  | .cQuit => some (.half (2#7 ++ 0#4 ++ 11#4 ++ 0#1))
  | .cPush d k => some (.half (k ++ d ++ 12#4 ++ 0#1))
  | .cPop d k => some (.half (k ++ d ++ 13#4 ++ 0#1))
  | .requestArrival => none
  | .put => none
  | .writeback => none
  | .waitlimExpiry => none
  | .withdraw => none
  | .resend => none
  | .trapEntry => none
  | .wakeArrival => none
  | .migrationDeparture => none
  | .runQueueArrival => none
  | .runQueueEntry => none
  | .quitSlotEmpty => none
  | .messageArrival => none
  | .handlerStart => none
  | .resumeNone => none
  | .resumeReissue => none
  | .resumeConvert => none
  | .registerWrite => none
  | .engineAcceptance => none
  | .copyExecution => none
  | .conversionExecution => none
  | .sscanExecution => none
  | .arrayCommand => none
  | .deckleRowCommand => none
  | .packetTake => none
  | .packetAcceptance => none
  | .flaskPlacement => none
  | .gridCompletion => none
  | .wqaskArrival => none
  | .wqputArrival => none
  | .timeSliceExpiry => none
  | .notifyWrite => none
  | .hostApertureAccess => none
  | .droopStretch => none
  | .detectorTrip => none
  | .peerDigestArrival => none
  | .memberTimeout => none
  | .spill => none
  | .restore => none
  | .discard => none
  | .watchdogExpiry => none
  | .tileSparing => none
  | .couchPerform => none
  | .traversalBegin => none
  | .nodeVisit => none
  | .ringEntryWrite => none
  | .rasterize => none
  | .blendPerform => none
  | .linkTraining => none
  | .portFailure => none
  | .powerOn => none
  | .signedImage => none
  | .attestationRequest => none
  | .placeContextTable => none
  | .placeFaultRing => none
  | .placeParkingArea => none
  | .placeQueueTable => none
  | .setTimeSlice => none
  | .placeSaveAreas => none
  | .placeDecodeTable => none
  | .assignFixedTimingTiles => none
  | .reserveFrameSlots => none
  | .setWdlim => none
  | .formReplicaGroup => none
  | .setPeerTable => none
  | .setContextDefaults => none
  | .setRunnerDefaults => none
  | .setPlacementList => none
  | .fatalTrapReport => none
  | .setPortMode => none
  | .setPowerCap => none
  | .powerLimitExceeded => none
  | .temperatureExcursion => none
  | .laneSparing => none
  | .slotStateError => none
  | .cxlMemAccess => none
  | .notifyWindowRead => none
  | .trayExcursion => none

/-- The bytes of the table word `w` of `nbits` bits, padded with zeros to the longest instruction. -/
def tableBytes (nbits w : Nat) : List Byte :=
  let x : BitVec 32 := BitVec.ofNat 32 (w % 2 ^ nbits)
  (Encoding.word x).bytes

/-- What this decoder reads from an instruction whose bits are `w`, numbered as spec/opcode_table.json numbers them. -/
def decodeTableWord (nbits w : Nat) : Option Instr :=
  match decode (tableBytes nbits w) with
  | .ok (i, _) => some i
  | .error _ => none

end Sys2Proof
end

