-- ==== Sys2Proof/Machine/State.lean ====
section
/-!
DEFINITION. The state of the whole module as plain data: every piece of state that spec/ names (INVENTORY.md lists them with their rules),
the reasons a step can stop, and the state right after reset. A `NatMap` is a canonical list keyed by numbers; an absent key stands for the
default that the reader of that map names (an EMPTY slot, a tile as reset leaves it, ...).

A thread is named by its slot key, global core number × 32 + slot: the low 18 bits of its TID (R43).
-/

namespace Sys2Proof.Machine

/-! ### Threads -/

/-- The scopes of R184, in order of their codes. -/
inductive Scope where
  | thread | crew | flask | device | system
  deriving DecidableEq, Repr

/-- The trap causes of R288. -/
inductive Cause where
  | illegal | lookahead | protection | align | waitExpired | parkExhausted | malformedMetadata | structFault
  | runnerWait | div0 | brk | machineCheck | soft
  deriving DecidableEq, Repr

/-- A trap as it falls due (R287, R288). `resume` is absent for a deferred trap, which resumes at the first instruction not yet issued. -/
structure TrapReq where
  cause : Cause
  epc : Word
  resume : Option Word
  addr : Word
  info : Word
  deferred : Bool
  insn : BitVec 32
  wide : Bool
  held : Bool
  deriving DecidableEq, Repr

/-- A set of registers: scalars, predicates, short vectors, long vectors, FLAGS and the thread's coefficient memory (R23, R76, R126). -/
structure Touch where
  s : BitVec 16 := 0
  p : BitVec 16 := 0
  v : BitVec 16 := 0
  w : BitVec 16 := 0
  flags : Bool := false
  coef : Bool := false
  deriving DecidableEq, Repr

/-- One register write of a completion. -/
inductive RegWrite where
  | s (i : BitVec 4) (x : Word)
  | p (i : BitVec 4) (b : Bool)
  | v (i : BitVec 4) (x : Quad)
  | w (i : BitVec 4) (x : LongVec)
  | flags (f : BitVec 5)
  deriving DecidableEq, Repr

/-- How an operation in flight ended: registers it writes, a deferred trap it raises, and what its completion acquires (R155, R194). `exact` marks a trap that is precise when no later
instruction of the thread has issued by the time the trap falls due (R171). -/
structure Result where
  writes : List RegWrite := []
  trap : Option TrapReq := none
  exact : Bool := false
  acquire : Option Scope := none
  deriving DecidableEq, Repr

/-- A long-latency operation of a thread that has issued and not yet written its destinations (R23), or an engine command whose token is pending (R226). -/
structure PendOp where
  id : Nat
  pc : Word
  insn : BitVec 32
  wide : Bool
  dest : Touch
  /-- The command has completed and only its token and FLAGS are pending (R226). -/
  token : Bool
  /-- It is long-latency: encoded in the L or M format (R23). -/
  longLatency : Bool
  /-- Its lookahead (R23), and whether a later instruction of the thread has issued (R171). -/
  la : Nat
  later : Bool
  issued : Nat
  result : Option Result
  deriving DecidableEq, Repr

/-- An open lookahead window (R23): the operation that opened it, its PC, how many members are still to issue, its destinations. -/
structure Window where
  op : Nat
  pc : Word
  left : Nat
  dest : Touch
  deriving DecidableEq, Repr

/-- What a `GCTX` waits for (R358, R360, R361): the ends of its open group's pops and blends, a place among the resident contexts, the groups of the draw before, or its own group's turn in
the draw. -/
inductive GroupWait where
  | ends
  | resident
  | draw
  | order
  deriving DecidableEq, Repr

/-- Why a thread is WAITING (R47). -/
inductive Wait where
  /-- A register that an incomplete operation will write (R26, R73). -/
  | scoreboard
  /-- Room in an engine's FIFO, a ray context, a raster unit or a blend window (R202, R225, R327, R362, R366). -/
  | room
  /-- `YIELD` until its own turn has come round once (R54). -/
  | yield
  /-- Earlier accesses, for a fence, `TFENCE` or a list command's header (R192, R282, R319). -/
  | earlier
  /-- Writebacks to s13 and the predicates, before trap entry (R286). -/
  | trapEntry
  /-- The record that `ERET` reads (R292). -/
  | eret
  /-- `GCTX`, timed against WAITLIM (R360): its lookahead, s[A], and what it waits for. -/
  | group (la : Nat) (va : Word) (why : GroupWait)
  /-- `QUIT`: the outstanding writebacks (R53). -/
  | quit
  deriving DecidableEq, Repr

/-- Why a thread is PARKED (R47). -/
inductive Park where
  /-- `PARK` (R55). -/
  | wake
  /-- A crew or flask barrier: which, and the phase waited on (R67). `own` tells `BARC` and `BARF` from `BARW`. -/
  | barrier (flask : Bool) (phase : BitVec 32) (own : Bool)
  /-- `SEMW` on semaphore k of a tile (R250). -/
  | sem (tile k : Nat)
  /-- A page fault on its own access, its fetch or its trap record (R146). -/
  | fault
  /-- `STEPB` waiting for the group's digests (R284). -/
  | step
  deriving DecidableEq, Repr

/-- A thread leaving its slot (R60, R62): its target core, whether hardware moves it, the PC of the instruction that moves it, resends made, the cycle count of its tile at the refusal that the next follows, and the predicate that
`MIGR` wrote with its value before, which a precise PARK_EXHAUSTED gives back (R61, R144). -/
structure Leaving where
  target : Nat
  hardware : Bool
  pc : Word
  insn : BitVec 32
  resends : Nat
  again : Option Nat
  undo : Option (BitVec 4 × Bool)
  deriving DecidableEq, Repr

/-- The slot states of R47; EMPTY is the absence of a thread. -/
inductive Status where
  | active
  | waiting (why : Wait)
  | parked (why : Park)
  | spilled
  | leaving (l : Leaving)
  deriving DecidableEq, Repr

/-- A member's flags at one barrier (R67). -/
structure BarrierFlags where
  arrived : Bool := false
  phase : BitVec 32 := 0
  outstanding : Bool := false
  /-- What the completed phases of a detached thread, alone at its barrier, have released (R52, R67). -/
  prev : List Nat := []
  deriving DecidableEq, Repr

/-- A fragment of R363. -/
structure Fragment where
  x : Nat
  y : Nat
  prim : Nat
  b1 : BitVec 32
  b2 : BitVec 32
  deriving DecidableEq, Repr

/-- The open raster group of a thread (R360-R363): its graphics context and the serial of its draw, its index, triangles pushed, those not yet rasterized and the pixel (y, x) from which
the first goes on, the fragment queue, and the `RASFRAG`s that wait for a fragment (operation, D, predicate). -/
structure Group where
  gctx : Nat
  draw : Nat
  index : Nat
  prims : Nat
  triangles : List (Nat × Quad)
  pos : Option (Nat × Nat)
  fragments : List Fragment
  pops : List (Nat × BitVec 4 × BitVec 4)
  deriving DecidableEq, Repr

/-- What the slot keeps of a spilled thread beside its save area (R296), and what its restore needs. -/
structure SpillInfo where
  reason : Nat
  /-- The wait that was withdrawn, issued again at restore (R300). -/
  wait : Option Park
  deriving DecidableEq, Repr

/-- The members of the default-setting registers, TIMING and traps of a thread are named as in R75. -/
structure Thread where
  /-- PC[63:1]; bit 0 of the PC is always 0 (R14). -/
  pcHalf : BitVec 63
  s : Vector Word 16
  p : BitVec 16
  e : Vector Word 8
  v : Vector Quad 8
  /-- LONG vector mode (R113). -/
  long : Bool
  inc : BitVec 8
  status : Status
  wake : Bool
  /-- Accesses of the wakers that the `PARK` which takes the wake bit acquires (R394). -/
  wakeRel : List Nat
  flags : BitVec 5
  rmode : BitVec 2
  approx : BitVec 9
  div0 : Bool
  waitlim : BitVec 32
  retrylim : BitVec 16
  prio : BitVec 2
  fixed : Bool
  broken : Bool
  inreg : Bool
  fmta : Word
  fmtb : Word
  fmts : Word
  /-- COEFBASE[12:2] (R125). -/
  coefbase : BitVec 11
  trapvec : Word
  traprec : Word
  intrap : Bool
  /-- Deferred traps fallen due and not yet taken, each with its operation's id, which orders them in program order (R145, R289). -/
  due : List (Nat × TrapReq)
  /-- Held traps, oldest first (R289). -/
  heldTraps : List TrapReq
  /-- The trap whose entry waits for writebacks or for a page fault on its record (R286, R290). -/
  entering : Option TrapReq
  ops : List PendOp
  windows : List Window
  /-- One more than the own turns still to forfeit, or 0 (R96, R111, R129). -/
  forfeits : Nat
  ctx : Nat
  crew : Nat
  flask : Nat
  /-- Thread index within the crew (R58). -/
  index : Nat
  spawned : Bool
  /-- A thread with no grid (R52), and the handler in a runner slot. -/
  detached : Bool
  scope : Scope
  barCrew : BarrierFlags
  barFlask : BarrierFlags
  group : Option Group
  spill : Option SpillInfo
  /-- The present wait of its next instruction, and the cycle count of its tile when that began, for WAITLIM (R172). -/
  waitSince : Option (Status × Nat)
  /-- The cycle count of its tile when it began to wait on page faults, which WAITLIM does not time (R146). -/
  faultSince : Option Nat
  /-- The cycle of its last issue (R54, R301), and the word of the instruction that it issued or tried last (R287). -/
  lastIssue : Nat
  word : BitVec 32
  /-- Cycles in which a detached thread, which is a flask of one, has not issued, not counting pauses (R52, R301). -/
  idle : Nat
  /-- Ids of requests that must be performed before any later access of this thread (R187, R394). -/
  after : List Nat
  /-- The scope of an acquire that completes only when those have been performed: its discard is made then, before the thread's next access (R155, R394). -/
  owed : Option Scope
  /-- The VA of an instruction fetch that waits on a page fault (R146), and the id that was next when the thread started or executed its last `FENCE.i` (R16, R193). -/
  fetchFault : Option Nat
  fetchFrom : Nat
  deriving DecidableEq, Repr

/-! ### Requests in flight -/

/-- Full/empty operations (R164, R165). -/
inductive FeOp where
  | ldw | ldc | ldxw | ldxc | stf | stfx | stff | feset | feclr | fetest
  deriving DecidableEq, Repr

/-- Atomic operations (R175, R177, R241). -/
inductive AmoOp where
  | add | and | or | xor | min | max | minn | maxn | swap | cas | faddF32 | faddBf16 | ordAdd | ordFadd | reset
  deriving DecidableEq, Repr

/-- Commands to the Couch (R319, R332). -/
inductive ListCmd where
  | init (setting : Word)
  | ins (answer : Quad)
  | get (index : Nat)
  | stat (k : Nat)
  | fin
  | budget (b : Word)
  deriving DecidableEq, Repr

/-- A launch packet, parsed (R255). -/
structure Packet where
  entry : Word
  args : List Word
  fmtp : Nat
  wqclose : Bool
  wqlim : Nat
  wqn : Nat
  det : Bool
  timing : Bool
  fuse : Bool
  scope : Scope
  slots : Nat
  flaskSize : Nat
  crewSize : Nat
  flasks : Nat
  depj : Nat
  job : Nat
  deriving DecidableEq, Repr

/-- The scene instructions (R343). -/
inductive SceneForm where
  | tri | splat | volseg | dkl
  deriving DecidableEq, Repr

/-- What a request asks of the place it goes to. -/
inductive Ask where
  /-- A load into one scalar register (R151), or into a pair. -/
  | load (signed : Bool)
  | loadPair
  | store
  /-- The lanes of a vector load or store, one access each (R122). -/
  | gather (bits : Nat)
  | scatter (bits : Nat)
  /-- `COEFLD` into coefficient memory at an offset (R126). -/
  | coef (offset : Nat)
  /-- `CCTL.tinv` and `CCTL.tinvc` (R159): context, and the address unless all translations go. -/
  | tinv (ctx : Nat) (va : Option Nat)
  | fullEmpty (op : FeOp)
  | atomic (op : AmoOp)
  /-- An active message (R181): target core, peer number, handler PC, words, and sequence number of `.SEQ`. -/
  | message (core device : Nat) (pc : Word) (words : List Word) (seq : Option Nat)
  /-- A device launch (R260): the target die; the packet once it has been read. -/
  | launch (die : Nat) (packet : Option Packet)
  | jobsig (job : Nat)
  /-- `WQASK` and `WQPUT` (R265). -/
  | wqask (counter : Nat)
  | wqput (counter count : Nat) (close : Bool)
  | list (cmd : ListCmd)
  /-- `TEXS` and `TEXL` (R370). -/
  | texture (linear : Bool) (coords : Quad)
  /-- A scene instruction's reads of its primitive, the ray, and the accesses that the push of a `DKL`'s row releases (R194, R344). -/
  | scene (form : SceneForm) (ray : Quad) (rel : List Nat)
  /-- `DIGEST` (R283): number of table entries and output address. -/
  | digest (count out : Nat)
  /-- `STEPB` (R284). -/
  | step (number : Nat)
  | surfrel
  | surfacq
  /-- A blend waiting for its window (R364, R366). -/
  | blend (surface : Nat) (fragment : Quad)
  /-- The notify read of a hardware queue slot (R268), and of a remap (R269). -/
  | notify (remap : Bool)
  /-- The adds of a peer's `CPYR` that are still to be made (R235, R374): the peer, and whether the elements are .bf16. -/
  | addRow (peer : Nat) (bf16 : Bool)
  /-- An `STFF` of no thread, performed on no cluster: of a signal word (R263), or of a notify word by the host (R372). -/
  | fill (host : Bool)
  deriving DecidableEq, Repr

/-- Where a request stands. -/
inductive Stage where
  /-- Issued; not yet arrived. -/
  | sent
  /-- On its word's list (R166), and the parking entry that holds it, if parked (R168). -/
  | listed (entry : Option Nat)
  /-- Held behind a reservation (R167). -/
  | heldBack
  /-- In the ordered buffer (R177): early, or in the 16th entry until the put; the key of the word's reservation. -/
  | buffered (early : Bool) (key : Nat)
  /-- A take granted: the word's value before it, and the key of the word's reservation (R174). -/
  | taken (old : Word) (key : Nat)
  /-- The first of two reads has been made, and this was read: the lower half of an `LDP` on an MT 2 page (R152), the leaf of a `DKL`, the descriptor of a texture instruction (log 54), and all
  of the source of a `COEFLD`, which is then written to the coefficient memory (R127). -/
  | half (low : Nat)
  /-- Refused, at a cycle count of its core's tile; sent again 32 cycles later (R171). -/
  | refused (since : Nat)
  /-- Waiting on a page fault (R146). -/
  | faulted
  /-- Withdrawn by a spill, to be issued again at restore (R173). -/
  | withdrawn
  /-- Accepted where it goes, waiting there (an ask pending, a step waiting for digests). -/
  | accepted
  deriving DecidableEq, Repr

/-- Who made a request: a thread's slot, a hardware queue slot of a die (R268), a command of a tile's conversion engine (R240), or a thread that a job halt has taken out of its slot
(R285). -/
inductive Issuer where
  | thread (k : Nat)
  | queue (die slot : Nat)
  | engine (tile op : Nat)
  | gone
  deriving DecidableEq, Repr

/-- One of the accesses of a request or command that is made word by word or lane by lane (R123, R127, R350): its index among them, the value read or stored, its address and memory key, and
the page whose translation it has used (R159). -/
structure Part where
  index : Nat
  value : Nat
  va : Nat
  key : Nat
  page : Nat × Nat
  deriving DecidableEq, Repr

/-- A request in flight. `spans` lists its byte ranges as (address, size); `after` the requests that must be performed first (R153, R187, R394). -/
structure Req where
  id : Nat
  who : Issuer
  op : Nat
  ctx : Nat
  core : Nat
  pc : Word
  insn : BitVec 32
  wide : Bool
  ask : Ask
  spans : List (Nat × Nat)
  data : Nat
  cmp : Word
  d : BitVec 4
  pf : BitVec 4
  vlong : Bool
  scope : Scope
  form : Nat
  acq : Bool
  rel : Bool
  rmode : BitVec 2
  seq : Nat
  runner : Bool
  waitlim : Nat
  retrylim : Nat
  resends : Nat
  /-- The cycle count of its core's tile at its issue, moved on by the cycles in which a page fault stopped the count of WAITLIM (R146, R172). -/
  issued : Nat
  arrived : Nat
  after : List Nat
  stage : Stage
  /-- The first address and the size of the page whose translation it has used at its home (R159). -/
  page : Nat × Nat := (0, 0)
  /-- What it has performed so far of its present reads or stores, and where all of its stores go once their addresses have been checked (R122, R123). -/
  parts : List Part := []
  reached : List Part := []
  /-- WAITLIM has been reached: a withdraw is on its way to the home (R172). -/
  expiring : Bool
  deriving DecidableEq, Repr

/-- What a home keeps under a context and an address: the list of the word's waiters, in arrival order (R166). -/
structure Home where
  list : List Nat := []
  deriving DecidableEq, Repr

/-- What a home keeps for a word itself, whatever context asks: its reservation, and what waits for its end (R167, R174). -/
structure Hold where
  resv : Option Nat := none
  held : List Nat := []
  /-- The lists of the word, by their keys as homes, whose waiters are still to be served when the reservation ends. -/
  owed : List Nat := []
  deriving DecidableEq, Repr

/-- Who waits on a page fault (R146, R228, R334). -/
inductive Faulter where
  | request (r : Nat)
  /-- A fetch, with the first halfword of its instruction if only the second faults. -/
  | fetch (k : Nat) (low : Option (BitVec 16))
  | trapRecord (k : Nat)
  | eret (k : Nat)
  | engine (tile engine : Nat)
  | traversal (tile op : Nat)
  /-- The descriptor read of a `GCTX`, which is issued again (R358). -/
  | gctx (k : Nat)
  deriving DecidableEq, Repr

/-- A pending page fault: what its record says, who waits (R146), and the answer that has come while its thread was SPILLED: 0 none, 1 reissue, 2 convert, and
4 more for the one that ANS of the save area shows (R149). -/
structure PageFault where
  die : Nat
  va : Nat
  tid : Nat
  kind : Nat
  cause : Nat
  ctx : Nat
  pc : Word
  who : Faulter
  answer : Nat := 0
  deriving DecidableEq, Repr

/-- An entry that a die still has to write into its fault ring: a record of a held fault, or a notice (R146, R294). -/
structure RingEntry where
  die : Nat
  bytes : Nat
  deriving DecidableEq, Repr

/-! ### Tile engines -/

/-- What an engine command does (R202, R229, R236, R242, R349). -/
inductive EngineWork where
  | copy | copyMulti (mask : Nat) | copyPeer (peer : Nat)
  | convert | scan
  | plate (sparse : Bool)
  | stream (memory zero : Bool)
  | swap | cfg | read (zero : Bool) | pop | drain | mon (k : Nat)
  | row (data : List Nat)
  deriving DecidableEq, Repr

/-- What is left to do of a row that the copy or conversion engine has begun (R228, R232, R235, R239): reads, each kept as it is made, then the writes, in order. -/
inductive EngineStep where
  /-- A plain read of some bytes. -/
  | read (va n : Nat)
  /-- A read of a word with its state (R178). -/
  | readWord (va : Nat)
  /-- Every word of the row has been read: the writes are laid down. -/
  | lay
  /-- A word is written with data and state, or under `JOIN` with the state that bit i of the side array gives. -/
  | write (va data : Nat) (full : Bool)
  | join (va data i : Nat)
  /-- Bit i of the side array is written (R179). -/
  | sideBit (i : Nat) (full : Bool)
  /-- Bytes of a converted row are written. -/
  | bytes (va n data : Nat)
  /-- Flags of a converted block are raised. -/
  | flags (f : BitVec 5)
  /-- The elements of a word are added to those of a word of this module. -/
  | add (va data : Nat)
  /-- A row goes to a peer, in the context bound there: address, data, bytes. -/
  | send (peer bound va data n : Nat)
  deriving DecidableEq, Repr

/-- An engine command with everything captured at issue (R33, R76) and at acceptance (R104, R231, R238). -/
structure EngineCmd where
  work : EngineWork
  key : Nat
  op : Nat
  core : Nat
  ctx : Nat
  pc : Word
  token : BitVec 4
  a : Word
  b : Word
  e : Vector Word 8
  rmode : BitVec 2
  approx : BitVec 9
  fmta : Word
  fmtb : Word
  fmts : Word
  coefbase : BitVec 11
  scope : Scope
  /-- The accesses that its push releases (R194). -/
  after : List Nat
  /-- It has no published cost (R277). -/
  untimed : Bool
  /-- It has taken its place in acceptance order (R202, R225), and what was read then: the descriptors at FMTA and FMTB, the scale-base pair, the amax word of SMODE 2, a STATUS and
  address on which it ends, and the address concerned if some tile that it names held no thread of the context. -/
  accepted : Bool
  descA : Nat
  descB : Nat
  bases : Nat
  amax : Nat
  refused : Option (Nat × Nat)
  absent : Option Nat
  /-- Rows or chunks finished, what is left of a row that has been begun and what has been read of it, flags raised, the largest magnitude seen, and the id of the
  update of its amax word, when the command pauses. -/
  done : Nat
  row : List EngineStep
  got : List (Nat × Bool)
  flags : BitVec 5
  top : Val
  update : Option Nat
  /-- Its format descriptors failed their checks when it was accepted: its trap has been raised, and at its turn it has no effect but that of its failure (R104, R207). -/
  failed : Bool
  /-- Stopped on a page fault; a convert answer ends the command (R228). -/
  stopped : Bool
  converted : Bool
  /-- The words of the head of a row command that have been read (R350). -/
  parts : List Part := []
  deriving DecidableEq, Repr

/-- A plate in a plane (R204): format, scale kind, columns, scales or headers, masks of a sparse plate. -/
structure Plate where
  fmt : Nat
  skind : Nat
  sparse : Bool
  columns : List (List Byte)
  scales : List (List Nat)
  masks : List (List Byte)
  deriving DecidableEq, Repr

/-- The error monitor of the array (R216). -/
structure Monitor where
  on : Bool := false
  ks : Nat := 0
  seed : Nat := 0
  samp : Nat := 0
  esum : Nat := 0
  emax : Nat := 0
  skip : Nat := 0
  deriving DecidableEq, Repr

/-- The matrix array of a tile (R200-R217); its accumulators stand in `State.accs`. -/
structure MatrixArray where
  holder : Option Nat := none
  active : Option Plate := none
  shadow : Option Plate := none
  monitor : Monitor := {}
  fifo : List EngineCmd := []
  deriving DecidableEq, Repr

/-- A counting semaphore (R249). `rel` holds the accesses that a taker's acquire waits for (R394). -/
structure Semaphore where
  count : Nat := 0
  owner : Option Nat := none
  waiters : List Nat := []
  rel : List Nat := []
  deriving DecidableEq, Repr

/-- A tile queue (R252); each entry carries the accesses that its pop's acquire waits for. -/
structure TileQueue where
  owner : Option Nat := none
  entries : List (Word × List Nat) := []
  deriving DecidableEq, Repr

/-- A node that the node cache of the Sprue holds (R333): context, address, and its bytes as they were fetched. -/
structure CachedNode where
  ctx : Nat
  addr : Nat
  bytes : Nat
  deriving DecidableEq, Repr

/-- Where a traversal stands (R327): accepted, running, or waiting to write its end entry with a STATUS and an address. -/
inductive TraversalStage where
  | accepted | running | ending (status : Nat) (waddr : Nat)
  deriving DecidableEq, Repr

/-- An entered child of a visited node (R329): its kind byte, address, entry and exit, and the address of its child word. -/
structure Child where
  kind : Nat
  addr : Nat
  enter : Nat
  leave : Nat
  word : Nat
  deriving DecidableEq, Repr

/-- A traversal in a ray context of the Sprue (R326-R331). `list` is the address of its list; `visits` and `budget` are VISITS and B_eff; `ring` counts the ring entries it has written,
and `out` is word 0 of the entry that waits for its slot; `leaves` and `nodes` are the entered children of the visited node that are still to be dealt with. -/
structure Traversal where
  key : Nat
  op : Nat
  ctx : Nat
  pc : Word
  token : BitVec 4
  list : Nat
  ray : Quad
  base : Nat
  size : Nat
  e2 : Nat
  coefbase : BitVec 11
  stage : TraversalStage
  stack : List (Nat × Nat)
  visits : Nat
  budget : Nat
  ring : Nat
  out : Option Nat
  leaves : List Child
  nodes : List Child
  after : List Nat
  /-- The node on top of its stack has been popped and counted, and is still to be read: its read has faulted (R334). -/
  reading : Bool
  /-- Stopped on a page fault; the address at which a convert answer ends it (R334). -/
  stopped : Bool
  converted : Option Nat
  /-- The request of the `RLINIT` or `RLFIN` that has stopped it (R334). -/
  stopAsked : Option Nat
  deriving DecidableEq, Repr

/-- A tile (R1): its regime, clock, long-vector unit, coefficient owner, semaphores, queues and engines. -/
structure Tile where
  /-- In the fixed-timing regime, and the context that owns it (R275). -/
  fixed : Bool := false
  owner : Option Nat := none
  /-- How far the tile's own cycle counter runs ahead of the pinned reference, modulo 2^64 (R275, R281), and its cycles stretched since reset. -/
  ahead : Word := 0
  stretched : Word := 0
  /-- The long-vector unit: its holder and w0-w15 (R113, R114). -/
  unit : Option Nat := none
  w : Vector LongVec 16 := Vector.replicate 16 0
  coefOwner : Option Nat := none
  sems : Vector Semaphore 16 := Vector.replicate 16 {}
  queues : Vector TileQueue 4 := Vector.replicate 4 {}
  copyQ : List EngineCmd := []
  convQ : List EngineCmd := []
  array : MatrixArray := {}
  /-- Commands in the Couch, by request id in the order they reached it (R324). -/
  couch : List Nat := []
  rays : List Traversal := []
  /-- The node cache (R333). -/
  nodes : List CachedNode := []
  deriving DecidableEq, Repr

/-- A line of an L1 (R154): context, VA[55:5], its 32 bytes, the X and W bits of the leaf it came from and whether that is an MT 1 page, whether instruction fetch filled it, and the first
address and size of its page (R155). -/
structure L1Line where
  ctx : Nat
  line : Nat
  bytes : BitVec 256
  x : Bool
  w : Bool
  host : Bool
  fetched : Bool
  page : Nat
  pageSize : Nat
  deriving DecidableEq, Repr

/-- A context on its way to a core or in its run queue (R61): the thread, the tile it left, the target core, whether hardware moves it, the parking entries that hold it, if any, and its
place in arrival order once it is queued. -/
structure Migrant where
  thread : Thread
  source : Nat
  target : Nat
  hardware : Bool
  parked : Option Nat
  arrived : Option Nat
  deriving DecidableEq, Repr

/-- A message in a runner queue (R183). -/
structure Message where
  pc : Word
  words : List Word
  seq : Option Nat
  ctx : Nat
  sender : Nat
  grid : Nat
  rel : List Nat
  parked : Option Nat
  /-- Device, or system for a message from a peer: the scope at which its handler acquires (R182, R195). -/
  scope : Scope
  deriving DecidableEq, Repr

/-- A core: L1, runner queue, last sequence numbers run by sender and grid, and runner defaults (R61, R63, R154, R183). -/
structure Core where
  l1 : List L1Line := []
  runnerQ : List Message := []
  seqs : List (Nat × Nat × Nat) := []
  defaults : ControlDefaults := {}
  deriving DecidableEq, Repr

/-- A cluster: whether its 32 L1s are fused, and the crews and flasks with a member away (R157); whether its spare tile is in use (R305). -/
structure Cluster where
  fused : Bool := false
  departedCrews : List Nat := []
  departedFlasks : List Nat := []
  spareFor : Option Nat := none
  deriving DecidableEq, Repr

/-! ### Work -/

/-- A packet that has reached a Tundish and is not yet accepted (R256, R258): the packet, its context, its source (a hardware slot, or 256 for the device launch queue), its
parent grid, the `LAUNCH` that waits for its acceptance, and the parking entries that hold it, if any. -/
structure Arrival where
  packet : Packet
  ctx : Nat
  source : Nat
  parent : Option Nat
  req : Option Nat
  parked : Option Nat
  deriving DecidableEq, Repr

/-- A work counter (R264) and its pending asks, oldest first: the tile and window offset of each answer word. -/
structure Counter where
  next : Nat
  limit : Nat
  closed : Bool
  asks : List (Nat × Nat)
  deriving DecidableEq, Repr

/-- A grid (R41, R257-R264). -/
structure Grid where
  packet : Packet
  ctx : Nat
  die : Nat
  source : Nat
  parent : Option Nat
  children : Nat
  /-- Flasks placed so far, and flasks whose every slot has emptied. -/
  placed : Nat
  done : Nat
  fmts : List Word
  counters : List Counter
  /-- A deterministic grid's placement list, and how many flasks have been placed at each position of it (R270). -/
  list : List Nat
  det : List Nat
  deriving DecidableEq, Repr

/-- A flask (R41): grid, index, cluster, crews, barrier phase, watchdog count (R67, R301). -/
structure Flask where
  grid : Nat
  index : Nat
  cluster : Nat
  crews : List Nat
  phase : BitVec 32
  /-- What arrivals of the present phase release, and what completed phases have released (R67, R394). -/
  rel : List Nat
  prev : List Nat
  /-- Cycles in which no member has issued, not counting pauses (R301). -/
  idle : Nat
  /-- The cycle of the last issue of a member that has left its slot since (R301). -/
  leftIssue : Option Nat := none
  deriving DecidableEq, Repr

/-- A crew (R41, R42): flask, tile, index, members by slot key (2^30 plus its number for a member on its way), reserved slots, barrier phase, releases as a flask's. -/
structure Crew where
  flask : Nat
  tile : Nat
  index : Nat
  members : List Nat
  reserved : List Nat
  phase : BitVec 32
  rel : List Nat
  prev : List Nat
  deriving DecidableEq, Repr

/-- An armed signal word (R263): context, address, and the tile of a local-window word. -/
structure Signal where
  ctx : Nat
  va : Nat
  tile : Nat
  deriving DecidableEq, Repr

/-- A job entry (R259). Once COUNT has fallen to zero it stays until its signal words have been filled; `filling` holds the fills still to be performed. -/
structure Job where
  count : Nat
  err : Bool
  signals : List Signal
  filling : List Nat
  deriving DecidableEq, Repr

/-- A hardware queue slot (R268): the user queue it holds, the id that was next when it was mapped, which orders the turns, and the write index read, when there are packets to take. -/
structure QueueSlot where
  queue : Nat
  turn : Nat
  windex : Option Nat
  stopped : Bool
  /-- The scheduler has asked to unmap the queue (R269). -/
  unmapping : Bool
  deriving DecidableEq, Repr

/-- Settings of a context on a die (R257, R270, R278, R301). -/
structure ContextSettings where
  defaults : ControlDefaults := {}
  wdlim : Nat := 0
  frameSlots : BitVec 64 := 0
  placement : List Nat := []
  deriving DecidableEq, Repr

/-- A decoded view of the decode table (R368): where it lies, the sizes, the block format, and the compressed bytes as they stood when the entry was written, since decoded lines do not
observe later stores to them. -/
structure DecodedView where
  dbase : Nat
  cbase : Nat
  w : Nat
  h : Nat
  fmt : Nat
  bw : Nat
  bh : Nat
  levels : Nat
  blocks : List Host.Cell
  deriving DecidableEq, Repr

/-- A die: what system software has placed on it (R379, R393), its Tundish and its queue scheduler. -/
structure Die where
  contextTable : Option Nat := none
  ring : Option Nat := none
  prod : Nat := 0
  parking : Option (Nat × Nat) := none
  saveAreas : Option Nat := none
  queueTable : Option Nat := none
  decodeTable : Option Nat := none
  views : List DecodedView := []
  timeSlice : Nat := 0
  sliceEnds : Nat := 0
  nextQueue : Nat := 0
  arrivals : List Arrival := []
  /-- The source that the Tundish visits next (R258). -/
  source : Nat := 0
  /-- Ring entries still to be written: held faults and notices, oldest first (R146, R294). -/
  owed : List RingEntry := []
  /-- System software has asked for a notice on the management port (R147). -/
  noticeAsked : Bool := false
  placementStopped : Bool := false
  deriving DecidableEq, Repr

/-! ### Graphics, module, outside -/

/-- A resident graphics context (R357-R360): its identity, descriptor bytes and draw state: DRAW, the serial of that draw, LWM, begun and ended groups from LWM on, threads bound, and
when it was last bound. -/
structure GraphicsContext where
  ctx : Nat
  va : Nat
  tile : Option Nat
  bytes : Nat
  draw : Option Nat
  serial : Nat
  lwm : Nat
  begun : List Nat
  ended : List Nat
  bound : List Nat
  age : Nat
  deriving DecidableEq, Repr

/-- A held blend (R364-R366): its place in order of acceptance and its operation, the graphics context, the serial of the draw and the group, its issuer, the address of its surface tile
and BASE of its surface, the pixel's address and memory key, the format, the blend operation, and the colour. -/
structure Blend where
  id : Nat
  op : Nat
  gctx : Nat
  ctx : Nat
  draw : Nat
  group : Nat
  issuer : Nat
  tid : Nat
  pc : Word
  insn : BitVec 32
  tile : Nat
  window : Nat
  base : Nat
  va : Nat
  key : Nat
  fmt : Nat
  bop : Nat
  colour : BitVec 128
  /-- The first address and the size of the page whose translation it has used (R159). -/
  page : Nat × Nat := (0, 0)
  deriving DecidableEq, Repr

/-- A replica group (R284). -/
structure Replica where
  members : List Nat
  timeout : Nat
  expected : Nat
  pending : Option Nat
  /-- The digests that have come, by member, in the order in which they came. -/
  digests : List (Nat × Nat)
  disagreed : Bool
  since : Nat
  deriving DecidableEq, Repr

/-- A Qorger port (R373, R375). -/
structure Port where
  mode : PortMode := .off
  live : Bool := true
  spared : Nat := 0
  deriving DecidableEq, Repr

/-- Boot state (R376): off before power-on, recovery, or running. -/
inductive BootState where
  | off | recovery | running
  deriving DecidableEq, Repr

/-- The management complex and the links: boot, fuses and images (R376, R377), host link (R371), ports and peers (R373, R374), power and temperature (R380, R381). -/
structure Management where
  boot : BootState
  stage : Option SignedImage
  firmware : Option SignedImage
  rootKeyHash : BitVec 512
  rollback : Nat
  identity : BitVec 256
  trained : Bool
  pcieGen : Nat
  width : Nat
  /-- 31 for CXL 3.1, 20 for CXL 2.0, 0 for PCIe without CXL. -/
  cxl : Nat
  ports : Vector Port 12
  cap : Nat
  /-- Soft errors corrected since reset (R303). -/
  corrected : Nat
  /-- Steps of 5% by which the elastic clocks are lowered (R380). -/
  clockSteps : Nat
  throttled : Bool
  shutDown : Bool
  deriving DecidableEq, Repr

/-- What the module has sent out, newest first: interrupts, reports, peer traffic, host completions. -/
inductive Sent where
  | msix (die : Nat)
  | portNotice (die : Nat)
  | report (what : String) (a b : Nat)
  | completion (ok : Bool) (data : Nat)
  | peerMessage (peer core : Nat) (pc : Word) (words : List Word) (seq : Option Nat) (ctx : Nat)
  | peerAdd (peer ctx : Nat) (va : Nat) (bf16 : Bool) (mode : BitVec 2) (elements : Nat) (count : Nat)
  | peerAnswer (peer status va : Nat) (flags : BitVec 5)
  | peerDigest (job step : Nat) (digest : Nat)
  | attestation (bytes : Nat)
  deriving DecidableEq, Repr

/-- A wake on its way (R56): the TID it names, the waker's accesses that the woken `PARK` acquires. -/
structure Waking where
  id : Nat
  tid : Nat
  rel : List Nat
  fromDie : Nat
  deriving DecidableEq, Repr

/-- A leaf of the page tables (R137): context, first VA, size, physical base, memory type, permissions and mask. -/
structure CachedLeaf where
  ctx : Nat
  va : Nat
  size : Nat
  pa : Nat
  mt : Nat
  x : Bool
  w : Bool
  gmask : BitVec 64
  deriving DecidableEq, Repr

/-- A translation that a cache of a slice holds: a leaf, and the aligned 2 MiB region of addresses for which it holds it (R141). -/
structure Translation where
  leaf : CachedLeaf
  region : Nat
  deriving DecidableEq, Repr

/-- The translation caches of a slice (R141): its first level, and its last level, which serves the slices of its die. -/
structure SliceCache where
  first : List Translation := []
  last : List Translation := []
  deriving DecidableEq, Repr

/-- A home slice that caches a granule, by the context and granule of the virtual address through which it was reached, and whether it holds stores not yet written to HBM (R142). -/
structure Holder where
  ctx : Nat
  granule : Nat
  dirty : Bool
  deriving DecidableEq, Repr

/-- What HBM holds of a granule: its data, and which of its words are EMPTY. -/
structure GranuleImage where
  data : BitVec 2048
  empties : BitVec 32
  deriving DecidableEq, Repr

/-- A 256-byte granule of physical memory that a home slice caches (R142). With no `copies`, memory at the granule's own key is what its one home serves, and `hbm` is what HBM holds of it
where stores have not been written back; `writable` says whether a mapping through which it was reached permits writes. Two homes, of which one may write, each have a copy of their own. -/
structure Granule where
  holder : Holder
  writable : Bool
  hbm : Option GranuleImage
  copies : List Holder
  deriving DecidableEq, Repr

/-- What the world does to the module beside the rows of the opcode table. -/
inductive Happening where
  /-- The data of the word at a memory key takes an uncorrectable error, with its source as in R304: in the slice that caches it, or where it lies (R303). -/
  | upset (key : Nat) (slice : Bool)
  /-- A soft error is corrected (R303): its source as in R304, or 3 in slot state. -/
  | soft (source : Nat)
  /-- The matrix array of a tile fails (R223). -/
  | arrayFails (tile : Nat)
  /-- The clock of an elastic tile has run some cycles more than the reference (R3, R275). -/
  | drift (tile cycles : Nat)
  /-- System software asks for, or forgoes, a notice on the management port beside a die's fault interrupt (R147). -/
  | askNotice (die : Nat) (on : Bool)
  /-- A message from a peer: the peer, the number of the sending core there, the core here, and the message in the context of this module to which it is bound (R181, R195, R374). -/
  | peerMessage (peer sender core : Nat) (pc : Word) (words : List Word) (seq : Option Nat) (ctx : Nat)
  /-- A row of a peer's `CPYR`: the elements that are added into this module's memory (R235, R374). -/
  | peerAdd (peer ctx va : Nat) (bf16 : Bool) (mode : BitVec 2) (elements : List Nat)
  deriving DecidableEq, Repr

/-- One entry of the agenda: the turn of a slot, an event row with what it acts on, or what the world does. -/
inductive Turn where
  | issue (k : Nat)
  | event (row : Instr) (arg : EventArg)
  | world (h : Happening)
  deriving DecidableEq, Repr

/-- The whole module. -/
structure State where
  /-- Memory, keyed as `hbmKey`, `hostKey`, `localKey` and `coefKey` of Machine/Memory.lean lay down: addresses strictly rising, no entry zero. -/
  mem : List Host.Cell
  /-- The aligned 8-byte words of HBM and local store that are EMPTY, by the key of their first byte (R160). -/
  empties : NatMap Unit
  /-- The words whose data holds an uncorrectable error, with its source (R303, R304). -/
  bad : NatMap Nat
  /-- Halfwords as they stood before a store, by memory key, each with the id that was next then: instruction fetch may still take them (R16). -/
  old : NatMap (List (Nat × BitVec 16))
  threads : NatMap Thread
  /-- Threads started in each slot since reset, modulo 256 (R43). -/
  starts : NatMap (BitVec 8)
  tiles : NatMap Tile
  /-- The accumulators of the matrix arrays that are not +0: 8192 × tile + 64 × row + column (R208). -/
  accs : NatMap (BitVec 32)
  cores : NatMap Core
  clusters : NatMap Cluster
  dies : NatMap Die
  /-- What system software has set for a context on a die: 4096 × die + context (R62, R270, R301). -/
  contexts : NatMap ContextSettings
  /-- The mapped hardware queue slots: 256 × die + slot (R268). -/
  queueSlots : NatMap QueueSlot
  /-- The peer table of the module, by device (R374). -/
  peers : NatMap PeerEntry
  homes : NatMap Home
  /-- Waiters that have arrived at each home: its slice, or 1024 + tile for a local store (R170). -/
  arrivals : NatMap Nat
  /-- Reservations, by the memory key of the word (R174). -/
  holds : NatMap Hold
  reqs : NatMap Req
  /-- The translation caches, by home slice (R141). -/
  tlb : NatMap SliceCache
  /-- What the home slices cache, by physical granule (R142). -/
  granules : NatMap Granule
  faults : List PageFault
  wakes : List Waking
  migrants : NatMap Migrant
  crews : NatMap Crew
  flasks : NatMap Flask
  grids : NatMap Grid
  jobs : NatMap Job
  gctxs : NatMap GraphicsContext
  blends : List Blend
  replicas : NatMap Replica
  mgmt : Management
  sent : List Sent
  /-- Cycles of the module since reset (R44, R281). -/
  cycle : Nat
  /-- The model's own fields: the turns the environment has fixed, what the present event acts on, the slot whose turn it is, the core whose turn in this cycle comes next,
  the count of free values taken, and the next unused id. -/
  agenda : List Turn
  input : EventArg
  cur : Nat
  /-- The word of the instruction that `cur` executes, as fetched (R287). -/
  insn : BitVec 32
  phase : Nat
  freeCtr : Nat
  nextId : Nat
  deriving DecidableEq, Repr

/-- Why the machine stops with a fault. -/
inductive Fault where
  /-- Raised by a read or write of a physical address that the spec gives no memory (R135 ends HBM at 0x00BF_FFFF_FFFF, physical addresses have 48 bits), such as a page table that an
  entry places there. Safe: no state follows. -/
  | noMemory (pa : Nat)
  deriving DecidableEq, Repr

/-- Why an instruction or event has no next state. -/
inductive Refusal where
  /-- Answered only by an arm of `exec` whose instruction has no meaning yet. Safe. -/
  | notModelled (mnemonic : String)
  /-- Answered by an event row whose condition does not hold in the state, so that the event does not come about there. Safe: the row describes no step of that state. -/
  | eventNotDue (mnemonic : String)
  /-- Answered by an encoded instruction when `cur` names no thread: there is no issue turn to execute it. Safe. -/
  | noThread
  deriving DecidableEq, Repr

/-- The management complex right after reset: booted (R376 step 5), nothing set yet. -/
def Management.reset : Management where
  boot := .running
  stage := none
  firmware := none
  rootKeyHash := 0
  rollback := 0
  identity := 0
  trained := false
  pcieGen := 0
  width := 0
  cxl := 0
  ports := Vector.replicate 12 {}
  cap := 3000
  corrected := 0
  clockSteps := 0
  throttled := false
  shutDown := false

/-- The module right after the dies have left reset (R376): every word FULL (R160), no thread, nothing placed (R393), counters 0 (R281). The values that the spec does not
give are those of log entries 1 and 2. (DESIGN CHOICE: log 1) -/
def State.reset : State where
  mem := []
  empties := []
  bad := []
  old := []
  threads := []
  starts := []
  tiles := []
  accs := []
  cores := []
  clusters := []
  dies := []
  contexts := []
  queueSlots := []
  peers := []
  homes := []
  arrivals := []
  holds := []
  reqs := []
  tlb := []
  granules := []
  faults := []
  wakes := []
  migrants := []
  crews := []
  flasks := []
  grids := []
  jobs := []
  gctxs := []
  blends := []
  replicas := []
  mgmt := Management.reset
  sent := []
  cycle := 0
  agenda := []
  input := .none
  cur := 0
  insn := 0
  phase := 0
  freeCtr := 0
  nextId := 0

end Sys2Proof.Machine
end

