-- ==== Sys2Proof/Machine/Effect.lean ====
section
/-!
DEFINITION. How a step changes the state: canonical maps, the primitive updates a step is made of (`Effect`), and the actions (`Act`) that meanings are written in.
An action reads the state as its own updates have left it and logs each update; `commit` gives the outcome. A meaning changes nothing except through `Effect.apply`,
so an invariant that every `Effect` keeps is kept by every step.
-/

namespace Sys2Proof.Machine

/-! ### Canonical maps -/

/-- The value at a key of a map whose keys rise. -/
def mapGet {α : Type} (k : Nat) : NatMap α → Option α
  | [] => none
  | (j, x) :: r => if j = k then some x else if k < j then none else mapGet k r

/-- Sets the value at a key, keeping the keys rising. -/
def mapPut {α : Type} (k : Nat) (x : α) : NatMap α → NatMap α
  | [] => [(k, x)]
  | (j, y) :: r => if k < j then (k, x) :: (j, y) :: r else if k = j then (k, x) :: r else (j, y) :: mapPut k x r

/-- Removes a key. -/
def mapDel {α : Type} (k : Nat) : NatMap α → NatMap α
  | [] => []
  | (j, y) :: r => if k < j then (j, y) :: r else if k = j then r else (j, y) :: mapDel k r

/-- Sets or removes. -/
def mapSet {α : Type} (k : Nat) (x : Option α) (m : NatMap α) : NatMap α :=
  match x with
  | some y => mapPut k y m
  | none => mapDel k m

/-- The value that a list of keyed values in another order holds for a key. -/
def assocGet {α : Type} (k : Nat) (l : List (Nat × α)) : Option α := (l.find? (·.1 = k)).map (·.2)

/-- Adds a keyed value at the end, in place of an older one of that key. -/
def assocPut {α : Type} (k : Nat) (x : α) (l : List (Nat × α)) : List (Nat × α) := l.filter (·.1 ≠ k) ++ [(k, x)]

/-- Keyed values by rising key. -/
def byKey {α : Type} (l : List (Nat × α)) : NatMap α := l.foldr (fun e m => mapPut e.1 e.2 m) []

/-- Every key of a map is above `lo`, and the keys strictly rise. -/
def keysRiseFrom {α : Type} : Option Nat → NatMap α → Bool
  | _, [] => true
  | lo, (j, _) :: r => (match lo with | none => true | some l => decide (l < j)) && keysRiseFrom (some j) r

/-- The canonical form of a map: keys strictly rising. -/
def keysRise {α : Type} (m : NatMap α) : Bool := keysRiseFrom none m

/-! ### Memory -/

/-- What an unlisted address of memory reads as (log 1). -/
def Memory.blank : Byte := 0

/-- The canonical form of memory: addresses strictly rising, no entry equal to what an unlisted address reads as. -/
def Memory.wf (m : List Host.Cell) : Bool := keysRise m && m.all (fun c => c.2 != Memory.blank)

/-- Reads one byte. -/
def Memory.read (m : List Host.Cell) (a : Nat) : Byte := (mapGet a m).getD Memory.blank

/-- Writes one byte, keeping the canonical form. -/
def Memory.write (m : List Host.Cell) (a : Nat) (b : Byte) : List Host.Cell :=
  if b = Memory.blank then mapDel a m else mapPut a b m

/-! ### Effects -/

/-- The primitive updates of the state. -/
inductive Effect where
  | byte (a : Nat) (b : Byte)
  | empty (w : Nat) (e : Bool)
  | bad (w : Nat) (source : Option Nat)
  | old (w : Nat) (l : List (Nat × BitVec 16))
  | thread (k : Nat) (t : Option Thread)
  | start (k : Nat) (n : BitVec 8)
  | tile (n : Nat) (t : Tile)
  /-- An accumulator; +0 is absent. -/
  | acc (n : Nat) (x : BitVec 32)
  | core (n : Nat) (c : Core)
  | cluster (n : Nat) (c : Cluster)
  | die (n : Nat) (d : Die)
  | context (n : Nat) (c : ContextSettings)
  | queueSlot (n : Nat) (q : Option QueueSlot)
  | peer (n : Nat) (e : PeerEntry)
  | home (n : Nat) (h : Option Home)
  | arrival (n count : Nat)
  | hold (n : Nat) (h : Option Hold)
  | req (n : Nat) (r : Option Req)
  | migrant (n : Nat) (m : Option Migrant)
  | crew (n : Nat) (c : Option Crew)
  | flask (n : Nat) (f : Option Flask)
  | grid (n : Nat) (g : Option Grid)
  | job (n : Nat) (j : Option Job)
  | gctx (n : Nat) (g : Option GraphicsContext)
  | replica (n : Nat) (r : Option Replica)
  | tlb (n : Nat) (c : SliceCache)
  | granule (n : Nat) (g : Option Granule)
  | faults (l : List PageFault)
  | wakes (l : List Waking)
  | blends (l : List Blend)
  | mgmt (m : Management)
  | send (x : Sent)
  | clock (n : Nat)
  | agenda (l : List Turn)
  | input (a : EventArg)
  | cur (k : Nat) (insn : BitVec 32)
  | phase (n : Nat)
  | freeCtr (n : Nat)
  | nextId (n : Nat)
  deriving DecidableEq, Repr

/-- What an update does. -/
def Effect.apply : Effect → State → State
  | .byte a b, s => { s with mem := Memory.write s.mem a b }
  | .empty w e, s => { s with empties := if e then mapPut w () s.empties else mapDel w s.empties }
  | .bad w x, s => { s with bad := mapSet w x s.bad }
  | .old w l, s => { s with old := mapPut w l s.old }
  | .thread k t, s => { s with threads := mapSet k t s.threads }
  | .start k n, s => { s with starts := mapPut k n s.starts }
  | .tile n t, s => { s with tiles := mapPut n t s.tiles }
  | .acc n x, s => { s with accs := mapSet n (if x = 0 then none else some x) s.accs }
  | .core n c, s => { s with cores := mapPut n c s.cores }
  | .cluster n c, s => { s with clusters := mapPut n c s.clusters }
  | .die n d, s => { s with dies := mapPut n d s.dies }
  | .context n c, s => { s with contexts := mapPut n c s.contexts }
  | .queueSlot n q, s => { s with queueSlots := mapSet n q s.queueSlots }
  | .peer n e, s => { s with peers := mapPut n e s.peers }
  | .home n h, s => { s with homes := mapSet n h s.homes }
  | .arrival n c, s => { s with arrivals := mapPut n c s.arrivals }
  | .hold n h, s => { s with holds := mapSet n h s.holds }
  | .req n r, s => { s with reqs := mapSet n r s.reqs }
  | .migrant n m, s => { s with migrants := mapSet n m s.migrants }
  | .crew n c, s => { s with crews := mapSet n c s.crews }
  | .flask n f, s => { s with flasks := mapSet n f s.flasks }
  | .grid n g, s => { s with grids := mapSet n g s.grids }
  | .job n j, s => { s with jobs := mapSet n j s.jobs }
  | .gctx n g, s => { s with gctxs := mapSet n g s.gctxs }
  | .replica n r, s => { s with replicas := mapSet n r s.replicas }
  | .tlb n c, s => { s with tlb := mapPut n c s.tlb }
  | .granule n g, s => { s with granules := mapSet n g s.granules }
  | .faults l, s => { s with faults := l }
  | .wakes l, s => { s with wakes := l }
  | .blends l, s => { s with blends := l }
  | .mgmt m, s => { s with mgmt := m }
  | .send x, s => { s with sent := x :: s.sent }
  | .clock n, s => { s with cycle := n }
  | .agenda l, s => { s with agenda := l }
  | .input a, s => { s with input := a }
  | .cur k i, s => { s with cur := k, insn := i }
  | .phase n, s => { s with phase := n }
  | .freeCtr n, s => { s with freeCtr := n }
  | .nextId n, s => { s with nextId := n }

/-- A log of updates, newest first, performed oldest first. -/
def replay (log : List Effect) (s : State) : State := log.foldr Effect.apply s

/-! ### Actions -/

/-- Why an action does not finish. -/
inductive Stop where
  /-- The machine stops. -/
  | fault (f : Fault)
  /-- The row describes no step here. -/
  | refused (r : Refusal)
  /-- A precise trap of the current thread: nothing the action did takes effect (R144). -/
  | trap (t : TrapReq)
  /-- The instruction cannot issue now: its thread is WAITING (R44, R47). -/
  | stall (w : Wait)
  deriving DecidableEq, Repr

/-- The state an action has reached, and its log. -/
structure Tx where
  st : State
  log : List Effect

/-- An action over the state. -/
abbrev Act (α : Type) := StateT Tx (Except Stop) α

/-- The state as the action has left it so far. -/
def look : Act State := fun x => .ok (x.st, x)

/-- Performs one update. -/
def emit (e : Effect) : Act Unit := fun x => .ok ((), ⟨e.apply x.st, e :: x.log⟩)

/-- Performs updates in order. -/
def emitAll : List Effect → Act Unit
  | [] => pure ()
  | e :: r => do emit e; emitAll r

/-- Ends the action. -/
def stop {α : Type} (w : Stop) : Act α := fun _ => .error w

/-- Runs an action from a state. -/
def Act.from {α : Type} (a : Act α) (s : State) : Except Stop (α × Tx) := a ⟨s, []⟩

/-- The outcome of an action none of whose stops has a meaning of its own here: a trap or a stall in it makes the row not due. -/
def commit (name : String) (a : Act Unit) (s : State) : Host.Outcome State Fault Refusal :=
  match a.from s with
  | .ok (_, x) => .next (replay x.log s)
  | .error (.fault f) => .fault f
  | .error (.refused r) => .refused r
  | .error (.trap _) => .refused (.eventNotDue name)
  | .error (.stall _) => .refused (.eventNotDue name)

/-- Takes a fresh id. -/
def freshId : Act Nat := do
  let s ← look
  emit (.nextId (s.nextId + 1))
  return s.nextId

/-- Takes a free value: the counter to give to a constant of Config (log 4). -/
def freshFree : Act Nat := do
  let s ← look
  emit (.freeCtr (s.freeCtr + 1))
  return s.freeCtr

/-- Runs an action for every element. -/
def forEach {α : Type} : List α → (α → Act Unit) → Act Unit
  | [], _ => pure ()
  | x :: r, f => do f x; forEach r f

/-- Runs an action for every element and collects the results. -/
def collect {α β : Type} : List α → (α → Act β) → Act (List β)
  | [], _ => pure []
  | x :: r, f => do
    let y ← f x
    let ys ← collect r f
    return y :: ys

/-! ### Reading and replacing parts of the state -/

/-- A tile; an absent one is as reset leaves it. -/
def State.tile (s : State) (n : Nat) : Tile := (mapGet n s.tiles).getD {}
/-- A core; an absent one is as reset leaves it. -/
def State.core (s : State) (n : Nat) : Core := (mapGet n s.cores).getD {}
/-- A cluster; an absent one is as reset leaves it. -/
def State.cluster (s : State) (n : Nat) : Cluster := (mapGet n s.clusters).getD {}
/-- A die; an absent one is as reset leaves it. -/
def State.die (s : State) (n : Nat) : Die := (mapGet n s.dies).getD {}
/-- What a word's home keeps; an absent one keeps nothing. -/
def State.home (s : State) (n : Nat) : Home := (mapGet n s.homes).getD {}
/-- What a home keeps for a word under its reservation's key; an absent one keeps nothing. -/
def State.hold (s : State) (n : Nat) : Hold := (mapGet n s.holds).getD {}
/-- The translation caches of a slice; absent ones are empty. -/
def State.slice (s : State) (n : Nat) : SliceCache := (mapGet n s.tlb).getD {}
/-- The thread in a slot; none: the slot is EMPTY. -/
def State.thread? (s : State) (k : Nat) : Option Thread := mapGet k s.threads
/-- The settings of a context on a die. -/
def State.settings (s : State) (die ctx : Nat) : ContextSettings := (mapGet (4096 * die + ctx) s.contexts).getD {}
/-- The key of an accumulator of a tile. -/
def accKey (tile row col : Nat) : Nat := 8192 * tile + (64 * row + col)
/-- An accumulator of a tile's matrix array (R208). -/
def State.acc (s : State) (tile row col : Nat) : BitVec 32 := (mapGet (accKey tile row col) s.accs).getD 0
/-- The key of a hardware queue slot of a die. -/
def slotKey (die slot : Nat) : Nat := 256 * die + slot
/-- A hardware queue slot; none: no queue is mapped there. -/
def State.queueSlot? (s : State) (die slot : Nat) : Option QueueSlot := mapGet (slotKey die slot) s.queueSlots
/-- The mapped slots of a die, lowest first. -/
def State.slotsOf (s : State) (die : Nat) : List (Nat × QueueSlot) := (s.queueSlots.filter (fun e => e.1 / 256 = die)).map (fun e => (e.1 % 256, e.2))

def modTile (n : Nat) (f : Tile → Tile) : Act Unit := do emit (.tile n (f ((← look).tile n)))
def modCore (n : Nat) (f : Core → Core) : Act Unit := do emit (.core n (f ((← look).core n)))
def modCluster (n : Nat) (f : Cluster → Cluster) : Act Unit := do emit (.cluster n (f ((← look).cluster n)))
def modDie (n : Nat) (f : Die → Die) : Act Unit := do emit (.die n (f ((← look).die n)))
def modMgmt (f : Management → Management) : Act Unit := do emit (.mgmt (f (← look).mgmt))
def modSettings (die ctx : Nat) (f : ContextSettings → ContextSettings) : Act Unit := do
  emit (.context (4096 * die + ctx) (f ((← look).settings die ctx)))
/-- Changes a hardware queue slot, if a queue is mapped there. -/
def modSlot (die slot : Nat) (f : QueueSlot → QueueSlot) : Act Unit := do
  match (← look).queueSlot? die slot with
  | some q => emit (.queueSlot (slotKey die slot) (some (f q)))
  | none => pure ()

/-- Replaces what a home keeps; a home that keeps nothing is absent. -/
def putHome (n : Nat) (h : Home) : Act Unit :=
  emit (.home n (if h = {} then none else some h))

/-- Replaces what is kept for a word; a word for which nothing is kept is absent. -/
def putHold (n : Nat) (h : Hold) : Act Unit :=
  emit (.hold n (if h = {} then none else some h))

/-- The thread of a slot, or the row is not due. -/
def needThread (name : String) (k : Nat) : Act Thread := do
  match (← look).thread? k with
  | some t => return t
  | none => stop (.refused (.eventNotDue name))

/-- Changes the thread of a slot, if there is one. -/
def modThread (k : Nat) (f : Thread → Thread) : Act Unit := do
  match (← look).thread? k with
  | some t => emit (.thread k (some (f t)))
  | none => pure ()

/-- A request in flight, or the row is not due. -/
def needReq (name : String) (r : Nat) : Act Req := do
  match mapGet r (← look).reqs with
  | some q => return q
  | none => stop (.refused (.eventNotDue name))

/-- Changes a request in flight, if it is still there. -/
def modReq (r : Nat) (f : Req → Req) : Act Unit := do
  match mapGet r (← look).reqs with
  | some q => emit (.req r (some (f q)))
  | none => pure ()

/-- Requires a condition of an event row. -/
def due (name : String) (c : Bool) : Act Unit :=
  if c then pure () else stop (.refused (.eventNotDue name))

/-! ### Places -/

/-- Slot key of a global core number and slot (R43). -/
def keyOf (core slot : Nat) : Nat := core * 32 + slot
/-- Global core number of a slot key. -/
def coreOf (k : Nat) : Nat := k / 32
/-- Slot within its core. -/
def slotOf (k : Nat) : Nat := k % 32
/-- Global tile number of a core. -/
def tileOfCore (c : Nat) : Nat := c / 4
/-- Global tile number of a slot key. -/
def tileOf (k : Nat) : Nat := k / 128
/-- Global cluster number of a tile (R137). -/
def clusterOfTile (t : Nat) : Nat := t / 8
/-- Die of a tile. -/
def dieOfTile (t : Nat) : Nat := t / 512
/-- Die of a slot key. -/
def dieOf (k : Nat) : Nat := dieOfTile (tileOf k)
/-- Core within its tile: the role core (R2). -/
def roleOf (k : Nat) : Nat := coreOf k % 4
/-- The runner slot (R43). -/
def isRunner (k : Nat) : Bool := slotOf k == 16

/-- TID of the thread in a slot (R43). -/
def tidOf (k : Nat) (t : Thread) : Nat := t.inc.toNat * 2 ^ 18 + k

/-- PC of a thread (R14). -/
def Thread.pc (t : Thread) : Word := t.pcHalf ++ 0#1

/-- A thread with its PC set; bit 0 is dropped (R14). -/
def Thread.setPc (t : Thread) (pc : Word) : Thread := { t with pcHalf := pc.extractLsb' 1 63 }

end Sys2Proof.Machine
end

