-- ==== Sys2Proof/Machine/Texel.lean ====
section
/-!
DEFINITION. The compressed blocks of R368: a texel of an ETC2 block and of an ASTC 2D block. R368 names the Khronos definitions of both formats and does not hold them; what stands here is
taken from those definitions. (PRESUMED: log 100)
-/

namespace Sys2Proof.Machine

/-- A texel: its four channels, as 8-bit codes, or as .f16 codes in ASTC HDR. -/
structure Texel where
  r : Nat
  g : Nat
  b : Nat
  a : Nat
  deriving DecidableEq, Repr

/-- The number whose bytes, most significant first, are the `n` low bytes of another, least significant first. -/
def bigEndian (n x : Nat) : Nat := (List.range n).foldl (fun acc i => acc * 256 + x / 256 ^ i % 256) 0

/-- An integer clamped to a range from 0 on. -/
def clampTo (top : Nat) (x : Int) : Nat := (max 0 (min (top : Int) x)).toNat

/-- A two's-complement number of `n` bits. -/
def signedBits (n x : Nat) : Int := if x % 2 ^ n < 2 ^ (n - 1) then (x % 2 ^ n : Nat) else (x % 2 ^ n : Nat) - (2 ^ n : Nat)

/-! ### ETC2 -/

/-- The small and the large modifier of a table. -/
def etcModifiers : List (Int × Int) := [(2, 8), (5, 17), (9, 29), (13, 42), (18, 60), (24, 80), (33, 106), (47, 183)]
/-- The distances of the T and H modes. -/
def etcDistances : List Int := [3, 6, 11, 16, 23, 32, 41, 64]
/-- The modifiers of an EAC block, for the eight indexes of a texel. -/
def eacModifiers : List (List Int) :=
  [[-3, -6, -9, -15, 2, 5, 8, 14], [-3, -7, -10, -13, 2, 6, 9, 12], [-2, -5, -8, -13, 1, 4, 7, 12], [-2, -4, -6, -13, 1, 3, 5, 12], [-3, -6, -8, -12, 2, 5, 7, 11],
    [-3, -7, -9, -11, 2, 6, 8, 10], [-4, -7, -8, -11, 3, 6, 7, 10], [-3, -5, -8, -11, 2, 4, 7, 10], [-2, -6, -8, -10, 1, 5, 7, 9], [-2, -5, -8, -10, 1, 4, 7, 9],
    [-2, -4, -8, -10, 1, 3, 7, 9], [-2, -5, -7, -10, 1, 4, 6, 9], [-3, -4, -7, -10, 2, 3, 6, 9], [-1, -2, -3, -10, 0, 1, 2, 9], [-4, -6, -8, -9, 3, 5, 7, 8], [-3, -5, -7, -9, 2, 4, 6, 8]]

/-- The paint colours of the T and H modes: what a texel's index adds to which base colour. -/
def etcPaint (hMode : Bool) (index : Nat) (d : Int) : Bool × Int :=
  match hMode, index with
  | false, 0 => (false, 0)
  | false, 1 => (true, d)
  | false, 2 => (true, 0)
  | false, _ => (true, -d)
  | true, 0 => (false, d)
  | true, 1 => (false, -d)
  | true, 2 => (true, d)
  | true, _ => (true, -d)

/-- The colour of a texel of an ETC2 colour block, the first byte of which is its most significant; `punch` for the format with 1-bit alpha. -/
def etcColour (punch : Bool) (q x y : Nat) : Texel :=
  let i := 4 * x + y
  let index := 2 * bits q (16 + i) (16 + i) + bits q i i
  let flag := decide (bits q 33 33 = 1)
  let diff := punch || flag
  let solid := !punch || flag
  let lit (rgb : Nat × Nat × Nat) (d : Int) : Texel := ⟨clampTo 255 (rgb.1 + d), clampTo 255 (rgb.2.1 + d), clampTo 255 (rgb.2.2 + d), 255⟩
  let second := if bits q 32 32 = 1 then decide (2 ≤ y) else decide (2 ≤ x)
  let (small, large) := etcModifiers.getD (if second then bits q 36 34 else bits q 39 37) (0, 0)
  let modified (rgb : Nat × Nat × Nat) : Texel :=
    match index with
    | 0 => lit rgb (if solid then small else 0)
    | 1 => lit rgb large
    | 2 => if solid then lit rgb (-small) else ⟨0, 0, 0, 0⟩
    | _ => lit rgb (-large)
  let painted (hMode : Bool) (c1 c2 : Nat × Nat × Nat) (d : Nat) : Texel :=
    if !solid && index = 2 then ⟨0, 0, 0, 0⟩
    else
      let (other, m) := etcPaint hMode index (etcDistances.getD d 0)
      let wide (c : Nat × Nat × Nat) := (17 * c.1, 17 * c.2.1, 17 * c.2.2)
      lit (wide (if other then c2 else c1)) m
  let r := bits q 63 59 + signedBits 3 (bits q 58 56)
  let g := bits q 55 51 + signedBits 3 (bits q 50 48)
  let b := bits q 47 43 + signedBits 3 (bits q 42 40)
  let outside (z : Int) : Bool := decide (z < 0) || decide (31 < z)
  if !diff then
    modified (if second then (17 * bits q 59 56, 17 * bits q 51 48, 17 * bits q 43 40) else (17 * bits q 63 60, 17 * bits q 55 52, 17 * bits q 47 44))
  else if outside r then
    painted false (4 * bits q 60 59 + bits q 57 56, bits q 55 52, bits q 51 48) (bits q 47 44, bits q 43 40, bits q 39 36) (2 * bits q 35 34 + bits q 32 32)
  else if outside g then
    let c1 := (bits q 62 59, 2 * bits q 58 56 + bits q 52 52, 8 * bits q 51 51 + bits q 49 47)
    let c2 := (bits q 46 43, bits q 42 39, bits q 38 35)
    let value (c : Nat × Nat × Nat) : Nat := 65536 * c.1 + 256 * c.2.1 + c.2.2
    painted true c1 c2 (4 * bits q 34 34 + 2 * bits q 32 32 + (if value c2 ≤ value c1 then 1 else 0))
  else if outside b then
    let six (z : Nat) : Int := (4 * z + z / 16 : Nat)
    let seven (z : Nat) : Int := (2 * z + z / 64 : Nat)
    let plane (o h v : Int) : Nat := clampTo 255 (((x : Int) * (h - o) + (y : Int) * (v - o) + 4 * o + 2) / 4)
    ⟨plane (six (bits q 62 57)) (six (2 * bits q 38 34 + bits q 32 32)) (six (bits q 18 13)),
      plane (seven (64 * bits q 56 56 + bits q 54 49)) (seven (bits q 31 25)) (seven (bits q 12 6)),
      plane (six (32 * bits q 48 48 + 8 * bits q 44 43 + bits q 41 39)) (six (bits q 24 19)) (six (bits q 5 0)), 255⟩
  else
    let five (z : Nat) : Nat := 8 * z + z / 4
    modified (if second then (five r.toNat, five g.toNat, five b.toNat) else (five (bits q 63 59), five (bits q 55 51), five (bits q 47 43)))

/-- The value of a texel of an EAC block. -/
def eacAlpha (q x y : Nat) : Nat :=
  let i := 4 * x + y
  clampTo 255 (bits q 63 56 + (eacModifiers.getD (bits q 51 48) []).getD (bits q (47 - 3 * i) (45 - 3 * i)) 0 * (bits q 55 52 : Nat))

/-! ### ASTC: integer sequences -/

/-- A range of an integer sequence: its digit, 0 none, 1 a trit, 2 a quint, and the bits beside it. -/
abbrev IseRange := Nat × Nat

/-- The ranges, in rising order: 2, 3, 4, 5, 6, 8, 10, 12, 16, 20, 24, 32, 40, 48, 64, 80, 96, 128, 160, 192 and 256 values. -/
def iseRanges : List IseRange :=
  [(0, 1), (1, 0), (0, 2), (2, 0), (1, 1), (0, 3), (2, 1), (1, 2), (0, 4), (2, 2), (1, 3), (0, 5), (2, 3), (1, 4), (0, 6), (2, 4), (1, 5), (0, 7), (2, 5), (1, 6), (0, 8)]

/-- Bits of a sequence of `n` integers. -/
def iseBits (r : IseRange) (n : Nat) : Nat := n * r.2 + (match r.1 with | 0 => 0 | 1 => (8 * n + 4) / 5 | _ => (7 * n + 2) / 3)

/-- The five trits that 8 bits hold. -/
def trits (t : Nat) : List Nat :=
  let (c, t4, t3) :=
    if bits t 4 2 = 7 then (4 * bits t 7 5 + bits t 1 0, 2, 2)
    else if bits t 6 5 = 3 then (bits t 4 0, 2, bits t 7 7) else (bits t 4 0, bits t 7 7, bits t 6 5)
  if bits c 1 0 = 3 then [2 * bits c 3 3 + (bits c 2 2) * (1 - bits c 3 3), bits c 4 4, 2, t3, t4]
  else if bits c 3 2 = 3 then [bits c 1 0, 2, 2, t3, t4]
  else [2 * bits c 1 1 + (bits c 0 0) * (1 - bits c 1 1), bits c 3 2, bits c 4 4, t3, t4]

/-- The three quints that 7 bits hold. -/
def quints (q : Nat) : List Nat :=
  if bits q 2 1 = 3 ∧ bits q 6 5 = 0 then
    let z := bits q 0 0
    [4, 4, 4 * z + 2 * (bits q 4 4 * (1 - z)) + bits q 3 3 * (1 - z)]
  else
    let (c, q2) := if bits q 2 1 = 3 then (8 * bits q 4 3 + 2 * (3 - bits q 6 5) + bits q 0 0, 4) else (bits q 4 0, bits q 6 5)
    if bits c 2 0 = 5 then [bits c 4 3, 4, q2] else [bits c 2 0, bits c 4 3, q2]

/-- Integer `i` of a sequence: its digit and its bits. What a last group lacks is zero. -/
def iseAt (r : IseRange) (data i : Nat) : Nat × Nat :=
  let b := r.2
  let field (at_ n : Nat) : Nat := data / 2 ^ at_ % 2 ^ n
  match r.1 with
  | 0 => (0, field (b * i) b)
  | 1 =>
    let g := i / 5 * (5 * b + 8)
    let t := field (g + b) 2 + 4 * field (g + 2 * b + 2) 2 + 16 * field (g + 3 * b + 4) 1 + 32 * field (g + 4 * b + 5) 2 + 128 * field (g + 5 * b + 7) 1
    ((trits t).getD (i % 5) 0, field (g + [0, b + 2, 2 * b + 4, 3 * b + 5, 4 * b + 7].getD (i % 5) 0) b)
  | _ =>
    let g := i / 3 * (3 * b + 7)
    let q := field (g + b) 3 + 8 * field (g + 2 * b + 3) 2 + 32 * field (g + 3 * b + 5) 2
    ((quints q).getD (i % 3) 0, field (g + [0, b + 3, 2 * b + 5].getD (i % 3) 0) b)

/-- The integers of a sequence of `n`, which begins at bit 0. -/
def iseValues (r : IseRange) (data n : Nat) : List (Nat × Nat) := (List.range n).map (iseAt r (data % 2 ^ iseBits r n))

/-- `b` bits repeated into `n`. -/
def repeatBits (b n x : Nat) : Nat := (List.range n).foldl (fun acc i => acc + x / 2 ^ ((b - 1) - i % b) % 2 * 2 ^ (n - 1 - i)) 0

/-- `n` bits in the opposite order. -/
def mirrored (n x : Nat) : Nat := (List.range n).foldl (fun acc i => 2 * acc + x / 2 ^ i % 2) 0

/-- The number that bits of x spell in a pattern, most significant first; 9 stands for a zero. -/
def spell (x : Nat) (pattern : List Nat) : Nat := pattern.foldl (fun acc i => 2 * acc + (if i = 9 then 0 else x / 2 ^ i % 2)) 0

/-- A value unquantized with its lowest bit as sign: D × C + B, under `n` bits of that bit. -/
def unquantize (n c : Nat) (pattern : List Nat) (v : Nat × Nat) : Nat :=
  let t := v.1 * c + spell v.2 pattern
  if v.2 % 2 = 1 then 2 ^ (n - 2) + (2 ^ n - 1 - t) / 4 % 2 ^ (n - 2) else t / 4

/-- A colour value, 0 to 255. -/
def unquantizeColour (r : IseRange) (v : Nat × Nat) : Nat :=
  match r with
  | (0, b) => repeatBits b 8 v.2
  | (1, 1) => unquantize 9 204 [] v
  | (2, 1) => unquantize 9 113 [] v
  | (1, 2) => unquantize 9 93 [1, 9, 9, 9, 1, 9, 1, 1, 9] v
  | (2, 2) => unquantize 9 54 [1, 9, 9, 9, 9, 1, 1, 9, 9] v
  | (1, 3) => unquantize 9 44 [2, 1, 9, 9, 9, 2, 1, 2, 1] v
  | (2, 3) => unquantize 9 26 [2, 1, 9, 9, 9, 9, 2, 1, 2] v
  | (1, 4) => unquantize 9 22 [3, 2, 1, 9, 9, 9, 3, 2, 1] v
  | (2, 4) => unquantize 9 13 [3, 2, 1, 9, 9, 9, 9, 3, 2] v
  | (1, 5) => unquantize 9 11 [4, 3, 2, 1, 9, 9, 9, 4, 3] v
  | (2, 5) => unquantize 9 6 [4, 3, 2, 1, 9, 9, 9, 9, 4] v
  | _ => unquantize 9 5 [5, 4, 3, 2, 1, 9, 9, 9, 5] v

/-- A weight, 0 to 64. -/
def unquantizeWeight (r : IseRange) (v : Nat × Nat) : Nat :=
  let w := match r with
    | (0, b) => repeatBits b 6 v.2
    | (1, 0) => [0, 32, 63].getD v.1 0
    | (2, 0) => [0, 16, 32, 47, 63].getD v.1 0
    | (1, 1) => unquantize 7 50 [] v
    | (2, 1) => unquantize 7 28 [] v
    | (1, 2) => unquantize 7 23 [1, 9, 9, 9, 1, 9, 1] v
    | (2, 2) => unquantize 7 13 [1, 9, 9, 9, 9, 1, 9] v
    | _ => unquantize 7 11 [2, 1, 9, 9, 9, 2, 1] v
  if 32 < w then w + 1 else w

/-! ### ASTC: endpoints -/

/-- The two endpoints of a partition, and which of their channels are HDR: R, G and B, and A. -/
structure Endpoints where
  low : Texel
  high : Texel
  hdr : Bool := false
  hdrAlpha : Bool := false
  deriving DecidableEq, Repr

/-- A base and a signed offset that share bits: the offset, and the base. -/
def transferBit (a b : Nat) : Int × Nat := (signedBits 6 (a / 2 % 64), b / 2 + a / 128 * 128)

/-- Blue contraction of a colour, before it is clamped. -/
def contract (r g b a : Int) : Int × Int × Int × Int := ((r + b) / 2, (g + b) / 2, b, a)

def texelOf (top : Nat) (c : Int × Int × Int × Int) : Texel := ⟨clampTo top c.1, clampTo top c.2.1, clampTo top c.2.2.1, clampTo top c.2.2.2⟩

/-- The endpoints of an RGB or RGBA direct mode. -/
def directEndpoints (v : Nat → Nat) (a0 a1 : Nat) : Endpoints :=
  if v 0 + v 2 + v 4 ≤ v 1 + v 3 + v 5 then { low := ⟨v 0, v 2, v 4, a0⟩, high := ⟨v 1, v 3, v 5, a1⟩ }
  else { low := texelOf 255 (contract (v 1) (v 3) (v 5) a1), high := texelOf 255 (contract (v 0) (v 2) (v 4) a0) }

/-- The endpoints of an RGB or RGBA mode of a base and offsets. -/
def offsetEndpoints (v : Nat → Nat) (a0 : Int) (a1 : Int) : Endpoints :=
  let (dr, r) := transferBit (v 1) (v 0)
  let (dg, g) := transferBit (v 3) (v 2)
  let (db, b) := transferBit (v 5) (v 4)
  if 0 ≤ dr + dg + db then { low := texelOf 255 (r, g, b, a0), high := texelOf 255 (r + dr, g + dg, b + db, a1) }
  else { low := texelOf 255 (contract (r + dr) (g + dg) (b + db) a1), high := texelOf 255 (contract r g b a0) }

/-- A colour with its major component put back in its place. -/
def placeMajor (major : Nat) (c : Int × Int × Int) : Int × Int × Int :=
  match major with
  | 1 => (c.2.1, c.1, c.2.2)
  | 2 => (c.2.2, c.2.1, c.1)
  | _ => c

/-- The endpoints of HDR RGB, base and scale (mode 7). -/
def hdrScale (v : Nat → Nat) : Endpoints :=
  let m := bits (v 0) 7 6 + 4 * bits (v 1) 7 7 + 8 * bits (v 2) 7 7
  let (major, mode) := if m / 4 ≠ 3 then (m / 4, m % 4) else if m ≠ 15 then (m % 4, 4) else (0, 5)
  let x0 := bits (v 1) 6 6
  let x1 := bits (v 1) 5 5
  let x2 := bits (v 2) 6 6
  let x3 := bits (v 2) 5 5
  let x4 := bits (v 3) 7 7
  let x5 := bits (v 3) 6 6
  let x6 := bits (v 3) 5 5
  let r := v 0 % 64
  let g := v 1 % 32
  let b := v 2 % 32
  let s := v 3 % 32
  let (r, g, b, s) := match mode with
    | 0 => (r + 64 * x4 + 128 * x2 + 256 * x1 + 512 * x0 + 1024 * x3, g, b, s + 32 * x6 + 64 * x5)
    | 1 => (r + 64 * x4 + 128 * x2 + 256 * x0 + 512 * x6 + 1024 * x5, g + 32 * x1, b + 32 * x3, s)
    | 2 => (r + 64 * x3 + 128 * x2 + 256 * x1 + 512 * x0, g, b, s + 32 * x6 + 64 * x5 + 128 * x4)
    | 3 => (r + 64 * x4 + 128 * x2 + 256 * x0, g + 32 * x1, b + 32 * x3, s + 32 * x6 + 64 * x5)
    | 4 => (r + 64 * x4 + 128 * x5, g + 32 * x1 + 64 * x0, b + 32 * x3 + 64 * x2, s + 32 * x6)
    | _ => (r + 64 * x4, g + 32 * x1 + 64 * x0, b + 32 * x3 + 64 * x2, s + 32 * x6 + 64 * x5)
  let k := 2 ^ [1, 1, 2, 3, 4, 5].getD mode 0
  let red : Int := (r * k : Nat)
  let from_ (z : Nat) : Int := if mode = 5 then (z * k : Nat) else red - (z * k : Nat)
  let (cr, cg, cb) := placeMajor major (red, from_ g, from_ b)
  let d : Int := (s * k : Nat)
  { low := texelOf 4095 (cr - d, cg - d, cb - d, 0x780), high := texelOf 4095 (cr, cg, cb, 0x780), hdr := true, hdrAlpha := true }

/-- The endpoints of HDR RGB, direct (modes 11, 14 and 15). -/
def hdrDirect (v : Nat → Nat) : Endpoints :=
  let major := bits (v 4) 7 7 + 2 * bits (v 5) 7 7
  if major = 3 then
    { low := ⟨16 * v 0, 16 * v 2, 32 * (v 4 % 128), 0x780⟩, high := ⟨16 * v 1, 16 * v 3, 32 * (v 5 % 128), 0x780⟩, hdr := true, hdrAlpha := true }
  else
    let mode := bits (v 1) 7 7 + 2 * bits (v 2) 7 7 + 4 * bits (v 3) 7 7
    let x0 := bits (v 2) 6 6
    let x1 := bits (v 3) 6 6
    let x2 := bits (v 4) 6 6
    let x3 := bits (v 5) 6 6
    let x4 := bits (v 4) 5 5
    let x5 := bits (v 5) 5 5
    let a := v 0 + 256 * bits (v 1) 6 6
    let b0 := v 2 % 64
    let b1 := v 3 % 64
    let c := v 1 % 64
    let (a, b0, b1, c) := match mode with
      | 0 => (a, b0 + 64 * x0, b1 + 64 * x1, c)
      | 1 => (a, b0 + 64 * x0 + 128 * x2, b1 + 64 * x1 + 128 * x3, c)
      | 2 => (a + 512 * x0, b0, b1, c + 64 * x1)
      | 3 => (a + 512 * x2, b0 + 64 * x0, b1 + 64 * x1, c + 64 * x3)
      | 4 => (a + 512 * x4 + 1024 * x5, b0 + 64 * x0 + 128 * x2, b1 + 64 * x1 + 128 * x3, c)
      | 5 => (a + 512 * x0 + 1024 * x1, b0, b1, c + 64 * x3 + 128 * x2)
      | 6 => (a + 512 * x4 + 1024 * x5 + 2048 * x2, b0 + 64 * x0, b1 + 64 * x1, c + 64 * x3)
      | _ => (a + 512 * x0 + 1024 * x1 + 2048 * x2, b0, b1, c + 64 * x3)
    let k : Int := 2 ^ (3 - mode / 2)
    let n := [7, 6, 7, 6, 5, 6, 5, 6].getD mode 5
    let A : Int := a * k
    let B0 : Int := b0 * k
    let B1 : Int := b1 * k
    let C : Int := c * k
    let D0 : Int := signedBits n (v 4) * k
    let D1 : Int := signedBits n (v 5) * k
    let clamped (x : Int × Int × Int) : Int × Int × Int := placeMajor major x
    let (hr, hg, hb) := clamped (A, A - B0, A - B1)
    let (lr, lg, lb) := clamped (A - C, A - B0 - C - D0, A - B1 - C - D1)
    { low := texelOf 4095 (lr, lg, lb, 0x780), high := texelOf 4095 (hr, hg, hb, 0x780), hdr := true, hdrAlpha := true }

/-- The HDR alpha of mode 15, of both endpoints. -/
def hdrAlphas (v6 v7 : Nat) : Nat × Nat :=
  let mode := bits v6 7 7 + 2 * bits v7 7 7
  let x := v6 % 128
  let y := v7 % 128
  if mode = 3 then (32 * x, 32 * y)
  else
    let base := (x + y * 2 ^ (mode + 1) / 128 % 16 * 128) * 2 ^ (4 - mode)
    let d : Int := signedBits (6 - mode) y * 2 ^ (4 - mode)
    (base, clampTo 4095 (base + d))

/-- The endpoints of a colour endpoint mode. -/
def endpointsOf (mode : Nat) (v : Nat → Nat) : Endpoints :=
  let grey (x y : Nat) (a : Nat) (hdr : Bool) : Endpoints := { low := ⟨x, x, x, a⟩, high := ⟨y, y, y, a⟩, hdr := hdr, hdrAlpha := hdr }
  let scaled (a0 a1 : Nat) : Endpoints := { low := ⟨v 0 * v 3 / 256, v 1 * v 3 / 256, v 2 * v 3 / 256, a0⟩, high := ⟨v 0, v 1, v 2, a1⟩ }
  match mode with
  | 0 => grey (v 0) (v 1) 255 false
  | 1 =>
    let l := v 0 / 4 + v 1 / 64 * 64
    grey l (min 255 (l + v 1 % 64)) 255 false
  | 2 => if v 0 ≤ v 1 then grey (16 * v 0) (16 * v 1) 0x780 true else grey (16 * v 1 + 8) (16 * v 0 - 8) 0x780 true
  | 3 =>
    let (y, d) := if 128 ≤ v 0 then (v 1 / 32 * 512 + v 0 % 128 * 4, v 1 % 32 * 4) else (v 1 / 16 * 256 + v 0 % 128 * 2, v 1 % 16 * 2)
    grey y (min 4095 (y + d)) 0x780 true
  | 4 => { low := ⟨v 0, v 0, v 0, v 2⟩, high := ⟨v 1, v 1, v 1, v 3⟩ }
  | 5 =>
    let (dl, l) := transferBit (v 1) (v 0)
    let (da, a) := transferBit (v 3) (v 2)
    let h := clampTo 255 (l + dl)
    { low := ⟨l, l, l, a⟩, high := ⟨h, h, h, clampTo 255 (a + da)⟩ }
  | 6 => scaled 255 255
  | 7 => hdrScale v
  | 8 => directEndpoints v 255 255
  | 9 => offsetEndpoints v 255 255
  | 10 => scaled (v 4) (v 5)
  | 11 => hdrDirect v
  | 12 => directEndpoints v (v 6) (v 7)
  | 13 =>
    let (da, a) := transferBit (v 7) (v 6)
    offsetEndpoints v a (a + da)
  | 14 =>
    let e := hdrDirect v
    { e with low := { e.low with a := v 6 }, high := { e.high with a := v 7 }, hdrAlpha := false }
  | _ =>
    let e := hdrDirect v
    let (a0, a1) := hdrAlphas (v 6) (v 7)
    { e with low := { e.low with a := a0 }, high := { e.high with a := a1 } }

/-! ### ASTC: blocks -/

/-- The weight grid of a block mode: width, height, range, and whether there are two planes; none: the mode is reserved. -/
def blockMode (m : Nat) : Option (Nat × Nat × IseRange × Bool) :=
  let a := bits m 6 5
  let grid : Option (Nat × Nat × Nat × Bool) :=
    if m % 4 ≠ 0 then
      let b := bits m 8 7
      let (w, h) := match bits m 3 2 with
        | 0 => (b + 4, a + 2)
        | 1 => (b + 8, a + 2)
        | 2 => (a + 2, b + 8)
        | _ => if bits m 8 8 = 1 then (b % 2 + 2, a + 2) else (a + 2, b % 2 + 6)
      some (w, h, 2 * (m % 4), true)
    else if bits m 3 2 = 0 then none
    else
      let r := 2 * bits m 3 2
      match bits m 8 7 with
      | 0 => some (12, a + 2, r, true)
      | 1 => some (a + 2, 12, r, true)
      | 2 => some (a + 6, bits m 10 9 + 6, r, false)
      | _ => if a = 0 then some (6, 10, r, true) else if a = 1 then some (10, 6, r, true) else none
  grid.map (fun g => (g.1, g.2.1, iseRanges.getD (g.2.2.1 + bits m 4 4 - 2 + (if g.2.2.2 then 6 * bits m 9 9 else 0)) (0, 1), g.2.2.2 && decide (bits m 10 10 = 1)))

/-- The hash of the partition function, of 32 bits. -/
def hashPartition (p : Nat) : Nat :=
  let w (x : Nat) : Nat := x % 2 ^ 32
  let p := p ^^^ p / 2 ^ 15
  let p := w (p * 0xEEDE0891)
  let p := p ^^^ p / 2 ^ 5
  let p := w (p + p * 2 ^ 16)
  let p := p ^^^ p / 2 ^ 7
  let p := p ^^^ p / 2 ^ 3
  let p := p ^^^ w (p * 2 ^ 6)
  p ^^^ p / 2 ^ 17

/-- The partition of a texel of a block with `n` partitions; `small` for fewer than 31 texels. -/
def partitionOf (index n : Nat) (small : Bool) (x y : Nat) : Nat :=
  let x := if small then 2 * x else x
  let y := if small then 2 * y else y
  let seed := index + (n - 1) * 1024
  let r := hashPartition seed
  let third := if n = 3 then 6 else 5
  let turn := if bits seed 1 1 = 1 then 4 else 5
  let (sh1, sh2) := if seed % 2 = 1 then (turn, third) else (third, turn)
  let s (k sh : Nat) : Nat := (r / 2 ^ (4 * k) % 16) ^ 2 / 2 ^ sh
  let a := (s 0 sh1 * x + s 1 sh2 * y + r / 2 ^ 14) % 64
  let b := (s 2 sh1 * x + s 3 sh2 * y + r / 2 ^ 10) % 64
  let c := if n < 3 then 0 else (s 4 sh1 * x + s 5 sh2 * y + r / 2 ^ 6) % 64
  let d := if n < 4 then 0 else (s 6 sh1 * x + s 7 sh2 * y + r / 2 ^ 2) % 64
  if n < 2 then 0 else if b ≤ a ∧ c ≤ a ∧ d ≤ a then 0 else if c ≤ b ∧ d ≤ b then 1 else if d ≤ c then 2 else 3

/-- The weight of a texel from the grid's: interpolated between the four around it. -/
def infill (w h bw bh : Nat) (grid : Nat → Nat) (x y : Nat) : Nat :=
  let at_ (n size z : Nat) : Nat := ((1024 + size / 2) / (size - 1) * z * (n - 1) + 32) / 64
  let s := at_ w bw x
  let t := at_ h bh y
  let fs := s % 16
  let ft := t % 16
  let v := s / 16 + t / 16 * w
  let w11 := (fs * ft + 8) / 16
  (grid v * (16 + w11 - fs - ft) + grid (v + 1) * (fs - w11) + grid (v + w) * (ft - w11) + grid (v + w + 1) * w11 + 8) / 16

/-- C / 65536 as a .f16 code, rounded toward zero; 65535 is 1.0. -/
def unormHalf (c : Nat) : Nat :=
  if c = 65535 then 0x3C00 else if c < 4 then 256 * c
  else
    let e := Nat.log2 c
    (e - 1) * 1024 + c * 1024 / 2 ^ e % 1024

/-- The .f16 code of an interpolated HDR value. -/
def hdrHalf (c : Nat) : Nat :=
  let m := c % 2048
  let t := if m < 512 then 3 * m else if m < 1536 then 4 * m - 512 else 5 * m - 2048
  min 0x7BFF (c / 2048 * 1024 + t / 8)

/-- The texel of an illegal block: magenta in LDR, NaNs in HDR, of which the definition fixes no code (log 100). -/
def astcError (hdr : Bool) : Texel :=
  let n := if Config.astcNan.toNat % 1024 = 0 then 0x7E00 else (Config.astcNan ||| 0x7C00).toNat
  if hdr then ⟨n, n, n, n⟩ else ⟨255, 0, 255, 255⟩

/-- One channel between two endpoints. In LDR the upper 8 bits of the value between the endpoints, which are widened to 16 bits; by which of two rules is free (log 100). -/
def astcChannel (hdr wide : Bool) (low high w : Nat) : Nat :=
  let c (f : Nat → Nat) : Nat := (f low * (64 - w) + f high * w + 32) / 64
  if wide then hdrHalf (c (16 * ·)) else if hdr then unormHalf (c (257 * ·)) else (if Config.astcRepeats then c (257 * ·) else c (256 * · + 128)) / 256

/-- A void-extent block: one colour. -/
def voidExtent (hdr : Bool) (block : Nat) : Texel :=
  let low (i : Nat) : Nat := bits block (24 + 26 * i) (12 + 26 * i)
  let high (i : Nat) : Nat := bits block (37 + 26 * i) (25 + 26 * i)
  let half := decide (bits block 9 9 = 1)
  let c (i : Nat) : Nat := block / 2 ^ (64 + 16 * i) % 65536
  let f (x : Nat) : Nat := if half then x else if hdr then unormHalf x else x / 256
  if bits block 11 10 ≠ 3 || (half && !hdr) || ((decide (high 0 ≤ low 0) || decide (high 1 ≤ low 1)) && bits block 63 12 ≠ 2 ^ 52 - 1) then astcError hdr
  else ⟨f (c 0), f (c 1), f (c 2), f (c 3)⟩

/-- A texel of an ASTC block of `bw` × `bh` texels. -/
def astcTexel (hdr : Bool) (bw bh block x y : Nat) : Texel :=
  if bits block 8 0 = 0x1FC then voidExtent hdr block
  else match blockMode (block % 2048) with
  | none => astcError hdr
  | some (w, h, range, dual) =>
    let planes := if dual then 2 else 1
    let weights := w * h * planes
    let wbits := iseBits range weights
    let n := bits block 12 11 + 1
    let one := decide (n = 1)
    let selector := bits block 24 23
    let extra := if one || selector = 0 then 0 else 3 * n - 4
    let below := 128 - wbits - extra
    let kinds := bits block 28 25 + 16 * (block / 2 ^ below % 2 ^ extra)
    let mode (i : Nat) : Nat :=
      if one then bits block 16 13
      else if selector = 0 then bits block 28 25
      else 4 * (kinds / 2 ^ i % 2 + selector - 1) + kinds / 2 ^ (n + 2 * i) % 4
    let ints (i : Nat) : Nat := 2 * (mode i / 4 + 1)
    let total := ((List.range n).map ints).sum
    let start := if one then 17 else 29
    let room := below - (if dual then 2 else 0) - start
    if bw < w || bh < h || 64 < weights || wbits < 24 || 96 < wbits || (dual && n = 4) || 18 < total then astcError hdr
    else match (iseRanges.drop 4).reverse.find? (fun r => decide (iseBits r total ≤ room)) with
    | none => astcError hdr
    | some r =>
      let p := if one then 0 else partitionOf (bits block 22 13) n (decide (bw * bh < 31)) x y
      let colours := (iseValues r (block / 2 ^ start) total).map (unquantizeColour r)
      let first := ((List.range p).map ints).sum
      let e := endpointsOf (mode p) (fun i => colours.getD (first + i) 0)
      if (e.hdr || e.hdrAlpha) && !hdr then astcError hdr
      else
        let grid := (iseValues range (mirrored 128 block) weights).map (unquantizeWeight range)
        let weight (k : Nat) : Nat := infill w h bw bh (fun i => grid.getD (planes * i + k) 0) x y
        let apart := bits block (below - 1) (below - 2)
        let wt (i : Nat) : Nat := weight (if dual && i = apart then 1 else 0)
        ⟨astcChannel hdr e.hdr e.low.r e.high.r (wt 0), astcChannel hdr e.hdr e.low.g e.high.g (wt 1), astcChannel hdr e.hdr e.low.b e.high.b (wt 2),
          astcChannel hdr e.hdrAlpha e.low.a e.high.a (wt 3)⟩

/-- The bytes of a texel, of 8 bits a channel, or of 16 in ASTC HDR (R355, R368). -/
def decodeTexel (fmt bw bh block x y : Nat) : Nat :=
  let t : Texel := match fmt with
    | 0 => astcTexel false bw bh block x y
    | 1 => astcTexel true bw bh block x y
    | 2 => etcColour false (bigEndian 8 block) x y
    | 3 => etcColour true (bigEndian 8 block) x y
    | _ => { etcColour false (bigEndian 8 (block / 2 ^ 64)) x y with a := eacAlpha (bigEndian 8 (block % 2 ^ 64)) x y }
  let c := if fmt = 1 then 65536 else 256
  t.r + c * (t.g + c * (t.b + c * t.a))

end Sys2Proof.Machine
end

