-- ==== Sys2Proof/Machine/Memory.lean ====
section
/-!
DEFINITION. Memory as threads and engines reach it: the keys of the physical memories, byte access, homes, page walk and translation caches, permission checks, and the L1s
(R132-R143, R154-R157, R303).
-/

namespace Sys2Proof.Machine

/-! ### Keys of the memories -/

/-- HBM byte at a physical address (R135). -/
def hbmKey (pa : Nat) : Nat := pa
/-- Host memory byte at a physical address, behind an MT 1 or MT 2 page (R137). -/
def hostKey (pa : Nat) : Nat := 2 ^ 48 + pa
/-- Local-store byte of a tile (R133). -/
def localKey (tile off : Nat) : Nat := 2 ^ 49 + tile * 2 ^ 20 + off
/-- Coefficient-memory byte of a tile (R125). -/
def coefKey (tile off : Nat) : Nat := 2 ^ 50 + tile * 2 ^ 13 + off
/-- The copy that a home slice keeps of an HBM or host byte for itself, while another home has a copy of its own (R142). -/
def copyKey (home key : Nat) : Nat := 2 ^ 58 * (home + 1) + key
/-- The key is that of a local store or of coefficient memory. -/
def onTile (key : Nat) : Bool := decide (2 ^ 49 ≤ key) && decide (key < 2 ^ 58)

/-- The word that holds a byte. -/
def wordOf (a : Nat) : Nat := a / 8 * 8

/-- Base of the local window (R132). -/
def windowBase : Nat := 0xFFFFFFFFF00000
/-- End of the address space (R132). -/
def vaEnd : Nat := 2 ^ 56
/-- In the local window. -/
def inWindow (va : Nat) : Bool := decide (windowBase ≤ va) && decide (va < vaEnd)
/-- Canonical: bits [63:56] zero (R132). -/
def canonical (va : Nat) : Bool := decide (va < vaEnd)

/-- `n` bytes at a key as a little-endian number (R8). -/
def peek (m : List Host.Cell) (a : Nat) : Nat → Nat
  | 0 => 0
  | n + 1 => (Memory.read m a).toNat + 256 * peek m (a + 1) n

/-- `n` bytes at a key, lowest address first. -/
def peekBytes (m : List Host.Cell) (a n : Nat) : List Byte := (List.range n).map (fun i => Memory.read m (a + i))

/-- The updates that store the low `n` bytes of a number at a key. -/
def pokeLog (a : Nat) : Nat → Nat → List Effect
  | 0, _ => []
  | n + 1, x => .byte a (BitVec.ofNat 8 x) :: pokeLog (a + 1) n (x / 256)

/-- The updates that a whole-word write makes to error marks: every word wholly covered loses its mark (R304). -/
def cureLog (a n : Nat) : List Effect :=
  (List.range (n / 8 + 1)).filterMap (fun i =>
    let w := wordOf a + 8 * i
    if a ≤ w ∧ w + 8 ≤ a + n then some (.bad w none) else none)

/-- Some word that overlaps a byte range holds an uncorrectable error (R303). -/
def spoiled (s : State) (a n : Nat) : Bool :=
  !s.bad.isEmpty && (List.range (n / 8 + 2)).any (fun i =>
    let w := wordOf a + 8 * i
    decide (w < a + n) && (mapGet w s.bad).isSome)

/-- The management complex receives the report of an uncorrectable error: its source and the address whose data was lost (R304). -/
def machineReport (src va : Nat) : Act Unit := emit (.send (.report "machine check" src va))

/-- The reports of a read of `n` bytes of physical memory that meets words in error (R304). -/
def reportErrors (pa n : Nat) : Act Unit := do
  forEach ((← look).bad.filter (fun e => decide (hbmKey (wordOf pa) ≤ e.1) && decide (e.1 < hbmKey (pa + n)))) (fun e => machineReport e.2 e.1)

/-- Keeps the halfwords that a store of `n` bytes replaces: a fetch may still take them (R16). Nothing is fetched from a tile's memories. -/
def keepOld (a n : Nat) : Act Unit := do
  let s ← look
  if onTile a then pure ()
  else emitAll ((List.range (n / 2 + 1)).filterMap (fun i =>
    let h := (a / 2 + i) * 2
    if h < a + n then some (.old h ((s.nextId, BitVec.ofNat 16 (peek s.mem h 2)) :: (mapGet h s.old).getD [])) else none))

/-- Stores the low `n` bytes of a number at a key. -/
def poke (a n x : Nat) : Act Unit := do
  keepOld a n
  let s ← look
  emitAll (pokeLog a n x)
  if s.bad.isEmpty then pure () else emitAll (cureLog a n)

/-- A number with `n` bytes replaced at byte offset `o`. -/
def spliceBytes (x o n y : Nat) : Nat :=
  x % 256 ^ o + (y % 256 ^ n) * 256 ^ o + x / 256 ^ (o + n) * 256 ^ (o + n)

/-- Stores the low `n` bytes of a number in HBM by physical address: what HBM holds of a granule that a slice caches changes with what the slice serves (R142). -/
def pokePhysical (a n x : Nat) : Act Unit := do
  poke a n x
  forEach (List.range (n / 256 + 2)) (fun i => do
    let index := a / 256 + i
    match mapGet index (← look).granules with
    | none => pure ()
    | some g =>
      match g.hbm with
      | none => pure ()
      | some m =>
        let lo := max a (index * 256)
        let hi := min (a + n) (index * 256 + 256)
        if lo < hi then
          emit (.granule index (some { g with hbm := some { m with
            data := BitVec.ofNat 2048 (spliceBytes m.data.toNat (lo - index * 256) (hi - lo) (x / 256 ^ (lo - a))) } }))
        else pure ())

/-- Makes the word of HBM at a physical address FULL, in what HBM holds of a cached granule too. -/
def fullPhysical (w : Nat) : Act Unit := do
  emit (.empty w false)
  match mapGet (w / 256) (← look).granules with
  | none => pure ()
  | some g =>
    match g.hbm with
    | none => pure ()
    | some m => emit (.granule (w / 256) (some { g with hbm := some { m with empties := m.empties &&& ~~~(BitVec.twoPow 32 (w % 256 / 8)) } }))

/-- The full/empty state of the word at a key: EMPTY (R160). -/
def isEmptyWord (s : State) (w : Nat) : Bool := (mapGet w s.empties).isSome

/-! ### Homes (R140) -/

/-- The hash of R140: die × 128 + slice. -/
def homeHash (va : Nat) : Nat :=
  let g := bits va 55 8
  bits g 8 0 ^^^ bits g 17 9 ^^^ bits g 26 18 ^^^ bits g 35 27 ^^^ bits g 44 36 ^^^ bits g 47 45

/-- The die of an address's home slice. -/
def homeDie (va : Nat) : Nat := homeHash va / 128
/-- The home slice within its die. -/
def homeSlice (va : Nat) : Nat := homeHash va % 128
/-- The translation home's slice (R141). -/
def translationSlice (va : Nat) : Nat :=
  let f := bits va 55 21
  bits f 6 0 ^^^ bits f 13 7 ^^^ bits f 20 14 ^^^ bits f 27 21 ^^^ bits f 34 28

/-- The key under which a word's home keeps its list: context and address, at the controller of a tile's store for the local window (R166). -/
def homeKey (ctx tile va : Nat) : Nat :=
  if inWindow va then 2 ^ 70 + ctx * 2 ^ 56 + localKey tile (wordOf (va - windowBase)) else ctx * 2 ^ 56 + wordOf va

/-! ### Page tables (R135-R138) -/

/-- One level of the tables: low bit and width of its index, page size of a leaf if it may hold one, whether a non-leaf names an 8 KiB table. -/
structure Level where
  lo : Nat
  width : Nat
  leaf : Option Nat
  wide : Bool
  last : Bool

/-- The five levels of R136. -/
def levels : List Level :=
  [⟨48, 8, none, true, false⟩, ⟨39, 9, none, true, false⟩, ⟨30, 9, some (2 ^ 30), true, false⟩,
   ⟨21, 9, some (2 ^ 21), false, false⟩, ⟨16, 5, some (2 ^ 16), false, true⟩]

/-- The outcome of a walk: a leaf, a page fault with its cause byte (R146), or a table that lies in no memory. -/
inductive Walk where
  | leaf (l : CachedLeaf)
  | missing (cause : Nat)
  | hole (pa : Nat)
  deriving DecidableEq, Repr

/-- NOT_PRESENT, MALFORMED and NO_CONTEXT (R146). -/
def notPresent : Nat := 0
def malformed : Nat := 1
def noContext : Nat := 2

/-- Walks the levels from a table (R136-R138). A word of a table that is in error is read as memory holds it, and reported (R304). (DESIGN CHOICE: log 76) -/
def walkFrom (m : List Host.Cell) (ctx va : Nat) : Nat → List Level → Walk
  | _, [] => .missing malformed
  | table, l :: rest =>
    let at_ := table + 16 * bits va (l.lo + l.width - 1) l.lo
    if Config.hbmBytes < at_ + 16 then .hole at_
    else
      let e := peek m (hbmKey at_) 8
      let addr := bits e 47 9 * 512
      if bits e 0 0 = 0 then .missing notPresent
      else if bits e 2 2 = 1 then
        match l.leaf with
        | none => .missing malformed
        | some size =>
          let mt := bits e 6 5
          if addr % size ≠ 0 ∨ mt = 3 ∨ (mt = 0 ∧ Config.hbmBytes < addr + size) then .missing malformed
          else .leaf ⟨ctx, va / size * size, size, addr, mt, bits e 4 4 = 1, bits e 3 3 = 1,
            BitVec.ofNat 64 (peek m (hbmKey (at_ + 8)) 8)⟩
      else if l.last then .missing malformed
      else if l.wide ∧ bits e 12 9 ≠ 0 then .missing malformed
      else walkFrom m ctx va addr rest

/-- The words that a walk from a table reads. -/
def walkReads (m : List Host.Cell) (va : Nat) : Nat → List Level → List Nat
  | _, [] => []
  | table, l :: rest =>
    let at_ := table + 16 * bits va (l.lo + l.width - 1) l.lo
    if Config.hbmBytes < at_ + 16 then []
    else
      let e := peek m (hbmKey at_) 8
      if bits e 0 0 = 0 then [at_]
      else if bits e 2 2 = 1 then if l.leaf.isSome then [at_, at_ + 8] else [at_]
      else if l.last || l.wide && bits e 12 9 ≠ 0 then [at_]
      else at_ :: walkReads m va (bits e 47 9 * 512) rest

/-- The context-table entry of a context on a die: its two words, if the table is placed and the entry valid (R135). A word in error is read as memory
holds it, and reported (R304). (DESIGN CHOICE: log 76) -/
def contextEntry (s : State) (die ctx : Nat) : Option (Nat × Nat) :=
  match (s.die die).contextTable with
  | none => none
  | some base =>
    let w1 := peek s.mem (hbmKey (base + 16 * ctx + 8)) 8
    if bits w1 0 0 = 1 then some (peek s.mem (hbmKey (base + 16 * ctx)) 8, w1) else none

/-- The words that a look at a context's entry reads: the word of V and SYS, and of a valid entry the word of the root. -/
def contextReads (s : State) (die ctx : Nat) : List Nat :=
  match (s.die die).contextTable with
  | none => []
  | some base => (base + 16 * ctx + 8) :: (if (contextEntry s die ctx).isSome then [base + 16 * ctx] else [])

/-- The reports of a look at a context's entry, and of a walk for an address, that meet words in error (R304). -/
def reportContext (die ctx : Nat) : Act Unit := do forEach (contextReads (← look) die ctx) (fun w => reportErrors w 8)
def reportWalk (ctx va : Nat) : Act Unit := do
  let s ← look
  reportContext (homeDie va) ctx
  match contextEntry s (homeDie va) ctx with
  | some (w0, _) => forEach (walkReads s.mem va (bits w0 47 12 * 4096) levels) (fun w => reportErrors w 8)
  | none => pure ()

/-- SYS of a context (R135). -/
def contextSys (s : State) (die ctx : Nat) : Bool :=
  match contextEntry s die ctx with
  | some (_, w1) => bits w1 1 1 = 1
  | none => false

/-- The walk for an address of the shared space, on the die of its home slice. A PCIe link without CXL makes an MT 1 page malformed (R371). -/
def walk (s : State) (ctx va : Nat) : Walk :=
  match contextEntry s (homeDie va) ctx with
  | none => .missing noContext
  | some (w0, _) =>
    match walkFrom s.mem ctx va (bits w0 47 12 * 4096) levels with
    | .leaf l => if l.mt = 1 && s.mgmt.trained && s.mgmt.cxl = 0 then .missing malformed else .leaf l
    | r => r

/-- A leaf covers an address of a context. -/
def CachedLeaf.covers (l : CachedLeaf) (ctx va : Nat) : Bool :=
  l.ctx = ctx && decide (l.va ≤ va) && decide (va < l.va + l.size)

/-- The 2 MiB region of an address. -/
def regionOf (va : Nat) : Nat := va / 2 ^ 21

/-- A held translation serves an address: the leaf covers it, in the region for which the cache holds it (R141). -/
def Translation.serves (t : Translation) (ctx va : Nat) : Bool := t.leaf.covers ctx va && t.region = regionOf va

/-- The slice whose last level serves an address: the translation home, on the die of the home slice (R141). -/
def lastSlice (va : Nat) : Nat := homeDie va * 128 + translationSlice va

/-- The regions that a last level has entries for: each is one entry, whatever leaves of it are held (R141). -/
def regionsHeld (l : List Translation) : List (Nat × Nat) := (l.map (fun t => (t.leaf.ctx, t.region))).eraseDups

/-- A cache takes a translation in place of one that served the same address, dropping a victim when all its entries are in use (R5, R141; the choice is log 5). (DESIGN CHOICE: log 5) -/
def keepTranslation (entries : Nat) (wholeRegion : Bool) (va : Nat) (new : Translation) (l : List Translation) : Act (List Translation) := do
  let others := l.filter (fun t => !t.serves new.leaf.ctx va)
  if wholeRegion then
    let regions := regionsHeld others
    if regions.contains (new.leaf.ctx, new.region) || decide (regions.length < entries) then return new :: others
    else
      let n ← freshFree
      let victim := regions.getD (Config.pickVictim n % regions.length) (0, 0)
      return new :: others.filter (fun t => (t.leaf.ctx, t.region) ≠ victim)
  else if others.length < entries then return new :: others
  else
    let n ← freshFree
    return new :: others.eraseIdx (Config.pickVictim n % others.length)

/-- The slice of an address keeps a translation that it has used: in its first level, and one that has just been walked also in the translation home's last level (R141). -/
def keepLeaf (va : Nat) (l : CachedLeaf) (walked : Bool) : Act Unit := do
  let new : Translation := ⟨l, regionOf va⟩
  let c := (← look).slice (homeHash va)
  if c.first.contains new then pure ()
  else do
    let f ← keepTranslation Config.firstLevel false va new c.first
    emit (.tlb (homeHash va) { c with first := f })
  let d := (← look).slice (lastSlice va)
  if !walked || d.last.contains new then pure ()
  else do
    let f ← keepTranslation Config.lastLevel true va new d.last
    emit (.tlb (lastSlice va) { d with last := f })

/-- The translation an access uses at its home slice (R141): the present walk, unless the first level of the slice or the last level of its translation home may still hold another entry
for the address; then a free choice (R143). A walk that is made reports the words in error that it reads (R304). (DESIGN CHOICE: log 6) -/
def translate (ctx va : Nat) : Act Walk := do
  let s ← look
  let now := walk s ctx va
  let held := ((s.slice (homeHash va)).first ++ (s.slice (lastSlice va)).last).filter (·.serves ctx va)
  let olds := (held.map (fun t => Walk.leaf t.leaf)).filter (· ≠ now)
  let chosen ← if olds.isEmpty then pure now
    else do
      let n ← freshFree
      let all := now :: olds
      pure (all.getD (Config.pickTranslation n % all.length) now)
  if s.bad.isEmpty || chosen ≠ now || held.any (fun t => decide (Walk.leaf t.leaf = now)) then pure () else reportWalk ctx va
  match chosen with
  | .leaf l => keepLeaf va l (chosen = now)
  | _ => pure ()
  return chosen

/-! ### Copies at the homes (R142) -/

/-- The home slice of a holder. -/
def Holder.home (h : Holder) : Nat := homeHash (h.granule * 256)

/-- The words of a granule. -/
def granuleWords (key : Nat) : List Nat := (List.range 32).map (fun i => key / 256 * 256 + 8 * i)

/-- What a granule holds at the key of one of its bytes. -/
def granuleImage (s : State) (key : Nat) : GranuleImage where
  data := BitVec.ofNat 2048 (peek s.mem (key / 256 * 256) 256)
  empties := BitVec.ofNat 32 (((List.range 32).map (fun i => if isEmptyWord s (key / 256 * 256 + 8 * i) then 2 ^ i else 0)).sum)

/-- The granule at a key becomes an image. -/
def putImage (key : Nat) (m : GranuleImage) : Act Unit := do
  emitAll (pokeLog (key / 256 * 256) 256 m.data.toNat)
  emitAll ((List.range 32).map (fun i => .empty (key / 256 * 256 + 8 * i) (m.empties.getLsbD i)))

/-- The data, the states and the error marks of the granule at one key become those at another. -/
def copyGranule (src dst : Nat) : Act Unit := do
  let s ← look
  putImage dst (granuleImage s src)
  emitAll ((List.range 32).map (fun i => .bad (dst / 256 * 256 + 8 * i) (mapGet (src / 256 * 256 + 8 * i) s.bad)))

/-- A copy leaves its home slice: stores that it holds are written to HBM (R142). -/
def evictCopy (key : Nat) (h : Holder) : Act Unit := do
  let c := copyKey h.home (key / 256 * 256)
  if h.dirty then copyGranule c key else pure ()
  emitAll (pokeLog c 256 0)
  emitAll ((granuleWords c).flatMap (fun w => [.empty w false, .bad w none]))

/-- The key of the reservation of the word at a memory key, which the home of an address keeps (R174). -/
def holdKey (va key : Nat) : Nat := if onTile key || 2 ^ 58 ≤ key then wordOf key else copyKey (homeHash va) (wordOf key)

/-- A word of a home's copy is reserved, or a blend or a store that has been accepted for it is still to be performed, so that the slice keeps the copy until then (R123, R174, R364). -/
def copyHeld (s : State) (key : Nat) (h : Holder) : Bool :=
  (granuleWords (copyKey h.home (key / 256 * 256))).any (fun w => (mapGet w s.holds).isSome || s.blends.any (fun b => holdKey b.va b.key = w)
    || s.reqs.any (fun r => r.2.reached.any (fun p => holdKey p.va p.key = w)))

/-- Some of the copies of a granule have left their slices, which ones is open (R142); gives those that stay. -/
def evictSome (key : Nat) : List Holder → Act (List Holder)
  | [] => return []
  | h :: r => do
    let n ← freshFree
    let gone := Config.freeBit n && !copyHeld (← look) key h
    if gone then evictCopy key h else pure ()
    let rest ← evictSome key r
    return if gone then rest else h :: rest

/-- A slice holds a granule. -/
def Granule.heldBy (g : Granule) (home : Nat) : Bool := if g.copies.isEmpty then g.holder.home = home else g.copies.any (fun h => h.home = home)

/-- A granule leaves a slice: stores that the slice holds are written to HBM. -/
def leaveSlice (home : Nat) (e : Nat × Granule) : Act Unit := do
  if e.2.copies.isEmpty then emit (.granule e.1 none)
  else do
    forEach (e.2.copies.filter (fun h => h.home = home)) (evictCopy (e.1 * 256))
    let stay := e.2.copies.filter (fun h => h.home ≠ home)
    emit (.granule e.1 (if stay.isEmpty then none else some { e.2 with copies := stay }))

/-- A slice of 1 MiB that is full drops a granule before it takes another (R5; which one is log 5). One whose every granule is a copy that must stay, for a reservation or a held blend, takes
one granule more. (DESIGN CHOICE: log 5) -/
def makeRoom (home : Nat) : Act Unit := do
  let s ← look
  let held := s.granules.filter (fun e => e.2.heldBy home)
  if held.length < Config.sliceGranules then pure ()
  else do
    let free := held.filter (fun e => !e.2.copies.any (fun h => h.home = home && copyHeld s (e.1 * 256) h))
    let n ← freshFree
    match free[Config.pickVictim n % free.length]? with
    | some e => leaveSlice home e
    | none => pure ()

/-- Two homes now have copies of a granule: what the first has stored may not have reached HBM, which then still holds what it held when the first store was made or at a later moment of
which stores were written back (R142). -/
def splitCopies (key : Nat) (g : Granule) : Act (List Holder) := do
  copyGranule key (copyKey g.holder.home (key / 256 * 256))
  match g.hbm with
  | none => return [g.holder]
  | some m => do
    let n ← freshFree
    if Config.freeBit n then return [g.holder]
    else do
      putImage key m
      return [{ g.holder with dirty := true }]

/-- What HBM holds of a granule before a store through its one home: all of it, or, where stores have not been written back, what it held before them or, as is open, all that has been
stored so far (R142). -/
def hbmBefore (key : Nat) (g : Option GranuleImage) (write : Bool) : Act (Option GranuleImage) := do
  let s ← look
  match write, g with
  | false, m => return m
  | true, none => return some (granuleImage s key)
  | true, some m => do
    let n ← freshFree
    return some (if Config.freeBit n then granuleImage s key else m)

/-- The memory key at which the home of an address finds the byte behind a leaf (R142): a home caches by physical address, so a granule that is reached through two homes, of which one may
write, has two copies, each of which holds what was last written through it. (DESIGN CHOICE: log 18) -/
def atHome (ctx va key : Nat) (l : CachedLeaf) (write : Bool) : Act Nat := do
  let s ← look
  let me : Holder := ⟨ctx, va / 256, false⟩
  let index := key / 256
  let first : Act Nat := do
    makeRoom me.home
    emit (.granule index (some ⟨me, l.w, ← hbmBefore key none write, []⟩))
    return key
  match mapGet index s.granules with
  | none => first
  | some g =>
    let w := g.writable || l.w
    if g.copies.isEmpty && (g.holder.home = me.home || !w) then do
      let g' := { g with writable := w, hbm := ← hbmBefore key g.hbm write }
      if g' = g then pure () else emit (.granule index (some g'))
      return key
    else do
      let copies ← if g.copies.isEmpty then splitCopies key g else pure g.copies
      let kept ← evictSome key copies
      if kept.isEmpty then do
        emit (.granule index none)
        first
      else do
        let c := copyKey me.home key
        if kept.any (fun h => h.home = me.home) then
          emit (.granule index (some ⟨g.holder, w, none, kept.map (fun h => if h.home = me.home then { h with dirty := h.dirty || write } else h)⟩))
        else do
          makeRoom me.home
          copyGranule key c
          emit (.granule index (some ⟨g.holder, w, none, kept ++ [{ me with dirty := write }]⟩))
        return c

/-- The memory key of a reserved word, by the key of its reservation. -/
def locate (s : State) (hk : Nat) : Nat :=
  if onTile hk then hk
  else
    match mapGet (hk % 2 ^ 58 / 256) s.granules with
    | some g => if g.copies.any (fun h => h.home + 1 = hk / 2 ^ 58) then hk else hk % 2 ^ 58
    | none => hk % 2 ^ 58

/-- A home reserves a word. -/
def reserved (s : State) (hk : Nat) : Bool := (s.hold hk).resv.isSome

/-- Translations of a context have gone: copies cached through them leave their slices (R142, R143). (DESIGN CHOICE: log 18) -/
def dropHolders (ctx : Nat) (va : Option Nat) (gone : List CachedLeaf) : Act Unit := do
  let s ← look
  let hit (h : Holder) : Bool := h.ctx = ctx && (match va with
    | none => true
    | some a => h.granule / 256 = a / 65536 || gone.any (fun l => l.covers ctx (h.granule * 256)))
  forEach s.granules (fun e => do
    let key := e.1 * 256
    if e.2.copies.isEmpty then
      if hit e.2.holder then emit (.granule e.1 none) else pure ()
    else do
      let out := e.2.copies.filter (fun h => hit h && !copyHeld s key h)
      forEach out (evictCopy key)
      let stay := e.2.copies.filter (fun h => !out.contains h)
      if out.isEmpty then pure () else emit (.granule e.1 (if stay.isEmpty then none else some { e.2 with copies := stay })))

/-! ### Surfaces and decoded views (R355, R368) -/

/-- The levels of a surface: width, height, tiles across, and offset from BASE (R355); `p` is the bytes of a pixel. -/
def surfaceLevels (p : Nat) : Nat → Nat → Nat → Nat → List (Nat × Nat × Nat × Nat)
  | 0, _, _, _ => []
  | n + 1, w, h, off =>
    let c := (w + 7) / 8
    (w, h, c, off) :: surfaceLevels p n (max (w / 2) 1) (max (h / 2) 1) (off + (h + 7) / 8 * c * (64 * p))

/-- Offset of pixel (x, y) within a level of `c` tiles across (R355). -/
def pixelOffset (p c x y : Nat) : Nat := y / 8 * c * (64 * p) + x / 8 * (64 * p) + y % 8 * (8 * p) + x % 8 * p

/-- Bytes of a pixel of a decoded view, and of a compressed block (R368). -/
def DecodedView.pixelBytes (v : DecodedView) : Nat := if v.fmt = 1 then 8 else 4
def DecodedView.blockBytes (v : DecodedView) : Nat := if v.fmt = 2 ∨ v.fmt = 3 then 8 else 16

/-- The levels of a decoded view in its surface layout, and the offset of each level's blocks from CBASE. -/
def DecodedView.layout (v : DecodedView) : List ((Nat × Nat × Nat × Nat) × Nat) :=
  let ls := surfaceLevels v.pixelBytes v.levels v.w v.h 0
  let size (l : Nat × Nat × Nat × Nat) : Nat := (l.1 + v.bw - 1) / v.bw * ((l.2.1 + v.bh - 1) / v.bh) * v.blockBytes
  ls.zip (ls.foldl (fun (acc : List Nat × Nat) l => (acc.1 ++ [acc.2], acc.2 + size l)) ([], 0)).1

/-- Bytes of a decoded view, and of its compressed levels. -/
def DecodedView.bytes (v : DecodedView) : Nat :=
  ((surfaceLevels v.pixelBytes v.levels v.w v.h 0).map (fun l => (l.2.1 + 7) / 8 * l.2.2.1 * (64 * v.pixelBytes))).foldl (· + ·) 0
def DecodedView.compressed (v : DecodedView) : Nat :=
  ((surfaceLevels v.pixelBytes v.levels v.w v.h 0).map (fun l => (l.1 + v.bw - 1) / v.bw * ((l.2.1 + v.bh - 1) / v.bh) * v.blockBytes)).foldl (· + ·) 0

/-- The pixel at an offset of a decoded view: the physical address of its block, its place in the block, and the byte of it that the offset names; none: no block holds it. -/
def DecodedView.texel (v : DecodedView) (off : Nat) : Option (Nat × Nat × Nat × Nat) :=
  let p := v.pixelBytes
  match v.layout.reverse.find? (fun l => decide (l.1.2.2.2 ≤ off)) with
  | none => none
  | some ((w, h, c, start), blocks) =>
    let o := off - start
    let tile := o / (64 * p)
    let inTile := o % (64 * p)
    let x := tile % c * 8 + inTile / p % 8
    let y := tile / c * 8 + inTile / (8 * p)
    let across := (w + v.bw - 1) / v.bw
    if x / v.bw < across && y / v.bh < (h + v.bh - 1) / v.bh then some (v.cbase + blocks + (y / v.bh * across + x / v.bw) * v.blockBytes, x % v.bw, y % v.bh, o % p)
    else none

/-- The byte at an offset of a decoded view: the texel of its pixel, decoded from its block. What fills a tile beyond the blocks of its level is free (log 100). -/
def DecodedView.byte (v : DecodedView) (off : Nat) : Nat :=
  match v.texel off with
  | none => (Config.openTexel (peek v.blocks (hbmKey v.cbase) v.compressed) off).toNat
  | some (block, x, y, i) => decodeTexel v.fmt v.bw v.bh (peek v.blocks (hbmKey block) v.blockBytes) x y / 256 ^ i % 256

/-- The decoded view that a physical key lies in, on the die of an address's home slice. -/
def viewOf (s : State) (va key : Nat) : Option DecodedView :=
  (s.die (homeDie va)).views.find? (fun v => decide (v.dbase ≤ key) && decide (key < v.dbase + v.bytes))

/-- `n` bytes of decoded views and memory at a key, little-endian. -/
def peekViews (s : State) (va key : Nat) : Nat → Nat
  | 0 => 0
  | n + 1 =>
    (match viewOf s va key with
      | some v => v.byte (key - v.dbase)
      | none => (Memory.read s.mem key).toNat) + 256 * peekViews s (va + 1) (key + 1) n

/-- What a load of `n` bytes reads at a key: memory, or a decoded view (R368). -/
def loadBytes (s : State) (va key n : Nat) : Nat :=
  if inWindow va || (s.die (homeDie va)).views.isEmpty then peek s.mem key n else peekViews s va key n

/-- The data that a load of `n` bytes at a key reads holds an uncorrectable error: that of memory, or of the compressed blocks of a decoded view, which alone are read (R303, R368). -/
def loadSpoiled (s : State) (va key n : Nat) : Bool :=
  !s.bad.isEmpty && (if inWindow va || (s.die (homeDie va)).views.isEmpty then spoiled s key n
    else (List.range n).any (fun i =>
      match viewOf s (va + i) (key + i) with
      | some v => (match v.texel (key + i - v.dbase) with | some x => spoiled s (hbmKey x.1) v.blockBytes | none => false)
      | none => spoiled s (key + i) 1))

/-! ### Permission (R139) -/

/-- What kind of access is made: write, instruction fetch, full/empty operation or atomic. -/
structure AccessMode where
  write : Bool := false
  exec : Bool := false
  fe : Bool := false

/-- Why a home does not perform an access (R139, R146, R303). -/
inductive Denied where
  | protection
  | pageFault (cause : Nat)
  | machineCheck (source : Nat)
  deriving DecidableEq, Repr

/-- The checks of a leaf, for an access performed for a cluster; the Tundish performs on none (R256). -/
def permits (l : CachedLeaf) (cluster : Option Nat) (m : AccessMode) : Bool :=
  (match cluster with | none => true | some c => l.gmask.getLsbD (c / 4)) &&
  !(m.write && !l.w) && !(m.exec && !l.x) && !(m.fe && l.mt ≠ 0)

/-- The memory key behind a leaf. -/
def CachedLeaf.key (l : CachedLeaf) (va : Nat) : Nat :=
  let pa := l.pa + (va - l.va)
  if l.mt = 0 then hbmKey pa else hostKey pa

/-- The loads of a decoded view are decoded; other bytes are found where the home has them (R142, R368). -/
def placeOf (ctx va : Nat) (l : CachedLeaf) (write : Bool) : Act Nat := do
  let key := l.key va
  if l.mt = 2 || (viewOf (← look) va key).isSome then return key else atHome ctx va key l write

/-- Translates and checks an access performed at the home, or in the local store of a tile; gives the key of its first byte. A decoded view takes loads alone (R368). A page-table hole stops the machine. -/
def reach (ctx : Nat) (tile : Option Nat) (va : Nat) (m : AccessMode) : Act (Except Denied (Nat × Nat)) := do
  if inWindow va then
    match tile with
    | some t => return if m.exec then .error .protection else .ok (localKey t (va - windowBase), 0)
    | none => return .error .protection
  else if !canonical va then return .error .protection
  else
    match ← translate ctx va with
    | .hole pa => stop (.fault (.noMemory pa))
    | .missing c => return .error (.pageFault c)
    | .leaf l =>
      if permits l (tile.map clusterOfTile) m && !((m.write || m.fe) && (viewOf (← look) va (l.key va)).isSome) then return .ok (← placeOf ctx va l m.write, l.mt) else return .error .protection

/-- The source code of the first error among the words that overlap a byte range (R304). -/
def errorSource (s : State) (a n : Nat) : Nat :=
  ((List.range (n / 8 + 2)).findSome? (fun i => if wordOf a + 8 * i < a + n then mapGet (wordOf a + 8 * i) s.bad else none)).getD 0

/-- The address of the first byte of a range at `va` whose word holds an error (R288). -/
def errorAddress (s : State) (va a n : Nat) : Nat :=
  match (List.range n).find? (fun i => (mapGet (wordOf (a + i)) s.bad).isSome) with
  | some i => va + i
  | none => va

/-- The source code of the first error that a load of `n` bytes at a key meets: that of memory, or of the compressed block that fails (R304, R368). -/
def loadSource (s : State) (va key n : Nat) : Nat :=
  if inWindow va || (s.die (homeDie va)).views.isEmpty then errorSource s key n
  else ((List.range n).findSome? (fun i =>
    match viewOf s (va + i) (key + i) with
    | some v => (match v.texel (key + i - v.dbase) with
      | some x => if spoiled s (hbmKey x.1) v.blockBytes then some (errorSource s (hbmKey x.1) v.blockBytes) else none
      | none => none)
    | none => if spoiled s (key + i) 1 then some (errorSource s (key + i) 1) else none)).getD 0

/-- Reads bytes performed at the home (R186). -/
def readHome (ctx : Nat) (tile : Option Nat) (va n : Nat) (m : AccessMode) : Act (Except Denied Nat) := do
  match ← reach ctx tile va m with
  | .error d => return .error d
  | .ok (k, _) =>
    let s ← look
    if loadSpoiled s va k n then return .error (.machineCheck (loadSource s va k n)) else return .ok (loadBytes s va k n)

/-! ### The L1s (R154-R157) -/

/-- The core whose L1 serves an address for a core: its own, or under fusion the core that R157 names. -/
def l1Core (s : State) (core va : Nat) : Nat :=
  let cl := clusterOfTile (tileOfCore core)
  if (s.cluster cl).fused then cl * 32 + bits va 9 7 * 4 + bits va 6 5 else core

/-- The line of a context at an address in the L1 that serves a core. -/
def l1Find (s : State) (core ctx va : Nat) : Option L1Line :=
  (s.core (l1Core s core va)).l1.find? (fun l => l.ctx = ctx && l.line = va / 32)

/-- Bytes of a line. -/
def L1Line.read (l : L1Line) (va n : Nat) : Nat := l.bytes.toNat / 256 ^ (va % 32) % 256 ^ n

/-- A store of a core 3 drops the nodes of its tile's node cache that it changes, so that the traversals of its threads read what they have written. (DEDUCED: log 68) -/
def dropNodesAt (core ctx va n : Nat) : Act Unit := do
  let t := (← look).tile (tileOfCore core)
  let hit (x : CachedNode) : Bool := x.ctx = ctx && decide (x.addr < va + n) && decide (va < x.addr + 128)
  if core % 4 = 3 && t.nodes.any hit then emit (.tile (tileOfCore core) { t with nodes := t.nodes.filter (fun x => !hit x) }) else pure ()

/-- A store performed for a core updates a line that its L1 holds (R154). -/
def l1Update (core ctx va n x : Nat) : Act Unit := do
  dropNodesAt core ctx va n
  let s ← look
  match l1Find s core ctx va with
  | none => pure ()
  | some _ =>
    modCore (l1Core s core va) (fun c => { c with l1 := c.l1.map (fun l =>
      if l.ctx = ctx && l.line = va / 32 then { l with bytes := BitVec.ofNat 256 (spliceBytes l.bytes.toNat (va % 32) n x) } else l) })

/-- Lines of an L1 that share the set of a line (R5; which set a line falls into is log 5). -/
def l1SameSet (lines : List L1Line) (line : Nat) : List L1Line := lines.filter (fun l => Config.l1Set l.line % Config.l1Sets = Config.l1Set line % Config.l1Sets)

/-- Allocates a line, dropping a victim when the 8 ways of its set are full (R5, R154; the choice is log 5). (DESIGN CHOICE: log 5) -/
def l1Fill (core va : Nat) (line : L1Line) : Act Unit := do
  let s ← look
  let c := l1Core s core va
  let lines := (s.core c).l1
  let set := if lines.length < Config.l1Ways then [] else l1SameSet lines line.line
  let kept ← if set.length < Config.l1Ways then pure lines
    else do
      let n ← freshFree
      pure (lines.filter (fun l => set[Config.pickVictim n % set.length]? ≠ some l))
  modCore c (fun x => { x with l1 := line :: kept })

/-- Drops the line of a context at an address from the L1 that serves a core. -/
def l1Drop (core ctx va : Nat) : Act Unit := do
  let s ← look
  if (l1Find s core ctx va).isNone then pure ()
  else modCore (l1Core s core va) (fun c => { c with l1 := c.l1.filter (fun m => !(m.ctx = ctx && m.line = va / 32)) })

/-- A read performed at the home for a core drops the line that its L1 holds when the line differs, so that no later load of the core reads an older value (R190). (DEDUCED: log 28) -/
def l1Forget (core ctx va n x : Nat) : Act Unit := do
  match l1Find (← look) core ctx va with
  | none => pure ()
  | some l => if l.read va n = x % 256 ^ n then pure () else l1Drop core ctx va

/-- When one half of a 64-byte granule is filled into an L1, the other half goes if it is not what the home has now: the two halves that an L1 holds are of one age (R197). -/
def dropOlderHalf (core ctx v0 k0 : Nat) : Act Unit := do
  let s ← look
  let v := v0 / 64 * 64 + (32 - v0 % 64)
  match l1Find s core ctx v with
  | none => pure ()
  | some l => if l.bytes = BitVec.ofNat 256 (loadBytes s v (if v0 % 64 = 0 then k0 + 32 else k0 - 32) 32) then pure () else l1Drop core ctx v

/-- A read that an L1 may serve: plain loads, and reads that follow their row (R154). It gives the value, whether a line gave it, and the lines that the access has fetched so far, by the memory
keys of their first bytes, which are still to be filled. `exec` marks instruction fetch, and a local-window address names the store of tile `window`. A hit of a line that no fetch check has
covered is not used for a fetch (log 5). -/
def readLine (ctx core window va n : Nat) (exec : Bool) (fetched : List (Nat × L1Line)) : Act (Except Denied (Nat × Bool × List (Nat × L1Line))) := do
  if inWindow va then
    match ← readHome ctx (some window) va n { exec := exec } with
    | .error d => return .error d
    | .ok x => return .ok (x, true, fetched)
  else
    let s ← look
    match l1Find s core ctx va with
    | some l =>
      if !exec || l.x then return .ok (l.read va n, true, fetched)
    | none => pure ()
    match fetched.find? (fun f => f.2.line = va / 32) with
    | some f => return .ok (f.2.read va n, false, fetched)
    | none => pure ()
    if !canonical va then return .error .protection
    match ← translate ctx va with
    | .hole pa => stop (.fault (.noMemory pa))
    | .missing c => return .error (.pageFault c)
    | .leaf leaf =>
      if !permits leaf (some (clusterOfTile (tileOfCore core))) { exec := exec } then return .error .protection
      else
        let k ← placeOf ctx va leaf false
        let s ← look
        if loadSpoiled s va k n then return .error (.machineCheck (if exec then 3 else loadSource s va k n))
        else
          let v0 := va / 32 * 32
          let k0 := k - va % 32
          let line : L1Line := ⟨ctx, va / 32, BitVec.ofNat 256 (loadBytes s v0 k0 32), leaf.x, leaf.w, leaf.mt = 1, exec, leaf.va, leaf.size⟩
          let whole := leaf.mt = 2 || loadSpoiled s v0 k0 32 || (l1Find s core ctx va).isSome
          return .ok (loadBytes s va k n, false, if whole then fetched else (k0, line) :: fetched)

/-- Fills the lines that an access has fetched. -/
def fillLines (core : Nat) (fetched : List (Nat × L1Line)) : Act Unit := forEach fetched (fun f => do
  dropOlderHalf core f.2.ctx (f.2.line * 32) f.1
  l1Fill core (f.2.line * 32) f.2)

/-- One such read, and the fill of what it has fetched. -/
def readCached (ctx core va n : Nat) (exec : Bool) : Act (Except Denied (Nat × Bool)) := do
  match ← readLine ctx core (tileOfCore core) va n exec [] with
  | .error d => return .error d
  | .ok (x, hit, fetched) => do
    fillLines core fetched
    return .ok (x, hit)

/-- Reads ranges as plain loads, until one is refused: the values or the refusal, and what has been fetched. -/
def readLines (ctx core window : Nat) : List (Nat × L1Line) → List (Nat × Nat) → Act (Except (Nat × Denied) (List Nat) × List (Nat × L1Line))
  | fetched, [] => return (.ok [], fetched)
  | fetched, (va, n) :: rest => do
    match ← readLine ctx core window va n false fetched with
    | .error d => return (.error (va, d), fetched)
    | .ok (x, _, fetched) => do
      let (xs, fetched) ← readLines ctx core window fetched rest
      return (xs.map (x :: ·), fetched)

/-- The reads of one access, as plain loads. Its lines are filled when all has been read, so that no fill drops what is still to be read (R154, R197). -/
def readSpans (ctx core window : Nat) (spans : List (Nat × Nat)) : Act (Except (Nat × Denied) (List Nat)) := do
  let (xs, fetched) ← readLines ctx core window [] spans
  fillLines core fetched
  return xs

/-- The node cache of the tile of a core is discarded when the L1 of its core 3 is (R333). -/
def dropNodes (core : Nat) : Act Unit := do
  let t := (← look).tile (tileOfCore core)
  if core % 4 = 3 && !t.nodes.isEmpty then emit (.tile (tileOfCore core) { t with nodes := [] }) else pure ()

/-- Discards the lines of one core's L1 that an acquire discards: all but those that fetch filled from a page with X = 1 and W = 0 (R155). -/
def l1Flush (core : Nat) : Act Unit := do
  dropNodes core
  modCore core (fun c => if c.l1.isEmpty then c else { c with l1 := c.l1.filter (fun l => l.fetched && l.x && !l.w) })

/-- Discards every line of one core's L1. -/
def l1Clear (core : Nat) : Act Unit := do
  dropNodes core
  modCore core (fun c => { c with l1 := [] })

/-- The cores of a cluster. -/
def clusterCores (cl : Nat) : List Nat := (List.range 32).map (fun i => cl * 32 + i)

/-- A thread of a crew or flask is away from a cluster. -/
def someoneAway (s : State) (cl : Nat) (inUnit : Thread → Bool) : Bool :=
  s.threads.any (fun kt => inUnit kt.2 && clusterOfTile (tileOf kt.1) ≠ cl)
    || s.migrants.any (fun m => inUnit m.2.thread && clusterOfTile (tileOfCore m.2.target) ≠ cl)

/-- After a discard of a cluster's fused L1, the departed bits of crews and flasks with no member away are cleared (R157). -/
def clearDeparted (cl : Nat) : Act Unit := do
  let s ← look
  modCluster cl (fun x => { x with
    departedCrews := x.departedCrews.filter (fun n => someoneAway s cl (fun u => u.crew = n && !u.detached))
    departedFlasks := x.departedFlasks.filter (fun n => someoneAway s cl (fun u => u.flask = n && !u.detached)) })

/-- Discards what serves a core: its own L1, or the whole fused L1 of its cluster (R155, R157). -/
def discardAll (core : Nat) (each : Nat → Act Unit) : Act Unit := do
  let cl := clusterOfTile (tileOfCore core)
  if ((← look).cluster cl).fused then do
    forEach (clusterCores cl) each
    clearDeparted cl
  else each core

/-- What an acquire of a thread at a scope discards (R155, R157). -/
def discardFor (core : Nat) (t : Thread) (sc : Scope) : Act Unit := do
  let s ← look
  let cl := clusterOfTile (tileOfCore core)
  let c := s.cluster cl
  -- a member away from its unit's cluster is not served by what its peers have stored through that cluster's L1
  let away (n : Option Nat) : Bool := match n with | some x => x ≠ cl | none => false
  let any : Bool := match sc with
    | .thread => false
    | .crew => !c.fused || (!t.detached && (c.departedCrews.contains t.crew || away ((mapGet t.crew s.crews).map (fun x => clusterOfTile x.tile))))
    | .flask => !c.fused || (!t.detached && (c.departedFlasks.contains t.flask || away ((mapGet t.flask s.flasks).map (·.cluster))))
    | _ => true
  if any then discardAll core l1Flush else pure ()

/-- Discards the translations of a context that cover an address, or all of the context, with the copies and the L1 lines that were reached through them (R142, R155, R158). -/
def invalidate (ctx : Nat) (va : Option Nat) : Act Unit := do
  let s ← look
  let hit (t : Translation) : Bool := match va with | some a => t.leaf.covers ctx a | none => t.leaf.ctx = ctx
  let gone := (s.tlb.flatMap (fun c => c.2.first ++ c.2.last)).filter hit |>.map (·.leaf)
  forEach s.tlb (fun c =>
    if (c.2.first ++ c.2.last).any hit then emit (.tlb c.1 { first := c.2.first.filter (fun t => !hit t), last := c.2.last.filter (fun t => !hit t) }) else pure ())
  dropHolders ctx va gone
  forEach (s.cores.map (·.1)) (fun c => do
    let lines := ((← look).core c).l1
    let stay := lines.filter (fun l => !(l.ctx = ctx && (match va with
      | none => true
      | some a => decide (l.page ≤ a) && decide (a < l.page + l.pageSize) || gone.any (fun g => g.covers ctx (l.line * 32)))))
    if stay.length = lines.length then pure () else modCore c (fun x => { x with l1 := stay }))

/-! ### Acquires that complete later (R394) -/

/-- The weaker of two acquires is part of the stronger (R184). -/
def Scope.rank : Scope → Nat
  | .thread => 0
  | .crew => 1
  | .flask => 2
  | .device => 3
  | .system => 4

/-- The scope that a thread owes a discard for, with another acquire. -/
def stronger (a : Option Scope) (b : Scope) : Option Scope :=
  match a with
  | none => some b
  | some x => if x.rank < b.rank then some b else some x

end Sys2Proof.Machine
end

