-- ==== Sys2Proof/Machine/Regs.lean ====
section
/-!
DEFINITION. The registers of a thread and the operations it has in flight: scalar, predicate and vector access (R71, R72, R113), sets of registers and what they touch
(R23-R28, R73), completions and their writebacks, and the images of a spilled thread's registers in its save area (R297-R299).
-/

namespace Sys2Proof.Machine

/-! ### Clocks (R10, R275) -/

/-- Cycle count of a tile's cores, modulo 2^64: the pinned reference, and what the tile's own clock has run ahead of it (R275, R281). (DESIGN CHOICE: log 11) -/
def coreCycle (s : State) (tile : Nat) : Nat := (s.cycle + (s.tile tile).ahead.toNat) % 2 ^ 64

/-- Cycles from one count to another, modulo 2^64: 0 where the second lies behind, on a tile whose clock has fallen back against the reference since. -/
def cyclesFrom (since now : Nat) : Nat :=
  let d := (now + (2 ^ 64 - since % 2 ^ 64)) % 2 ^ 64
  if d < 2 ^ 63 then d else 0

/-! ### Registers -/

/-- s[i]; s0 reads as zero (R71). -/
def Thread.readS (t : Thread) (i : BitVec 4) : Word := if i = 0 then 0 else t.s[i.toNat]'i.isLt

/-- Writes s[i]; a write to s0 is discarded (R71). -/
def Thread.writeS (t : Thread) (i : BitVec 4) (x : Word) : Thread :=
  if i = 0 then t else { t with s := t.s.set i.toNat x i.isLt }

/-- p[i]; p0 reads as true (R72). -/
def Thread.readP (t : Thread) (i : BitVec 4) : Bool := i == 0 || t.p.getLsbD i.toNat

/-- A word with one bit replaced. -/
def setBit {w : Nat} (x : BitVec w) (i : Nat) (b : Bool) : BitVec w :=
  let m : BitVec w := BitVec.twoPow w i
  if b then x ||| m else x &&& ~~~m

/-- Writes p[i]; p0 keeps reading true (R72). -/
def Thread.writeP (t : Thread) (i : BitVec 4) (b : Bool) : Thread :=
  if i = 0 then t else { t with p := setBit t.p i.toNat b }

/-- The predicate word P, with p0 as 1 (R75). -/
def Thread.predWord (t : Thread) : BitVec 16 := t.p ||| 1

/-- Replaces P; p0 stays true (R75). -/
def Thread.setPredWord (t : Thread) (x : BitVec 16) : Thread := { t with p := x ||| 1 }

/-- e[i] (R32). -/
def Thread.readE (t : Thread) (i : BitVec 3) : Word := t.e[i.toNat]'i.isLt

/-- Writes e[i] (R32). -/
def Thread.writeE (t : Thread) (i : BitVec 3) (x : Word) : Thread := { t with e := t.e.set i.toNat x i.isLt }

/-- v[i] by the low three bits of a field (R113). -/
def Thread.readV (t : Thread) (i : BitVec 4) : Quad := t.v[i.toNat % 8]'(Nat.mod_lt _ (by decide))

/-- Writes v[i] (R113). -/
def Thread.writeV (t : Thread) (i : BitVec 4) (x : Quad) : Thread :=
  { t with v := t.v.set (i.toNat % 8) x (Nat.mod_lt _ (by decide)) }

/-- w[i] of a tile's long-vector unit (R113). -/
def Tile.readW (t : Tile) (i : BitVec 4) : LongVec := t.w[i.toNat]'i.isLt

/-- Writes w[i] (R113). -/
def Tile.writeW (t : Tile) (i : BitVec 4) (x : LongVec) : Tile := { t with w := t.w.set i.toNat x i.isLt }

/-- ORs flags into FLAGS (R94). -/
def Thread.orFlags (t : Thread) (f : BitVec 5) : Thread := { t with flags := t.flags ||| f }

/-! ### Sets of registers -/

/-- The set of one scalar; s0 is never waited for, since no instruction writes it (R71). -/
def touchS (i : BitVec 4) : Touch := { s := if i = 0 then 0 else BitVec.twoPow 16 i.toNat }
/-- The set of one predicate (R72). -/
def touchP (i : BitVec 4) : Touch := { p := if i = 0 then 0 else BitVec.twoPow 16 i.toNat }
/-- The set of one short vector. -/
def touchV (i : BitVec 4) : Touch := { v := BitVec.twoPow 16 (i.toNat % 8) }
/-- The set of one long vector. -/
def touchW (i : BitVec 4) : Touch := { w := BitVec.twoPow 16 i.toNat }
/-- FLAGS (R76). -/
def touchFlags : Touch := { flags := true }
/-- The thread's coefficient memory (R126). -/
def touchCoef : Touch := { coef := true }

/-- Union. -/
def Touch.union (x y : Touch) : Touch :=
  ⟨x.s ||| y.s, x.p ||| y.p, x.v ||| y.v, x.w ||| y.w, x.flags || y.flags, x.coef || y.coef⟩

/-- Two sets share a register. -/
def Touch.meets (x y : Touch) : Bool :=
  x.s &&& y.s != 0 || x.p &&& y.p != 0 || x.v &&& y.v != 0 || x.w &&& y.w != 0 || (x.flags && y.flags) || (x.coef && y.coef)

/-- Union of a list. -/
def touches (l : List Touch) : Touch := l.foldl Touch.union {}

/-- Everything that an incomplete operation of a thread will still write (R73). -/
def Thread.pending (t : Thread) : Touch := touches (t.ops.map (·.dest))

/-- The first open window whose destinations a set touches (R25). -/
def Thread.violated (t : Thread) (x : Touch) : Option Window := t.windows.find? (fun w => decide (0 < w.left) && w.dest.meets x)

/-- An operation has not completed. -/
def Thread.incomplete (t : Thread) (op : Nat) : Bool := t.ops.any (fun o => o.id = op && !o.token)

/-- A window has had its last member and its operation has not completed, so the thread is out of rotation (R24). -/
def Thread.blocked (t : Thread) : Bool := t.windows.any (fun w => w.left = 0 && t.incomplete w.op)

/-- Windows after one more instruction has issued, and every operation with a later instruction issued (R23). A window whose last member has issued stays only while its operation is
incomplete, when it keeps the thread out of rotation (R24). -/
def Thread.ticked (t : Thread) : Thread :=
  { t with
    windows := t.windows.map (fun w => { w with left := w.left - 1 }) |>.filter (fun w => decide (0 < w.left) || t.incomplete w.op)
    ops := t.ops.map (fun o => { o with later := true }) }

/-- The windows of a thread whose instruction issued but waits, and will issue again: it counts once (R23). -/
def Thread.unticked (t : Thread) : Thread := { t with windows := t.windows.map (fun w => { w with left := w.left + 1 }) }

/-- The PC moved past an instruction of `len` bytes that issued in a cycle (R14). -/
def Thread.advance (t : Thread) (len : Nat) (cycle : Nat) : Thread :=
  { t.setPc (t.pc + BitVec.ofNat 64 len) with lastIssue := cycle, waitSince := none }

/-! ### The save area (R295-R299) -/

/-- Where the save area of a slot lies, if SABASE is placed (R295). -/
def saveArea (s : State) (k : Nat) : Option Nat :=
  (s.die (dieOf k)).saveAreas.map (fun base => base + 512 * (16 * (coreOf k % 2048) + slotOf k))

/-- Writes a field of a slot's save area. -/
def pokeSave (k off n x : Nat) : Act Unit := do
  match saveArea (← look) k with
  | none => pure ()
  | some a => pokePhysical (hbmKey (a + off)) n x

/-- Reads a field of a slot's save area. -/
def peekSave (s : State) (k off n : Nat) : Nat :=
  match saveArea s k with
  | none => 0
  | some a => peek s.mem (hbmKey (a + off)) n

/-- Reads a field of a slot's save area; a word in error is reported (R304). -/
def readSave (k off n : Nat) : Act Nat := do
  let s ← look
  match saveArea s k with
  | some a => reportErrors (a + off) n
  | none => pure ()
  return peekSave s k off n

/-- Clears or sets bits of a save-area field, whose word is read for it; one in error is reported, and replaced with what was made of it (R304). -/
def maskSave (k off n : Nat) (clear set : Nat) : Act Unit := do
  let x := BitVec.ofNat 64 (← readSave k off n)
  pokeSave k off n ((x &&& ~~~(BitVec.ofNat 64 clear)) ||| BitVec.ofNat 64 set).toNat

/-- Writes the image of one register in a spilled thread's save area (R299). -/
def saveWrite (k : Nat) : RegWrite → Act Unit
  | .s i x => if i = 0 then pure () else pokeSave k (8 * i.toNat) 8 x.toNat
  | .p i b => if i = 0 then pure () else maskSave k 448 8 (2 ^ i.toNat) (if b then 2 ^ i.toNat else 0)
  | .v i x => pokeSave k (128 + 32 * (i.toNat % 8)) 32 x.toNat
  | .w i x => modTile (tileOf k) (fun t => t.writeW i x)
  | .flags f => maskSave k 456 8 0 f.toNat

/-- Clears the pending bits of what a completed operation of a spilled thread was to write and no other operation will (R298, R299). -/
def clearPending (k : Nat) (dest rest : Touch) : Act Unit := do
  maskSave k 448 8 ((dest.s &&& ~~~rest.s).toNat * 2 ^ 32 + (dest.p &&& ~~~rest.p).toNat * 2 ^ 48) 0
  maskSave k 456 8 ((dest.v &&& ~~~rest.v).toNat % 256 * 2 ^ 16 + (if dest.coef && !rest.coef then 2 ^ 24 else 0) + (if dest.flags && !rest.flags then 2 ^ 5 else 0)) 0

/-- Writes one register of a thread in its slot. -/
def slotWrite (k : Nat) : RegWrite → Act Unit
  | .s i x => modThread k (fun t => t.writeS i x)
  | .p i b => modThread k (fun t => t.writeP i b)
  | .v i x => modThread k (fun t => t.writeV i x)
  | .w i x => modTile (tileOf k) (fun t => t.writeW i x)
  | .flags f => modThread k (fun t => t.orFlags f)

/-- Delivers a register write to a thread, or to its save area when it is SPILLED (R299). -/
def deliver (k : Nat) (w : RegWrite) : Act Unit := do
  match (← look).thread? k with
  | some t => if t.status = .spilled then saveWrite k w else slotWrite k w
  | none => pure ()

/-! ### Operations in flight -/

/-- Marks an operation of a thread finished: its writeback is due (R23). -/
def finish (k op : Nat) (r : Result) : Act Unit :=
  modThread k (fun t => { t with ops := t.ops.map (fun o => if o.id = op then { o with result := some r } else o) })

/-- A trap that names an operation of a thread (R145, R171, R172): precise when the rule calls it so, else deferred. -/
def opTrap (o : PendOp) (cause : Cause) (addr info : Nat) (precise : Bool) : TrapReq where
  cause := cause
  epc := o.pc
  resume := if precise then some o.pc else none
  addr := BitVec.ofNat 64 addr
  info := BitVec.ofNat 64 info
  deferred := !precise
  insn := o.insn
  wide := o.wide
  held := false

/-- Ends an operation with a trap (R145). An `exact` trap turns out precise or deferred when it falls due (R171). -/
def finishTrap (k op : Nat) (cause : Cause) (addr info : Nat) (precise : PendOp → Bool) (exact : Bool := false) : Act Unit := do
  match (← look).thread? k with
  | none => pure ()
  | some t =>
    match t.ops.find? (·.id = op) with
    | none => pure ()
    | some o => finish k op { trap := some (opTrap o cause addr info (precise o)), exact := exact }

/-- A deferred trap (R145). -/
def deferredTrap (k op : Nat) (cause : Cause) (addr : Nat) (info : Nat := 0) : Act Unit :=
  finishTrap k op cause addr info (fun _ => false)

/-- The wait of a thread's next instruction, and the count at which it began: a wait of another kind than the one before begins now (R172, R360). -/
def Thread.waitFrom (t : Thread) (w : Status) (now : Nat) : Status × Nat :=
  match t.waitSince with
  | some (v, c) => if v = w then (v, c) else (w, now)
  | none => (w, now)

/-- Sets TIMING.BROKEN in a thread of a fixed-timing context (R277). -/
def breakTiming (k : Nat) : Act Unit := do
  match (← look).thread? k with
  | some t => if t.fixed then modThread k (fun t => { t with broken := true }) else pure ()
  | none => pure ()

/-- Wakes a WAITING thread so that it tries its instruction again; `YIELD`, `QUIT` and trap entry wait for their own ends. -/
def rouse (k : Nat) : Act Unit := do
  match (← look).thread? k with
  | some t =>
    match t.status with
    | .waiting .yield => pure ()
    | .waiting .quit => pure ()
    | .waiting .trapEntry => pure ()
    | .waiting _ => modThread k (fun t => { t with status := .active })
    | _ => pure ()
  | none => pure ()

/-- The trap that an ended operation raises as it falls due: an exact one is precise when no later instruction of the thread has issued (R171). -/
def dueTrap (o : PendOp) (r : Result) : Option TrapReq :=
  r.trap.map (fun x => if r.exact && !o.later then { x with deferred := false, resume := some o.pc } else x)

/-- The writeback of a finished operation: its registers are written, its windows close, its trap falls due unless the thread has quit, and a waiting thread is ready again
(R23, R24, R145, R222). -/
def writeback (k op : Nat) (o : PendOp) (r : Result) : Act Unit := do
  forEach r.writes (deliver k)
  let s ← look
  match s.thread? k with
  | none => pure ()
  | some t =>
    let ops := t.ops.filter (·.id ≠ op)
    let windows := if t.fixed then t.windows.filter (fun w => w.op ≠ op || decide (0 < w.left)) else t.windows.filter (·.op ≠ op)
    let due := match dueTrap o r with
      | some x => if t.status = .waiting .quit then t.due else assocPut op x t.due
      | none => t.due
    emit (.thread k (some { t with ops := ops, windows := windows, due := due }))
    match r.acquire with
    | some sc => discardFor (coreOf k) t sc
    | none => pure ()
    if t.status = .spilled then clearPending k o.dest (touches (ops.map (·.dest))) else pure ()
    rouse k

end Sys2Proof.Machine
end

