-- ==== Sys2Proof/Machine/Home.lean ====
section
/-!
DEFINITION. The homes of words: lists, reservations, the parking area, refusals, page faults and the fault ring, and the arrival of memory requests
(R144-R153, R164-R174, R177).
-/

namespace Sys2Proof.Machine

/-! ### The parking area (R168-R171) -/

/-- An entry of a die's parking area is in use, by the allocation map (R169). -/
def parkingUsed (s : State) (base i : Nat) : Bool := (Memory.read s.mem (hbmKey (base + i / 8))).getLsbD (i % 8)

/-- `n` entries from `i` on are free. -/
def parkingFree (s : State) (base total n i : Nat) : Bool :=
  decide (i + n ≤ total) && decide (total / 128 ≤ i) && (List.range n).all (fun j => !parkingUsed s base (i + j))

/-- The first free run at or after `i`, with wrap. -/
def parkingSearch (s : State) (base total n : Nat) : Nat → Nat → Option Nat
  | 0, _ => none
  | fuel + 1, i =>
    if parkingFree s base total n (i % total) then some (i % total) else parkingSearch s base total n fuel (i + 1)

/-- Marks entries used or free in the map; a byte of it that holds an uncorrectable error is reported as it is read (R304). -/
def parkingMark (base i n : Nat) (used : Bool) : Act Unit :=
  forEach (List.range n) (fun j => do
    reportErrors (base + (i + j) / 8) 1
    let a := hbmKey (base + (i + j) / 8)
    let b := Memory.read (← look).mem a
    pokePhysical a 1 (setBit b ((i + j) % 8) used).toNat)

/-- Takes a free run of entries of a die's parking area (the choice is log 7), or none. (DESIGN CHOICE: log 7) -/
def parkingTake (die n : Nat) : Act (Option Nat) := do
  let s ← look
  match (s.die die).parking with
  | none => return none
  | some (base, total) =>
    let f ← freshFree
    match parkingSearch s base total n total (Config.pickParkingEntry f) with
    | none => return none
    | some i =>
      parkingMark base i n true
      return some i

/-- Frees entries of a die's parking area. -/
def parkingRelease (die i n : Nat) : Act Unit := do
  match ((← look).die die).parking with
  | none => pure ()
  | some (base, _) => parkingMark base i n false

/-- Writes bytes into parking entries. -/
def parkingPoke (die i n x : Nat) : Act Unit := do
  match ((← look).die die).parking with
  | none => pure ()
  | some (base, _) => pokePhysical (hbmKey (base + 16 * i)) n x

/-! ### Requests -/

/-- The first address of a request. -/
def Req.va (r : Req) : Nat := (r.spans.head?.map (·.1)).getD 0

/-- The tile on which a request's local-window accesses are performed. -/
def Req.tile (r : Req) : Nat := tileOfCore r.core

/-- The count by which a request's cycles are counted: that of its core's tile, and the reference for a hardware queue slot, which lies on no tile (R10). (DESIGN CHOICE: log 11) -/
def Req.clock (s : State) (r : Req) : Nat :=
  match r.who with
  | .queue _ _ => s.cycle % 2 ^ 64
  | _ => coreCycle s r.tile

/-- The home of a request's word: its slice, or 1024 + tile for a local store. -/
def Req.slice (r : Req) : Nat := if inWindow r.va then 1024 + r.tile else homeHash r.va

/-- The key of its word's home. -/
def Req.homeKey (r : Req) : Nat := Machine.homeKey r.ctx r.tile r.va

/-- The die whose parking area serves a home (R168, R169). -/
def Req.homeDie (r : Req) : Nat := if inWindow r.va then dieOfTile r.tile else Machine.homeDie r.va

/-- Byte ranges cut at 8-byte words, lowest address first within each. -/
def pieces (spans : List (Nat × Nat)) : List (Nat × Nat) :=
  spans.flatMap (fun s => if s.2 ≤ 8 then [s] else (List.range ((s.2 + 7) / 8)).map (fun i => (s.1 + 8 * i, min 8 (s.2 - 8 * i))))

/-- The accesses that a request makes now: its words or lanes, and of a request that has found further addresses in what it read first, those. -/
def Req.reads (r : Req) : List (Nat × Nat) :=
  match r.ask, r.stage with
  | .scene _ _ _, .half _ => r.spans.drop 1
  | .texture _ _, .half _ => r.spans.drop 1
  | _, _ => pieces r.spans

/-- Those among accesses that none of the performed ones is, each with its index. -/
def unperformed (parts : List Part) (l : List (Nat × Nat)) : List ((Nat × Nat) × Nat) := l.zipIdx.filter (fun p => !parts.any (·.index = p.2))

/-- The byte ranges that a request still has to access. -/
def Req.left (r : Req) : List (Nat × Nat) := if r.parts.isEmpty then r.spans else (unperformed r.parts r.reads).map (·.1)

/-- Two requests touch a common word (R153). -/
def spansMeet (a b : List (Nat × Nat)) : Bool :=
  a.any (fun x => b.any (fun y => decide (wordOf x.1 < y.1 + y.2) && decide (wordOf y.1 < x.1 + x.2)))

/-- Hardware list entries of a home (R168). -/
def homeEntries (slice : Nat) : Nat := if 1024 ≤ slice then Config.storeEntries else Config.sliceEntries

/-- Requests on lists of a home. -/
def listedAt (s : State) (slice : Nat) (parked : Bool) : List Req :=
  (s.reqs.map (·.2)).filter (fun r => r.slice = slice && (match r.stage with | .listed e => e.isSome == parked | _ => false))

/-- The TYPE of a parked waiter (R170). (DEDUCED: log 59) -/
def parkType : Ask → Nat
  | .fullEmpty .ldw => 1
  | .fullEmpty .ldc => 2
  | .fullEmpty .stf => 3
  | .notify _ => 2
  | _ => 4

/-- Parking entries that a waiter takes (R170). -/
def parkSize (a : Ask) : Nat := if parkType a = 3 then 2 else 1

/-- The conversion command whose update of its amax word a request is (R240). -/
def updating (s : State) (tile op : Nat) : Option EngineCmd := (s.tile tile).convQ.find? (·.op = op)

/-- Changes it. -/
def modUpdating (tile op : Nat) (f : EngineCmd → EngineCmd) : Act Unit :=
  modTile tile (fun t => { t with convQ := t.convQ.map (fun c => if c.op = op then f c else c) })

/-- The TID of a request's thread, which for an engine's update is the issuer of its command, and 0 for the `LDC` of a hardware queue slot, which has none (R170). (DESIGN CHOICE: log 91) -/
def reqTid (s : State) (r : Req) : Nat :=
  let tid (k : Nat) : Nat := ((s.thread? k).map (tidOf k)).getD k
  match r.who with
  | .thread k => tid k
  | .engine tile op => ((updating s tile op).map (fun c => tid c.key)).getD 0
  | _ => 0

/-- The bytes of a parked waiter (R170). -/
def parkBytes (s : State) (r : Req) : Nat :=
  let ls := inWindow r.va
  let addr := if ls then r.tile * 2 ^ 37 + wordOf (r.va - windowBase) else wordOf r.va
  let tid := reqTid s r
  let w0 := parkType r.ask * 2 ^ 60 + (if ls then 2 ^ 59 else 0) + r.form * 2 ^ 56 + addr
  let w1 := r.arrived % 2 ^ 16 * 2 ^ 48 + r.d.toNat * 2 ^ 44 + r.ctx * 2 ^ 32 + tid
  w0 + w1 * 2 ^ 64 + (if parkType r.ask = 3 then 5 * 2 ^ 60 * 2 ^ 128 + (r.data % 2 ^ 64) * 2 ^ 192 else 0)

/-- The oldest of some requests, by arrival. -/
def oldest (l : List Req) : Option Req :=
  l.foldl (fun b x => match b with
    | none => some x
    | some y => if x.arrived < y.arrived then some x else b) none

/-- While a home has a hardware entry free, its oldest parked waiter returns to it (R168). -/
def unpark (r : Req) : Act Unit := do
  let s ← look
  if (listedAt s r.slice false).length < homeEntries r.slice then
    match oldest (listedAt s r.slice true) with
    | none => pure ()
    | some w =>
      match w.stage with
      | .listed (some i) => do
        parkingRelease w.homeDie i (parkSize w.ask)
        modReq w.id (fun q => { q with stage := .listed none })
      | _ => pure ()
  else pure ()

/-- Takes a request off its word's list, freeing the entry that holds it now, which goes to the oldest parked waiter (R168). -/
def unlist (r : Req) : Act Unit := do
  let s ← look
  let h := s.home r.homeKey
  putHome r.homeKey { h with list := h.list.filter (· ≠ r.id) }
  let stage := ((mapGet r.id s.reqs).getD r).stage
  modReq r.id (fun q => { q with stage := .sent })
  match stage with
  | .listed none => unpark r
  | .listed (some i) => parkingRelease r.homeDie i (parkSize r.ask)
  | _ => pure ()

/-- The next arrival number of a home (R170). -/
def nextArrival (slice : Nat) : Act Nat := do
  let n := (mapGet slice (← look).arrivals).getD 0
  emit (.arrival slice (n + 1))
  return n

/-- A fill has been performed, or reported as failed: an entry of COUNT 0 that waited for it alone is freed (R259, R263). -/
def fillEnded (id : Nat) : Act Unit := do
  forEach ((← look).jobs.filter (fun j => j.2.filling.contains id)) (fun j => do
    let left := j.2.filling.filter (· ≠ id)
    emit (.job j.1 (if left.isEmpty && j.2.count = 0 then none else some { j.2 with filling := left })))

/-- A request has been performed: it is no longer outstanding; an acquire discards L1 lines (R155, R187). -/
def performed (r : Req) : Act Unit := do
  emit (.req r.id none)
  match r.who with
  | .queue _ _ => pure ()
  | .engine _ _ => pure ()
  | .gone => fillEnded r.id
  | .thread k =>
    match (← look).thread? k with
    | none => pure ()
    | some t =>
      if r.acq then discardFor r.core t r.scope else pure ()
      rouse k

/-- Completes a request with register writes (R164). -/
def complete (r : Req) (ws : List RegWrite) : Act Unit := do
  performed r
  match r.who with
  | .thread k => finish k r.op { writes := ws }
  | _ => pure ()

/-- Ends a request with a trap of its thread (R145). -/
def fail (r : Req) (cause : Cause) (addr info : Nat) (precise : PendOp → Bool) (exact : Bool := false) : Act Unit := do
  performed { r with acq := false }
  match r.who with
  | .thread k => finishTrap k r.op cause addr info precise exact
  | _ => pure ()

/-- RETRYLIM bounds the resends of an instruction's requests, not those of a hardware queue slot or of an engine's update (R171). (DESIGN CHOICE: log 85) -/
def Issuer.limited : Issuer → Bool
  | .queue _ _ => false
  | .engine _ _ => false
  | _ => true

/-- Refuses a request: it is sent again 32 cycles later, or raises PARK_EXHAUSTED after RETRYLIM resends (R171). -/
def refuse (r : Req) (addr : Nat) : Act Unit := do
  let s ← look
  if r.who.limited && decide (r.retrylim ≤ r.resends) then fail r .parkExhausted addr r.resends (fun _ => false) (exact := true)
  else modReq r.id (fun q => { q with stage := .refused (r.clock s) })

/-- The memory key that the translation an access has just used gives, as the first level of its home slice keeps it (R141). -/
def keyUsed (s : State) (ctx window va : Nat) : Nat :=
  if inWindow va then localKey window (va - windowBase)
  else match (s.slice (homeHash va)).first.find? (·.serves ctx va) with
    | some t => t.leaf.key va
    | none => 0

/-- The page whose translation a request has just used, as the first level of its home slice keeps it: its first address and size (R141, R159). -/
def pageUsed (s : State) (ctx va : Nat) (before : Nat × Nat) : Nat × Nat :=
  if inWindow va then (0, 0)
  else match (s.slice (homeHash va)).first.find? (·.serves ctx va) with
    | some t => (t.leaf.va, t.leaf.size)
    | none => before
def Req.usedPage (s : State) (r : Req) : Nat × Nat :=
  match r.stage with
  -- an ordered atomic goes on from the buffer by the translation that took it there
  | .buffered _ _ => r.page
  | _ => pageUsed s r.ctx r.va r.page

/-- Ordered atomics (R177). -/
def AmoOp.ordered : AmoOp → Bool
  | .ordAdd => true
  | .ordFadd => true
  | _ => false
def Ask.isOrdered : Ask → Bool
  | .atomic op => op.ordered
  | _ => false

/-- Puts a request on its word's list, in arrival order (R164, R166, R168), or refuses it (R171). An ordered atomic comes to a list only when its number is NEXT, and is never refused: with every
entry taken it waits there all the same (R177). (DEDUCED: log 15) -/
def enlist (r : Req) : Act Unit := do
  let s ← look
  let n ← nextArrival r.slice
  let h := s.home r.homeKey
  let add (e : Option Nat) : Act Unit := do
    putHome r.homeKey { h with list := h.list ++ [r.id] }
    modReq r.id (fun q => { q with stage := .listed e, arrived := n, page := r.usedPage s })
  if (listedAt s r.slice false).length < homeEntries r.slice then add none
  else
    match ← parkingTake r.homeDie (parkSize r.ask) with
    | some i => do
      add (some i)
      parkingPoke r.homeDie i (16 * parkSize r.ask) (parkBytes s { r with arrived := n })
    | none => if r.ask.isOrdered then add none else refuse r r.va

/-! ### Settling (R167, R174) -/

/-- Serves a waiting load with the word's data; a line of its core's L1 that differs goes (R190). -/
def serve (r : Req) (old : Nat) : Act Unit := do
  unlist r
  if inWindow r.va then pure () else l1Forget r.core r.ctx (wordOf r.va) 8 old
  match r.who with
  | .thread _ => complete r [.s r.d (BitVec.ofNat 64 old)]
  | .gone => complete r []
  | .engine _ _ => complete r []
  | .queue die slot => do
    performed r
    modSlot die slot (fun q => { q with windex := some (old % 2 ^ 32) })

/-- The key of the reservation of a request's word at a memory key (R174). -/
def Req.holdKey (r : Req) (w : Nat) : Nat := Machine.holdKey r.va w

/-- A take: reserves the word and forwards its value (R174). -/
def take (r : Req) (w old : Nat) : Act Unit := do
  let s ← look
  putHold (r.holdKey w) { s.hold (r.holdKey w) with resv := some r.id }
  modReq r.id (fun q => { q with stage := .taken (BitVec.ofNat 64 old) (r.holdKey w), page := r.usedPage s })

/-- A waiting load that leaves the word FULL, one that empties it, an atomic, a filling store (R167). -/
def Ask.isLdw : Ask → Bool
  | .fullEmpty .ldw => true
  | _ => false
def Ask.isConsumer : Ask → Bool
  | .fullEmpty .ldc => true
  | .notify _ => true
  | .atomic _ => true
  | _ => false
def Ask.isAtomic : Ask → Bool
  | .atomic _ => true
  | _ => false
def Ask.isStf : Ask → Bool
  | .fullEmpty .stf => true
  | _ => false

/-- Writes the word of a filling store and updates the L1 line that its core holds (R154). -/
def fillWord (r : Req) (w : Nat) : Act Unit := do
  poke w 8 (r.data % 2 ^ 64)
  if inWindow r.va then pure () else l1Update r.core r.ctx r.va 8 (r.data % 2 ^ 64)

/-- The waiters on a home's list, in arrival order. -/
def waiters (s : State) (hk : Nat) : List Req := (s.home hk).list.filterMap (fun i => mapGet i s.reqs)

/-- NEXT and VAL of an ordered word (R177). -/
def orderedNext (x : Nat) : Nat := x / 2 ^ 32 % 2 ^ 32

/-- The key of the reservation of the word that a home's list is kept for, at memory key `w`. -/
def listHold (hk w : Nat) : Nat := if 2 ^ 70 ≤ hk then w else holdKey (hk % 2 ^ 56) w

/-- That word is reserved. -/
def reservedFor (s : State) (hk w : Nat) : Bool := reserved s (listHold hk w)

/-- The waiters of a list are to be served once the reservation of their word ends. -/
def oweList (hk w : Nat) : Act Unit := do
  let h := (← look).hold (listHold hk w)
  if h.owed.contains hk then pure () else putHold (listHold hk w) { h with owed := h.owed ++ [hk] }

/-- An atomic on a list may be taken now: an ordered one only when its number is the word's NEXT (R177). -/
def Req.takeable (r : Req) (old : Nat) : Bool :=
  match r.ask with
  | .atomic op => !op.ordered || r.seq = orderedNext old
  | _ => true

/-- R167's loop over the waiters of the word at memory key `w`; every round but the last serves a waiter. Waiters that meet a reservation are served after its put. -/
def settleLoop (hk w : Nat) : Nat → Act Unit
  | 0 => pure ()
  | fuel + 1 => do
    let s ← look
    let ws := waiters s hk
    if reservedFor s hk w then if ws.isEmpty then pure () else oweList hk w
    else if !isEmptyWord s w then do
      let old := peek s.mem w 8
      forEach (ws.filter (·.ask.isLdw)) (fun r => serve r old)
      match ws.find? (fun r => r.ask.isConsumer && r.takeable old) with
      | none => pure ()
      | some r =>
        if r.ask.isAtomic then do unlist r; take r w old
        else do serve r old; emit (.empty w true); settleLoop hk w fuel
    else
      match ws.find? (·.ask.isStf) with
      | none => pure ()
      | some r => do
        unlist r
        fillWord r w
        emit (.empty w false)
        complete r []
        settleLoop hk w fuel

/-- The home serves waiters after a change of state (R167). -/
def settle (hk w : Nat) : Act Unit := do
  settleLoop hk w (2 * ((← look).home hk).list.length + 2)

/-- Every home that has waiters, whose address leads to the word at a physical key now, and which serves it from there: a write by physical address settles these (R147). -/
def homesOf (s : State) (w : Nat) : List Nat :=
  (s.homes.filter (fun h => decide (h.1 < 2 ^ 70))).filterMap (fun h =>
    let ctx := h.1 / 2 ^ 56
    let va := h.1 % 2 ^ 56
    match walk s ctx va with
    | .leaf l => if l.key va = w && locate s (holdKey va w) = w then some h.1 else none
    | _ => none)

/-- The keys of `n / 8` words from a key on. -/
def pieceWords (a n : Nat) : List Nat := (List.range (n / 8)).map (fun i => a + 8 * i)

/-- Some home holds the word at a physical key reserved (R174). -/
def reservedPhysical (s : State) (w : Nat) : Bool := s.holds.any (fun h => h.2.resv.isSome && !onTile h.1 && h.1 % 2 ^ 58 = w)

/-- A write of a word by physical address that makes it FULL, as after `STFF` (R147, R164). -/
def fillPhysical (w x : Nat) : Act Unit := do
  pokePhysical w 8 x
  fullPhysical w
  forEach (homesOf (← look) w) (fun h => settle h w)

/-! ### The fault ring (R146, R147) -/

/-- The CONS count that software has written (R147). -/
def ringCons (s : State) (base : Nat) : Nat := peek s.mem (hbmKey (base + 32768 + 8)) 4

/-- Writes owed entries into a die's ring while it has room and an atomic holds neither the PROD word nor a word of the entry reserved, for whose put a store or fill waits (R147, R167). -/
def pumpLoop (die : Nat) : Nat → Act Unit
  | 0 => pure ()
  | fuel + 1 => do
    let s ← look
    let d := s.die die
    match d.ring, d.owed with
    | some base, e :: rest =>
      reportErrors (base + 32768 + 8) 4
      let cons := ringCons s base
      let at_ := hbmKey (base + 32 * (d.prod % 1024))
      if (d.prod + 2 ^ 32 - cons) % 2 ^ 32 < 1024 && !(hbmKey (base + 32768) :: pieceWords at_ 32).any (reservedPhysical s) then do
        pokePhysical at_ 32 e.bytes
        if d.prod = cons then do
          emit (.send (.msix die))
          if d.noticeAsked then emit (.send (.portNotice die)) else pure ()
        else pure ()
        let p := (d.prod + 1) % 2 ^ 32
        modDie die (fun x => { x with prod := p, owed := rest })
        fillPhysical (hbmKey (base + 32768)) p
        pumpLoop die fuel
      else pure ()
    | _, _ => pure ()

/-- Writes as many owed entries as the ring takes. -/
def pumpRing (die : Nat) : Act Unit := do
  pumpLoop die (((← look).die die).owed.length + 1)

/-- Adds an entry for a die's ring. -/
def owe (die bytes : Nat) : Act Unit := do
  modDie die (fun d => { d with owed := d.owed ++ [⟨die, bytes⟩] })
  pumpRing die

/-- The 32 bytes of a fault record or notice (R146, R294). -/
def recordBytes (va tid kind cause ctx : Nat) (pc : Nat) : Nat :=
  va + tid % 2 ^ 26 * 2 ^ 64 + kind * 2 ^ 96 + cause * 2 ^ 104 + ctx % 2 ^ 12 * 2 ^ 112 + pc * 2 ^ 128

/-- The die that reports the page fault of an address: that of its home slice. -/
def faultDie (va : Nat) : Nat := homeDie va

/-- Adds a pending page fault and its record (R146). -/
def addFault (f : PageFault) : Act Unit := do
  emit (.faults ((← look).faults ++ [f]))
  owe f.die (recordBytes f.va f.tid f.kind f.cause f.ctx f.pc.toNat)

/-- A thread waits on a page fault: it is PARKED, unless it is leaving, quitting, parked already or in its `YIELD`, after which it is (R146). The save area of a spilled one shows PFWAIT
(R298), so that its restore parks it (log 70). In a fixed-timing context TIMING.BROKEN is set (R148). WAITLIM stops counting (R146). (DEDUCED: log 70) -/
def parkOnFault (k : Nat) : Act Unit := do
  breakTiming k
  let now := coreCycle (← look) (tileOf k)
  modThread k (fun t => { t with faultSince := some (t.faultSince.getD now) })
  match (← look).thread? k with
  | none => pure ()
  | some t =>
    match t.status with
    | .active => emit (.thread k (some { t with status := .parked .fault }))
    | .spilled => maskSave k 456 8 0 (2 ^ 53)
    | .waiting .quit => pure ()
    | .waiting .yield => pure ()
    | .waiting _ => emit (.thread k (some { t with status := .parked .fault }))
    | _ => pure ()

/-- The Kind byte of a request's record (R146); a blend, which reads and writes its granule, counts as a load. (DEDUCED: log 65) -/
def faultKind : Ask → Nat
  | .load _ => 0
  | .loadPair => 0
  | .gather _ => 0
  | .texture _ _ => 0
  | .coef _ => 0
  | .launch _ _ => 0
  | .store => 1
  | .scatter _ => 1
  | .fullEmpty _ => 3
  | .notify _ => 3
  | .fill _ => 3
  | .atomic _ => 4
  | .digest _ _ => 5
  | .addRow _ _ => 5
  | .scene .dkl _ _ => 5
  | _ => 0

/-- The rings of all dies that owe entries (R147). -/
def pumpAll : Act Unit := do
  forEach ((← look).dies.filter (fun d => !d.2.owed.isEmpty)) (fun d => pumpRing d.1)

/-- The kind of a request's record: that of an engine for an engine's update (R146, R228). -/
def Req.faultKind (r : Req) : Nat :=
  match r.who with
  | .engine _ _ => 5
  | _ => Machine.faultKind r.ask

/-- A queue slot that has met data it cannot use stops, and stays stopped as for a bad write index (R268, R303). (DESIGN CHOICE: log 81) -/
def stopSlot (die slot : Nat) : Act Unit :=
  modSlot die slot (fun q => { q with stopped := true, windex := none })

/-- The last of a request that is refused, beside its thread's trap: the engine's command ends with a STATUS at the word (R227), and a queue slot, which has nobody to take a trap, is reported
and stops. (DESIGN CHOICE: log 85) -/
def refusal (r : Req) (va status : Nat) : Act Unit :=
  match r.who with
  | .engine tile op => modUpdating tile op (fun c => { c with refused := some (status, va) })
  | .queue die slot => do
    if status = 1 then emit (.send (.report "notify word not read" r.ctx va)) else pure ()
    stopSlot die slot
  | _ => pure ()

/-- A request that a home does not perform (R139, R145, R146, R303). -/
def deny (r : Req) (va : Nat) (d : Denied) : Act Unit := do
  match d with
  | .protection => do
    refusal r va 1
    fail r .protection va 0 (fun _ => false)
  | .machineCheck src => do
    machineReport src va
    refusal r va 5
    fail r .machineCheck va src (fun _ => false)
  | .pageFault c =>
    let s ← look
    -- the whole instruction is reissued (R122)
    modReq r.id (fun q => { q with stage := .faulted, parts := [], reached := [] })
    addFault ⟨faultDie va, va, reqTid s r, r.faultKind, c, r.ctx, r.pc, .request r.id, 0⟩
    match r.who with
    | .thread k => parkOnFault k
    | .engine tile op => do
      modUpdating tile op (fun c => { c with stopped := true })
      match updating s tile op with
      | some c => breakTiming c.key
      | none => pure ()
    | _ => pure ()

/-! ### Arrival -/

/-- Sign extension of an `n`-byte value to 64 bits (R151). -/
def extend (signed : Bool) (n x : Nat) : Word :=
  if signed && decide (2 ^ (8 * n - 1) ≤ x) then BitVec.ofNat 64 (x + 2 ^ 64 - 2 ^ (8 * n)) else BitVec.ofNat 64 x

/-- Reaches every piece of a request; the first that is refused decides. -/
def reachAll (r : Req) (m : AccessMode) : List (Nat × Nat) → Act (Except (Nat × Denied) (List (Nat × Nat × Nat)))
  | [] => return .ok []
  | (va, n) :: rest => do
    match ← reach r.ctx (some r.tile) va m with
    | .error d => return .error (va, d)
    | .ok (k, _) =>
      match ← reachAll r m rest with
      | .error e => return .error e
      | .ok l => return .ok ((va, n, k) :: l)

/-- Reads every piece of a request at its home; the first that is refused decides. -/
def readHomes (ctx core : Nat) : List (Nat × Nat) → Act (Except (Nat × Denied) (List Nat))
  | [] => return .ok []
  | (va, n) :: rest => do
    match ← readHome ctx (some (tileOfCore core)) va n {} with
    | .error d => return .error (va, d)
    | .ok x => do
      if inWindow va then pure () else l1Forget core ctx va n x
      return (← readHomes ctx core rest).map (x :: ·)

/-- Reads every piece of a request, as plain loads or at its home; the first that is refused decides. Values come little-endian in order, each with its size. -/
def readAll (ctx core : Nat) (cached : Bool) (spans : List (Nat × Nat)) : Act (Except (Nat × Denied) (List (Nat × Nat))) := do
  let xs ← if cached then readSpans ctx core (tileOfCore core) spans else readHomes ctx core spans
  return xs.map (fun l => l.zip (spans.map (·.2)))

/-- Joins values of given byte sizes, first lowest. -/
def joinBytes : List (Nat × Nat) → Nat
  | [] => 0
  | (x, n) :: r => x % 256 ^ n + 256 ^ n * joinBytes r

/-- Some word of reached pieces is reserved: the key of the first such reservation (R167). -/
def reservedIn (s : State) (l : List (Nat × Nat × Nat)) : Option Nat :=
  (l.map (fun p => holdKey p.1 p.2.2)).find? (reserved s)

/-- Some word of a byte range is reserved, where the present translation of a context leads (R167). -/
def reservedRange (s : State) (ctx tile va n : Nat) : Bool :=
  !s.holds.isEmpty && (List.range (n / 8 + 2)).any (fun i =>
    let a := wordOf va + 8 * i
    decide (a < va + n) && (if inWindow a then reserved s (localKey tile (a - windowBase))
      else match walk s ctx a with
        | .leaf l => reserved s (copyKey (homeHash a) (wordOf (l.key a)))
        | _ => false))

/-- Holds a request behind a reservation (R164). -/
def holdBack (r : Req) (h : Nat) : Act Unit := do
  let x := (← look).hold h
  putHold h { x with held := x.held ++ [r.id] }
  modReq r.id (fun q => { q with stage := .heldBack })

/-- Takes a request out of those that a reservation holds back. -/
def unhold (r : Req) : Act Unit := do
  forEach (← look).holds (fun h => if h.2.held.contains r.id then putHold h.1 { h.2 with held := h.2.held.filter (· ≠ r.id) } else pure ())

/-- Stores the pieces of a request and updates the L1 lines that its core holds (R154). -/
def storePieces (r : Req) : List (Nat × Nat × Nat) → Nat → Act Unit
  | [], _ => pure ()
  | (va, n, k) :: rest, x => do
    poke k n (x % 256 ^ n)
    if inWindow va then pure () else l1Update r.core r.ctx va n (x % 256 ^ n)
    storePieces r rest (x / 256 ^ n)

/-- The register write of a vector load. -/
def vectorWrite (r : Req) (x : Nat) : RegWrite :=
  if r.vlong then .w r.d (BitVec.ofNat 2048 x) else .v r.d (BitVec.ofNat 256 x)

/-- Some byte range of a partial-word store lies in a word that holds an uncorrectable error (R303). -/
def partialSpoiled (s : State) (l : List (Nat × Nat × Nat)) : Option (Nat × Nat) :=
  (l.find? (fun p => decide (p.2.1 < 8) && spoiled s p.2.2 p.2.1)).map (fun p => (p.1, errorSource s p.2.2 p.2.1))

/-- Requests waiting in a home's ordered buffer (R177). (DEDUCED: log 15) -/
def bufferedAt (s : State) (slice : Nat) : List Req :=
  (s.reqs.map (·.2)).filter (fun r => r.slice = slice && (match r.stage with | .buffered _ _ => true | _ => false))

/-- The early requests among them, and the one in the 16th entry, whose number is NEXT (R177). -/
def earlyAt (s : State) (slice : Nat) : List Req := (bufferedAt s slice).filter (fun r => match r.stage with | .buffered early _ => early | _ => false)
def sixteenthAt (s : State) (slice : Nat) : Option Req := (bufferedAt s slice).find? (fun r => match r.stage with | .buffered early _ => !early | _ => false)

/-- An ordered atomic arrives (R177). The word's key is `w`. Its number is compared with NEXT before the word's state is looked at, so that one whose number is not NEXT goes to the buffer whether
the word is FULL or EMPTY, in the runner slot too. (DESIGN CHOICE: log 83) -/
def arriveOrdered (r : Req) (w : Nat) : Act Unit := do
  let s ← look
  let old := peek s.mem w 8
  if r.seq = orderedNext old then
    if reserved s (r.holdKey w) then
      if (sixteenthAt s r.slice).isNone then modReq r.id (fun q => { q with stage := .buffered false (r.holdKey w), page := r.usedPage s })
      else enlist r
    else if isEmptyWord s w then
      if r.runner then fail r .runnerWait 0 0 (fun _ => false) else enlist r
    else take r w old
  else if (earlyAt s r.slice).length < 15 then do
    let n ← nextArrival r.slice
    modReq r.id (fun q => { q with stage := .buffered true (r.holdKey w), arrived := n, page := r.usedPage s })
  else refuse r r.va

/-- A full/empty operation or atomic arrives at its word, at memory key `w` (R164). -/
def arriveWord (r : Req) (w : Nat) : Act Unit := do
  let s ← look
  let hk := r.homeKey
  let rk := r.holdKey w
  let full := !isEmptyWord s w
  let old := peek s.mem w 8
  let word := BitVec.ofNat 64 old
  match r.ask with
  | .atomic op =>
    if op.ordered then arriveOrdered r w
    else if reserved s rk then holdBack r rk
    else if full then take r w old
    else if r.runner then fail r .runnerWait 0 0 (fun _ => false)
    else enlist r
  | .notify remap =>
    if reserved s rk then holdBack r rk
    else if full then do serve r old; emit (.empty w true); settle hk w
    else if remap then do
      -- R269: the scheduler's first act is an `LDX.c`; when it fails the slot's own `LDC` follows
      modReq r.id (fun q => { q with ask := .notify false })
      enlist { r with ask := .notify false }
    else enlist r
  | .fullEmpty op =>
    if reserved s rk then holdBack r rk
    else match op with
    | .ldw => if full then complete r [.s r.d word] else enlist r
    | .ldc => if full then do complete r [.s r.d word]; emit (.empty w true); settle hk w else enlist r
    | .stf => if full then enlist r else do fillWord r w; emit (.empty w false); complete r []; settle hk w
    | .stff => do fillWord r w; emit (.empty w false); complete r []; settle hk w
    | .ldxw => if full then complete r [.s r.d word, .p r.pf false] else complete { r with acq := false } [.p r.pf true]
    | .ldxc =>
      if full then do complete r [.s r.d word, .p r.pf false]; emit (.empty w true); settle hk w
      else complete { r with acq := false } [.p r.pf true]
    | .stfx =>
      if full then complete r [.p r.pf true]
      else do fillWord r w; emit (.empty w false); complete r [.p r.pf false]; settle hk w
    | .feset => do emit (.empty w false); complete r []; settle hk w
    | .feclr => do emit (.empty w true); complete r []; settle hk w
    | .fetest => complete r [.p r.d full]
  | _ => pure ()

/-- A 64-byte granule of which an access reads parts of both 32-byte lines comes from one age (R197): unless the L1 holds both lines, neither is used. -/
def wholeGranules (ctx core : Nat) (spans : List (Nat × Nat)) : Act Unit := do
  forEach ((spans.filter (fun p => !inWindow p.1)).map (fun p => p.1 / 64)).eraseDups (fun g => do
    let meets (line : Nat) : Bool := spans.any (fun p => decide (p.1 < line + 32) && decide (line < p.1 + p.2))
    let s ← look
    if meets (64 * g) && meets (64 * g + 32) && ((l1Find s core ctx (64 * g)).isNone || (l1Find s core ctx (64 * g + 32)).isNone) then do
      l1Drop core ctx (64 * g)
      l1Drop core ctx (64 * g + 32)
    else pure ())

/-- The pieces of a plain read that may be served from an L1, whole granule by whole granule (R154, R197). -/
def readPieces (ctx core : Nat) (spans : List (Nat × Nat)) : Act (Except (Nat × Denied) (List (Nat × Nat))) := do
  wholeGranules ctx core spans
  readAll ctx core true spans

/-! ### Accesses made in parts (R123, R127, R350) -/

/-- Reads the accesses of some indexes, apart from the others. Where several pieces of one granule are read, the first of them is read at the home, so that what an L1 holds of the granule is no
older (R197). -/
def readSome (ctx core window : Nat) (reads : List (Nat × Nat)) (parts : List Part) (js : List Nat) : Act (Except (Nat × Denied) (List Part)) := do
  let mine := js.map (fun j => reads.getD j (0, 0))
  forEach ((mine.filter (fun p => !inWindow p.1)).map (fun p => p.1 / 64)).eraseDups (fun g =>
    if 1 < (reads.filter (fun p => p.1 / 64 = g)).length && !parts.any (fun p => p.va / 64 = g) then do
      l1Drop core ctx (64 * g)
      l1Drop core ctx (64 * g + 32)
    else pure ())
  match ← readSpans ctx core window mine with
  | .error e => return .error e
  | .ok xs =>
    let s ← look
    return .ok ((js.zip (mine.zip xs)).map (fun p => ⟨p.1, p.2.2, p.2.1.1, keyUsed s ctx window p.2.1.1, pageUsed s ctx p.2.1.1 (0, 0)⟩))

/-- The values of all accesses, of which the parts have been made: the others are made now. -/
def readRest (parts : List Part) (reads : List (Nat × Nat)) (read : List (Nat × Nat) → Act (Except (Nat × Denied) (List (Nat × Nat)))) : Act (Except (Nat × Denied) (List (Nat × Nat))) :=
  if parts.isEmpty then read reads
  else do
    let rest := unperformed parts reads
    match ← read (rest.map (·.1)) with
    | .error e => return .error e
    | .ok xs => return .ok (reads.zipIdx.map (fun p => match parts.find? (·.index = p.2) with
      | some q => (q.value, p.1.2)
      | none => (((rest.zip xs).find? (fun x => x.1.2 = p.2)).map (·.2)).getD (0, p.1.2)))

/-- The accesses that go together: those of a scene instruction to one word (R350), else each alone. -/
def Req.together (r : Req) (reads : List (Nat × Nat)) (j : Nat) : List Nat :=
  match r.ask with
  | .scene _ _ _ => ((unperformed r.parts reads).filter (fun p => wordOf p.1.1 = wordOf (reads.getD j (0, 0)).1)).map (·.2)
  | _ => [j]

/-- An access by its index is still to be made, or the row is not due. -/
def needPart (parts : List Part) (reads : List (Nat × Nat)) (j : Nat) : Act Unit :=
  due "REQUEST_ARRIVAL" (decide (j < reads.length) && !parts.any (·.index = j))

/-- The plain reads of a request: all that are left, whose values come with their sizes; or one of them, and then the request goes on later. When one is refused, the first that is refused
decides for the request. -/
def plainReads (r : Req) (reads : List (Nat × Nat)) (part : Option Nat) : Act (Option (List (Nat × Nat))) := do
  let whole (parts : List Part) : Act (Option (List (Nat × Nat))) := do
    match ← readRest parts reads (readPieces r.ctx r.core) with
    | .error (va, d) => do
      deny r va d
      return none
    | .ok l => return some l
  match part with
  | none => whole r.parts
  | some j => do
    needPart r.parts reads j
    match ← readSome r.ctx r.core r.tile reads r.parts (r.together reads j) with
    | .ok ps => do
      modReq r.id (fun q => { q with parts := q.parts ++ ps })
      return none
    | .error _ => do
      let _ ← whole []
      return none

/-- The home reads and stores of a half-made access leave a raster write of the granule to wait: some of its words have been read, and others are still to be (R197). -/
def halfRead (parts : List Part) (reads : List (Nat × Nat)) (granule : Nat) : Bool :=
  parts.any (fun p => p.key / 64 = granule && (unperformed parts reads).any (fun q => q.1.1 / 64 = p.va / 64))

/-- The 4-byte coefficients of a `COEFLD` that are still to be written, in order; the second of a word that is written makes the write a whole one (R127, R304). -/
def writeUnits (r : Req) (off data : Nat) : List Nat → List Part → Act (List Part)
  | [], done => return done
  | j :: rest, done => do
    let x := data / 256 ^ (4 * j) % 256 ^ 4
    poke (coefKey r.tile (off + 4 * j)) 4 x
    if done.any (fun p => p.index / 2 = j / 2) && !(← look).bad.isEmpty then emit (.bad (coefKey r.tile (off + j / 2 * 8)) none) else pure ()
    writeUnits r off data rest (done ++ [⟨j, x, off + 4 * j, coefKey r.tile (off + 4 * j), (0, 0)⟩])

/-- `COEFLD` at its arrival: its source is read as plain loads, and the coefficients are written, all at once or, once all has been read, one by one (R126, R127). The reads left are made
together by the index that follows theirs. -/
def arriveCoef (r : Req) (off : Nat) (part : Option Nat) : Act Unit := do
  let ps := r.reads
  let n := (r.spans.head?.map (·.2)).getD 0
  match r.stage, part with
  | .half data, none => do
    let _ ← writeUnits r off data ((List.range (n / 4)).filter (fun j => !r.parts.any (·.index = j))) r.parts
    complete r []
  | .half data, some j => do
    due "REQUEST_ARRIVAL" (decide (j < n / 4) && !r.parts.any (·.index = j))
    let done ← writeUnits r off data [j] r.parts
    modReq r.id (fun q => { q with parts := done })
  | _, _ =>
    match ← plainReads r ps (if part = some ps.length then none else part) with
    | none => pure ()
    | some l =>
      if part.isSome then do
        modReq r.id (fun q => { q with stage := .half (joinBytes l), parts := [] })
        match r.who with
        | .thread k => rouse k
        | _ => pure ()
      else do
        poke (coefKey r.tile off) n (joinBytes l)
        complete r []

/-- An access of a request touches the same bytes as one that is still to be made before it, so that it waits: the lanes of a `VSCAT` store in order (R122, R123). -/
def laneWaits (parts : List Part) (ps : List (Nat × Nat)) (j : Nat) : Bool :=
  (unperformed parts (ps.take j)).any (fun q => decide (q.1.1 < (ps.getD j (0, 0)).1 + (ps.getD j (0, 0)).2) && decide ((ps.getD j (0, 0)).1 < q.1.1 + q.1.2))

/-- Where the stores of a request go now, with their indexes and data: the addresses have been checked and translated at its first store (R122). -/
def Req.places (r : Req) (s : State) : List ((Nat × Nat × Nat) × Nat × Nat) :=
  (r.reached.zip r.reads).map (fun p => ((p.1.va, p.2.2, locate s (Machine.holdKey p.1.va p.1.key) + p.1.key % 8), p.1.index, p.1.value))

/-- Stores of some places, unless one of their words holds an error, or is reserved, so that they wait. -/
def storeSome (r : Req) (l : List ((Nat × Nat × Nat) × Nat × Nat)) (wait : Nat → Act Unit) (next : Act Unit) : Act Unit := do
  let s ← look
  match partialSpoiled s (l.map (·.1)) with
  | some (va, src) => deny r va (.machineCheck src)
  | none =>
    match reservedIn s (l.map (·.1)) with
    | some h => wait h
    | none => do
      forEach l (fun p => storePieces r [p.1] p.2.2)
      next

/-- Checks and translates every store of a request before the first of them is made (R122). -/
def reachParts (r : Req) : List ((Nat × Nat) × Nat) → Nat → Act (Except (Nat × Denied) (List Part))
  | [], _ => return .ok []
  | ((va, n), j) :: rest, x => do
    match ← reach r.ctx (some r.tile) va { write := true } with
    | .error d => return .error (va, d)
    | .ok (k, _) =>
      let page := pageUsed (← look) r.ctx va (0, 0)
      return (← reachParts r rest (x / 256 ^ n)).map (⟨j, x % 256 ^ n, va, k % 2 ^ 58, page⟩ :: ·)

/-- A plain store arrives: every address is checked before anything is stored, and then its words or lanes are stored, all that are left or one of them (R122, R123). -/
def arriveStore (r : Req) (part : Option Nat) : Act Unit := do
  let s ← look
  match part with
  | some j => do
    needPart r.parts r.reads j
    due "REQUEST_ARRIVAL" (!laneWaits r.parts r.reads j)
    match ← if r.reached.isEmpty then reachParts r r.reads.zipIdx r.data else pure (.ok r.reached) with
    | .error (va, d) => deny r va d
    | .ok made =>
      storeSome r (({ r with reached := made }.places (← look)).filter (·.2.1 = j)) (fun _ => stop (.refused (.eventNotDue "REQUEST_ARRIVAL")))
        (modReq r.id (fun q => { q with reached := made, parts := q.parts ++ made.filter (·.index = j) }))
  | none =>
    if !r.reached.isEmpty then storeSome r ((r.places s).filter (fun p => !r.parts.any (·.index = p.2.1))) (holdBack r) (complete r [])
    else
      match ← reachAll r { write := true } r.reads with
      | .error (va, d) => deny r va d
      | .ok l =>
        let s ← look
        match partialSpoiled s l with
        | some (va, src) => deny r va (.machineCheck src)
        | none =>
          match reservedIn s l with
          | some h => holdBack r h
          | none => do
            storePieces r l r.data
            complete r []

/-- `LDP` arrives: 16 bytes at once, or on an MT 2 page the lower 8 bytes now and the upper at a later moment, between which another agent's store can fall (R152). -/
def arrivePair (r : Req) : Act Unit := do
  let pair (x : Nat) : List RegWrite := if r.d = 0 then [] else [.s r.d (BitVec.ofNat 64 x), .s (r.d + 1) (BitVec.ofNat 64 (x / 2 ^ 64))]
  match r.stage with
  | .half low =>
    match ← readAll r.ctx r.core false [(r.va + 8, 8)] with
    | .error (va, d) => do
      modReq r.id (fun q => { q with stage := .sent })
      deny r va d
    | .ok l => complete r (pair (low + 2 ^ 64 * joinBytes l))
  | _ =>
    match ← reach r.ctx (some r.tile) r.va {} with
    | .error d => deny r r.va d
    | .ok (k, mt) =>
      let n := if mt = 2 then 8 else 16
      let s ← look
      if loadSpoiled s r.va k n then deny r (if loadSpoiled s r.va k 8 then r.va else r.va + 8) (.machineCheck (loadSource s r.va k n))
      else do
        let x := loadBytes s r.va k n
        if inWindow r.va then pure () else l1Forget r.core r.ctx r.va n x
        if mt = 2 then modReq r.id (fun q => { q with stage := .half x, page := r.usedPage s }) else complete r (pair x)

/-- The word of a full/empty operation or an atomic, once its home may perform it: one that holds an error stops all but `STF` and `STFF`, which
replace the word whole (R139, R303). (DESIGN CHOICE: log 74) -/
def reachWord (r : Req) (writes fills : Bool) : Act Unit := do
  match ← reach r.ctx (some r.tile) (wordOf r.va) { write := writes, fe := true } with
  | .error d => deny r r.va d
  | .ok (w, _) =>
    let s ← look
    if spoiled s w 8 && !fills then deny r r.va (.machineCheck (errorSource s w 8))
    else do
      if inWindow r.va then pure () else l1Forget r.core r.ctx (wordOf r.va) 8 (peek s.mem w 8)
      arriveWord r w

/-- A request of this chapter's kinds arrives at its home and is performed, enlisted or held (R164); with an index, one of the accesses that it makes apart is performed (R123, R127). -/
def arrive (r : Req) (part : Option Nat) : Act Unit := do
  match r.ask with
  | .load signed =>
    match ← readAll r.ctx r.core (!r.acq) (pieces r.spans) with
    | .error (va, d) => deny r va d
    | .ok l => complete r [.s r.d (extend signed ((r.spans.head?.map (·.2)).getD 8) (joinBytes l))]
  | .loadPair => arrivePair r
  | .gather _ =>
    match ← plainReads r r.reads part with
    | none => pure ()
    | some l => complete r [vectorWrite r (joinBytes l)]
  | .coef off => arriveCoef r off part
  | .store | .scatter _ => arriveStore r part
  | .fullEmpty op =>
    let writes := match op with | .ldw => false | .ldxw => false | .fetest => false | _ => true
    reachWord r writes (op = .stf || op = .stff)
  | .atomic _ => reachWord r true false
  | .tinv ctx va => do
    invalidate ctx va
    complete r []
  | .notify _ =>
    match ← reach r.ctx none (wordOf r.va) { write := true, fe := true } with
    | .error d => deny r r.va d
    | .ok (w, _) =>
      let s ← look
      if spoiled s w 8 then deny r r.va (.machineCheck (errorSource s w 8)) else arriveWord r w
  | .fill _ =>
    match ← reach r.ctx (if inWindow r.va then some r.tile else none) (wordOf r.va) { write := true, fe := true } with
    | .error .protection => do
      emit (.send (.report "word not filled" r.ctx r.va))
      performed r
    | .error d => deny r r.va d
    | .ok (w, _) =>
      if reserved (← look) (r.holdKey w) then holdBack r (r.holdKey w)
      else do
        poke w 8 (r.data % 2 ^ 64)
        emit (.empty w false)
        performed r
        settle r.homeKey w
  | _ => pure ()

/-- The requests held behind a reservation that has ended are presented again, in their arrival order, ahead of any later arrival; those that meet a new reservation stay held (R167). -/
def presentHeld (rk : Nat) : Act Unit := do
  let h := (← look).hold rk
  putHold rk { h with held := [] }
  forEach h.held (fun i => do
    match mapGet i (← look).reqs with
    | none => pure ()
    | some r => do
      modReq i (fun q => { q with stage := .sent })
      arrive { r with stage := .sent } none)

/-- After a put, which leaves the word at memory key `w`: the reservation ends, a buffered request whose number an ordered word has come to is performed, held requests are presented, the
home settles, and fault rings whose PROD word was reserved go on (R147, R167, R174, R177). The list of the atomic's own context is served before those of other contexts whose settling met
the reservation. (DESIGN CHOICE: log 18) -/
def afterPut (r : Req) (rk w : Nat) : Act Unit := do
  let h := (← look).hold rk
  putHold rk { h with resv := none, owed := [] }
  let s ← look
  let next := orderedNext (peek s.mem w 8)
  -- whatever context sent them (R142)
  let mine := (bufferedAt s r.slice).filter (fun q => match q.stage with | .buffered _ key => key = rk | _ => false)
  let again (q : Req) : Act Unit := do
    modReq q.id (fun x => { x with stage := .sent })
    arriveOrdered q w
  match oldest (mine.filter (fun q => q.seq = next)) with
  | some q => again q
  | none => pure ()
  -- the 16th entry waits only until the put: a number that NEXT has passed by is an early one again
  forEach (mine.filter (fun q => q.stage = .buffered false rk && q.seq ≠ next)) again
  presentHeld rk
  settle r.homeKey w
  forEach (h.owed.filter (· ≠ r.homeKey)) (fun hk => settle hk w)
  pumpAll

end Sys2Proof.Machine
end

