-- ==== Sys2Proof/Machine/Ops.lean ====
section
/-!
DEFINITION. The operations that meanings share: stopping a thread and its save area (R294-R298), taking an exception and returning from one (R286-R293), and the issue of an
instruction with its guard, windows, scoreboard and hardware migration (R21-R28, R62, R73).
-/

namespace Sys2Proof.Machine

/-! ### The current thread -/

/-- The thread whose turn it is. -/
def current : Act Thread := do
  let s ← look
  match s.thread? s.cur with
  | some t => return t
  | none => stop (.refused .noThread)

/-- Changes the thread whose turn it is. -/
def modCurrent (f : Thread → Thread) : Act Unit := do modThread (← look).cur f

/-- A 32-bit instruction (R14). -/
def isWide (insn : BitVec 32) : Bool := insn.getLsbD 0

/-- A precise trap of a thread at its PC (R144, R288). -/
def preciseTrap (t : Thread) (insn : BitVec 32) (c : Cause) (addr : Word) : TrapReq where
  cause := c
  epc := t.pc
  resume := some t.pc
  addr := addr
  info := 0
  deferred := false
  insn := if isWide insn then insn else insn &&& 0xFFFF
  wide := isWide insn
  held := false

/-- Raises a precise trap at the current instruction. -/
def raise {α : Type} (c : Cause) (addr : Word) : Act α := do
  let t ← current
  stop (.trap (preciseTrap t (← look).insn c addr))

/-- Raises a precise trap unless a condition holds. -/
def require (ok : Bool) (c : Cause) (addr : Word) : Act Unit := if ok then pure () else raise c addr

/-- A deferred trap of a thread that names an instruction (R145). -/
def deferredAt (pc : Word) (insn : BitVec 32) (c : Cause) (addr info : Word) : TrapReq where
  cause := c
  epc := pc
  resume := none
  addr := addr
  info := info
  deferred := true
  insn := insn
  wide := isWide insn
  held := false

/-- The word that a trap of a fetch names: no instruction has been fetched, so it is free (log 4), but for the first halfword where only the second of a 32-bit instruction fails (R14,
R287). (DEDUCED: log 30) -/
def unfetched (low : Option (BitVec 16)) : Act (BitVec 32) := do
  let n ← freshFree
  let x := (Config.freeWord n).extractLsb' 0 32
  return match low with
    | some lo => x.extractLsb' 16 16 ++ lo
    | none => if isWide x then x else x &&& 0xFFFF

/-! ### Order of a thread's accesses -/

/-- The requests of a thread that are not yet performed. -/
def ownReqs (s : State) (k : Nat) : List Req := (s.reqs.map (·.2)).filter (fun r => r.who = .thread k)

/-- A `COEFLD` has made its reads: what is left of it writes coefficient memory, which no fence orders (R127). -/
def Req.fetched (r : Req) : Bool :=
  match r.ask, r.stage with
  | .coef _, .half _ => true
  | _, _ => false

/-- The accesses of a thread that are not yet performed: a blend is ordered by `SURFREL` alone (R198). -/
def ownAccesses (s : State) (k : Nat) : List Req := (ownReqs s k).filter (fun r => match r.ask with | .blend _ _ => false | _ => !r.fetched)

/-- The `MDRAIN`s that have not completed, by operation: a later access of their issuer waits for them as for any acquire (R187, R213). -/
def drains (s : State) (mine : EngineCmd → Bool) : List Nat :=
  s.tiles.flatMap (fun t => (t.2.array.fifo.filter (fun c => c.work = .drain && mine c)).map (·.op))

/-- Ids among a list that are still outstanding. -/
def outstanding (s : State) (ids : List Nat) : List Nat := ids.filter (fun i => (mapGet i s.reqs).any (fun r => !r.fetched) || (drains s (fun _ => true)).contains i)

/-- What a new access of a thread must wait for: earlier accesses to a common word (R153), earlier acquires (R187), what its own acquires still wait for (R394), and for a release
every earlier access (R187). -/
def barring (s : State) (k : Nat) (t : Thread) (spans : List (Nat × Nat)) (rel : Bool) : List Nat :=
  ((ownAccesses s k).filter (fun r => rel || r.acq || spansMeet r.left spans)).map (·.id) ++ drains s (fun c => c.key = k) ++ outstanding s t.after

/-- A request finds the addresses of its further reads in what it reads first, and has not read that yet: the table reads of a `DKL` and the texels of a texture instruction (R348, R370). -/
def Req.unread (r : Req) : Bool :=
  let late := match r.ask with
    | .scene .dkl _ _ => true
    | .texture _ _ => true
    | _ => false
  late && (match r.stage with | .half _ => false | _ => true)

/-- An earlier access of a request's thread comes before the given accesses of the request: it touches one of their words, or may still turn out to (R153). (DEDUCED: log 54) -/
def ownEarlier (s : State) (r : Req) (spans : List (Nat × Nat)) : Bool :=
  match r.who with
  | .thread k => !spans.isEmpty && (ownAccesses s k).any (fun q => decide (q.id < r.id) && (q.unread || spansMeet q.left spans))
  | _ => false

/-- An access that a thread performs as it issues or leaves an instruction waits: for what bars a request (R153, R187, R394), and while an earlier instruction may still turn out to read
the same word. -/
def barred (s : State) (k : Nat) (t : Thread) (spans : List (Nat × Nat)) : Bool := !(barring s k t spans false).isEmpty || (ownAccesses s k).any (·.unread)

/-- All of a thread's outstanding accesses: what a release carries (R187, R394). -/
def releaseSet (s : State) (k : Nat) : List Nat :=
  (ownAccesses s k).map (·.id) ++ (match s.thread? k with | some t => outstanding s t.after | none => [])

/-- A thread's later accesses wait for the given ones (R394). -/
def acquireSet (k : Nat) (ids : List Nat) : Act Unit := do
  let s ← look
  modThread k (fun t => { t with after := outstanding s t.after ++ outstanding s ids })

/-- An acquire of a thread at a scope, which completes once the given accesses have been performed: it discards L1 lines, and when some of them are outstanding it owes another discard, made
when they have been performed (R155, R187, R394). -/
def acquireFrom (k : Nat) (ids : List Nat) (sc : Scope) : Act Unit := do
  acquireSet k ids
  match (← look).thread? k with
  | none => pure ()
  | some t => do
    discardFor (coreOf k) t sc
    if t.after.isEmpty || sc = .thread then pure () else modThread k (fun u => { u with owed := stronger u.owed sc })

/-- Before a thread's next access: the discard that it owes, once the accesses that its acquire waited for have been performed (R394). -/
def settleOwed (k : Nat) : Act Unit := do
  let s ← look
  match s.thread? k with
  | none => pure ()
  | some t =>
    match t.owed with
    | none => pure ()
    | some sc =>
      if (outstanding s t.after).isEmpty then do
        modThread k (fun u => { u with owed := none })
        discardFor (coreOf k) t sc
      else pure ()

/-! ### Stops (R294-R298) -/

/-- A page fault that keeps a thread PARKED: its own access, fetch, trap record or `ERET`, or its stream in the array (R146, R222). -/
def faultOf (s : State) (k : Nat) : Option PageFault :=
  s.faults.find? (fun f => match f.who with
    | .request r => (match mapGet r s.reqs with | some q => q.who = .thread k | none => false)
    | .fetch j _ => j = k
    | .trapRecord j => j = k
    | .eret j => j = k
    | .gctx j => j = k
    | .engine tile 2 => (s.tile tile).array.fifo.any (fun c => c.stopped && c.key = k)
    | _ => false)

/-- A `STEPB` of a thread waits for the group's digests (R284). -/
def stepWaits (s : State) (k : Nat) : Bool := (ownReqs s k).any (fun r => (match r.ask with | .step _ => true | _ => false) && r.stage = .accepted)

/-- How a thread goes on that waits for nothing else: PARKED while a page fault rests on it or its `STEPB` waits, WAITING while the entry of a trap waits, else ACTIVE (R47, R146, R284,
R286). -/
def goOn (s : State) (k : Nat) (t : Thread) : Status :=
  if (faultOf s k).isSome then .parked .fault
  else if stepWaits s k then .parked .step
  else if t.entering.isSome then .waiting .trapEntry
  else .active

def bit (b : Bool) (i : Nat) : Nat := if b then 2 ^ i else 0

/-- STATUS (R298); `packed` is the form of a migration packet, whose pending and wait fields are zero (R60). -/
def statusWord (s : State) (k : Nat) (t : Thread) (reason : Nat) (packed : Bool) : Nat :=
  let p := t.pending
  bit t.intrap 59 + bit (!packed && (faultOf s k).isSome) 53 + (if packed then 0 else reason * 2 ^ 48) + t.coefbase.toNat * 2 ^ 34
    + t.approx.toNat * 2 ^ 25 + bit (!packed && p.coef) 24 + (if packed then 0 else p.v.toNat % 256 * 2 ^ 16) + bit (!packed && t.fixed) 15
    + bit t.broken 14 + bit t.inreg 13 + bit (t.long && !packed) 12 + bit t.wake 11 + bit t.div0 10 + t.prio.toNat * 2 ^ 8 + t.rmode.toNat * 2 ^ 6
    + bit (!packed && p.flags) 5 + t.flags.toNat

/-- The save area of a thread as (offset, bytes, value) (R297). -/
def saveImage (s : State) (k : Nat) (t : Thread) (reason : Nat) : List (Nat × Nat × Nat) :=
  let p := t.pending
  [(0, 8, t.pc.toNat)] ++ (List.range 15).map (fun i => (8 * (i + 1), 8, (t.readS (BitVec.ofNat 4 (i + 1))).toNat))
    ++ (List.range 8).map (fun i => (128 + 32 * i, 32, (t.readV (BitVec.ofNat 4 i)).toNat))
    ++ (List.range 8).map (fun i => (384 + 8 * i, 8, (t.readE (BitVec.ofNat 3 i)).toNat))
    ++ [(448, 8, t.predWord.toNat + p.s.toNat * 2 ^ 32 + p.p.toNat * 2 ^ 48), (456, 8, statusWord s k t reason false),
        (464, 8, t.waitlim.toNat + t.retrylim.toNat * 2 ^ 32), (472, 8, t.trapvec.toNat), (480, 8, t.traprec.toNat), (488, 8, t.fmta.toNat),
        (496, 8, t.fmtb.toNat), (504, 8, t.fmts.toNat)]

/-- Writes a thread's save area (R297). -/
def writeSaveArea (k reason : Nat) : Act Unit := do
  let s ← look
  match s.thread? k with
  | none => pure ()
  | some t => forEach (saveImage s k t reason) (fun f => pokeSave k f.1 f.2.1 f.2.2)

/-- Sends a notice of the Fettler (R294). -/
def notice (k tid reason : Nat) (area ctx : Nat) (pc : Word) : Act Unit :=
  owe (dieOf k) (recordBytes area tid 6 reason ctx pc.toNat)

/-- Withdraws an unserved full/empty request or atomic, to be issued again at restore (R173, R296). -/
def withdrawReq (r : Req) : Act Unit := do
  let gone := modReq r.id (fun q => { q with stage := .withdrawn })
  match r.ask with
  | .fullEmpty _ | .atomic _ =>
    match r.stage with
    | .sent => gone
    | .listed _ => do unlist r; gone
    | .refused _ => gone
    | .buffered _ _ => gone
    | .heldBack => do
      unhold r
      gone
    | _ => pure ()
  | _ => pure ()

/-- A parked wait that a spill withdraws: a barrier wait leaves an outstanding arrival, a `SEMW` leaves its semaphore's waiters (R67, R250, R296). -/
def withdrawWait (k : Nat) (w : Park) : Act Unit := do
  match w with
  | .wake => modThread k Thread.unticked
  | .barrier flask _ own =>
    modThread k Thread.unticked
    if own then
      modThread k (fun t => if flask then { t with barFlask := { t.barFlask with outstanding := true } } else { t with barCrew := { t.barCrew with outstanding := true } })
    else pure ()
  | .sem tile n =>
    modThread k Thread.unticked
    modTile tile (fun t => { t with sems := t.sems.set (n % 16) { t.sems[n % 16]'(Nat.mod_lt _ (by decide)) with
      waiters := (t.sems[n % 16]'(Nat.mod_lt _ (by decide))).waiters.filter (· ≠ k) } (Nat.mod_lt _ (by decide)) })
  | _ => pure ()

/-- What could be read of a slot whose state is lost stands in its save area: every word of it is free (R304; log 26). -/
def writeLostArea (k : Nat) : Act Unit :=
  forEach (List.range 64) (fun i => do
    let n ← freshFree
    pokeSave k (8 * i) 8 (Config.freeWord n).toNat)

/-- The Fettler takes a thread of a general slot out of it (R295, R296). The notice follows what is written of the save area, and where the state of the slot is lost it holds the PC that stands
there (R294, R304). The windows stay with the slot, those of a thread whose trap has not been entered too (R28). -/
def spillAs (k reason : Nat) (lost : Bool) : Act Unit := do
  let s ← look
  match s.thread? k with
  | none => pure ()
  | some t =>
    breakTiming k
    forEach (ownReqs s k) withdrawReq
    let wait ← match t.status with
      | .parked w => do withdrawWait k w; pure (some w)
      | _ => pure none
    -- a precise trap that has not been entered is raised again by its instruction, unless its entry waits on a page fault, whose answer goes on with it (R149)
    let back := match t.entering with
      | some r => if r.deferred || s.faults.any (fun f => f.who = Faulter.trapRecord k) then none else some r
      | none => none
    modThread k (fun t => { (match back with | some r => { t.setPc r.epc with entering := none } | none => t) with
      status := .spilled, spill := some ⟨reason, wait⟩, waitSince := none })
    if lost then writeLostArea k else writeSaveArea k reason
    let s ← look
    match s.thread? k with
    | none => pure ()
    | some t => notice k (tidOf k t) reason ((saveArea s k).getD 0) t.ctx (if lost then BitVec.ofNat 64 (peekSave s k 0 8) else t.pc)

/-- A spill of a thread whose slot's state is whole. -/
def spillThread (k reason : Nat) : Act Unit := spillAs k reason false

/-- Stops a thread with a reason; in the runner slot the handler ends as by `QUIT`, and the notice holds the PC at which it stopped (R293, R295). -/
def stopAs (k reason : Nat) (pc : Word) (lost : Bool) : Act Unit := do
  if isRunner k then
    match (← look).thread? k with
    | none => pure ()
    | some t =>
      modThread k (fun t => { t with status := .waiting .quit, entering := none })
      notice k (tidOf k t) reason 0 t.ctx pc
  else spillAs k reason lost

/-- A stop of a thread whose slot's state is whole. -/
def stopThread (k reason : Nat) (pc : Word) : Act Unit := stopAs k reason pc false

/-! ### Taking an exception (R286-R290) -/

/-- Cause codes (R288). -/
def Cause.code : Cause → Nat
  | .illegal => 1
  | .lookahead => 2
  | .protection => 3
  | .align => 4
  | .waitExpired => 5
  | .parkExhausted => 6
  | .malformedMetadata => 7
  | .structFault => 8
  | .runnerWait => 9
  | .div0 => 10
  | .brk => 11
  | .machineCheck => 12
  | .soft => 13

/-- The trap record (R287). (DEDUCED: log 20) -/
def trapRecord (k : Nat) (t : Thread) (r : TrapReq) (cycle : Nat) : Nat :=
  r.epc.toNat + (r.resume.getD t.pc).toNat * 2 ^ 64 + r.addr.toNat * 2 ^ 128 + (t.readS 13).toNat * 2 ^ 192 + t.predWord.toNat * 2 ^ 256
    + r.cause.code * 2 ^ 272 + (bit r.held 3 + bit (isRunner k) 2 + bit r.wide 1 + bit r.deferred 0) * 2 ^ 280 + r.insn.toNat * 2 ^ 288
    + r.info.toNat * 2 ^ 320 + cycle % 2 ^ 64 * 2 ^ 384

/-- Writebacks that trap entry waits for: those to s13 and to the predicates, tokens included (R286). -/
def entryWaits (t : Thread) : Bool := t.pending.meets { s := 0x2000, p := 0xFFFF }

/-- Accesses that go before the record's stores: earlier ones to its words, and acquires (R153, R187). -/
def recordWaits (s : State) (k : Nat) (t : Thread) : Bool := barred s k t [(t.traprec.toNat, 64)]

/-- A word at a memory key that is reached at an address, among the `n / 8` words from it on, is reserved, which holds a store of them (R167). -/
def reservedAt (s : State) (va key n : Nat) : Bool := (pieceWords key n).any (fun w => reserved s (holdKey va w))

/-- The rest of trap entry once the record is written, or the stop of an undeliverable trap (R286, R290). The windows that entry closes close here, since a spill while the entry waits finds the
trap not taken (R27, R28). A precise trap leaves the PC at the instruction it names. (DEDUCED: log 21) -/
def enterHandler (k : Nat) (r : TrapReq) (reason : Option Nat) : Act Unit := do
  modThread k (fun t => { (if r.deferred then t else t.setPc r.epc) with entering := none, status := .active, waitSince := none, windows := [] })
  match reason with
  | some n => stopThread k n (if isRunner k then r.epc else 0)
  | none =>
    modThread k (fun t =>
      let u := (t.writeS 13 t.traprec).setPc t.trapvec
      { u with intrap := true })

/-- Taking an exception: the one operation by which every trap is taken (R286, R290). `refused` says that a convert answer has ended a page fault on the record. (DEDUCED: log 19) -/
def enterTrap (k : Nat) (r : TrapReq) (refused : Bool) : Act Unit := do
  breakTiming k
  let s ← look
  match s.thread? k with
  | none => pure ()
  | some t =>
    let wait := modThread k (fun t => { t with entering := some r, status := .waiting .trapEntry })
    let a := t.traprec.toNat
    let early : Option Nat := if t.trapvec = 0 then some 3 else if t.intrap && !r.deferred then some 2 else none
    if entryWaits t then wait
    else if refused || !canonical a || a % 64 ≠ 0 then enterHandler k r (some (early.getD 4))
    else if recordWaits s k t then wait
    else
      match ← reach t.ctx (some (tileOf k)) a { write := true } with
      | .error (.pageFault c) =>
        if early.isSome then enterHandler k r early
        else do
          modThread k (fun t => { t with entering := some r, status := .active })
          addFault ⟨faultDie a, a, tidOf k t, 1, c, t.ctx, r.epc, .trapRecord k, 0⟩
          parkOnFault k
      | .error _ => enterHandler k r (some (early.getD 4))
      | .ok (key, _) =>
        if reservedAt (← look) a key 64 then wait
        else if spoiled (← look) key 64 then enterHandler k r (some (early.getD 4))
        else do
        let x := trapRecord k t r (coreCycle s (tileOf k))
        poke key 64 x
        if inWindow a then pure () else do
          l1Update (coreOf k) t.ctx a 32 (x % 2 ^ 256)
          l1Update (coreOf k) t.ctx (a + 32) 32 (x / 2 ^ 256)
        enterHandler k r early

/-- The trap that a thread takes at its next issue point, and the thread with that trap removed from what it keeps (R289). Outside a handler it is the oldest held trap, else the earliest
deferred one; every other deferred trap that is due is held, and a precise one that is due with it is raised again by its instruction. In a handler deferred traps are held, and a
precise one is taken. -/
def nextTrap (t : Thread) : Option TrapReq × Thread :=
  let traps := (byKey t.due).map (·.2)
  let late := (traps.filter (·.deferred))
  let early := traps.filter (!·.deferred)
  let hold (l : List TrapReq) := l.map (fun x => { x with held := true })
  let back (u : Thread) : Thread := match early with | r :: _ => u.setPc r.epc | [] => u
  if t.intrap then (early.head?, { t with due := [], heldTraps := t.heldTraps ++ hold late })
  else
    match t.heldTraps, late, early with
    | r :: rest, _, _ => (some r, back { t with due := [], heldTraps := rest ++ hold late })
    | [], r :: rest, _ => (some r, back { t with due := [], heldTraps := hold rest })
    | [], [], r :: _ => (some r, { t with due := [] })
    | [], [], [] => (none, t)

/-! ### Returning from an exception (R292) -/

/-- The three fields that `ERET` reads, as plain loads; the first that is refused decides (R292). -/
def readRecord (ctx core a : Nat) : Act (Except (Nat × Denied) (Nat × Nat × Nat)) := do
  match ← readPieces ctx core [(a + 8, 8), (a + 24, 8), (a + 32, 2)] with
  | .error e => return .error e
  | .ok l => return .ok ((l.map (·.1)).getD 0 0, (l.map (·.1)).getD 1 0, (l.map (·.1)).getD 2 0)

/-- `ERET` reads RESUME, S13 and PRED; a page fault parks the thread, and a failed read stops it with NOREC, its PC still at the `ERET` (R292). An error in the data is reported (R304), and a
record in the shared space breaks the timing of a fixed-timing thread (R277). -/
def returnFromTrap (k : Nat) (refused : Bool) : Act Unit := do
  settleOwed k
  match (← look).thread? k with
  | none => pure ()
  | some t =>
    let a := t.traprec.toNat
    let bad := do
      modThread k (fun t => { t with status := .active })
      stopThread k 4 t.pc
    if refused || !canonical a || a % 64 ≠ 0 then bad
    else do
      if inWindow a then pure () else breakTiming k
      match ← readRecord t.ctx (coreOf k) a with
      | .error (va, .pageFault c) => do
        addFault ⟨faultDie a, va, tidOf k t, 0, c, t.ctx, t.pc, .eret k, 0⟩
        parkOnFault k
      | .error (va, .machineCheck src) => do
        machineReport src va
        bad
      | .error _ => bad
      | .ok (resume, s13, pred) =>
        modThread k (fun t =>
          let u := ((t.setPc (BitVec.ofNat 64 resume)).writeS 13 (BitVec.ofNat 64 s13)).setPredWord (BitVec.ofNat 16 pred)
          { u with intrap := false, status := .active })

/-- Reads of the record that `ERET` must let pass first (R153, R187). -/
def eretWaits (s : State) (k : Nat) (t : Thread) : Bool := barred s k t [(t.traprec.toNat, 64)]

/-! ### Issue -/

/-- What the issue of an instruction checks before its own rule. -/
structure Form where
  guard : Guard := ⟨0, false⟩
  /-- Its length in bytes. -/
  len : Nat := 4
  /-- The registers it reads and writes, in the thread's vector mode. -/
  uses : Thread → Touch := fun _ => {}
  /-- Its vector register fields: in SHORT mode one of 8 or more is ILLEGAL (R36). -/
  vectors : List (BitVec 4) := []
  /-- Its vector fields name v0-v7 only, and it is ILLEGAL in LONG mode (R219, R353). -/
  short : Bool := false
  /-- It executes on core 3 only, and sends a thread of another core there (R62). -/
  core3 : Bool := false

/-- Where an instruction that issued leaves the PC. -/
inductive Flow where
  /-- After itself (R14). -/
  | seq
  /-- At a target. -/
  | jump (pc : Word)
  /-- At itself, while its thread waits. -/
  | hold
  deriving DecidableEq, Repr

/-- The guard condition (R21). -/
def guardHolds (g : Guard) (t : Thread) : Bool := t.readP g.p ^^ g.neg

/-- Stalls or traps for a register that an incomplete operation will write (R25-R28, R73). -/
def clear (t : Thread) (x : Touch) : Act Unit := do
  match t.violated x with
  | some w => if t.fixed then raise .lookahead w.pc else stop (.stall .scoreboard)
  | none => if t.pending.meets x then stop (.stall .scoreboard) else pure ()

/-- Hardware migration to core 3 of the tile: the thread leaves when its writebacks have drained (R62). -/
def leaveForCore3 (k : Nat) (t : Thread) : Act Unit := do
  let s ← look
  emit (.thread k (some { t with status := .leaving ⟨coreOf k / 4 * 4 + 3, true, t.pc, s.insn, 0, none, none⟩, lastIssue := s.cycle }))

/-- The issue of an instruction: mode, guard, windows and scoreboard, hardware migration, its own rule, and the PC (R14, R21-R28, R37, R62, R73). The vector mode and the vector fields
are checked where the instruction is decoded, before its thread moves to core 3 (R37, R62, R144). (DEDUCED: log 45) -/
def plan (f : Form) (body : Nat → Thread → Act Flow) : Act Unit := do
  let s ← look
  let t ← current
  if t.status ≠ .active || t.forfeits ≠ 0 then stop (.refused .noThread)
  if t.blocked then stop (.stall .scoreboard)
  let away := f.core3 && decide (roleOf s.cur ≠ 3)
  if (t.long && f.short) || ((!t.long || f.short) && f.vectors.any (fun v => v.toNat ≥ 8)) then raise .illegal 0
  clear t (touchP f.guard.p)
  if !guardHolds f.guard t then
    emit (.thread s.cur (some { t.ticked.advance f.len s.cycle with word := s.insn }))
  else do
    clear t (f.uses t)
    if away then
      if isRunner s.cur then raise .runnerWait 0 else leaveForCore3 s.cur t
    else do
      let u := { t.ticked with word := s.insn }
      emit (.thread s.cur (some u))
      match ← body s.cur u with
      | .seq => modThread s.cur (fun t => t.advance f.len s.cycle)
      | .jump pc => modThread s.cur (fun t => { t.setPc pc with lastIssue := s.cycle, waitSince := none })
      | .hold => modThread s.cur (fun t => { t with lastIssue := s.cycle })

/-- The thread forfeits its next n own turns, and takes no passed turn before the own turn after them (R96, R111, R129). -/
def forfeit (k n : Nat) : Act Unit := if n = 0 then pure () else modThread k (fun t => { t with forfeits := n + 1 })

/-- The thread waits instead of issuing (R44, R47). -/
def stallThread (w : Wait) : Act Unit := do
  let s ← look
  modThread s.cur (fun t => { t with status := .waiting w, waitSince := some (t.waitFrom (.waiting w) (coreCycle s (tileOf s.cur))), word := s.insn })

/-- The outcome of an instruction's turn: its effects, a precise trap taken, or its thread waiting. -/
def issue (f : Form) (body : Nat → Thread → Act Flow) (s : State) : Host.Outcome State Fault Refusal :=
  match (plan f body).from s with
  | .ok (_, x) => .next (replay x.log s)
  | .error (.fault e) => .fault e
  | .error (.refused e) => .refused e
  | .error (.trap r) => commit "TRAP_ENTRY" (enterTrap s.cur r false) s
  | .error (.stall w) => commit "WRITEBACK" (stallThread w) s

/-- A long-latency operation issues: it becomes pending and opens its window (R23). Its flags, if it is an engine command, are pending outside the window (R226). -/
def openOp (k : Nat) (dest extra : Touch) (la : BitVec 4) : Act Nat := do
  let id ← freshId
  let s ← look
  modThread k (fun t => { t with
    ops := t.ops ++ [{ id := id, pc := t.pc, insn := s.insn, wide := isWide s.insn, dest := dest.union extra, token := false, longLatency := true, la := la.toNat, later := false,
                       issued := s.cycle, result := none }]
    windows := t.windows ++ [⟨id, t.pc, la.toNat, dest⟩] })
  return id

/-- An operation that opens no window becomes pending (R344). -/
def openQuiet (k : Nat) (dest : Touch) : Act Nat := do
  let id ← freshId
  let s ← look
  modThread k (fun t => { t with
    ops := t.ops ++ [{ id := id, pc := t.pc, insn := s.insn, wide := isWide s.insn, dest := dest, token := false, longLatency := false, la := 0, later := false, issued := s.cycle, result := none }] })
  return id

end Sys2Proof.Machine
end

