-- ==== Sys2Proof/Machine/Operands.lean ====
section
/-!
DEFINITION. Operand forms: condition codes (R84), shifts (R80), lanes (R82, R113), memory offsets (R19), element codes with their scales and headers (R92, R97-R102), and the
integer conversions (R108).
-/

namespace Sys2Proof.Machine

/-! ### Conditions and shifts -/

/-- The condition codes of R84 on values of one width; codes 12 to 15 are not assigned. -/
def condition {w : Nat} (cc : BitVec 4) (a b : BitVec w) : Bool :=
  match cc.toNat with
  | 0 => a == b
  | 1 => a != b
  | 2 => BitVec.slt a b
  | 3 => BitVec.sle b a
  | 4 => BitVec.slt b a
  | 5 => BitVec.sle a b
  | 6 => BitVec.ult a b
  | 7 => BitVec.ule b a
  | 8 => BitVec.ult b a
  | 9 => BitVec.ule a b
  | 10 => a &&& b != 0
  | 11 => a &&& b == 0
  | _ => false

/-- Logical shift left by n; a shift by the width or more gives 0 (R80, R83). -/
def shiftLeft {w : Nat} (a : BitVec w) (n : Nat) : BitVec w := if w ≤ n then 0 else a <<< n
/-- Logical shift right by n. -/
def shiftRight {w : Nat} (a : BitVec w) (n : Nat) : BitVec w := if w ≤ n then 0 else a >>> n
/-- Arithmetic shift right by n. -/
def shiftSigned {w : Nat} (a : BitVec w) (n : Nat) : BitVec w := if w ≤ n then (if a.msb then BitVec.allOnes w else 0) else a.sshiftRight n
/-- Rotate left by n mod 64 (R80). -/
def rotate (a : Word) (n : Nat) : Word := a.rotateLeft (n % 64)

/-- Lesser or greater of two, signed or unsigned (R78). -/
def minMax {w : Nat} (max unsigned : Bool) (a b : BitVec w) : BitVec w :=
  let below := if unsigned then BitVec.ult a b else BitVec.slt a b
  if below then (if max then b else a) else (if max then a else b)

/-- Count of ones among the low n bits. -/
def countOnes {w : Nat} (a : BitVec w) : Nat → Nat
  | 0 => 0
  | n + 1 => countOnes a n + (if a.getLsbD n then 1 else 0)

/-- Zero bits above the highest 1 of the low n bits. -/
def leadingZeros {w : Nat} (a : BitVec w) : Nat → Nat
  | 0 => 0
  | n + 1 => if a.getLsbD n then 0 else 1 + leadingZeros a n

/-- Zero bits below the lowest 1, counted from bit w − n up. -/
def trailingZeros {w : Nat} (a : BitVec w) : Nat → Nat
  | 0 => 0
  | n + 1 => if a.getLsbD (w - (n + 1)) then 0 else 1 + trailingZeros a n

/-- Bytes reversed (R78). -/
def swapBytes (a : Word) : Word :=
  (List.range 8).foldl (fun (x : Word) j => x ||| ((a >>> (8 * j)) &&& 0xFF) <<< (8 * (7 - j))) 0

/-! ### Lanes -/

/-- Lane i of w bits (R82, R113). -/
def lane {n : Nat} (w : Nat) (x : BitVec n) (i : Nat) : BitVec w := x.extractLsb' (w * i) w

/-- Lanes joined, lane 0 lowest. -/
def joinLanes (w : Nat) : List (BitVec w) → Nat
  | [] => 0
  | x :: r => x.toNat + 2 ^ w * joinLanes w r

/-- A register rebuilt from a function of its lane number. -/
def mapLanes (n w : Nat) (f : Nat → BitVec w) : BitVec n := BitVec.ofNat n (joinLanes w ((List.range (n / w)).map f))

/-- Lane width of a W field (R82, R116). -/
def laneWidth (w : BitVec 2) : Nat := 8 * 2 ^ w.toNat

/-- The format of a T field (R110, R118). -/
def typeFmt (t : BitVec 2) : FloatFmt := if t = 0 then fmtF32 else if t = 1 then fmtBf16 else if t = 2 then fmtF16 else fmtF64

/-! ### Memory operands -/

/-- An OFF4 field: the whole of e7, or a scaled signed offset (R19). -/
def offset4 (t : Thread) (off : BitVec 4) (size : Nat) : Word :=
  if off = 8 then t.readE 7 else off.signExtend 64 * BitVec.ofNat 64 size

/-! ### Element codes (R90, R92) -/

/-- Bits of an element code. -/
def codeBits (c : Nat) : Nat :=
  match c with
  | 0 => 32 | 1 => 16 | 2 => 16 | 3 => 8 | 4 => 8 | 5 => 6 | 6 => 6 | 7 => 4 | 8 => 8 | 9 => 4 | 10 => 8 | 11 => 4 | 12 => 64 | 13 => 64 | 14 => 64 | _ => 32

/-- The floating format of a code. -/
def codeFmt (c : Nat) : Option FloatFmt :=
  match c with
  | 0 => some fmtF32 | 1 => some fmtBf16 | 2 => some fmtF16 | 3 => some fmtE4m3 | 4 => some fmtE5m2 | 5 => some fmtE3m2 | 6 => some fmtE2m3
  | 7 => some fmtE2m1 | 12 => some fmtF64 | _ => none

/-- Range of an integer code. -/
def codeRange (c : Nat) : Int × Int :=
  match c with
  | 8 => (-128, 127)
  | 9 => (-8, 7)
  | 13 => (-(2 ^ 63), 2 ^ 63 - 1)
  | 14 => (0, 2 ^ 64 - 1)
  | _ => (-(2 ^ 31), 2 ^ 31 - 1)

/-- A number of n bits read as two's complement. -/
def signedOf (n x : Nat) : Int := if 2 ^ (n - 1) ≤ x % 2 ^ n then (x % 2 ^ n : Int) - 2 ^ n else (x % 2 ^ n : Int)

/-- An integer in n bits. -/
def wrapInt (n : Nat) (i : Int) : Nat := (i % (2 ^ n : Int)).toNat

/-! ### Scales and headers (R97-R99, R103) -/

/-- What stands over an element: no scale, a scale's value, or a DBF header. -/
inductive Cover where
  | none
  | scale (q : Q)
  | zeroScale
  | nanScale
  | header (hi lo : Nat)
  deriving DecidableEq, Repr

/-- A scale byte of a SKIND: 1 E8M0, 2 UE4M3 (R97). -/
def scaleOf (skind code : Nat) : Cover :=
  match skind with
  | 1 => if code % 256 = 255 then .nanScale else .scale (Q.pow2 ((code % 256 : Nat) - 127))
  | 2 =>
    if 128 ≤ code % 256 then .nanScale
    else match fmtE4m3.decode (code % 128) with
      | .num q => .scale q
      | .zero _ => .zeroScale
      | _ => .nanScale
  | _ => .none

/-- The step of a DBF element: mantissa bits, offset of the exponent, gap (R100, R101). -/
def dbfShape (c : Nat) : Nat × Nat × Nat := if c = 10 then (63, 132, 4) else (3, 128, 2)

/-- The value of a DBF element under a header (R100). -/
def dbfDecode (c x hi lo : Nat) : Val :=
  let (mmax, off, _) := dbfShape c
  let mb := if mmax = 63 then 6 else 2
  let m := x % 2 ^ mb
  let neg := x / 2 ^ mb % 2 = 1
  let e := if x / 2 ^ (mb + 1) % 2 = 1 then hi else lo
  if hi = 255 then .nan false false
  else if m = 0 then .zero neg
  else
    let q := Q.scale (Q.ofNat m) ((e : Int) - off)
    .num (if neg then q.neg else q)

/-- The value of an element code without its cover. -/
def plainDecode (c x : Nat) : Val :=
  match codeFmt c with
  | some f => f.decode x
  | none =>
    let i : Int := if c = 14 then (x % 2 ^ 64 : Nat) else signedOf (codeBits c) x
    if i = 0 then .zero false else .num (Q.ofInt i)

/-- decode(c, e, S) with the flags it raises (R98, R100). A NaN that is decoded under a scale, by a NaN scale or in a NaN block has the sign + where it is encoded again.
(DEDUCED: log 63) -/
def decodeElem (c x : Nat) (s : Cover) : Val × Flags :=
  match s with
  | .header hi lo => (dbfDecode c x hi lo, 0)
  | .none => if 10 ≤ c ∧ c ≤ 11 then (dbfDecode c x 0 0, 0) else let v := plainDecode c x; (v, flagIf v.isSignalling flagNV)
  | .scale q =>
    match plainDecode c x with
    | .nan sig _ => (.nan false false, flagIf sig flagNV)
    | .inf n => (.inf n, 0)
    | .zero n => (.zero n, 0)
    | .num p => (.num (Q.mul p q), 0)
  | .zeroScale =>
    match plainDecode c x with
    | .nan sig _ => (.nan false false, flagIf sig flagNV)
    | .inf _ => (.nan false false, flagNV)
    | .zero n => (.zero n, 0)
    | .num p => (.zero p.isNeg, 0)
  | .nanScale => (.nan false false, flagIf (plainDecode c x).isSignalling flagNV)

/-- round_sat into codes 3 to 9 (R93, R95, R108). -/
def roundSatCode (c : Nat) (v : Val) : Nat × Flags :=
  match codeFmt c with
  | some f => roundSat f v
  | none =>
    let (lo, hi) := codeRange c
    let (i, f) := roundInteger 0 lo hi v
    (wrapInt (codeBits c) i, f)

/-- encode_sat(c, x, S) (R99). -/
def encodeSat (c : Nat) (v : Val) (s : Cover) : Nat × Flags :=
  match s with
  | .scale q =>
    roundSatCode c (match v with | .num p => .num (Q.div p q) | x => x)
  | .zeroScale =>
    match v with
    | .num p => roundSatCode c (.zero p.isNeg)
    | .zero n => roundSatCode c (.zero n)
    | _ =>
      let (x, f) := roundSatCode c (.nan v.isSignalling v.isNeg)
      (x, f ||| flagNV)
  | .nanScale => roundSatCode c (.nan v.isSignalling v.isNeg)
  | _ => roundSatCode c v

/-- round_ne of a non-negative number to an integer. -/
def roundNe (q : Q) : Nat := (roundUnit 0 false q 0).1

/-- dbf_one(c, x, E_hi, E_lo) (R102). -/
def dbfOne (c : Nat) (v : Val) (hi lo : Nat) : Nat × Flags :=
  let (mmax, off, _) := dbfShape c
  let mb := if mmax = 63 then 6 else 2
  let pack (sel : Bool) (neg : Bool) (m : Nat) : Nat := (if sel then 2 ^ (mb + 1) else 0) + (if neg then 2 ^ mb else 0) + m
  if hi = 255 || !v.isFinite then (pack true v.isNeg 0, flagNV)
  else
    let a := v.toQ.abs
    let try_ (e : Nat) : Nat × Nat × Q :=
      let u := roundNe (Q.scale a (off - (e : Int)))
      let q := Nat.min u mmax
      (u, q, Q.abs (Q.sub a (Q.scale (Q.ofNat q) ((e : Int) - off))))
    let (uh, qh, eh) := try_ hi
    let (_, ql, el) := try_ lo
    let sel := Q.le eh el
    let err := if sel then eh else el
    (pack sel v.isNeg (if sel then qh else ql), flagIf (decide (mmax < uh)) flagOF ||| flagIf (!err.isZero) flagNX)

/-- E_hi of a block whose largest magnitude is a (R101). -/
def dbfHigh (c : Nat) (a : Q) : Nat :=
  let (mmax, off, _) := dbfShape c
  if a.isZero then 0
  else
    let h := Q.log2 a + 127
    let h := if mmax < roundNe (Q.scale a (off - h)) then h + 1 else h
    (min (max h 0) 254).toNat

/-- The elements of a block under E_hi, its header and the flags (R101). -/
def dbfUnder (c hi : Nat) (xs : List Val) : Nat × Nat × List Nat × Flags :=
  let lo := hi - (dbfShape c).2.2
  let es := xs.map (fun v => dbfOne c v hi lo)
  (hi, lo, es.map (·.1), es.foldl (fun f e => f ||| e.2) 0)

/-- A block that holds a NaN or an infinity: a NaN block (R101). -/
def dbfNan (c : Nat) (xs : List Val) : Nat × Nat × List Nat × Flags := (255, 255, xs.map (fun v => (dbfOne c v 255 255).1), flagNV)

/-- dbf_block(c, x) (R101): the header, the elements and the flags. (DEDUCED: log 23) -/
def dbfBlock (c : Nat) (xs : List Val) : Nat × Nat × List Nat × Flags :=
  if xs.any (fun v => !v.isFinite) then dbfNan c xs
  else dbfUnder c (dbfHigh c (xs.foldl (fun m v => Q.max m v.toQ.abs) ⟨0, 1⟩)) xs

/-- Rounds a value into a code for a scalar register (R92, R107, R108): the scale or header stands over codes 3 to 11. -/
def encodeCode (c : Nat) (mode : BitVec 2) (v : Val) (s : Cover) : Word × Flags :=
  match c, s with
  | 10, .header hi lo => let (x, f) := dbfOne 10 v hi lo; (BitVec.ofNat 64 x, f)
  | 11, .header hi lo => let (x, f) := dbfOne 11 v hi lo; (BitVec.ofNat 64 x, f)
  | _, _ =>
    if c ≤ 2 || c = 12 then
      match codeFmt c with
      | some f => let (x, g) := roundIeee f mode v; (BitVec.ofNat 64 x, g)
      | none => (0, 0)
    else if c ≤ 9 then let (x, f) := encodeSat c v s; (BitVec.ofNat 64 x, f)
    else
      let (lo, hi) := codeRange c
      let (i, f) := roundInteger mode lo hi v
      (BitVec.ofInt 64 i, f)

end Sys2Proof.Machine
end

