-- ==== Sys2Proof/Machine/Scalar.lean ====
section
/-!
DEFINITION. The scalar instructions: extension registers (R32-R34), integer arithmetic (R77-R81), packed lanes (R82, R83), comparison and predicates (R84-R86), and the 16-bit forms of
them (R89).
-/

namespace Sys2Proof.Machine

abbrev Step := Host.Outcome State Fault Refusal

/-- An instruction that computes s[D] from s[A] and s[B]. -/
def scalarOp (gd : Guard) (len : Nat) (d a b : BitVec 4) (f : Word → Word → Word) : State → Step :=
  issue { guard := gd, len := len, uses := fun _ => touches [touchS d, touchS a, touchS b] } (fun k t => do
    modThread k (fun u => u.writeS d (f (t.readS a) (t.readS b)))
    return .seq)

/-- The always-true guard. -/
def always : Guard := ⟨0, false⟩

/-- An instruction that computes s[D] from s[A]. -/
def unaryOp (gd : Guard) (len : Nat) (d a : BitVec 4) (f : Word → Word) : State → Step := scalarOp gd len d a 0 (fun x _ => f x)

/-- A division: DIV0 traps, D = 0 included (R79). -/
def divideOp (gd : Guard) (d a b : BitVec 4) (f : Word → Word → Word) : State → Step :=
  issue { guard := gd, uses := fun _ => touches [touchS d, touchS a, touchS b] } (fun k t => do
    require (!(t.readS b == 0 && t.div0)) .div0 0
    modThread k (fun u => u.writeS d (f (t.readS a) (t.readS b)))
    return .seq)

/-- An instruction that computes p[D] from s[A] and s[B]. -/
def compareOp (gd : Guard) (len : Nat) (d a b : BitVec 4) (f : Word → Word → Bool) : State → Step :=
  issue { guard := gd, len := len, uses := fun _ => touches [touchP d, touchS a, touchS b] } (fun k t => do
    modThread k (fun u => u.writeP d (f (t.readS a) (t.readS b)))
    return .seq)

/-- An instruction that computes p[D] from p[A] and p[B] (R86). -/
def predicateOp (gd : Guard) (d a b : BitVec 4) (f : Bool → Bool → Bool) : State → Step :=
  issue { guard := gd, uses := fun _ => touches [touchP d, touchP a, touchP b] } (fun k t => do
    modThread k (fun u => u.writeP d (f (t.readP a) (t.readP b)))
    return .seq)

/-- High half of the signed product (R78). -/
def mulHigh (a b : Word) : Word := BitVec.ofInt 64 (a.toInt * b.toInt / 2 ^ 64)
/-- High half of the unsigned product (R78). -/
def mulHighUnsigned (a b : Word) : Word := BitVec.ofNat 64 (a.toNat * b.toNat / 2 ^ 64)

/-- DIV (R79). -/
def divSigned (a b : Word) : Word := if b = 0 then BitVec.allOnes 64 else BitVec.ofInt 64 (a.toInt.tdiv b.toInt)
/-- DIVN (R79). -/
def divUnsigned (a b : Word) : Word := if b = 0 then BitVec.allOnes 64 else BitVec.ofNat 64 (a.toNat / b.toNat)
/-- REM (R79). -/
def remSigned (a b : Word) : Word := if b = 0 then a else BitVec.ofInt 64 (a.toInt.tmod b.toInt)
/-- REMN (R79). -/
def remUnsigned (a b : Word) : Word := if b = 0 then a else BitVec.ofNat 64 (a.toNat % b.toNat)

/-- A packed instruction (R83). -/
def packedOp (gd : Guard) (d a b : BitVec 4) (w : BitVec 2) (f : (n : Nat) → BitVec n → BitVec n → Word → BitVec n) : State → Step :=
  scalarOp gd 4 d a b (fun x y => mapLanes 64 (laneWidth w) (fun i => f (laneWidth w) (lane (laneWidth w) x i) (lane (laneWidth w) y i) y))

/-- The amount of a packed shift: s[B] mod 256 when broadcast, else the lane mod 256 (R83). -/
def packedAmount {n : Nat} (bc : BitVec 1) (y : BitVec n) (b : Word) : Nat := if bc = 1 then b.toNat % 256 else y.toNat % 256

/-! ### Extension registers (R34) -/

/-- `EXTI`: e[X] := sign-extended IMM20. -/
def execExti (x : BitVec 3) (imm : BitVec 20) (s : State) : Step :=
  issue {} (fun k _ => do
    modThread k (fun u => u.writeE x (imm.signExtend 64))
    return .seq) s

/-- `EXTS`: e[X] := s[A] + sign-extended IMM16. -/
def execExts (a : BitVec 4) (x : BitVec 3) (imm : BitVec 16) (s : State) : Step :=
  issue { uses := fun _ => touchS a } (fun k t => do
    modThread k (fun u => u.writeE x (t.readS a + imm.signExtend 64))
    return .seq) s

/-- `EXTSH`: e[X] := e[X] × 2^20 + IMM20. -/
def execExtsh (x : BitVec 3) (imm : BitVec 20) (s : State) : Step :=
  issue {} (fun k t => do
    modThread k (fun u => u.writeE x (t.readE x <<< 20 + imm.zeroExtend 64))
    return .seq) s

/-- `MOVE`: s[D] := e[X]. -/
def execMove (d : BitVec 4) (x : BitVec 3) (s : State) : Step :=
  issue { uses := fun _ => touchS d } (fun k t => do
    modThread k (fun u => u.writeS d (t.readE x))
    return .seq) s

/-! ### Integer instructions (R78-R80) -/

/-- `ADD` (R78): the sum modulo 2^64. -/
def execAdd (gd : Guard) (d a b : BitVec 4) (s : State) : Step := scalarOp gd 4 d a b (· + ·) s

/-- `SUB` (R78): the difference modulo 2^64. -/
def execSub (gd : Guard) (d a b : BitVec 4) (s : State) : Step := scalarOp gd 4 d a b (· - ·) s

/-- `MUL` (R78): the low half of the product. -/
def execMul (gd : Guard) (d a b : BitVec 4) (s : State) : Step := scalarOp gd 4 d a b (· * ·) s

/-- `MULH` (R78): the high half of the signed product. -/
def execMulh (gd : Guard) (d a b : BitVec 4) (s : State) : Step := scalarOp gd 4 d a b mulHigh s

/-- `MULHN` (R78): the high half of the unsigned product. -/
def execMulhn (gd : Guard) (d a b : BitVec 4) (s : State) : Step := scalarOp gd 4 d a b mulHighUnsigned s

/-- `DIV` (R79): signed quotient, truncated. -/
def execDiv (gd : Guard) (d a b : BitVec 4) (s : State) : Step := divideOp gd d a b divSigned s

/-- `DIVN` (R79): unsigned quotient. -/
def execDivn (gd : Guard) (d a b : BitVec 4) (s : State) : Step := divideOp gd d a b divUnsigned s

/-- `REM` (R79): signed remainder. -/
def execRem (gd : Guard) (d a b : BitVec 4) (s : State) : Step := divideOp gd d a b remSigned s

/-- `REMN` (R79): unsigned remainder. -/
def execRemn (gd : Guard) (d a b : BitVec 4) (s : State) : Step := divideOp gd d a b remUnsigned s

/-- `AND` (R78): bitwise AND. -/
def execAnd (gd : Guard) (d a b : BitVec 4) (s : State) : Step := scalarOp gd 4 d a b (· &&& ·) s

/-- `OR` (R78): bitwise OR. -/
def execOr (gd : Guard) (d a b : BitVec 4) (s : State) : Step := scalarOp gd 4 d a b (· ||| ·) s

/-- `XOR` (R78): bitwise XOR. -/
def execXor (gd : Guard) (d a b : BitVec 4) (s : State) : Step := scalarOp gd 4 d a b (· ^^^ ·) s

/-- `ANDN` (R78): AND with the complement. -/
def execAndn (gd : Guard) (d a b : BitVec 4) (s : State) : Step := scalarOp gd 4 d a b (fun x y => x &&& ~~~y) s

/-- `SHL` (R80): logical shift left. -/
def execShl (gd : Guard) (d a b : BitVec 4) (s : State) : Step := scalarOp gd 4 d a b (fun x y => shiftLeft x (y.toNat % 256)) s

/-- `SHR` (R80): logical shift right. -/
def execShr (gd : Guard) (d a b : BitVec 4) (s : State) : Step := scalarOp gd 4 d a b (fun x y => shiftRight x (y.toNat % 256)) s

/-- `SAR` (R80): arithmetic shift right. -/
def execSar (gd : Guard) (d a b : BitVec 4) (s : State) : Step := scalarOp gd 4 d a b (fun x y => shiftSigned x (y.toNat % 256)) s

/-- `ROL` (R80): rotate left. -/
def execRol (gd : Guard) (d a b : BitVec 4) (s : State) : Step := scalarOp gd 4 d a b (fun x y => rotate x (y.toNat % 256)) s

/-- `MIN` (R78): signed minimum. -/
def execMin (gd : Guard) (d a b : BitVec 4) (s : State) : Step := scalarOp gd 4 d a b (minMax false false) s

/-- `MAX` (R78): signed maximum. -/
def execMax (gd : Guard) (d a b : BitVec 4) (s : State) : Step := scalarOp gd 4 d a b (minMax true false) s

/-- `MINN` (R78): unsigned minimum. -/
def execMinn (gd : Guard) (d a b : BitVec 4) (s : State) : Step := scalarOp gd 4 d a b (minMax false true) s

/-- `MAXN` (R78): unsigned maximum. -/
def execMaxn (gd : Guard) (d a b : BitVec 4) (s : State) : Step := scalarOp gd 4 d a b (minMax true true) s

/-- `CLZ` (R78): leading zeros. -/
def execClz (gd : Guard) (d a : BitVec 4) (s : State) : Step := unaryOp gd 4 d a (fun x => BitVec.ofNat 64 (leadingZeros x 64)) s

/-- `CTZ` (R78): trailing zeros. -/
def execCtz (gd : Guard) (d a : BitVec 4) (s : State) : Step := unaryOp gd 4 d a (fun x => BitVec.ofNat 64 (trailingZeros x 64)) s

/-- `POP` (R78): ones. -/
def execPop (gd : Guard) (d a : BitVec 4) (s : State) : Step := unaryOp gd 4 d a (fun x => BitVec.ofNat 64 (countOnes x 64)) s

/-- `BREV` (R78): bits reversed. -/
def execBrev (gd : Guard) (d a : BitVec 4) (s : State) : Step := unaryOp gd 4 d a BitVec.reverse s

/-- `BSWAP` (R78): bytes reversed. -/
def execBswap (gd : Guard) (d a : BitVec 4) (s : State) : Step := unaryOp gd 4 d a swapBytes s

/-- `SEL` (R78): s[A] if p[k], else s[B]. -/
def execSel (gd : Guard) (d a b k : BitVec 4) (s : State) : Step :=
  issue { guard := gd, uses := fun _ => touches [touchS d, touchS a, touchS b, touchP k] } (fun n t => do
    modThread n (fun u => u.writeS d (if t.readP k then t.readS a else t.readS b))
    return .seq) s

/-! ### Immediates (R81) -/

/-- `ADDI` (R81). -/
def execAddi (gd : Guard) (d a : BitVec 4) (imm : BitVec 12) (s : State) : Step := unaryOp gd 4 d a (· + imm.signExtend 64) s

/-- `ANDI` (R81). -/
def execAndi (gd : Guard) (d a : BitVec 4) (imm : BitVec 12) (s : State) : Step := unaryOp gd 4 d a (· &&& imm.signExtend 64) s

/-- `ORI` (R81). -/
def execOri (gd : Guard) (d a : BitVec 4) (imm : BitVec 12) (s : State) : Step := unaryOp gd 4 d a (· ||| imm.signExtend 64) s

/-- `XORI` (R81). -/
def execXori (gd : Guard) (d a : BitVec 4) (imm : BitVec 12) (s : State) : Step := unaryOp gd 4 d a (· ^^^ imm.signExtend 64) s

/-- `SHLI` (R81). -/
def execShli (gd : Guard) (d a : BitVec 4) (imm : BitVec 8) (s : State) : Step := unaryOp gd 4 d a (fun x => shiftLeft x imm.toNat) s

/-- `SHRI` (R81). -/
def execShri (gd : Guard) (d a : BitVec 4) (imm : BitVec 8) (s : State) : Step := unaryOp gd 4 d a (fun x => shiftRight x imm.toNat) s

/-- `SARI` (R81). -/
def execSari (gd : Guard) (d a : BitVec 4) (imm : BitVec 8) (s : State) : Step := unaryOp gd 4 d a (fun x => shiftSigned x imm.toNat) s

/-- `ROLI` (R81). -/
def execRoli (gd : Guard) (d a : BitVec 4) (imm : BitVec 8) (s : State) : Step := unaryOp gd 4 d a (fun x => rotate x imm.toNat) s

/-! ### Packed lanes (R83) -/

/-- `PADD` (R83). -/
def execPadd (gd : Guard) (d a b : BitVec 4) (w : BitVec 2) (s : State) : Step := packedOp gd d a b w (fun _ x y _ => x + y) s

/-- `PSUB` (R83). -/
def execPsub (gd : Guard) (d a b : BitVec 4) (w : BitVec 2) (s : State) : Step := packedOp gd d a b w (fun _ x y _ => x - y) s

/-- `PMUL` (R83). -/
def execPmul (gd : Guard) (d a b : BitVec 4) (w : BitVec 2) (s : State) : Step := packedOp gd d a b w (fun _ x y _ => x * y) s

/-- `PMIN` (R83). -/
def execPmin (gd : Guard) (d a b : BitVec 4) (w : BitVec 2) (ns : BitVec 1) (s : State) : Step := packedOp gd d a b w (fun _ x y _ => minMax false (ns == 1) x y) s

/-- `PMAX` (R83). -/
def execPmax (gd : Guard) (d a b : BitVec 4) (w : BitVec 2) (ns : BitVec 1) (s : State) : Step := packedOp gd d a b w (fun _ x y _ => minMax true (ns == 1) x y) s

/-- `PSHL` (R83). -/
def execPshl (gd : Guard) (d a b : BitVec 4) (w : BitVec 2) (bc : BitVec 1) (s : State) : Step := packedOp gd d a b w (fun _ x y n => shiftLeft x (packedAmount bc y n)) s

/-- `PSHR` (R83). -/
def execPshr (gd : Guard) (d a b : BitVec 4) (w : BitVec 2) (bc : BitVec 1) (s : State) : Step := packedOp gd d a b w (fun _ x y n => shiftRight x (packedAmount bc y n)) s

/-- `PSAR` (R83). -/
def execPsar (gd : Guard) (d a b : BitVec 4) (w : BitVec 2) (bc : BitVec 1) (s : State) : Step := packedOp gd d a b w (fun _ x y n => shiftSigned x (packedAmount bc y n)) s

/-! ### Comparison and predicates (R85, R86) -/

/-- `CMP` (R85). -/
def execCmp (gd : Guard) (d a b cc : BitVec 4) (s : State) : Step := compareOp gd 4 d a b (condition cc) s

/-- `CMPI` (R85): the immediate is sign-extended, under unsigned conditions too. -/
def execCmpi (gd : Guard) (d a cc : BitVec 4) (imm : BitVec 8) (s : State) : Step := compareOp gd 4 d a 0 (fun x _ => condition cc x (imm.signExtend 64)) s

/-- `PAND` (R86). -/
def execPand (gd : Guard) (d a b : BitVec 4) (s : State) : Step := predicateOp gd d a b (· && ·) s

/-- `POR` (R86). -/
def execPor (gd : Guard) (d a b : BitVec 4) (s : State) : Step := predicateOp gd d a b (· || ·) s

/-- `PXOR` (R86). -/
def execPxor (gd : Guard) (d a b : BitVec 4) (s : State) : Step := predicateOp gd d a b (· ^^ ·) s

/-- `PNOT` (R86). -/
def execPnot (gd : Guard) (d a : BitVec 4) (s : State) : Step := predicateOp gd d a 0 (fun x _ => !x) s

/-! ### 16-bit forms (R89) -/

/-- `C.MOV`: `OR sD, sA, s0`. -/
def execCMov (d a : BitVec 4) (s : State) : Step := scalarOp always 2 d a 0 (· ||| ·) s

/-- `C.ADD`: `ADD sD, sD, sA`. -/
def execCAdd (d a : BitVec 4) (s : State) : Step := scalarOp always 2 d d a (· + ·) s

/-- `C.SUB`: `SUB sD, sD, sA`. -/
def execCSub (d a : BitVec 4) (s : State) : Step := scalarOp always 2 d d a (· - ·) s

/-- `C.ADDI`: `ADDI sD, sD, imm`. -/
def execCAddi (d : BitVec 4) (imm : BitVec 7) (s : State) : Step := unaryOp always 2 d d (· + imm.signExtend 64) s

/-- `C.LDI`: `ADDI sD, s0, imm`. -/
def execCLdi (d : BitVec 4) (imm : BitVec 7) (s : State) : Step := unaryOp always 2 d 0 (· + imm.signExtend 64) s

/-- `C.CMP`: `CMPI.cond pD, sA, 0`; its six codes are the first six of R84. -/
def execCCmp (d a : BitVec 4) (cc : BitVec 3) (s : State) : Step := compareOp always 2 d a 0 (fun x _ => condition (cc.zeroExtend 4) x 0) s

/-- `C.SHLI`: `SHLI sD, sD, n`. -/
def execCShli (d : BitVec 4) (imm : BitVec 7) (s : State) : Step := unaryOp always 2 d d (fun x => shiftLeft x imm.toNat) s

/-- `C.NOP`: `ADDI s0, s0, 0`. -/
def execCNop (s : State) : Step := unaryOp always 2 0 0 (· + 0) s

end Sys2Proof.Machine
end

