-- ==== Sys2Proof/Machine/Float.lean ====
section
/-!
DEFINITION. Scalar floating point (R110-R112), the shared normaliser (R96), and the conversions `CVT` and `FCLASS` (R106-R109).
-/

namespace Sys2Proof.Machine

/-- The floating operations that give a number. -/
inductive FloatOp where
  | add | sub | mul | fma | div | sqrt | min | max
  deriving DecidableEq, Repr

/-- The exact result of an operation on a, b and the addend c, with the flags of the operation itself (R111, R112). -/
def FloatOp.exact (op : FloatOp) (mode : BitVec 2) (a b c : Val) : Val × Flags :=
  match op with
  | .add => addVal mode a b
  | .sub => addVal mode a b.neg
  | .mul => mulVal a b
  | .fma => fmaVal mode a b c
  | .div => divVal a b
  | .sqrt => sqrtVal a
  | .min => minMaxVal false a b
  | .max => minMaxVal true a b

/-- One lane of an operation on codes: the code of the result, the flags, and whether the shared normaliser serves it (R96). -/
def floatLane (op : FloatOp) (f : FloatFmt) (mode : BitVec 2) (x y z : Nat) : Nat × Flags × Bool :=
  let (v, fl) := op.exact mode (f.decode x) (f.decode y) (f.decode z)
  let (r, g) := roundIeee f mode v
  let sub := f.subnormal x || (op ≠ .sqrt && f.subnormal y) || (op = .fma && f.subnormal z) || f.tiny v
  (r, fl ||| g, sub)

/-- Turns that the operation forfeits beside the normaliser's (R111). -/
def FloatOp.turns (op : FloatOp) (f : FloatFmt) : Nat :=
  if op = .div || op = .sqrt then (if f = fmtF64 then 4 else 2) else 0

/-- A scalar floating instruction (R111). -/
def floatOp (gd : Guard) (op : FloatOp) (d a b : BitVec 4) (t : BitVec 2) : State → Step :=
  issue { guard := gd, uses := fun _ => touches [touchS d, touchS a, touchS b, touchFlags] } (fun k u => do
    let (r, fl, sub) := floatLane op (typeFmt t) u.rmode (u.readS a).toNat (u.readS b).toNat (u.readS d).toNat
    modThread k (fun u => (u.writeS d (BitVec.ofNat 64 r)).orFlags fl)
    forfeit k (op.turns (typeFmt t) + if sub then 2 else 0)
    return .seq)

/-- `FADD` (R111). -/
def execFadd (gd : Guard) (d a b : BitVec 4) (t : BitVec 2) (s : State) : Step := floatOp gd .add d a b t s
/-- `FSUB` (R111). -/
def execFsub (gd : Guard) (d a b : BitVec 4) (t : BitVec 2) (s : State) : Step := floatOp gd .sub d a b t s
/-- `FMUL` (R111). -/
def execFmul (gd : Guard) (d a b : BitVec 4) (t : BitVec 2) (s : State) : Step := floatOp gd .mul d a b t s
/-- `FFMA` (R111): s[D] is the addend. -/
def execFfma (gd : Guard) (d a b : BitVec 4) (t : BitVec 2) (s : State) : Step := floatOp gd .fma d a b t s
/-- `FDIV` (R111). -/
def execFdiv (gd : Guard) (d a b : BitVec 4) (t : BitVec 2) (s : State) : Step := floatOp gd .div d a b t s
/-- `FSQRT` (R111). -/
def execFsqrt (gd : Guard) (d a : BitVec 4) (t : BitVec 2) (s : State) : Step := floatOp gd .sqrt d a 0 t s
/-- `FMIN` (R112). -/
def execFmin (gd : Guard) (d a b : BitVec 4) (t : BitVec 2) (s : State) : Step := floatOp gd .min d a b t s
/-- `FMAX` (R112). -/
def execFmax (gd : Guard) (d a b : BitVec 4) (t : BitVec 2) (s : State) : Step := floatOp gd .max d a b t s

/-- `FCMP` (R112). -/
def execFcmp (gd : Guard) (d a b : BitVec 4) (t cc : BitVec 2) (s : State) : Step :=
  issue { guard := gd, uses := fun _ => touches [touchP d, touchS a, touchS b, touchFlags] } (fun k u => do
    let f := typeFmt t
    let (r, fl) := compareVal cc (f.decode (u.readS a).toNat) (f.decode (u.readS b).toNat)
    modThread k (fun u => (u.writeP d r).orFlags fl)
    forfeit k (if f.subnormal (u.readS a).toNat || f.subnormal (u.readS b).toNat then 2 else 0)
    return .seq) s

/-! ### CVT and FCLASS (R106-R109) -/

/-- The scale or header that s[B] supplies, with NV for a SKIND of 3 (R107). -/
def cvtCover (dc sc : Nat) (b : Word) : Cover × Flags :=
  let narrow (c : Nat) : Bool := decide (3 ≤ c) && decide (c ≤ 9)
  let block (c : Nat) : Bool := c = 10 || c = 11
  if block dc || block sc then (.header (b.toNat % 256) (b.toNat / 256 % 256), 0)
  else if narrow dc || narrow sc then
    let kind := b.toNat / 2 ^ 16 % 4
    (scaleOf kind (b.toNat % 256), flagIf (kind = 3) flagNV)
  else (.none, 0)

/-- A code that the shared normaliser knows (R96). -/
def ieeeCode (c : Nat) : Bool := c ≤ 2 || c = 12

/-- The result of a conversion, its flags, and whether the normaliser serves it (R107). -/
def convert (dc sc : Nat) (mode : BitVec 2) (a b : Word) : Word × Flags × Bool :=
  let (cover, f0) := cvtCover dc sc b
  let src := decide (3 ≤ sc) && decide (sc ≤ 11)
  let (v, f1) := decodeElem sc a.toNat (if src then cover else .none)
  let (r, f2) := encodeCode dc mode v (if src then .none else cover)
  let sub : Bool := (ieeeCode sc && (match codeFmt sc with | some f => f.subnormal a.toNat | none => false))
    || (ieeeCode dc && (match codeFmt dc with | some f => f.tiny v | none => false))
  (r, f0 ||| f1 ||| f2, sub)

/-- `CVT` (R107). -/
def execCvt (gd : Guard) (d a b dc fn : BitVec 4) (s : State) : Step :=
  issue { guard := gd, uses := fun _ => touches [touchS d, touchS a, touchS b, touchFlags] } (fun k t => do
    let (r, fl, sub) := convert dc.toNat fn.toNat t.rmode (t.readS a) (t.readS b)
    modThread k (fun u => (u.writeS d r).orFlags fl)
    forfeit k (if sub then 2 else 0)
    return .seq) s

/-- The class bit of a code (R109). -/
def classOf (f : FloatFmt) (x : Nat) : Nat :=
  match f.decode x with
  | .nan sig _ => if sig then 8 else 9
  | .inf neg => if neg then 0 else 7
  | .zero neg => if neg then 3 else 4
  | .num q => if f.subnormal x then (if q.isNeg then 2 else 5) else (if q.isNeg then 1 else 6)

/-- `FCLASS` (R109). The two codes of FN8 are equal, so its high half names the format. -/
def execFclass (gd : Guard) (d a : BitVec 4) (fn : BitVec 8) (s : State) : Step :=
  issue { guard := gd, uses := fun _ => touches [touchS d, touchS a] } (fun k t => do
    let f := (codeFmt (fn.toNat / 16)).getD fmtF32
    modThread k (fun u => u.writeS d (BitVec.ofNat 64 (2 ^ classOf f ((t.readS a).toNat % 2 ^ f.width))))
    return .seq) s

end Sys2Proof.Machine
end

