-- ==== Sys2Proof/Machine/Fence.lean ====
section
/-!
DEFINITION. The fences (R191-R193).
-/

namespace Sys2Proof.Machine

/-- A scope code (R184). -/
def scopeOf (n : Nat) : Scope :=
  match n with
  | 0 => .thread
  | 1 => .crew
  | 2 => .flask
  | 3 => .device
  | _ => .system

/-- The scope at which a handler or a detached thread acts: device for crew and flask (R52, R184, R196). -/
def actScope (k : Nat) (sc : Scope) : Scope :=
  if isRunner k then (match sc with | .crew => .device | .flask => .device | x => x) else sc

/-- A load, full/empty access or atomic (R192). -/
def Ask.isRead : Ask → Bool
  | .load _ => true
  | .loadPair => true
  | .gather _ => true
  | .coef _ => true
  | .fullEmpty _ => true
  | .atomic _ => true
  | .texture _ _ => true
  | .scene _ _ _ => true
  | _ => false

/-- Engine commands of a thread that their FIFOs have not accepted (R192). -/
def unaccepted (s : State) (k : Nat) : Bool :=
  s.tiles.any (fun t => (t.2.copyQ ++ t.2.convQ ++ t.2.array.fifo).any (fun c => c.key = k && !c.accepted))

/-- What a fence still waits for (R192): earlier accesses not performed, for a release part all of them with messages and engine commands not accepted, else loads, full/empty accesses and
atomics; what earlier acquires wait for; and operations that have ended and not been written back, whose trap comes before the fence. -/
def fenceWaits (s : State) (k : Nat) (t : Thread) (release : Bool) : Bool :=
  !((ownAccesses s k).filter (fun r => release || r.ask.isRead)).isEmpty || !(outstanding s t.after).isEmpty
    || t.ops.any (fun o => !o.token && o.result.isSome) || (release && unaccepted s k)

/-- A fence waits, and one with an acquire part discards L1 lines (R192). -/
def fenceOp (gd : Guard) (acquire release : Bool) (sc : Scope) : State → Step :=
  issue { guard := gd } (fun k t => do
    if fenceWaits (← look) k t release then stop (.stall .earlier) else pure ()
    settleOwed k
    if acquire then discardFor (coreOf k) t (actScope k sc) else pure ()
    return .seq)

/-- `FENCE` (R192). -/
def execFence (gd : Guard) (sz : BitVec 3) (s : State) : Step := fenceOp gd true true (scopeOf sz.toNat) s

/-- `FENCE.acq` (R192). -/
def execFenceAcq (gd : Guard) (sz : BitVec 3) (s : State) : Step := fenceOp gd true false (scopeOf sz.toNat) s

/-- `FENCE.rel` (R192). -/
def execFenceRel (gd : Guard) (sz : BitVec 3) (s : State) : Step := fenceOp gd false true (scopeOf sz.toNat) s

/-- `FENCE.i` (R193): waits as a full fence at thread scope, then discards what was fetched ahead for the thread, and the core's L1 unless it is fused. -/
def execFenceI (gd : Guard) (s : State) : Step :=
  issue { guard := gd } (fun k t => do
    if fenceWaits (← look) k t true then stop (.stall .earlier) else pure ()
    settleOwed k
    let id ← freshId
    modThread k (fun u => { u with fetchFrom := id + 1 })
    if ((← look).cluster (clusterOfTile (tileOf k))).fused then dropNodes (coreOf k) else l1Clear (coreOf k)
    return .seq) s

end Sys2Proof.Machine
end

