-- ==== Sys2Proof/Machine/LoadStore.lean ====
section
/-!
DEFINITION. Requests as threads send them, loads and stores (R150-R153, R89), full/empty operations (R161-R165), atomics (R175-R177, R241), cache control (R158, R159) and active
messages (R181-R183).
-/

namespace Sys2Proof.Machine

/-! ### Sending requests -/

/-- A request of the current instruction, with everything it reads of its thread captured at issue (R33, R76). -/
def newReq (s : State) (k : Nat) (t : Thread) (id op : Nat) (ask : Ask) (spans : List (Nat × Nat)) : Req where
  id := id
  who := .thread k
  op := op
  ctx := t.ctx
  core := coreOf k
  pc := t.pc
  insn := s.insn
  wide := isWide s.insn
  ask := ask
  spans := spans
  data := 0
  cmp := 0
  d := 0
  pf := 0
  vlong := t.long
  scope := t.scope
  form := 0
  acq := false
  rel := false
  rmode := t.rmode
  seq := 0
  runner := isRunner k
  waitlim := t.waitlim.toNat
  retrylim := t.retrylim.toNat
  resends := 0
  issued := coreCycle s (tileOf k)
  arrived := 0
  after := []
  stage := .sent
  expiring := false

/-- Sends a request behind what it must wait for (R153, R187, R394); a data access to the shared space breaks the timing of a fixed-timing thread (R277). -/
def sendReq (k : Nat) (t : Thread) (op : Nat) (ask : Ask) (spans : List (Nat × Nat)) (f : Req → Req) : Act Unit := do
  let id ← freshId
  let s ← look
  let r := f (newReq s k t id op ask spans)
  emit (.req id (some { r with after := barring s k t [] r.rel }))
  if spans.all (fun x => inWindow x.1) then pure () else breakTiming k

/-- Checks the canonical form of an address (R132, R144). -/
def needCanonical (va : Word) : Act Unit := require (canonical va.toNat) .protection va

/-- Checks alignment (R144). -/
def needAligned (va : Word) (n : Nat) : Act Unit := require (decide (va.toNat % n = 0)) .align va

/-- What a runner-slot handler must not do (R65, R173). -/
def notInRunner (k : Nat) : Act Unit := require (!isRunner k) .runnerWait 0

/-! ### Loads and stores (R151) -/

/-- A load of 1 to 8 bytes. -/
def loadOp (gd : Guard) (len : Nat) (d a : BitVec 4) (off : Thread → Word) (size : Nat) (signed acq : Bool) (la : BitVec 4) : State → Step :=
  issue { guard := gd, len := len, uses := fun _ => touches [touchS d, touchS a] } (fun k t => do
    let va := t.readS a + off t
    needCanonical va
    needAligned va size
    let op ← openOp k (touchS d) {} la
    sendReq k t op (.load signed) [(va.toNat, size)] (fun r => { r with d := d, acq := acq })
    return .seq)

/-- A store of 1 to 8 bytes. -/
def storeOp (gd : Guard) (len : Nat) (d a : BitVec 4) (off : Thread → Word) (size : Nat) (rel : Bool) (la : BitVec 4) : State → Step :=
  issue { guard := gd, len := len, uses := fun _ => touches [touchS d, touchS a] } (fun k t => do
    let va := t.readS a + off t
    needCanonical va
    needAligned va size
    let op ← openOp k {} {} la
    sendReq k t op .store [(va.toNat, size)] (fun r => { r with data := (t.readS d).toNat % 256 ^ size, rel := rel })
    return .seq)

/-- `LD`, zero-extending (R151). -/
def execLd (gd : Guard) (d a off : BitVec 4) (sz : BitVec 2) (ord : BitVec 1) (la : BitVec 4) (s : State) : Step :=
  loadOp gd 4 d a (fun t => offset4 t off (2 ^ sz.toNat)) (2 ^ sz.toNat) false (ord == 1) la s

/-- `LD`, sign-extending (R151). -/
def execLdSigned (gd : Guard) (d a off : BitVec 4) (sz : BitVec 2) (ord : BitVec 1) (la : BitVec 4) (s : State) : Step :=
  loadOp gd 4 d a (fun t => offset4 t off (2 ^ sz.toNat)) (2 ^ sz.toNat) true (ord == 1) la s

/-- `LDP`: 16 bytes into a pair; with D = 0 nothing is written (R151). -/
def execLdp (gd : Guard) (d a off : BitVec 4) (ord : BitVec 1) (la : BitVec 4) (s : State) : Step :=
  let pair : Touch := if d = 0 then {} else touches [touchS d, touchS (d + 1)]
  issue { guard := gd, uses := fun _ => pair.union (touchS a) } (fun k t => do
    let va := t.readS a + offset4 t off 16
    needCanonical va
    needAligned va 16
    let op ← openOp k pair {} la
    sendReq k t op .loadPair [(va.toNat, 16)] (fun r => { r with d := d, acq := ord == 1 })
    return .seq) s

/-- `ST` (R151). -/
def execSt (gd : Guard) (d a off : BitVec 4) (sz : BitVec 2) (ord : BitVec 1) (la : BitVec 4) (s : State) : Step :=
  storeOp gd 4 d a (fun t => offset4 t off (2 ^ sz.toNat)) (2 ^ sz.toNat) (ord == 1) la s

/-- `C.LD` (R89): `LD.n64 sD, off(sB)` with B = 8 + A3. -/
def execCLd (d : BitVec 4) (a off : BitVec 3) (s : State) : Step :=
  loadOp always 2 d (a.zeroExtend 4 + 8) (fun _ => BitVec.ofNat 64 (8 * off.toNat)) 8 false false 0 s

/-- `C.ST` (R89). -/
def execCSt (d : BitVec 4) (a off : BitVec 3) (s : State) : Step :=
  storeOp always 2 d (a.zeroExtend 4 + 8) (fun _ => BitVec.ofNat 64 (8 * off.toNat)) 8 false 0 s

/-- `C.PUSH` (R89): `ST.n64 sD, −8k(s14)`. -/
def execCPush (d : BitVec 4) (k : BitVec 7) (s : State) : Step := storeOp always 2 d 14 (fun _ => -(BitVec.ofNat 64 (8 * k.toNat))) 8 false 0 s

/-- `C.POP` (R89): `LD.n64 sD, −8k(s14)`. -/
def execCPop (d : BitVec 4) (k : BitVec 7) (s : State) : Step := loadOp always 2 d 14 (fun _ => -(BitVec.ofNat 64 (8 * k.toNat))) 8 false false 0 s

/-! ### Full/empty operations (R164, R165) -/

/-- The scope of a FORM field (R163). -/
def formScope (k : Nat) (t : Thread) (form : BitVec 2) : Scope :=
  actScope k (match form.toNat with | 0 => t.scope | 1 => .crew | 2 => .device | _ => .system)

/-- The waiting forms, which a runner slot refuses (R173). -/
def FeOp.waits : FeOp → Bool
  | .ldw => true
  | .ldc => true
  | .stf => true
  | _ => false

/-- Acquires and releases (R161). -/
def FeOp.acquires : FeOp → Bool
  | .ldw => true
  | .ldc => true
  | .ldxw => true
  | .ldxc => true
  | .fetest => true
  | _ => false

/-- A full/empty operation at s[A] plus an offset. `d` names the data or destination, `pf` the failure predicate, `dest` the destinations. (DEDUCED: log 27) -/
def fullEmptyOp (gd : Guard) (fe : FeOp) (d a pf : BitVec 4) (off : Thread → Word) (form : BitVec 2) (la : BitVec 4) (uses dest : Touch) : State → Step :=
  issue { guard := gd, uses := fun _ => uses.union (touchS a) } (fun k t => do
    let va := t.readS a + off t
    needCanonical va
    if fe.waits then notInRunner k else pure ()
    needAligned va 8
    let op ← openOp k dest {} la
    sendReq k t op (.fullEmpty fe) [(va.toNat, 8)] (fun r =>
      { r with d := d, pf := pf, data := (t.readS d).toNat, form := form.toNat, scope := formScope k t form, acq := fe.acquires, rel := !fe.acquires })
    return .seq)

/-- `LDW` (R164). -/
def execLdw (gd : Guard) (d a off : BitVec 4) (ord : BitVec 2) (la : BitVec 4) (s : State) : Step :=
  fullEmptyOp gd .ldw d a 0 (fun t => offset4 t off 8) ord la (touchS d) (touchS d) s

/-- `LDC` (R164). -/
def execLdc (gd : Guard) (d a off : BitVec 4) (ord : BitVec 2) (la : BitVec 4) (s : State) : Step :=
  fullEmptyOp gd .ldc d a 0 (fun t => offset4 t off 8) ord la (touchS d) (touchS d) s

/-- `LDX.w` (R164). -/
def execLdxW (gd : Guard) (d a pf : BitVec 4) (ord : BitVec 2) (la : BitVec 4) (s : State) : Step :=
  fullEmptyOp gd .ldxw d a pf (fun _ => 0) ord la ((touchS d).union (touchP pf)) ((touchS d).union (touchP pf)) s

/-- `LDX.c` (R164). -/
def execLdxC (gd : Guard) (d a pf : BitVec 4) (ord : BitVec 2) (la : BitVec 4) (s : State) : Step :=
  fullEmptyOp gd .ldxc d a pf (fun _ => 0) ord la ((touchS d).union (touchP pf)) ((touchS d).union (touchP pf)) s

/-- `STF` (R164). -/
def execStf (gd : Guard) (d a off : BitVec 4) (ord : BitVec 2) (la : BitVec 4) (s : State) : Step :=
  fullEmptyOp gd .stf d a 0 (fun t => offset4 t off 8) ord la (touchS d) {} s

/-- `STFX` (R164). -/
def execStfx (gd : Guard) (d a pf : BitVec 4) (ord : BitVec 2) (la : BitVec 4) (s : State) : Step :=
  fullEmptyOp gd .stfx d a pf (fun _ => 0) ord la ((touchS d).union (touchP pf)) (touchP pf) s

/-- `STFF` (R164). -/
def execStff (gd : Guard) (d a off : BitVec 4) (ord : BitVec 2) (la : BitVec 4) (s : State) : Step :=
  fullEmptyOp gd .stff d a 0 (fun t => offset4 t off 8) ord la (touchS d) {} s

/-- `FESET` (R165). -/
def execFeset (gd : Guard) (a la : BitVec 4) (s : State) : Step := fullEmptyOp gd .feset 0 a 0 (fun _ => 0) 0 la {} {} s

/-- `FECLR` (R165). -/
def execFeclr (gd : Guard) (a la : BitVec 4) (s : State) : Step := fullEmptyOp gd .feclr 0 a 0 (fun _ => 0) 0 la {} {} s

/-- `FETEST` (R165): its destination is p[D]. -/
def execFetest (gd : Guard) (d a la : BitVec 4) (s : State) : Step := fullEmptyOp gd .fetest d a 0 (fun _ => 0) 0 la (touchP d) (touchP d) s

/-! ### Atomics (R175-R177) -/

/-- Bytes that an atomic's address must be aligned to (R175). -/
def AmoOp.align : AmoOp → Nat
  | .faddF32 => 4
  | .faddBf16 => 2
  | _ => 8

/-- An atomic that can set a flag (R176). -/
def AmoOp.flags : AmoOp → Bool
  | .faddF32 => true
  | .faddBf16 => true
  | .ordFadd => true
  | _ => false

/-- An atomic; s[D] receives the old word, and is the comparand of `AMO.cas`. The sequence number of the ordered forms is e6[31:0] at issue (R177). (DEDUCED: log 14) -/
def atomicOp (gd : Guard) (op : AmoOp) (d a b la : BitVec 4) : State → Step :=
  let dest := (touchS d).union (if op.flags then touchFlags else {})
  issue { guard := gd, uses := fun _ => dest.union ((touchS a).union (touchS b)) } (fun k t => do
    let va := t.readS a
    needCanonical va
    needAligned va op.align
    let o ← openOp k dest {} la
    sendReq k t o (.atomic op) [(va.toNat, op.align)] (fun r =>
      { r with d := d, data := (t.readS b).toNat, cmp := t.readS d, seq := (t.readE 6).toNat % 2 ^ 32, scope := actScope k t.scope, acq := true, rel := true })
    return .seq)

/-- `AMO.add` (R175). -/
def execAmoAdd (gd : Guard) (d a b la : BitVec 4) (s : State) : Step := atomicOp gd .add d a b la s
/-- `AMO.and` (R175). -/
def execAmoAnd (gd : Guard) (d a b la : BitVec 4) (s : State) : Step := atomicOp gd .and d a b la s
/-- `AMO.or` (R175). -/
def execAmoOr (gd : Guard) (d a b la : BitVec 4) (s : State) : Step := atomicOp gd .or d a b la s
/-- `AMO.xor` (R175). -/
def execAmoXor (gd : Guard) (d a b la : BitVec 4) (s : State) : Step := atomicOp gd .xor d a b la s
/-- `AMO.min` (R175). -/
def execAmoMin (gd : Guard) (d a b la : BitVec 4) (s : State) : Step := atomicOp gd .min d a b la s
/-- `AMO.max` (R175). -/
def execAmoMax (gd : Guard) (d a b la : BitVec 4) (s : State) : Step := atomicOp gd .max d a b la s
/-- `AMO.minn` (R175). -/
def execAmoMinn (gd : Guard) (d a b la : BitVec 4) (s : State) : Step := atomicOp gd .minn d a b la s
/-- `AMO.maxn` (R175). -/
def execAmoMaxn (gd : Guard) (d a b la : BitVec 4) (s : State) : Step := atomicOp gd .maxn d a b la s
/-- `AMO.swap` (R175). -/
def execAmoSwap (gd : Guard) (d a b la : BitVec 4) (s : State) : Step := atomicOp gd .swap d a b la s
/-- `AMO.cas` (R175). -/
def execAmoCas (gd : Guard) (d a b la : BitVec 4) (s : State) : Step := atomicOp gd .cas d a b la s
/-- `AMO.fadd.f32` (R176). -/
def execAmoFaddF32 (gd : Guard) (d a b la : BitVec 4) (s : State) : Step := atomicOp gd .faddF32 d a b la s
/-- `AMO.fadd.bf16` (R176). -/
def execAmoFaddBf16 (gd : Guard) (d a b la : BitVec 4) (s : State) : Step := atomicOp gd .faddBf16 d a b la s
/-- `AMO.ord.add` (R177). -/
def execAmoOrdAdd (gd : Guard) (d a b la : BitVec 4) (s : State) : Step := atomicOp gd .ordAdd d a b la s
/-- `AMO.ord.fadd` (R177). -/
def execAmoOrdFadd (gd : Guard) (d a b la : BitVec 4) (s : State) : Step := atomicOp gd .ordFadd d a b la s
/-- `AMAXRS` (R241): reads an amax word and resets it to 0. -/
def execAmaxrs (gd : Guard) (d a la : BitVec 4) (s : State) : Step := atomicOp gd .reset d a 0 la s

/-- The .f32 or .bf16 sum of two codes as stored, with its flags (R176). -/
def floatSum (f : FloatFmt) (mode : BitVec 2) (x y : Nat) : Nat × Flags :=
  let (v, fl) := addVal mode (f.decode x) (f.decode y)
  let (r, g) := roundIeee f mode v
  (r, fl ||| g)

/-- A lane of a word replaced. -/
def replaceLane (old n shift x : Nat) : Nat := old % 2 ^ shift + (x % 2 ^ n) * 2 ^ shift + old / 2 ^ (shift + n) * 2 ^ (shift + n)

/-- The new value of the word and the flags (R175-R177, R241). -/
def amoNew (op : AmoOp) (old data : Nat) (cmp : Word) (va : Nat) (mode : BitVec 2) : Nat × Flags :=
  let o := BitVec.ofNat 64 old
  let b := BitVec.ofNat 64 data
  match op with
  | .add => ((o + b).toNat, 0)
  | .and => ((o &&& b).toNat, 0)
  | .or => ((o ||| b).toNat, 0)
  | .xor => ((o ^^^ b).toNat, 0)
  | .min => ((minMax false false o b).toNat, 0)
  | .max => ((minMax true false o b).toNat, 0)
  | .minn => ((minMax false true o b).toNat, 0)
  | .maxn => ((minMax true true o b).toNat, 0)
  | .swap => (b.toNat, 0)
  | .cas => ((if o = cmp then b else o).toNat, 0)
  | .faddF32 =>
    let sh := 8 * (va % 8 / 4 * 4)
    let (x, f) := floatSum fmtF32 mode (old / 2 ^ sh % 2 ^ 32) (data % 2 ^ 32)
    (replaceLane old 32 sh x, f)
  | .faddBf16 =>
    let sh := 16 * (va % 8 / 2)
    let (x, f) := floatSum fmtBf16 mode (old / 2 ^ sh % 2 ^ 16) (data % 2 ^ 16)
    (replaceLane old 16 sh x, f)
  | .ordAdd => ((old / 2 ^ 32 + 1) % 2 ^ 32 * 2 ^ 32 + (old + data) % 2 ^ 32, 0)
  | .ordFadd =>
    let (x, f) := floatSum fmtF32 mode (old % 2 ^ 32) (data % 2 ^ 32)
    ((old / 2 ^ 32 + 1) % 2 ^ 32 * 2 ^ 32 + x, f)
  | .reset => (0, 0)

/-! ### Cache control (R158, R159) -/

/-- A prefetch: the line into the L1, or the granule into its home slice, if it may; it never faults or traps (R158, R159). Data lost is
reported, and dropped (R304). It is no data access of R277: TIMING.BROKEN stays. (DESIGN CHOICE: log 97) -/
def prefetch (k : Nat) (t : Thread) (va : Nat) (fill : Bool) : Act Unit := do
  if !canonical va || inWindow va then pure ()
  else
    match ← translate t.ctx va with
    | .leaf l =>
      if l.mt = 2 || !permits l (some (clusterOfTile (tileOf k))) {} then pure ()
      else do
        let n := if fill then 32 else 64
        let v0 := va / n * n
        let k0 ← placeOf t.ctx v0 l false
        let s ← look
        if fill && (l1Find s (coreOf k) t.ctx va).isSome then pure ()
        else if loadSpoiled s v0 k0 n then machineReport (loadSource s v0 k0 n) (((List.range n).map (v0 + ·)).find? (fun a => loadSpoiled s a (k0 + (a - v0)) 1) |>.getD v0)
        else if !fill then pure ()
        else do
          dropOlderHalf (coreOf k) t.ctx v0 k0
          l1Fill (coreOf k) va ⟨t.ctx, va / 32, BitVec.ofNat 256 (loadBytes s v0 k0 32), l.x, l.w, l.mt = 1, false, l.va, l.size⟩
    | _ => pure ()

/-- A cache operation that completes at once (R158). -/
def cacheOp (gd : Guard) (a la : BitVec 4) (f : Nat → Thread → Act Unit) : State → Step :=
  issue { guard := gd, uses := fun _ => touchS a } (fun k t => do
    let op ← openOp k {} {} la
    f k t
    finish k op {}
    return .seq)

/-- `CCTL.pf` (R158). -/
def execCctlPf (gd : Guard) (a la : BitVec 4) (s : State) : Step := cacheOp gd a la (fun k t => prefetch k t (t.readS a).toNat true) s

/-- `CCTL.pfs` (R158): fetches the granule into its home slice, which caches it from then on (R142). -/
def execCctlPfs (gd : Guard) (a la : BitVec 4) (s : State) : Step := cacheOp gd a la (fun k t => prefetch k t (t.readS a).toNat false) s

/-- `CCTL.inv` (R158): a non-canonical address names no line, so that nothing is discarded. (DEDUCED: log 65) -/
def execCctlInv (gd : Guard) (a la : BitVec 4) (s : State) : Step := cacheOp gd a la (fun k t => l1Drop (coreOf k) t.ctx (t.readS a).toNat) s

/-- `CCTL.inva` (R158): every line of the L1, or of the fused L1, whose departed bits are cleared when no member is away (R157). -/
def execCctlInva (gd : Guard) (la : BitVec 4) (s : State) : Step :=
  cacheOp gd 0 la (fun k _ => discardAll (coreOf k) l1Clear) s

/-- An invalidation of translations: PROTECTION unless the context's SYS bit is 1, decided on the die of the issuing core (R135, R159); `CCTL.tinv` of a non-canonical address raises
PROTECTION. (DEDUCED: log 65) -/
def tinvOp (gd : Guard) (a b la : BitVec 4) (all : Bool) : State → Step :=
  issue { guard := gd, uses := fun _ => touches [touchS a, touchS b] } (fun k t => do
    if all then pure () else needCanonical (t.readS a)
    reportContext (dieOf k) t.ctx
    require (contextSys (← look) (dieOf k) t.ctx) .protection 0
    let op ← openOp k {} {} la
    sendReq k t op (.tinv ((t.readS b).toNat % 4096) (if all then none else some (t.readS a).toNat)) [] id
    return .seq)

/-- `CCTL.tinv` (R159). -/
def execCctlTinv (gd : Guard) (a b la : BitVec 4) (s : State) : Step := tinvOp gd a b la false s

/-- `CCTL.tinvc` (R159). -/
def execCctlTinvc (gd : Guard) (b la : BitVec 4) (s : State) : Step := tinvOp gd 0 b la true s

/-! ### Active messages (R181) -/

/-- `RMSG`: the message releases the sender's earlier accesses, so messages of one thread to one core arrive in order (R182); a target on another die or peer breaks a fixed-timing
thread's timing (R277). -/
def messageOp (gd : Guard) (a b la : BitVec 4) (seq : Bool) : State → Step :=
  issue { guard := gd, uses := fun _ => touches [touchS a, touchS b, touchS 1, touchS 2, touchS 3, touchS 4] } (fun k t => do
    let op ← openOp k {} {} la
    let x := (t.readS a).toNat
    let core := x % 2 ^ 13
    let device := x / 2 ^ 16 % 2 ^ 16
    let q := (t.readE 6).toNat % 2 ^ 32
    sendReq k t op (.message core device (t.readS b) [t.readS 1, t.readS 2, t.readS 3, t.readS 4] (if seq then some q else none)) []
      (fun r => { r with rel := true, scope := if device = 0 then .device else .system })
    if device ≠ 0 || dieOf k ≠ core / 2048 then breakTiming k else pure ()
    return .seq)

/-- `RMSG` (R181). -/
def execRmsg (gd : Guard) (a b la : BitVec 4) (s : State) : Step := messageOp gd a b la false s

/-- `RMSG.SEQ` (R181, R183). -/
def execRmsgSeq (gd : Guard) (a b la : BitVec 4) (s : State) : Step := messageOp gd a b la true s

end Sys2Proof.Machine
end

