-- ==== Sys2Proof/Machine/Vector.lean ====
section
/-!
DEFINITION. Vector registers in both modes (R113-R115), vector integer, floating, permute and reduction instructions (R116-R120, R124), and vector memory (R121-R123).
-/

namespace Sys2Proof.Machine

/-! ### Registers in the thread's mode (R113) -/

/-- Bits of a vector register. -/
def vecBits (t : Thread) : Nat := if t.long then 2048 else 256

/-- The set of one vector register in the thread's mode. -/
def touchVec (i : BitVec 4) (t : Thread) : Touch := if t.long then touchW i else touchV i

/-- A vector register in the thread's mode, zero-extended. -/
def readVec (s : State) (k : Nat) (t : Thread) (i : BitVec 4) : LongVec := if t.long then (s.tile (tileOf k)).readW i else (t.readV i).zeroExtend 2048

/-- The write of a vector register in the thread's mode. -/
def vecWrite (t : Thread) (i : BitVec 4) (x : Nat) : RegWrite := if t.long then .w i (BitVec.ofNat 2048 x) else .v i (BitVec.ofNat 256 x)

/-- Delivers the result of a vector instruction: at once in SHORT mode; when it lands, in LONG mode, where it opens no window (R124). `fl` holds the flags that it raises, if it is one that
can set a flag: FLAGS is then a destination (R76). (DEDUCED: log 14) -/
def vectorResult (k : Nat) (t : Thread) (dest : Touch) (w : RegWrite) (fl : Option Flags) : Act Unit := do
  if t.long then
    let id ← freshId
    let s ← look
    let wide := if fl.isSome then dest.union touchFlags else dest
    let ws := w :: (fl.map RegWrite.flags).toList
    let o : PendOp := ⟨id, t.pc, s.insn, isWide s.insn, wide, true, false, 0, false, s.cycle, some { writes := ws }⟩
    modThread k (fun u => { u with ops := u.ops ++ [o] })
  else do
    slotWrite k w
    match fl with
    | some x => modThread k (fun u => u.orFlags x)
    | none => pure ()

/-- A lane-wise integer instruction (R117): `f` has the lane width and the lanes of vA, vB and vD. -/
def vectorOp (gd : Guard) (d a b : BitVec 4) (w : BitVec 2) (f : (n : Nat) → BitVec n → BitVec n → BitVec n → BitVec n) : State → Step :=
  issue { guard := gd, uses := fun t => touches [touchVec d t, touchVec a t, touchVec b t], vectors := [d, a, b] } (fun k t => do
    let s ← look
    let n := laneWidth w
    let x := readVec s k t a
    let y := readVec s k t b
    let m := readVec s k t d
    let r := joinLanes n ((List.range (vecBits t / n)).map (fun i => f n (lane n x i) (lane n y i) (lane n m i)))
    vectorResult k t (touchVec d t) (vecWrite t d r) none
    return .seq)

/-- ORs a list of flags. -/
def orAll (l : List Flags) : Flags := l.foldl (· ||| ·) 0

/-- A lane-wise floating instruction (R118). -/
def vectorFloat (gd : Guard) (op : FloatOp) (d a b : BitVec 4) (t : BitVec 2) : State → Step :=
  issue { guard := gd, uses := fun u => touches [touchVec d u, touchVec a u, touchVec b u, touchFlags], vectors := [d, a, b] } (fun k u => do
    let s ← look
    let f := typeFmt t
    let n := f.width
    let x := readVec s k u a
    let y := readVec s k u b
    let m := readVec s k u d
    let rs := (List.range (vecBits u / n)).map (fun i => floatLane op f u.rmode (lane n x i).toNat (lane n y i).toNat (lane n m i).toNat)
    vectorResult k u (touchVec d u) (vecWrite u d (joinLanes n (rs.map (fun r => BitVec.ofNat n r.1)))) (some (orAll (rs.map (·.2.1))))
    if u.long then pure () else forfeit k (op.turns f + if rs.any (·.2.2) then 2 else 0)
    return .seq)

/-! ### Vector integer (R116, R117) -/

/-- `VADD` (R117). -/
def execVadd (gd : Guard) (d a b : BitVec 4) (w : BitVec 2) (s : State) : Step := vectorOp gd d a b w (fun _ x y _ => x + y) s

/-- `VSUB` (R117). -/
def execVsub (gd : Guard) (d a b : BitVec 4) (w : BitVec 2) (s : State) : Step := vectorOp gd d a b w (fun _ x y _ => x - y) s

/-- `VMUL` (R117). -/
def execVmul (gd : Guard) (d a b : BitVec 4) (w : BitVec 2) (s : State) : Step := vectorOp gd d a b w (fun _ x y _ => x * y) s

/-- `VMIN.i` (R117). -/
def execVminI (gd : Guard) (d a b : BitVec 4) (w : BitVec 2) (s : State) : Step := vectorOp gd d a b w (fun _ x y _ => minMax false false x y) s

/-- `VMAX.i` (R117). -/
def execVmaxI (gd : Guard) (d a b : BitVec 4) (w : BitVec 2) (s : State) : Step := vectorOp gd d a b w (fun _ x y _ => minMax true false x y) s

/-- `VMIN.n` (R117). -/
def execVminN (gd : Guard) (d a b : BitVec 4) (w : BitVec 2) (s : State) : Step := vectorOp gd d a b w (fun _ x y _ => minMax false true x y) s

/-- `VMAX.n` (R117). -/
def execVmaxN (gd : Guard) (d a b : BitVec 4) (w : BitVec 2) (s : State) : Step := vectorOp gd d a b w (fun _ x y _ => minMax true true x y) s

/-- `VAND` (R117). -/
def execVand (gd : Guard) (d a b : BitVec 4) (w : BitVec 2) (s : State) : Step := vectorOp gd d a b w (fun _ x y _ => x &&& y) s

/-- `VOR` (R117). -/
def execVor (gd : Guard) (d a b : BitVec 4) (w : BitVec 2) (s : State) : Step := vectorOp gd d a b w (fun _ x y _ => x ||| y) s

/-- `VXOR` (R117). -/
def execVxor (gd : Guard) (d a b : BitVec 4) (w : BitVec 2) (s : State) : Step := vectorOp gd d a b w (fun _ x y _ => x ^^^ y) s

/-- `VSHL` (R117). -/
def execVshl (gd : Guard) (d a b : BitVec 4) (w : BitVec 2) (s : State) : Step := vectorOp gd d a b w (fun _ x y _ => shiftLeft x (y.toNat % 256)) s

/-- `VSHR` (R117). -/
def execVshr (gd : Guard) (d a b : BitVec 4) (w : BitVec 2) (s : State) : Step := vectorOp gd d a b w (fun _ x y _ => shiftRight x (y.toNat % 256)) s

/-- `VSAR` (R117). -/
def execVsar (gd : Guard) (d a b : BitVec 4) (w : BitVec 2) (s : State) : Step := vectorOp gd d a b w (fun _ x y _ => shiftSigned x (y.toNat % 256)) s

/-- `VSEL` (R117): by the top bit of each lane of vD. -/
def execVsel (gd : Guard) (d a b : BitVec 4) (w : BitVec 2) (s : State) : Step := vectorOp gd d a b w (fun _ x y m => if m.msb then x else y) s

/-- `VCMP` (R117): all ones or zero. -/
def execVcmp (gd : Guard) (d a b : BitVec 4) (w : BitVec 2) (cc : BitVec 4) (s : State) : Step :=
  vectorOp gd d a b w (fun n x y _ => if condition cc x y then BitVec.allOnes n else 0) s

/-! ### Vector floating (R118) -/

/-- `VFADD` (R118). -/
def execVfadd (gd : Guard) (d a b : BitVec 4) (t : BitVec 2) (s : State) : Step := vectorFloat gd .add d a b t s

/-- `VFSUB` (R118). -/
def execVfsub (gd : Guard) (d a b : BitVec 4) (t : BitVec 2) (s : State) : Step := vectorFloat gd .sub d a b t s

/-- `VFMUL` (R118). -/
def execVfmul (gd : Guard) (d a b : BitVec 4) (t : BitVec 2) (s : State) : Step := vectorFloat gd .mul d a b t s

/-- `VFFMA` (R118). -/
def execVffma (gd : Guard) (d a b : BitVec 4) (t : BitVec 2) (s : State) : Step := vectorFloat gd .fma d a b t s

/-- `VFDIV` (R118). -/
def execVfdiv (gd : Guard) (d a b : BitVec 4) (t : BitVec 2) (s : State) : Step := vectorFloat gd .div d a b t s

/-- `VFMIN` (R118). -/
def execVfmin (gd : Guard) (d a b : BitVec 4) (t : BitVec 2) (s : State) : Step := vectorFloat gd .min d a b t s

/-- `VFMAX` (R118). -/
def execVfmax (gd : Guard) (d a b : BitVec 4) (t : BitVec 2) (s : State) : Step := vectorFloat gd .max d a b t s

/-- `VFSQRT` (R118). -/
def execVfsqrt (gd : Guard) (d a : BitVec 4) (t : BitVec 2) (s : State) : Step := vectorFloat gd .sqrt d a a t s

/-- `VFCMP` (R118): all ones or zero by FCMP's condition. -/
def execVfcmp (gd : Guard) (d a b : BitVec 4) (t cc : BitVec 2) (s : State) : Step :=
  issue { guard := gd, uses := fun u => touches [touchVec d u, touchVec a u, touchVec b u, touchFlags], vectors := [d, a, b] } (fun k u => do
    let s ← look
    let f := typeFmt t
    let n := f.width
    let x := readVec s k u a
    let y := readVec s k u b
    let rs := (List.range (vecBits u / n)).map (fun i =>
      let p := (lane n x i).toNat
      let q := (lane n y i).toNat
      let (r, fl) := compareVal cc (f.decode p) (f.decode q)
      (r, fl, f.subnormal p || f.subnormal q))
    vectorResult k u (touchVec d u) (vecWrite u d (joinLanes n (rs.map (fun r => if r.1 then BitVec.allOnes n else 0)))) (some (orAll (rs.map (·.2.1))))
    if u.long then pure () else forfeit k (if rs.any (·.2.2) then 2 else 0)
    return .seq) s

/-! ### Permutes and reductions (R119, R120) -/

/-- `VBCAST` (R119). -/
def execVbcast (gd : Guard) (d a : BitVec 4) (w : BitVec 2) (s : State) : Step :=
  issue { guard := gd, uses := fun t => touches [touchVec d t, touchS a], vectors := [d] } (fun k t => do
    let n := laneWidth w
    let r := joinLanes n ((List.range (vecBits t / n)).map (fun _ => lane n (t.readS a) 0))
    vectorResult k t (touchVec d t) (vecWrite t d r) none
    return .seq) s

/-- `VPERM` (R119): vA is read whole first. -/
def execVperm (gd : Guard) (d a b : BitVec 4) (w : BitVec 2) (s : State) : Step :=
  issue { guard := gd, uses := fun t => touches [touchVec d t, touchVec a t, touchVec b t], vectors := [d, a, b] } (fun k t => do
    let s ← look
    let n := laneWidth w
    let l := vecBits t / n
    let x := readVec s k t a
    let y := readVec s k t b
    let r := joinLanes n ((List.range l).map (fun i => lane n x ((lane n y i).toNat % l)))
    vectorResult k t (touchVec d t) (vecWrite t d r) none
    return .seq) s

/-- One round of a reduction after another, halving each time (R120): each combination gives a value, flags, and whether the normaliser serves it. -/
def reduceRounds (f : Nat → Nat → Nat × Flags × Bool) : Nat → List Nat → Flags → Bool → Nat × Flags × Bool
  | 0, xs, fl, sub => (xs.head?.getD 0, fl, sub)
  | fuel + 1, xs, fl, sub =>
    if xs.length ≤ 1 then (xs.head?.getD 0, fl, sub)
    else
      let h := xs.length / 2
      let rs := (List.zip (xs.take h) (xs.drop h)).map (fun p => f p.1 p.2)
      reduceRounds f fuel (rs.map (·.1)) (fl ||| orAll (rs.map (·.2.1))) (sub || rs.any (·.2.2))

/-- A reduction to a scalar (R120). -/
def reduceOp (gd : Guard) (d a : BitVec 4) (n : Nat) (float : Bool) (f : Thread → Nat → Nat → Nat × Flags × Bool) (extend : Nat → Word) : State → Step :=
  issue { guard := gd, uses := fun t => touches [touchS d, touchVec a t, if float then touchFlags else {}], vectors := [a] } (fun k t => do
    let s ← look
    let x := readVec s k t a
    let (r, fl, sub) := reduceRounds (f t) 9 ((List.range (vecBits t / n)).map (fun i => (lane n x i).toNat)) 0 false
    vectorResult k t (touchS d) (.s d (extend r)) (if float then some fl else none)
    if t.long then pure () else forfeit k (if sub then 2 else 0)
    return .seq)

/-- An integer reduction of lanes of 8 × 2^E bits. -/
def reduceInt (gd : Guard) (d a dc : BitVec 4) (signed : Bool) (f : (n : Nat) → BitVec n → BitVec n → BitVec n) : State → Step :=
  let n := 8 * 2 ^ (dc.toNat % 4)
  reduceOp gd d a n false (fun _ x y => ((f n (BitVec.ofNat n x) (BitVec.ofNat n y)).toNat, 0, false))
    (fun x => if signed then (BitVec.ofNat n x).signExtend 64 else BitVec.ofNat 64 x)

/-- A floating reduction in the format that E names. -/
def reduceFloat (gd : Guard) (op : FloatOp) (d a dc : BitVec 4) : State → Step :=
  let f := typeFmt (dc.extractLsb' 0 2)
  reduceOp gd d a f.width true (fun t x y => floatLane op f t.rmode x y 0) (BitVec.ofNat 64)


/-- `VRED.add` (R120). -/
def execVredAdd (gd : Guard) (d a dc : BitVec 4) (s : State) : Step := reduceInt gd d a dc true (fun _ x y => x + y) s

/-- `VRED.min.i` (R120). -/
def execVredMinI (gd : Guard) (d a dc : BitVec 4) (s : State) : Step := reduceInt gd d a dc true (fun _ => minMax false false) s

/-- `VRED.max.i` (R120). -/
def execVredMaxI (gd : Guard) (d a dc : BitVec 4) (s : State) : Step := reduceInt gd d a dc true (fun _ => minMax true false) s

/-- `VRED.min.n` (R120). -/
def execVredMinN (gd : Guard) (d a dc : BitVec 4) (s : State) : Step := reduceInt gd d a dc false (fun _ => minMax false true) s

/-- `VRED.max.n` (R120). -/
def execVredMaxN (gd : Guard) (d a dc : BitVec 4) (s : State) : Step := reduceInt gd d a dc false (fun _ => minMax true true) s

/-- `VRED.fadd` (R120). -/
def execVredFadd (gd : Guard) (d a dc : BitVec 4) (s : State) : Step := reduceFloat gd .add d a dc s

/-- `VRED.fmin` (R120). -/
def execVredFmin (gd : Guard) (d a dc : BitVec 4) (s : State) : Step := reduceFloat gd .min d a dc s

/-- `VRED.fmax` (R120). -/
def execVredFmax (gd : Guard) (d a dc : BitVec 4) (s : State) : Step := reduceFloat gd .max d a dc s

/-! ### Vector mode (R114) -/

/-- Releases the long-vector unit if the thread holds it (R114, R115). -/
def releaseUnit (k : Nat) : Act Unit := do
  if ((← look).tile (tileOf k)).unit = some k then modTile (tileOf k) (fun x => { x with unit := none }) else pure ()

/-- `VLONG` (R114): attaches the tile's long-vector unit, zeroing it, or reports that another thread holds it. -/
def execVlong (gd : Guard) (d : BitVec 4) (s : State) : Step :=
  issue { guard := gd, uses := fun _ => touchP d } (fun k _ => do
    match ((← look).tile (tileOf k)).unit with
    | some h => modThread k (fun t => t.writeP d (h ≠ k))
    | none => do
      modTile (tileOf k) (fun x => { x with unit := some k, w := Vector.replicate 16 0 })
      modThread k (fun t => { t.writeP d false with long := true })
    return .seq) s

/-- `VSHORT` (R114): waits until every outstanding w write has landed, and releases the unit. -/
def execVshort (gd : Guard) (s : State) : Step :=
  issue { guard := gd } (fun k t => do
    if ((← look).tile (tileOf k)).unit = some k then do
      if t.pending.w ≠ 0 then stop (.stall .scoreboard) else pure ()
      releaseUnit k
      modThread k (fun t => { t with long := false })
    else pure ()
    return .seq) s

/-! ### Vector memory (R121-R123) -/

/-- Checks every lane address of a vector access: first the canonical forms, then alignment, in lane order (R122, R144). -/
def needLanes (vas : List Word) (align : Nat) : Act Unit := do
  forEach vas needCanonical
  forEach vas (fun va => needAligned va align)

/-- Start addresses of the 32-byte parts of a whole register. -/
def wholeParts (t : Thread) (va : Word) : List Word := (List.range (vecBits t / 256)).map (fun i => va + BitVec.ofNat 64 (32 * i))

/-- `VLD` (R122). -/
def execVld (gd : Guard) (d a la : BitVec 4) (s : State) : Step :=
  issue { guard := gd, uses := fun t => touches [touchVec d t, touchS a], vectors := [d] } (fun k t => do
    let va := t.readS a
    needLanes (wholeParts t va) 32
    let op ← openOp k (touchVec d t) {} la
    sendReq k t op (.gather 64) [(va.toNat, vecBits t / 8)] (fun r => { r with d := d })
    return .seq) s

/-- `VST` (R122). -/
def execVst (gd : Guard) (d a la : BitVec 4) (s : State) : Step :=
  issue { guard := gd, uses := fun t => touches [touchVec d t, touchS a], vectors := [d] } (fun k t => do
    let va := t.readS a
    needLanes (wholeParts t va) 32
    let x := readVec (← look) k t d
    let op ← openOp k {} {} la
    sendReq k t op (.scatter 64) [(va.toNat, vecBits t / 8)] (fun r => { r with data := x.toNat })
    return .seq) s

/-- Byte ranges of lanes. -/
def laneSpans (vas : List Word) (bytes : Nat) : List (Nat × Nat) := vas.map (fun va => (va.toNat, bytes))

/-- Lane width of FN4 2-5, 6-9 and 10-13 (R121). -/
def fnWidth (fn : BitVec 4) : Nat := 8 * 2 ^ ((fn.toNat + 2) % 4)

/-- `VLDS` (R122): lane i at s[A] + i × signed(s[B]). -/
def execVlds (gd : Guard) (d a b fn la : BitVec 4) (s : State) : Step :=
  issue { guard := gd, uses := fun t => touches [touchVec d t, touchS a, touchS b], vectors := [d] } (fun k t => do
    let w := fnWidth fn
    let vas := (List.range (vecBits t / w)).map (fun i => t.readS a + BitVec.ofNat 64 i * t.readS b)
    needLanes vas (w / 8)
    let op ← openOp k (touchVec d t) {} la
    sendReq k t op (.gather w) (laneSpans vas (w / 8)) (fun r => { r with d := d })
    return .seq) s

/-- Lane addresses of an indexed access (R122). -/
def indexed (s : State) (k : Nat) (t : Thread) (a b : BitVec 4) (w : Nat) : List Word :=
  (List.range (vecBits t / w)).map (fun i => t.readS a + BitVec.ofNat 64 ((lane w (readVec s k t b) i).toNat * (w / 8)))

/-- `VGATH` (R122). -/
def execVgath (gd : Guard) (d a b fn la : BitVec 4) (s : State) : Step :=
  issue { guard := gd, uses := fun t => touches [touchVec d t, touchS a, touchVec b t], vectors := [d, b] } (fun k t => do
    let w := fnWidth fn
    let vas := indexed (← look) k t a b w
    needLanes vas (w / 8)
    let op ← openOp k (touchVec d t) {} la
    sendReq k t op (.gather w) (laneSpans vas (w / 8)) (fun r => { r with d := d })
    return .seq) s

/-- `VSCAT` (R122): of two lanes at one element the higher lane's value stays. -/
def execVscat (gd : Guard) (d a b fn la : BitVec 4) (s : State) : Step :=
  issue { guard := gd, uses := fun t => touches [touchVec d t, touchS a, touchVec b t], vectors := [d, b] } (fun k t => do
    let w := fnWidth fn
    let s ← look
    let vas := indexed s k t a b w
    needLanes vas (w / 8)
    let op ← openOp k {} {} la
    sendReq k t op (.scatter w) (laneSpans vas (w / 8)) (fun r => { r with data := (readVec s k t d).toNat % 2 ^ vecBits t })
    return .seq) s

end Sys2Proof.Machine
end

