-- ==== Sys2Proof/Machine/Coef.lean ====
section
/-!
DEFINITION. Coefficient memory: its directory and tables (R125), its owner (R128), `COEFLD` (R126), and the functions evaluated through it (R129, R130).
-/

namespace Sys2Proof.Machine

/-! ### Tables -/

/-- A coefficient memory, its tile's, and the directory's offset in it. -/
structure Coefs where
  mem : List Host.Cell
  tile : Nat
  base : Nat

/-- The functions of `VFN`, by code. -/
inductive CoefFn where
  | exp2 | log2 | rcp | rsq | sin | cos
  deriving DecidableEq, Repr

def CoefFn.code : CoefFn → Nat
  | .exp2 => 0
  | .log2 => 1
  | .rcp => 2
  | .rsq => 3
  | .sin => 4
  | .cos => 5

/-- A directory entry: degree, segment bits, table offset. -/
structure CoefEntry where
  deg : Nat
  segb : Nat
  toff : Nat
  deriving DecidableEq, Repr

/-- Offset of a directory entry. -/
def Coefs.entryAt (c : Coefs) (f : CoefFn) : Nat := c.base + 4 * f.code

/-- The entry of a function, if it passes the checks of R125. -/
def Coefs.entry (c : Coefs) (f : CoefFn) : Option CoefEntry :=
  if 8192 < c.entryAt f + 4 then none
  else
    let x := peek c.mem (coefKey c.tile (c.entryAt f)) 4
    let d := bits x 23 20
    let k := bits x 19 16
    let o := bits x 15 0
    let q := if f = .rsq then 2 ^ (k + 1) else 2 ^ k
    if d = 0 ∨ 7 < d ∨ 8 < k ∨ o % 4 ≠ 0 ∨ 8192 < o + 4 * q * (d + 1) then none else some ⟨d, k, o⟩

/-- Coefficient i of segment j. -/
def Coefs.coefficient (c : Coefs) (e : CoefEntry) (j i : Nat) : Val := fmtF32.decode (peek c.mem (coefKey c.tile (e.toff + 4 * (j * (e.deg + 1) + i))) 4)

/-- poly(j, t): Horner's rule with each step rounded to .f32 (R129). -/
def Coefs.poly (c : Coefs) (e : CoefEntry) (j : Nat) (t : Q) : Val :=
  (List.range e.deg).foldl (fun y n => toF32 (fmaVal 0 y (Val.ofQ t) (c.coefficient e j (e.deg - 1 - n))).1) (c.coefficient e j e.deg)

/-- pick(g, F) and poly of it. -/
def Coefs.segment (c : Coefs) (e : CoefEntry) (g : Q) : Val :=
  let x := Q.scale g e.segb
  let j := x.floor
  c.poly e j.toNat (Q.sub x (Q.ofInt j))

/-- A value times 2^n. -/
def Val.scale (v : Val) (n : Int) : Val :=
  match v with
  | .num q => .num (Q.scale q n)
  | x => x

/-- The special rows of R130: an exact result with the flags of the row. -/
def specialRow (f : CoefFn) (x : Val) : Option (Val × Flags) :=
  match f, x with
  | _, .nan sig _ => some (.nan false false, flagIf sig flagNV)
  | .exp2, .inf n => some (if n then .zero false else .inf false, 0)
  | .exp2, .zero _ => some (.num ⟨1, 1⟩, 0)
  | .exp2, .num q =>
    if Q.le (Q.ofNat 128) q then some (.inf false, flagOF ||| flagNX)
    else if Q.lt q (Q.ofInt (-150)) then some (.zero false, flagUF ||| flagNX)
    else none
  | .log2, .inf n => some (if n then (.nan false false, flagNV) else (.inf false, 0))
  | .log2, .zero _ => some (.inf true, flagDZ)
  | .log2, .num q => if q.isNeg then some (.nan false false, flagNV) else none
  | .rcp, .inf n => some (.zero n, 0)
  | .rcp, .zero n => some (.inf n, flagDZ)
  | .rsq, .inf n => some (if n then (.nan false false, flagNV) else (.zero false, 0))
  | .rsq, .zero n => some (.inf n, flagDZ)
  | .rsq, .num q => if q.isNeg then some (.nan false false, flagNV) else none
  | .sin, .inf _ => some (.nan false false, flagNV)
  | .sin, .zero n => some (.zero n, 0)
  | .cos, .inf _ => some (.nan false false, flagNV)
  | .cos, .zero _ => some (.num ⟨1, 1⟩, 0)
  | _, .num _ => none

/-- r of R129 for a number that no special row takes. `e` is the entry of the function, `es` that of SIN and `ec` that of COS. -/
def Coefs.general (c : Coefs) (f : CoefFn) (e es ec : CoefEntry) (q : Q) : Val :=
  match f with
  | .exp2 =>
    let n := q.floor
    (c.segment e (Q.sub q (Q.ofInt n))).scale n
  | .log2 =>
    let n := Q.log2 q
    (addVal 0 (Val.ofQ (Q.ofInt n)) (c.segment e (Q.sub (Q.scale q (-n)) ⟨1, 1⟩))).1
  | .rcp =>
    let n := Q.log2 q
    let y := (c.segment e (Q.sub (Q.scale q.abs (-n)) ⟨1, 1⟩)).scale (-n)
    if q.isNeg then y.neg else y
  | .rsq =>
    let n := Q.log2 q / 2
    let u := Q.scale q (-2 * n)
    let y :=
      if Q.lt u ⟨2, 1⟩ then c.segment e (Q.sub u ⟨1, 1⟩)
      else
        let x := Q.scale (Q.sub u ⟨2, 1⟩) ((e.segb : Int) - 1)
        let j := x.floor
        c.poly e (2 ^ e.segb + j.toNat) (Q.sub x (Q.ofInt j))
    y.scale (-n)
  | .sin | .cos =>
    let g0 := Q.sub q (Q.ofInt q.floor)
    let h := (Q.scale g0 2).floor
    let g := Q.sub (Q.scale g0 2) (Q.ofInt h)
    let s := c.segment es g
    let k := c.segment ec g
    match f, h.toNat with
    | .sin, 0 => s
    | .sin, 1 => k
    | .sin, 2 => s.neg
    | .sin, _ => k.neg
    | _, 0 => k
    | _, 1 => s.neg
    | _, 2 => k.neg
    | _, _ => s

/-- One lane of `VFN`: the value of the lane in .f32, rounded, and then in T, with its flags, and whether the normaliser serves it (R96, R129, R130). The exact result of a special row is
the one that the row gives, so that only a subnormal operand takes such a lane to the normaliser. (DEDUCED: log 63) -/
def Coefs.lane (c : Coefs) (f : CoefFn) (e es ec : CoefEntry) (t : FloatFmt) (code : Nat) : Nat × Flags × Bool :=
  let x := t.decode code
  match specialRow f x with
  | some (v, fl) => ((roundIeee t 0 v).1, fl, t.subnormal code)
  | none =>
    let r := c.general f e es ec x.toQ
    let (y, f1) := roundIeee fmtF32 0 r
    let (z, f2) := roundIeee t 0 (fmtF32.decode y)
    (z, ((f1 ||| f2) &&& (flagOF ||| flagUF)) ||| flagNX, t.subnormal code || t.tiny r)

/-- A function of one entry as the other units evaluate it: the .f32 result and its flags (R243, R312, R344). -/
def Coefs.call (c : Coefs) (f : CoefFn) (v : Val) : Val × Flags :=
  match specialRow f v with
  | some (x, fl) => (toF32 x, fl)
  | none =>
    match c.entry f with
    | none => (fmtF32.decode (Config.openCoef f.code (roundNe32 v)).toNat, 0)
    | some e =>
      let (y, f1) := roundIeee fmtF32 0 (c.general f e e e v.toQ)
      (fmtF32.decode y, (f1 &&& (flagOF ||| flagUF)) ||| flagNX)

/-- exp2f and log2f. -/
def Coefs.exp2f (c : Coefs) (v : Val) : Val := (c.call .exp2 v).1
def Coefs.log2f (c : Coefs) (v : Val) : Val := (c.call .log2 v).1

/-- The tables that a thread reads: its tile's, at its COEFBASE. -/
def coefsOf (s : State) (k : Nat) (t : Thread) : Coefs := ⟨s.mem, tileOf k, t.coefbase.toNat * 4⟩

/-! ### Owner (R128) -/

/-- Claims a tile's coefficient memory for a thread's context, or raises PROTECTION when another context owns it. (DEDUCED: log 24) -/
def claimCoef (k : Nat) (t : Thread) : Act Unit := do
  match ((← look).tile (tileOf k)).coefOwner with
  | none => modTile (tileOf k) (fun x => { x with coefOwner := some t.ctx })
  | some c => require (c = t.ctx) .protection 0

/-- Requires the directory entries of functions, naming the offset of the first that fails (R125). -/
def needEntries (c : Coefs) (fs : List CoefFn) : Act Unit :=
  forEach fs (fun f => require (c.entry f).isSome .malformedMetadata (BitVec.ofNat 64 (c.entryAt f)))

/-- `VFN` (R129). With both entries of `.sin` and `.cos` bad, the trap names SIN's. (DESIGN CHOICE: log 77) The owner of the coefficient memory is checked before its
directory entries (R125, R128). (DESIGN CHOICE: log 79) -/
def vfnOp (gd : Guard) (f : CoefFn) (d a : BitVec 4) (t : BitVec 4) : State → Step :=
  issue { guard := gd, uses := fun u => touches [touchVec d u, touchVec a u, touchFlags, touchCoef], vectors := [d, a] } (fun k u => do
    claimCoef k u
    let s ← look
    let c := coefsOf s k u
    let fs := if f = .sin ∨ f = .cos then [.sin, .cos] else [f]
    needEntries c fs
    let fmt := typeFmt (t.extractLsb' 0 2)
    let n := fmt.width
    let get (g : CoefFn) : CoefEntry := (c.entry g).getD ⟨1, 0, 0⟩
    let x := readVec s k u a
    let rs := (List.range (vecBits u / n)).map (fun i => c.lane f (get f) (get .sin) (get .cos) fmt (lane n x i).toNat)
    vectorResult k u (touchVec d u) (vecWrite u d (joinLanes n (rs.map (fun r => BitVec.ofNat n r.1)))) (some (orAll (rs.map (·.2.1))))
    if u.long then pure () else forfeit k ((fs.map (fun g => (get g).deg)).foldl max 0 + if rs.any (·.2.2) then 2 else 0)
    return .seq)

/-- `VFN.exp2` (R129). -/
def execVfnExp2 (gd : Guard) (d a t : BitVec 4) (s : State) : Step := vfnOp gd .exp2 d a t s
/-- `VFN.log2` (R129). -/
def execVfnLog2 (gd : Guard) (d a t : BitVec 4) (s : State) : Step := vfnOp gd .log2 d a t s
/-- `VFN.rcp` (R129). -/
def execVfnRcp (gd : Guard) (d a t : BitVec 4) (s : State) : Step := vfnOp gd .rcp d a t s
/-- `VFN.rsq` (R129). -/
def execVfnRsq (gd : Guard) (d a t : BitVec 4) (s : State) : Step := vfnOp gd .rsq d a t s
/-- `VFN.sin` (R129): sin(2πx). -/
def execVfnSin (gd : Guard) (d a t : BitVec 4) (s : State) : Step := vfnOp gd .sin d a t s
/-- `VFN.cos` (R129): cos(2πx). -/
def execVfnCos (gd : Guard) (d a t : BitVec 4) (s : State) : Step := vfnOp gd .cos d a t s

/-- `COEFLD` (R126): canonical form of the source's addresses, ownership, alignment of address, offset and length, then the length's range. -/
def execCoefld (gd : Guard) (a b la : BitVec 4) (s : State) : Step :=
  issue { guard := gd, uses := fun _ => touches [touchS a, touchS b, touchCoef] } (fun k t => do
    let va := t.readS a
    let off := (t.readS b).toNat % 2 ^ 13
    let len := bits (t.readS b).toNat 29 16
    needCanonical va
    require (decide (va.toNat + len ≤ vaEnd)) .protection (BitVec.ofNat 64 vaEnd)
    claimCoef k t
    needAligned va 8
    require (decide (off % 8 = 0)) .align (BitVec.ofNat 64 off)
    require (decide (len % 8 = 0)) .align (BitVec.ofNat 64 len)
    require (decide (0 < len)) .protection 0
    require (decide (off + len ≤ 8192)) .protection (BitVec.ofNat 64 (off + len))
    let op ← openOp k touchCoef {} la
    sendReq k t op (.coef off) [(va.toNat, len)] id
    return .seq) s

end Sys2Proof.Machine
end

