-- ==== Sys2Proof/Machine/Control.lean ====
section
/-!
DEFINITION. Branches and jumps (R87-R89), and the control registers (R74-R76).
-/

namespace Sys2Proof.Machine

/-! ### Branches and jumps -/

/-- A branch: its condition is its guard, read at issue (R21, R87). -/
def branchOp (gd : Guard) (len : Nat) (off : Word) : State → Step :=
  issue { guard := gd, len := len } (fun _ t => return .jump (t.pc + 2 * off))

/-- A jump by an offset in halfwords, with the return address (R88). -/
def jumpOp (len : Nat) (d : BitVec 4) (off : Word) : State → Step :=
  issue { len := len, uses := fun _ => touchS d } (fun k t => do
    modThread k (fun u => u.writeS d (t.pc + 4))
    return .jump (t.pc + 2 * off))

/-- `BR` (R87). -/
def execBr (gd : Guard) (off : BitVec 20) (s : State) : Step := branchOp gd 4 (off.signExtend 64) s

/-- `JAL` (R88). -/
def execJal (d : BitVec 4) (off : BitVec 20) (s : State) : Step := jumpOp 4 d (off.signExtend 64) s

/-- `JALR` (R88): an odd target traps ALIGN and leaves s[D]. -/
def execJalr (d a : BitVec 4) (off : BitVec 16) (s : State) : Step :=
  issue { uses := fun _ => touches [touchS d, touchS a] } (fun k t => do
    let target := t.readS a + off.signExtend 64
    require (!target.getLsbD 0) .align target
    modThread k (fun u => u.writeS d (t.pc + 4))
    return .jump target) s

/-- `C.BR` (R89): `BR pK`. -/
def execCBr (pf : BitVec 4) (off : BitVec 7) (s : State) : Step := branchOp ⟨pf, false⟩ 2 (off.signExtend 64) s

/-- `C.J` (R89): `JAL s0`. -/
def execCJ (off : BitVec 11) (s : State) : Step := jumpOp 2 0 (off.signExtend 64) s

/-! ### Control registers (R75) -/

/-- Index of PRED and of FLAGS in the map. -/
def indexPred : Nat := 0x008
def indexFlags : Nat := 0x020

/-- The value that `GETC` reads (R75). -/
def readControl (s : State) (k : Nat) (t : Thread) (i : Nat) : Word :=
  match i with
  | 0x000 => BitVec.ofNat 64 (tidOf k t)
  | 0x001 => BitVec.ofNat 64 (slotOf k)
  | 0x002 => BitVec.ofNat 64 (roleOf k)
  | 0x003 => BitVec.ofNat 64 (tileOf k % 8)
  | 0x004 => BitVec.ofNat 64 (clusterOfTile (tileOf k) % 64)
  | 0x005 => BitVec.ofNat 64 (dieOf k)
  | 0x008 => t.predWord.zeroExtend 64
  | 0x010 => BitVec.ofNat 64 (coreCycle s (tileOf k))
  | 0x020 => t.flags.zeroExtend 64
  | 0x021 => t.rmode.zeroExtend 64
  | 0x022 => t.approx.zeroExtend 64
  | 0x023 => if t.div0 then 1 else 0
  | 0x030 => t.waitlim.zeroExtend 64
  | 0x031 => t.retrylim.zeroExtend 64
  | 0x038 => t.prio.zeroExtend 64
  | 0x040 => (if t.inreg then 4 else 0) + (if t.broken then 2 else 0) + (if t.fixed then 1 else 0)
  | 0x050 => t.fmta
  | 0x051 => t.fmtb
  | 0x052 => t.fmts
  | 0x060 => t.coefbase.zeroExtend 64 <<< 2
  | 0x070 => t.trapvec
  | 0x071 => t.traprec
  | _ => 0

/-- APPROX keeps EN and D (R214). -/
def maskApprox (x : BitVec 9) : BitVec 9 := x &&& 0x11F

/-- PRIO takes the lesser of the value and 3 (R59, R75). -/
def clampPrio (x : Word) : BitVec 2 := if x.toNat < 3 then BitVec.ofNat 2 x.toNat else 3

/-- The thread after `SETC` (R75); PRIO does not change in the runner slot. -/
def writeControl (k : Nat) (t : Thread) (i : Nat) (x : Word) : Thread :=
  match i with
  | 0x008 => t.setPredWord (x.extractLsb' 0 16)
  | 0x020 => { t with flags := x.extractLsb' 0 5 }
  | 0x021 => { t with rmode := x.extractLsb' 0 2 }
  | 0x022 => { t with approx := maskApprox (x.extractLsb' 0 9) }
  | 0x023 => { t with div0 := x.getLsbD 0 }
  | 0x030 => { t with waitlim := x.extractLsb' 0 32 }
  | 0x031 => { t with retrylim := x.extractLsb' 0 16 }
  | 0x038 => if isRunner k then t else { t with prio := clampPrio x }
  | 0x040 => { t with broken := x.getLsbD 1 }
  | 0x050 => { t with fmta := x }
  | 0x051 => { t with fmtb := x }
  | 0x052 => { t with fmts := x }
  | 0x060 => { t with coefbase := x.extractLsb' 2 11 }
  | 0x070 => { t with trapvec := x }
  | 0x071 => { t with traprec := x }
  | _ => t

/-- What an access to a control register touches beside s[D]: PRED is every predicate, FLAGS is a destination of its own (R72, R76). -/
def controlTouch (i : Nat) : Touch :=
  if i = indexPred then { p := 0xFFFE } else if i = indexFlags then touchFlags else {}

/-- `GETC` (R74). -/
def execGetc (gd : Guard) (d : BitVec 4) (imm : BitVec 12) (s : State) : Step :=
  issue { guard := gd, uses := fun _ => (touchS d).union (controlTouch imm.toNat) } (fun k t => do
    modThread k (fun u => u.writeS d (readControl s k t imm.toNat))
    return .seq) s

/-- `SETC` (R74). -/
def execSetc (gd : Guard) (d : BitVec 4) (imm : BitVec 12) (s : State) : Step :=
  issue { guard := gd, uses := fun _ => (touchS d).union (controlTouch imm.toNat) } (fun k t => do
    modThread k (fun u => writeControl k u imm.toNat (t.readS d))
    return .seq) s

end Sys2Proof.Machine
end

