-- ==== Sys2Proof/Machine/Thread.lean ====
section
/-!
DEFINITION. Threads: slots and what empties them (R41-R43, R53), the thread instructions (R49-R59), barriers (R66-R69), migration (R60-R62), and the runner slot (R63-R65, R183).
-/

namespace Sys2Proof.Machine

/-! ### Slots -/

/-- The crew that has reserved a slot (R42). -/
def reservedBy (s : State) (k : Nat) : Option Nat := (s.crews.find? (fun c => c.2.reserved.contains k)).map (·.1)

/-- What system software must have placed on a die before it takes work or runs a thread: context table, fault ring, parking area and save areas (R393). -/
def dieReady (s : State) (die : Nat) : Bool :=
  let d := s.die die
  d.contextTable.isSome && d.ring.isSome && d.parking.isSome && d.saveAreas.isSome

/-- A slot may be taken by a member of a crew, or by a thread that belongs to none (R42, R52). -/
def slotOpen (s : State) (crew : Option Nat) (k : Nat) : Bool :=
  (s.thread? k).isNone && (match reservedBy s k with | none => true | some c => crew = some c)

/-- The crew whose reserved slots a thread may take. -/
def crewOf (t : Thread) : Option Nat := if t.detached then none else some t.crew

/-- General slots of a core. -/
def generalSlots (core : Nat) : List Nat := (List.range 16).map (keyOf core)

/-- A context queued at a core that may take a slot, oldest first (R61). -/
def queuedFor (s : State) (k : Nat) : Option (Nat × Migrant) :=
  let ms := s.migrants.filter (fun m => m.2.target = coreOf k && m.2.arrived.isSome && slotOpen s (crewOf m.2.thread) k)
  ms.foldl (fun b m => match b with
    | none => some m
    | some c => if m.2.arrived.getD 0 < c.2.arrived.getD 0 then some m else b) none

/-- The slot that a spawn takes on a core: the lowest that is open to it and for which no queued context is eligible (R50). -/
def spawnSlot (s : State) (crew : Option Nat) (core : Nat) : Option Nat :=
  (generalSlots core).find? (fun k => slotOpen s crew k && (queuedFor s k).isNone)

/-- A thread takes a slot: its incarnation is the count of earlier starts (R43). -/
def enterSlot (k : Nat) (t : Thread) : Act Unit := do
  let s ← look
  let n := (mapGet k s.starts).getD 0
  emit (.start k (n + 1))
  emit (.thread k (some { t with inc := n }))

/-- A thread with every register zero and nothing in flight (R51, R63). -/
def freshThread (ctx crew flask : Nat) (pc : Word) : Thread where
  pcHalf := pc.extractLsb' 1 63
  s := Vector.replicate 16 0
  p := 1
  e := Vector.replicate 8 0
  v := Vector.replicate 8 0
  long := false
  inc := 0
  status := .active
  wake := false
  wakeRel := []
  flags := 0
  rmode := 0
  approx := 0
  div0 := false
  waitlim := 0
  retrylim := 0
  prio := 0
  fixed := false
  broken := false
  inreg := false
  fmta := 0
  fmtb := 0
  fmts := 0
  coefbase := 0
  trapvec := 0
  traprec := 0
  intrap := false
  due := []
  heldTraps := []
  entering := none
  ops := []
  windows := []
  forfeits := 0
  ctx := ctx
  crew := crew
  flask := flask
  index := 0
  spawned := false
  detached := false
  scope := .device
  barCrew := {}
  barFlask := {}
  group := none
  spill := none
  waitSince := none
  faultSince := none
  word := 0
  idle := 0
  lastIssue := 0
  after := []
  owed := none
  fetchFault := none
  fetchFrom := 0

/-- The states of R47 as the manual names them. -/
inductive SlotState where
  | empty | active | waiting | parked | spilled | leaving
  deriving DecidableEq, Repr

/-- A window of a thread has run out, and the request of the operation that opened it is on a list (R173). -/
def waitsOnList (s : State) (k : Nat) (t : Thread) : Bool :=
  t.windows.any (fun w => w.left = 0 && t.incomplete w.op
    && s.reqs.any (fun r => r.2.who = .thread k && r.2.op = w.op && (match r.2.stage with | .listed _ => true | _ => false)))

/-- The state of R47 that a slot is in. A thread whose window has run out is WAITING, or PARKED while the request is on a list (R24, R173); one that forfeits turns is WAITING (R96). (DEDUCED: log 57) -/
def slotState (s : State) (k : Nat) : SlotState :=
  match s.thread? k with
  | none => .empty
  | some t =>
    match t.status with
    | .active => if waitsOnList s k t then .parked else if t.blocked || decide (t.forfeits ≠ 0) then .waiting else .active
    | .waiting _ => if waitsOnList s k t then .parked else .waiting
    | .parked _ => .parked
    | .spilled => .spilled
    | .leaving _ => .leaving

/-- Some thread of a context remains on a tile; SPILLED and LEAVING ones count, and one that moves between two cores of the tile (R62, R128, R201, R249, R252). (DEDUCED: log 56) -/
def contextOn (s : State) (tile ctx : Nat) : Bool :=
  s.threads.any (fun kt => tileOf kt.1 = tile && kt.2.ctx = ctx)
    || s.migrants.any (fun m => m.2.source = tile && tileOfCore m.2.target = tile && m.2.thread.ctx = ctx)

/-- The array as its release leaves it; its accumulators are +0 (R201). -/
def clearArray (a : MatrixArray) : MatrixArray := { a with holder := none, active := none, shadow := none, monitor := {} }

/-- What returns to having no owner once no thread of its context remains on a tile: coefficient memory, semaphores, queues, and the array once its commands have completed. -/
def releaseTile (tile : Nat) : Act Unit := do
  let s ← look
  let x := s.tile tile
  let gone (o : Option Nat) : Bool := match o with | some c => !contextOn s tile c | none => false
  if gone x.coefOwner then
    emitAll ((List.range 8192).filterMap (fun i => if Memory.read s.mem (coefKey tile i) = 0 then none else some (.byte (coefKey tile i) 0)))
  else pure ()
  let freed := gone x.array.holder && x.array.fifo.isEmpty
  if freed then emitAll ((s.accs.filter (fun e => e.1 / 8192 = tile)).map (fun e => .acc e.1 0)) else pure ()
  let y := { x with
    coefOwner := if gone x.coefOwner then none else x.coefOwner
    sems := x.sems.map (fun m => if gone m.owner then {} else m)
    queues := x.queues.map (fun q => if gone q.owner then {} else q)
    array := if freed then clearArray x.array else x.array }
  if y = x then pure () else emit (.tile tile y)

/-! ### Graphics groups (R361) -/

/-- LWM raised past every consecutive ended index. -/
def raiseLwm (ended : List Nat) : Nat → Nat → Nat
  | 0, l => l
  | fuel + 1, l => if ended.contains l then raiseLwm ended fuel (l + 1) else l

/-- The open group of a thread ends: its unpopped fragments go, and its index counts as ended (R361). -/
def endGroup (k : Nat) : Act Unit := do
  let s ← look
  match s.thread? k with
  | none => pure ()
  | some t =>
    match t.group with
    | none => pure ()
    | some g =>
      match mapGet g.gctx s.gctxs with
      | none => pure ()
      | some c =>
        let bound := c.bound.filter (· ≠ k)
        if c.serial = g.draw then
          let ended := g.index :: c.ended
          let lwm := raiseLwm ended ended.length c.lwm
          emit (.gctx g.gctx (some { c with bound := bound, lwm := lwm, begun := c.begun.filter (fun i => decide (lwm ≤ i)), ended := ended.filter (fun i => decide (lwm ≤ i)) }))
        else emit (.gctx g.gctx (some { c with bound := bound }))
      modThread k (fun t => { t with group := none })

/-! ### Crews, flasks and their barriers (R67, R68) -/

/-- The key that stands in a crew for a member on its way. -/
def travelKey (id : Nat) : Nat := 2 ^ 30 + id

/-- A member of a crew, in its slot or on its way. -/
def memberThread (s : State) (m : Nat) : Option Thread :=
  if 2 ^ 30 ≤ m then (mapGet (m - 2 ^ 30) s.migrants).map (·.thread) else s.thread? m

/-- Changes a member. -/
def modMember (m : Nat) (f : Thread → Thread) : Act Unit := do
  if 2 ^ 30 ≤ m then
    match mapGet (m - 2 ^ 30) (← look).migrants with
    | some x => emit (.migrant (m - 2 ^ 30) (some { x with thread := f x.thread }))
    | none => pure ()
  else modThread m f

/-- Members of a crew or of a flask. -/
def crewMembers (s : State) (c : Nat) : List Nat := ((mapGet c s.crews).map (·.members)).getD []
def flaskMembers (s : State) (f : Nat) : List Nat := (((mapGet f s.flasks).map (·.crews)).getD []).flatMap (crewMembers s)

/-- A barrier of a thread: the members, its phase, and what its completed phases released. -/
structure Barrier where
  flask : Bool
  unit : Nat
  members : List Nat
  phase : BitVec 32
  rel : List Nat
  prev : List Nat

/-- A member's flags at a barrier. -/
def flagsAt (flask : Bool) (t : Thread) : BarrierFlags := if flask then t.barFlask else t.barCrew
def setFlagsAt (flask : Bool) (b : BarrierFlags) (t : Thread) : Thread := if flask then { t with barFlask := b } else { t with barCrew := b }

/-- The crew's or flask's barrier of a thread; a detached thread has barriers of its own, whose phase and releases it keeps itself (R52). -/
def barrierOf (s : State) (k : Nat) (t : Thread) (flask : Bool) : Barrier :=
  if t.detached then ⟨flask, 0, [k], (flagsAt flask t).phase, [], (flagsAt flask t).prev⟩
  else if flask then
    match mapGet t.flask s.flasks with
    | some f => ⟨true, t.flask, flaskMembers s t.flask, f.phase, f.rel, f.prev⟩
    | none => ⟨true, t.flask, [k], 0, [], []⟩
  else
    match mapGet t.crew s.crews with
    | some c => ⟨false, t.crew, c.members, c.phase, c.rel, c.prev⟩
    | none => ⟨false, t.crew, [k], 0, [], []⟩

/-- A wait for a phase is satisfied (R67). -/
def phaseDone (now waited : BitVec 32) : Bool := decide (1 ≤ (now - waited).toNat) && decide ((now - waited).toNat ≤ 2 ^ 31)

/-- Scope of a barrier for a thread (R67, R184). -/
def barrierScope (t : Thread) (flask : Bool) : Scope := if t.detached then .device else if flask then .flask else .crew

/-- The wait of a parked thread is over: its PC moves past the waiting instruction, and nothing but a page fault or its `STEPB` keeps it PARKED. -/
def endWait (k : Nat) : Act Unit := do
  let s ← look
  modThread k (fun t => { t.setPc (t.pc + 4) with status := goOn s k t, waitSince := none })

/-- Releases the waiters of a barrier whose wait is satisfied; a spilled one has its BDONE bit set (R67, R69, R299). -/
def releaseWaiters (flask : Bool) (members : List Nat) (phase : BitVec 32) (rel : List Nat) : Act Unit :=
  forEach members (fun m => do
    match (← look).thread? m with
    | none => pure ()
    | some t =>
      match t.status with
      | .parked (.barrier f w _) =>
        if f = flask && phaseDone phase w then do
          endWait m
          acquireFrom m rel (barrierScope t flask)
        else pure ()
      | .spilled =>
        match t.spill with
        | some ⟨_, some (.barrier f w true)⟩ => if f = flask && phaseDone phase w then maskSave m 456 8 0 (2 ^ (if flask then 58 else 57)) else pure ()
        | _ => pure ()
      | _ => pure ())

/-- The phase completes when every current member has arrived (R67). -/
def completeIf (flask : Bool) (u : Nat) (members : List Nat) : Act Unit := do
  let s ← look
  if members.isEmpty || !members.all (fun m => match memberThread s m with | some t => (flagsAt flask t).arrived | none => false) then pure ()
  else do
    forEach members (fun m => modMember m (fun t => setFlagsAt flask { flagsAt flask t with arrived := false } t))
    if flask then
      match mapGet u s.flasks with
      | none => pure ()
      | some f => do
        let prev := outstanding s f.prev ++ outstanding s f.rel
        emit (.flask u (some { f with phase := f.phase + 1, rel := [], prev := prev }))
        releaseWaiters true members (f.phase + 1) prev
    else
      match mapGet u s.crews with
      | none => pure ()
      | some c => do
        let prev := outstanding s c.prev ++ outstanding s c.rel
        emit (.crew u (some { c with phase := c.phase + 1, rel := [], prev := prev }))
        releaseWaiters false members (c.phase + 1) prev

/-- arrive(X) (R67). -/
def arriveAt (k : Nat) (flask : Bool) : Act Unit := do
  let s ← look
  match s.thread? k with
  | none => pure ()
  | some t =>
    let x := barrierOf s k t flask
    let b := flagsAt flask t
    if t.detached then
      -- its own arrival completes its own barrier at once (R52); the phase it arrived in is one less than the one it now keeps
      modThread k (setFlagsAt flask { b with phase := x.phase + 1, prev := outstanding s x.prev ++ releaseSet s k })
    else do
      if b.arrived then pure () else do
        modThread k (setFlagsAt flask { b with arrived := true, phase := x.phase })
        let rel := releaseSet s k
        if flask then
          match mapGet t.flask s.flasks with
          | some f => emit (.flask t.flask (some { f with rel := f.rel ++ rel }))
          | none => pure ()
        else
          match mapGet t.crew s.crews with
          | some c => emit (.crew t.crew (some { c with rel := c.rel ++ rel }))
          | none => pure ()
      completeIf flask x.unit x.members

/-- take_or_arrive(X), and the phase that the thread has arrived in (R67). -/
def takeOrArrive (k : Nat) (flask : Bool) : Act (BitVec 32) := do
  let t ← current
  let b := flagsAt flask t
  if b.outstanding then modThread k (setFlagsAt flask { b with outstanding := false })
  else arriveAt k flask
  let t ← current
  return if t.detached then (flagsAt flask t).phase - 1 else (flagsAt flask t).phase

/-- Waits for a phase: passes at once when it is over, else parks (R67). -/
def waitPhase (k : Nat) (flask : Bool) (phase : BitVec 32) (own : Bool) : Act Flow := do
  let s ← look
  let t ← current
  let x := barrierOf s k t flask
  if phaseDone x.phase phase then do
    acquireFrom k x.prev (barrierScope t flask)
    return .seq
  else do
    let wait : Status := .parked (.barrier flask phase own)
    modThread k (fun t => { t with status := wait, waitSince := some (wait, coreCycle s (tileOf k)) })
    return .hold

/-- `BARC` and `BARF`. -/
def barrierWait (gd : Guard) (flask : Bool) : State → Step :=
  issue { guard := gd } (fun k _ => do
    notInRunner k
    let p ← takeOrArrive k flask
    waitPhase k flask p true)

/-- `BARA`. -/
def barrierArrive (gd : Guard) (flask : Bool) (d : BitVec 4) : State → Step :=
  issue { guard := gd, uses := fun _ => touchS d } (fun k _ => do
    notInRunner k
    let p ← takeOrArrive k flask
    modThread k (fun t => t.writeS d (p.zeroExtend 64))
    return .seq)

/-- `BARW`. -/
def barrierPhase (gd : Guard) (flask : Bool) (a : BitVec 4) : State → Step :=
  issue { guard := gd, uses := fun _ => touchS a } (fun k t => do
    notInRunner k
    waitPhase k flask ((t.readS a).extractLsb' 0 32) false)

/-- `BARC` (R67). -/
def execBarc (gd : Guard) (s : State) : Step := barrierWait gd false s
/-- `BARF` (R67). -/
def execBarf (gd : Guard) (s : State) : Step := barrierWait gd true s
/-- `BARA.crew` (R67). -/
def execBaraCrew (gd : Guard) (d : BitVec 4) (s : State) : Step := barrierArrive gd false d s
/-- `BARA.flask` (R67). -/
def execBaraFlask (gd : Guard) (d : BitVec 4) (s : State) : Step := barrierArrive gd true d s
/-- `BARW.crew` (R67). -/
def execBarwCrew (gd : Guard) (a : BitVec 4) (s : State) : Step := barrierPhase gd false a s
/-- `BARW.flask` (R67). -/
def execBarwFlask (gd : Guard) (a : BitVec 4) (s : State) : Step := barrierPhase gd true a s

/-- A cluster's mode changes: every line of its 32 L1s is discarded (R157). (DEDUCED: log 41) -/
def setFusion (cl : Nat) (fused : Bool) : Act Unit := do
  forEach (clusterCores cl) (fun c => do if ((← look).core c).l1.isEmpty then pure () else l1Clear c)
  modCluster cl (fun x => { x with fused := fused, departedCrews := [], departedFlasks := [] })

/-- A member leaves its crew and flask; a phase whose remaining members have all arrived completes, and a crew whose last member has left frees its reservation (R42, R53, R68). -/
def leaveUnits (k : Nat) (t : Thread) : Act Unit := do
  match mapGet t.crew (← look).crews with
  | none => pure ()
  | some c =>
    let rest := c.members.filter (· ≠ k)
    if rest.isEmpty then
      emit (.crew t.crew none)
      match mapGet t.flask (← look).flasks with
      | none => pure ()
      | some f =>
        let crews := f.crews.filter (· ≠ t.crew)
        if crews.isEmpty then
          emit (.flask t.flask none)
          if ((← look).cluster f.cluster).fused && !(← look).flasks.any (fun x => x.2.cluster = f.cluster) then setFusion f.cluster false else pure ()
          match mapGet f.grid (← look).grids with
          | some g => emit (.grid f.grid (some { g with done := g.done + 1 }))
          | none => pure ()
        else do
          emit (.flask t.flask (some { f with crews := crews }))
          completeIf true t.flask (flaskMembers (← look) t.flask)
    else do
      emit (.crew t.crew (some { c with members := rest }))
      completeIf false t.crew rest
      completeIf true t.flask (flaskMembers (← look) t.flask)

/-- A thread leaves its slot in the cycle of its issue, which still counts for its flask (R301). -/
def keepIssue (t : Thread) : Act Unit := do
  let s ← look
  match mapGet t.flask s.flasks with
  | some f => if t.lastIssue = s.cycle && !t.detached then emit (.flask t.flask (some { f with leftIssue := some s.cycle })) else pure ()
  | none => pure ()

/-- The slot of a thread that has ended becomes EMPTY (R53). -/
def vacate (k : Nat) : Act Unit := do
  match (← look).thread? k with
  | none => pure ()
  | some t =>
    endGroup k
    releaseUnit k
    keepIssue t
    emit (.thread k none)
    releaseTile (tileOf k)
    if t.detached then pure () else leaveUnits k t

/-! ### Spawning (R50-R52) -/

/-- The lowest thread index that no current member of a crew holds (R58). -/
def freeIndex (s : State) (crew : Nat) : Nat :=
  let used := (crewMembers s crew).filterMap (fun m => (memberThread s m).map (·.index))
  ((List.range (used.length + 1)).find? (fun i => !used.contains i)).getD 0

/-- The state that a spawned thread begins with (R51, R52). -/
def childOf (s : State) (k slot : Nat) (t : Thread) (pc : Word) : Thread :=
  let alone := t.detached
  { freshThread t.ctx t.crew t.flask pc with
    s := (((Vector.replicate 16 0).set 1 (t.readS 1)).set 2 (t.readS 2)).set 3 (t.readS 3) |>.set 4 (t.readS 4)
    rmode := t.rmode, waitlim := t.waitlim, retrylim := t.retrylim, approx := t.approx, prio := t.prio, trapvec := t.trapvec, traprec := t.traprec
    div0 := t.div0, coefbase := t.coefbase, fmta := t.fmta, fmtb := t.fmtb, fmts := t.fmts
    fixed := (s.tile (tileOf slot)).fixed
    spawned := true, detached := alone, scope := if alone then .device else t.scope
    index := if alone then 0 else freeIndex s t.crew
    after := releaseSet s k }

/-- Starts a child in a slot. -/
def startChild (k slot : Nat) (t : Thread) (pc : Word) : Act Unit := do
  let s ← look
  let child := childOf s k slot t pc
  enterSlot slot child
  if t.detached then pure ()
  else
    match mapGet t.crew s.crews with
    | some c => emit (.crew t.crew (some { c with members := c.members ++ [slot] }))
    | none => pure ()
  acquireFrom slot [] (if t.detached then .device else .crew)

/-- Tries the cores of a list in order (R50). -/
def spawnOn (k : Nat) (t : Thread) (pc : Word) : List Nat → Act Bool
  | [] => return false
  | c :: rest => do
    match spawnSlot (← look) (crewOf t) c with
    | some slot => do startChild k slot t pc; return true
    | none => spawnOn k t pc rest

/-- `SPAWN` and `SPAWNR`: `cores` lists the cores to try, or is absent when the core operand is out of range (R50). -/
def spawnOp (gd : Guard) (d : BitVec 4) (uses : Touch) (b : BitVec 4) (cores : Nat → Thread → Option (List Nat)) : State → Step :=
  issue { guard := gd, uses := fun _ => touches [touchP d, uses, touchS b, touchS 1, touchS 2, touchS 3, touchS 4] } (fun k t => do
    let s ← look
    let full := !t.detached && decide (64 ≤ (crewMembers s t.crew).length)
    let ok ← match cores k t with
      | none => pure false
      | some l => if full then pure false else spawnOn k t (t.readS b) l
    modThread k (fun u => u.writeP d (!ok))
    return .seq)

/-- `SPAWN` (R50). -/
def execSpawn (gd : Guard) (d a b : BitVec 4) (s : State) : Step :=
  spawnOp gd d (touchS a) b (fun k t => if (t.readS a).toNat ≤ 3 then some [coreOf k / 4 * 4 + (t.readS a).toNat] else none) s

/-- `SPAWNR` (R50). -/
def execSpawnr (gd : Guard) (d b : BitVec 4) (s : State) : Step :=
  spawnOp gd d {} b (fun k _ => some ([1, 2, 3, 4].map (fun i => coreOf k / 4 * 4 + (coreOf k + i) % 4))) s

/-! ### Ending, yielding, parking and waking (R53-R57) -/

/-- `QUIT`: the thread leaves rotation; its slot empties once its writebacks have arrived (R53, R64). (DEDUCED: log 25) -/
def quitOp (gd : Guard) : State → Step :=
  issue { guard := gd } (fun k _ => do
    modThread k (fun t => { t with status := .waiting .quit, due := [], heldTraps := [] })
    return .hold)

/-- `QUIT` (R53). -/
def execQuit (gd : Guard) (s : State) : Step := quitOp gd s
/-- `C.QUIT` (R89). -/
def execCQuit (s : State) : Step := quitOp always s

/-- `YIELD`: in an elastic context and a general slot, the thread waits until its own turn has come round once (R54). -/
def yieldOp (gd : Guard) (len : Nat) : State → Step :=
  issue { guard := gd, len := len } (fun k t => do
    if t.fixed || isRunner k then pure () else modThread k (fun t => { t with status := .waiting .yield })
    return .seq)

/-- `C.YIELD` (R89). -/
def execCYield (s : State) : Step := yieldOp always 2 s

/-- `YIELD` (R54). -/
def execYield (s : State) : Step := yieldOp always 4 s

/-- `YIELD` (R54) under p1. -/
def execYieldIf1 (s : State) : Step := yieldOp ⟨1, false⟩ 4 s

/-- `YIELD` (R54) under p2. -/
def execYieldIf2 (s : State) : Step := yieldOp ⟨2, false⟩ 4 s

/-- `YIELD` (R54) under p3. -/
def execYieldIf3 (s : State) : Step := yieldOp ⟨3, false⟩ 4 s

/-- `YIELD` (R54) under p4. -/
def execYieldIf4 (s : State) : Step := yieldOp ⟨4, false⟩ 4 s

/-- `YIELD` (R54) under p5. -/
def execYieldIf5 (s : State) : Step := yieldOp ⟨5, false⟩ 4 s

/-- `YIELD` (R54) under p6. -/
def execYieldIf6 (s : State) : Step := yieldOp ⟨6, false⟩ 4 s

/-- `YIELD` (R54) under p7. -/
def execYieldIf7 (s : State) : Step := yieldOp ⟨7, false⟩ 4 s

/-- `YIELD` (R54) under p8. -/
def execYieldIf8 (s : State) : Step := yieldOp ⟨8, false⟩ 4 s

/-- `YIELD` (R54) under p9. -/
def execYieldIf9 (s : State) : Step := yieldOp ⟨9, false⟩ 4 s

/-- `YIELD` (R54) under p10. -/
def execYieldIf10 (s : State) : Step := yieldOp ⟨10, false⟩ 4 s

/-- `YIELD` (R54) under p11. -/
def execYieldIf11 (s : State) : Step := yieldOp ⟨11, false⟩ 4 s

/-- `YIELD` (R54) under p12. -/
def execYieldIf12 (s : State) : Step := yieldOp ⟨12, false⟩ 4 s

/-- `YIELD` (R54) under p13. -/
def execYieldIf13 (s : State) : Step := yieldOp ⟨13, false⟩ 4 s

/-- `YIELD` (R54) under p14. -/
def execYieldIf14 (s : State) : Step := yieldOp ⟨14, false⟩ 4 s

/-- `YIELD` (R54) under p15. -/
def execYieldIf15 (s : State) : Step := yieldOp ⟨15, false⟩ 4 s

/-- `YIELD` (R54) under !p1. -/
def execYieldUnless1 (s : State) : Step := yieldOp ⟨1, true⟩ 4 s

/-- `YIELD` (R54) under !p2. -/
def execYieldUnless2 (s : State) : Step := yieldOp ⟨2, true⟩ 4 s

/-- `YIELD` (R54) under !p3. -/
def execYieldUnless3 (s : State) : Step := yieldOp ⟨3, true⟩ 4 s

/-- `YIELD` (R54) under !p4. -/
def execYieldUnless4 (s : State) : Step := yieldOp ⟨4, true⟩ 4 s

/-- `YIELD` (R54) under !p5. -/
def execYieldUnless5 (s : State) : Step := yieldOp ⟨5, true⟩ 4 s

/-- `YIELD` (R54) under !p6. -/
def execYieldUnless6 (s : State) : Step := yieldOp ⟨6, true⟩ 4 s

/-- `YIELD` (R54) under !p7. -/
def execYieldUnless7 (s : State) : Step := yieldOp ⟨7, true⟩ 4 s

/-- `YIELD` (R54) under !p8. -/
def execYieldUnless8 (s : State) : Step := yieldOp ⟨8, true⟩ 4 s

/-- `YIELD` (R54) under !p9. -/
def execYieldUnless9 (s : State) : Step := yieldOp ⟨9, true⟩ 4 s

/-- `YIELD` (R54) under !p10. -/
def execYieldUnless10 (s : State) : Step := yieldOp ⟨10, true⟩ 4 s

/-- `YIELD` (R54) under !p11. -/
def execYieldUnless11 (s : State) : Step := yieldOp ⟨11, true⟩ 4 s

/-- `YIELD` (R54) under !p12. -/
def execYieldUnless12 (s : State) : Step := yieldOp ⟨12, true⟩ 4 s

/-- `YIELD` (R54) under !p13. -/
def execYieldUnless13 (s : State) : Step := yieldOp ⟨13, true⟩ 4 s

/-- `YIELD` (R54) under !p14. -/
def execYieldUnless14 (s : State) : Step := yieldOp ⟨14, true⟩ 4 s

/-- `YIELD` (R54) under !p15. -/
def execYieldUnless15 (s : State) : Step := yieldOp ⟨15, true⟩ 4 s

/-- `PARK`: takes the wake bit, or parks until a wake arrives (R55). -/
def execPark (gd : Guard) (s : State) : Step :=
  issue { guard := gd } (fun k t => do
    notInRunner k
    if t.wake then do
      modThread k (fun t => { t with wake := false, wakeRel := [] })
      acquireFrom k t.wakeRel .device
      return .seq
    else do
      modThread k (fun t => { t with status := .parked .wake })
      return .hold) s

/-- `WAKE`: a TID with nonzero reserved bits or a SLOT of 16 or more is discarded (R56). -/
def execWake (gd : Guard) (a : BitVec 4) (s : State) : Step :=
  issue { guard := gd, uses := fun _ => touchS a } (fun k t => do
    let x := (t.readS a).toNat
    if 2 ^ 26 ≤ x || 16 ≤ x % 32 then pure ()
    else do
      let id ← freshId
      let s ← look
      emit (.wakes (s.wakes ++ [⟨id, x, releaseSet s k, dieOf k⟩]))
    return .seq) s

/-- `SELF` (R58). -/
def selfWord (s : State) (k : Nat) (t : Thread) (n : Nat) : Nat :=
  if n = 0 then tidOf k t
  else if isRunner k then 0
  else if t.detached then (if n = 1 then 0x200 else 0)
  else match n with
    | 1 => t.index + ((mapGet t.crew s.crews).map (·.index)).getD 0 * 64 + (if t.spawned then 512 else 0)
    | 2 => ((mapGet t.flask s.flasks).map (·.index)).getD 0
    | _ => (((mapGet t.flask s.flasks).bind (fun f => mapGet f.grid s.grids)).map (·.packet.job)).getD 0

/-- `SELF` (R58). -/
def execSelf (gd : Guard) (d n : BitVec 4) (s : State) : Step :=
  issue { guard := gd, uses := fun _ => touchS d } (fun k t => do
    let x := selfWord (← look) k t n.toNat
    modThread k (fun u => u.writeS d (BitVec.ofNat 64 x))
    return .seq) s

/-- `PRIO` (R59): nothing in the runner slot. -/
def execPrio (gd : Guard) (a : BitVec 4) (s : State) : Step :=
  issue { guard := gd, uses := fun _ => touchS a } (fun k t => do
    modThread k (fun u => writeControl k u 0x038 (t.readS a))
    return .seq) s

/-! ### Migration (R60-R62) -/

/-- The core that `MIGR.A` targets, for an address in the shared space (R60, R140). -/
def nearCore (k va : Nat) : Nat :=
  let h := homeHash va
  let sl := h % 128
  (h / 128 * 512 + sl / 2 * 8 + sl % 2 * 4 + bits va 9 8) * 4 + roleOf k

/-- A tile's regime suits a thread (R60, R275). -/
def suits (s : State) (t : Thread) (tile : Nat) : Bool :=
  let x := s.tile tile
  if t.fixed then x.fixed && x.owner = some t.ctx else !x.fixed

/-- `MIGR`: the target core, or none where the operand names none. -/
def migrateOp (gd : Guard) (d a : BitVec 4) (target : Nat → Thread → Option Nat) : State → Step :=
  issue { guard := gd, uses := fun _ => touches [touchP d, touchS a] } (fun k t => do
    notInRunner k
    let s ← look
    let c := match target k t with
      | some c => if c ≠ coreOf k && suits s t (tileOfCore c) && !(t.intrap && !t.heldTraps.isEmpty) then some c else none
      | none => none
    match c with
    | none => modThread k (fun u => u.writeP d true)
    | some c => modThread k (fun u => { u.writeP d false with status := .leaving ⟨c, false, t.pc, s.insn, 0, none, some (d, t.readP d)⟩ })
    return .seq)

/-- `MIGR.A` (R60). -/
def execMigrA (gd : Guard) (d a : BitVec 4) (s : State) : Step :=
  migrateOp gd d a (fun k t =>
    let va := (t.readS a).toNat
    if !canonical va then none else if inWindow va then some (coreOf k) else some (nearCore k va)) s

/-- `MIGR.C` (R60). -/
def execMigrC (gd : Guard) (d a : BitVec 4) (s : State) : Step :=
  migrateOp gd d a (fun _ t => if (t.readS a).toNat < 8192 then some (t.readS a).toNat else none) s

/-- The packet of a migration: 192 bytes, or 512 by hardware (R60, R62). -/
def packetImage (s : State) (k : Nat) (t : Thread) (hardware : Bool) : Nat :=
  let put (l : List (Nat × Nat)) : Nat := (l.map (fun p => p.2 * 2 ^ (8 * p.1))).sum
  put ([(0, t.pc.toNat)] ++ (List.range 15).map (fun i => (8 * (i + 1), (t.readS (BitVec.ofNat 4 (i + 1))).toNat))
    ++ [(128, t.trapvec.toNat), (136, t.traprec.toNat), (144, t.fmta.toNat), (152, t.fmtb.toNat), (160, t.fmts.toNat), (168, t.waitlim.toNat),
        (172, t.retrylim.toNat), (174, t.predWord.toNat), (176, statusWord s k t 0 true + bit (hardware && t.long) 12)])
  + (if hardware then put ((List.range 8).map (fun i => (192 + 32 * i, (t.readV (BitVec.ofNat 4 i)).toNat))
    ++ (List.range 8).map (fun i => (448 + 8 * i, (t.readE (BitVec.ofNat 3 i)).toNat))) else 0)

/-- Parking entries of a context (R61). -/
def migrantEntries (hardware : Bool) : Nat := if hardware then 32 else 12

/-- Contexts that take a place of a core's run queue in hardware. -/
def hardwarePlaces (s : State) (core : Nat) : Nat := (s.migrants.filter (fun m => m.2.target = core && m.2.parked.isNone)).length

/-- A member's key is replaced in its crew, and a departure from a fused cluster is noted (R68, R157). -/
def renameMember (t : Thread) (old new : Nat) : Act Unit := do
  match mapGet t.crew (← look).crews with
  | some c => if t.detached then pure () else emit (.crew t.crew (some { c with members := c.members.map (fun m => if m = old then new else m) }))
  | none => pure ()

def noteDeparture (t : Thread) (fromTile toTile : Nat) : Act Unit := do
  let a := clusterOfTile fromTile
  if t.detached || a = clusterOfTile toTile then pure ()
  else modCluster a (fun c => { c with departedCrews := t.crew :: c.departedCrews, departedFlasks := t.flask :: c.departedFlasks })

/-- `MIGRATION_DEPARTURE` (R60-R62): once drained, the thread packs its packet and its slot empties, if the target's run queue or the parking area takes it; else it is refused and tried
again 32 cycles later, until RETRYLIM is exhausted. (DEDUCED: log 13) -/
def execMigrationDeparture (s : State) : Step :=
  let name := "MIGRATION_DEPARTURE"
  commit name (do
    let k := match s.input with | .one k => k | _ => 0
    let t ← needThread name k
    match t.status with
    | .leaving l =>
      due name (t.ops.isEmpty && (match l.again with | some c => decide (Config.resendCycles ≤ cyclesFrom c (coreCycle s (tileOf k))) | none => true))
      let place ← if hardwarePlaces s l.target < 4 then pure (some none)
        else do
          match ← parkingTake (l.target / 2048) (migrantEntries l.hardware) with
          | some i => do
            parkingPoke (l.target / 2048) i (16 * migrantEntries l.hardware) (packetImage s k t l.hardware)
            pure (some (some i))
          | none => pure none
      match place with
      | none =>
        if t.retrylim.toNat ≤ l.resends then do
          modThread k (fun t => { (match l.undo with | some (d, b) => t.writeP d b | none => t).setPc l.pc with status := .active })
          enterTrap k { preciseTrap (t.setPc l.pc) l.insn .parkExhausted (BitVec.ofNat 64 l.target) with info := BitVec.ofNat 64 l.resends } false
        else modThread k (fun t => { t with status := .leaving { l with resends := l.resends + 1, again := some (coreCycle s (tileOf k)) } })
      | some parked => do
        if l.hardware then pure () else endGroup k
        let id ← freshId
        let unit := ((← look).tile (tileOf k)).unit = some k
        if unit then modTile (tileOf k) (fun x => { x with unit := if l.hardware then some (travelKey id) else none }) else pure ()
        let u := match (← look).thread? k with | some u => u | none => t
        keepIssue t
        emit (.thread k none)
        renameMember t k (travelKey id)
        noteDeparture t (tileOf k) (tileOfCore l.target)
        emit (.migrant id (some ⟨{ u with windows := [], status := .active, waitSince := none }, tileOf k, l.target, l.hardware, parked, none⟩))
        releaseTile (tileOf k)
    | _ => stop (.refused (.eventNotDue name))) s

/-- `RUN_QUEUE_ARRIVAL` (R61): the context joins the run queue; one that hardware moved in a fixed-timing context and finds no free slot breaks its timing (R62). -/
def execRunQueueArrival (s : State) : Step :=
  let name := "RUN_QUEUE_ARRIVAL"
  commit name (do
    let i := match s.input with | .one i => i | _ => 0
    match mapGet i s.migrants with
    | none => stop (.refused (.eventNotDue name))
    | some m =>
      due name m.arrived.isNone
      let n ← freshId
      let t := m.thread
      let free := (generalSlots m.target).any (slotOpen s (crewOf t))
      emit (.migrant i (some { m with arrived := some n, thread := if t.fixed && m.hardware && !free then { t with broken := true } else t }))) s

/-- `RUN_QUEUE_ENTRY` (R60-R62): the oldest queued context that may take a free slot of the core enters the lowest that it may take. (DESIGN CHOICE: log 82) The L1 of the core is discarded as by an acquire, so that what the thread has
loaded, stored and acquired before it moved stays seen (R189, R190). (DEDUCED: log 28) -/
def execRunQueueEntry (s : State) : Step :=
  let name := "RUN_QUEUE_ENTRY"
  commit name (do
    let core := match s.input with | .one c => c | _ => 0
    due name (dieReady s (core / 2048))
    match (generalSlots core).filterMap (fun k => (queuedFor s k).map (fun m => (k, m))) with
    | [] => stop (.refused (.eventNotDue name))
    | first :: rest =>
      let (k, i, m) := rest.foldl (fun b x => if x.2.2.arrived.getD 0 < b.2.2.arrived.getD 0 then x else b) first
      emit (.migrant i none)
      match m.parked with
      | some e => parkingRelease (m.target / 2048) e (migrantEntries m.hardware)
      | none =>
        -- the oldest parked context takes the place in hardware
        match ((← look).migrants.filter (fun x => x.2.target = core && x.2.parked.isSome)).foldl (fun (b : Option (Nat × Migrant)) x => match b with
            | none => some x
            | some y => if x.1 < y.1 then some x else b) none with
        | some (j, y) => do
          parkingRelease (core / 2048) (y.parked.getD 0) (migrantEntries y.hardware)
          emit (.migrant j (some { y with parked := none }))
        | none => pure ()
      let t := m.thread
      let u := if m.hardware then t
        else { t with e := Vector.replicate 8 0, v := Vector.replicate 8 0, long := false, broken := true, fixed := (s.tile (tileOfCore core)).fixed }
      enterSlot k u
      renameMember t (travelKey i) k
      if (s.tile (tileOf k)).unit = some (travelKey i) then modTile (tileOf k) (fun x => { x with unit := some k }) else pure ()
      -- the lines of this core may be older than what the thread has seen or acquired on another (R155, R189, R190)
      discardFor core u .device) s

/-- `QUIT_SLOT_EMPTY` (R53). -/
def execQuitSlotEmpty (s : State) : Step :=
  let name := "QUIT_SLOT_EMPTY"
  commit name (do
    let k := match s.input with | .one k => k | _ => 0
    let t ← needThread name k
    due name (t.status = .waiting .quit && t.ops.isEmpty)
    vacate k) s

/-- `WAKE_ARRIVAL` (R56): wakes the thread from `PARK`, sets its wake bit, or is discarded. -/
def execWakeArrival (s : State) : Step :=
  let name := "WAKE_ARRIVAL"
  commit name (do
    let i := match s.input with | .one i => i | _ => 0
    match s.wakes.find? (·.id = i) with
    | none => stop (.refused (.eventNotDue name))
    | some w =>
      emit (.wakes (s.wakes.filter (·.id ≠ i)))
      let k := w.tid % 2 ^ 18
      match s.thread? k with
      | none => pure ()
      | some t =>
        if t.inc.toNat ≠ w.tid / 2 ^ 18 then pure ()
        else do
          if w.fromDie ≠ dieOf k then breakTiming k else pure ()
          match t.status with
          | .parked .wake => do
            endWait k
            acquireFrom k w.rel .device
          | .spilled => do
            maskSave k 456 8 0 (2 ^ 11)
            modThread k (fun t => { t with wakeRel := t.wakeRel ++ w.rel })
          | _ => modThread k (fun t => { t with wake := true, wakeRel := t.wakeRel ++ w.rel })) s

/-! ### The runner slot (R63, R183) -/

/-- Messages that take a place of a core's runner queue in hardware. -/
def runnerPlaces (c : Core) : Nat := (c.runnerQ.filter (·.parked.isNone)).length

/-- A parked message (R183). -/
def messageBytes (pc : Word) (words : List Word) (seq : Option Nat) (ctx sender : Nat) : Nat :=
  pc.toNat + joinBytes (words.map (fun w => (w.toNat, 8))) * 2 ^ 64 + seq.getD 0 * 2 ^ 320 + ctx % 2 ^ 12 * 2 ^ 352 + sender % 2 ^ 13 * 2 ^ 368

/-- The peer that a DEVICE names, if a port leads to it, and the local context's number there (R181, R374). -/
def reachablePeer (s : State) (device : Nat) : Option PeerEntry :=
  match mapGet device s.peers with
  | none => none
  | some e => if e.ports.any (fun p => match s.mgmt.ports[p]? with | some x => x.live && x.mode = .qorger | none => false) then some e else none

/-- A message takes a place in a core's runner queue, or three entries of the parking area (R183); false: neither has room. -/
def queueMessage (core : Nat) (m : Message) : Act Bool := do
  let put (p : Option Nat) : Act Unit := modCore core (fun c => { c with runnerQ := c.runnerQ ++ [{ m with parked := p }] })
  if runnerPlaces ((← look).core core) < 8 then do
    put none
    return true
  else
    match ← parkingTake (core / 2048) 3 with
    | some e => do
      parkingPoke (core / 2048) e 48 (messageBytes m.pc m.words m.seq m.ctx m.sender)
      put (some e)
      return true
    | none => return false

/-- `MESSAGE_ARRIVAL` (R182, R183): the message takes a place in the runner queue or the parking area, which completes its `RMSG`; or is refused; or leaves for its peer. The PROTECTION of one
whose DEVICE is refused, because it names no peer that can be reached or one with no binding of the sender's context, has the DEVICE as its ADDR (R288), and the sequence numbers of the senders of a core that belong to no grid count as those of one grid. (DESIGN CHOICE: log 84) -/
def execMessageArrival (s : State) : Step :=
  let name := "MESSAGE_ARRIVAL"
  commit name (do
    let i := match s.input with | .one i => i | _ => 0
    let r ← needReq name i
    due name (r.stage = .sent && (outstanding s r.after).isEmpty)
    match r.ask with
    | .message core device pc words seq =>
      if device ≠ 0 then
        match (reachablePeer s device).bind (·.contexts.find? (·.1 = r.ctx)) with
        | none => fail r .protection device 0 (fun _ => false)
        | some c => do
          emit (.send (.peerMessage device core pc words seq c.2))
          complete r []
      else do
        let grid := match r.who with
          | .thread k => (match s.thread? k with
            | some t => if t.detached then 0 else ((mapGet t.flask s.flasks).map (fun f => f.grid + 1)).getD 0
            | none => 0)
          | _ => 0
        if ← queueMessage core ⟨pc, words, seq, r.ctx, r.core, grid, r.after, none, .device⟩ then complete r [] else refuse r core
    | _ => stop (.refused (.eventNotDue name))) s

/-- The number whose turn it is among the messages of a message's sender and grid (R183). -/
def Core.nextSeq (c : Core) (m : Message) : Nat := ((c.seqs.find? (fun x => x.1 = m.sender && x.2.1 = m.grid)).map (·.2.2)).getD 0

/-- A message may start: a plain one always, a sequenced one when its number is the next of its sender and grid, unless one of theirs waits with a number whose turn has gone by: a
duplicated number stalls the later ones (R183). -/
def mayStart (c : Core) (m : Message) : Bool :=
  match m.seq with
  | none => true
  | some q => q = c.nextSeq m && !c.runnerQ.any (fun x => x.sender = m.sender && x.grid = m.grid && (match x.seq with | some p => decide (p < q) | none => false))

/-- The first message of a queue that may start, and the queue without it. -/
def takeMessage (c : Core) : List Message → Option (Message × List Message)
  | [] => none
  | m :: r => if mayStart c m then some (m, r) else (takeMessage c r).map (fun x => (x.1, m :: x.2))

/-- The control registers of defaults (R63, R257). -/
def applyDefaults (r : ControlDefaults) (t : Thread) : Thread :=
  { t with rmode := r.rmode, waitlim := r.waitlim, retrylim := r.retrylim, prio := r.prio, approx := maskApprox r.approx, div0 := r.div0, coefbase := r.coefbase,
           trapvec := r.trapvec, traprec := r.traprec, fmta := r.fmta, fmtb := r.fmtb, fmts := r.fmts }

/-- `HANDLER_START` (R63, R64, R182): the runner slot starts the next queued message that may run, acquiring at device scope, or at
system scope for a message from a peer (R195). -/
def execHandlerStart (s : State) : Step :=
  let name := "HANDLER_START"
  commit name (do
    let core := match s.input with | .one c => c | _ => 0
    let k := keyOf core 16
    due name ((s.thread? k).isNone && dieReady s (core / 2048))
    let c := s.core core
    match takeMessage c c.runnerQ with
    | none => stop (.refused (.eventNotDue name))
    | some (m, rest) =>
      -- a place in hardware that frees goes to the oldest parked message (R183)
      match m.parked with
      | some e => parkingRelease (core / 2048) e 3
      | none => pure ()
      let promote := if m.parked.isNone then rest.find? (·.parked.isSome) else none
      let rest := match promote with
        | some p => rest.map (fun x => if x = p then { x with parked := none } else x)
        | none => rest
      match promote with
      | some p => parkingRelease (core / 2048) (p.parked.getD 0) 3
      | none => pure ()
      modCore core (fun c => { c with
        runnerQ := rest
        seqs := match m.seq with
          | none => c.seqs
          | some q => (m.sender, m.grid, q + 1) :: c.seqs.filter (fun x => !(x.1 = m.sender && x.2.1 = m.grid)) })
      let w (i : Nat) : Word := m.words.getD i 0
      let t := applyDefaults c.defaults { freshThread m.ctx 0 0 m.pc with
        s := (((Vector.replicate 16 0).set 1 (w 0)).set 2 (w 1)).set 3 (w 2) |>.set 4 (w 3)
        detached := true, scope := .device, fixed := (s.tile (tileOfCore core)).fixed, after := m.rel }
      enterSlot k t
      acquireFrom k [] m.scope) s

end Sys2Proof.Machine
end

