-- ==== Sys2Proof/Machine/Engine.lean ====
section
/-!
DEFINITION. What the tile engines share: their FIFOs, the capture of a command, its acceptance, its accesses, page faults and end (R194, R202, R203, R225-R228, R303, R356), surface
descriptors (R354), format descriptors (R103, R104), and the semaphores and queues of a tile (R248-R254).
-/

namespace Sys2Proof.Machine

/-! ### Addresses of descriptors -/

/-- A surface descriptor (R354). -/
structure Surface where
  base : Nat
  width : Nat
  height : Nat
  fmt : Nat
  levels : Nat
  wrapU : Bool
  wrapV : Bool
  deriving DecidableEq, Repr

/-- The 64 bytes of a surface descriptor, if they pass the checks of R354. -/
def surfaceOf (x : Nat) : Option Surface :=
  let base := bits x 55 0
  let w := bits x 79 64
  let h := bits x 95 80
  let fmt := bits x 103 96
  let lv := bits x 111 104
  if bits x 120 120 = 0 ∨ 1 < fmt ∨ lv = 0 ∨ 15 < lv ∨ w = 0 ∨ 16384 < w ∨ h = 0 ∨ 16384 < h ∨ base % 512 ≠ 0 ∨ inWindow base = true then none
  else some ⟨base, w, h, fmt, lv, bits x 112 112 = 1, bits x 113 113 = 1⟩

/-- A format descriptor (R103). -/
structure Format where
  fmt : Nat
  skind : Nat
  stride : Nat
  deriving DecidableEq, Repr

/-- A format descriptor, if it passes the checks of R104. -/
def formatOf (x : Nat) : Option Format :=
  let f := bits x 3 0
  let k := bits x 5 4
  if 12 ≤ f ∨ (f ≤ 2 ∧ k ≠ 0) ∨ (3 ≤ f ∧ f ≤ 9 ∧ k = 3) ∨ (10 ≤ f ∧ k ≠ 3) then none else some ⟨f, k, bits x 47 16⟩

/-! ### FIFOs -/

/-- The engines by number: 0 the copy engine, 1 the conversion engine, 2 the matrix array with the state-space block. -/
def engineQ (t : Tile) (e : Nat) : List EngineCmd :=
  match e with
  | 0 => t.copyQ
  | 1 => t.convQ
  | _ => t.array.fifo

/-- A tile with an engine's FIFO replaced. -/
def setEngineQ (e : Nat) (q : List EngineCmd) (t : Tile) : Tile :=
  match e with
  | 0 => { t with copyQ := q }
  | 1 => { t with convQ := q }
  | _ => { t with array := { t.array with fifo := q } }

/-- Changes one command of an engine. -/
def modCmd (tile e op : Nat) (f : EngineCmd → EngineCmd) : Act Unit :=
  modTile tile (fun t => setEngineQ e ((engineQ t e).map (fun c => if c.op = op then f c else c)) t)

/-- The command of a thread's instruction (R33, R76). -/
def captureCmd (s : State) (k : Nat) (t : Thread) (work : EngineWork) (op : Nat) (token : BitVec 4) (a b : Word) : EngineCmd where
  work := work
  key := k
  op := op
  core := coreOf k
  ctx := t.ctx
  pc := t.pc
  token := token
  a := a
  b := b
  e := t.e
  rmode := t.rmode
  approx := t.approx
  fmta := t.fmta
  fmtb := t.fmtb
  fmts := t.fmts
  coefbase := t.coefbase
  scope := t.scope
  after := releaseSet s k
  untimed := false
  accepted := false
  descA := 0
  descB := 0
  bases := 0
  amax := 0
  refused := none
  absent := none
  done := 0
  row := []
  got := []
  flags := 0
  top := .zero false
  update := none
  failed := false
  stopped := false
  converted := false

/-- A FIFO has a free entry, or the thread waits for one (R202, R225). -/
def needRoom (k e : Nat) : Act Unit := do
  let s ← look
  if (engineQ (s.tile (tileOf k)) e).length < Config.fifoEntries then pure () else stop (.stall .room)

/-- The role core whose general slots may issue an engine's commands (R200, R225). -/
def needRole (k role : Nat) : Act Unit := require (roleOf k = role && !isRunner k) .protection 0

/-- The array is free or held by the thread's context, or PROTECTION (R201). -/
def needArray (k : Nat) (t : Thread) : Act Unit := do
  match ((← look).tile (tileOf k)).array.holder with
  | none => pure ()
  | some c => require (c = t.ctx) .protection 0

/-- A thread's context takes the array (R201). -/
def takeArray (k : Nat) (t : Thread) : Act Unit :=
  modTile (tileOf k) (fun x => { x with array := { x.array with holder := some t.ctx } })

/-- Every one of some addresses lies in the local window. -/
def allLocal (l : List Nat) : Bool := l.all inWindow

/-- Pushes a command (R194, R202, R225); a command with an operand in the shared space, and one behind an untimed command, breaks the timing of a fixed-timing thread (R277, which is
followed where R224 differs). (DEDUCED: log 67) -/
def pushCmd (k e : Nat) (c : EngineCmd) : Act Unit := do
  let q := engineQ ((← look).tile (tileOf k)) e
  if c.untimed || q.any (·.untimed) then breakTiming k else pure ()
  modTile (tileOf k) (setEngineQ e (q ++ [c]))

/-! ### Accesses of an engine -/

/-- Reaches an address for an engine of a tile; `window` is the tile whose store a local-window address names (R133, R231). A row of a `CPYM` that DSTRIDE takes below the local window goes to
the shared space, once for each tile of the mask. (DESIGN CHOICE: log 88) -/
def engineReach (ctx tile window va : Nat) (m : AccessMode) : Act (Except Denied Nat) := do
  if inWindow va then return .ok (localKey window (va - windowBase))
  else
    match ← reach ctx (some tile) va m with
    | .error d => return .error d
    | .ok (k, _) => return .ok k

/-- Reads ranges for an engine, as plain loads of the core whose engine it is: in the shared space through that core's L1, in the local window from the store of tile `window` (R133, R154); the
first address refused decides, and data lost is reported (R304). (DEDUCED: log 17) -/
def engineRead (ctx core window : Nat) (spans : List (Nat × Nat)) : Act (Except (Nat × Denied) (List Nat)) := do
  match ← readSpans ctx core window spans with
  | .error (va, .machineCheck src) => do
    machineReport src va
    return .error (va, .machineCheck src)
  | x => return x

/-- A byte range cut at the boundaries of 8-byte words. -/
def wordPieces (va n : Nat) : List (Nat × Nat) :=
  if n = 0 then []
  else (List.range ((va % 8 + n + 7) / 8)).map (fun i =>
    let lo := max va (wordOf va + 8 * i)
    (lo, min (va + n) (wordOf va + 8 * i + 8) - lo))

/-- Reads pieces for an engine, of which some may have been read, each granule from one age, and joins their bytes (R197). -/
def engineRest (ctx core window : Nat) (parts : List Part) (ps : List (Nat × Nat)) : Act (Except (Nat × Denied) Nat) := do
  match ← readRest parts ps (fun l => do
    wholeGranules ctx core l
    return (← engineRead ctx core window l).map (·.zip (l.map (·.2)))) with
  | .error e => return .error e
  | .ok l => return .ok (joinBytes l)

/-- Reads a range of bytes for an engine, in words, each granule from one age (R197). -/
def engineBytes (ctx core window va n : Nat) : Act (Except (Nat × Denied) Nat) := engineRest ctx core window [] (wordPieces va n)

/-! ### Ends -/

/-- WADDR of an address: its word, by window offset in a local store (R227). -/
def waddrOf (va : Nat) : Nat := if inWindow va then (va - windowBase) / 8 * 8 else va % 2 ^ 56 / 8 * 8

/-- The token word (R227). -/
def tokenWord (status va : Nat) : Word := if status = 0 then 0 else BitVec.ofNat 64 (status * 2 ^ 56 + waddrOf va)

/-- The STATUS of a refused access (R227, R303). -/
def deniedStatus : Denied → Nat
  | .machineCheck _ => 5
  | _ => 1

/-- Every thread that waits for room in an engine tries again. -/
def rouseRoom (tile : Nat) : Act Unit := do
  forEach (((← look).threads.filter (fun kt => tileOf kt.1 = tile && kt.2.status = .waiting .room)).map (·.1)) rouse

/-- The head of an engine's FIFO has been performed: its entry frees, and the array is released if it waited for that (R201). -/
def retire (tile e op : Nat) : Act Unit := do
  modTile tile (fun t => setEngineQ e ((engineQ t e).filter (·.op ≠ op)) t)
  rouseRoom tile
  releaseTile tile

/-- The commands that may name a surface (R356). -/
def EngineWork.namesSurface : EngineWork → Bool
  | .copy => true
  | .copyMulti _ => true
  | .convert => true
  | .stream m _ => m
  | _ => false

/-- A command names a surface through e6 (R356). -/
def EngineCmd.named (c : EngineCmd) : Bool := c.work.namesSurface && bits c.e[6].toNat 0 0 = 1

/-- Ends a command with its token and flags (R203, R226). `wrote` says that it writes memory, so that its token read is an acquire of it (R155, R194); that of a command which names a
surface carries the acquire of the surface (R356). (DEDUCED: log 16) -/
def endCmd (tile e : Nat) (c : EngineCmd) (token : Word) (fl : Flags) (wrote : Bool) : Act Unit := do
  retire tile e c.op
  finish c.key c.op { writes := [.s c.token token, .flags (c.flags ||| fl)], acquire := if wrote || c.named then some .device else none }

/-- Ends a command with a deferred trap of its issuer (R145, R203), that of its format descriptors too (R104, R205, R237). (DEDUCED: log 64) -/
def trapCmd (tile e : Nat) (c : EngineCmd) (cause : Cause) (addr : Nat) (info : Nat := 0) : Act Unit := do
  retire tile e c.op
  deferredTrap c.key c.op cause addr info

/-- A page fault of an engine's access: the record names the issuer and its instruction, and the engine stops (R146, R222, R228). -/
def faultCmd (tile e : Nat) (c : EngineCmd) (va cause : Nat) : Act Unit := do
  let s ← look
  let tid := ((s.thread? c.key).map (tidOf c.key)).getD c.key
  modCmd tile e c.op (fun x => { x with stopped := true })
  addFault ⟨faultDie va, va, tid, 5, cause, c.ctx, c.pc, .engine tile e, 0⟩
  breakTiming c.key
  if e = 2 then parkOnFault c.key else pure ()

/-! ### Acceptance (R104, R202, R225, R231, R237, R356) -/

/-- An engine is stopped on a page fault. -/
def engineStopped (t : Tile) (e : Nat) : Bool := (engineQ t e).any (·.stopped)

/-- What a command reads at acceptance. -/
def EngineWork.readsA : EngineWork → Bool
  | .convert => true
  | .stream _ _ => true
  | _ => false
def EngineWork.readsB : EngineWork → Bool
  | .convert => true
  | .plate _ => true
  | _ => false

/-- The word concerned where a tile that a copy names holds no thread of its context (R227, R231, R233): the source's, if it is SREM's tile, then the destination's; DST has priority for
`CPYM`, whose own rule names it. The destination of a `CPYR` is a store of this module for DEVICE 0 alone. -/
def absentOf (s : State) (tile : Nat) (c : EngineCmd) : Option Nat :=
  let e5 := c.e[5].toNat
  let gone (n : Nat) : Bool := !contextOn s n c.ctx
  let src := bits e5 15 15 = 1 && inWindow c.e[0].toNat && gone (bits e5 10 0)
  let from_ : Option Nat := if src then some c.e[0].toNat else none
  let into : Option Nat := some c.e[1].toNat
  let pair : Option Nat := if src then from_ else if bits e5 31 31 = 1 && inWindow c.e[1].toNat && gone (bits e5 26 16) then into else none
  match c.work with
  | .copy => pair
  | .copyMulti m => if (List.range 8).any (fun i => bits m i i = 1 && gone (clusterOfTile tile * 8 + i)) then into else from_
  | .copyPeer peer => if peer = 0 then pair else from_
  | _ => none

/-- The reads of acceptance, in order: (address, size), with what each is for: 0 surface, 1 FMTA, 2 FMTB, 3 the scale-base pair, 4 the amax word. A misaligned FMT register is not read:
it is reported at the command's turn. (DEDUCED: log 31) -/
def acceptReads (c : EngineCmd) : List (Nat × Nat × Nat) :=
  let e6 := c.e[6].toNat
  let surf : List (Nat × Nat × Nat) := if c.work.namesSurface && bits e6 0 0 = 1 then [(0, e6 / 64 * 64, 64)] else []
  let ok := !((c.work.readsA && c.fmta.toNat % 8 ≠ 0) || (c.work.readsB && c.fmtb.toNat % 8 ≠ 0) || c.fmts.toNat % 8 ≠ 0)
  let fs : List (Nat × Nat × Nat) :=
    if !ok then []
    else (if c.work.readsA then [(1, c.fmta.toNat, 8)] else []) ++ (if c.work.readsB then [(2, c.fmtb.toNat, 8)] else [])
      ++ (match c.work with
        | .convert => [(3, c.fmts.toNat, 16)]
        | .plate _ => [(3, c.fmts.toNat + 8, 8)]
        | .stream _ _ => [(3, c.fmts.toNat, 8)]
        | _ => [])
  let am : List (Nat × Nat × Nat) := if c.work = .convert && bits c.e[5].toNat 1 0 = 2 && c.e[4] ≠ 0 then [(4, c.e[4].toNat, 8)] else []
  surf ++ fs ++ am

/-- What a read of acceptance gives the command. -/
def takeRead (c : EngineCmd) (what va x : Nat) : EngineCmd :=
  match what with
  | 0 => if (surfaceOf x).isSome then c else { c with refused := some (8, va) }
  | 1 => { c with descA := x }
  | 2 => { c with descB := x }
  | 3 => (match c.work with
    | .plate _ => { c with bases := x * 2 ^ 64 }
    | _ => { c with bases := x })
  | _ => { c with amax := x % 2 ^ 32 }

/-- Performs the reads of acceptance until one refuses the command, at the word concerned (R227); a page fault stops it. -/
def acceptLoop (tile : Nat) (c : EngineCmd) : List (Nat × Nat × Nat) → Act (Except (Nat × Nat) EngineCmd)
  | [] => return .ok c
  | (what, va, n) :: rest => do
    match ← engineBytes c.ctx c.core tile va n with
    | .error (a, .pageFault cause) => return .error (a, cause)
    | .error (a, d) => return .ok { c with refused := some (if what = 0 && !canonical va then (8, va) else (deniedStatus d, a)) }
    | .ok x =>
      let c := takeRead c what va x
      if c.refused.isSome then return .ok c
      else do
        -- a surface that passes its check is acquired at device scope (R356)
        if what = 0 then discardAll c.core l1Flush else pure ()
        acceptLoop tile c rest

/-- The array's registers of a misaligned descriptor address (R104, R205): the first of those the command reads. -/
def misaligned (l : List Word) : Option Nat := (l.map (·.toNat)).find? (fun a => decide (a % 8 ≠ 0))

/-- The first check of a command's format descriptors that fails, made as they are read: its cause and the address that it names (R104, R205, R237). -/
def formatFault (c : EngineCmd) : Option (Cause × Nat) :=
  let regs := (if c.work.readsA then [c.fmta] else []) ++ (if c.work.readsB then [c.fmtb] else []) ++ (if c.work.readsA || c.work.readsB then [c.fmts] else [])
  match misaligned regs with
  | some a => some (.align, a)
  | none =>
    if c.work.readsA && (formatOf c.descA).isNone then some (.malformedMetadata, c.fmta.toNat)
    else if c.work.readsB && (formatOf c.descB).isNone then some (.malformedMetadata, c.fmtb.toNat)
    else match c.work, formatOf c.descB with
      | .plate true, some f => if f.fmt = 3 || f.fmt = 4 || f.fmt = 8 || f.fmt = 10 then none else some (.malformedMetadata, c.fmtb.toNat)
      | _, _ => none

/-- The commands that complete at acceptance (R208, R226). -/
def EngineWork.completesAtAcceptance : EngineWork → Bool
  | .copy => true
  | .copyMulti _ => true
  | .copyPeer _ => true
  | .convert => true
  | .scan => true
  | .swap => true
  | .cfg => true
  | _ => false

/-- An operation has completed and only its token is pending: its window closes, except in a fixed-timing context (R23, R226). (DEDUCED: log 58) -/
def tokenOnly (k op : Nat) : Act Unit := do
  modThread k (fun t => { t with
    ops := t.ops.map (fun o => if o.id = op then { o with token := true } else o)
    windows := if t.fixed then t.windows.filter (fun w => w.op ≠ op || decide (0 < w.left)) else t.windows.filter (·.op ≠ op) })
  rouse k

/-- The scale arrays of a conversion, whose bases are read at acceptance, are in the shared space for some row (R237, R277). -/
def basesShared (c : EngineCmd) : Bool :=
  let rows := bits c.e[2].toNat 55 32
  let outside (base : Nat) (f : Option Format) : Bool :=
    match f with
    | some f => decide (f.skind ≠ 0) && !allLocal [base, base + (rows - 1) * f.stride]
    | none => false
  c.work = .convert && (outside (c.bases % 2 ^ 64) (formatOf c.descA) || outside (c.bases / 2 ^ 64) (formatOf c.descB))

/-- The operation of an accepted command completes: its window closes, except in a fixed-timing context (R23, R226); a command without a token has nothing more to write. -/
def completeAtAcceptance (c : EngineCmd) : Act Unit := do
  match c.work with
  | .swap | .cfg => finish c.key c.op {}
  | _ => tokenOnly c.key c.op

/-- The engine that holds a command of an operation that is not accepted yet. -/
def waitingCmd (t : Tile) (op : Nat) : Option (Nat × EngineCmd) :=
  [0, 1, 2].findSome? (fun e => ((engineQ t e).find? (fun c => c.op = op && !c.accepted)).map (fun c => (e, c)))

/-- Before a command of a thread reads through its core's L1: a discard that the thread owes is made, since the accesses that its acquire waited for go before what its push releases
(R194, R394). -/
def settleFor (k core : Nat) : Act Unit := do
  settleOwed k
  match (← look).thread? k with
  | none => pure ()
  | some t => match t.owed with
    | some sc => discardFor core t sc
    | none => pure ()

/-- `ENGINE_ACCEPTANCE` (R202, R225): a pushed command takes its place in acceptance order once the accesses that its push releases are performed, behind the earlier commands of its core; when commands of both cores seek an entry, that of core 2 is accepted first (R202). A command whose formats fail their
checks raises its trap then (R104), and one behind a command with no published cost breaks the timing of its issuer (R277). (DEDUCED: log 33) A command that finishes at acceptance has its reads and checks made first (R237).
(DESIGN CHOICE: log 92) -/
def execEngineAcceptance (s : State) : Step :=
  let name := "ENGINE_ACCEPTANCE"
  commit name (do
    let (k, op) := match s.input with | .two k op => (k, op) | _ => (0, 0)
    let tile := tileOf k
    let x := s.tile tile
    match waitingCmd x op with
    | none => stop (.refused (.eventNotDue name))
    | some (e, c) =>
      let ready (d : EngineCmd) : Bool := (outstanding s d.after).isEmpty && ((engineQ x e).takeWhile (·.op ≠ d.op)).all (fun b => b.accepted || b.core ≠ d.core)
      due name (c.key = k && !engineStopped x e && ready c)
      due name (c.core % 4 ≠ 3 || !(engineQ x e).any (fun d => !d.accepted && d.core ≠ c.core && ready d))
      settleFor k c.core
      match ← acceptLoop tile c (if c.refused.isSome then [] else acceptReads c) with
      | .error (va, cause) => faultCmd tile e c va cause
      | .ok c =>
        let fault := if c.refused.isSome then none else formatFault c
        let c := { c with accepted := true, converted := false, absent := absentOf s tile c, failed := fault.isSome, untimed := c.untimed || basesShared c }
        if c.untimed || (engineQ x e).any (fun d => d.accepted && d.untimed) then breakTiming c.key else pure ()
        modTile tile (fun t =>
          let q := (engineQ t e).filter (·.op ≠ op)
          setEngineQ e (q.filter (·.accepted) ++ [c] ++ q.filter (fun d => !d.accepted)) t)
        match fault with
        | some (cause, a) => deferredTrap c.key c.op cause a
        | none => if c.work.completesAtAcceptance then completeAtAcceptance c else pure ()
        -- an `SSCAN` of no steps finishes at acceptance (R242)
        if c.work = .scan && c.b.toNat % 2 ^ 16 = 0 then endCmd tile e c 0 0 false else pure ()) s

/-- The next command of an engine that is to be performed: the oldest accepted one, unless the engine is stopped. -/
def nextCmd (t : Tile) (e : Nat) : Option EngineCmd :=
  if engineStopped t e then none else (engineQ t e).head?.filter (·.accepted)

/-! ### Semaphores (R248-R251) -/

/-- A semaphore of a tile, by number below 16. -/
def Tile.sem (t : Tile) (k : BitVec 4) : Semaphore := t.sems[k.toNat]'k.isLt

/-- Replaces a semaphore. -/
def setSem (tile : Nat) (k : BitVec 4) (m : Semaphore) : Act Unit := modTile tile (fun t => { t with sems := t.sems.set k.toNat m k.isLt })

/-- The semaphore, claimed for the thread's context, or PROTECTION (R249). -/
def claimSem (k : Nat) (t : Thread) (n : BitVec 4) : Act Semaphore := do
  let m := ((← look).tile (tileOf k)).sem n
  require (match m.owner with | none => true | some c => decide (c = t.ctx)) .protection 0
  return { m with owner := some t.ctx }

/-- The oldest waiters leave while units last (R250). -/
def serveSem : Nat → Nat → List Nat → List Nat → Act (Nat × List Nat)
  | 0, count, ws, _ => return (count, ws)
  | fuel + 1, count, ws, rel => do
    match ws with
    | w :: rest =>
      if count = 0 then return (count, ws)
      else do
        endWait w
        match (← look).thread? w with
        | some t => acquireFrom w rel t.scope
        | none => pure ()
        serveSem fuel (count - 1) rest rel
    | [] => return (count, [])

/-- `SEMUP` (R250, R251): releases at the default scope; a count of 0 does nothing, and claims no semaphore that nobody owns (R249). (DEDUCED: log 36) -/
def execSemup (gd : Guard) (b n : BitVec 4) (s : State) : Step :=
  issue { guard := gd, uses := fun _ => touchS b } (fun k t => do
    let m ← claimSem k t n
    if (t.readS b).toNat % 2 ^ 32 = 0 then return .seq
    let rel := outstanding (← look) m.rel ++ releaseSet (← look) k
    let count := min (m.count + (t.readS b).toNat % 2 ^ 32) (2 ^ 32 - 1)
    let (count, ws) ← serveSem m.waiters.length count m.waiters rel
    setSem (tileOf k) n { m with count := count, waiters := ws, rel := rel }
    return .seq) s

/-- A unit is taken: an acquire at the default scope (R251). -/
def takeUnit (k : Nat) (t : Thread) (n : BitVec 4) (m : Semaphore) : Act Unit := do
  setSem (tileOf k) n { m with count := m.count - 1 }
  acquireFrom k m.rel t.scope

/-- `SEMDN` (R250). -/
def execSemdn (gd : Guard) (d n : BitVec 4) (s : State) : Step :=
  issue { guard := gd, uses := fun _ => touchP d } (fun k t => do
    let m ← claimSem k t n
    if 0 < m.count then do
      takeUnit k t n m
      modThread k (fun u => u.writeP d false)
    else do
      setSem (tileOf k) n m
      modThread k (fun u => u.writeP d true)
    return .seq) s

/-- `SEMW` (R250): waits in arrival order; a runner slot must not (R65). -/
def execSemw (gd : Guard) (n : BitVec 4) (s : State) : Step :=
  issue { guard := gd } (fun k t => do
    notInRunner k
    let m ← claimSem k t n
    if 0 < m.count then do
      takeUnit k t n m
      return .seq
    else do
      setSem (tileOf k) n { m with waiters := m.waiters ++ [k] }
      let s ← look
      let wait : Status := .parked (.sem (tileOf k) n.toNat)
      modThread k (fun u => { u with status := wait, waitSince := some (wait, coreCycle s (tileOf k)) })
      return .hold) s

end Sys2Proof.Machine
end

