-- ==== Sys2Proof/Machine/Matrix.lean ====
section
/-!
DEFINITION. The matrix array (R200-R217, R222): its commands as threads issue them and as the array performs them, and the prune and sparse dot instructions (R219-R221).
-/

namespace Sys2Proof.Machine

/-! ### Classes (R204) -/

/-- The depth of a format's class along K, and of a sparse plate. -/
def depthOf (fmt : Nat) (sparse : Bool) : Nat :=
  if sparse then 256 else if fmt = 0 then 16 else if fmt ≤ 2 then 64 else if fmt = 7 ∨ fmt = 9 ∨ fmt = 11 then 256 else 128

/-- Class numbers: 0 W32, 1 W16, 2 W8, 3 W4. A sparse plate counts as W8. -/
def classNum (fmt : Nat) : Nat := if fmt = 0 then 0 else if fmt ≤ 2 then 1 else if fmt = 7 ∨ fmt = 9 ∨ fmt = 11 then 3 else 2

/-- Elements of a block along K. -/
def blockLen (fmt : Nat) : Nat := if fmt = 0 then 16 else 32

/-- Bytes of a plate column, and of an activation row of a plate's depth, packed as R92 packs it also where a 6-bit row meets a sparse plate. (DEDUCED: log 66) -/
def columnBytes (fmt : Nat) (sparse : Bool) : Nat := if sparse then 128 else depthOf fmt false * codeBits fmt / 8
def rowBytes (fmt depth : Nat) : Nat := depth * codeBits fmt / 8

/-- Bytes of the scales or headers of one column or row of `nb` blocks. -/
def scaleBytes (f : Format) (nb : Nat) : Nat := if f.skind = 0 then 0 else if f.skind = 3 then 2 * nb else nb

/-- Element i of a packed array (R92). -/
def elemAt (w x i : Nat) : Nat := x / 2 ^ (w * i) % 2 ^ w

/-- The scales of a row or column as numbers: a byte each, or a two-byte header. -/
def scalesOf (f : Format) (nb x : Nat) : List Nat :=
  if f.skind = 0 then [] else if f.skind = 3 then (List.range nb).map (elemAt 16 x) else (List.range nb).map (elemAt 8 x)

/-- The cover of an element in block b. -/
def coverAt (skind : Nat) (scales : List Nat) (b : Nat) : Cover :=
  if skind = 3 then (let h := scales.getD b 0; .header (h % 256) (h / 256)) else scaleOf skind (scales.getD b 0)

/-- A decoded element, whose NV shows as a signalling NaN, so that the product raises it (R98, R210). -/
def decodeTerm (fmt x : Nat) (c : Cover) : Val :=
  let (v, f) := decodeElem fmt x c
  if f = 0 then v else .nan true false

/-! ### Sums (R210, R215) -/

/-- An exact sum under R210: NaN, infinity and exact zero, with NV for a signalling operand or for infinities of both signs. With a NaN among the terms, infinities of both signs raise nothing.
(DESIGN CHOICE: log 71) -/
def exactSum (ts : List Val) : Val × Flags :=
  let f := operandFlags ts
  let nan := ts.any Val.isNan
  let pos := ts.any (fun v => v = .inf false)
  let neg := ts.any (fun v => v = .inf true)
  if nan then (.nan false false, f)
  else if pos && neg then (.nan false false, f ||| flagNV)
  else if pos then (.inf false, f)
  else if neg then (.inf true, f)
  else
    let q := Q.sum (ts.map Val.toQ)
    (if q.isZero then .zero (!ts.isEmpty && ts.all (fun v => v = .zero true)) else .num q, f)

/-- A value rounded to .f32, with its flags. -/
def roundTo32 (v : Val) : Val × Flags :=
  let (x, f) := roundIeee fmtF32 0 v
  (fmtF32.decode x, f)

/-- An exact sum rounded to .f32. -/
def sumTo32 (ts : List Val) : Val × Flags :=
  let (s, f) := exactSum ts
  let (v, g) := roundTo32 s
  (v, f ||| g)

/-- floor(log2 |v|) of a nonzero number. -/
def Val.log2 (v : Val) : Int := Q.log2 v.toQ

/-- skip(acc, T) (R215). -/
def skipBlock (approx : BitVec 9) (acc : Val) (ts : List Val) : Bool :=
  let nz := ts.filter (fun v => !v.toQ.isZero)
  match acc, nz with
  | .num q, first :: rest =>
    approx.getLsbD 8 && ts.all Val.isFinite
      && decide (rest.foldl (fun m v => max m v.log2) first.log2 < Q.log2 q - ((approx.extractLsb' 0 5).toNat : Int))
  | _, _ => false

/-- dot from a starting value, over the terms of each block as pairs of factors (R210): the value, its flags, and how many blocks were skipped. -/
def dotBlocks (approx : BitVec 9) (acc : Val) : List (List (Val × Val)) → Val × Flags × Nat
  | [] => (acc, 0, 0)
  | b :: rest =>
    let ps := b.map (fun x => mulVal x.1 x.2)
    if skipBlock approx acc (ps.map (·.1)) then
      let (v, f, n) := dotBlocks approx acc rest
      (v, f, n + 1)
    else
      let (x, f1) := sumTo32 (ps.map (·.1))
      let (y, f2) := sumTo32 [acc, x]
      let (v, f, n) := dotBlocks approx y rest
      (v, ps.foldl (fun g p => g ||| p.2) 0 ||| f1 ||| f2 ||| f, n)

/-! ### Plates -/

/-- The kept positions of a column, in K order: all, or those of its masks (R204). -/
def keptOf (p : Plate) (c : Nat) : List Nat :=
  if p.sparse then
    (List.range 32).flatMap (fun g => ((List.range 8).filter (fun j => ((p.masks.getD c []).getD g 0).getLsbD j)).map (fun j => 8 * g + j))
  else List.range (depthOf p.fmt false)

/-- The value of a list of bytes, little-endian. -/
def bytesVal (l : List Byte) : Nat := joinBytes (l.map (fun b => (b.toNat, 1)))

/-- The weights of a column by position along K. -/
def columnWeights (p : Plate) (c : Nat) : List (Nat × Val) :=
  let x := bytesVal (p.columns.getD c [])
  let n := blockLen p.fmt
  ((keptOf p c).zip (List.range 256)).map (fun kp => (kp.1, decodeTerm p.fmt (elemAt (codeBits p.fmt) x kp.2) (coverAt p.skind (p.scales.getD c []) (kp.1 / n))))

/-- The pairs of factors of each block of a row and a column (R210). -/
def blocksOf (fmt : Nat) (row : List Val) (ws : List (Nat × Val)) : List (List (Val × Val)) :=
  let n := blockLen fmt
  (List.range (row.length / n)).map (fun b => (ws.filter (fun w => w.1 / n = b)).map (fun w => (row.getD w.1 (.zero false), w.2)))

/-- The value of an accumulator. -/
def accAt (s : State) (tile row col : Nat) : Val := fmtF32.decode (s.acc tile row col).toNat

/-- Sets the accumulators of a row, from column 0 on. -/
def setRow (tile row : Nat) (xs : List Nat) : Act Unit :=
  emitAll (xs.zipIdx.map (fun x => .acc (accKey tile row x.2) (BitVec.ofNat 32 x.1)))

/-! ### Issue -/

/-- The shape operand of a stream or read (R209, R211). -/
def shapeM (b : Word) : Nat := bits b.toNat 7 0
def shapeRow0 (b : Word) : Nat := bits b.toNat 14 8
def shapeStride (b : Word) : Nat := bits b.toNat 47 16

/-- The checks of a shape and an address: rows, alignment, then the window over `span` bytes of each row (R209, R211); a row that leaves the window is named by its start. (DESIGN CHOICE: log 89) -/
def needRows (a b : Word) (span : Nat) (window : Bool) : Act Unit := do
  let m := shapeM b
  require (decide (m ≤ 128)) .protection (BitVec.ofNat 64 m)
  require (decide (shapeRow0 b + m ≤ 128)) .protection (BitVec.ofNat 64 (shapeRow0 b + m))
  needAligned a 8
  require (decide (shapeStride b % 8 = 0)) .align (BitVec.ofNat 64 (shapeStride b))
  if window then
    forEach (List.range m) (fun i => do
      let va := a.toNat + i * shapeStride b
      require (inWindow va && inWindow (va + span - 1)) .protection (BitVec.ofNat 64 va))
  else pure ()

/-- A command of majors 0x28, 0x29 and 0x2B (R200-R202): `addrs` are its operand addresses, checked first for canonical form (R144), `checks` its own
issue-time checks, `also` what it does at issue beside. -/
def arrayOp (gd : Guard) (uses dest : Touch) (la d : BitVec 4) (a b : Thread → Word) (work : EngineWork) (addrs : Thread → List Word) (untimed : Thread → Bool)
    (checks : Thread → Act Unit) (also : Nat → Thread → Act Unit) : State → Step :=
  issue { guard := gd, uses := fun _ => uses.union dest } (fun k t => do
    forEach (addrs t) needCanonical
    needRole k 2
    needArray k t
    checks t
    needRoom k 2
    let op ← openOp k dest {} la
    takeArray k t
    also k t
    pushCmd k 2 { captureCmd (← look) k t work op d (a t) (b t) with untimed := untimed t }
    return .seq)

/-- `MLS` and `MLSS` (R206, R207). A CSTRIDE below the column's byte length, which R206 rules out without a check, makes columns overlap. (DEDUCED: log 66) -/
def plateOp (gd : Guard) (d a b la : BitVec 4) (sparse : Bool) : State → Step :=
  arrayOp gd (touches [touchS a, touchS b]) (touchS d) la d (fun t => t.readS a) (fun t => t.readS b) (.plate sparse)
    (fun t => t.readS a :: (if sparse then [t.readE 4] else []))
    (fun t => !allLocal [t.fmtb.toNat, t.fmts.toNat])
    (fun t => do
      let cs := bits (t.readS b).toNat 20 0
      require (inWindow (t.readS a).toNat) .protection (t.readS a)
      needAligned (t.readS a) 8
      require (decide (cs % 8 = 0)) .align (BitVec.ofNat 64 cs)
      if sparse then needAligned (t.readE 4) 8 else pure ())
    (fun _ _ => pure ())

/-- `MLS` (R206). -/
def execMls (gd : Guard) (d a b la : BitVec 4) (s : State) : Step := plateOp gd d a b la false s
/-- `MLSS` (R206). -/
def execMlss (gd : Guard) (d a b la : BitVec 4) (s : State) : Step := plateOp gd d a b la true s

/-- `MMA` and its forms (R209). -/
def streamOp (gd : Guard) (d a b la : BitVec 4) (memory zero : Bool) : State → Step :=
  arrayOp gd (touches [touchS a, touchS b]) ((touchS d).union touchFlags) la d (fun t => t.readS a) (fun t => t.readS b) (.stream memory zero)
    (fun t => [t.readS a])
    (fun t => memory || !allLocal [t.fmta.toNat, t.fmts.toNat])
    (fun t => needRows (t.readS a) (t.readS b) 1 (!memory)) (fun _ _ => pure ())

/-- `MMA` (R209). -/
def execMma (gd : Guard) (d a b la : BitVec 4) (s : State) : Step := streamOp gd d a b la false false s
/-- `MMA.m` (R209). -/
def execMmaM (gd : Guard) (d a b la : BitVec 4) (s : State) : Step := streamOp gd d a b la true false s
/-- `MMAZ` (R209). -/
def execMmaz (gd : Guard) (d a b la : BitVec 4) (s : State) : Step := streamOp gd d a b la false true s
/-- `MMAZ.m` (R209). -/
def execMmazM (gd : Guard) (d a b la : BitVec 4) (s : State) : Step := streamOp gd d a b la true true s

/-- A command of the array that names no address. -/
def controlOp (gd : Guard) (uses dest : Touch) (la d : BitVec 4) (a : Thread → Word) (work : EngineWork) (also : Nat → Thread → Act Unit) : State → Step :=
  arrayOp gd uses dest la d a (fun _ => 0) work (fun _ => []) (fun _ => false) (fun _ => pure ()) also

/-- `MSWAP` (R208). -/
def execMswap (gd : Guard) (la : BitVec 4) (s : State) : Step := controlOp gd {} {} la 0 (fun _ => 0) .swap (fun _ _ => pure ()) s

/-- `MCFG` (R216): APPROX is written at issue. -/
def execMcfg (gd : Guard) (a la : BitVec 4) (s : State) : Step :=
  controlOp gd (touchS a) {} la 0 (fun t => t.readS a) .cfg (fun k t => modThread k (fun u => { u with approx := maskApprox ((t.readS a).extractLsb' 0 9) })) s

/-- `MRD` and `MRD.z` (R211). -/
def readRowsOp (gd : Guard) (d a b la : BitVec 4) (zero : Bool) : State → Step :=
  arrayOp gd (touches [touchS a, touchS b]) (touchS d) la d (fun t => t.readS a) (fun t => t.readS b) (.read zero) (fun t => [t.readS a]) (fun _ => false)
    (fun t => needRows (t.readS a) (t.readS b) 256 true) (fun _ _ => pure ())

/-- `MRD` (R211). -/
def execMrd (gd : Guard) (d a b la : BitVec 4) (s : State) : Step := readRowsOp gd d a b la false s
/-- `MRD.z` (R211). -/
def execMrdZ (gd : Guard) (d a b la : BitVec 4) (s : State) : Step := readRowsOp gd d a b la true s

/-- `MPOP` (R212). -/
def execMpop (gd : Guard) (d a la : BitVec 4) (s : State) : Step :=
  controlOp gd (touchS a) (touchS d) la d (fun t => t.readS a) .pop (fun _ _ => pure ()) s

/-- `MDRAIN` (R213). -/
def execMdrain (gd : Guard) (la : BitVec 4) (s : State) : Step := controlOp gd {} {} la 0 (fun _ => 0) .drain (fun _ _ => pure ()) s

/-- `MMON` (R217). -/
def execMmon (gd : Guard) (d k la : BitVec 4) (s : State) : Step := controlOp gd {} (touchS d) la d (fun _ => 0) (.mon k.toNat) (fun _ _ => pure ()) s

/-! ### Performance (R202-R217) -/

/-- Changes the array of a tile. -/
def modArray (tile : Nat) (f : MatrixArray → MatrixArray) : Act Unit := modTile tile (fun t => { t with array := f t.array })

/-- A command that acceptance refused ends with the trap of its status (R205, R222, R228, R303, R356): a command of the array with a token ends a machine check by it. (DEDUCED: log 32) -/
def arrayRefused (tile : Nat) (c : EngineCmd) (status va : Nat) : Act Unit :=
  if status = 8 then trapCmd tile 2 c .malformedMetadata va
  else if status = 5 then endCmd tile 2 c (tokenWord 5 va) 0 false
  else trapCmd tile 2 c .protection va

/-- Some part of a range lies outside the local window. -/
def leavesWindow (va n : Nat) : Bool := decide (0 < n) && !(inWindow va && inWindow (va + n - 1))

/-- Reads ranges of the tile's local store; the first that leaves the window or holds an error decides, with its status, at its first address or at the word with the error. (DEDUCED: log 66) -/
def localRanges (s : State) (tile : Nat) : List (Nat × Nat) → Except (Nat × Nat) (List Nat)
  | [] => .ok []
  | (va, n) :: rest =>
    if leavesWindow va n then .error (1, va)
    else
      let k := localKey tile (va - windowBase)
      if decide (0 < n) && spoiled s k n then .error (5, errorAddress s va k n)
      else (localRanges s tile rest).map (fun l => peek s.mem k n :: l)

/-- A command of the array that its reads of the local store refuse; data lost there is reported (R304). -/
def localRefused (tile : Nat) (c : EngineCmd) (status va : Nat) : Act Unit := do
  if status = 5 then machineReport (errorSource (← look) (localKey tile (va - windowBase)) 1) va else pure ()
  arrayRefused tile c status va

/-- The first mask byte of a sparse plate that does not keep four (R207). -/
def badMask (masks : List (List Byte)) (e4 : Nat) : Option Nat :=
  ((List.range 64).flatMap (fun c => (List.range 32).map (fun g => (c, g)))).findSome? (fun cg =>
    if countOnes ((masks.getD cg.1 []).getD cg.2 0) 8 = 4 then none else some (e4 + 32 * cg.1 + cg.2))

/-- A number as bytes, lowest first. -/
def toBytes (n x : Nat) : List Byte := (List.range n).map (fun i => BitVec.ofNat 8 (x / 256 ^ i))

/-- A plate load at its turn (R205, R207); the trap of one whose formats failed has been raised at acceptance. -/
def performPlate (tile : Nat) (c : EngineCmd) (sparse : Bool) : Act Unit := do
  modArray tile (fun a => { a with shadow := none })
  match c.refused, formatOf c.descB with
  | some (st, va), _ => arrayRefused tile c st va
  | none, none => retire tile 2 c.op
  | none, some f =>
    if c.failed then retire tile 2 c.op
    else
        let cs := bits c.b.toNat 20 0
        let nb := depthOf f.fmt sparse / blockLen f.fmt
        let base := c.bases / 2 ^ 64
        let cb := columnBytes f.fmt sparse
        let sb := scaleBytes f nb
        let cols := (List.range 64).map (fun i => (c.a.toNat + i * cs, cb))
        let scs := (List.range 64).map (fun i => (base + i * f.stride, sb))
        let mks := if sparse then (List.range 64).map (fun i => ((c.e[4]).toNat + 32 * i, 32)) else []
        let s ← look
        match localRanges s tile (cols ++ scs ++ mks) with
        | .error (st, va) => localRefused tile c st va
        | .ok xs =>
          let masks := (xs.drop 128).map (toBytes 32)
          match if sparse then badMask masks (c.e[4]).toNat else none with
          | some va => trapCmd tile 2 c .malformedMetadata va
          | none => do
            let p : Plate := ⟨f.fmt, f.skind, sparse, (xs.take 64).map (toBytes cb), ((xs.drop 64).take 64).map (scalesOf f nb), masks⟩
            modArray tile (fun a => { a with shadow := some p })
            endCmd tile 2 c 0 0 false

/-- ord of R216. -/
def ordOf (x : Nat) : Int := if x < 2 ^ 31 then (x : Int) else -((x % 2 ^ 31 : Nat) : Int)

/-- dist of R216 between two .f32 codes. -/
def ulpDistance (a u : Nat) : Nat :=
  let na := (fmtF32.decode a).isNan
  let nu := (fmtF32.decode u).isNan
  if na && nu then 0 else if na || nu then 2 ^ 32 - 1 else (ordOf a - ordOf u).natAbs

/-- One element of a stream: the new accumulator, flags, and the monitor after it (R210, R216). SAMP, of which the rule gives no width, counts modulo 2^64. (DESIGN CHOICE: log 87) -/
def streamElement (approx : BitVec 9) (m : Monitor) (sampled : Bool) (acc : Val) (bs : List (List (Val × Val))) : Nat × Flags × Monitor :=
  let (v, f, n) := dotBlocks approx acc bs
  let x := roundNe32 v
  let m1 := if m.on then { m with skip := (m.skip + n) % 2 ^ 64 } else m
  let m2 := if m.on && sampled then
      let (u, _, _) := dotBlocks 0 acc bs
      let d := ulpDistance x (roundNe32 u)
      { m1 with samp := (m1.samp + 1) % 2 ^ 64, esum := min (m1.esum + d) (2 ^ 64 - 1), emax := max m1.emax d }
    else m1
  (x, f, m2)

/-- The elements of one row of a stream: the new accumulators from the old ones and the column weights, the flags, and the monitor after them (R209, R210, R216). -/
def streamRow (approx : BitVec 9) (sampled : Bool) (fmt : Nat) (row : List Val) : List (Val × List (Nat × Val)) → Monitor → List Nat × Flags × Monitor
  | [], m => ([], 0, m)
  | (acc, ws) :: rest, m =>
    let (x, f, m1) := streamElement approx m sampled acc (blocksOf fmt row ws)
    let (xs, g, m2) := streamRow approx sampled fmt row rest m1
    (x :: xs, f ||| g, m2)

/-- Every row of a stream into its accumulator row: each row with its number, and the count from SAMPLE on decides which are sampled (R209, R216). -/
def streamRows (c : EngineCmd) (zero : Bool) (tile fmt : Nat) (ws : List (List (Nat × Val))) : List (Nat × List Val) → Flags → Act Flags
  | [], fl => return fl
  | (i, row) :: rest, fl => do
    let s ← look
    let m := (s.tile tile).array.monitor
    let r := shapeRow0 c.b + i
    let sampled := decide (((bits (c.e[5]).toNat 31 0) + i) % 2 ^ m.ks = m.seed % 2 ^ m.ks)
    let old := (List.range 64).map (fun col => if zero then .zero false else accAt s tile r col)
    let (xs, f, m) := streamRow c.approx sampled fmt row (old.zip ws) m
    setRow tile r xs
    modArray tile (fun y => { y with monitor := m })
    streamRows c zero tile fmt ws rest (fl ||| f)

/-- The values of an activation row. -/
def rowValues (f : Format) (depth data scale : Nat) : List Val :=
  let n := blockLen f.fmt
  let sc := scalesOf f (depth / n) scale
  (List.range depth).map (fun i => decodeTerm f.fmt (elemAt (codeBits f.fmt) data i) (coverAt f.skind sc (i / n)))

/-- Reads ranges for a stream in the shared space or, where they lie in the local window, in the tile's store (R222), or stops on a page fault. (DEDUCED: log 66) -/
def memoryRanges (c : EngineCmd) (tile : Nat) : List (Nat × Nat) → Act (Except (Nat × Denied) (List Nat))
  | [] => return .ok []
  | (va, n) :: rest => do
    match ← engineBytes c.ctx c.core tile va n with
    | .error e => return .error e
    | .ok x =>
      match ← memoryRanges c tile rest with
      | .error e => return .error e
      | .ok l => return .ok (x :: l)

/-- A stream at its turn (R205, R209, R222); the trap of one whose formats failed has been raised at acceptance: every row and scale is read before any accumulator changes. -/
def performStream (tile : Nat) (c : EngineCmd) (memory zero : Bool) : Act Unit := do
  let a := ((← look).tile tile).array
  match c.refused, formatOf c.descA with
  | some (st, va), _ => arrayRefused tile c st va
  | none, none => retire tile 2 c.op
  | none, some f =>
    if c.failed then retire tile 2 c.op
    else match a.active with
    | none => trapCmd tile 2 c .malformedMetadata 0
    | some p =>
      if classNum f.fmt ≠ classNum p.fmt then trapCmd tile 2 c .malformedMetadata c.fmta.toNat
      else
        let depth := depthOf p.fmt p.sparse
        let m := shapeM c.b
        let rows := (List.range m).map (fun i => (c.a.toNat + i * shapeStride c.b, rowBytes f.fmt depth))
        let sb := scaleBytes f (depth / blockLen f.fmt)
        let scs := (List.range m).map (fun i => (c.bases % 2 ^ 64 + i * f.stride, sb))
        let run (xs : List Nat) : Act Unit := do
          let ws := (List.range 64).map (columnWeights p)
          let vals := ((xs.take m).zip (xs.drop m)).map (fun x => rowValues f depth x.1 x.2)
          let fl ← streamRows c zero tile f.fmt ws ((List.range m).zip vals) 0
          endCmd tile 2 c 0 fl false
        if memory then
          match ← memoryRanges c tile ((rows.zip scs).flatMap (fun x => [x.1, x.2])) with
          | .error (va, .pageFault cause) => faultCmd tile 2 c va cause
          | .error (va, .machineCheck _) => endCmd tile 2 c (tokenWord 5 va) 0 false
          | .error (va, .protection) => trapCmd tile 2 c .protection va
          | .ok xs => run ((List.range m).map (fun i => xs.getD (2 * i) 0) ++ (List.range m).map (fun i => xs.getD (2 * i + 1) 0))
        else
          match localRanges (← look) tile (rows ++ scs) with
          | .error (st, va) => localRefused tile c st va
          | .ok xs => run xs

/-- `MRD` at its turn (R211). -/
def performRead (tile : Nat) (c : EngineCmd) (zero : Bool) : Act Unit := do
  let s ← look
  let r0 := shapeRow0 c.b
  due "ARRAY_COMMAND" ((List.range (shapeM c.b)).all (fun i => !reservedRange s c.ctx tile (c.a.toNat + i * shapeStride c.b) 256))
  forEach (List.range (shapeM c.b)) (fun i =>
    poke (localKey tile (c.a.toNat + i * shapeStride c.b - windowBase)) 256
      (joinBytes ((List.range 64).map (fun col => ((s.acc tile (r0 + i) col).toNat, 4)))))
  if zero then forEach (List.range (shapeM c.b)) (fun i => setRow tile (r0 + i) (List.replicate 64 0))
  else pure ()
  endCmd tile 2 c 0 0 true

/-- A setting of the monitor (R216). -/
def configure (x : Nat) (m : Monitor) : Monitor :=
  let m := if bits x 41 41 = 1 then { m with samp := 0, esum := 0, emax := 0, skip := 0 } else m
  { m with on := bits x 40 40 = 1, ks := min (bits x 36 32) 16, seed := bits x 31 16 }

/-- `ARRAY_COMMAND` (R202): the next accepted command, wholly. -/
def execArrayCommand (s : State) : Step :=
  let name := "ARRAY_COMMAND"
  commit name (do
    let tile := match s.input with | .one n => n | _ => 0
    match nextCmd (s.tile tile) 2 with
    | none => stop (.refused (.eventNotDue name))
    | some c =>
      let a := (s.tile tile).array
      match c.work with
      | .plate sparse => performPlate tile c sparse
      | .stream memory zero => performStream tile c memory zero
      | .swap => do
        modArray tile (fun a => { a with active := a.shadow, shadow := a.active })
        retire tile 2 c.op
      | .cfg => do
        modArray tile (fun a => { a with monitor := configure c.a.toNat a.monitor })
        retire tile 2 c.op
      | .read zero => performRead tile c zero
      | .pop => do
        retire tile 2 c.op
        finish c.key c.op { writes := [.s c.token ((s.acc tile (bits c.a.toNat 6 0) (bits c.a.toNat 13 8)).zeroExtend 64)] }
      | .drain => do
        retire tile 2 c.op
        finish c.key c.op { acquire := some .thread }
      | .mon k => do
        retire tile 2 c.op
        let m := a.monitor
        let x := match k with | 0 => m.samp | 1 => m.esum | 2 => m.emax | _ => m.skip
        finish c.key c.op { writes := [.s c.token (BitVec.ofNat 64 x)] }
      | _ => stop (.refused (.eventNotDue name))) s

/-! ### Prune and sparse dot (R219-R221) -/

/-- The element formats of R219: code 8, 3 or 4. -/
def pruneCode (n : Nat) : Nat := match n with | 0 => 8 | 1 => 3 | _ => 4

/-- The magnitude of an element for `VPRUNE48`: a NaN above all (R220). -/
def pruneRank (code x : Nat) : Option Q :=
  match plainDecode code x with
  | .nan _ _ => none
  | .inf _ => some (Q.pow2 64)
  | .zero _ => some ⟨0, 1⟩
  | .num q => some q.abs

/-- Element i outranks element j: a greater magnitude, or an equal one and a lower index. -/
def outranks (ranks : List (Option Q)) (i j : Nat) : Bool :=
  match ranks.getD i none, ranks.getD j none with
  | none, none => decide (i < j)
  | none, some _ => true
  | some _, none => false
  | some p, some q => Q.lt q p || (Q.eq p q && decide (i < j))

/-- The kept indices of a group of eight. -/
def keepFour (ranks : List (Option Q)) : List Nat :=
  (List.range 8).filter (fun i => decide (((List.range 8).filter (fun j => j ≠ i && outranks ranks j i)).length < 4))

/-- `VPRUNE48` (R220). -/
def pruneOp (gd : Guard) (code : Nat) (d a b : BitVec 4) : State → Step :=
  issue { guard := gd, uses := fun _ => touches [touchV d, touchV a, touchS b], vectors := [d, a], short := true } (fun k t => do
    let x := (t.readV a).toNat
    let groups := (List.range 4).map (fun g => (List.range 8).map (fun j => elemAt 8 x (8 * g + j)))
    let kept := groups.map (fun es => (keepFour (es.map (pruneRank code)), es))
    let out := joinBytes (kept.flatMap (fun ke => ke.1.map (fun j => (ke.2.getD j 0, 1))))
    let mask := joinBytes (kept.map (fun ke => ((ke.1.map (fun j => 2 ^ j)).sum, 1)))
    modThread k (fun u => (u.writeV d (BitVec.ofNat 256 out)).writeS b (BitVec.ofNat 64 mask))
    return .seq)

/-- `VPRUNE48` (R219): the format in bits [25:24]. -/
def execVprune48 (gd : Guard) (d a b : BitVec 4) (t : BitVec 2) (s : State) : Step := pruneOp gd (pruneCode t.toNat) d a b s

/-- `VSDOT48` (R221). -/
def sparseDotOp (gd : Guard) (code : Nat) (d a b : BitVec 4) : State → Step :=
  issue { guard := gd, uses := fun _ => touches [touchV d, touchV a, touchS b, touchFlags], vectors := [d, a], short := true } (fun k t => do
    let m := (t.readS b).toNat
    match (List.range 4).find? (fun g => countOnes (BitVec.ofNat 8 (elemAt 8 m g)) 8 ≠ 4) with
    | some g => raise .malformedMetadata (BitVec.ofNat 64 g)
    | none =>
      let x := (t.readV a).toNat
      let y := (t.readV d).toNat
      let kept := (List.range 32).filter (fun i => m / 2 ^ i % 2 = 1)
      let pairs := (kept.zip (List.range 16)).map (fun ip => (elemAt 8 x ip.2, elemAt 8 y ip.1))
      let (r, fl) : Nat × Flags :=
        if code = 8 then (wrapInt 32 ((pairs.map (fun p => signedOf 8 p.1 * signedOf 8 p.2)).foldl (· + ·) 0), 0)
        else
          let ps := pairs.map (fun p => mulVal (plainDecode code p.1) (plainDecode code p.2))
          let (v, f) := sumTo32 (ps.map (·.1))
          (roundNe32 v, ps.foldl (fun g p => g ||| p.2) 0 ||| f)
      modThread k (fun u => (u.writeV d (BitVec.ofNat 256 r)).orFlags fl)
      return .seq)

/-- `VSDOT48` (R219). -/
def execVsdot48 (gd : Guard) (d a b : BitVec 4) (t : BitVec 2) (s : State) : Step := sparseDotOp gd (pruneCode t.toNat) d a b s

end Sys2Proof.Machine
end

