-- ==== Sys2Proof/Machine/Copy.lean ====
section
/-!
DEFINITION. The copy engine (R178, R179, R229-R235), the conversion engine (R236-R240) and the state-space block (R242-R246).
-/

namespace Sys2Proof.Machine

/-! ### The copy engine: issue (R229-R231) -/

/-- Fields of the copy descriptor (R230). -/
def copyRows (e : Vector Word 8) : Nat := bits e[2].toNat 55 32
def copyLen (e : Vector Word 8) : Nat := bits e[2].toNat 31 0
def copyTreat (e : Vector Word 8) : Nat := bits e[2].toNat 58 56
def copyDstStride (e : Vector Word 8) : Word := (e[3].extractLsb' 32 32).signExtend 64
def copySrcStride (e : Vector Word 8) : Word := (e[3].extractLsb' 0 32).signExtend 64

/-- Treatments that use a side array (R178). -/
def usesSide (treat : Nat) : Bool := treat = 4 || treat = 5

/-- A command of the copy or conversion engine, whose token and flags are pending outside its window (R226). -/
def commandOp (gd : Guard) (e role : Nat) (la d : BitVec 4) (uses extra : Touch) (a b : Thread → Word) (work : Thread → EngineWork) (addrs : Thread → List Word)
    (checks : Thread → Act Unit) (untimed : Thread → Bool) : State → Step :=
  issue { guard := gd, uses := fun _ => uses.union (touchS d) } (fun k t => do
    forEach (addrs t) needCanonical
    needRole k role
    checks t
    needRoom k e
    let op ← openOp k {} ((touchS d).union extra) la
    pushCmd k e { captureCmd (← look) k t (work t) op d (a t) (b t) with untimed := untimed t }
    return .seq)

/-- The issue-time checks of R231. -/
def copyChecks (peer : Bool) (t : Thread) : Act Unit := do
  needAligned (t.readE 0) 8
  needAligned (t.readE 1) 8
  require (decide (copyLen t.e % 8 = 0)) .align (BitVec.ofNat 64 (copyLen t.e))
  let ds := bits (t.readE 3).toNat 63 32
  let ss := bits (t.readE 3).toNat 31 0
  require (decide (ds % 8 = 0)) .align (BitVec.ofNat 64 ds)
  require (decide (ss % 8 = 0)) .align (BitVec.ofNat 64 ss)
  if usesSide (copyTreat t.e) then needAligned (t.readE 4) 8 else pure ()
  require (decide (copyTreat t.e < 6)) .malformedMetadata 2
  require (!peer || copyTreat t.e = 0) .malformedMetadata 2

/-- The first addresses of the first and the last row of a strided operand: all rows lie in the local window when these two do. -/
def rowEnds (base : Word) (rows : Nat) (stride : Word) : List Nat := [base.toNat, (base + BitVec.ofNat 64 (rows - 1) * stride).toNat]

/-- The operands of a copy lie in the local window, every row of them, or it has no published cost (R277). -/
def copyUntimed (t : Thread) : Bool :=
  !allLocal (rowEnds (t.readE 0) (copyRows t.e) (copySrcStride t.e) ++ rowEnds (t.readE 1) (copyRows t.e) (copyDstStride t.e) ++ (if usesSide (copyTreat t.e) then [(t.readE 4).toNat] else [])
    ++ (if bits (t.readE 6).toNat 0 0 = 1 then [(t.readE 6).toNat] else []))

/-- `CPY` (R229). -/
def execCpy (gd : Guard) (d la : BitVec 4) (s : State) : Step :=
  commandOp gd 0 0 la d {} {} (fun _ => 0) (fun _ => 0) (fun _ => .copy) (fun t => [t.readE 0, t.readE 1]) (copyChecks false) copyUntimed s

/-- `CPYM` (R233). -/
def execCpym (gd : Guard) (d b la : BitVec 4) (s : State) : Step :=
  commandOp gd 0 0 la d (touchS b) {} (fun _ => 0) (fun t => t.readS b) (fun t => .copyMulti ((t.readS b).toNat % 256)) (fun t => [t.readE 0, t.readE 1])
    (copyChecks false) copyUntimed s

/-- `CPYR` (R235). -/
def execCpyr (gd : Guard) (d a la : BitVec 4) (s : State) : Step :=
  commandOp gd 0 0 la d (touchS a) touchFlags (fun t => t.readS a) (fun _ => 0) (fun t => .copyPeer (bits (t.readS a).toNat 31 16)) (fun t => [t.readE 0, t.readE 1])
    (copyChecks true) (fun _ => true) s

/-! ### The copy engine: performance (R178, R179, R232-R235) -/

/-- How the work on a row ends. -/
inductive RowEnd where
  | done
  /-- The command ends with a STATUS at an address (R227). -/
  | ends (status va : Nat)
  /-- A page fault at an address (R228). -/
  | faults (va cause : Nat)
  /-- A destination word is reserved: the write is held (R178). -/
  | waits
  deriving DecidableEq, Repr

/-- The outcome of a refused access: data lost is reported (R303, R304). -/
def rowDenied (va : Nat) (d : Denied) : Act RowEnd := do
  match d with
  | .pageFault c => return .faults va c
  | .machineCheck src => do
    machineReport src va
    return .ends 5 va
  | .protection => return .ends 1 va

/-- A read of an engine, as plain loads read (R154, R232), or how its refusal ends the row. -/
def readStep (c : EngineCmd) (window va n : Nat) : Act (Except RowEnd Nat) := do
  match ← engineRead c.ctx c.core window [(va, n)] with
  | .error (a, .machineCheck _) => return .error (.ends 5 a)
  | .error (a, d) => return .error (← rowDenied a d)
  | .ok l => return .ok (l.headD 0)

/-- A read of a word with its state, as one unit at its home (R160, R178). A word of an MT 1 or MT 2 page, which has no state, counts as FULL. (DESIGN CHOICE: log 90) -/
def readWord (c : EngineCmd) (tile window va : Nat) : Act (Except RowEnd (Nat × Bool)) := do
  match ← engineReach c.ctx tile window va {} with
  | .error d => return .error (← rowDenied va d)
  | .ok k =>
    let s ← look
    if loadSpoiled s va k 8 then return .error (← rowDenied va (.machineCheck (loadSource s va k 8)))
    else return .ok (loadBytes s va k 8, !isEmptyWord s k)

/-- The key of a destination, which must be FULL or EMPTY as it may, and hold no data lost where only a part of its word is written (R303); a reserved word holds the write (R167, R178). -/
def reachStep (c : EngineCmd) (tile window va n : Nat) (m : AccessMode) : Act (Except RowEnd Nat) := do
  match ← engineReach c.ctx tile window va m with
  | .error d => return .error (← rowDenied va d)
  | .ok k =>
    let s ← look
    if reserved s (holdKey va k) then return .error .waits
    else if n < 8 && spoiled s k n then return .error (← rowDenied va (.machineCheck (errorSource s k n)))
    else return .ok k

/-- The keys of a destination in the stores of several tiles, or in shared memory. -/
def reachTargets (c : EngineCmd) (tile va : Nat) (m : AccessMode) : List Nat → Act (Except RowEnd (List (Nat × Nat)))
  | [] => return .ok []
  | w :: rest => do
    match ← reachStep c tile w va 8 m with
    | .error e => return .error e
    | .ok k =>
      match ← reachTargets c tile va m rest with
      | .error e => return .error e
      | .ok l => return .ok ((w, k) :: l)

/-- An engine stores bytes at a key: the line that the L1 of its core holds is updated (R154). (DEDUCED: log 17) -/
def engineStore (c : EngineCmd) (va key n x : Nat) : Act Unit := do
  poke key n x
  if inWindow va then pure () else l1Update c.core c.ctx va n x

/-- A destination word is written with its state, and its home settles; under SPLIT the data alone is written (R178). -/
def writeWord (c : EngineCmd) (treat window va key x : Nat) (full : Bool) : Act Unit := do
  engineStore c va key 8 x
  if treat = 4 then pure ()
  else do
    emit (.empty key (!full))
    settle (homeKey c.ctx window va) key

/-- The state that a treatment gives a destination word (R178). -/
def treatedState (treat : Nat) (source side : Bool) : Bool :=
  match treat with
  | 0 => source
  | 2 => false
  | 5 => side
  | _ => true

/-- The tiles whose stores take a copy's local-window destination. -/
def copyTargets (tile : Nat) (c : EngineCmd) : List Nat :=
  match c.work with
  | .copyMulti m => ((List.range 8).filter (fun i => bits m i i = 1)).map (fun i => clusterOfTile tile * 8 + i)
  | _ => [if bits c.e[5].toNat 31 31 = 1 && inWindow c.e[1].toNat then bits c.e[5].toNat 26 16 else tile]

/-- The tile whose store a copy's local-window source names. -/
def copySource (tile : Nat) (c : EngineCmd) : Nat := if bits c.e[5].toNat 15 15 = 1 && inWindow c.e[0].toNat then bits c.e[5].toNat 10 0 else tile

/-- The elements of one word added to its own: each stored element is the rounded sum (R176, R235). -/
def addElements (bf16 : Bool) (mode : BitVec 2) (old x : Nat) : Nat × Flags :=
  let n := if bf16 then 16 else 32
  (List.range (64 / n)).foldl (fun (a : Nat × Flags) i =>
    let (y, f) := floatSum (if bf16 then fmtBf16 else fmtF32) mode (old / 2 ^ (n * i) % 2 ^ n) (x / 2 ^ (n * i) % 2 ^ n)
    (replaceLane a.1 n (n * i) y, a.2 ||| f)) (old, 0)

/-- The element type of a reduction is .bf16 (R230). -/
def EngineCmd.bf16 (c : EngineCmd) : Bool := bits c.e[2].toNat 59 59 = 1

/-- What the peer finds decides how a row sent to it ends: STATUS 0, or 1, 3 or 5 at some word of it, and the flags of its adds; all of that is free (R227, R235, R374).
(DESIGN CHOICE: log 10) -/
def peerOutcome (va n : Nat) : Act (RowEnd × Flags) := do
  let i ← freshFree
  let j ← freshFree
  let f ← freshFree
  let fl := (Config.freeWord f).extractLsb' 0 5 &&& ~~~flagDZ
  let word := va + 8 * ((Config.freeWord j).toNat % (n / 8))
  return (match [0, 1, 3, 5].getD ((Config.freeWord i).toNat % 4) 0 with | 0 => .done | st => .ends st word, fl)

/-- A word of this module takes the elements of a reduction, as an atomic at its home, in the store that DREM names for the local window (R230): an EMPTY word ends the command (R174, R235). -/
def addStep (tile : Nat) (c : EngineCmd) (va x : Nat) : Act (RowEnd × Flags) := do
  match ← reachStep c tile ((copyTargets tile c).headD tile) va 8 { write := true, fe := true } with
  | .error e => return (e, 0)
  | .ok k =>
    let s ← look
    if spoiled s k 8 then return (← rowDenied va (.machineCheck (errorSource s k 8)), 0)
    else if isEmptyWord s k then return (.ends 3 va, 0)
    else do
      let (y, f) := addElements c.bf16 c.rmode (peek s.mem k 8) x
      engineStore c va k 8 y
      return (.done, f)

/-- The end of a peer's adds: the STATUS, the word concerned, and the flags go back to it (R227, R235). -/
def endAdds (r : Req) (peer status word : Nat) (fl : Flags) : Act Unit := do
  performed r
  emit (.send (.peerAnswer peer status word fl))

/-- The words of a peer's adds from the first that is left, each an atomic at its home, until one ends them, is reserved, or page-faults, which leaves a record of kind 5 (R146, R174,
R235, R374). `fl` are the flags so far, and `go` says that some add has been made. (DESIGN CHOICE: log 10) -/
def addWords (r : Req) (peer : Nat) (bf16 : Bool) (go : Bool) : Nat → Nat → Nat → Flags → Act Unit
  | 0, va, _, fl => endAdds r peer 0 va fl
  | n + 1, va, data, fl => do
    let kept := modReq r.id (fun q => { q with spans := [(va, 8 * (n + 1))], data := data, cmp := fl.zeroExtend 64 })
    match ← reach r.ctx none va { write := true, fe := true } with
    | .error (.pageFault c) => do
      kept
      deny r va (.pageFault c)
    | .error d => endAdds r peer (deniedStatus d) va fl
    | .ok (w, _) =>
      let s ← look
      if reserved s (holdKey va w) then do
        due "REQUEST_ARRIVAL" go
        kept
      else if spoiled s w 8 then do
        machineReport (errorSource s w 8) va
        endAdds r peer 5 va fl
      else if isEmptyWord s w then endAdds r peer 3 va fl
      else do
        let (y, f) := addElements bf16 r.rmode (peek s.mem w 8) (data % 2 ^ 64)
        poke w 8 y
        addWords r peer bf16 true n (va + 8) (data / 2 ^ 64) (fl ||| f)

/-- A row of a peer's `CPYR` goes on from the word that it has come to. -/
def arriveAdds (r : Req) (peer : Nat) (bf16 : Bool) : Act Unit :=
  addWords r peer bf16 false ((r.spans.map (·.2)).sum / 8) r.va r.data (r.cmp.extractLsb' 0 5)

/-- Row r of a strided operand (R232). -/
def rowAt (base : Word) (r : Nat) (stride : Word) : Nat := (base + BitVec.ofNat 64 r * stride).toNat

/-- The words of a row. -/
def rowWords (va n : Nat) : List Nat := (List.range n).map (fun k => (va + 8 * k) % 2 ^ 64)

/-- The reads of a row of a copy: words whose states the treatment does not use are read as plain loads read them, and stand as FULL (R154, R232). (DEDUCED: log 17) -/
def copyReads (c : EngineCmd) : List EngineStep :=
  let treat := copyTreat c.e
  let plain := treat = 1 || treat = 2 || treat = 5 || (match c.work with | .copyPeer _ => true | _ => false)
  (rowWords (rowAt c.e[0] c.done (copySrcStride c.e)) (copyLen c.e / 8)).map (fun va => if plain then .read va 8 else .readWord va)

/-- The writes of a row of `CPY` or `CPYM`, from the words read: word by word, `JOIN` reads a bit before it writes its word, and `SPLIT` writes a word before its bit (R232). -/
def copyWrites (c : EngineCmd) : Except RowEnd (List EngineStep) :=
  let n := copyLen c.e / 8
  let treat := copyTreat c.e
  let w (k : Nat) : Nat × Bool := c.got.getD k (0, true)
  match if treat = 3 then (List.range n).find? (fun k => !(w k).2) else none with
  | some k => .error (.ends 2 ((rowWords (rowAt c.e[0] c.done (copySrcStride c.e)) n).getD k 0))
  | none => .ok (((rowWords (rowAt c.e[1] c.done (copyDstStride c.e)) n).zip (List.range n)).flatMap (fun (va, k) =>
      if treat = 5 then [.join va (w k).1 (c.done * n + k)]
      else .write va (w k).1 (treatedState treat (w k).2 false) :: (if treat = 4 then [.sideBit (c.done * n + k) (w k).2] else [])))

/-- What a row of `CPYR` does with the words read: DEVICE 0 is this module, whose words take the adds in the command's own context; else they go to the peer with the context bound there
(R235, R374). -/
def reduceWrites (c : EngineCmd) (peer bound : Nat) : List EngineStep :=
  let n := copyLen c.e / 8
  let dst := rowAt c.e[1] c.done (copyDstStride c.e)
  if peer = 0 then ((rowWords dst n).zip c.got).map (fun (va, w) => .add va w.1)
  else [.send peer bound dst (joinBytes (c.got.map (fun w => (w.1, 8)))) (8 * n)]

/-- One step of a row, with what it changes in the command (R178, R228, R232, R235, R239); `lay` gives the writes from what has been read. (DEDUCED: log 34) -/
def runStep (tile : Nat) (c : EngineCmd) (lay : EngineCmd → Act (Except RowEnd EngineCmd)) (step : EngineStep) : Act (EngineCmd × RowEnd) := do
  let treat := copyTreat c.e
  let copyMode : AccessMode := { write := true, fe := treat ≠ 4 }
  let kept (x : Except RowEnd (Nat × Bool)) : EngineCmd × RowEnd :=
    match x with
    | .error e => (c, e)
    | .ok w => ({ c with got := c.got ++ [w] }, .done)
  let window := match c.work with | .convert => tile | _ => copySource tile c
  let writeAll (va data : Nat) (full : Bool) : Act RowEnd := do
    match ← reachTargets c tile va copyMode (copyTargets tile c) with
    | .error e => return e
    | .ok l => do
      forEach l (fun wk => writeWord c treat wk.1 va wk.2 data full)
      return .done
  let side (i : Nat) : Nat := (c.e[4].toNat + i / 8) % 2 ^ 64
  match step with
  | .read va n => return kept ((← readStep c window va n).map (fun x => (x, true)))
  | .readWord va => return kept (← readWord c tile window va)
  | .lay =>
    match ← lay c with
    | .error e => return (c, e)
    | .ok c => return (c, .done)
  | .write va data full => return (c, ← writeAll va data full)
  | .join va data i =>
    match ← readStep c tile (side i) 1 with
    | .error e => return (c, e)
    | .ok x => return (c, ← writeAll va data (x / 2 ^ (i % 8) % 2 = 1))
  | .sideBit i full =>
    match ← reachStep c tile tile (side i) 1 { write := true } with
    | .error e => return (c, e)
    | .ok k => do
      -- whole bytes: the bits below are those written before, and the ones above are zero (R179)
      let old := peek (← look).mem k 1
      engineStore c (side i) k 1 (old % 2 ^ (i % 8) + bit full (i % 8))
      return (c, .done)
  | .bytes va n data =>
    match ← reachStep c tile tile va n { write := true } with
    | .error e => return (c, e)
    | .ok k => do
      engineStore c va k n data
      return (c, .done)
  | .flags f => return ({ c with flags := c.flags ||| f }, .done)
  | .add va data => do
    let (e, f) ← addStep tile c va data
    return ({ c with flags := c.flags ||| f }, e)
  | .send peer bound va data n => do
    emit (.send (.peerAdd peer bound va c.bf16 c.rmode data n))
    let (e, f) ← peerOutcome va n
    return ({ c with flags := c.flags ||| f }, e)

/-- The reads of a row from a step on that lie in the granule of the step's own. -/
def granuleReads (steps : List EngineStep) : List (Nat × Nat) :=
  match steps.head? with
  | some (.read va _) => (steps.takeWhile (fun x => match x with | .read v _ => v / 64 = va / 64 | _ => false)).filterMap (fun x => match x with | .read v n => some (v, n) | _ => none)
  | _ => []

/-- Steps of a row in order; one that does not come about stays the first of those that are left, and the laying of the writes ends the reads. The granule that is read next is read from one
age (R197). -/
def runSteps (tile : Nat) (lay : EngineCmd → Act (Except RowEnd EngineCmd)) : EngineCmd → List EngineStep → Act (EngineCmd × RowEnd)
  | c, [] => return ({ c with row := [] }, .done)
  | c, step :: rest => do
    wholeGranules c.ctx c.core (granuleReads (step :: rest))
    let (c, e) ← runStep tile c lay step
    match e with
    | .done => if step = .lay then return (c, .done) else runSteps tile lay c rest
    | e => return ({ c with row := step :: rest }, e)

/-- One row, from where it stands: its reads, and then its writes. -/
def runRow (tile : Nat) (reads : EngineCmd → List EngineStep) (lay : EngineCmd → Act (Except RowEnd EngineCmd)) (c : EngineCmd) : Act (EngineCmd × RowEnd) := do
  let start := reads c
  let (c, e) ← runSteps tile lay c (if c.row.isEmpty then start ++ [.lay] else c.row)
  match e with
  | .done => runSteps tile lay c c.row
  | e => return (c, e)

/-- The writes of a row take the place of its reads. -/
def laid (c : EngineCmd) (x : Except RowEnd (List EngineStep)) : Except RowEnd EngineCmd := x.map (fun l => { c with row := l })

/-- Rows from the one that the command has come to; how the work stopped, and what the command keeps of it. -/
def rowLoop (row : EngineCmd → Act (EngineCmd × RowEnd)) : Nat → EngineCmd → Act (EngineCmd × RowEnd)
  | 0, c => return (c, .done)
  | fuel + 1, c => do
    let (c, e) ← row c
    match e with
    | .done => rowLoop row fuel { c with done := c.done + 1, row := [], got := [] }
    | e => return (c, e)

/-- The end of a run of rows: the command ends, stops on a page fault, or keeps its progress until a reservation ends (R178, R227, R228). -/
def closeRows (name : String) (tile e : Nat) (before c : EngineCmd) (x : RowEnd) (last : Act Unit) : Act Unit := do
  let keep := modCmd tile e c.op (fun y => { y with done := c.done, row := c.row, got := c.got, flags := c.flags, top := c.top })
  match x with
  | .done => last
  | .ends st va => endCmd tile e c (tokenWord st va) 0 true
  | .faults va cause => do
    keep
    faultCmd tile e c va cause
  | .waits => do
    due name ((before.done, before.row, before.got) ≠ (c.done, c.row, c.got))
    keep

/-- `COPY_EXECUTION` (R232-R235): the copy engine's next command. A command with no row, no byte in a row or no element in its mask makes its reads and checks first (R230, R356).
(DESIGN CHOICE: log 92) -/
def execCopyExecution (s : State) : Step :=
  let name := "COPY_EXECUTION"
  commit name (do
    let tile := match s.input with | .one n => n | _ => 0
    match nextCmd (s.tile tile) 0 with
    | none => stop (.refused (.eventNotDue name))
    | some c =>
      let dst := c.e[1].toNat
      let rows := copyRows c.e
      let nothing := rows = 0 || copyLen c.e = 0
      let run (lay : EngineCmd → Act (Except RowEnd EngineCmd)) : Act Unit := do
        let (d, e) ← rowLoop (runRow tile copyReads lay) (rows - c.done) c
        closeRows name tile 0 c d e (endCmd tile 0 d 0 0 true)
      let absent (go : Act Unit) : Act Unit := match c.absent with
        | some va => endCmd tile 0 c (tokenWord 1 va) 0 false
        | none => go
      match c.refused with
      | some (st, va) => endCmd tile 0 c (tokenWord st va) 0 c.converted
      | none =>
        match c.work with
        | .copyPeer peer =>
          if nothing then endCmd tile 0 c 0 0 false
          else absent (
            if peer = 0 then run (fun d => return laid d (.ok (reduceWrites d 0 0)))
            else match reachablePeer s peer with
              | none => endCmd tile 0 c (tokenWord 4 dst) 0 false
              | some p =>
                match p.contexts.find? (·.1 = c.ctx) with
                | none => endCmd tile 0 c (tokenWord 1 dst) 0 false
                | some b => run (fun d => return laid d (.ok (reduceWrites d peer b.2))))
        | .copyMulti mask =>
          if nothing || mask = 0 then endCmd tile 0 c 0 0 false
          else if !inWindow dst then endCmd tile 0 c (tokenWord 1 dst) 0 false
          else absent (run (fun d => return laid d (copyWrites d)))
        | _ =>
          if nothing then endCmd tile 0 c 0 0 false
          else absent (run (fun d => return laid d (copyWrites d)))) s

/-! ### The conversion engine (R236-R240) -/

/-- The issue-time checks of R237. -/
def convertChecks (t : Thread) : Act Unit := do
  let k := bits (t.readE 2).toNat 31 0
  require (decide (k % 32 = 0)) .align (BitVec.ofNat 64 k)
  needAligned (t.readE 0) 8
  needAligned (t.readE 1) 8
  needAligned (t.readE 4) 8
  let ds := bits (t.readE 3).toNat 63 32
  let ss := bits (t.readE 3).toNat 31 0
  require (decide (ds % 8 = 0)) .align (BitVec.ofNat 64 ds)
  require (decide (ss % 8 = 0)) .align (BitVec.ofNat 64 ss)
  require (decide (bits (t.readE 5).toNat 1 0 ≠ 3)) .malformedMetadata 5

/-- `CNV` (R236). -/
def execCnv (gd : Guard) (d la : BitVec 4) (s : State) : Step :=
  commandOp gd 1 1 la d {} touchFlags (fun _ => 0) (fun _ => 0) (fun _ => .convert) (fun t => [t.readE 0, t.readE 1, t.readE 4]) convertChecks
    (fun t => !allLocal (rowEnds (t.readE 0) (bits (t.readE 2).toNat 55 32) (BitVec.ofNat 64 (bits (t.readE 3).toNat 31 0))
      ++ rowEnds (t.readE 1) (bits (t.readE 2).toNat 55 32) (BitVec.ofNat 64 (bits (t.readE 3).toNat 63 32)) ++ [t.fmta.toNat, t.fmtb.toNat, t.fmts.toNat]
      ++ (if t.readE 4 = 0 then [] else [(t.readE 4).toNat]) ++ (if bits (t.readE 6).toNat 0 0 = 1 then [(t.readE 6).toNat] else []))) s

/-- EMAX and MAXF of a destination code (R238). -/
def scaleEmax (c : Nat) : Int := match c with | 3 => 8 | 4 => 15 | 5 => 4 | 6 => 2 | 7 => 2 | 8 => 6 | _ => 2
def scaleMaxf (c : Nat) : Q := match c with | 3 => ⟨448, 1⟩ | 4 => ⟨57344, 1⟩ | 5 => ⟨28, 1⟩ | 6 => ⟨15, 2⟩ | 7 => ⟨6, 1⟩ | 8 => ⟨127, 1⟩ | _ => ⟨7, 1⟩

/-- The scale code chosen from a value a (R238); none where the rule states none, for a negative a. -/
def chooseScale (skind c : Nat) (a : Val) : Option (Nat × Flags) :=
  let e8 := skind = 1
  match a with
  | .nan _ _ => some (if e8 then 0xFF else 0x7F, flagNV)
  | .inf false => some (if e8 then 0xFF else 0x7F, flagNV)
  | .inf true => none
  | .zero _ => some (if e8 then 0x7F else 0x38, 0)
  | .num q =>
    if q.isNeg then none
    else if e8 then some ((min (max (Q.log2 q - scaleEmax c + 127) 0) 254).toNat, 0)
    else
      let t := Q.div q (scaleMaxf c)
      some (((List.range 0x7E).map (· + 1)).find? (fun x => Q.le t (fmtE4m3.decode x).toQ) |>.getD 0x7E, 0)

/-- The largest finite magnitude of a block. -/
def blockMax (xs : List Val) : Val := Val.ofQ ((xs.filter Val.isFinite).foldl (fun m v => Q.max m v.toQ.abs) ⟨0, 1⟩)

/-- |v|. -/
def Val.abs (v : Val) : Val := if v.isNeg then v.neg else v

/-- The larger of a magnitude and that of a value, exactly; a NaN is the largest of all (R240). -/
def topOf (m v : Val) : Val := if m.isNan || v.isNan then .nan false false else if Val.lt m v.abs then v.abs else m

/-- One block converted (R238, R239): element codes, the scale or header to write, flags. `given` is the scale or header read under SMODE 1, `am` the amax value of SMODE 2 and `free` what
stands for a scale that the rules do not state. -/
def convertBlock (dc skind smode : Nat) (mode : BitVec 2) (given : Nat) (am : Val) (free : Nat) (xs : List Val) : List Nat × Nat × Flags :=
  let each (f : Val → Nat × Flags) : List Nat × Flags := let rs := xs.map f; (rs.map (·.1), rs.foldl (fun g r => g ||| r.2) 0)
  if dc ≤ 2 then
    let (es, f) := each (fun v => roundIeee ((codeFmt dc).getD fmtF32) mode v)
    (es, 0, f)
  else if 10 ≤ dc then
    if smode = 1 then
      let (es, f) := each (fun v => dbfOne dc v (given % 256) (given / 256))
      (es, given, f)
    else
      let (hi, lo, es, f) :=
        if xs.any (fun v => !v.isFinite) then dbfNan dc xs
        else if smode = 0 then dbfBlock dc xs
        else match am with
          | .zero _ => dbfUnder dc 0 xs
          | .inf false => dbfUnder dc 254 xs
          | .num q => if q.isNeg then dbfUnder dc (free % 256) xs else dbfUnder dc (dbfHigh dc q) xs
          | _ => dbfUnder dc (free % 256) xs
      (es, hi + 256 * lo, f)
  else if skind = 0 then
    let (es, f) := each (roundSatCode dc)
    (es, 0, f)
  else
    let (code, f0) := if smode = 1 then (given, 0) else ((chooseScale skind dc (if smode = 0 then blockMax xs else am)).getD (free % 256, 0))
    let (es, f) := each (fun v => encodeSat dc v (scaleOf skind code))
    (es, code, f0 ||| f)

/-- The byte ranges that a row of a conversion reads: elements, source scales, and given destination scales (R237, R239). -/
def convertRanges (c : EngineCmd) (fa fb : Format) : List (Nat × Nat) :=
  let e := c.e
  let k := bits e[2].toNat 31 0
  [(e[0].toNat + c.done * bits e[3].toNat 31 0, k * codeBits fa.fmt / 8), (c.bases % 2 ^ 64 + c.done * fa.stride, scaleBytes fa (k / 32)),
   (c.bases / 2 ^ 64 + c.done * fb.stride, if bits e[5].toNat 1 0 = 1 then scaleBytes fb (k / 32) else 0)]

/-- The reads of a row of a conversion, in words. -/
def convertReads (fa fb : Format) (c : EngineCmd) : List EngineStep :=
  (convertRanges c fa fb).flatMap (fun r => (wordPieces r.1 r.2).map (fun p => .read p.1 p.2))

/-- What has been read of some ranges, each joined (R8). -/
def joinRanges : List (Nat × Nat) → List (Nat × Bool) → List Nat
  | [], _ => []
  | (va, n) :: rest, got =>
    let ps := wordPieces va n
    joinBytes ((got.map (·.1)).zip (ps.map (·.2))) :: joinRanges rest (got.drop ps.length)

/-- Bytes to be written in words at an address. -/
def writeSteps (va n x : Nat) : List EngineStep := (wordPieces va n).map (fun p => .bytes p.1 p.2 (x / 256 ^ (p.1 - va) % 256 ^ p.2))

/-- The writes of a row of a conversion, every element of which has been read: block by block, the flags that its conversion raises, its elements, and its scale or header (R239). The
largest magnitude is kept for the amax word (R240). Under SMODE 2 with no amax word, a is a free value of the row. (DESIGN CHOICE: log 78) -/
def convertWrites (fa fb : Format) (c : EngineCmd) : Act EngineCmd := do
  let e := c.e
  let k := bits e[2].toNat 31 0
  let nb := k / 32
  let smode := bits e[5].toNat 1 0
  let xs := joinRanges (convertRanges c fa fb) c.got
  let dst := e[1].toNat + c.done * bits e[3].toNat 63 32
  let sb := c.bases / 2 ^ 64 + c.done * fb.stride
  let scales := scalesOf fa nb (xs.getD 1 0)
  let given := scalesOf fb nb (xs.getD 2 0)
  let vals := (List.range k).map (fun i => decodeElem fa.fmt (elemAt (codeBits fa.fmt) (xs.getD 0 0) i) (coverAt fa.skind scales (i / 32)))
  let n ← freshFree
  let m ← freshFree
  let am := fmtF32.decode (if smode = 2 && e[4] = 0 then (Config.freeWord m).toNat else c.amax)
  let w := codeBits fb.fmt
  let scale := if fb.skind = 3 then 2 else 1
  let steps := (List.range nb).flatMap (fun b =>
    let vs := (vals.drop (32 * b)).take 32
    let (es, code, fl) := convertBlock fb.fmt fb.skind smode c.rmode (given.getD b 0) am (Config.freeWord n).toNat (vs.map (·.1))
    let out := (es.zip (List.range 32)).foldl (fun x ei => x + ei.1 % 2 ^ w * 2 ^ (w * ei.2)) 0
    .flags (vs.foldl (fun g v => g ||| v.2) fl) :: writeSteps (dst + 4 * w * b) (4 * w) out
      ++ (if smode = 1 || fb.skind = 0 then [] else writeSteps (sb + scale * b) scale (code % 256 ^ scale)))
  return { c with row := steps, top := vals.foldl (fun m v => topOf m v.1) c.top }

/-- The update of the amax word, after every write of the command: an `AMO.maxn` at its home, whose operand is the largest magnitude rounded once to .f32, with the flags of that (R94, R174,
R240). It waits as any atomic does, under no WAITLIM. (DESIGN CHOICE: log 86) -/
def sendUpdate (tile : Nat) (c : EngineCmd) : Act Unit := do
  let (m, f) := roundIeee fmtF32 0 c.top
  let id ← freshId
  let s ← look
  emit (.req id (some {
    id := id, who := .engine tile c.op, op := c.op, ctx := c.ctx, core := c.core, pc := c.pc, insn := 0, wide := false, ask := .atomic .maxn, spans := [(c.e[4].toNat, 8)], data := m,
    cmp := 0, d := 0, pf := 0, vlong := false, scope := c.scope, form := 0, acq := true, rel := true, rmode := c.rmode, seq := 0, runner := false, waitlim := 0, retrylim := 0,
    resends := 0, issued := coreCycle s tile, arrived := 0, after := [], stage := .sent, expiring := false }))
  modCmd tile 1 c.op (fun y => { y with done := c.done, row := [], got := [], top := c.top, flags := c.flags ||| f, update := some id })

/-- A conversion whose update has been performed, or refused at its word, ends (R227, R240). -/
def endUpdated (name : String) (tile : Nat) (c : EngineCmd) (id : Nat) : Act Unit := do
  due name (mapGet id (← look).reqs).isNone
  endCmd tile 1 c (match c.refused with | some (st, va) => tokenWord st va | none => 0) 0 true

/-- `CONVERSION_EXECUTION` (R239): the conversion engine's next command; the trap of one whose formats failed has been raised at acceptance. -/
def execConversionExecution (s : State) : Step :=
  let name := "CONVERSION_EXECUTION"
  commit name (do
    let tile := match s.input with | .one n => n | _ => 0
    match nextCmd (s.tile tile) 1 with
    | none => stop (.refused (.eventNotDue name))
    | some c =>
      let rows := bits c.e[2].toNat 55 32
      match c.update, c.refused, formatOf c.descA, formatOf c.descB with
      | some id, _, _, _ => endUpdated name tile c id
      | none, some (st, va), _, _ => endCmd tile 1 c (tokenWord st va) 0 c.converted
      | none, none, some fa, some fb =>
        if c.failed then retire tile 1 c.op
        else if rows = 0 then endCmd tile 1 c 0 0 false
        else do
          let (d, e) ← rowLoop (runRow tile (convertReads fa fb) (fun d => do return .ok (← convertWrites fa fb d))) (rows - c.done) c
          closeRows name tile 1 c d e (if c.e[4] = 0 then endCmd tile 1 d 0 0 true else sendUpdate tile d)
      | _, _, _, _ => retire tile 1 c.op) s

/-! ### The state-space block (R242-R246) -/

/-- The regions of a scan: address and length (R242). -/
def scanRegions (a b : Word) (e : Vector Word 8) : List (Nat × Nat) :=
  let t := bits b.toNat 15 0
  [(a.toNat, 4096), (e[0].toNat, 256 * t), (e[1].toNat, 256 * t), (e[2].toNat, 64 * t), (e[3].toNat, 64 * t), (e[4].toNat, 256 * t)]

/-- `SSCAN` (R242): its FLAGS and token are pending outside its window (R226). It reads an entry of the coefficient memory, a destination of a `COEFLD` (R126). -/
def execSscan (gd : Guard) (d a b la : BitVec 4) (s : State) : Step :=
  issue { guard := gd, uses := fun _ => touches [touchS d, touchS a, touchS b, touchCoef] } (fun k t => do
    let l := bits (t.readS b).toNat 23 16
    let rs := scanRegions (t.readS a) (t.readS b) t.e
    forEach rs (fun r => needCanonical (BitVec.ofNat 64 r.1))
    needRole k 2
    needArray k t
    claimCoef k t
    require (decide (1 ≤ l) && decide (l ≤ 64)) .protection (BitVec.ofNat 64 l)
    forEach rs (fun r => require (!leavesWindow r.1 r.2) .protection (BitVec.ofNat 64 r.1))
    forEach rs (fun r => needAligned (BitVec.ofNat 64 r.1) 8)
    needEntries (coefsOf (← look) k t) [.exp2]
    needRoom k 2
    let op ← openOp k {} ((touchS d).union touchFlags) la
    takeArray k t
    pushCmd k 2 (captureCmd (← look) k t .scan op d (t.readS a) (t.readS b))
    return .seq) s

/-- Arithmetic that collects flags. -/
abbrev Arith := StateM Flags

/-- A result with its flags, kept exact. -/
def keepFlags (x : Val × Flags) : Arith Val := do
  modify (· ||| x.2)
  return x.1

/-- A result rounded to .f32 (R243). -/
def round32 (x : Val × Flags) : Arith Val := do
  let v ← keepFlags x
  keepFlags (roundTo32 v)

/-- An exact product. -/
def product (a b : Val) : Arith Val := keepFlags (mulVal a b)

/-- An exact sum, rounded once. -/
def total (ts : List Val) : Arith Val := keepFlags (sumTo32 ts)

/-- a − b, rounded. -/
def difference (a b : Val) : Arith Val := round32 (addVal 0 a b.neg)

/-- exp2f with its flags. -/
def exp2A (c : Coefs) (v : Val) : Arith Val := keepFlags (c.call .exp2 v)

/-- A pairwise sum in the order of R120, each step rounded. -/
def pairwise : Nat → List Val → Arith Val
  | 0, l => return l.headD (.zero false)
  | fuel + 1, l => do
    match l with
    | [] => return .zero false
    | [x] => return x
    | _ =>
      let h := l.length / 2
      let sums ← (List.range h).mapM (fun i => round32 (addVal 0 (l.getD i (.zero false)) (l.getD (i + h) (.zero false))))
      pairwise fuel sums

/-- The inputs of a chunk, by step: x and a by channel, B and C by index. -/
structure ScanStep where
  x : List Val
  a : List Val
  b : List Val
  c : List Val

/-- One step of the stepwise form for a channel: its new state and y (R244). -/
def stepChannel (co : Coefs) (i : ScanStep) (d : Nat) (h : List Val) : Arith (List Val × Val) := do
  let z := Val.zero false
  let g ← exp2A co (i.a.getD d z)
  let h' ← (List.range 16).mapM (fun n => do
    let u ← round32 (mulVal (i.b.getD n z) (i.x.getD d z))
    round32 (fmaVal 0 g (h.getD n z) u))
  let p ← (List.range 16).mapM (fun n => round32 (mulVal (i.c.getD n z) (h'.getD n z)))
  let y ← pairwise 16 p
  return (h', y)

/-- A chunk in the stepwise form, for one channel (R244): the state it hands on and y by step. -/
def stepChunk (co : Coefs) (d : Nat) : List ScanStep → List Val → Arith (List Val × List Val)
  | [], h => return (h, [])
  | i :: rest, h => do
    let (h', y) ← stepChannel co i d h
    let (hn, ys) ← stepChunk co d rest h'
    return (hn, y :: ys)

/-- The running sums c[0..m] of R245. -/
def runningSums : Val → List Val → Arith (List Val)
  | c, [] => return [c]
  | c, a :: rest => do
    let n ← round32 (addVal 0 c a)
    let l ← runningSums n rest
    return c :: l

/-- dotb of R245: blocks of 32 terms, each summed exactly and rounded once, added in order. -/
def dotB : Nat → Val → List Val → Arith Val
  | 0, acc, _ => return acc
  | fuel + 1, acc, ts => do
    match ts with
    | [] => return acc
    | _ => do
      let v ← total (ts.take 32)
      let n ← total [acc, v]
      dotB fuel n (ts.drop 32)

/-- A chunk in the chunked form, for one channel (R245); `g` holds G[j][i]. -/
def chunkChannel (co : Coefs) (steps : List ScanStep) (g : List (List Val)) (d : Nat) (h0 : List Val) : Arith (List Val × List Val) := do
  let z := Val.zero false
  let m := steps.length
  let x (i : Nat) : Val := ((steps[i]?).map (fun s => s.x.getD d z)).getD z
  let cs ← runningSums z (steps.map (fun s => s.a.getD d z))
  let c (j : Nat) : Val := cs.getD j z
  let ys ← (List.range m).mapM (fun j => do
    let terms ← (List.range m).mapM (fun i => do
      let w ← if i ≤ j then do
          let df ← difference (c (j + 1)) (c (i + 1))
          let e ← exp2A co df
          round32 (mulVal e ((g.getD j []).getD i z))
        else pure z
      product w (x i))
    let intra ← dotB m z terms
    let qs ← (List.range 16).mapM (fun n => product (((steps[j]?).map (fun s => s.c.getD n z)).getD z) (h0.getD n z))
    let q ← total qs
    let e ← exp2A co (c (j + 1))
    let v ← round32 (mulVal e q)
    round32 (addVal 0 intra v))
  let em ← exp2A co (c m)
  let decays ← (List.range m).mapM (fun i => do
    let df ← difference (c m) (c (i + 1))
    exp2A co df)
  let h1 ← (List.range 16).mapM (fun n => do
    let first ← product em (h0.getD n z)
    let rest ← (List.range m).mapM (fun i => do
      let eb ← product (decays.getD i z) (((steps[i]?).map (fun s => s.b.getD n z)).getD z)
      product eb (x i))
    total (first :: rest))
  return (h1, ys)

/-- G of R245. -/
def chunkG (steps : List ScanStep) : Arith (List (List Val)) :=
  steps.mapM (fun sj => steps.mapM (fun si => do
    let ps ← (List.range 16).mapM (fun n => product (sj.c.getD n (.zero false)) (si.b.getD n (.zero false)))
    total ps))

/-- A chunk for every channel: new states and y by channel. -/
def scanChunk (co : Coefs) (stepwise : Bool) (steps : List ScanStep) (hs : List (List Val)) : Arith (List (List Val × List Val)) := do
  let g ← if stepwise then pure [] else chunkG steps
  (List.range 64).mapM (fun d =>
    if stepwise then stepChunk co d steps (hs.getD d []) else chunkChannel co steps g d (hs.getD d []))

/-- .f32 values of a tile's local store at a local-window address. -/
def localFloats (m : List Host.Cell) (tile va n : Nat) : List Val := (List.range n).map (fun i => fmtF32.decode (peek m (localKey tile (va + 4 * i - windowBase)) 4))

/-- The first word of some ranges of the store that holds an uncorrectable error (R227). -/
def scanSpoiled (s : State) (tile : Nat) (l : List (Nat × Nat)) : Option Nat :=
  (l.find? (fun r => decide (0 < r.2) && spoiled s (localKey tile (r.1 - windowBase)) r.2)).map (fun r => errorAddress s r.1 (localKey tile (r.1 - windowBase)) r.2)

/-- Data that a scan has read is lost: the report, and its end (R303, R304). -/
def scanLost (tile : Nat) (c : EngineCmd) (va : Nat) (f : Flags) : Act Unit := do
  machineReport (errorSource (← look) (localKey tile (va - windowBase)) 1) va
  endCmd tile 2 c (tokenWord 5 va) f true

/-- Chunks from step `t0` on (R243): the state after the last, the flags, or the word at which an error ends the command. -/
def scanLoop (tile : Nat) (c : EngineCmd) (len steps : Nat) : Nat → Nat → List (List Val) → Flags → Act (Except (Nat × Flags) (List (List Val) × Flags))
  | 0, _, hs, f => return .ok (hs, f)
  | fuel + 1, t0, hs, f => do
    if steps ≤ t0 then return .ok (hs, f)
    let s ← look
    let m := min len (steps - t0)
    let at_ (i size : Nat) : Nat := (c.e.toList.getD i 0).toNat + size * t0
    match scanSpoiled s tile [(at_ 0 256, 256 * m), (at_ 1 256, 256 * m), (at_ 2 64, 64 * m), (at_ 3 64, 64 * m)] with
    | some va => return .error (va, f)
    | none => do
      let ins := (List.range m).map (fun j => (⟨localFloats s.mem tile (at_ 0 256 + 256 * j) 64, localFloats s.mem tile (at_ 1 256 + 256 * j) 64,
        localFloats s.mem tile (at_ 2 64 + 64 * j) 16, localFloats s.mem tile (at_ 3 64 + 64 * j) 16⟩ : ScanStep))
      let (rs, g) := (scanChunk ⟨s.mem, tile, c.coefbase.toNat * 4⟩ (decide (len < 16)) ins hs).run f
      forEach (List.range m) (fun j =>
        poke (localKey tile (at_ 4 256 + 256 * j - windowBase)) 256 (joinBytes (rs.map (fun r => (roundNe32 (r.2.getD j (.zero false)), 4)))))
      scanLoop tile c len steps fuel (t0 + m) (rs.map (·.1)) g

/-- `SSCAN_EXECUTION` (R243). -/
def execSscanExecution (s : State) : Step :=
  let name := "SSCAN_EXECUTION"
  commit name (do
    let tile := match s.input with | .one n => n | _ => 0
    match nextCmd (s.tile tile) 2 with
    | none => stop (.refused (.eventNotDue name))
    | some c =>
      due name (c.work = .scan)
      let x := c.b.toNat
      let steps := bits x 15 0
      let len := bits x 23 16
      let h := c.a.toNat
      due name (!reservedRange s c.ctx tile h 4096 && !reservedRange s c.ctx tile c.e[4].toNat (256 * steps))
      let zero := bits x 24 24 = 1
      match if zero then none else scanSpoiled s tile [(h, 4096)] with
      | some va => scanLost tile c va 0
      | none =>
        let hs := (List.range 64).map (fun d => if zero then List.replicate 16 (Val.zero false) else localFloats s.mem tile (h + 64 * d) 16)
        match ← scanLoop tile c len steps steps 0 hs 0 with
        | .error (va, f) => scanLost tile c va f
        | .ok (hs, f) => do
          forEach (List.range 64) (fun d => poke (localKey tile (h + 64 * d - windowBase)) 64 (joinBytes ((hs.getD d []).map (fun v => (roundNe32 v, 4)))))
          endCmd tile 2 c 0 f true) s

end Sys2Proof.Machine
end

