-- ==== Sys2Proof/Machine/Couch.lean ====
section
/-!
DEFINITION. Interval lists: records and headers (R308-R310), the Couch's arithmetic (R312-R318), the list instructions (R319-R323, R332), the order of the Couch (R324); and
traversals by the Sprue: rays and boxes (R326, R328, R337, R338), visits (R329, R331), the leaf ring (R330) and their ends (R327, R334).
-/

namespace Sys2Proof.Machine

/-! ### Arithmetic (R312) -/

/-- The value of a .f32 code. -/
def f32v (x : Nat) : Val := fmtF32.decode x
/-- The value of a .f16 code. -/
def f16v (x : Nat) : Val := fmtF16.decode x
def addX (a b : Val) : Val := (addVal 0 a b).1
def subX (a b : Val) : Val := (addVal 0 a b.neg).1
def mulX (a b : Val) : Val := (mulVal a b).1
def divX (a b : Val) : Val := (divVal a b).1
def oneX : Val := .num ⟨1, 1⟩
def natX (n : Nat) : Val := Val.ofQ (Q.ofNat n)
/-- Lesser and greater, −0 below +0 as R349 has it for max (log 12). -/
def minX (a b : Val) : Val := if ranksBelow b a then b else a
def maxX (a b : Val) : Val := if ranksBelow a b then b else a
/-- +∞ and −∞ as .f32 codes. -/
def infCode32 : Nat := 0x7F800000
def minusInfCode32 : Nat := 0xFF800000
/-- Zero of either sign. -/
def Val.isZero : Val → Bool
  | .zero _ => true
  | _ => false
/-- +∞. -/
def Val.isInf : Val → Bool
  | .inf _ => true
  | _ => false
/-- a ≥ b; false when either is a NaN. -/
def geX (a b : Val) : Bool := !a.isNan && !b.isNan && !Val.lt a b

/-- round_ne16 (R312); what it gives beside non-negative values is open (log 4). (DESIGN CHOICE: log 47) -/
def roundNe16 (v : Val) : Nat :=
  match v with
  | .nan _ _ => (Config.openHalf 0 0).toNat
  | .inf neg => if neg then (Config.openHalf (-1) 0).toNat else 0x7BFF
  | .zero _ => 0
  | .num q => if q.isNeg then (Config.openHalf q.num q.den).toNat else if Q.lt (Q.ofNat 65504) q then 0x7BFF else (roundIeee fmtF16 0 v).1

/-- LOG2E and LN2 (R312, R318). -/
def log2E : Val := f32v 0x3FB8AA3B
def ln2 : Val := f32v 0x3F317218

/-- ex(x), for e^−x (R312). -/
def Coefs.ex (c : Coefs) (x : Val) : Val := c.exp2f (toF32 (mulX x.neg log2E))

/-- om(x), for 1 − e^−x (R312). -/
def Coefs.om (c : Coefs) (x : Val) : Val := toF32 (subX oneX (c.ex x))

/-! ### Records (R308, R309) -/

/-- An interval record; t, TAU and the emission as codes. -/
structure Rec where
  t0 : Nat
  t1 : Nat
  tau : Nat
  em : List Nat
  conf : Nat
  src : Nat
  mix : Bool
  clip : Bool
  kind : Nat
  deriving DecidableEq, Repr

def kindMerged : Nat := 4
def kindFault : Nat := 5

/-- The record of 32 bytes. -/
def recOf (x : Nat) : Rec where
  t0 := bits x 31 0
  t1 := bits x 63 32
  tau := bits x 95 64
  em := [bits x 111 96, bits x 127 112, bits x 143 128]
  conf := bits x 159 144
  src := bits x 191 160
  mix := bits x 196 196 = 1
  clip := bits x 195 195 = 1
  kind := bits x 194 192

/-- The 32 bytes of a record. -/
def Rec.bytes (r : Rec) : Nat :=
  r.t0 + r.t1 * 2 ^ 32 + r.tau * 2 ^ 64 + r.em.getD 0 0 * 2 ^ 96 + r.em.getD 1 0 * 2 ^ 112 + r.em.getD 2 0 * 2 ^ 128 + r.conf * 2 ^ 144 + r.src * 2 ^ 160
    + (r.kind + bit r.clip 3 + bit r.mix 4) * 2 ^ 192

/-- −0 taken as +0. -/
def plusZero (width x : Nat) : Nat := if x = 2 ^ (width - 1) then 0 else x

/-- A non-negative value, zero of either sign included. -/
def notNegative (v : Val) : Bool := !v.isNan && (v.isZero || !v.isNeg)

/-- An answer, if it is valid, as it is inserted (R309). -/
def answerOf (x : Nat) : Option Rec :=
  let r := recOf x
  let t0 := f32v r.t0
  let t1 := f32v r.t1
  if t0.isFinite && t1.isFinite && !Val.lt t1 t0 && notNegative (f32v r.tau) && r.em.all (fun e => (f16v e).isFinite && notNegative (f16v e)) && decide (r.kind ≤ 3) then
    some { r with tau := plusZero 32 r.tau, em := r.em.map (plusZero 16), mix := false, clip := false }
  else none

/-- A record of positive length. -/
def Rec.positive (r : Rec) : Bool := Val.lt (f32v r.t0) (f32v r.t1)

/-- A t lies strictly inside a record. -/
def Rec.holds (r : Rec) (t : Nat) : Bool := Val.lt (f32v r.t0) (f32v t) && Val.lt (f32v t) (f32v r.t1)

/-- The key of X is not above that of Y (R313). -/
def Rec.before (x y : Rec) : Bool :=
  if Val.lt (f32v x.t0) (f32v y.t0) then true
  else if Val.lt (f32v y.t0) (f32v x.t0) then false
  else if Val.lt (f32v x.t1) (f32v y.t1) then true
  else if Val.lt (f32v y.t1) (f32v x.t1) then false
  else decide (x.src < y.src) || (x.src = y.src && decide (x.kind ≤ y.kind))

/-! ### Headers (R310) -/

/-- The header of a list. -/
structure Header where
  count : Nat
  klog : Nat
  bad : Bool
  done : Bool
  trva : Bool
  flt : Bool
  opq : Bool
  tstop : Nat
  budget : Nat
  tOpaque : Nat
  late : Nat
  merges : Nat
  visits : Nat
  dstop : Nat
  deriving DecidableEq, Repr

/-- K (R310). -/
def Header.k (h : Header) : Nat := 4 * 2 ^ h.klog

/-- The header of 32 bytes; `bad` says that a field marked zero in bytes 2 and 3 is not, or that COUNT is above K (R311). -/
def headerOf (x : Nat) : Header where
  count := bits x 15 0
  klog := bits x 17 16
  bad := bits x 23 18 ≠ 0 || bits x 31 28 ≠ 0 || decide (4 * 2 ^ bits x 17 16 < bits x 15 0)
  done := bits x 27 27 = 1
  trva := bits x 26 26 = 1
  flt := bits x 25 25 = 1
  opq := bits x 24 24 = 1
  tstop := bits x 47 32
  budget := bits x 63 48
  tOpaque := bits x 95 64
  late := bits x 127 96
  merges := bits x 159 128
  visits := bits x 191 160
  dstop := bits x 223 192

/-- Byte 3 of a header. -/
def Header.flags (h : Header) : Nat := bit h.done 3 + bit h.trva 2 + bit h.flt 1 + bit h.opq 0

/-- The 32 bytes of a header. -/
def Header.bytes (h : Header) : Nat :=
  h.count + h.klog * 2 ^ 16 + h.flags * 2 ^ 24 + h.tstop * 2 ^ 32 + h.budget * 2 ^ 48 + h.tOpaque * 2 ^ 64 + h.late * 2 ^ 96 + h.merges * 2 ^ 128
    + h.visits * 2 ^ 160 + h.dstop * 2 ^ 192

/-- The key of a list's byte in its tile's store. -/
def listKey (tile list off : Nat) : Nat := localKey tile (list - windowBase + off)

/-- The header of a list of a tile. -/
def headerAt (s : State) (tile list : Nat) : Header := headerOf (peek s.mem (listKey tile list 0) 32)

/-- The records of a list. -/
def recordsAt (s : State) (tile list n : Nat) : List Rec := (List.range n).map (fun i => recOf (peek s.mem (listKey tile list (32 + 32 * i)) 32))

/-- Writes a header. -/
def writeHeader (tile list : Nat) (h : Header) : Act Unit := poke (listKey tile list 0) 32 h.bytes

/-- Writes a list whole. -/
def writeList (tile list : Nat) (h : Header) (rs : List Rec) : Act Unit := do
  forEach (rs.zipIdx) (fun r => poke (listKey tile list (32 + 32 * r.2)) 32 r.1.bytes)
  writeHeader tile list { h with count := rs.length }

/-! ### Clips, combinations, merges (R314-R318) -/

/-- The clip of a record to [a, b] (R314). -/
def Coefs.clip (c : Coefs) (x : Rec) (a b : Nat) : Rec :=
  let len := subX (f32v x.t1) (f32v x.t0)
  let part := subX (f32v b) (f32v a)
  let tau := f32v x.tau
  let tau' := if tau.isInf then infCode32 else roundNe32 (divX (mulX tau part) len)
  let o := c.om tau
  let em := x.em.map (fun e => if o.isZero then roundNe16 (divX (mulX (f16v e) part) len) else roundNe16 (divX (mulX (f16v e) (c.om (f32v tau'))) o))
  { x with t0 := a, t1 := b, tau := tau', em := em, clip := true }

/-- Codes in increasing order of value, equal values once. -/
def insertT (t : Nat) : List Nat → List Nat
  | [] => [t]
  | u :: r => if Val.lt (f32v t) (f32v u) then t :: u :: r else if Val.lt (f32v u) (f32v t) then u :: insertT t r else u :: r

/-- The clips of a record between consecutive cuts, or the record whole. -/
def Coefs.clips (c : Coefs) (x : Rec) (cuts : List Nat) : List Rec :=
  if cuts.isEmpty then [x]
  else
    let edges := [x.t0] ++ cuts.foldl (fun l t => insertT t l) [] ++ [x.t1]
    (edges.zip edges.tail).map (fun e => c.clip x e.1 e.2)

/-- P and Q, of one span, combined (R315). -/
def Coefs.combine (c : Coefs) (p q : Rec) : Rec :=
  let pt := f32v p.tau
  let qt := f32v q.tau
  let sum := addX pt qt
  let tau := roundNe32 sum
  let w (x : Rec) (e : Nat) : Val :=
    let o := c.om (f32v x.tau)
    if o.isZero then f16v e else divX (mulX (f32v x.tau) (f16v e)) o
  let em :=
    if sum.isZero then (p.em.zip q.em).map (fun e => roundNe16 (addX (f16v e.1) (f16v e.2)))
    else if pt.isInf && qt.isInf then (p.em.zip q.em).map (fun e => roundNe16 (divX (addX (f16v e.1) (f16v e.2)) (natX 2)))
    else if pt.isInf then p.em
    else if qt.isInf then q.em
    else (p.em.zip q.em).map (fun e => roundNe16 (mulX (divX (addX (w p e.1) (w q e.2)) sum) (c.om (f32v tau))))
  let conf :=
    if pt.isZero || pt.isInf || qt.isZero || qt.isInf then min p.conf q.conf
    else ((divX (addX (mulX pt (natX p.conf)) (mulX qt (natX q.conf))) sum).toQ.floor).toNat % 2 ^ 16
  let top := if Val.lt pt qt then q else p
  { t0 := p.t0, t1 := p.t1, tau := tau, em := em, conf := conf, src := top.src, kind := top.kind, clip := p.clip || q.clip, mix := true }

/-- A record placed by its key, after those of equal key (R313). -/
def placeRec (n : Rec) : List Rec → List Rec
  | [] => [n]
  | x :: r => if x.before n then x :: placeRec n r else n :: x :: r

/-- A piece of the new record: combined with the held piece of its span, or placed (R316). -/
def Coefs.addPiece (c : Coefs) (held : List Rec) (n : Rec) : List Rec :=
  let same (x : Rec) : Bool := n.positive && x.positive && Val.eq (f32v x.t0) (f32v n.t0) && Val.eq (f32v x.t1) (f32v n.t1)
  if held.any same then held.map (fun x => if same x then c.combine x n else x) else placeRec n held

/-- F and G merged (R317). -/
def Coefs.merge (c : Coefs) (f g : Rec) : Rec :=
  let e := c.ex (f32v f.tau)
  { t0 := f.t0, t1 := g.t1, tau := roundNe32 (addX (f32v f.tau) (f32v g.tau)),
    em := (f.em.zip g.em).map (fun x => roundNe16 (addX (f16v x.1) (mulX e (f16v x.2)))), conf := min f.conf g.conf, src := f.src, kind := kindMerged,
    clip := f.clip || g.clip, mix := f.mix || g.mix }

/-- The least sum of the CONF values of an adjacent pair. -/
def leastSum : List Rec → Option Nat
  | f :: g :: r => some ((leastSum (g :: r)).elim (f.conf + g.conf) (min (f.conf + g.conf)))
  | _ => none

/-- Merges the first adjacent pair whose CONF values have a given sum. -/
def Coefs.mergePair (c : Coefs) (sum : Nat) : List Rec → List Rec
  | f :: g :: r => if f.conf + g.conf = sum then c.merge f g :: r else f :: c.mergePair sum (g :: r)
  | l => l

/-- Merges while there are more than k records, and how many merges it took (R317). -/
def Coefs.mergeDown (c : Coefs) (k : Nat) : Nat → List Rec → List Rec × Nat
  | 0, rs => (rs, 0)
  | fuel + 1, rs =>
    if rs.length ≤ k then (rs, 0)
    else match leastSum rs with
      | none => (rs, 0)
      | some m =>
        let (l, n) := c.mergeDown k fuel (c.mergePair m rs)
        (l, n + 1)

/-- The candidate c of R318. -/
def candidate (d : Val) : Val → List Rec → Nat
  | _, [] => infCode32
  | a, x :: r =>
    let bd := toF32 (addX a (f32v x.tau))
    if geX bd d then
      if (f32v x.tau).isInf || !x.positive then x.t0
      else
        let f := minX (toF32 (divX (subX d a) (f32v x.tau))) oneX
        roundNe32 (addX (f32v x.t0) (mulX f (subX (f32v x.t1) (f32v x.t0))))
    else candidate d bd r

/-- T_O after a change of the records, which never moves later (R318). -/
def Header.restop (h : Header) (rs : List Rec) : Header :=
  let d := f32v h.dstop
  let c := if d.isZero then minusInfCode32 else candidate d (.zero false) rs
  let t := if Val.lt (f32v c) (f32v h.tOpaque) then c else h.tOpaque
  { h with tOpaque := t, opq := t ≠ infCode32 }

/-- Saturating counters of a header. -/
def addSat (x n : Nat) : Nat := min (x + n) (2 ^ 32 - 1)

/-- Inserts a record (R316): the header and records afterwards, the outcome, and the merges made. A FAULT record skips the late test (R331). -/
def Coefs.insert (c : Coefs) (h : Header) (rs : List Rec) (n : Rec) (fault : Bool) : Header × List Rec × Nat × Nat :=
  if !fault && (h.done || geX (f32v n.t0) (f32v h.tOpaque)) then ({ h with late := addSat h.late 1 }, rs, 1, 0)
  else
    let points := if n.positive then [n.t0, n.t1] else [n.t0]
    let held := rs.flatMap (fun x => if x.positive then c.clips x (points.filter x.holds) else [x])
    let pieces := if n.positive then
        c.clips n ((rs.flatMap (fun x => if x.positive then [x.t0, x.t1] else [x.t0])).filter n.holds)
      else [n]
    let all := pieces.foldl c.addPiece held
    let (out, m) := c.mergeDown h.k all.length all
    let h := { h with merges := addSat h.merges m, flt := h.flt || fault }
    (h.restop out, out, 0, m)

/-- The header that `RLINIT` writes (R318, R320). -/
def Coefs.newHeader (c : Coefs) (setting : Nat) : Header :=
  let u := bits setting 31 16
  let d :=
    if u = 0 then infCode32
    else if u = 0xFFFF then 0
    else roundNe32 (mulX (toF32 (subX (c.log2f (natX 65535)) (c.log2f (natX u)))) ln2)
  let t := if d = 0 then minusInfCode32 else infCode32
  { count := 0, klog := setting % 4, bad := false, done := false, trva := false, flt := false, opq := t ≠ infCode32, tstop := u, budget := 4096, tOpaque := t, late := 0,
    merges := 0, visits := 0, dstop := d }

/-- The composite of `RLFIN` (R323). -/
def Coefs.composite (c : Coefs) (h : Header) (rs : List Rec) : Nat :=
  let (col, a) := rs.foldl (fun (x : List Val × Val) r =>
    (( x.1.zip r.em).map (fun p => toF32 (addX p.1 (mulX (c.ex x.2) (f16v p.2)))), toF32 (addX x.2 (f32v r.tau)))) ([.zero false, .zero false, .zero false], .zero false)
  joinBytes ((col.map roundNe32 ++ [roundNe32 (c.ex a), h.tOpaque, h.count, h.late, h.flags]).map (fun x => (x, 4)))

/-! ### List instructions (R319-R323) -/

/-- The word of a list's header that holds KLOG holds an uncorrectable error (R303). -/
def klogLost (s : State) (tile list : Nat) : Bool := spoiled s (listKey tile list 0) 8

/-- The read of KLOG at the issue of an instruction reports an error in its word (R304); the instruction's own access to the header comes later, and meets the error too. -/
def reportKlog (tile list : Nat) : Act Unit := do
  let s ← look
  if klogLost s tile list then machineReport (errorSource s (listKey tile list 0) 8) list else pure ()

/-- Checks of a list's address (R319): in the window, its K records within the window's top, aligned. `klog` is the setting's, or that of the header, which is read once the thread's
earlier commands on the list have been performed; data lost shows no K, and the header alone is checked. (DEDUCED: log 46) -/
def needList (k : Nat) (va : Word) (klog : Option Nat) : Act Unit := do
  require (inWindow va.toNat) .protection va
  let s ← look
  let kl ← match klog with
    | some n => pure (some n)
    | none =>
      if (ownReqs s k).any (fun r => r.va = va.toNat && (match r.ask with | .list _ => true | _ => false)) then stop (.stall .earlier)
      else pure (if klogLost s (tileOf k) va.toNat then none else some (headerAt s (tileOf k) va.toNat).klog)
  require (decide (va.toNat + 32 + (match kl with | some n => 128 * 2 ^ n | none => 0) ≤ vaEnd)) .protection va
  needAligned va 32

/-- The form of a list or traversal instruction: core 3 only, short vectors (R307, R319). (DEDUCED: log 45) -/
def couchForm (gd : Guard) (vectors : List (BitVec 4)) (uses : Touch) : Form :=
  { guard := gd, uses := fun _ => uses, vectors := vectors, short := true, core3 := true }

/-- Sends a command to the Couch; it releases the thread's earlier accesses (R324). COEFBASE is captured in `data`. -/
def sendList (k : Nat) (t : Thread) (op : Nat) (d : BitVec 4) (va : Word) (c : ListCmd) : Act Unit := do
  match c with
  | .init _ => pure ()
  | _ => reportKlog (tileOf k) va.toNat
  sendReq k t op (.list c) [(va.toNat, 32)] (fun r => { r with d := d, rel := true, scope := .thread, data := t.coefbase.toNat * 4 })

/-- A list command: its address, its coefficient entries, its own check, its operation. The owner and the entries of the coefficient memory are checked before the answer of an `RLINS`.
(DESIGN CHOICE: log 79) -/
def listOp (gd : Guard) (a : BitVec 4) (vectors : List (BitVec 4)) (uses dest : Touch) (la d : BitVec 4) (klog : Thread → Option Nat) (entries : Bool)
    (cmd : Thread → Option ListCmd) : State → Step :=
  issue (couchForm gd vectors (touches [uses, dest, touchS a, if entries then touchCoef else {}])) (fun k t => do
    let va := t.readS a
    needCanonical va
    needList k va (klog t)
    claimCoef k t
    if entries then needEntries (coefsOf (← look) k t) [.exp2, .log2] else pure ()
    match cmd t with
    | none => raise .malformedMetadata va
    | some c => do
      let op ← openOp k dest {} la
      sendList k t op d va c
      breakTiming k
      return .seq)

/-- `RLINIT` (R320). -/
def execRlinit (gd : Guard) (a b la : BitVec 4) (s : State) : Step :=
  listOp gd a [] (touchS b) {} la 0 (fun t => some ((t.readS b).toNat % 4)) true (fun t => some (.init (t.readS b))) s

/-- `RLINS` (R321): the answer is captured and checked at issue. -/
def execRlins (gd : Guard) (d a b la : BitVec 4) (s : State) : Step :=
  listOp gd a [b] (touchV b) (touchS d) la d (fun _ => none) true (fun t => if (answerOf (t.readV b).toNat).isSome then some (.ins (t.readV b)) else none) s

/-- `RLGET` (R322). -/
def execRlget (gd : Guard) (d a b la : BitVec 4) (s : State) : Step :=
  listOp gd a [d] (touchS b) (touchV d) la d (fun _ => none) false (fun t => some (.get ((t.readS b).toNat % 32))) s

/-- `RLSTAT` (R322). -/
def execRlstat (gd : Guard) (d a n la : BitVec 4) (s : State) : Step :=
  listOp gd a [] {} (touchS d) la d (fun _ => none) false (fun _ => some (.stat n.toNat)) s

/-- `RLFIN` (R323). -/
def execRlfin (gd : Guard) (d a la : BitVec 4) (s : State) : Step :=
  listOp gd a [d] {} (touchV d) la d (fun _ => none) true (fun _ => some .fin) s

/-- `TRVBUD` (R332): it has no vector field, so that LONG mode does not matter to it (R319, R325). (DEDUCED: log 45) -/
def execTrvbud (gd : Guard) (a b la : BitVec 4) (s : State) : Step :=
  issue { couchForm gd [] (touches [touchS a, touchS b]) with short := false } (fun k t => do
    let va := t.readS a
    needCanonical va
    needList k va none
    let op ← openOp k {} {} la
    sendList k t op 0 va (.budget (BitVec.ofNat 64 (min (t.readS b).toNat 65535)))
    return .seq) s

/-- A command reaches the Couch (R324). -/
def arriveList (r : Req) : Act Unit := do
  let n ← freshId
  modReq r.id (fun q => { q with stage := .accepted, arrived := n })
  modTile r.tile (fun t => { t with couch := t.couch ++ [r.id] })

/-! ### Traversals (R326-R334) -/

/-- A ray (R326). -/
structure Ray where
  o : List Val
  d : List Val
  tmin : Nat
  tmax : Nat

/-- The ray of a vector register; none: it meets nothing (R326). -/
def rayOf (v : Nat) : Option Ray :=
  let l (i : Nat) : Nat := v / 2 ^ (32 * i) % 2 ^ 32
  let o := [l 0, l 1, l 2].map f32v
  let d := [l 3, l 4, l 5].map f32v
  if (o ++ d ++ [f32v (l 6), f32v (l 7)]).any Val.isNan || o.any Val.isInf || d.all Val.isZero || Val.lt (f32v (l 7)) (f32v (l 6)) then none
  else some ⟨o, d, l 6, l 7⟩

/-- A quotient rounded to .f32 under a mode of RMODE; an exact zero is +0. -/
def roundDir (mode : BitVec 2) (v : Val) : Nat :=
  match v with
  | .zero _ => 0
  | _ => (roundIeee fmtF32 mode v).1

/-- The test of a ray against a box (R328): entry and exit, if the box is entered. -/
def boxTest (r : Ray) (lo hi : List Val) : Option (Nat × Nat) :=
  let axes := (r.o.zip r.d).zip (lo.zip hi)
  if axes.any (fun x => x.1.2.isZero && !(geX x.1.1 x.2.1 && geX x.2.2 x.1.1)) then none
  else
    let (n, f) := axes.foldl (fun (b : Nat × Nat) x =>
      let ((o, d), l, h) := x
      if d.isZero then b
      else
        let u := divX (subX l o) d
        let v := divX (subX h o) d
        let near := roundDir 3 (minX u v)
        let far := roundDir 2 (maxX u v)
        (if ranksBelow (f32v b.1) (f32v near) then near else b.1, if ranksBelow (f32v far) (f32v b.2) then far else b.2)) (r.tmin, r.tmax)
    if geX (f32v f) (f32v n) then some (n, f) else none

/-- Byte i of a number. -/
def byteAt (x i : Nat) : Nat := x / 256 ^ i % 256

/-- The box of child i of a node, unless it is empty (R337). -/
def childBox (node i : Nat) : Option (List Val × List Val) :=
  let org := (List.range 3).map (fun a => f32v (node / 2 ^ (32 * a) % 2 ^ 32))
  let ex (a : Nat) : Int := (BitVec.ofNat 8 (byteAt node (12 + a))).toInt
  let ql (a : Nat) : Nat := byteAt node (16 + 6 * i + a)
  let qh (a : Nat) : Nat := byteAt node (16 + 6 * i + 3 + a)
  if org.any (fun v => !v.isFinite) || (List.range 3).any (fun a => decide (qh a < ql a)) then none
  else
    let side (q : Nat → Nat) : List Val := (List.range 3).map (fun a => Val.ofQ (Q.add (org.getD a oneX).toQ (Q.scale (Q.ofNat (q a)) (ex a))))
    some (side ql, side qh)

/-- Child word i of a node. -/
def childWord (node i : Nat) : Nat := node / 256 ^ (64 + 4 * i) % 2 ^ 32

/-- Reasons of R331. -/
def faultBounds : Nat := 1
def faultBudget : Nat := 2
def faultStack : Nat := 3
def faultKindCode : Nat := 4

/-- The reason for which a used child word fails in a structure of `size` bytes, if it does (R331, R338). -/
def childFault (w size : Nat) : Option Nat :=
  let kind := bits w 31 29
  let n := bits w 28 25
  let off := bits w 23 0
  if 6 ≤ kind || bits w 24 24 = 1 || ((kind = 1 || kind = 4 || kind = 5) && n ≠ 0) || (kind = 1 && off % 2 = 1) then some faultKindCode
  else
    let extent := if kind = 1 || kind = 5 then 128 else if kind = 4 then 4160 else 64 * (n + 1)
    if size < 64 * off + extent then some faultBounds else none

/-- The used children of a node, by index. -/
def usedChildren (node : Nat) : List Nat := (List.range 8).filter (fun i => bits (childWord node i) 31 29 ≠ 0)

/-- Orders children by entry, earlier ones first among equals. -/
def insertChild (c : Child) : List Child → List Child
  | [] => [c]
  | x :: r => if Val.lt (f32v c.enter) (f32v x.enter) then c :: x :: r else x :: insertChild c r

/-- The children of a node that the ray enters, in order of visiting (R329). -/
def enteredChildren (base va node : Nat) (r : Ray) : List Child :=
  ((usedChildren node).filterMap (fun i =>
    match childBox node i with
    | none => none
    | some (lo, hi) =>
      (boxTest r lo hi).map (fun e =>
        let w := childWord node i
        ({ kind := w / 2 ^ 24, addr := base + 64 * bits w 23 0, enter := e.1, leave := e.2, word := va + 64 + 4 * i } : Child)))).foldl (fun l c => insertChild c l) []

/-- A child is a node. -/
def Child.isNode (c : Child) : Bool := c.kind / 32 = 1

/-- The ring of a traversal: window offset and entries (R326). -/
def Traversal.ringAt (x : Traversal) : Nat := x.e2 % 2 ^ 20 / 16 * 16 + 16 * (x.ring % 2 ^ (x.e2 % 16))

/-- `TRVGO` (R326, R327): checks, then takes a ray context, which completes it. The owner and the entries of the coefficient memory are checked before the descriptor. (DESIGN CHOICE: log 79) -/
def execTrvgo (gd : Guard) (d a b la : BitVec 4) (s : State) : Step :=
  issue (couchForm gd [b] (touches [touchS d, touchS a, touchV b, touchCoef])) (fun k t => do
    let va := t.readS a
    let base := t.readE 0
    let size := t.readE 1
    let e2 := (t.readE 2).toNat
    let ring := e2 % 2 ^ 20 / 16 * 16
    let rlog := e2 % 16
    needCanonical va
    needCanonical base
    needList k va none
    claimCoef k t
    needEntries (coefsOf (← look) k t) [.exp2, .log2]
    needAligned base 128
    require (size ≠ 0 && size.toNat % 128 = 0) .align size
    require (decide (base.toNat + size.toNat ≤ vaEnd)) .protection base
    require (decide (ring + 16 * 2 ^ rlog ≤ 2 ^ 20)) .protection (BitVec.ofNat 64 (windowBase + ring))
    require (decide (1 ≤ rlog) && decide (rlog ≤ 11)) .malformedMetadata 2
    let tile := tileOf k
    let s ← look
    if 128 ≤ (s.tile tile).rays.length then stop (.stall .room)
    else do
      let after := releaseSet s k
      reportKlog tile va.toNat
      let op ← openOp k {} (touchS d) la
      modTile tile (fun x => { x with rays := x.rays ++ [{
        key := k, op := op, ctx := t.ctx, pc := t.pc, token := d, list := va.toNat, ray := t.readV b, base := base.toNat, size := size.toNat, e2 := e2,
        coefbase := t.coefbase, stage := .accepted, stack := [], visits := 0, budget := 0, ring := 0, out := none, leaves := [], nodes := [], after := after,
        reading := false, stopped := false, converted := none, stopAsked := none }] })
      tokenOnly k op
      breakTiming k
      return .seq) s

/-- Changes a traversal of a tile. -/
def modRay (tile op : Nat) (f : Traversal → Traversal) : Act Unit :=
  modTile tile (fun t => { t with rays := t.rays.map (fun x => if x.op = op then f x else x) })

/-- A traversal is gone: its context frees, its token is written, and with SF a structure fault is raised on its issuer (R327, R331). -/
def finishRay (tile : Nat) (x : Traversal) (status waddr : Nat) : Act Unit := do
  modTile tile (fun t => { t with rays := t.rays.filter (·.op ≠ x.op) })
  rouseRoom tile
  let s ← look
  let o := (s.thread? x.key).bind (fun t => t.ops.find? (·.id = x.op))
  let trap := if status = 6 && bits x.e2 20 20 = 1 then o.map (fun o => opTrap o .structFault (waddrOf waddr) 0 false) else none
  finish x.key x.op { writes := [.s x.token (tokenWord status waddr)], trap := trap, acquire := some .device }

/-- VISITS is written and TRVA cleared through the Couch (R327, R329). Neither field is a whole word: a word of the header that holds an uncorrectable error is reported and keeps its bad data,
and the address of the first such word is the answer (R303, R304). -/
def closeRay (tile : Nat) (x : Traversal) : Act (Option Nat) := do
  let s ← look
  let b := { headerAt s tile x.list with trva := false, visits := x.visits }.bytes
  let lost (o : Nat) : Bool := spoiled s (listKey tile x.list o) 8
  forEach [0, 16] (fun o =>
    if lost o then machineReport (errorSource s (listKey tile x.list o) 8) (x.list + o) else poke (listKey tile x.list o) 8 (b / 256 ^ o % 2 ^ 64))
  return (([0, 16] : List Nat).find? lost).map (x.list + ·)

/-- The STATUS and the address of a traversal that ends: one that nothing else has ended badly ends with STATUS 5 when its fields could not be written (R303, R327). (DEDUCED: log 46) -/
def endStatus (status waddr : Nat) (lost : Option Nat) : Nat × Nat :=
  match lost with
  | some va => if status = 0 || status = 7 then (5, va) else (status, waddr)
  | none => (status, waddr)

/-- Puts a ring entry: word 1 is stored, and word 0 waits for its slot (R330). (DEDUCED: log 46) -/
def emitEntry (tile : Nat) (x : Traversal) (w0 w1 : Nat) : Act Unit := do
  poke (localKey tile (x.ringAt + 8)) 8 w1
  modRay tile x.op (fun y => { y with out := some w0 })

/-- The ring word that a traversal writes next is FULL, so that the write waits (R330). -/
def ringFull (s : State) (tile : Nat) (x : Traversal) : Bool := !isEmptyWord s (localKey tile x.ringAt)

/-- A traversal waits on the ring. -/
def waitsOnRing (s : State) (tile : Nat) (x : Traversal) : Bool := x.out.isSome && ringFull s tile x

/-- A traversal ends: the end entry is to be written, and then the token (R327, R330). One that has begun closes its list; if it has been stopped and would wait on the ring, it ends at once
and no end entry is written (R334). (DEDUCED: log 46) -/
def endRay (tile : Nat) (x : Traversal) (status waddr : Nat) : Act Unit := do
  let s ← look
  let lost ← if x.stage = .running then closeRay tile x else pure none
  let (status, waddr) := endStatus status waddr lost
  if x.stage = .running && x.stopAsked.isSome && ringFull s tile x then finishRay tile x status waddr
  else do
    emitEntry tile x (0xFF * 2 ^ 56) (tokenWord status waddr).toNat
    modRay tile x.op (fun y => { y with stage := .ending status waddr, stack := [], leaves := [], nodes := [] })

/-- The first range of a list, offset and size, whose data holds an uncorrectable error, as the address of its word (R303). -/
def lostRange (s : State) (tile list : Nat) (ranges : List (Nat × Nat)) : Option Nat :=
  (ranges.find? (fun p => spoiled s (listKey tile list p.1) p.2)).map (fun p => errorAddress s (list + p.1) (listKey tile list p.1) p.2)

/-- A traversal reads data of its list that holds an uncorrectable error: the management complex hears of it, and the traversal ends with STATUS 5 (R303, R304). -/
def loseRay (tile : Nat) (x : Traversal) (va : Nat) : Act Unit := do
  machineReport (errorSource (← look) (listKey tile x.list (va - x.list)) 1) va
  endRay tile x 5 va

/-- The address of an error in the list's header, which each read of T_O meets. -/
def lostHeader (s : State) (tile list : Nat) : Option Nat := lostRange s tile list [(0, 32)]

/-- A structure fault (R331): a FAULT record goes into the list, and the traversal ends. -/
def faultRay (tile : Nat) (x : Traversal) (reason t waddr : Nat) : Act Unit := do
  let s ← look
  let h := headerAt s tile x.list
  match lostRange s tile x.list [(0, 32), (32, 32 * h.count)] with
  | some va => loseRay tile x va
  | none => do
    let n : Rec := { t0 := t, t1 := t, tau := 0, em := [0, 0, 0], conf := 0, src := reason, mix := false, clip := false, kind := kindFault }
    let (h, rs, _, _) := (Coefs.mk s.mem tile (x.coefbase.toNat * 4)).insert h (recordsAt s tile x.list h.count) n true
    writeList tile x.list h rs
    endRay tile x 6 waddr

/-- T_O of a traversal's list, as the Couch holds it. -/
def opaqueAt (s : State) (tile : Nat) (x : Traversal) : Val := f32v (headerAt s tile x.list).tOpaque

/-- The entered node children are pushed, farthest first, unless pruned; one that finds the stack full is a fault (R329, R331). -/
def pushNodes (tile : Nat) (x : Traversal) : List Child → Act Unit
  | [] => modRay tile x.op (fun _ => x)
  | c :: rest => do
    if geX (f32v c.enter) (opaqueAt (← look) tile x) then pushNodes tile x rest
    else if 128 ≤ x.stack.length then do
      modRay tile x.op (fun _ => x)
      faultRay tile x faultStack c.enter c.word
    else pushNodes tile { x with stack := (c.addr, c.enter) :: x.stack } rest

/-- Deals with the children of the visited node until a leaf's ring entry waits or all are done (R329); a ray that has been stopped does not wait on the ring (R334). -/
def advanceRay (tile : Nat) (x : Traversal) : List Child → Act Unit
  | [] => pushNodes tile { x with leaves := [], nodes := [] } x.nodes
  | c :: rest => do
    let s ← look
    if geX (f32v c.enter) (opaqueAt s tile x) then advanceRay tile x rest
    else if x.stopAsked.isSome && ringFull s tile x then do
      modRay tile x.op (fun _ => x)
      endRay tile x 7 0
    else do
      modRay tile x.op (fun _ => { x with leaves := rest })
      emitEntry tile { x with leaves := rest } (c.kind * 2 ^ 56 + c.addr % 2 ^ 56) (c.leave * 2 ^ 32 + c.enter)

/-- Deals with children of the visited node, each of which reads T_O; a header that holds an uncorrectable error ends the traversal (R303, R329). -/
def dealChildren (tile : Nat) (x : Traversal) (leaves : List Child) : Act Unit := do
  let s ← look
  match if leaves.isEmpty && x.nodes.isEmpty then none else lostHeader s tile x.list with
  | some va => do
    modRay tile x.op (fun _ => x)
    loseRay tile x va
  | none => advanceRay tile x leaves

/-- The traversal at a place of a tile's list, or the row is not due. -/
def needRay (name : String) (tile i : Nat) : Act Traversal := do
  match ((← look).tile tile).rays[i]? with
  | some x => return x
  | none => stop (.refused (.eventNotDue name))

/-- A stop command of a list, or any command, that waits in the Couch. -/
def ListCmd.stops : ListCmd → Bool
  | .init _ => true
  | .fin => true
  | _ => false
def pendingOn (s : State) (tile list : Nat) : List Req :=
  ((s.tile tile).couch.filterMap (fun i => mapGet i s.reqs)).filter (fun r => r.va = list)
def Req.stops (r : Req) : Bool := match r.ask with | .list c => c.stops | _ => false

/-- A word of a list is reserved by an atomic, so that the Couch waits (R167). -/
def listReserved (s : State) (tile list : Nat) : Bool := reservedRange s 0 tile list (32 + 32 * (headerAt s tile list).k)

/-- A word that a traversal writes next, in its ring or through the Couch, is reserved, so that it waits (R167). -/
def ringWaits (s : State) (tile : Nat) (x : Traversal) : Bool :=
  reservedRange s 0 tile (windowBase + x.ringAt) 16 || listReserved s tile x.list

/-- `TRAVERSAL_BEGIN` (R327, R334): the oldest accepted traversal of a list begins when none before it is left, behind the commands that have reached the Couch before; one that has been
stopped visits no node. -/
def execTraversalBegin (s : State) : Step :=
  let name := "TRAVERSAL_BEGIN"
  commit name (do
    let (tile, i) := match s.input with | .two t i => (t, i) | _ => (0, 0)
    let x ← needRay name tile i
    due name (x.stage = .accepted && (outstanding s x.after).isEmpty && !((s.tile tile).rays.take i).any (fun y => y.list = x.list) && !ringWaits s tile x)
    if x.stopAsked.isSome then endRay tile x 7 0
    else do
      due name (pendingOn s tile x.list).isEmpty
      settleFor x.key (tile * 4 + 3)
      match lostHeader s tile x.list with
      | some va => loseRay tile x va
      | none =>
      let h := headerAt s tile x.list
      let cap := bits x.e2 63 48
      writeHeader tile x.list { h with trva := true, visits := 0 }
      let root := match rayOf x.ray.toNat with
        | some r => [(x.base, r.tmin)]
        | none => []
      modRay tile x.op (fun y => { y with stage := .running, budget := (if cap = 0 then h.budget else min h.budget cap), stack := root })) s

/-- Bytes of a node (R337). -/
def nodeBytes : Nat := 128

/-- The node cache takes a node, dropping a victim when it is full (R5, R333; the choice is log 5). Local-store nodes are read where they lie. (DEDUCED: log 68) -/
def keepNode (tile ctx addr x : Nat) : Act Unit := do
  let nodes := ((← look).tile tile).nodes
  if inWindow addr || nodes.any (fun c => c.ctx = ctx && c.addr = addr) then pure ()
  else do
    let kept ← if nodes.length < Config.nodeCacheBytes / nodeBytes then pure nodes
      else do
        let n ← freshFree
        pure (nodes.eraseIdx (Config.pickVictim n % nodes.length))
    modTile tile (fun t => { t with nodes := ⟨ctx, addr, x⟩ :: kept })

/-- The Sprue reads a node: from the node cache, or as plain loads of core 3, which the cache then keeps (R333). -/
def readNode (tile ctx addr : Nat) : Act (Except (Nat × Denied) Nat) := do
  match ((← look).tile tile).nodes.find? (fun c => c.ctx = ctx && c.addr = addr) with
  | some c => return .ok c.bytes
  | none =>
    match ← engineBytes ctx (tile * 4 + 3) tile addr nodeBytes with
    | .error e => return .error e
    | .ok x => do
      keepNode tile ctx addr x
      return .ok x

/-- The child-pointer prefetcher reads every entered child node; one that would fault is dropped (R333), and one that meets lost data too, which is reported (R304). -/
def prefetchNodes (tile ctx : Nat) (cs : List Child) : Act Unit := forEach cs (fun c => do
  if inWindow c.addr then pure ()
  else do
    let _ ← readNode tile ctx c.addr
    pure ())

/-- The page fault of a node read is answered (R334): reissue reads the same node again, convert ends the traversal with STATUS 1. -/
def answerRay (tile op : Nat) (convert : Bool) (va : Nat) : Act Unit :=
  modRay tile op (fun y => { y with stopped := false, converted := if convert then some va else none })

/-- A popped node has been read: its used child words are checked, and the ray goes on to its entered children (R329, R331, R333). -/
def visitNode (tile : Nat) (x : Traversal) (ray : Ray) (node tin b : Nat) : Act Unit := do
  match (usedChildren b).findSome? (fun j => (childFault (childWord b j) x.size).map (fun r => (r, node + 64 + 4 * j))) with
  | some (reason, word) => do
    modRay tile x.op (fun _ => x)
    faultRay tile x reason tin word
  | none =>
    let cs := enteredChildren x.base node b ray
    let leaves := cs.filter (fun c => !c.isNode)
    let nodes := cs.filter Child.isNode
    prefetchNodes tile x.ctx nodes
    dealChildren tile { x with leaves := leaves, nodes := nodes.reverse } leaves

/-- A popped node is read; `x` has counted it. A page fault keeps the ray waiting at this node (R329, R331, R334). -/
def readVisit (tile : Nat) (x : Traversal) (ray : Ray) (node tin : Nat) (rest : List (Nat × Nat)) : Act Unit := do
  match ← readNode tile x.ctx node with
  | .error (va, .pageFault c) => do
    let tid := (((← look).thread? x.key).map (tidOf x.key)).getD x.key
    modRay tile x.op (fun _ => { x with stopped := true, reading := true })
    addFault ⟨faultDie va, va, tid, 5, c, x.ctx, x.pc, .traversal tile x.op, 0⟩
    breakTiming x.key
  | .error (va, d) => endRay tile x (deniedStatus d) va
  | .ok b => visitNode tile { x with stack := rest, reading := false } ray node tin b

/-- `NODE_VISIT` (R329, R331, R334): a pop, or the read of a popped node again once its page fault is answered. -/
def execNodeVisit (s : State) : Step :=
  let name := "NODE_VISIT"
  commit name (do
    let (tile, i) := match s.input with | .two t i => (t, i) | _ => (0, 0)
    let x ← needRay name tile i
    due name (x.stage = .running && x.out.isNone && !x.stopped && !ringWaits s tile x)
    due name (match (pendingOn s tile x.list).head? with | some r => r.stops | none => true)
    match x.converted with
    | some va => endRay tile x 1 va
    | none =>
      match x.stack, rayOf x.ray.toNat with
      | (node, tin) :: rest, some ray =>
        if x.reading then readVisit tile x ray node tin rest
        else if x.stopAsked.isSome then endRay tile x 7 0
        else if (lostHeader s tile x.list).isSome then loseRay tile x ((lostHeader s tile x.list).getD 0)
        else if geX (f32v tin) (opaqueAt s tile x) then modRay tile x.op (fun y => { y with stack := rest })
        else if x.budget ≤ x.visits then faultRay tile x faultBudget tin node
        else readVisit tile { x with visits := x.visits + 1 } ray node tin rest
      | _, _ => endRay tile x (if x.stopAsked.isSome then 7 else 0) 0) s

/-- `RING_ENTRY_WRITE` (R330): word 0 of a ring entry is filled once it is EMPTY; after the end entry the token is written. -/
def execRingEntryWrite (s : State) : Step :=
  let name := "RING_ENTRY_WRITE"
  commit name (do
    let (tile, i) := match s.input with | .two t i => (t, i) | _ => (0, 0)
    let x ← needRay name tile i
    match x.out with
    | none => stop (.refused (.eventNotDue name))
    | some w0 =>
      let w := localKey tile x.ringAt
      due name (isEmptyWord s w && !ringWaits s tile x && !ringWaits s tile { x with ring := x.ring + 1 })
      poke w 8 w0
      emit (.empty w false)
      settle (homeKey x.ctx tile (windowBase + x.ringAt)) w
      let y := { x with out := none, ring := x.ring + 1 }
      match x.stage with
      | .ending status waddr => finishRay tile y status waddr
      | _ => dealChildren tile y y.leaves) s

/-- A stop command has something to do to a traversal: it has not been stopped and has not ended, or it waits on the ring, at its end entry too unless it is this command that stopped it
before it began. One that has ended, stopped or not, writes its end entry if its ring word is EMPTY (R334). (DEDUCED: log 46) -/
def mayStop (s : State) (tile : Nat) (r : Req) (x : Traversal) : Bool :=
  match x.stage with
  | .ending _ _ => decide (x.stopAsked ≠ some r.id) && waitsOnRing s tile x
  | _ => x.stopAsked.isNone || waitsOnRing s tile x

/-- The traversals of its list that a stop command has still to stop, among those accepted before it reached the Couch (R334). -/
def raysOf (s : State) (tile : Nat) (r : Req) : List Traversal :=
  (s.tile tile).rays.filter (fun x => x.list = r.va && decide (x.op < r.arrived) && mayStop s tile r x)

/-- `RLINIT` and `RLFIN` stop the traversals of their list that were accepted before they reached the Couch; one that waits on the ring ends at once, with STATUS 7 and no end entry (R334); a
structure fault that has been recorded keeps its STATUS. (DEDUCED: log 46) -/
def stopRays (tile : Nat) (r : Req) : Act Unit := do
  let s ← look
  forEach (raysOf s tile r) (fun x =>
    match waitsOnRing s tile x, x.stage with
    | true, .ending 6 waddr => finishRay tile x 6 waddr
    | true, .ending _ _ => finishRay tile x 7 0
    | true, _ => do
      let (status, waddr) := endStatus 7 0 (← closeRay tile x)
      finishRay tile x status waddr
    | false, _ => modRay tile x.op (fun y => { y with stopAsked := some r.id }))

/-- A stop command has traversals to stop, or waits for TRVA to clear. -/
def raysToStop (s : State) (tile : Nat) (r : Req) : Bool := !(raysOf s tile r).isEmpty
def rayRuns (s : State) (tile list : Nat) : Bool := (s.tile tile).rays.any (fun x => x.list = list && x.stage = .running)

/-- The bytes of a list that a command reads: offset and size. -/
def ListCmd.readsOf (h : Header) : ListCmd → List (Nat × Nat)
  | .init _ => []
  | .budget _ => [(0, 32)]
  | .ins _ => [(0, 32 + 32 * h.count)]
  | .get i => if i < h.count then [(0, 32), (32 + 32 * i, 32)] else [(0, 32)]
  | .stat _ => [(0, 32)]
  | .fin => [(0, 32 + 32 * h.count)]

/-- The first range that a command reads whose data holds an uncorrectable error (R303). -/
def lostOf (s : State) (tile list : Nat) (cmd : ListCmd) : Option Nat := lostRange s tile list (cmd.readsOf (headerAt s tile list))

/-- The Couch performs a command on its list, whole (R320-R323, R332). -/
def performList (r : Req) (cmd : ListCmd) : Act Unit := do
  let s ← look
  let tile := r.tile
  let h := headerAt s tile r.va
  let c : Coefs := ⟨s.mem, tile, r.data⟩
  match cmd with
  | .init x => do
    writeHeader tile r.va (c.newHeader x.toNat)
    complete r []
  | .budget b => do
    writeHeader tile r.va { h with budget := b.toNat }
    complete r []
  | .ins x =>
    match answerOf x.toNat with
    | none => complete r []
    | some n => do
      let (h, rs, outcome, m) := c.insert h (recordsAt s tile r.va h.count) n false
      if outcome = 1 then writeHeader tile r.va h else writeList tile r.va h rs
      complete r [.s r.d (BitVec.ofNat 64 (outcome + m % 256 * 256 + rs.length * 65536))]
  | .get i => do
    let x := if i < h.count then peek s.mem (listKey tile r.va (32 + 32 * i)) 32 else 0
    complete r [.v r.d (BitVec.ofNat 256 x)]
  | .stat n => complete r [.s r.d (BitVec.ofNat 64 (peek s.mem (listKey tile r.va (8 * n)) 8))]
  | .fin => do
    let h := { h with done := true }
    writeHeader tile r.va h
    complete r [.v r.d (BitVec.ofNat 256 (c.composite h (recordsAt s tile r.va h.count)))]

/-- `COUCH_PERFORM` (R311, R324, R334): the Couch takes the oldest command on a list. -/
def execCouchPerform (s : State) : Step :=
  let name := "COUCH_PERFORM"
  commit name (do
    let (tile, i) := match s.input with | .two t i => (t, i) | _ => (0, 0)
    let q := (s.tile tile).couch
    match q[i]?.bind (fun id => mapGet id s.reqs) with
    | none => stop (.refused (.eventNotDue name))
    | some r =>
      due name (!((q.take i).filterMap (fun id => mapGet id s.reqs)).any (fun x => x.va = r.va))
      due name (!listReserved s tile r.va)
      let leave := modTile tile (fun t => { t with couch := t.couch.filter (· ≠ r.id) })
      match r.ask with
      | .list cmd =>
        let isInit := match cmd with | .init _ => true | _ => false
        if (spoiled s (listKey tile r.va 0) 32 || !(headerAt s tile r.va).bad) && (lostOf s tile r.va cmd).isSome then do
          let va := (lostOf s tile r.va cmd).getD r.va
          leave
          deny r va (.machineCheck (errorSource s (listKey tile r.va (va - r.va)) 1))
        else if !isInit && (headerAt s tile r.va).bad then do
          leave
          fail r .malformedMetadata r.va 0 (fun _ => false)
        else if cmd.stops && raysToStop s tile r then do
          stopRays tile r
          if rayRuns (← look) tile r.va then pure ()
          else do
            leave
            performList r cmd
        else do
          due name (!(cmd.stops && rayRuns s tile r.va))
          leave
          performList r cmd
      | _ => stop (.refused (.eventNotDue name))) s

end Sys2Proof.Machine
end

