-- ==== Sys2Proof/Machine/Scene.lean ====
section
/-!
DEFINITION. The scene forms and their answers (R336, R339-R350): the layouts of triangles, splats, bricks and field leaves, `TRI`, `SPLAT`, `VOLSEG`, and the Deckle with `DKL` and its
row command in the matrix array.
-/

namespace Sys2Proof.Machine

/-! ### Fields of a primitive -/

/-- The .f32 value at a byte offset, and unsigned fields. -/
def f32At (b off : Nat) : Val := f32v (b / 256 ^ off % 2 ^ 32)
def u16At (b off : Nat) : Nat := b / 256 ^ off % 2 ^ 16
def u32At (b off : Nat) : Nat := b / 256 ^ off % 2 ^ 32

/-- Three .f32 lanes. -/
def vecAt (b off : Nat) : List Val := (List.range 3).map (fun i => f32At b (off + 4 * i))

/-- The radiance channels of a triangle or splat at byte 44; one that is negative or not finite gives emission 0 (R345, R346). -/
def radianceAt (b off : Nat) : List (Option Val) :=
  (List.range 3).map (fun i =>
    let v := f16v (u16At b (off + 2 * i))
    if v.isFinite && !v.isNeg then some v else none)

/-! ### Parts of an answer (R344) -/

/-- A .f16 code that R309 admits, or 0. -/
def admitted16 (x : Nat) : Nat := if (f16v x).isFinite && notNegative (f16v x) then plusZero 16 x else 0

/-- An emission channel: a negative one is +0, a NaN is open. -/
def emission (v : Val) : Nat :=
  if v.isNan then admitted16 (roundNe16 v) else if v.isNeg then 0 else roundNe16 v

/-- TAU of a rounded value: a NaN misses, and a negative or zero one is +0. -/
def tauOf (v : Val) : Option Nat := if v.isNan then none else if v.isZero || v.isNeg then some 0 else some (roundNe32 v)

/-- A record that is valid; one that would not be is a miss (R344: each record is valid). -/
def validRecord (r : Rec) : Option Rec := if (answerOf r.bytes).isSome then some r else none

/-- TAU of a coverage that leaves `keep` of what lies behind: −log2f(keep) × LN2 (R345, R346). -/
def Coefs.tauKeep (c : Coefs) (keep : Val) : Option Nat := tauOf (toF32 (mulX (c.log2f keep).neg ln2))

/-! ### Triangles (R345) -/

def subQ (a b : List Q) : List Q := (a.zip b).map (fun x => Q.sub x.1 x.2)
def dotQ (a b : List Q) : Q := Q.sum ((a.zip b).map (fun x => Q.mul x.1 x.2))
def crossQ (a b : List Q) : List Q :=
  match a, b with
  | [ax, ay, az], [bx, bcy, bz] => [Q.sub (Q.mul ay bz) (Q.mul az bcy), Q.sub (Q.mul az bx) (Q.mul ax bz), Q.sub (Q.mul ax bcy) (Q.mul ay bx)]
  | _, _ => []

/-- a is below b, comparing x, then y, then z. -/
def belowQ : List Q → List Q → Bool
  | x :: a, y :: b => Q.lt x y || (Q.eq x y && belowQ a b)
  | _, _ => false

/-- Where the line of a ray meets a triangle inside it, exactly. -/
def triangleHit (o d : List Q) (v : List (List Q)) (cull : Bool) : Option Q :=
  let p (i : Nat) : List Q := v.getD (i % 3) []
  let n := crossQ (subQ (p 1) (p 0)) (subQ (p 2) (p 0))
  let dn := dotQ d n
  let inside (i : Nat) : Bool :=
    let b := Q.div (dotQ d (crossQ (subQ (p (i + 1)) o) (subQ (p (i + 2)) o))) dn
    Q.lt ⟨0, 1⟩ b || (b.isZero && belowQ (p (i + 1)) (p (i + 2)))
  if dn.isZero || (cull && !dn.isNeg) || !(List.range 3).all inside then none else some (Q.div (dotQ (subQ (p 0) o) n) dn)

/-- The t of a hit: a ray with an infinite direction lane meets the triangle at an open t (log 4). -/
def triangleT (ray : Quad) (r : Ray) (b : Nat) : Option Val :=
  let vs := [vecAt b 0, vecAt b 12, vecAt b 24]
  if vs.any (fun v => v.any (fun x => !x.isFinite)) then none
  else if r.d.any Val.isInf then some (f32v (Config.openHit ray.toNat b).toNat)
  else (triangleHit (r.o.map Val.toQ) (r.d.map Val.toQ) (vs.map (·.map Val.toQ)) (bits (byteAt b 50) 0 0 = 1)).map Val.ofQ

/-- The answer of `TRI` (R345). -/
def triangleAnswer (c : Coefs) (ray : Quad) (r : Ray) (b : Nat) : Option Rec := do
  let t ← triangleT ray r b
  if Val.lt t (f32v r.tmin) || Val.lt (f32v r.tmax) t || t.isNan then none
  else
    let alpha := u16At b 40
    let a := Val.ofQ ⟨alpha, 65535⟩
    let tau ← if alpha = 0 then some 0 else if alpha = 0xFFFF then some infCode32 else c.tauKeep (toF32 (subX oneX a))
    let em := (radianceAt b 44).map (fun x => match x with | some v => emission (mulX a v) | none => 0)
    validRecord { t0 := roundNe32 t, t1 := roundNe32 t, tau := tau, em := em, conf := u16At b 42, src := u32At b 36, mix := false, clip := false, kind := 0 }

/-! ### Splats (R346) -/

/-- xᵀQy, exact and rounded once. -/
def quadForm (q x y : List Val) : Val :=
  let g (l : List Val) (i : Nat) : Val := l.getD i (.zero false)
  let term (k i j : Nat) : Val := mulX (g q k) (mulX (g x i) (g y j))
  toF32 (exactSum [term 0 0 0, term 1 1 1, term 2 2 2, term 3 0 1, term 3 1 0, term 4 0 2, term 4 2 0, term 5 1 2, term 5 2 1]).1

/-- The answer of `SPLAT` (R346). -/
def splatAnswer (c : Coefs) (r : Ray) (b : Nat) : Option Rec := do
  let mu := vecAt b 0
  let q := (List.range 6).map (fun i => f32At b (12 + 4 * i))
  let opac := u16At b 40
  if (mu ++ q).any (fun v => !v.isFinite) || decide (opac = 0) then none
  else
    let m := (mu.zip r.o).map (fun x => subX x.1 x.2)
    let aq := quadForm q r.d r.d
    let bq := quadForm q r.d m
    let cq := quadForm q m m
    if !(aq.isFinite && bq.isFinite && cq.isFinite) || aq.isZero || aq.isNeg then none
    else
      let ts := toF32 (divX bq aq)
      let sg := toF32 (sqrtVal (divX (natX 9) aq)).1
      let qq := maxX (toF32 (subX cq (divX (mulX bq bq) aq))) (.zero false)
      if !(ts.isFinite && sg.isFinite && qq.isFinite) then none
      else
        let g := c.ex (toF32 (divX qq (natX 2)))
        let alpha := minX (toF32 (mulX (Val.ofQ ⟨opac, 65535⟩) g)) oneX
        if alpha.isNan || Val.lt alpha (.num ⟨1, 256⟩) then none
        else
          let t0 := maxX (toF32 (subX ts sg)) (f32v r.tmin)
          let t1 := minX (toF32 (addX ts sg)) (f32v r.tmax)
          if !(t0.isFinite && t1.isFinite) || Val.lt t1 t0 then none
          else
            let keep := toF32 (subX oneX alpha)
            let tau ← if keep.isZero then some infCode32 else c.tauKeep keep
            let em := (radianceAt b 44).map (fun x => match x with | some v => emission (mulX alpha v) | none => 0)
            validRecord { t0 := roundNe32 t0, t1 := roundNe32 t1, tau := tau, em := em, conf := u16At b 42, src := u32At b 36, mix := false, clip := false, kind := 1 }

/-! ### Bricks (R347) -/

/-- A point of a ray, rounded per axis. -/
def Ray.at (r : Ray) (t : Val) : List Val := (r.o.zip r.d).map (fun x => toF32 (addX x.1 (mulX t x.2)))

/-- The cell index along an axis. -/
def cellOf (ray : Quad) (b t axis : Nat) (x lo h : Val) : Nat :=
  match divX (subX x lo) h with
  | .nan _ _ => Config.openCell ray.toNat b axis t % 8
  | .inf neg => if neg then 0 else 7
  | v => min 7 (max 0 v.toQ.floor).toNat

/-- The density of a cell, and a radiance channel. -/
def densityAt (b cell : Nat) : Val :=
  let v := f16v (u16At b (64 + 2 * cell))
  if v.isNan || v.isNeg then .zero false else v
def brickChannel (b cell ch : Nat) : Val :=
  let v := f16v (u16At b (1088 + 6 * cell + 2 * ch))
  if v.isFinite && !v.isNeg then v else .zero false

/-- The march through a brick from t to tb: A and E so far. -/
def march (c : Coefs) (ray : Quad) (r : Ray) (b : Nat) (step tb : Val) : Nat → Val → Val → List Val → Val × List Val
  | 0, _, a, e => (a, e)
  | fuel + 1, t, a, e =>
    if !Val.lt t tb then (a, e)
    else
      let n := minX (toF32 (addX t step)) tb
      let n := if Val.eq n t then tb else n
      let tm := toF32 (divX (addX t n) (natX 2))
      let lo := vecAt b 0
      let cell := ((r.at tm).zip lo).zipIdx.foldl (fun s x => s + 8 ^ x.2 * cellOf ray b (roundNe32 tm) x.2 x.1.1 x.1.2 (f32At b 12)) 0
      let rho := densityAt b cell
      let tau := if rho.isInf then rho else toF32 (mulX rho (subX n t))
      let w := mulX (c.ex a) (c.om tau)
      let e := e.zipIdx.map (fun x => toF32 (addX x.1 (mulX w (brickChannel b cell x.2))))
      march c ray r b step tb fuel n (toF32 (addX a tau)) e

/-- The answer of `VOLSEG` (R347). Each step reaches a greater .f32 value, so 2^32 steps suffice. -/
def brickAnswer (c : Coefs) (ray : Quad) (r : Ray) (b : Nat) : Option Rec := do
  let lo := vecAt b 0
  let h := f32At b 12
  let step := f32At b 16
  if !(h.isFinite && step.isFinite) || h.isZero || h.isNeg || step.isZero || step.isNeg || lo.any (fun v => !v.isFinite) then none
  else
    let (ta, tb) ← boxTest r lo (lo.map (fun v => addX v (mulX (natX 8) h)))
    if Val.eq (f32v ta) (f32v tb) then none
    else
      let (a, e) := march c ray r b step (f32v tb) (2 ^ 32) (f32v ta) (.zero false) [.zero false, .zero false, .zero false]
      if a.isZero then none
      else
        let tau ← tauOf a
        validRecord { t0 := ta, t1 := tb, tau := tau, em := e.map emission, conf := u16At b 24, src := u32At b 20, mix := false, clip := false, kind := 2 }

/-! ### Issue (R343, R344, R349) -/

/-- Bytes of a primitive (R339-R342). -/
def SceneForm.size : SceneForm → Nat
  | .volseg => 4160
  | .dkl => 128
  | _ => 64

/-- The functions whose directory entries an instruction checks (R344). -/
def SceneForm.entries : SceneForm → List CoefFn
  | .tri => [.log2]
  | .splat => [.exp2, .log2]
  | _ => [.exp2]

/-- A scene instruction: it opens no window, and its results land when it completes (R344). -/
def sceneOp (gd : Guard) (form : SceneForm) (d a b pf : BitVec 4) : State → Step :=
  issue (couchForm gd [d, b] (touches [touchV d, touchP pf, touchS a, touchV b, touchCoef])) (fun k t => do
    let va := t.readS a
    needCanonical va
    needAligned va 64
    claimCoef k t
    needEntries (coefsOf (← look) k t) form.entries
    if form = .dkl then needArray k t else pure ()
    let s ← look
    let rel := if form = .dkl then releaseSet s k else []
    let op ← openQuiet k ((touchV d).union (touchP pf))
    sendReq k t op (.scene form (t.readV b) rel) [(va.toNat, form.size)] (fun r => { r with d := d, pf := pf, data := t.coefbase.toNat * 4 })
    return .seq)

/-- `TRI` (R345). -/
def execTri (gd : Guard) (d a b pf : BitVec 4) (s : State) : Step := sceneOp gd .tri d a b pf s
/-- `SPLAT` (R346). -/
def execSplat (gd : Guard) (d a b pf : BitVec 4) (s : State) : Step := sceneOp gd .splat d a b pf s
/-- `VOLSEG` (R347). -/
def execVolseg (gd : Guard) (d a b pf : BitVec 4) (s : State) : Step := sceneOp gd .volseg d a b pf s
/-- `DKL` (R348, R349). -/
def execDkl (gd : Guard) (d a b pf : BitVec 4) (s : State) : Step := sceneOp gd .dkl d a b pf s

/-- The register writes of an answer: the record and true, or zeros and false (R344). -/
def answerWrites (d pf : BitVec 4) (x : Option Rec) : List RegWrite := [.v d (BitVec.ofNat 256 ((x.map Rec.bytes).getD 0)), .p pf x.isSome]

/-! ### The Deckle (R348) -/

/-- A field leaf of 128 bytes. -/
structure FieldLeaf where
  lo : List Val
  hi : List Val
  table : Nat
  head : Nat
  levels : Nat
  log : Nat
  src : Nat
  conf : Nat
  res : List Nat

/-- A field leaf, if its NLEV, TLOG, RES, TBASE and HEAD are in range (R342, R348). -/
def fieldLeaf (b : Nat) : Option FieldLeaf :=
  let n := byteAt b 40
  let t := byteAt b 41
  let res := (List.range (min n 16)).map (fun l => u16At b (64 + 2 * l))
  let table := b / 256 ^ 24 % 2 ^ 64
  let head := b / 256 ^ 32 % 2 ^ 64
  if n = 0 ∨ 16 < n ∨ t < 10 ∨ 22 < t ∨ res.any (· = 0) = true ∨ table % 8 ≠ 0 ∨ head % 8 ≠ 0 then none
  else some ⟨vecAt b 0, vecAt b 12, table, head, n, t, u32At b 44, u16At b 48, res⟩

/-- x clamped to [0, 1]. -/
def clampUnit (x : Q) : Q := Q.max ⟨0, 1⟩ (Q.min x ⟨1, 1⟩)

/-- u along an axis (R348): an infinite x lies beyond one corner; a quotient that has no value is open (log 4). -/
def unitCoord (ray : Quad) (b axis : Nat) (x lo hi : Val) : Q :=
  if x.isFinite && lo.isFinite && hi.isFinite && !Val.eq lo hi then clampUnit (Q.div (Q.sub x.toQ lo.toQ) (Q.sub hi.toQ lo.toQ))
  else if x.isInf && lo.isFinite && hi.isFinite && !Val.eq lo hi then if x.isNeg == Val.lt hi lo then ⟨1, 1⟩ else ⟨0, 1⟩
  else
    let q := Config.openCoord ray.toNat b axis
    clampUnit ⟨q.1, max 1 q.2⟩

/-- The index of a corner in a level's table. -/
def tableIndex (g log : Nat) (c : List Nat) : Nat :=
  let x := c.getD 0 0
  let y := c.getD 1 0
  let z := c.getD 2 0
  if (g + 1) ^ 3 ≤ 2 ^ log then x + (g + 1) * (y + (g + 1) * z)
  else (x * 0x2D1B % 2 ^ 32 ^^^ y * 0x9C4F6A13 % 2 ^ 32 ^^^ z * 0x51E3B7C5 % 2 ^ 32) % 2 ^ 32 % 2 ^ log

/-- The eight corners around a point of a level: weight and table address. -/
def corners (f : FieldLeaf) (u : List Q) (l : Nat) : List (Q × Nat) :=
  let g := f.res.getD l 1
  let axes := u.map (fun x =>
    let p := Q.mul x (Q.ofNat g)
    let i := min p.floor.toNat (g - 1)
    (i, Q.sub p (Q.ofNat i)))
  (List.range 8).map (fun n =>
    let pick := axes.zipIdx.map (fun a =>
      let up := n / 2 ^ a.2 % 2 = 1
      (if up then a.1.1 + 1 else a.1.1, if up then a.1.2 else Q.sub ⟨1, 1⟩ a.1.2))
    (pick.foldl (fun w p => Q.mul w p.2) ⟨1, 1⟩, f.table + 4 * 2 ^ f.log * l + 4 * tableIndex g f.log (pick.map (·.1))))

/-- Features 2l and 2l + 1 from the entries of a level's corners. -/
def featurePair (cs : List (Q × Nat)) (entries : List Nat) : List Val :=
  [0, 1].map (fun h => (exactSum ((cs.zip entries).map (fun x => mulX (Val.ofQ x.1.1) (f16v (x.2 / 2 ^ (16 * h) % 2 ^ 16))))).1)

/-- A feature row of 64 lanes in a format of class W16. -/
def packRow (fmt : FloatFmt) (fs : List Val) : Nat := joinBytes (fs.map (fun v => ((roundIeee fmt 0 v).1, 2)))

/-- A core-3 row command may take an entry of the array's FIFO: there is room, the array is free or its context's, no thread of core 2 seeks an entry, and no `DKL` of the core that issued
before is still on its way (R201, R202). -/
def rowMayPush (s : State) (r : Req) : Bool :=
  let a := (s.tile r.tile).array
  !engineStopped (s.tile r.tile) 2 && decide (a.fifo.length < Config.fifoEntries) && (match a.holder with | none => true | some c => decide (c = r.ctx))
    && !s.threads.any (fun kt => tileOf kt.1 = r.tile && roleOf kt.1 = 2 && !isRunner kt.1 && (kt.2.waitSince.map (·.1)) = some (.waiting .room)
        && (kt.2.status = .waiting .room || kt.2.status = .active))
    && !s.reqs.any (fun q => q.2.core = r.core && decide (q.2.id < r.id) && (match q.2.ask with | .scene .dkl _ _ => true | _ => false))

/-- The row of a field leaf is handed to the array: it takes an entry of the FIFO, and is accepted in its turn (R202, R349). The push releases what the thread accessed before the `DKL`
(R194, R203). (DEDUCED: log 54) -/
def pushRow (k : Nat) (r : Req) (rel : List Nat) (f : FieldLeaf) (ta tb : Nat) (fs : List Val) : Act Unit := do
  let s ← look
  match s.thread? k with
  | none => performed r
  | some t => do
    due "REQUEST_ARRIVAL" (rowMayPush s r)
    let c := captureCmd s k t (.row [packRow fmtBf16 fs, packRow fmtF16 fs, ta, tb, f.head, f.conf, f.src, r.pf.toNat]) r.op r.d 0 0
    takeArray k t
    pushCmd k 2 { c with core := r.core, ctx := r.ctx, pc := r.pc, coefbase := BitVec.ofNat 11 (r.data / 4), after := rel, untimed := !inWindow f.head }
    performed r

/-- What the Deckle makes of a leaf (R348): it is malformed, the ray misses it, or the box is entered and left, and each level has eight corners. -/
inductive DeckleWork where
  | malformed
  | miss
  | rows (f : FieldLeaf) (ta tb : Nat) (corners : List (List (Q × Nat)))

/-- The Deckle's work on the bytes of a leaf for a ray. -/
def deckleWork (ray : Quad) (b : Nat) : DeckleWork :=
  match fieldLeaf b with
  | none => .malformed
  | some f =>
    match (rayOf ray.toNat).bind (fun y => (boxTest y f.lo f.hi).map (fun e => (y, e))) with
    | none => .miss
    | some (y, ta, tb) =>
      if Val.eq (f32v ta) (f32v tb) then .miss
      else
        let x := y.at (toF32 (divX (addX (f32v ta) (f32v tb)) (natX 2)))
        let u := (x.zip (f.lo.zip f.hi)).zipIdx.map (fun a => unitCoord ray b a.2 a.1.1 a.1.2.1 a.1.2.2)
        .rows f ta tb ((List.range f.levels).map (corners f u))

/-- The table reads of the corners. -/
def tableReads (cs : List (List (Q × Nat))) : List (Nat × Nat) := cs.flatMap (fun l => l.map (fun p => (p.2, 4)))

/-- The Deckle reads its tables and hands the row on (R348). The table reads are plain loads of the thread: they wait for its earlier accesses to the same words (R153). -/
def deckleTables (r : Req) (ray : Quad) (rel : List Nat) (b : Nat) (part : Option Nat) : Act Unit := do
  match deckleWork ray b with
  | .rows f ta tb cs => do
    let reads := tableReads cs
    let mine := match part with
      | some j => (r.together reads j).map (fun i => reads.getD i (0, 0))
      | none => (unperformed r.parts reads).map (·.1)
    due "REQUEST_ARRIVAL" (!ownEarlier (← look) r mine)
    match r.who with
    | .thread k => if reads.all (fun p => inWindow p.1) then pure () else breakTiming k
    | _ => pure ()
    match ← plainReads r reads part with
    | none => pure ()
    | some es =>
      let fs := (cs.zipIdx.flatMap (fun c => featurePair c.1 ((es.drop (8 * c.2)).take 8 |>.map (·.1)))) ++ List.replicate (64 - 2 * f.levels) (.zero false)
      match r.who with
      | .thread k => pushRow k r rel f ta tb fs
      | _ => performed r
  | _ => pure ()

/-- The Deckle's part of `DKL`, once the leaf is read (R348): the words that it reads next are known from then on, and later accesses of the thread to them wait (R153). (DEDUCED: log 54) -/
def deckle (r : Req) (ray : Quad) (b : Nat) : Act Unit := do
  match deckleWork ray b with
  | .malformed => fail r .malformedMetadata r.va 0 (fun _ => false)
  | .miss => complete r (answerWrites r.d r.pf none)
  | .rows _ _ _ cs => modReq r.id (fun q => { q with stage := .half b, parts := [], spans := r.spans.take 1 ++ tableReads cs })

/-- A scene instruction reads its primitive and answers (R344); what it reads, it may read one word at a time (R350). -/
def arriveScene (r : Req) (form : SceneForm) (ray : Quad) (rel : List Nat) (part : Option Nat) : Act Unit := do
  match r.stage with
  | .half b => deckleTables r ray rel b part
  | _ =>
    match ← plainReads r (pieces (r.spans.take 1)) part with
    | none => pure ()
    | some l =>
      let b := joinBytes l
      let c : Coefs := ⟨(← look).mem, r.tile, r.data⟩
      let answer := match rayOf ray.toNat with
        | none => none
        | some y => (match form with
          | .tri => triangleAnswer c ray y b
          | .splat => splatAnswer c y b
          | _ => brickAnswer c ray y b)
      if form = .dkl then deckle r ray b else complete r (answerWrites r.d r.pf answer)

/-! ### The row command (R349) -/

/-- out[r] of R349: the head's row r over the hidden values. -/
def headSum (head r : Nat) (h : List Val) : Val :=
  ((pairwise 7 (h.zipIdx.map (fun x => toF32 (mulX (f32At head (256 * r + 4 * x.2)) x.1)))).run 0).1

/-- The answer of a row command over a plate of class W16. -/
def rowAnswer (c : Coefs) (p : Plate) (data : List Nat) (head : Nat) : Option Rec := do
  let g (i : Nat) : Nat := data.getD i 0
  let packed := if p.fmt = 1 then g 0 else g 1
  let row := (List.range 64).map (fun i => decodeTerm p.fmt (elemAt 16 packed i) (coverAt 0 [] 0))
  let hid := (List.range 64).map (fun col => (dotBlocks 0 (.zero false) (blocksOf p.fmt row (columnWeights p col))).1)
  let h := hid.map (fun v => if v.isNan then v else maxX v (.zero false))
  let out := (List.range 4).map (fun r => headSum head r h)
  if out.any Val.isNan then none
  else
    let ta := f32v (g 2)
    let tb := f32v (g 3)
    let o (i : Nat) : Val := maxX (out.getD i (.zero false)) (.zero false)
    let tau ← tauOf (toF32 (mulX (o 0) (subX tb ta)))
    if tau = 0 then none
    else
      let w := c.om (f32v tau)
      validRecord { t0 := g 2, t1 := g 3, tau := tau, em := [1, 2, 3].map (fun i => emission (mulX w (o i))), conf := g 5, src := g 6, mix := false, clip := false, kind := 3 }

/-- The head of a row command is read: what is left of it, or one of its words, after which the command goes on later (R349, R350). -/
def headBytes (name : String) (tile : Nat) (c : EngineCmd) (va : Nat) (part : Option Nat) : Act (Except (Nat × Denied) (Option Nat)) := do
  let reads := wordPieces va 1024
  match part with
  | none => return (← engineRest c.ctx c.core tile c.parts reads).map some
  | some j => do
    due name (decide (j < reads.length) && !c.parts.any (·.index = j))
    match ← readSome c.ctx c.core tile reads c.parts [j] with
    | .error _ => return (← engineRest c.ctx c.core tile [] reads).map some
    | .ok ps => do
      modCmd tile 2 c.op (fun x => { x with parts := x.parts ++ ps })
      return .ok none

/-- `DECKLE_ROW_COMMAND` (R349, R350): at its turn the array performs a row command, whose head it may read one word at a time. -/
def execDeckleRowCommand (s : State) : Step :=
  let name := "DECKLE_ROW_COMMAND"
  commit name (do
    let (tile, part) := match s.input with
      | .one n => (n, none)
      | .two n j => (n, some j)
      | _ => (0, none)
    match nextCmd (s.tile tile) 2 with
    | none => stop (.refused (.eventNotDue name))
    | some c =>
      match c.work, (s.tile tile).array.active with
      | .row data, some p =>
        if c.refused.isSome then trapCmd tile 2 c .protection ((c.refused.map (·.2)).getD 0)
        else if classNum p.fmt ≠ 1 || p.sparse then trapCmd tile 2 c .malformedMetadata 0
        else
          match ← headBytes name tile c (data.getD 4 0) part with
          | .error (va, .pageFault cause) => do
            modCmd tile 2 c.op (fun x => { x with parts := [] })
            faultCmd tile 2 c va cause
          | .error (va, .machineCheck src) => trapCmd tile 2 c .machineCheck va src
          | .error (va, .protection) => trapCmd tile 2 c .protection va
          | .ok none => pure ()
          | .ok (some head) => do
            let co : Coefs := ⟨(← look).mem, tile, c.coefbase.toNat * 4⟩
            retire tile 2 c.op
            finish c.key c.op { writes := answerWrites c.token (BitVec.ofNat 4 (data.getD 7 0)) (rowAnswer co p data head) }
      | .row _, none => trapCmd tile 2 c .malformedMetadata 0
      | _, _ => stop (.refused (.eventNotDue name))) s

end Sys2Proof.Machine
end

