-- ==== Sys2Proof/Machine/Raster.lean ====
section
/-!
DEFINITION. Graphics contexts and groups (R357-R361), raster (R362, R363), blends and their reorder windows (R364-R366), and surface release and acquire (R367).
-/

namespace Sys2Proof.Machine

/-! ### Descriptors (R354, R357) -/

/-- Byte 14 or below of the first field of a surface descriptor that fails a check of R354; none: it is valid, or V = 0. -/
def surfaceFault (x : Nat) : Option Nat :=
  let base := bits x 55 0
  let w := bits x 79 64
  let h := bits x 95 80
  if bits x 120 120 = 0 then none
  else if base % 512 ≠ 0 ∨ inWindow base = true then some 0
  else if w = 0 ∨ 16384 < w then some 8
  else if h = 0 ∨ 16384 < h then some 10
  else if 1 < bits x 103 96 then some 12
  else if bits x 111 104 = 0 ∨ 15 < bits x 111 104 then some 13
  else none

/-- Surface slot k of a graphics context descriptor, and its validity. -/
def slotBytes (x k : Nat) : Nat := x / 256 ^ (64 * k) % 256 ^ 64
def slotValid (x k : Nat) : Bool := bits (slotBytes x k) 120 120 = 1

/-- The lowest address, from the descriptor's, of a byte that fails the checks of R357. -/
def contextFault (x : Nat) : Option Nat :=
  let surf := (List.range 8).findSome? (fun k => (surfaceFault (slotBytes x k)).map (· + 64 * k))
  let bop := ((List.range 8).find? (fun k => slotValid x k && decide (4 < byteAt x (512 + k)))).map (· + 512)
  let x0 := if u16At x 548 < u16At x 544 then some 544 else none
  let y0 := if u16At x 550 < u16At x 546 then some 546 else none
  surf <|> bop <|> x0 <|> y0

/-- The identity of a graphics context (R358): context, descriptor address, and the tile for one in the local window. -/
def gctxKey (ctx tile va : Nat) : Nat := ctx * 2 ^ 56 + va + (if inWindow va then (tile + 1) * 2 ^ 72 else 0)

/-- Resident graphics contexts (R358). -/
def residentLimit : Nat := 16384

/-! ### The operation of a blend (R364, R365) -/

/-- The stored channel of a pixel, and its new code (R355, R364). -/
def channelValue (fmt x : Nat) : Val := if fmt = 1 then f16v x else Val.ofQ ⟨x, 255⟩
def channelCode (fmt : Nat) (v : Val) : Nat :=
  if fmt = 1 then (roundIeee fmtF16 0 v).1
  else match v with
    | .nan _ _ => 0
    | .inf neg => if neg then 0 else 255
    | .zero _ => 0
    | .num q => (roundNat 0 false ((clampUnit q).num.natAbs * 255) (clampUnit q).den).1

/-- The blend operations (R357, R364). -/
def blendChannel (bop : Nat) (s d a : Val) : Val :=
  match bop with
  | 0 => s
  | 1 => addX s (mulX d (subX oneX a))
  | 2 => addX s d
  | 3 => (minMaxVal false s d).1
  | _ => (minMaxVal true s d).1

/-- The new bytes of a pixel. -/
def blendPixel (b : Blend) (old : Nat) : Nat :=
  let n := if b.fmt = 1 then 2 else 1
  let s (i : Nat) : Val := f32v (b.colour.toNat / 2 ^ (32 * i) % 2 ^ 32)
  joinBytes ((List.range 4).map (fun i => (channelCode b.fmt (blendChannel b.bop (s i) (channelValue b.fmt (old / 256 ^ (n * i) % 256 ^ n)) (s 3)), n)))

/-- A blend is performed before another of the same graphics context: an earlier draw, then the lower group, then the order of acceptance (R365). -/
def Blend.before (x y : Blend) : Bool :=
  decide (x.draw < y.draw) || (x.draw = y.draw && (decide (x.group < y.group) || (x.group = y.group && decide (x.id < y.id))))

/-- The key under which the home of a blend's pixel keeps its word, and the memory key of the pixel now: a second home may have taken a copy since the blend was accepted (R142, R174). -/
def Blend.holdKey (b : Blend) : Nat := Machine.holdKey b.va b.key
def Blend.place (s : State) (b : Blend) : Nat := locate s b.holdKey + b.key % 8

/-- A held blend waits: its pixel is reserved (R167), or an access has read part of its granule and is still to read more of it (R197). -/
def blendWaits (s : State) (b : Blend) : Bool :=
  reserved s b.holdKey || s.reqs.any (fun r => r.2.reached.isEmpty && halfRead r.2.parts r.2.reads (b.key / 64))
    || s.tiles.any (fun t => t.2.array.fifo.any (fun c => match c.work with
      | .row data => halfRead c.parts (wordPieces (data.getD 4 0) 1024) (b.key / 64)
      | _ => false))

/-- A held blend is performed: one read and one write of its granule (R364); data lost ends it with a deferred trap of its issuer (R303). -/
def performBlend (b : Blend) : Act Unit := do
  let s ← look
  let n := if b.fmt = 1 then 8 else 4
  let key := b.place s
  emit (.blends (s.blends.filter (·.id ≠ b.id)))
  if spoiled s key n then do
    machineReport (errorSource s key n) b.va
    match s.thread? b.issuer with
    | some t => if tidOf b.issuer t = b.tid then
        modThread b.issuer (fun t => { t with due := assocPut b.op (deferredAt b.pc b.insn .machineCheck (BitVec.ofNat 64 b.va) (BitVec.ofNat 64 (errorSource s key n))) t.due }) else pure ()
    | none => pure ()
  else poke key n (blendPixel b (peek s.mem key n))

/-- A blend at its place in the order of its context's blends. -/
def placeBlend (b : Blend) : List Blend → List Blend
  | [] => [b]
  | x :: r => if x.before b then x :: placeBlend b r else b :: x :: r

/-- The held blends of a graphics context, in an order in which they may be performed (R360, R365). -/
def heldBlends (s : State) (key : Nat) : List Blend := (s.blends.filter (·.gctx = key)).foldl (fun l b => placeBlend b l) []

/-! ### `GCTX` (R358-R361) -/

/-- The core-3 form of the raster and surface instructions: short vectors, no runner slot (R353). -/
def rasterForm (gd : Guard) (vectors : List (BitVec 4)) (uses : Touch) : Form :=
  { guard := gd, uses := fun _ => uses, vectors := vectors, short := true, core3 := true }

/-- `GCTX` waits: it keeps what it has done so far, and tries again; its windows count it once. Each of its waits is timed from its own beginning (R360). -/
def gctxWait (k : Nat) (w : Wait) (changed : Bool) : Act Flow := do
  if changed then do
    let s ← look
    modThread k (fun t => { t.unticked with status := .waiting w, waitSince := some (t.waitFrom (.waiting w) (coreCycle s (tileOf k))) })
    return .hold
  else stop (.stall w)

/-- An instruction without destinations that is done at its issue. -/
def doneAtIssue (k : Nat) (la : BitVec 4) : Act Flow := do
  let op ← openOp k {} {} la
  finish k op {}
  return .seq

/-- An instruction that ends in a deferred trap at its issue. -/
def trapAtIssue (k : Nat) (la : BitVec 4) (c : Cause) (addr info : Nat) : Act Flow := do
  let op ← openOp k {} {} la
  deferredTrap k op c addr info
  return .seq

/-- The least recently bound resident context without a bound thread (R358). -/
def evictable (s : State) : Option Nat :=
  ((s.gctxs.filter (fun g => g.2.bound.isEmpty)).foldl (fun (b : Option (Nat × Nat)) g => match b with
    | none => some (g.1, g.2.age)
    | some (j, a) => if g.2.age < a then some (g.1, g.2.age) else some (j, a)) none).map (·.1)

/-- Every begun group of a context's current draw has ended (R360). -/
def GraphicsContext.quiet (g : GraphicsContext) : Bool := g.begun.all (fun i => decide (i < g.lwm) || g.ended.contains i)

/-- The last part of `GCTX`: the group opens, if it may (R360). -/
def openGroup (k key : Nat) (la : BitVec 4) (va : Word) (index : Nat) (changed : Bool) : Act Flow := do
  match mapGet key (← look).gctxs with
  | none => stop (.stall (.group la.toNat va .resident))
  | some g =>
    if index < g.lwm || g.begun.contains index then trapAtIssue k la .malformedMetadata va.toNat 0
    else if g.lwm + 64 ≤ index then gctxWait k (.group la.toNat va .order) changed
    else do
      let n ← freshId
      emit (.gctx key (some { g with begun := index :: g.begun, bound := k :: g.bound, age := n }))
      modThread k (fun t => { t with group := some ⟨key, g.serial, index, 0, [], none, [], []⟩ })
      doneAtIssue k la

/-- The read and check of a descriptor for a new draw, and the draw's beginning (R357, R358, R360): the read goes after the thread's earlier accesses to the descriptor and its earlier
acquires (R153, R187, R394). A draw that begins leaves the held blends of the one before to be performed first. -/
def beginDraw (k : Nat) (t : Thread) (key : Nat) (la : BitVec 4) (va : Word) (draw index : Nat) (changed : Bool) : Act Flow := do
  if barred (← look) k t [(va.toNat, 1024)] then gctxWait k .earlier changed
  else do
  settleOwed k
  match ← engineBytes t.ctx (coreOf k) (tileOf k) va.toNat 1024 with
  | .error (a, .pageFault c) => do
    addFault ⟨faultDie a, a, tidOf k t, 0, c, t.ctx, t.pc, .gctx k, 0⟩
    modThread k (fun t => { t.unticked with waitSince := none })
    parkOnFault k
    return .hold
  | .error (a, .protection) => trapAtIssue k la .protection a 0
  | .error (a, .machineCheck src) => trapAtIssue k la .machineCheck a src
  | .ok x =>
    match contextFault x with
    | some off => trapAtIssue k la .malformedMetadata (va.toNat + off) 0
    | none => do
      let n ← freshId
      let bound := ((mapGet key (← look).gctxs).map (·.bound)).getD []
      emit (.gctx key (some ⟨t.ctx, va.toNat, if inWindow va.toNat then some (tileOf k) else none, x, some draw, n, 0, [], [], bound, n⟩))
      openGroup k key la va index true

/-- The parts of `GCTX` after the open group has ended (R358, R360). -/
def bindContext (k : Nat) (t : Thread) (la : BitVec 4) (va b : Word) (changed : Bool) : Act Flow := do
  let draw := bits b.toNat 47 32
  let index := bits b.toNat 31 0
  let key := gctxKey t.ctx (tileOf k) va.toNat
  let s ← look
  match mapGet key s.gctxs with
  | some g =>
    if g.draw = some draw then openGroup k key la va index changed
    else if g.quiet then beginDraw k t key la va draw index changed
    else gctxWait k (.group la.toNat va .draw) changed
  | none =>
    if s.gctxs.length < residentLimit then beginDraw k t key la va draw index changed
    else match evictable s with
      | none => gctxWait k (.group la.toNat va .resident) changed
      | some old => do
        -- the evicted context's held blends go first, and wait as a blend does for a reserved word
        if (heldBlends s old).any (blendWaits s) then gctxWait k (.group la.toNat va .resident) changed
        else do
          forEach (heldBlends s old) performBlend
          emit (.gctx old none)
          beginDraw k t key la va draw index true

/-- `GCTX` (R360). (DEDUCED: log 53) -/
def execGctx (gd : Guard) (a b la : BitVec 4) (s : State) : Step :=
  issue (rasterForm gd [] (touches [touchS a, touchS b])) (fun k t => do
    let va := t.readS a
    needCanonical va
    notInRunner k
    needAligned va 1024
    breakTiming k
    let s ← look
    let busy := (match t.group with | some g => !g.pops.isEmpty | none => false)
      || (ownReqs s k).any (fun r => match r.ask with | .blend _ _ => true | _ => false)
    if t.group.isSome && busy then stop (.stall (.group la.toNat va .ends))
    else do
      if t.group.isSome then endGroup k else pure ()
      if va = 0 then doneAtIssue k la
      else bindContext k t la va (t.readS b) t.group.isSome) s

/-! ### Raster (R362, R363) -/

/-- The open group of the issuing thread, or PROTECTION (R361). -/
def needGroup (k : Nat) : Act Group := do
  match ((← look).thread? k).bind (·.group) with
  | some g => return g
  | none => raise .protection 0

/-- Changes a thread's open group. -/
def modGroup (k : Nat) (f : Group → Group) : Act Unit := modThread k (fun t => { t with group := t.group.map f })

/-- Triangles that the raster unit holds for a group, and fragments in a group's queue. -/
def triangleRoom : Nat := 16
def fragmentRoom : Nat := 256

/-- `RASTRI` (R362). -/
def execRastri (gd : Guard) (b la : BitVec 4) (s : State) : Step :=
  issue (rasterForm gd [b] (touchV b)) (fun k t => do
    notInRunner k
    let g ← needGroup k
    if triangleRoom ≤ g.triangles.length then stop (.stall .room)
    else do
      breakTiming k
      modGroup k (fun g => { g with prims := g.prims + 1, triangles := g.triangles ++ [(g.prims, t.readV b)] })
      doneAtIssue k la) s

/-- What a group gives a `RASFRAG` now: a fragment and the group without it, or that it is drained (R363); none: it waits. -/
def popFragment (g : Group) : Option (Option Fragment × Group) :=
  match g.fragments with
  | f :: rest => some (some f, { g with fragments := rest })
  | [] => if g.triangles.isEmpty then some (none, g) else none

/-- The 32 bytes of a fragment. -/
def Fragment.bytes (f : Fragment) : Nat := f.x + f.y * 2 ^ 16 + f.prim % 2 ^ 32 * 2 ^ 32 + f.b1.toNat * 2 ^ 64 + f.b2.toNat * 2 ^ 96

/-- The writes of a `RASFRAG`. -/
def fragmentWrites (d pf : BitVec 4) (x : Option Fragment) : List RegWrite :=
  [.v d (BitVec.ofNat 256 ((x.map Fragment.bytes).getD 0)), .p pf x.isNone]

/-- `RASFRAG` (R363). -/
def execRasfrag (gd : Guard) (d b la : BitVec 4) (s : State) : Step :=
  issue (rasterForm gd [d] (touches [touchV d, touchP b])) (fun k _ => do
    notInRunner k
    let g ← needGroup k
    breakTiming k
    let op ← openOp k ((touchV d).union (touchP b)) {} la
    match if g.pops.isEmpty then popFragment g else none with
    | some (x, h) => do
      modGroup k (fun _ => h)
      finish k op { writes := fragmentWrites d b x }
    | none => modGroup k (fun g => { g with pops := g.pops ++ [(op, d, b)] })
    return .seq) s

/-- A screen-space triangle with finite lanes that is not culled (R362): its corners and A2. -/
def screenTriangle (v : Quad) : Option (List (List Q) × Q) :=
  let vs := (List.range 3).map (fun i => [f32At v.toNat (8 * i), f32At v.toNat (8 * i + 4)])
  if vs.any (fun p => p.any (fun x => !x.isFinite)) then none
  else
    let q := vs.map (·.map Val.toQ)
    let a2 := area q 0 1 2
    let flags := u32At v.toNat 28
    if a2.isZero || (bits flags 0 0 = 1 && a2.isNeg) || (bits flags 1 1 = 1 && !a2.isNeg) then none else some (q, a2)
where
  /-- (b − a) × (c − a) of three corners. -/
  area (q : List (List Q)) (i j k : Nat) : Q := cross2 (q.getD i []) (q.getD j []) (q.getD k [])
  /-- (b − a) × (c − a). -/
  cross2 (a b c : List Q) : Q :=
    let g (p : List Q) (i : Nat) : Q := p.getD i ⟨0, 1⟩
    Q.sub (Q.mul (Q.sub (g b 0) (g a 0)) (Q.sub (g c 1) (g a 1))) (Q.mul (Q.sub (g c 0) (g a 0)) (Q.sub (g b 1) (g a 1)))

/-- The fragment of a pixel, if the triangle covers its centre (R345, R362, R363). -/
def coverPixel (q : List (List Q)) (a2 : Q) (prim x y : Nat) : Option Fragment :=
  let pt := [Q.add (Q.ofNat x) ⟨1, 2⟩, Q.add (Q.ofNat y) ⟨1, 2⟩]
  let p (i : Nat) : List Q := q.getD (i % 3) []
  let b (i : Nat) : Q := Q.div (screenTriangle.cross2 pt (p (i + 1)) (p (i + 2))) a2
  let inside (i : Nat) : Bool := Q.lt ⟨0, 1⟩ (b i) || ((b i).isZero && belowQ (p (i + 1)) (p (i + 2)))
  if (List.range 3).all inside then some ⟨x, y, prim, BitVec.ofNat 32 (roundNe32 (Val.ofQ (b 1))), BitVec.ofNat 32 (roundNe32 (Val.ofQ (b 2)))⟩ else none

/-- Least and greatest of a list of numbers, as pixel bounds in [lo, hi). -/
def pixelRange (l : List Q) (lo hi : Nat) : Nat × Nat :=
  let least := (l.foldl Q.min (l.headD ⟨0, 1⟩)).floor
  let most := (l.foldl Q.max (l.headD ⟨0, 1⟩)).floor
  (max lo least.toNat, if most < 0 then 0 else min hi (most.toNat + 1))

/-- Rows of a triangle from a pixel on, until some give fragments or `room` is reached: the fragments, and the pixel to go on from. -/
def rasterRows (q : List (List Q)) (a2 : Q) (prim : Nat) (xs : Nat × Nat) (yEnd room : Nat) : Nat → Nat → Nat → List Fragment × Option (Nat × Nat)
  | 0, _, _ => ([], none)
  | fuel + 1, y, x =>
    if yEnd ≤ y then ([], none)
    else
      let row := (List.range' x (xs.2 - x)).filterMap (fun i => coverPixel q a2 prim i y)
      if row.isEmpty then rasterRows q a2 prim xs yEnd room fuel (y + 1) xs.1
      else match row.drop room with
        | f :: _ => (row.take room, some (y, f.x))
        | [] => (row, if y + 1 < yEnd then some (y + 1, xs.1) else none)

/-- The next fragments of a triangle inside a scissor, in increasing y, then x (R362). -/
def rasterStep (scissor : Nat × Nat × Nat × Nat) (tri : Nat × Quad) (pos : Option (Nat × Nat)) (room : Nat) : List Fragment × Option (Nat × Nat) :=
  match screenTriangle tri.2 with
  | none => ([], none)
  | some (q, a2) =>
    let (x0, y0, x1, y1) := scissor
    let xs := pixelRange (q.map (·.headD ⟨0, 1⟩)) x0 (min x1 16384)
    let ys := pixelRange (q.map (·.getD 1 ⟨0, 1⟩)) y0 (min y1 16384)
    let (y, x) := pos.getD (ys.1, xs.1)
    rasterRows q a2 tri.1 xs ys.2 room 16385 y x

/-- The scissor of a graphics context descriptor. -/
def scissorOf (x : Nat) : Nat × Nat × Nat × Nat := (u16At x 544, u16At x 546, u16At x 548, u16At x 550)

/-- The `RASFRAG`s of a group that wait and can be answered are answered, oldest first. -/
def servePops (k : Nat) : Nat → Act Unit
  | 0 => pure ()
  | fuel + 1 => do
    match ((← look).thread? k).bind (·.group) with
    | none => pure ()
    | some g =>
      match g.pops, popFragment g with
      | (op, d, pf) :: rest, some (x, h) => do
        modGroup k (fun _ => { h with pops := rest })
        finish k op { writes := fragmentWrites d pf x }
        servePops k fuel
      | _, _ => pure ()

/-- `RASTERIZE` (R362, R363): the raster unit goes on with the first triangle of a group while its queue has room, and waiting `RASFRAG`s are answered. -/
def execRasterize (s : State) : Step :=
  let name := "RASTERIZE"
  commit name (do
    let k := match s.input with | .one k => k | _ => 0
    let t ← needThread name k
    match t.group with
    | none => stop (.refused (.eventNotDue name))
    | some g =>
      let waits := !g.pops.isEmpty && (popFragment g).isSome
      match g.triangles with
      | [] => due name waits
      | tri :: rest =>
        if fragmentRoom ≤ g.fragments.length then due name waits
        else
          let bytes := ((mapGet g.gctx s.gctxs).map (·.bytes)).getD 0
          let (fs, pos) := rasterStep (scissorOf bytes) tri g.pos (fragmentRoom - g.fragments.length)
          modGroup k (fun g => { g with fragments := g.fragments ++ fs, pos := pos, triangles := if pos.isSome then g.triangles else rest })
          if pos.isSome then pure () else rouse k
      servePops k (g.pops.length + 1)) s

/-! ### Blends (R364-R366) -/

/-- `BLEND` (R364): its window accepts it later. -/
def execBlend (gd : Guard) (a b la : BitVec 4) (s : State) : Step :=
  issue (rasterForm gd [b] (touches [touchS a, touchV b])) (fun k t => do
    notInRunner k
    let g ← needGroup k
    match mapGet g.gctx (← look).gctxs with
    | none => raise .protection 0
    | some c =>
      let n := (t.readS a).toNat % 8
      require (slotValid c.bytes n) .malformedMetadata (BitVec.ofNat 64 (c.va + 64 * n))
      breakTiming k
      let op ← openOp k {} {} la
      sendReq k t op (.blend n (t.readV b)) [] (fun r => { r with data := g.gctx, cmp := BitVec.ofNat 64 g.index, seq := g.draw })
      return .seq) s

/-- Where a blend goes: the surface, and the addresses of its surface tile and pixel; none for a pixel outside the surface. -/
def blendPlace (x n : Nat) (v : Quad) : Option (Nat × Nat × Nat × Nat) :=
  let d := slotBytes x n
  let base := bits d 55 0
  let w := bits d 79 64
  let fmt := bits d 103 96
  let p := if fmt = 1 then 8 else 4
  let px := bits v.toNat 15 0
  let py := bits v.toNat 31 16
  if w ≤ px ∨ bits d 95 80 ≤ py then none
  else
    let o := pixelOffset p ((w + 7) / 8) px py
    some (base, fmt, base + o / (64 * p) * (64 * p), base + o)

/-- Blends held in the window of a surface tile (R366). -/
def windowHeld (s : State) (ctx window : Nat) : List Blend := s.blends.filter (fun b => b.ctx = ctx && b.window = window)

/-- The window of a surface tile accepts a blend, or it waits (R366); one outside the surface is discarded. Its access is translated and checked now (R139, R144). (DEDUCED: log 52) -/
def arriveBlend (r : Req) (n : Nat) (v : Quad) : Act Unit := do
  let name := "REQUEST_ARRIVAL"
  let s ← look
  match mapGet r.data s.gctxs with
  | none => complete r []
  | some c =>
    match blendPlace c.bytes n v with
    | none => complete r []
    | some (base, fmt, window, va) =>
      let earlier := (s.reqs.map (·.2)).any (fun q => decide (q.id < r.id) && q.who = r.who && (match q.ask with
        | .blend m w => ((blendPlace c.bytes m w).map (·.2.2.1)) = some window
        | _ => false))
      let held := (windowHeld s r.ctx window).length
      due name (!earlier && (decide (held < 31) || (held = 31 && decide (r.cmp.toNat ≤ c.lwm))))
      match ← reach r.ctx (some r.tile) va { write := true } with
      | .error d => deny r va d
      | .ok (key, _) =>
        if spoiled (← look) key (if fmt = 1 then 8 else 4) then deny r va (.machineCheck (errorSource (← look) key (if fmt = 1 then 8 else 4)))
        else do
          let id ← freshId
          let tid := reqTid s r
          let k := match r.who with | .thread k => k | _ => 0
          emit (.blends ((← look).blends ++ [⟨id, r.op, r.data, r.ctx, r.seq, r.cmp.toNat, k, tid, r.pc, r.insn, r.tile, window, base, va, key, fmt, byteAt c.bytes (512 + n),
            v.extractLsb' 128 128, pageUsed (← look) r.ctx va (0, 0)⟩]))
          complete r []

/-- A blend may be performed: every lower group of its draw has ended, or its draw is over; and no blend that goes before it is held (R358, R360, R365). -/
def blendReady (s : State) (b : Blend) : Bool :=
  (match mapGet b.gctx s.gctxs with
    | none => true
    | some c => decide (c.serial ≠ b.draw) || decide (b.group ≤ c.lwm)) &&
  !s.blends.any (fun x => x.gctx = b.gctx && (decide (x.draw < b.draw) || (x.ctx = b.ctx && x.window = b.window && x.before b)))

/-- `BLEND_PERFORM` (R364, R365). -/
def execBlendPerform (s : State) : Step :=
  let name := "BLEND_PERFORM"
  commit name (do
    let i := match s.input with | .one i => i | _ => 0
    match s.blends.find? (·.id = i) with
    | none => stop (.refused (.eventNotDue name))
    | some b =>
      due name (blendReady s b && !blendWaits s b)
      performBlend b) s

/-! ### Surface release and acquire (R367) -/

/-- `SURFREL` and `SURFACQ`. -/
def surfaceOp (gd : Guard) (a la : BitVec 4) (release : Bool) : State → Step :=
  issue (rasterForm gd [] (touchS a)) (fun k t => do
    let va := t.readS a
    needCanonical va
    notInRunner k
    needAligned va 64
    breakTiming k
    let op ← openOp k {} {} la
    sendReq k t op (if release then .surfrel else .surfacq) [(va.toNat, 64)] (fun r => { r with scope := .device, rel := release, acq := !release })
    return .seq)

/-- `SURFREL` (R367). -/
def execSurfrel (gd : Guard) (a la : BitVec 4) (s : State) : Step := surfaceOp gd a la true s
/-- `SURFACQ` (R367). -/
def execSurfacq (gd : Guard) (a la : BitVec 4) (s : State) : Step := surfaceOp gd a la false s

/-- A surface instruction reads its descriptor and is performed at the descriptor's home: a release when the context's blends for the surface that were accepted before it issued have
been performed (R198, R367). -/
def arriveSurface (r : Req) (release : Bool) : Act Unit := do
  match ← readPieces r.ctx r.core (pieces r.spans) with
  | .error (va, d) => deny r va d
  | .ok l =>
    match surfaceOf (joinBytes l) with
    | none => fail r .malformedMetadata r.va 0 (fun _ => false)
    | some f =>
      due "REQUEST_ARRIVAL" (!(release && (← look).blends.any (fun b => b.ctx = r.ctx && b.base = f.base && decide (b.id < r.id))))
      complete r []

end Sys2Proof.Machine
end

