-- ==== Sys2Proof/Machine/Texture.lean ====
section
/-!
DEFINITION. Texture (R369, R370): exact signs of sums of square roots, rounding of a real that is known by comparisons, bilinear samples, `TEXL` and `TEXS`.
-/

namespace Sys2Proof.Machine

/-! ### Exact reals with square roots -/

/-- The sign of a number: −1, 0 or 1. -/
def Q.sign (q : Q) : Int := if q.isZero then 0 else if q.isNeg then -1 else 1

/-- The sign of a + b√x, for x ≥ 0. -/
def signRoot (a b x : Q) : Int :=
  let sa := a.sign
  let sb := if x.isZero then 0 else b.sign
  if sa = 0 then sb
  else if sb = 0 || sa = sb then sa
  else sa * (Q.sub (Q.mul a a) (Q.mul (Q.mul b b) x)).sign

/-- The sign of a√x + b√y, for x, y ≥ 0. -/
def signRoots (a x b y : Q) : Int :=
  let sa := if x.isZero then 0 else a.sign
  let sb := if y.isZero then 0 else b.sign
  if sa = 0 then sb
  else if sb = 0 || sa = sb then sa
  else sa * (Q.sub (Q.mul (Q.mul a a) x) (Q.mul (Q.mul b b) y)).sign

/-- The sign of a√x + b√y + c, for x, y ≥ 0. -/
def signSum (a x b y c : Q) : Int :=
  let s := signRoots a x b y
  let sc := c.sign
  if s = 0 then sc
  else if sc = 0 || s = sc then s
  else
    -- the square of the first two, less that of c: a²x + b²y − c² + 2ab√(xy)
    s * signRoot (Q.sub (Q.add (Q.mul (Q.mul a a) x) (Q.mul (Q.mul b b) y)) (Q.mul c c)) (Q.mul ⟨2, 1⟩ (Q.mul a b)) (Q.mul x y)

/-- The value of a .f32 magnitude code; the code above the largest finite one stands for 2^128. -/
def magnitude (c : Nat) : Q := if 0x7F800000 ≤ c then Q.pow2 128 else (f32v c).toQ

/-- The greatest magnitude code below 2^31 that a positive real reaches, from the sign of the real less a rational. -/
def searchCode (cmp : Q → Int) : Nat → Nat → Nat
  | 0, c => c
  | b + 1, c => if c + 2 ^ b < 0x7F800000 ∧ 0 ≤ cmp (magnitude (c + 2 ^ b)) then searchCode cmp b (c + 2 ^ b) else searchCode cmp b c

/-- round_ne32 of a real that is known by the sign of the real less a rational. -/
def roundReal (cmp : Q → Int) : Nat :=
  let s := cmp ⟨0, 1⟩
  if s = 0 then 0
  else
    let pos (q : Q) : Int := if s < 0 then -(cmp q.neg) else cmp q
    let c := searchCode pos 31 0
    let mid := Q.mul ⟨1, 2⟩ (Q.add (magnitude c) (magnitude (c + 1)))
    let m := pos mid
    let r := if m < 0 then c else if 0 < m then c + 1 else if c % 2 = 0 then c else c + 1
    if s < 0 then 2 ^ 31 + r else r

/-! ### Samples (R355, R370) -/

/-- A level of a texture: width, height, tiles across, address. -/
structure TexLevel where
  w : Nat
  h : Nat
  c : Nat
  addr : Nat

/-- The level of a surface by number. -/
def Surface.level (f : Surface) (l : Nat) : TexLevel :=
  let (w, h, c, off) := (surfaceLevels (if f.fmt = 1 then 8 else 4) f.levels f.width f.height 0).getD l (1, 1, 1, 0)
  ⟨w, h, c, f.base + off⟩

/-- A texel index wrapped. -/
def wrapTexel (rep : Bool) (i : Int) (n : Nat) : Nat := if rep then (i % (n : Int)).toNat else min i.toNat (n - 1)

/-- The four texels of a bilinear sample at (s, t): weights and addresses (R370). -/
def taps (f : Surface) (l : Nat) (s t : Q) : List (Q × Nat) :=
  let v := f.level l
  let x := Q.sub (Q.mul s (Q.ofNat v.w)) ⟨1, 2⟩
  let y := Q.sub (Q.mul t (Q.ofNat v.h)) ⟨1, 2⟩
  let fx := Q.sub x (Q.ofInt x.floor)
  let fy := Q.sub y (Q.ofInt y.floor)
  let one (i j : Nat) : Q × Nat :=
    (Q.mul (if i = 0 then Q.sub ⟨1, 1⟩ fx else fx) (if j = 0 then Q.sub ⟨1, 1⟩ fy else fy),
      v.addr + pixelOffset (if f.fmt = 1 then 8 else 4) v.c (wrapTexel f.wrapU (x.floor + i) v.w) (wrapTexel f.wrapV (y.floor + j) v.h))
  [one 0 0, one 1 0, one 0 1, one 1 1]

/-- A channel of a texel. -/
def texelChannel (fmt x ch : Nat) : Val := if fmt = 1 then f16v (x / 2 ^ (16 * ch) % 2 ^ 16) else Val.ofQ ⟨(x / 2 ^ (8 * ch) % 256 : Nat), 255⟩

/-- Lanes 0-3: the weighted texels divided by a count, exact and rounded once. -/
def sampleLanes (fmt n : Nat) (ts : List (Q × Nat)) : List Nat :=
  (List.range 4).map (fun ch => roundNe32 (divX (exactSum (ts.map (fun t => mulX (Val.ofQ t.1) (texelChannel fmt t.2 ch)))).1 (natX n)))

/-- The result of a sample: four colour lanes, the level used, the tap count. -/
def textureResult (lanes : List Nat) (level n : Nat) : Nat := joinBytes ((lanes ++ [level, n]).map (fun x => (x, 4)))

/-- What a sample reads, or its result without a read: the taps of every bilinear sample, level, tap count. -/
inductive Sampling where
  | taps (level n : Nat) (ts : List (Q × Nat))
  | answer (x : Nat)

/-- The canonical NaN in lanes 0-3 (R370). -/
def noColour (level n : Nat) : Sampling := .answer (textureResult (List.replicate 4 0x7FC00000) level n)

/-- Lane i of a vector register. -/
def wordLane (v i : Nat) : Nat := v / 2 ^ (32 * i) % 2 ^ 32

/-- `TEXL` (R370). -/
def sampleLevel (f : Surface) (v : Nat) : Sampling :=
  let level := min (wordLane v 2) (f.levels - 1)
  match f32v (wordLane v 0), f32v (wordLane v 1) with
  | u, w => if u.isFinite && w.isFinite then .taps level 1 (taps f level u.toQ w.toQ) else noColour level 1

/-- The footprint of a ray cone on a surface (R370), over the reals: D = max(√p − b√r, 1/16), whether it is the bound, mn, and the axis as pu/√g and pv/√h. -/
structure Cone where
  p : Q
  b : Q
  r : Q
  bound : Bool
  mn : Q
  pu : Q
  g : Q
  pv : Q
  h : Q

/-- The sign of D less a rational. -/
def Cone.signD (c : Cone) (q : Q) : Int := if c.bound then (Q.sub ⟨1, 16⟩ q).sign else signSum ⟨1, 1⟩ c.p c.b.neg c.r q.neg

/-- The cone of a `TEXS`; none: it is degenerate. -/
def coneOf (mn beta : Q) (n d t : List Q) : Option Cone :=
  let dd := dotQ d d
  let nn := dotQ n n
  let dn := dotQ d n
  if dd.isZero || nn.isZero then none
  else
    let p := Q.div (Q.mul dn dn) (Q.mul dd nn)
    let r := Q.sub ⟨1, 1⟩ p
    let b := beta.abs
    let bound := decide (signSum ⟨1, 1⟩ p b.neg r ⟨-1, 16⟩ ≤ 0)
    let q := subQ d (n.map (Q.mul (Q.div dn nn)))
    let pu := dotQ q t
    let w := dotQ q (crossQ n t)
    -- pv = w/‖n‖, so that pu² + pv² = pu² + w²/nn
    let g := Q.add (Q.mul pu pu) (Q.div (Q.mul w w) nn)
    if g.isZero then some ⟨p, b, r, bound, mn, ⟨1, 1⟩, ⟨1, 1⟩, ⟨0, 1⟩, ⟨1, 1⟩⟩ else some ⟨p, b, r, bound, mn, pu, g, w, Q.mul nn g⟩

/-- N of R370 for a positive mn: the least k for which mj/max(mn, 1) ≤ k, at most 16. -/
def Cone.taps (c : Cone) : Nat :=
  let m := if Q.lt c.mn ⟨1, 1⟩ then c.mn else ⟨1, 1⟩
  ((List.range 15).map (· + 1)).find? (fun k => decide (0 ≤ c.signD (Q.div m (Q.ofNat k)))) |>.getD 16

/-- round_ne32 of base + κ/(√g × D). -/
def Cone.coordinate (c : Cone) (base k g : Q) : Nat :=
  roundReal (fun m =>
    let e := Q.sub base m
    -- the sign of (base − m) × √g × D + κ
    if c.bound then signRoot k (Q.mul e ⟨1, 16⟩) g else signSum e (Q.mul g c.p) (Q.mul e c.b).neg (Q.mul g c.r) k)

/-- `TEXS` (R370). `v` and `frame` are v[B] and v[D] at issue; `desc` identifies the descriptor for an open result: a lane is open only where what it is computed from has no value, or no
tap count is N. -/
def sampleCone (f : Surface) (v frame desc : Nat) : Sampling :=
  let x (i : Nat) : Val := f32v (wordLane v i)
  let y (i : Nat) : Val := f32v (wordLane frame i)
  let free : Nat := (Config.openTexture v frame desc).toNat % 2 ^ 192
  let placed := (x 0).isFinite && (x 1).isFinite
  let noTaps (level n : Nat) : Sampling := if placed then .answer (textureResult ((List.range 4).map (wordLane free)) level n) else noColour level n
  if !((x 2).isFinite && (x 7).isFinite) then noTaps (wordLane free 4) (wordLane free 5)
  else
    let mn := Q.mul (x 7).toQ (x 2).toQ.abs
    let level := if Q.lt mn ⟨1, 1⟩ then 0 else min (Q.log2 mn).toNat (f.levels - 1)
    if [x 3, x 4, x 5, x 6, y 0, y 1, y 2].any (fun z => !z.isFinite) then noTaps level (wordLane free 5)
    else
      let tangent := [y 3, y 4, y 5]
      let framed := tangent.all Val.isFinite
      match coneOf mn (x 3).toQ [(x 4).toQ, (x 5).toQ, (x 6).toQ] [(y 0).toQ, (y 1).toQ, (y 2).toQ] (if framed then tangent.map Val.toQ else List.replicate 3 ⟨0, 1⟩) with
      | none => noTaps level (wordLane free 5)
      | some c =>
        -- a negative mn: N is 0 while mj > −1, and below that a negative number, over which no sample is summed
        if mn.isNeg then
          if 0 < c.signD mn.neg then noTaps level 0
          else if placed then .answer (textureResult (List.replicate 4 0) level (wordLane free 5))
          else noColour level (wordLane free 5)
        else
        let n := if mn.isZero then 0 else c.taps
        if n = 0 || !placed || !framed then noTaps level n
        else
          let points := (List.range n).map (fun (k : Nat) =>
            let o := Q.mul ⟨2 * (k : Int) + 1 - n, 2 * n⟩ mn
            (f32v (c.coordinate (x 0).toQ (Q.div (Q.mul o c.pu) (Q.ofNat f.width)) c.g), f32v (c.coordinate (x 1).toQ (Q.div (Q.mul o c.pv) (Q.ofNat f.height)) c.h)))
          if points.any (fun q => !(q.1.isFinite && q.2.isFinite)) then noColour level n
          else .taps level n (points.flatMap (fun q => taps f level q.1.toQ q.2.toQ))

/-! ### Instructions (R369) -/

/-- `TEXS` and `TEXL`. -/
def textureOp (gd : Guard) (d a b la : BitVec 4) (linear : Bool) : State → Step :=
  issue (rasterForm gd [d, b] (touches [touchV d, touchS a, touchV b])) (fun k t => do
    let va := t.readS a
    needCanonical va
    notInRunner k
    needAligned va 64
    breakTiming k
    let op ← openOp k (touchV d) {} la
    sendReq k t op (.texture linear (t.readV b)) [(va.toNat, 64)] (fun r => { r with d := d, data := (t.readV d).toNat })
    return .seq)

/-- `TEXS` (R370). -/
def execTexs (gd : Guard) (d a b la : BitVec 4) (s : State) : Step := textureOp gd d a b la false s
/-- `TEXL` (R370). -/
def execTexl (gd : Guard) (d a b la : BitVec 4) (s : State) : Step := textureOp gd d a b la true s

/-- What a texture instruction makes of its descriptor: none: it is malformed. -/
def textureWork (r : Req) (linear : Bool) (v : Quad) (desc : Nat) : Option (Surface × Sampling) :=
  (surfaceOf desc).map (fun f => (f, if linear then sampleLevel f v.toNat else sampleCone f v.toNat r.data desc))

/-- The texel reads of taps. -/
def texelReads (f : Surface) (ts : List (Q × Nat)) : List (Nat × Nat) := ts.map (fun t => (t.2, if f.fmt = 1 then 8 else 4))

/-- A texture instruction reads its texels as plain loads of its thread (R153, R370). -/
def readTexels (r : Req) (linear : Bool) (v : Quad) (desc : Nat) (part : Option Nat) : Act Unit := do
  match textureWork r linear v desc with
  | some (f, .taps level n ts) => do
    let reads := texelReads f ts
    let mine := match part with
      | some j => (reads.drop j).take 1
      | none => (unperformed r.parts reads).map (·.1)
    due "REQUEST_ARRIVAL" (!ownEarlier (← look) r mine)
    match ← plainReads r reads part with
    | none => pure ()
    | some xs => complete r [.v r.d (BitVec.ofNat 256 (textureResult (sampleLanes f.fmt n ((ts.zip xs).map (fun t => (t.1.1, t.2.1)))) level n))]
  | _ => pure ()

/-- A texture instruction reads its descriptor (R370): the words that it reads next are known from then on, and later accesses of the thread to them wait (R153). (DEDUCED: log 54) -/
def arriveTexture (r : Req) (linear : Bool) (v : Quad) (part : Option Nat) : Act Unit := do
  match r.stage with
  | .half desc => readTexels r linear v desc part
  | _ =>
    match ← plainReads r (pieces (r.spans.take 1)) part with
    | none => pure ()
    | some l =>
      let desc := joinBytes l
      match textureWork r linear v desc with
      | none => fail r .malformedMetadata r.va 0 (fun _ => false)
      | some (_, .answer x) => complete r [.v r.d (BitVec.ofNat 256 x)]
      | some (f, .taps _ _ ts) => modReq r.id (fun q => { q with stage := .half desc, parts := [], spans := r.spans.take 1 ++ texelReads f ts })

end Sys2Proof.Machine
end

