-- ==== Sys2Proof/Machine/Keccak.lean ====
section
/-!
DEFINITION. The SHAKE256 digest of 512 bits that `DIGEST` and the management complex form (R283, R376). The spec names FIPS 202; its sponge is written here from that standard (log 9).
-/

namespace Sys2Proof.Machine

/-- The lanes (x, y) in the order in which ρ walks them: from (1, 0), each time to (y, 2x + 3y). -/
def rhoWalk : Nat → Nat × Nat → List (Nat × Nat)
  | 0, _ => []
  | n + 1, (x, y) => (x, y) :: rhoWalk n (y, (2 * x + 3 * y) % 5)

/-- By how much ρ rotates lane (x, y): the t-th lane of its walk by the t-th triangular number, and lane (0, 0) not at all. -/
def rhoTurn (x y : Nat) : Nat :=
  match (rhoWalk 24 (1, 0)).idxOf? (x, y) with
  | some t => (t + 1) * (t + 2) / 2 % 64
  | none => 0

/-- The turns of all lanes, at 5 y + x. -/
def rhoTurns : List Nat := (List.range 25).map (fun i => rhoTurn (i % 5) (i / 5))

/-- One step of the register of eight bits from which ι takes its bits. -/
def iotaStep (r : Nat) : Nat := if r < 128 then 2 * r else (2 * r) ^^^ 0x171

/-- The constant of a round from the register: bit j of seven in a row stands at bit 2^j − 1; and the register after it. -/
def iotaConstant (r : Nat) : Nat × Nat :=
  (List.range 7).foldl (fun a j => (a.1 + a.2 % 2 * 2 ^ (2 ^ j - 1), iotaStep a.2)) (0, r)

/-- The constants of ι for so many rounds. -/
def iotaConstants : Nat → Nat → List Word
  | 0, _ => []
  | n + 1, r => BitVec.ofNat 64 (iotaConstant r).1 :: iotaConstants n (iotaConstant r).2

/-- Lane (x, y) of a state of 25 lanes. -/
def keccakLane (a : List Word) (x y : Nat) : Word := a.getD (5 * (y % 5) + x % 5) 0

/-- One round. -/
def keccakRound (rc : Word) (a : List Word) : List Word :=
  let c := (List.range 5).map (fun x => (List.range 5).foldl (fun w y => w ^^^ keccakLane a x y) 0)
  let d := (List.range 5).map (fun x => c.getD ((x + 4) % 5) 0 ^^^ (c.getD ((x + 1) % 5) 0).rotateLeft 1)
  let a := (List.range 25).map (fun i => a.getD i 0 ^^^ d.getD (i % 5) 0)
  let b := (List.range 25).map (fun i =>
    let x := i % 5
    let y := i / 5
    (keccakLane a (x + 3 * y) x).rotateLeft (rhoTurns.getD (5 * x + (x + 3 * y) % 5) 0))
  let a := (List.range 25).map (fun i => b.getD i 0 ^^^ (~~~(keccakLane b (i % 5 + 1) (i / 5)) &&& keccakLane b (i % 5 + 2) (i / 5)))
  a.modify 0 (· ^^^ rc)

/-- The permutation: 24 rounds, the register of ι beginning at 1. -/
def keccak (a : List Word) : List Word := (iotaConstants 24 1).foldl (fun s rc => keccakRound rc s) a

/-- A block of 136 bytes, as 17 lanes. -/
def laneOf (b : List Byte) (i : Nat) : Word := (List.range 8).foldl (fun w j => w ||| ((b.getD (8 * i + j) 0).zeroExtend 64 <<< (8 * j))) 0

/-- Absorbs the message block by block, with the padding after its last byte. -/
def absorb : Nat → List Word → List Byte → List Word
  | 0, a, _ => a
  | fuel + 1, a, m =>
    if m.length < 136 then
      let pad := m ++ [0x1F] ++ List.replicate (135 - m.length) 0
      let pad := pad.modify 135 (· ||| 0x80)
      keccak ((List.range 25).map (fun i => a.getD i 0 ^^^ laneOf pad i))
    else absorb fuel (keccak ((List.range 25).map (fun i => a.getD i 0 ^^^ laneOf (m.take 136) i))) (m.drop 136)

/-- SHAKE256 with an output of 512 bits, lowest byte first. (PRESUMED: log 9) -/
def shake256 (m : List Byte) : Nat :=
  let a := absorb (m.length / 136 + 1) (List.replicate 25 0) m
  (List.range 8).foldl (fun n i => n + (a.getD i 0).toNat * 2 ^ (64 * i)) 0

end Sys2Proof.Machine
end

