-- ==== Sys2Proof/Machine/Tundish.lean ====
section
/-!
DEFINITION. Work: the tile queues (R252-R254), launch packets and device launches (R255-R257, R260), jobs and signal words (R259-R263), work counters (R264-R266), user queues with
their scheduler (R267-R269), placement (R41, R42, R258, R270), and the end of a grid (R261).
-/

namespace Sys2Proof.Machine

/-! ### Tile queues (R252-R254) -/

/-- A queue of a tile, by number below 4. -/
def Tile.queue (t : Tile) (q : BitVec 4) : TileQueue := t.queues[q.toNat % 4]'(Nat.mod_lt _ (by decide))

/-- Replaces a queue. -/
def setQueue (tile : Nat) (q : BitVec 4) (x : TileQueue) : Act Unit :=
  modTile tile (fun t => { t with queues := t.queues.set (q.toNat % 4) x (Nat.mod_lt _ (by decide)) })

/-- The queue, claimed for the thread's context, or PROTECTION (R252). -/
def claimQueue (k : Nat) (t : Thread) (q : BitVec 4) : Act TileQueue := do
  let x := ((← look).tile (tileOf k)).queue q
  require (match x.owner with | none => true | some c => decide (c = t.ctx)) .protection 0
  return { x with owner := some t.ctx }

/-- `QPUSH` (R254): releases the issuer's earlier accesses with the entry. -/
def execQpush (gd : Guard) (d b q : BitVec 4) (s : State) : Step :=
  issue { guard := gd, uses := fun _ => touches [touchP d, touchS b] } (fun k t => do
    let x ← claimQueue k t q
    if 64 ≤ x.entries.length then do
      setQueue (tileOf k) q x
      modThread k (fun u => u.writeP d true)
    else do
      setQueue (tileOf k) q { x with entries := x.entries ++ [(t.readS b, releaseSet (← look) k)] }
      modThread k (fun u => u.writeP d false)
    return .seq) s

/-- `QPOP` and `QPEEK`: an entry returned is an acquire at the default scope. -/
def popOp (gd : Guard) (d b q : BitVec 4) (remove : Bool) : State → Step :=
  issue { guard := gd, uses := fun _ => touches [touchS d, touchP b] } (fun k t => do
    let x ← claimQueue k t q
    match x.entries with
    | [] => do
      setQueue (tileOf k) q x
      modThread k (fun u => u.writeP b true)
    | (w, rel) :: rest => do
      setQueue (tileOf k) q (if remove then { x with entries := rest } else x)
      modThread k (fun u => (u.writeS d w).writeP b false)
      acquireFrom k rel t.scope
    return .seq)

/-- `QPOP` (R254). -/
def execQpop (gd : Guard) (d b q : BitVec 4) (s : State) : Step := popOp gd d b q true s

/-- `QPEEK` (R254). -/
def execQpeek (gd : Guard) (d b q : BitVec 4) (s : State) : Step := popOp gd d b q false s

/-! ### Packets (R255) -/

/-- The default scope of a packet (R185, R255). -/
def packetScope (n : Nat) : Scope :=
  match n with
  | 0 => .crew
  | 1 => .flask
  | 2 => .device
  | _ => .system

/-- The 64 bytes of a packet. -/
def packetOf (x : Nat) : Packet :=
  let c := bits x 447 384
  { entry := BitVec.ofNat 64 (bits x 55 0)
    args := (List.range 4).map (fun i => BitVec.ofNat 64 (x / 2 ^ (64 * (i + 1)) % 2 ^ 64))
    fmtp := bits x 375 323 * 8
    wqclose := bits c 63 63 = 1
    wqlim := bits c 62 45
    wqn := bits c 44 42
    det := bits c 41 41 = 1
    timing := bits c 40 40 = 1
    fuse := bits c 39 39 = 1
    scope := packetScope (bits c 38 37)
    slots := bits c 36 33 + 1
    flaskSize := bits c 32 30 + 1
    crewSize := bits c 29 24 + 1
    flasks := bits c 23 0
    depj := bits x 511 480
    job := bits x 479 448 }

/-- The code of a packet's scope. -/
def scopeCode (sc : Scope) : Nat :=
  match sc with
  | .thread => 0
  | .crew => 0
  | .flask => 1
  | .device => 2
  | .system => 3

/-- The bytes of a packet, as a parking area holds them (R260). -/
def packetBytes (p : Packet) : Nat :=
  let c := bit p.wqclose 63 + p.wqlim * 2 ^ 45 + p.wqn * 2 ^ 42 + bit p.det 41 + bit p.timing 40 + bit p.fuse 39 + scopeCode p.scope * 2 ^ 37 + (p.slots - 1) * 2 ^ 33
    + (p.flaskSize - 1) * 2 ^ 30 + (p.crewSize - 1) * 2 ^ 24 + p.flasks
  p.entry.toNat + joinBytes (p.args.map (fun w => (w.toNat, 8))) * 2 ^ 64 + p.fmtp * 2 ^ 320 + c * 2 ^ 384 + p.job * 2 ^ 448 + p.depj * 2 ^ 480

/-! ### Filling words (R263, R265) -/

/-- A word that a fill would write is reserved, so that the fill waits (R167). -/
def fillWaits (s : State) (ctx tile va : Nat) : Bool := reservedRange s ctx tile (wordOf va) 8

/-- A fill as `STFF` by no thread (R164): it is held by a reservation, an absent page keeps it until its fault is answered, and a refusal is reported (R139, R146, R180); `tile` is the one
whose store a local-window address names. It goes after the requests given. Gives its id. (DEDUCED: log 40) -/
def sendFill (ctx tile va x : Nat) (host : Bool) (after : List Nat) : Act Nat := do
  let id ← freshId
  let s ← look
  let r : Req := {
    id := id, who := .gone, op := 0, ctx := ctx, core := tile * 4, pc := 0, insn := 0, wide := false, ask := .fill host, spans := [(wordOf va, 8)], data := x,
    cmp := 0, d := 0, pf := 0, vlong := false, scope := .system, form := 0, acq := false, rel := true, rmode := 0, seq := 0, runner := false, waitlim := 0,
    retrylim := 0, resends := 0, issued := coreCycle s tile, arrived := 0, after := outstanding s after, stage := .sent, expiring := false }
  emit (.req id (some r))
  if r.after.isEmpty then arrive r none else pure ()
  return id

/-! ### Jobs (R259-R263) -/

/-- Job entries of a die (R259). -/
def jobEntries (s : State) (die : Nat) : Nat := (s.jobs.filter (fun j => j.1 % 4 = die)).length

/-- A job's home has an entry for it, or room for one. -/
def jobRoom (s : State) (job : Nat) : Bool := (mapGet job s.jobs).isSome || decide (jobEntries s (job % 4) < 4096)

/-- COUNT rises, in a new entry if the job has none (R259, R260). -/
def countUp (job : Nat) : Act Unit := do
  match mapGet job (← look).jobs with
  | some j => emit (.job job (some { j with count := j.count + 1 }))
  | none => emit (.job job (some ⟨1, false, [], []⟩))

/-- ERR of a job that has an entry (R262). -/
def setErr (job : Nat) : Act Unit := do
  match mapGet job (← look).jobs with
  | some j => emit (.job job (some { j with err := true }))
  | none => pure ()

/-- The value that fills a signal word (R263). -/
def signalValue (job : Nat) (err : Bool) : Nat := job + bit err 63

/-- Fills signal words in arming order, each after the ones before (R263); gives the ids of all. -/
def fillSignals (job : Nat) (err : Bool) : List Nat → List Signal → Act (List Nat)
  | before, [] => return before
  | before, g :: rest => do
    let id ← sendFill g.ctx g.tile g.va (signalValue job err) false before
    fillSignals job err (before ++ [id]) rest

/-- COUNT of a job is zero: its armed words are filled in arming order, and the entry is freed once they have been (R259, R263). -/
def endJob (job : Nat) (j : Job) (err : Bool) : Act Unit := do
  let ids ← fillSignals job err j.filling j.signals
  let s ← look
  let left := ids.filter (fun i => (mapGet i s.reqs).isSome)
  emit (.job job (if left.isEmpty then none else some ⟨0, err, [], left⟩))

/-- A fill of one of the job's signals would wait. -/
def signalsWait (s : State) (job : Nat) : Bool :=
  match mapGet job s.jobs with
  | some j => j.signals.any (fun g => fillWaits s g.ctx g.tile g.va)
  | none => false

/-- COUNT falls; at zero the armed words are filled in arming order and the entry is freed (R259, R263). -/
def countDown (job : Nat) : Act Unit := do
  match mapGet job (← look).jobs with
  | none => pure ()
  | some j =>
    if j.count ≤ 1 then endJob job j j.err
    else emit (.job job (some { j with count := j.count - 1 }))

/-- CHILDREN of a grid changes. -/
def modGrid (g : Nat) (f : Grid → Grid) : Act Unit := do
  match mapGet g (← look).grids with
  | some x => emit (.grid g (some (f x)))
  | none => pure ()

/-- What a completed grid does to its parent and its job, in this order (R261). -/
def gridDone (parent : Option Nat) (job : Nat) : Act Unit := do
  match parent with
  | some g => modGrid g (fun x => { x with children := x.children - 1 })
  | none => pure ()
  countDown job

/-! ### Device launches (R260) -/

/-- The grid of a thread. -/
def gridOf (s : State) (k : Nat) : Option (Nat × Grid) :=
  match s.thread? k with
  | none => none
  | some t =>
    if t.detached then none
    else match mapGet t.flask s.flasks with
      | none => none
      | some f => (mapGet f.grid s.grids).map (fun g => (f.grid, g))

/-- The source number of the device launch queue (R258). -/
def deviceSource : Nat := 256

/-- A handler and a detached thread belong to no grid (R260, R265). -/
def needGrid (k : Nat) (t : Thread) : Act Unit := require (!isRunner k && !t.detached) .protection 0

/-- `LAUNCH` (R260). -/
def execLaunch (gd : Guard) (a b la : BitVec 4) (s : State) : Step :=
  issue { guard := gd, uses := fun _ => touches [touchS a, touchS b] } (fun k t => do
    let va := t.readS a
    needCanonical va
    needAligned va 64
    needGrid k t
    let op ← openOp k {} {} la
    sendReq k t op (.launch ((t.readS b).toNat % 4) none) [(va.toNat, 64)] (fun r => { r with rel := true, scope := .device })
    breakTiming k
    return .seq) s

/-- Packets of the device launch queue that take a place in hardware. -/
def launchPlaces (d : Die) : Nat := (d.arrivals.filter (fun x => x.source = deviceSource && x.parked.isNone)).length

/-- The packet joins the launch queue of its die, or is refused (R260). -/
def joinLaunchQueue (r : Req) (die parent : Nat) (p : Packet) : Act Unit := do
  let s ← look
  let join (e : Option Nat) : Act Unit := do
    modDie die (fun d => { d with arrivals := d.arrivals ++ [⟨p, r.ctx, deviceSource, some parent, some r.id, e⟩] })
    modReq r.id (fun q => { q with stage := .accepted })
  if launchPlaces (s.die die) < 512 then join none
  else
    match ← parkingTake die 4 with
    | some i => do
      parkingPoke die i 64 (packetBytes p)
      join (some i)
    | none => do
      if r.retrylim ≤ r.resends then do
        modGrid parent (fun x => { x with children := x.children - 1 })
        countDown p.job
      else pure ()
      refuse r r.va

/-- A `LAUNCH` is carried out: the packet is read, COUNT and CHILDREN rise, and the packet goes to its Tundish (R260). A resend starts from the packet read before. -/
def arriveLaunch (r : Req) (die : Nat) (packet : Option Packet) : Act Unit := do
  let s ← look
  let grid := match r.who with
    | .thread k => gridOf s k
    | _ => none
  match grid with
  | none => fail r .protection 0 0 (fun _ => false)
  | some (n, g) =>
    match packet with
    | some p => joinLaunchQueue r die n p
    | none =>
      match ← readPieces r.ctx r.core (pieces r.spans) with
      | .error (va, d) => deny r va d
      | .ok l => do
        let p := { packetOf (joinBytes l) with job := g.packet.job }
        countUp p.job
        modGrid n (fun x => { x with children := x.children + 1 })
        modReq r.id (fun q => { q with ask := .launch die (some p) })
        joinLaunchQueue { r with ask := .launch die (some p) } die n p

/-- `JOBSIG` (R260, R263). -/
def execJobsig (gd : Guard) (d a b la : BitVec 4) (s : State) : Step :=
  issue { guard := gd, uses := fun _ => touches [touchP d, touchS a, touchS b] } (fun k t => do
    let va := t.readS b
    needCanonical va
    needAligned va 8
    let op ← openOp k (touchP d) {} la
    sendReq k t op (.jobsig ((t.readS a).toNat % 2 ^ 32)) [(va.toNat, 8)] (fun r => { r with pf := d })
    breakTiming k
    return .seq) s

/-- A `JOBSIG` reaches the job's home (R263). One that meets an entry of COUNT 0, which waits for its fills, has its word filled after them. (DEDUCED: log 40) -/
def arriveJobsig (name : String) (r : Req) (job : Nat) : Act Unit := do
  let s ← look
  let g : Signal := ⟨r.ctx, r.va, r.tile⟩
  match mapGet job s.jobs with
  | none => do
    due name (!fillWaits s g.ctx g.tile g.va)
    let _ ← fillSignals job false [] [g]
    complete r [.p r.pf false]
  | some j =>
    if j.count = 0 then do
      endJob job { j with signals := [g] } j.err
      complete r [.p r.pf false]
    else if 4 ≤ j.signals.length then complete r [.p r.pf true]
    else do
      emit (.job job (some { j with signals := j.signals ++ [g] }))
      complete r [.p r.pf false]

/-! ### Acceptance (R256) -/

/-- A tile of a die that a context owns for fixed timing. -/
def ownsFixed (s : State) (die ctx : Nat) : Bool := s.tiles.any (fun t => dieOfTile t.1 = die && t.2.fixed && t.2.owner = some ctx)

/-- The management complex hears of a read that belongs to no thread and has met an uncorrectable error (R304). -/
def reportBad (d : Denied) (va : Nat) : Act Unit :=
  match d with
  | .machineCheck src => machineReport src va
  | _ => pure ()

/-- The three words at FMTP, as a plain read of the Tundish on no cluster (R256). -/
def readFmts (ctx fmtp : Nat) : Act (Option (List Word)) := do
  if fmtp = 0 then return some [0, 0, 0]
  else if inWindow fmtp || inWindow (fmtp + 16) then return none
  else
    let words ← collect [fmtp, fmtp + 8, fmtp + 16] (fun va => do
      match ← readHome ctx none va 8 {} with
      | .ok x => return some (BitVec.ofNat 64 x)
      | .error d => do
        reportBad d va
        return none)
    return if words.all (·.isSome) then some (words.filterMap id) else none

/-- The checks of R256 but for the read at FMTP. -/
def packetFails (s : State) (die : Nat) (a : Arrival) : Bool :=
  let p := a.packet
  decide (p.slots < (p.crewSize + 3) / 4) || decide (4 < p.wqn) || p.job = 0 || (p.timing && !ownsFixed s die a.ctx)
    || (a.source ≠ deviceSource && p.fuse && p.timing)

/-- The work counters of a new grid (R264). -/
def newCounters (p : Packet) : List Counter :=
  (List.range p.wqn).map (fun i => if i = 0 then ⟨0, p.wqlim, p.wqclose, []⟩ else ⟨0, 0, false, []⟩)

/-- A place of the device launch queue frees: the oldest parked packet takes it. -/
def unparkArrival (die : Nat) : Act Unit := do
  let d := (← look).die die
  match d.arrivals.find? (·.parked.isSome) with
  | none => pure ()
  | some x => do
    parkingRelease die (x.parked.getD 0) 4
    modDie die (fun d => { d with arrivals := d.arrivals.map (fun y => if y = x then { y with parked := none } else y) })

/-- `PACKET_ACCEPTANCE` (R256, R260): the Tundish accepts the oldest packet that has reached it, or rejects it. The placement list of R270 is the one in force then.
(DESIGN CHOICE: log 73) Packets of all sources stand in one order, that of arrival. (DESIGN CHOICE: log 93) -/
def execPacketAcceptance (s : State) : Step :=
  let name := "PACKET_ACCEPTANCE"
  commit name (do
    let die := match s.input with | .one d => d | _ => 0
    let d := s.die die
    due name (dieReady s die)
    match d.arrivals with
    | [] => stop (.refused (.eventNotDue name))
    | a :: rest =>
      modDie die (fun d => { d with arrivals := rest })
      match a.parked with
      | some e => parkingRelease die e 4
      | none => if a.source = deviceSource then unparkArrival die else pure ()
      match a.req.bind (fun i => mapGet i s.reqs) with
      | some r => complete r []
      | none => pure ()
      let fmts ← if packetFails s die a then pure none else readFmts a.ctx a.packet.fmtp
      let p := a.packet
      match fmts with
      | none =>
        if p.job = 0 then emit (.send (.report "packet rejected" die a.ctx))
        else do
          due name (!signalsWait s p.job)
          setErr p.job
          gridDone a.parent p.job
      | some f =>
        if p.flasks = 0 then do
          due name (!signalsWait s p.job)
          gridDone a.parent p.job
        else do
          let id ← freshId
          emit (.grid id (some { packet := p, ctx := a.ctx, die := die, source := a.source, parent := a.parent, children := 0, placed := 0, done := 0, fmts := f,
                                 counters := newCounters p, list := if p.det then (s.settings die a.ctx).placement else []
                                 det := if p.det then (s.settings die a.ctx).placement.map (fun _ => 0) else [] }))) s

/-! ### Placement (R41, R42, R258, R270) -/

/-- The slots of one core that a crew would take. -/
def coreSlots (s : State) (core n : Nat) (exact : Bool) (taken : List Nat) : Option (List Nat) :=
  let free (k : Nat) : Bool := slotOpen s none k && (queuedFor s k).isNone && !taken.contains k
  let l := if exact then (List.range n).map (keyOf core) else (generalSlots core).filter free
  if n ≤ l.length && (l.take n).all free then some (l.take n) else none

/-- The slots of a tile that a crew would take, core by core. -/
def tileSlots (s : State) (tile n : Nat) (exact : Bool) (taken : List Nat) : Option (List (List Nat)) :=
  let l := (List.range 4).map (fun c => coreSlots s (tile * 4 + c) n exact taken)
  if l.all (·.isSome) then some (l.filterMap id) else none

/-- A tile's regime is that of a packet's threads (R258, R275). -/
def regimeFits (s : State) (tile ctx : Nat) (timing : Bool) : Bool :=
  let t := s.tile tile
  if timing then t.fixed && t.owner = some ctx else !t.fixed

/-- Places crews on the lowest tiles of a list where each fits after the reservations of earlier crews. -/
def fitCrews (s : State) (g : Grid) (tiles : List Nat) : Nat → List Nat → Option (List (Nat × List (List Nat)))
  | 0, _ => some []
  | n + 1, taken =>
    match tiles.findSome? (fun t =>
        if regimeFits s t g.ctx g.packet.timing then (tileSlots s t g.packet.slots g.packet.timing taken).map (fun x => (t, x)) else none) with
    | none => none
    | some (t, x) => (fitCrews s g tiles n (taken ++ x.flatten)).map (fun r => (t, x) :: r)

/-- Crew c of a deterministic flask on exposed tile c (R270). -/
def fitExact (s : State) (g : Grid) (cluster : Nat) : List Nat → Option (List (Nat × List (List Nat)))
  | [] => some []
  | c :: rest =>
    let t := cluster * 8 + c
    if !regimeFits s t g.ctx g.packet.timing then none
    else match tileSlots s t g.packet.slots true [] with
      | none => none
      | some x => (fitExact s g cluster rest).map (fun r => (t, x) :: r)

/-- The fusion of a cluster's flasks allows a flask of a packet (R157, R258). -/
def fusionFits (s : State) (cluster : Nat) (fuse : Bool) : Bool :=
  s.flasks.all (fun f => f.2.cluster ≠ cluster || ((mapGet f.2.grid s.grids).map (·.packet.fuse)) = some fuse)

/-- The next flask of a grid that may run on a cluster now: its index, its list position in a deterministic grid, and its crews' tiles and slots. (DEDUCED: log 37) -/
def fitOn (s : State) (id : Nat) (g : Grid) (cluster : Nat) : Option (Nat × Option Nat × List (Nat × List (List Nat))) :=
  let p := g.packet
  if g.placed ≥ p.flasks || (p.depj ≠ 0 && (mapGet p.depj s.jobs).isSome) || !fusionFits s cluster p.fuse then none
  else if p.det then
    match g.list.findIdx? (· = cluster) with
    | none => none
    | some i =>
      let n := g.det.getD i 0
      let f := i + g.list.length * n
      let busy := s.flasks.any (fun x => x.2.grid = id && decide (0 < n) && x.2.index = f - g.list.length)
      if p.flasks ≤ f || busy then none
      else (fitExact s g cluster (List.range p.flaskSize)).map (fun x => (f, some i, x))
  else (fitCrews s g ((List.range 8).map (fun i => cluster * 8 + i)) p.flaskSize []).map (fun x => (g.placed, none, x))

/-- The oldest grid of a source with flasks to place (R258). -/
def headGrid (s : State) (die source : Nat) : Option (Nat × Grid) :=
  s.grids.find? (fun g => g.2.die = die && g.2.source = source && decide (g.2.placed < g.2.packet.flasks))

/-- The clusters of a die, lowest first. -/
def dieClusters (die : Nat) : List Nat := (List.range 64).map (fun i => die * 64 + i)

/-- A source's oldest flask fits on some cluster, and on which first. -/
def firstCluster (s : State) (die source : Nat) : Option (Nat × Nat) :=
  match headGrid s die source with
  | none => none
  | some (id, g) => ((dieClusters die).find? (fun c => (fitOn s id g c).isSome)).map (fun c => (id, c))

/-- The sources in the order in which the Tundish visits them, from the one it visits next (R258). -/
def visitOrder (d : Die) : List Nat := (List.range 257).map (fun i => (d.source + i) % 257)

/-- The sources that have a flask waiting, in visiting order; an unmapped slot is passed over (R258). A grid keeps the number of its slot as its source, whatever queue is
mapped there later. (DESIGN CHOICE: log 72) -/
def waitingSources (s : State) (die : Nat) : List Nat :=
  let l := (s.grids.filter (fun g => g.2.die = die && decide (g.2.placed < g.2.packet.flasks))).map (·.2.source)
  (visitOrder (s.die die)).filter (fun x => l.contains x && (x = deviceSource || (s.queueSlot? die x).isSome))

/-- The placement that the Tundish makes next: the source, the grid and the cluster. -/
def nextPlacement (s : State) (die : Nat) : Option (Nat × Nat × Nat) :=
  (waitingSources s die).findSome? (fun src => (firstCluster s die src).map (fun x => (src, x)))

/-- The state in which a launched thread begins (R257). -/
def launchedThread (s : State) (g : Grid) (crew flask index : Nat) : Thread :=
  let p := g.packet
  let t := applyDefaults (s.settings g.die g.ctx).defaults { freshThread g.ctx crew flask p.entry with
    s := (((Vector.replicate 16 0).set 1 (p.args.getD 0 0)).set 2 (p.args.getD 1 0)).set 3 (p.args.getD 2 0) |>.set 4 (p.args.getD 3 0) }
  { t with prio := 0, fmta := g.fmts.getD 0 0, fmtb := g.fmts.getD 1 0, fmts := g.fmts.getD 2 0, scope := p.scope, fixed := p.timing, index := index }

/-- The threads of a crew start; each one's first instruction acquires at device scope (R42, R257). -/
def startCrew (g : Grid) (flask crew : Nat) (slots : List (List Nat)) : Act Unit :=
  forEach (List.range g.packet.crewSize) (fun t => do
    let k := (slots.getD (t % 4) []).getD (t / 4) 0
    let s ← look
    let x := launchedThread s g crew flask t
    enterSlot k x
    discardFor (coreOf k) x .device)

/-- Starts the crews of a flask, in index order. -/
def startCrews (g : Grid) (flask : Nat) : Nat → List (Nat × List (List Nat)) → Act (List Nat)
  | _, [] => return []
  | i, (tile, slots) :: rest => do
    let id ← freshId
    let members := (List.range g.packet.crewSize).map (fun t => (slots.getD (t % 4) []).getD (t / 4) 0)
    emit (.crew id (some { flask := flask, tile := tile, index := i, members := members, reserved := slots.flatten, phase := 0, rel := [], prev := [] }))
    startCrew g flask id slots
    let ids ← startCrews g flask (i + 1) rest
    return id :: ids

/-- `FLASK_PLACEMENT` (R258): the placement that the Tundish's next successful visit makes. Visits that fail leave the round-robin pointer just past the last source that was served.
(DESIGN CHOICE: log 72) -/
def execFlaskPlacement (s : State) : Step :=
  let name := "FLASK_PLACEMENT"
  commit name (do
    let (die, id, cluster) := match s.input with | .three d g c => (d, g, c) | _ => (0, 0, 0)
    due name (dieReady s die && !(s.die die).placementStopped)
    match nextPlacement s die, mapGet id s.grids with
    | some (src, g0, c0), some g => do
      due name (g0 = id && c0 = cluster)
      match fitOn s id g cluster with
      | none => stop (.refused (.eventNotDue name))
      | some (index, position, crews) => do
        if (s.cluster cluster).fused = g.packet.fuse then pure () else setFusion cluster g.packet.fuse
        let flask ← freshId
        let ids ← startCrews g flask 0 crews
        emit (.flask flask (some { grid := id, index := index, cluster := cluster, crews := ids, phase := 0, rel := [], prev := [], idle := 0 }))
        modGrid id (fun x => { x with placed := x.placed + 1, det := match position with
          | some i => x.det.set i (x.det.getD i 0 + 1)
          | none => x.det })
        modDie die (fun d => { d with source := (src + 1) % 257 })
    | _, _ => stop (.refused (.eventNotDue name))) s

/-- `GRID_COMPLETION` (R261, R264): every flask has ended and every child grid has completed. -/
def execGridCompletion (s : State) : Step :=
  let name := "GRID_COMPLETION"
  commit name (do
    let id := match s.input with | .one g => g | _ => 0
    match mapGet id s.grids with
    | none => stop (.refused (.eventNotDue name))
    | some g =>
      due name (g.placed = g.packet.flasks && g.done = g.packet.flasks && g.children = 0)
      due name (!(((mapGet g.packet.job s.jobs).map (fun j => decide (j.count ≤ 1))).getD false && signalsWait s g.packet.job))
      emit (.grid id none)
      gridDone g.parent g.packet.job) s

/-! ### Work counters (R264-R266) -/

/-- `WQASK` (R265). -/
def execWqask (gd : Guard) (a b la : BitVec 4) (s : State) : Step :=
  issue { guard := gd, uses := fun _ => touches [touchS a, touchS b] } (fun k t => do
    let va := t.readS a
    needCanonical va
    require (inWindow va.toNat) .protection va
    needAligned va 8
    needGrid k t
    let op ← openOp k {} {} la
    sendReq k t op (.wqask ((t.readS b).toNat % 4)) [(va.toNat, 8)] id
    return .seq) s

/-- `WQPUT` (R265): releases the issuer's earlier accesses at device scope. -/
def execWqput (gd : Guard) (a b la : BitVec 4) (s : State) : Step :=
  issue { guard := gd, uses := fun _ => touches [touchS a, touchS b] } (fun k t => do
    needGrid k t
    let x := (t.readS b).toNat
    let op ← openOp k {} {} la
    sendReq k t op (.wqput ((t.readS a).toNat % 4) (x % 2 ^ 32) (bits x 63 63 = 1)) [] (fun r => { r with rel := true, scope := .device })
    return .seq) s

/-- The answers that are no items (R265). -/
def endOfWork : Nat := 2 ^ 64 - 1
def noCounter : Nat := 2 ^ 64 - 2

/-- The answer that a counter gives now, and the counter after it (R265). -/
def Counter.answer (c : Counter) : Option (Nat × Counter) :=
  if c.next < c.limit then some (c.next, { c with next := c.next + 1 }) else if c.closed then some (endOfWork, c) else none

/-- Fills an answer word of a tile's store, for a context. -/
def fillAnswer (ctx tile off v : Nat) : Act Unit := do
  let w := localKey tile off
  poke w 8 v
  emit (.empty w false)
  settle (homeKey ctx tile (windowBase + off)) w

/-- A fill of an answer word would wait behind a reservation. -/
def answerWaits (s : State) (tile off : Nat) : Bool := fillWaits s 0 tile (windowBase + off)

/-- Pending asks of a die (R265). -/
def pendingAsks (s : State) (die : Nat) : Nat :=
  (s.grids.map (fun g => if g.2.die = die then (g.2.counters.map (·.asks.length)).sum else 0)).sum

/-- Replaces a counter of a grid. -/
def setCounter (g w : Nat) (c : Counter) : Act Unit := modGrid g (fun x => { x with counters := x.counters.set w c })

/-- `WQASK_ARRIVAL` (R265). -/
def execWqaskArrival (s : State) : Step :=
  let name := "WQASK_ARRIVAL"
  commit name (do
    let i := match s.input with | .one i => i | _ => 0
    let r ← needReq name i
    due name (r.stage = .sent && (outstanding s r.after).isEmpty)
    match r.ask, r.who with
    | .wqask w, .thread k =>
      let off := r.va - windowBase
      match gridOf s k with
      | none => fail r .protection 0 0 (fun _ => false)
      | some (n, g) =>
        match g.counters[w]? with
        | none => do
          due name (!answerWaits s r.tile off)
          complete r []
          fillAnswer r.ctx r.tile off noCounter
        | some c =>
          match c.answer with
          | some (v, c) => do
            due name (!answerWaits s r.tile off)
            setCounter n w c
            complete r []
            fillAnswer r.ctx r.tile off v
          | none =>
            if pendingAsks s g.die < 1024 then do
              setCounter n w { c with asks := c.asks ++ [(r.tile, off)] }
              complete r []
            else refuse r r.va
    | _, _ => stop (.refused (.eventNotDue name))) s

/-- Serves pending asks in arrival order (R265). -/
def serveAsks (ctx n w : Nat) (c : Counter) : List (Nat × Nat) → Act Unit
  | [] => setCounter n w { c with asks := [] }
  | (tile, off) :: rest =>
    match c.answer with
    | none => setCounter n w { c with asks := (tile, off) :: rest }
    | some (v, c) => do
      fillAnswer ctx tile off v
      serveAsks ctx n w c rest

/-- `WQPUT_ARRIVAL` (R265). -/
def execWqputArrival (s : State) : Step :=
  let name := "WQPUT_ARRIVAL"
  commit name (do
    let i := match s.input with | .one i => i | _ => 0
    let r ← needReq name i
    due name (r.stage = .sent && (outstanding s r.after).isEmpty)
    match r.ask, r.who with
    | .wqput w count close, .thread k =>
      match gridOf s k with
      | none => fail r .protection 0 0 (fun _ => false)
      | some (n, g) =>
        match g.counters[w]? with
        | none => complete r []
        | some c =>
          if c.closed then complete r []
          else do
            due name (!c.asks.any (fun a => answerWaits s a.1 a.2))
            complete r []
            serveAsks g.ctx n w { c with limit := min (c.limit + count) (2 ^ 32 - 1), closed := close } c.asks
    | _, _ => stop (.refused (.eventNotDue name))) s

/-! ### User queues (R267-R269) -/

/-- A row of the queue table. -/
structure UserQueue where
  ring : Nat
  size : Nat
  ridx : Nat
  notify : Nat
  ctx : Nat
  errq : Bool
  valid : Bool

/-- Row q of a die's queue table (R267). -/
def userQueue (s : State) (die q : Nat) : Option UserQueue :=
  (s.die die).queueTable.map (fun base =>
    let x := peek s.mem (hbmKey (base + 32 * q)) 32
    { ring := bits x 55 6 * 64, size := bits x 68 64, ridx := bits x 127 96, notify := bits x 191 131 * 8, ctx := bits x 203 192, errq := bits x 209 209 = 1,
      valid := bits x 208 208 = 1 })

/-- The reports of a read of rows of a die's queue table, from row q on, that meets words in error (R304). -/
def reportQueues (die q n : Nat) : Act Unit := do
  match ((← look).die die).queueTable with
  | some base => reportErrors (base + 32 * q) (32 * n)
  | none => pure ()

/-- Writes RIDX of a queue. -/
def writeRidx (die q n : Nat) : Act Unit := do
  match ((← look).die die).queueTable with
  | some base => pokePhysical (hbmKey (base + 32 * q + 12)) 4 n
  | none => pure ()

/-- Sets ERRQ of a queue. -/
def writeErrq (die q : Nat) : Act Unit := do
  match ((← look).die die).queueTable with
  | some base => do
    let a := hbmKey (base + 32 * q + 26)
    pokePhysical a 1 (Memory.read (← look).mem a ||| 2).toNat
  | none => pure ()

/-- A hardware queue slot is free again. -/
def freeSlot (die slot : Nat) : Act Unit := emit (.queueSlot (slotKey die slot) none)

/-- A slot's notify read (R268), or the scheduler's `LDX.c` when it maps a queue (R269). -/
def askNotify (die slot : Nat) (u : UserQueue) (remap : Bool) : Act Unit := do
  let id ← freshId
  let s ← look
  emit (.req id (some {
    id := id, who := .queue die slot, op := 0, ctx := u.ctx, core := die * 2048, pc := 0, insn := 0, wide := false, ask := .notify remap, spans := [(u.notify, 8)], data := 0,
    cmp := 0, d := 0, pf := 0, vlong := false, scope := .system, form := 3, acq := true, rel := false, rmode := 0, seq := 0, runner := false, waitlim := 0,
    retrylim := 0, resends := 0, issued := s.cycle, arrived := 0, after := [], stage := .sent, expiring := false }))

/-- Takes the packets of a queue from RIDX on, while the job's home has an entry (R259, R268). A ring entry that the queue's context cannot read is not taken; one that holds an uncorrectable
error ends the taking, and the second answer says so. (DEDUCED: log 39) -/
def takePackets (die slot : Nat) (u : UserQueue) (windex : Nat) : Nat → Nat → Act (Nat × Bool)
  | 0, ridx => return (ridx, false)
  | fuel + 1, ridx => do
    if ridx = windex then return (ridx, false)
    else
      let va := u.ring + 64 * (ridx % 2 ^ u.size)
      match ← readHome u.ctx none va 64 {} with
      | .error (.machineCheck src) => do
        machineReport src va
        return (ridx, true)
      | .error _ => return (ridx, false)
      | .ok x =>
        let p := packetOf x
        if p.job ≠ 0 && !jobRoom (← look) p.job then return (ridx, false)
        else do
          if p.job = 0 then pure () else countUp p.job
          modDie die (fun d => { d with arrivals := d.arrivals ++ [⟨p, u.ctx, slot, none, none, none⟩] })
          takePackets die slot u windex fuel ((ridx + 1) % 2 ^ 32)

/-- `PACKET_TAKE` (R268): a slot whose notify read has been served takes its packets, and then reads the notify word again, or is unmapped (R269). -/
def execPacketTake (s : State) : Step :=
  let name := "PACKET_TAKE"
  commit name (do
    let (die, slot) := match s.input with | .two d q => (d, q) | _ => (0, 0)
    due name (dieReady s die)
    match s.queueSlot? die slot with
    | none => stop (.refused (.eventNotDue name))
    | some q =>
      match q.windex, userQueue s die q.queue with
      | some w, some u => do
        due name (!q.stopped)
        reportQueues die q.queue 1
        if 2 ^ u.size < (w + 2 ^ 32 - u.ridx) % 2 ^ 32 then do
          writeErrq die q.queue
          stopSlot die slot
        else do
          let (r, bad) ← takePackets die slot u w (2 ^ u.size) u.ridx
          due name (r ≠ u.ridx || r = w || bad)
          if r = u.ridx then pure () else writeRidx die q.queue r
          if bad then stopSlot die slot
          else if r ≠ w then pure ()
          else if q.unmapping then freeSlot die slot
          else do
            modSlot die slot (fun x => { x with windex := none })
            askNotify die slot u false
      | _, _ => stop (.refused (.eventNotDue name))) s

/-- The valid queues of a die that may be mapped, from the one whose turn is next (R268). -/
def mappable (s : State) (die : Nat) : List Nat :=
  let d := s.die die
  (List.range 4096).map (fun i => (d.nextQueue + i) % 4096) |>.filter (fun q =>
    match userQueue s die q with
    | some u => u.valid && !u.errq && !(s.slotsOf die).any (fun x => x.2.queue = q)
    | none => false)

/-- Unmaps the queue of a slot (R269): the waiting read is withdrawn, or, if it has been served, the slot first takes those packets. -/
def unmapSlot (die slot : Nat) (q : QueueSlot) : Act Unit := do
  let s ← look
  match (s.reqs.map (·.2)).find? (fun r => r.who = .queue die slot) with
  | some r => do
    match r.stage with
    | .listed _ => unlist r
    | .heldBack => unhold r
    | _ => pure ()
    emit (.req r.id none)
    freeSlot die slot
  | none => if q.windex.isSome then modSlot die slot (fun x => { x with unmapping := true }) else freeSlot die slot

/-- Maps queues onto free slots, in turn, the lowest first (R268, R269). (DESIGN CHOICE: log 94) -/
def mapQueues (die : Nat) : List Nat → List Nat → Act Unit
  | slot :: slots, q :: qs => do
    match userQueue (← look) die q with
    | none => pure ()
    | some u => do
      let turn := (← look).nextId
      emit (.queueSlot (slotKey die slot) (some ⟨q, turn, none, false, false⟩))
      modDie die (fun d => { d with nextQueue := (q + 1) % 4096 })
      askNotify die slot u true
    mapQueues die slots qs
  | _, _ => pure ()

/-- Slots with the one mapped longest first, so that every valid queue has its turn (R268). -/
def placeTurn (x : Nat × QueueSlot) : List (Nat × QueueSlot) → List (Nat × QueueSlot)
  | [] => [x]
  | y :: r => if y.2.turn ≤ x.2.turn then y :: placeTurn x r else x :: y :: r
def byTurn (l : List (Nat × QueueSlot)) : List (Nat × QueueSlot) := l.foldl (fun acc x => placeTurn x acc) []

/-- `TIME_SLICE_EXPIRY` (R268, R269): where valid queues wait for a slot, or a mapped queue is valid no longer, the scheduler unmaps the queues that must make room, the longest mapped
first, and maps the next ones. -/
def execTimeSliceExpiry (s : State) : Step :=
  let name := "TIME_SLICE_EXPIRY"
  commit name (do
    let die := match s.input with | .one d => d | _ => 0
    let d := s.die die
    due name (dieReady s die && d.queueTable.isSome && decide (d.sliceEnds ≤ s.cycle))
    let want := mappable s die
    let free := (List.range 256).filter (fun i => (s.queueSlot? die i).isNone)
    let stale := (s.slotsOf die).filter (fun x => !x.2.stopped && !x.2.unmapping && !((userQueue s die x.2.queue).map (·.valid)).getD false)
    let turn := if free.length < want.length then (byTurn ((s.slotsOf die).filter (fun x => !x.2.stopped && !x.2.unmapping && !stale.contains x))).take (want.length - free.length) else []
    due name (!stale.isEmpty || !want.isEmpty && (!free.isEmpty || !turn.isEmpty))
    reportQueues die 0 4096
    forEach (stale ++ turn) (fun x => unmapSlot die x.1 x.2)
    let now ← look
    mapQueues die ((List.range 256).filter (fun i => (now.queueSlot? die i).isNone)) want
    modDie die (fun d => { d with sliceEnds := s.cycle + max 1 d.timeSlice })) s

/-- `NOTIFY_WRITE` (R372): an 8-byte write of the notify window fills the NOTIFY word of its queue as `STFF` at system scope; a narrower one is an Unsupported Request, and a row that is
not valid discards it. (DEDUCED: log 42) -/
def execNotifyWrite (s : State) : Step :=
  let name := "NOTIFY_WRITE"
  commit name (do
    let (off, width, data) := match s.input with | .three o w d => (o, w, d) | _ => (0, 0, 0)
    due name (s.mgmt.boot = .running)
    if width ≠ 8 || off % 8 ≠ 0 || 2 ^ 17 ≤ off then emit (.send (.completion false 0))
    else
      let die := off / 32768
      reportQueues die (off % 32768 / 8) 1
      match userQueue s die (off % 32768 / 8) with
      | none => pure ()
      | some u =>
        if !u.valid then pure ()
        else do
          if inWindow u.notify then emit (.send (.report "word not filled" u.ctx u.notify))
          else do
            -- behind the host's earlier notify writes
            let _ ← sendFill u.ctx (die * 512) u.notify data true ((s.reqs.filter (fun r => r.2.ask = .fill true)).map (·.1))) s

end Sys2Proof.Machine
end

