-- ==== Sys2Proof/Machine/Timing.lean ====
section
/-!
DEFINITION. Clocks and counted regions (R274-R282), digests (R283), replica groups and the halt of a job (R284, R285).
-/

namespace Sys2Proof.Machine

/-! ### Counting (R280-R282) -/

/-- `CYC` (R281). (DEDUCED: log 62) -/
def execCyc (gd : Guard) (d n : BitVec 4) (s : State) : Step :=
  issue { guard := gd, uses := fun _ => touchS d } (fun k _ => do
    let s ← look
    let c := coreCycle s (tileOf k)
    let x : Word := match n.toNat with
      | 0 => BitVec.ofNat 64 c
      | 1 => BitVec.ofNat 64 (c / 3)
      | 2 => BitVec.ofNat 64 (c % 64)
      | _ => (s.tile (tileOf k)).stretched
    modThread k (fun u => u.writeS d x)
    return .seq) s

/-- Every earlier long-latency instruction of the thread has completed, or the thread waits; a command whose token alone is pending has completed (R23, R226, R282). -/
def needCompleted (t : Thread) : Act Unit := if t.ops.all (fun o => o.token || !o.longLatency) then pure () else stop (.stall .earlier)

/-- `TFENCE.open` (R282). -/
def execTfenceOpen (gd : Guard) (s : State) : Step :=
  issue { guard := gd } (fun k t => do
    needCompleted t
    modThread k (fun u => { u with broken := false, inreg := true })
    return .seq) s

/-- `TFENCE.close` (R282). -/
def execTfenceClose (gd : Guard) (d : BitVec 4) (s : State) : Step :=
  issue { guard := gd, uses := fun _ => touchP d } (fun k t => do
    needCompleted t
    modThread k (fun u => { u.writeP d (!t.fixed || t.broken) with inreg := false })
    return .seq) s

/-- `DROOP_STRETCH` (R274): a cycle of an elastic tile is stretched; it still counts as one. -/
def execDroopStretch (s : State) : Step :=
  let name := "DROOP_STRETCH"
  commit name (do
    let n := match s.input with | .one n => n | _ => 0
    due name (decide (n < 2048) && !(s.tile n).fixed)
    modTile n (fun t => { t with stretched := t.stretched + 1 })) s

/-- `DETECTOR_TRIP` (R275): a cycle of a pinned tile is stretched, TIMING.BROKEN is set in every thread of the tile, one that moves between two of its cores too (R277), and the event is
reported. -/
def execDetectorTrip (s : State) : Step :=
  let name := "DETECTOR_TRIP"
  commit name (do
    let n := match s.input with | .one n => n | _ => 0
    due name (s.tile n).fixed
    modTile n (fun t => { t with stretched := t.stretched + 1 })
    forEach ((s.threads.filter (fun kt => tileOf kt.1 = n)).map (·.1)) (fun k => modThread k (fun t => { t with broken := true }))
    forEach (s.migrants.filter (fun m => m.2.source = n && tileOfCore m.2.target = n)) (fun m => emit (.migrant m.1 (some { m.2 with thread := { m.2.thread with broken := true } })))
    emit (.send (.report "detector trip" n 0))) s

/-! ### Digests (R283) -/

/-- `DIGEST` (R283): performed after every earlier access of its issuer. -/
def execDigest (gd : Guard) (d a b la : BitVec 4) (s : State) : Step :=
  issue { guard := gd, uses := fun _ => touches [touchS d, touchS a, touchS b] } (fun k t => do
    let table := t.readS a
    let out := t.readE 0
    let n := (t.readS b).toNat % 2 ^ 16
    needCanonical table
    needCanonical out
    require (decide (n ≤ 4096)) .protection (BitVec.ofNat 64 n)
    needAligned table 8
    needAligned out 8
    let op ← openOp k (touchS d) {} la
    sendReq k t op (.digest n out.toNat) ((if n = 0 then [] else [(table.toNat, 16 * n)]) ++ [(out.toNat, 64)]) (fun r => { r with d := d, rel := true, scope := .thread })
    return .seq) s

/-- The bytes of the regions of a table, in table order. -/
def readRegions (ctx core : Nat) : List (Nat × Nat) → Act (Except (Nat × Denied) (List Byte))
  | [] => return .ok []
  | (va, n) :: rest => do
    match ← engineBytes ctx core (tileOfCore core) va n with
    | .error e => return .error e
    | .ok x =>
      match ← readRegions ctx core rest with
      | .error e => return .error e
      | .ok l => return .ok (toBytes n x ++ l)

/-- The regions that a table of entries of 16 bytes names. -/
def regionsOf (n table : Nat) : List (Nat × Nat) :=
  (List.range n).map (fun i => (table / 2 ^ (128 * i) % 2 ^ 64, table / 2 ^ (128 * i + 64) % 2 ^ 64))

/-- A `DIGEST` that an access refuses: a page fault stops it, anything else ends it with a status (R146, R227, R283). -/
def denyDigest (r : Req) (va : Nat) (d : Denied) : Act Unit := do
  match d with
  | .pageFault _ => deny r va d
  | _ => complete r [.s r.d (tokenWord (deniedStatus d) va)]

/-- A `DIGEST` is performed: its regions are read, and its 64 bytes and its token are written (R283). -/
def arriveDigest (name : String) (r : Req) (n out : Nat) : Act Unit := do
  let table := if n = 0 then 0 else r.va
  match ← engineBytes r.ctx r.core r.tile table (16 * n) with
  | .error (va, d) => denyDigest r va d
  | .ok x =>
    let regions := regionsOf n x
    if regions.all (fun g => g.2 = 0 || inWindow g.1) then pure ()
    else match r.who with
      | .thread k => breakTiming k
      | _ => pure ()
    match ← readRegions r.ctx r.core regions with
    | .error (va, d) => denyDigest r va d
    | .ok m =>
      match ← reachAll r { write := true } (pieces [(out, 64)]) with
      | .error (va, d) => denyDigest r va d
      | .ok l =>
        due name (reservedIn (← look) l).isNone
        storePieces r l (shake256 m)
        complete r [.s r.d 0]

/-! ### The halt of a job (R285) -/

/-- Takes away what a stopped thread has waiting at homes, and lets its other requests be performed for nobody. -/
def orphanReq (r : Req) : Act Unit := do
  let drop := emit (.req r.id none)
  match r.stage with
  | .listed _ => do unlist r; drop
  | .heldBack => do
    unhold r
    drop
  | .taken _ _ => modReq r.id (fun q => { q with who := .gone })
  | .half _ => drop
  | .sent =>
    match r.ask with
    | .store | .scatter _ | .message _ _ _ _ _ | .jobsig _ | .tinv _ _ | .surfrel | .blend _ _ => modReq r.id (fun q => { q with who := .gone })
    | .fullEmpty op => if op.waits then drop else modReq r.id (fun q => { q with who := .gone })
    | _ => drop
  | _ => drop

/-- The faults on which a stopped thread waited are pending no longer. -/
def dropFaults (k : Nat) (reqs : List Nat) : Act Unit := do
  let l := (← look).faults
  emit (.faults (l.filter (fun f => match f.who with
    | .request r => !reqs.contains r
    | .fetch j _ => j ≠ k
    | .trapRecord j => j ≠ k
    | .eret j => j ≠ k
    | .gctx j => j ≠ k
    | _ => true)))

/-- The engine commands of a stopped thread: accepted ones run on for nobody, the others are gone (R285). -/
def orphanEngines (k : Nat) : Act Unit := do
  forEach (((← look).tiles.filter (fun t => !(t.2.copyQ ++ t.2.convQ ++ t.2.array.fifo).isEmpty || !t.2.rays.isEmpty)).map (·.1)) (fun n =>
    modTile n (fun t =>
      let f (q : List EngineCmd) : List EngineCmd := (q.filter (fun c => c.key ≠ k || c.accepted)).map (fun c => if c.key = k then { c with key := 2 ^ 40 } else c)
      { t with copyQ := f t.copyQ, convQ := f t.convQ, array := { t.array with fifo := f t.array.fifo },
               rays := t.rays.map (fun x => if x.key = k then { x with key := 2 ^ 40 } else x) }))

/-- A thread stops with no trap, and its slot is emptied (R285). -/
def haltThread (k : Nat) : Act Unit := do
  let s ← look
  match s.thread? k with
  | none => pure ()
  | some t =>
    match t.status with
    | .parked w => withdrawWait k w
    | _ => pure ()
    let rs := ownReqs s k
    forEach rs orphanReq
    dropFaults k (rs.map (·.id))
    orphanEngines k
    vacate k

/-- The threads of a job that are in slots. -/
def jobThreads (s : State) (job : Nat) : List Nat :=
  (s.threads.filter (fun kt => ((gridOf s kt.1).map (fun g => decide (g.2.packet.job = job))).getD false)).map (·.1)

/-- The threads of a job that are on their way between cores. -/
def jobMigrants (s : State) (job : Nat) : List (Nat × Migrant) :=
  s.migrants.filter (fun m => !m.2.thread.detached
    && (((mapGet m.2.thread.flask s.flasks).bind (fun f => mapGet f.grid s.grids)).map (fun g => decide (g.packet.job = job))).getD false)

/-- Halting a job on this module (R285). (DEDUCED: log 44) -/
def haltJob (job step : Nat) (digests : List (Nat × Nat)) : Act Unit := do
  let s ← look
  forEach (jobMigrants s job) (fun m => do
    emit (.migrant m.1 none)
    match m.2.parked with
    | some e => parkingRelease (m.2.target / 2048) e (migrantEntries m.2.hardware)
    | none => pure ()
    leaveUnits (travelKey m.1) m.2.thread
    -- a long-vector unit that it holds is free again (R114)
    modTile m.2.source (fun t => if t.unit = some (travelKey m.1) then { t with unit := none } else t)
    releaseTile m.2.source)
  forEach (jobThreads s job) haltThread
  forEach ((s.grids.filter (fun g => g.2.packet.job = job)).map (·.1)) (fun g => emit (.grid g none))
  forEach (s.dies.map (·.1)) (fun d => modDie d (fun x => { x with arrivals := x.arrivals.filter (fun a => a.packet.job ≠ job) }))
  match mapGet job (← look).jobs with
  | none => pure ()
  | some j => endJob job j true
  emit (.send (.report "job halted" job step))
  forEach digests (fun d => emit (.send (.report "digest" d.1 d.2)))

/-! ### Replica groups (R284) -/

/-- `STEPB` (R284). -/
def execStepb (gd : Guard) (d a b la : BitVec 4) (s : State) : Step :=
  issue { guard := gd, uses := fun _ => touches [touchS d, touchS a, touchS b] } (fun k t => do
    let va := t.readS a
    needCanonical va
    let op ← openOp k (touchS d) {} la
    sendReq k t op (.step ((t.readS b).toNat % 2 ^ 32)) (wordPieces va.toNat 64) (fun r => { r with d := d, rel := true, scope := .system })
    breakTiming k
    return .seq) s

/-- The outcome of a step reaches its waiting thread. -/
def stepOutcome (r : Req) (x : Word) : Act Unit := do
  complete r [.s r.d x]
  match r.who with
  | .thread k => do
    let s ← look
    modThread k (fun t => if t.status = .parked .step then { t with status := goOn s k t } else t)
  | _ => pure ()

/-- The digest that a strict majority of the members sent, if there is one (R284). -/
def majority (members : List Nat) (digests : List (Nat × Nat)) : Option Nat :=
  (digests.map (·.2)).find? (fun x => decide (members.length < 2 * (digests.filter (fun d => d.2 = x)).length))

/-- A group decides its step once it has every member's digest (R284). A member in the minority of three is halted, and the others go on as a group of two. (DEDUCED: log 43) -/
def decideStep (job : Nat) : Act Unit := do
  let s ← look
  match mapGet job s.replicas with
  | none => pure ()
  | some g =>
    if !g.members.all (fun m => (assocGet m g.digests).isSome) then pure ()
    else
      let own := (assocGet 0 g.digests).getD 0
      let answer (x : Word) : Act Unit := do
        match g.pending.bind (fun i => mapGet i s.reqs) with
        | some r => stepOutcome r x
        | none => pure ()
      let halt : Act Unit := do
        emit (.replica job none)
        haltJob job g.expected g.digests
      match majority g.members g.digests with
      | some x =>
        if x = own then do
          emit (.replica job (some { g with members := g.members.filter (fun m => assocGet m g.digests = some x), expected := g.expected + 1, pending := none, digests := [],
                                            disagreed := false, since := s.cycle }))
          answer 0
        else halt
      | none =>
        if g.disagreed then halt
        else do
          emit (.replica job (some { g with pending := none, digests := [], disagreed := true, since := s.cycle }))
          answer 1

/-- A `STEPB` is carried out: it ends at once, or sends its digest and waits (R284). -/
def arriveStep (name : String) (r : Req) (number : Nat) : Act Unit := do
  let s ← look
  match ← readPieces r.ctx r.core r.spans with
  | .error (va, d) => deny r va d
  | .ok l =>
    let job := match r.who with
      | .thread k => (gridOf s k).map (fun (g : Nat × Grid) => g.2.packet.job)
      | _ => none
    match job.bind (fun j => (mapGet j s.replicas).map (fun (g : Replica) => (j, g))) with
    | none => complete r [.s r.d 3]
    | some (j, g) =>
      if number ≠ g.expected || g.pending.isSome then complete r [.s r.d 2]
      else do
        due name (!signalsWait s j)
        let digest := joinBytes l
        forEach (g.members.filter (· ≠ 0)) (fun _ => emit (.send (.peerDigest j number digest)))
        emit (.replica j (some { g with pending := some r.id, digests := assocPut 0 digest g.digests }))
        modReq r.id (fun q => { q with stage := .accepted })
        match r.who with
        | .thread k => modThread k (fun t => match t.status with
          | .active => { t with status := .parked .step }
          | .waiting .quit => t
          | .waiting .yield => t
          | .waiting _ => { t with status := .parked .step }
          | _ => t)
        | _ => pure ()
        decideStep j

/-- `PEER_DIGEST_ARRIVAL` (R284). -/
def execPeerDigestArrival (s : State) : Step :=
  let name := "PEER_DIGEST_ARRIVAL"
  commit name (do
    let (job, member, digest) := match s.input with | .three j m d => (j, m, d) | _ => (0, 0, 0)
    match mapGet job s.replicas with
    | none => stop (.refused (.eventNotDue name))
    | some g =>
      due name (member ≠ 0 && g.members.contains member && (mapGet member g.digests).isNone && !signalsWait s job)
      emit (.replica job (some { g with digests := mapPut member (digest % 2 ^ 512) g.digests }))
      decideStep job) s

/-- `MEMBER_TIMEOUT` (R284): a member that has issued no `STEPB` within the timeout is lost. A lost member of a group of two halts the job on itself too. (DESIGN CHOICE: log 96) -/
def execMemberTimeout (s : State) : Step :=
  let name := "MEMBER_TIMEOUT"
  commit name (do
    let (job, member) := match s.input with | .two j m => (j, m) | _ => (0, 0)
    match mapGet job s.replicas with
    | none => stop (.refused (.eventNotDue name))
    | some g =>
      due name (g.members.contains member && (mapGet member g.digests).isNone && decide (g.timeout ≤ s.cycle - g.since) && !signalsWait s job)
      if member = 0 || g.members.length ≤ 2 then do
        emit (.replica job none)
        haltJob job g.expected g.digests
      else do
        emit (.replica job (some { g with members := g.members.filter (· ≠ member) }))
        decideStep job) s

end Sys2Proof.Machine
end

