-- ==== Sys2Proof/Machine/Arrival.lean ====
section
/-!
DEFINITION. The events of requests at their homes: arrival (R164), puts (R174), writebacks (R23), waits that expire and their withdrawal (R172, R173), and resends (R171).
-/

namespace Sys2Proof.Machine

/-- A request makes its accesses apart, word by word or lane by lane (R123, R127, R350). -/
def Ask.inParts : Ask → Bool
  | .store => true
  | .scatter _ => true
  | .gather _ => true
  | .coef _ => true
  | .scene _ _ _ => true
  | .texture _ _ => true
  | _ => false

/-- What a request does when it arrives, as a whole or one of its accesses; the rows of chapter 12 for `RMSG`, `WQASK` and `WQPUT` stand elsewhere. -/
def arrival (name : String) (r : Req) (part : Option Nat) : Act Unit := do
  due name (part.isNone || r.ask.inParts)
  match r.ask with
  | .launch die p => arriveLaunch r die p
  | .jobsig job => arriveJobsig name r job
  | .digest n out => arriveDigest name r n out
  | .step n => arriveStep name r n
  | .list _ => arriveList r
  | .scene form ray rel => arriveScene r form ray rel part
  | .texture linear v => arriveTexture r linear v part
  | .surfrel => arriveSurface r true
  | .surfacq => arriveSurface r false
  | .blend n v => arriveBlend r n v
  | .addRow peer bf16 => arriveAdds r peer bf16
  | .message _ _ _ _ _ => stop (.refused (.eventNotDue name))
  | .wqask _ => stop (.refused (.eventNotDue name))
  | .wqput _ _ _ => stop (.refused (.eventNotDue name))
  | _ => arrive r part

/-- A request has used a translation for an access that is not performed yet, or for one of several: an atomic that waits in the ordered buffer, or between its take and its put, or an `LDP` between its halves. -/
def Req.underWay (r : Req) : Bool :=
  match r.stage with
  | .taken _ _ => true
  | .buffered _ _ => true
  | .half _ => r.ask = .loadPair
  | _ => false

/-- An access of a context is under way through the page of an address, or through any: a request's, or that of a blend that has been accepted. `CCTL.tinv` completes after every access that has
used an old entry (R159). -/
def usedIn (s : State) (ctx : Nat) (va : Option Nat) : Bool :=
  let covered (b : Nat) (page : Nat × Nat) : Bool := match va with
    | none => true
    | some a => a / 65536 = b / 65536 || (decide (page.1 ≤ a) && decide (a < page.1 + page.2))
  s.reqs.any (fun q => q.2.ctx = ctx && (q.2.underWay && covered q.2.va q.2.page || (q.2.parts ++ q.2.reached).any (fun p => covered p.va p.page)))
    || s.blends.any (fun b => b.ctx = ctx && covered b.va b.page)
    || s.tiles.any (fun t => t.2.array.fifo.any (fun c => c.ctx = ctx && c.parts.any (fun p => covered p.va p.page)))

/-- `REQUEST_ARRIVAL` (R164): a request arrives once everything that goes before it has been performed (R153, R187, R394); with an index, one of the accesses that it makes apart is performed,
which waits for its thread's earlier accesses to its own words alone (R123, R153). -/
def execRequestArrival (s : State) : Step :=
  let name := "REQUEST_ARRIVAL"
  commit name (do
    let (i, part) := match s.input with
      | .one i => (i, none)
      | .two i j => (i, some j)
      | _ => (0, none)
    let r ← needReq name i
    due name ((match r.stage with | .sent => true | .half _ => true | _ => false) && (outstanding s r.after).isEmpty)
    match r.ask with
    | .tinv ctx va => due name (!usedIn s ctx va)
    | _ => pure ()
    match r.who with
    | .thread k => settleOwed k
    | _ => pure ()
    let mine := match r.stage with
      | .half _ => []
      | _ => match part.bind (fun j => r.reads[j]?) with
        | some p => [p]
        | none => r.left
    due name (!ownEarlier s r mine)
    arrival name r part) s

/-- `PUT` (R174): the core's atomic unit puts the new value back. -/
def execPut (s : State) : Step :=
  let name := "PUT"
  commit name (do
    let i := match s.input with | .one i => i | _ => 0
    let r ← needReq name i
    match r.stage, r.ask with
    | .taken old rk, .atomic op => do
      let (x, fl) := amoNew op old.toNat r.data r.cmp r.va r.rmode
      let key := locate s rk
      poke key 8 x
      if inWindow r.va then pure () else l1Update r.core r.ctx (wordOf r.va) 8 x
      complete r ([.s r.d old] ++ (if op.flags then [.flags fl] else []))
      afterPut r rk key
    | _, _ => stop (.refused (.eventNotDue name))) s

/-- `WRITEBACK` (R23): a finished operation writes its destinations. -/
def execWriteback (s : State) : Step :=
  let name := "WRITEBACK"
  commit name (do
    let (k, op) := match s.input with | .two k op => (k, op) | _ => (0, 0)
    let t ← needThread name k
    match (t.ops.find? (·.id = op)).bind (fun o => o.result.map (fun r => (o, r))) with
    | some (o, r) => writeback k op o r
    | none => stop (.refused (.eventNotDue name))) s

/-- The stages in which WAITLIM times a request: on a list or in the ordered buffer, and a blend or `SURFREL` that is not yet accepted (R172, R177, R366, R367). -/
def Req.timed (r : Req) : Bool :=
  match r.stage with
  | .listed _ => true
  | .buffered _ _ => true
  | .sent => (match r.ask with | .blend _ _ => true | .surfrel => true | _ => false)
  | _ => false

/-- The wait of a thread at an instruction expires: the cause's ADDR and the instruction's lookahead, and what the wait leaves behind; none: it is not timed (R67, R172, R250, R360). -/
def expiryOf (t : Thread) : Option (Word × Nat) :=
  match t.status with
  | .parked (.barrier _ _ _) => some (0, 0)
  | .parked (.sem _ n) => some (BitVec.ofNat 64 n, 0)
  | .waiting (.group la va _) => some (va, la)
  | _ => none

/-- `WAITLIM_EXPIRY` (R172): a withdraw goes to the home of a request that has waited LIMIT cycles, and a wait at an instruction ends with WAIT_EXPIRED. -/
def execWaitlimExpiry (s : State) : Step :=
  let name := "WAITLIM_EXPIRY"
  commit name (do
    match s.input with
    | .two k op =>
      match (ownReqs s k).find? (·.op = op) with
      | none => stop (.refused (.eventNotDue name))
      | some r => do
        due name (r.waitlim ≠ 0 && decide (r.waitlim ≤ cyclesFrom r.issued (r.clock s)) && r.timed && !r.expiring && (faultOf s k).isNone)
        modReq r.id (fun q => { q with expiring := true })
    | .one k => do
      let t ← needThread name k
      match expiryOf t, t.waitSince with
      | some (addr, la), some (_, c) => do
        due name (t.waitlim ≠ 0 && decide (t.waitlim.toNat ≤ cyclesFrom c (coreCycle s (tileOf k))) && (faultOf s k).isNone)
        match t.status with
        | .parked w => withdrawWait k w
        | _ => pure ()
        if la = 0 then do
          -- a page fault that rests on the thread is resolved first (R47)
          let r := preciseTrap t t.word .waitExpired addr
          let u := { t with entering := some r }
          modThread k (fun t => { t with status := goOn s k u, waitSince := none, entering := some r })
          if goOn s k u = .waiting .trapEntry then enterTrap k r false else pure ()
        else do
          -- the instruction has issued as far as its window goes (R172)
          let id ← freshId
          modThread k (fun u => { u.ticked.setPc (t.pc + 4) with status := goOn s k u, waitSince := none, due := assocPut id (deferredAt t.pc t.word .waitExpired addr 0) u.due })
      | _, _ => stop (.refused (.eventNotDue name))
    | _ => stop (.refused (.eventNotDue name))) s

/-- `WITHDRAW` (R172, R173): the home removes an unserved waiter. For a blend and a `SURFREL` the spec names no ADDR, which is free (log 4). -/
def execWithdraw (s : State) : Step :=
  let name := "WITHDRAW"
  commit name (do
    let i := match s.input with | .one i => i | _ => 0
    let r ← needReq name i
    due name (r.expiring && r.timed)
    let addr ← match r.stage with
      | .sent => do
        let n ← freshFree
        pure (Config.freeWord n).toNat
      | _ => pure (wordOf r.va)
    match r.stage with
    | .listed _ => unlist r
    | _ => pure ()
    fail r .waitExpired addr 0 (fun o => o.la = 0)) s

/-- `RESEND` (R171): a refused request is sent again. -/
def execResend (s : State) : Step :=
  let name := "RESEND"
  commit name (do
    let i := match s.input with | .one i => i | _ => 0
    let r ← needReq name i
    match r.stage with
    | .refused since => do
      due name (decide (Config.resendCycles ≤ cyclesFrom since (r.clock s)))
      modReq i (fun q => { q with stage := .sent, resends := q.resends + 1 })
    | _ => stop (.refused (.eventNotDue name))) s

end Sys2Proof.Machine
end

