-- ==== Sys2Proof/Machine/Fettler.lean ====
section
/-!
DEFINITION. Trap instructions (R291, R292), trap entry as an event (R286), the resume port (R146, R147, R149), and the Fettler: spills, restores, discards, the watchdog, slot-state errors
and sparing (R294-R305).
-/

namespace Sys2Proof.Machine

/-! ### Trap instructions (R291, R292) -/

/-- A trap that resumes after its 32-bit instruction (R288). -/
def trapPast (t : Thread) (insn : BitVec 32) (c : Cause) (addr : Word) : TrapReq := { preciseTrap t insn c addr with resume := some (t.pc + 4) }

/-- `TRAP` (R291, R292): it issues, and its effect is the entry of its trap. -/
def execTrap (gd : Guard) (a : BitVec 4) (s : State) : Step :=
  issue { guard := gd, uses := fun _ => touchS a } (fun k t => do
    enterTrap k (trapPast t (← look).insn .soft (t.readS a)) false
    return .hold) s

/-- `BRK` (R291, R292). -/
def execBrk (gd : Guard) (s : State) : Step :=
  issue { guard := gd } (fun k t => do
    enterTrap k (trapPast t (← look).insn .brk 0) false
    return .hold) s

/-- `ERET` (R292): it writes s13 and every predicate, and waits for what will still write them (R73). -/
def execEret (gd : Guard) (s : State) : Step :=
  issue { guard := gd, uses := fun _ => { s := 0x2000, p := 0xFFFF } } (fun k t => do
    require t.intrap .protection 0
    if eretWaits (← look) k t then stop (.stall .eret)
    else do
      returnFromTrap k false
      return .hold) s

/-- `HALT` (R292): the saved PC is the next instruction's; in the runner slot the handler ends as by `QUIT`. -/
def execHalt (gd : Guard) (s : State) : Step :=
  issue { guard := gd } (fun k t => do
    modThread k (fun u => u.setPc (t.pc + 4))
    stopThread k 1 (t.pc + 4)
    return .hold) s

/-- `TRAP_ENTRY` (R286, R289): a trap that waits to be entered goes on, or a thread that would issue takes a trap that is due. -/
def execTrapEntry (s : State) : Step :=
  let name := "TRAP_ENTRY"
  commit name (do
    let k := match s.input with | .one k => k | _ => 0
    let t ← needThread name k
    match t.status, t.entering, nextTrap t with
    | .waiting .trapEntry, some r, _ => enterTrap k r false
    | .active, _, (some r, u) => do
      due name (t.forfeits = 0 && !t.blocked)
      emit (.thread k (some u))
      enterTrap k r false
    | _, _, _ => stop (.refused (.eventNotDue name))
    -- a wait for the same writebacks or accesses as before is no event
    due name (match (← look).thread? k with | some u => !(t.status = .waiting .trapEntry && u.status = .waiting .trapEntry) | none => true)) s

/-! ### The resume port (R146, R147, R149) -/

/-- The thread that a fault keeps waiting, or whose engine command it stops (R149); a copy or conversion command and a traversal run on for a spilled issuer. -/
def faultThread (s : State) (f : PageFault) : Option Nat :=
  match f.who with
  | .request r => (match mapGet r s.reqs with | some q => (match q.who with | .thread k => some k | _ => none) | none => none)
  | .fetch k _ => some k
  | .trapRecord k => some k
  | .eret k => some k
  | .gctx k => some k
  | .engine tile 2 => ((s.tile tile).array.fifo.find? (·.stopped)).map (·.key)
  | _ => none

/-- The count from which a wait is timed, after `d` cycles in which it was not: a wait that began in them begins now. -/
def pastFaults (now d since : Nat) : Nat := if cyclesFrom since now ≤ d then now else (since + d) % 2 ^ 64

/-- WAITLIM counts on for a thread on which no page fault rests any more (R146). -/
def endFaults (k : Nat) : Act Unit := do
  let s ← look
  match (s.thread? k).bind (·.faultSince) with
  | none => pure ()
  | some c =>
    if (faultOf s k).isSome then pure ()
    else do
      let now := coreCycle s (tileOf k)
      let past := pastFaults now (cyclesFrom c now)
      forEach (ownReqs s k) (fun r => modReq r.id (fun q => { q with issued := past q.issued }))
      modThread k (fun t => { t with faultSince := none, waitSince := t.waitSince.map (fun w => (w.1, past w.2)) })

/-- After an answer: a thread that a page fault has kept PARKED goes on when no other rests on it, and one that has gone on is PARKED while another does (R146). -/
def unparkFault (k : Nat) : Act Unit := do
  endFaults k
  let s ← look
  match s.thread? k with
  | none => pure ()
  | some t =>
    let go := emit (.thread k (some { t with status := goOn s k t }))
    match t.status with
    | .parked .fault => go
    | .active => go
    | .waiting .trapEntry => go
    | _ => pure ()

/-- A deferred PROTECTION of a thread that names no operation in flight. -/
def dueProtection (k : Nat) (pc : Word) (insn : BitVec 32) (addr : Nat) : Act Unit := do
  let id ← freshId
  modThread k (fun t => { t with due := assocPut id (deferredAt pc insn .protection (BitVec.ofNat 64 addr) 0) t.due })

/-- An answer is carried out for one fault: reissue performs the access again, convert makes it fail (R146, R228, R292, R334). (DEDUCED: log 55) -/
def answerFault (f : PageFault) (convert : Bool) : Act Unit := do
  let s ← look
  emit (.faults (s.faults.filter (· ≠ f)))
  match f.who with
  | .request i =>
    match mapGet i s.reqs with
    | none => pure ()
    | some r => do
      match r.who with
      | .engine tile op => modUpdating tile op (fun c => { c with stopped := false })
      | _ => pure ()
      if !convert then modReq i (fun q => { q with stage := .sent })
      else match r.ask with
        | .digest _ _ => denyDigest r f.va .protection
        | .addRow peer _ => endAdds r peer 1 f.va (r.cmp.extractLsb' 0 5)
        | _ => deny r f.va .protection
  | .fetch k low => do
    modThread k (fun t => { t with fetchFault := none })
    if convert then dueProtection k f.pc (← unfetched low) f.pc.toNat else pure ()
  | .trapRecord k =>
    match (s.thread? k).bind (·.entering) with
    | some r => enterTrap k r convert
    | none => pure ()
  | .eret k => returnFromTrap k convert
  | .gctx k => do
    if convert then do
      dueProtection k f.pc (((s.thread? k).map (·.word)).getD 0) f.va
      modThread k (fun t => t.setPc (f.pc + 4))
    else pure ()
  | .engine tile e => modTile tile (fun t => setEngineQ e ((engineQ t e).map (fun c =>
      if c.stopped then { c with stopped := false, converted := convert, refused := if convert then some (1, f.va) else c.refused } else c)) t)
  | .traversal tile op => answerRay tile op convert f.va
  match faultThread s f with
  | some k => unparkFault k
  | none => pure ()

/-- An answer reaches a fault; while its thread is SPILLED it is recorded, in ANS of the save area where that shows no answer yet (R149). -/
def resumeFault (f : PageFault) (convert : Bool) : Act Unit := do
  let s ← look
  let spilled := (faultThread s f).bind (fun k => (s.thread? k).bind (fun t => if t.status = .spilled then some k else none))
  match spilled with
  | some k =>
    if f.answer ≠ 0 then pure ()
    else do
      let code := if convert then 2 else 1
      let shown := bits (peekSave s k 456 8) 55 54 = 0
      emit (.faults (s.faults.map (fun g => if g = f then { g with answer := if shown then code + 4 else code } else g)))
      if shown then maskSave k 456 8 0 (code * 2 ^ 54)
      else do
        let _ ← readSave k 456 8
        pure ()
  | none => answerFault f convert

/-- A full write of the resume port: the die reads CONS again, and an answer goes to every pending fault that it matches (R147). -/
def resumeWith (name : String) (convert : Bool) : State → Step := fun s =>
  commit name (do
    match s.input with
    | .answer die tid ctx kind va => do
      due name (decide (die < 4) && s.mgmt.boot = .running)
      forEach (s.faults.filter (fun f => f.die = die && f.tid % 2 ^ 26 = tid && f.ctx % 2 ^ 12 = ctx && f.kind = kind && f.va = va)) (fun f => resumeFault f convert)
      pumpRing die
    | _ => stop (.refused (.eventNotDue name))) s

/-- `RESUME_NONE` (R147). -/
def execResumeNone (s : State) : Step :=
  let name := "RESUME_NONE"
  commit name (do
    let die := match s.input with | .one d => d | _ => 0
    due name (decide (die < 4) && s.mgmt.boot = .running)
    pumpRing die) s

/-- `RESUME_REISSUE` (R146, R147). -/
def execResumeReissue (s : State) : Step := resumeWith "RESUME_REISSUE" false s

/-- `RESUME_CONVERT` (R146, R147). -/
def execResumeConvert (s : State) : Step := resumeWith "RESUME_CONVERT" true s

/-- `REGISTER_WRITE` (R147): a write that no row of its own takes, such as a narrow one to the resume port, completes as an Unsupported Request and changes nothing. -/
def execRegisterWrite (s : State) : Step :=
  let name := "REGISTER_WRITE"
  commit name (do
    due name (s.mgmt.boot ≠ .off)
    emit (.send (.completion false 0))) s

/-! ### Spill port (R295, R296, R300) -/

/-- The slot that a request names: its thread is there under that TID, in a general slot. -/
def slotNamed (s : State) (die tid : Nat) : Option (Nat × Thread) :=
  let k := tid % 2 ^ 18
  match s.thread? k with
  | some t => if tidOf k t = tid && dieOf k = die && !isRunner k then some (k, t) else none
  | none => none

/-- A refused request. Its notice names the save area of the general slot of the die that the TID names and, of a thread that is there, the context and, if it is SPILLED, the saved PC; what the
notice holds beside these, the reason and the TID is free (R294, R295; log 4). (DESIGN CHOICE: log 26) -/
def refuseRequest (die tid : Nat) : Act Unit := do
  let a ← freshFree
  let b ← freshFree
  let s ← look
  let here := slotNamed s die tid
  let k := tid % 2 ^ 18
  let area := (if dieOf k = die && decide (slotOf k < 16) then saveArea s k else none).getD (Config.freeWord a).toNat
  let ctx := (here.map (fun x => x.2.ctx)).getD ((Config.freeWord b).toNat % 4096)
  let pc ← match here with
    | some (k, t) => if t.status = .spilled then readSave k 0 8 else pure (Config.freeWord b).toNat
    | none => pure (Config.freeWord b).toNat
  owe die (recordBytes area tid 6 8 ctx pc)

/-- A spill-port request with the die and the TID it names. -/
def spillPort (name : String) (body : Nat → Thread → Act Bool) : State → Step := fun s =>
  commit name (do
    let (die, tid) := match s.input with | .two d t => (d, t) | _ => (4, 0)
    due name (decide (die < 4) && s.mgmt.boot = .running)
    let done ← match slotNamed s die tid with
      | some (k, t) => body k t
      | none => pure false
    if done then pure () else refuseRequest die tid) s

/-- `SPILL` (R296). -/
def execSpill (s : State) : Step :=
  spillPort "SPILL" (fun k t => do
    match t.status with
    | .spilled => return false
    | .leaving _ => return false
    | _ => do
      spillThread k 0
      return true) s

/-- A thread's registers as its save area holds them (R297, R298, R300). -/
def reload (s : State) (k : Nat) (t : Thread) : Thread :=
  let w (off : Nat) : Word := BitVec.ofNat 64 (peekSave s k off 8)
  let st := (w 456).toNat
  let t := (t.setPc (w 0)).setPredWord (w 448 |>.extractLsb' 0 16)
  let t := (List.range 15).foldl (fun t i => t.writeS (BitVec.ofNat 4 (i + 1)) (w (8 * (i + 1)))) t
  let t := (List.range 8).foldl (fun t i => (t.writeV (BitVec.ofNat 4 i) (BitVec.ofNat 256 (peekSave s k (128 + 32 * i) 32))).writeE (BitVec.ofNat 3 i) (w (384 + 8 * i))) t
  { t with
    waitlim := (w 464).extractLsb' 0 32, retrylim := (w 464).extractLsb' 32 16, trapvec := w 472, traprec := w 480, fmta := w 488, fmtb := w 496, fmts := w 504
    intrap := bits st 59 59 = 1, coefbase := BitVec.ofNat 11 (bits st 44 34), approx := maskApprox (BitVec.ofNat 9 (bits st 33 25)), broken := t.fixed || bits st 14 14 = 1
    inreg := bits st 13 13 = 1, wake := bits st 11 11 = 1, div0 := bits st 10 10 = 1, prio := BitVec.ofNat 2 (bits st 9 8), rmode := BitVec.ofNat 2 (bits st 7 6)
    flags := BitVec.ofNat 5 (bits st 4 0) }

/-- How a restored thread goes on: the wait it was in (R300). A `BARC` or `BARF` whose phase has completed is skipped. -/
def restoreWait (k : Nat) (st : Nat) (wait : Option Park) : Act Unit := do
  match (← look).thread? k with
  | none => pure ()
  | some t =>
    match wait with
    | some (.barrier flask _ true) =>
      if bits st (if flask then 58 else 57) (if flask then 58 else 57) = 1 then do
        let x := barrierOf (← look) k t flask
        modThread k (fun u => setFlagsAt flask { flagsAt flask u with outstanding := false } (u.ticked.setPc (u.pc + 4)))
        acquireFrom k x.prev (barrierScope t flask)
      else pure ()
    | _ => pure ()
    -- the page faults are dealt with by their answers
    let s ← look
    modThread k (fun u => { u with status := goOn { s with faults := [] } k u })

/-- The answer that a restore finds for a fault of a spilled thread: ANS of the save area, which software may have changed, for the fault whose answer it shows, or for the first fault when
it shows none; what was recorded for the others (R149, R300). -/
def answerFor (own : List PageFault) (ans : Nat) (f : PageFault) : Nat :=
  if decide (4 ≤ f.answer) || (own.all (fun g => decide (g.answer < 4)) && own.head? = some f) then ans % 3 else f.answer

/-- The page faults of a restored thread: those answered are carried out, and the thread is PARKED on the others (R149, R300). -/
def restoreFaults (k : Nat) (st : Nat) : Act Unit := do
  let s ← look
  let own := s.faults.filter (fun f => faultThread s f = some k)
  let answers := own.map (fun f => (f, answerFor own (bits st 55 54) f))
  if bits st 53 53 = 1 && answers.any (·.2 = 0) then modThread k (fun t => { t with status := .parked .fault }) else pure ()
  emit (.faults (s.faults.map (fun f => if answers.any (fun a => a.1 = f && a.2 = 0) then { f with answer := 0 } else f)))
  forEach (answers.filter (·.2 ≠ 0)) (fun a => answerFault a.1 (a.2 = 2))

/-- A spilled thread is put back into its slot (R300). A withdrawn request that is sent again counts its resends afresh, as its instruction would (R171, R173). A word of the save
area that is in error is reported and loaded as it is (R304). (DESIGN CHOICE: log 75, 76) -/
def restoreThread (k : Nat) : Act Unit := do
  let s ← look
  match s.thread? k with
  | none => pure ()
  | some t => do
    discardAll (coreOf k) l1Flush
    match saveArea s k with
    | some a => reportErrors a 512
    | none => pure ()
    let st := peekSave s k 456 8
    emit (.thread k (some { reload s k t with status := .active, spill := none, waitSince := none, lastIssue := t.lastIssue }))
    forEach ((ownReqs s k).filter (fun r => r.stage = .withdrawn)) (fun r => modReq r.id (fun q => { q with stage := .sent, issued := coreCycle s (tileOf k), resends := 0, expiring := false }))
    notice k (tidOf k t) 7 ((saveArea s k).getD 0) t.ctx (BitVec.ofNat 64 (peekSave s k 0 8))
    restoreWait k st (t.spill.bind (·.wait))
    restoreFaults k st

/-- `RESTORE` (R300). -/
def execRestore (s : State) : Step :=
  spillPort "RESTORE" (fun k t => do
    if t.status = .spilled then do
      restoreThread k
      return true
    else return false) s

/-- `DISCARD` (R295): the slot empties, as after `QUIT`, once the completions that are still to come have arrived; withdrawn requests and the thread's own page faults end. The answers that have
come meanwhile for its other page faults are carried out, so that those accesses complete (R149). Until the slot empties a `SPILL` is accepted as for a thread in its `QUIT`. (DESIGN CHOICE: log 98) -/
def execDiscard (s : State) : Step :=
  spillPort "DISCARD" (fun k t => do
    if t.status = .spilled then do
      let gone := (ownReqs s k).filter (fun r => r.stage = .withdrawn)
      forEach gone (fun r => emit (.req r.id none))
      dropFaults k []
      modThread k (fun u => { u with status := .waiting .quit, spill := none, entering := none, due := [], heldTraps := [],
                                     ops := u.ops.filter (fun o => !gone.any (fun r => r.op = o.id)) })
      let s ← look
      forEach (s.faults.filter (fun f => faultThread s f = some k && f.answer % 4 ≠ 0)) (fun f => answerFault f (f.answer % 4 = 2))
      return true
    else return false) s

/-! ### Watchdog, slot state, sparing (R301, R304, R305) -/

/-- The watchdog stops a member of a flask that is in a slot (R301). -/
def watchdogStop (k : Nat) : Act Unit := do
  match (← look).thread? k with
  | some t => (match t.status with
    | .leaving _ => pure ()
    | .spilled => pure ()
    | _ => stopThread k 5 t.pc)
  | none => pure ()

/-- `WATCHDOG_EXPIRY` (R301): every member in a slot is stopped; one on its way between cores is in none. A detached thread is a flask of its own (R52). The count starts again from 0 as
it fires. (DESIGN CHOICE: log 80) -/
def execWatchdogExpiry (s : State) : Step :=
  let name := "WATCHDOG_EXPIRY"
  commit name (do
    match s.input with
    | .one n =>
      match mapGet n s.flasks with
      | none => stop (.refused (.eventNotDue name))
      | some f =>
        let limit := ((mapGet f.grid s.grids).map (fun g => (s.settings (dieOfTile (f.cluster * 8)) g.ctx).wdlim)).getD 0
        due name (limit ≠ 0 && decide (limit ≤ f.idle))
        emit (.flask n (some { f with idle := 0 }))
        forEach (flaskMembers s n) watchdogStop
    | .two k _ => do
      let t ← needThread name k
      let limit := (s.settings (dieOf k) t.ctx).wdlim
      due name (t.detached && !isRunner k && limit ≠ 0 && decide (limit ≤ t.idle))
      modThread k (fun u => { u with idle := 0 })
      watchdogStop k
    | _ => stop (.refused (.eventNotDue name))) s

/-- `SLOT_STATE_ERROR` (R304): the thread stops with reason MCHECK; its save area holds whatever could be read, which is free (log 4). -/
def execSlotStateError (s : State) : Step :=
  let name := "SLOT_STATE_ERROR"
  commit name (do
    let k := match s.input with | .one k => k | _ => 0
    let t ← needThread name k
    due name (t.status ≠ .spilled)
    stopAs k 6 t.pc true
    emit (.send (.report "slot state error" k 0))) s

/-- Jobs with a thread on a tile. -/
def jobsOn (s : State) (tile : Nat) : List Nat :=
  ((s.threads.filter (fun kt => tileOf kt.1 = tile)).filterMap (fun kt => (gridOf s kt.1).map (fun (g : Nat × Grid) => g.2.packet.job))).eraseDups

/-- `TILE_SPARING` (R305): once the tile's handlers have ended, no thread is leaving and the array has completed its commands (R223), every slot is spilled and restored onto the spare under its own number. If the spare is in use or
fails (which the spec leaves open; log 4), the tile's jobs are halted. A slot that is SPILLED already stays so, with no notice. (DESIGN CHOICE: log 99) -/
def execTileSparing (s : State) : Step :=
  let name := "TILE_SPARING"
  commit name (do
    let n := match s.input with | .one n => n | _ => 0
    let own := s.threads.filter (fun kt => tileOf kt.1 = n)
    due name (decide (n < 2048) && s.mgmt.boot = .running)
    due name (own.all (fun kt => !isRunner kt.1 && (match kt.2.status with | .leaving _ => false | _ => true)) && (s.tile n).array.fifo.isEmpty)
    let cl := clusterOfTile n
    let i ← freshFree
    if (s.cluster cl).spareFor.isSome || Config.freeBit i then do
      forEach (jobsOn s n) (fun j => do
        haltJob j 0 []
        emit (.send (.report "job halted by sparing" j n)))
    else do
      modCluster cl (fun c => { c with spareFor := some n })
      let moved := (own.filter (fun kt => kt.2.status ≠ .spilled)).map (·.1)
      forEach moved (fun k => spillThread k 9)
      forEach moved restoreThread) s

end Sys2Proof.Machine
end

