-- ==== Sys2Proof/Machine/Outside.lean ====
section
/-!
DEFINITION. The host link, the ports, boot and attestation, the mailbox commands of system software, power and the tray (R371-R381, R393).
-/

namespace Sys2Proof.Machine

/-! ### Host accesses (R371, R372) -/

/-- A word of a physical byte range is reserved at some home, so that a write waits (R167). (DEDUCED: log 50) -/
def reservedBytes (s : State) (a n : Nat) : Bool :=
  s.holds.any (fun h => h.2.resv.isSome && !onTile h.1 && decide (h.1 % 2 ^ 58 < a + n) && decide (a < h.1 % 2 ^ 58 + 8))

/-- A host access to HBM by physical address, which no L1 sees (R371, R372). An access that leaves HBM completes as an Unsupported Request; a read of a spoiled word is reported (R304) and returns a free value. (DESIGN CHOICE: log 49) -/
def hostAccess (name : String) (up : State → Bool) : State → Step := fun s =>
  commit name (do
    match s.input with
    | .access write pa n data => do
      due name (s.mgmt.boot = .running && up s && decide (0 < n))
      if Config.hbmBytes < pa + n then emit (.send (.completion false 0))
      else if write then do
        due name (!reservedBytes s pa n)
        pokePhysical (hbmKey pa) n data
        emit (.send (.completion true 0))
      else if spoiled s (hbmKey pa) n then do
        reportErrors pa n
        let i ← freshFree
        emit (.send (.completion true (Config.freeWord i).toNat))
      else emit (.send (.completion true (peek s.mem (hbmKey pa) n)))
    | _ => stop (.refused (.eventNotDue name))) s

/-- `HOST_APERTURE_ACCESS` (R372). -/
def execHostApertureAccess (s : State) : Step := hostAccess "HOST_APERTURE_ACCESS" (fun _ => true) s

/-- `CXL_MEM_ACCESS` (R371): only where the link trained with CXL. -/
def execCxlMemAccess (s : State) : Step := hostAccess "CXL_MEM_ACCESS" (fun s => s.mgmt.trained && s.mgmt.cxl ≠ 0) s

/-- `NOTIFY_WINDOW_READ` (R372). -/
def execNotifyWindowRead (s : State) : Step :=
  let name := "NOTIFY_WINDOW_READ"
  commit name (do
    due name (s.mgmt.boot = .running)
    emit (.send (.completion false 0))) s

/-- What a host link may train to (R371). -/
def linkOk (gen width cxl : Nat) : Bool := [5, 6, 7].contains gen && [8, 16].contains width && [0, 20, 31].contains cxl

/-- A link without CXL leaves no MT 1 page usable: translations and cached data of such pages go, and the node caches, which do not keep the type of a page (R371). -/
def dropHost : Act Unit := do
  let s ← look
  forEach s.tlb (fun c => emit (.tlb c.1 { first := c.2.first.filter (fun t => t.leaf.mt ≠ 1), last := c.2.last.filter (fun t => t.leaf.mt ≠ 1) }))
  forEach s.cores (fun c => if c.2.l1.any (·.host) then emit (.core c.1 { c.2 with l1 := c.2.l1.filter (fun l => !l.host) }) else pure ())
  forEach s.tiles (fun t => if t.2.nodes.isEmpty then pure () else emit (.tile t.1 { t.2 with nodes := [] }))

/-- `LINK_TRAINING` (R371). -/
def execLinkTraining (s : State) : Step :=
  let name := "LINK_TRAINING"
  commit name (do
    match s.input with
    | .three gen width cxl => do
      due name (s.mgmt.boot ≠ .off && linkOk gen width cxl)
      if cxl = 0 then dropHost else pure ()
      modMgmt (fun m => { m with trained := true, pcieGen := gen, width := width, cxl := cxl })
    | _ => stop (.refused (.eventNotDue name))) s

/-! ### Ports (R373, R375) -/

/-- Changes a port. -/
def modPort (p : Nat) (f : Port → Port) : Act Unit :=
  modMgmt (fun m => if h : p < 12 then { m with ports := m.ports.set p (f (m.ports[p]'h)) h } else m)

/-- A port of the module. -/
def State.port (s : State) (p : Nat) : Port := (s.mgmt.ports[p]?).getD {}

/-- `PORT_FAILURE` (R375). Messages already accepted run; the resending of flits is within one step. -/
def execPortFailure (s : State) : Step :=
  let name := "PORT_FAILURE"
  commit name (do
    let p := match s.input with | .one p => p | _ => 12
    due name (s.mgmt.boot ≠ .off && decide (p < 12) && (s.port p).live)
    modPort p (fun x => { x with live := false })
    emit (.send (.report "port failed" p 0))) s

/-- `LANE_SPARING` (R373). -/
def execLaneSparing (s : State) : Step :=
  let name := "LANE_SPARING"
  commit name (do
    let p := match s.input with | .one p => p | _ => 12
    due name (s.mgmt.boot ≠ .off && decide (p < 12) && (s.port p).live && (s.port p).mode = .qorger)
    modPort p (fun x => { x with spared := x.spared + 1 })) s

/-! ### Boot and attestation (R376, R377) -/

/-- The checks of steps 1 and 2, or of step 3. -/
def imageVerifies (i : SignedImage) (m : Management) : Bool := i.signed && i.keyHash = m.rootKeyHash && decide (m.rollback ≤ i.version)

/-- Everything on the dies as reset leaves it, with every word FULL (R376 step 5). Host memory is not the module's. (DEDUCED: log 51) -/
def wipe : Act Unit := do
  let s ← look
  emitAll (s.mem.filterMap (fun c => if decide (2 ^ 48 ≤ c.1) && decide (c.1 < 2 ^ 49) then none else some (.byte c.1 Memory.blank)))
  emitAll (s.empties.map (fun w => .empty w.1 false))
  emitAll (s.bad.map (fun w => .bad w.1 none))
  emitAll (s.old.map (fun w => .old w.1 []))
  emitAll (s.threads.map (fun t => .thread t.1 none))
  emitAll (s.starts.map (fun t => .start t.1 0))
  emitAll (s.tiles.map (fun t => .tile t.1 {}))
  emitAll (s.cores.map (fun c => .core c.1 {}))
  emitAll (s.clusters.map (fun c => .cluster c.1 {}))
  emitAll (s.dies.map (fun d => .die d.1 {}))
  emitAll (s.homes.map (fun h => .home h.1 none))
  emitAll (s.arrivals.map (fun h => .arrival h.1 0))
  emitAll (s.holds.map (fun h => .hold h.1 none))
  emitAll (s.tlb.map (fun c => .tlb c.1 {}))
  emitAll (s.granules.map (fun g => .granule g.1 none))
  emitAll (s.reqs.map (fun r => .req r.1 none))
  emitAll (s.migrants.map (fun m => .migrant m.1 none))
  emitAll (s.crews.map (fun c => .crew c.1 none))
  emitAll (s.flasks.map (fun f => .flask f.1 none))
  emitAll (s.grids.map (fun g => .grid g.1 none))
  emitAll (s.jobs.map (fun j => .job j.1 none))
  emitAll (s.gctxs.map (fun g => .gctx g.1 none))
  emitAll (s.replicas.map (fun r => .replica r.1 none))
  emitAll [.faults [], .wakes [], .blends [], .clock 0, .phase 0]

/-- The management complex as boot leaves it: the fuses stay. -/
def bootLog (m : Management) (boot : BootState) (stage firmware : Option SignedImage) : Management :=
  { Management.reset with boot := boot, stage := stage, firmware := firmware, rootKeyHash := m.rootKeyHash, rollback := m.rollback, identity := m.identity }

/-- What the training of step 4 finds is possible: a link as R371 has it or none, each port once, and a tile for each spare. -/
def bringUpOk (b : BringUp) : Bool :=
  (b.pcieGen = 0 || linkOk b.pcieGen b.width b.cxl) && b.ports.all (fun p => decide (p.1 < 12)) && (b.ports.map (·.1)).Nodup && b.spared.all (fun t => decide (t < 2048))
    && (b.spared.map clusterOfTile).Nodup

/-- Step 4 of boot: the host link and the ports as trained, spares fixed, and every unit that failed without a spare reported (R376). -/
def bringUp (b : BringUp) : Act Unit := do
  if b.pcieGen = 0 then emit (.send (.report "host link failed" 0 0))
  else modMgmt (fun m => { m with trained := true, pcieGen := b.pcieGen, width := b.width, cxl := b.cxl })
  forEach b.ports (fun p => do
    modPort p.1 (fun x => { x with mode := p.2.1, live := p.2.2 })
    if p.2.2 then pure () else emit (.send (.report "port failed" p.1 0)))
  forEach b.spared (fun t => modCluster (clusterOfTile t) (fun c => { c with spareFor := some t }))
  forEach b.failed (fun u => emit (.send (.report "unit failed" u 0)))

/-- `POWER_ON` (R376): boot with the images that the flash holds, and what training finds. An image that has been read and fails stays the one that a report names; the firmware is not read
after a first stage that fails (R377). (DESIGN CHOICE: log 2) -/
def execPowerOn (s : State) : Step :=
  let name := "POWER_ON"
  commit name (do
    match s.input with
    | .images stage firmware b => do
      due name (s.mgmt.boot ≠ .running && bringUpOk b)
      wipe
      let m := s.mgmt
      if !imageVerifies stage m then emit (.mgmt (bootLog m .recovery (some stage) none))
      else if !imageVerifies firmware m then emit (.mgmt (bootLog m .recovery (some stage) (some firmware)))
      else do
        emit (.mgmt (bootLog m .running (some stage) (some firmware)))
        bringUp b
    | _ => stop (.refused (.eventNotDue name))) s

/-- `SIGNED_IMAGE` (R376): in recovery the mailbox takes an image that verifies. -/
def execSignedImage (s : State) : Step :=
  let name := "SIGNED_IMAGE"
  commit name (do
    match s.input with
    | .image i => do
      due name (s.mgmt.boot = .recovery)
      if imageVerifies i s.mgmt then modMgmt (fun m => { m with stage := some i }) else emit (.send (.report "REFUSED" 0 0))
    | _ => stop (.refused (.eventNotDue name))) s

/-- SHAKE256 of the image that boot has read or recovery has taken; of one that nothing in the model has read it is free (R377). (DESIGN CHOICE: log 2) -/
def imageDigest (i : Option SignedImage) (stage : Bool) : Nat :=
  match i with
  | some x => shake256 x.bytes
  | none => (Config.bootDigest stage).toNat

/-- Bytes 0-255 of an attestation report (R377). -/
def attested (s : State) (nonce : Nat) : Nat :=
  let m := s.mgmt
  let spares := s.clusters.filterMap (fun c => c.2.spareFor.map (fun t => (c.1, t)))
  joinBytes [(nonce, 32), (imageDigest m.stage true, 64), (imageDigest m.firmware false, 64),
    ((Config.fuseDigest m.rootKeyHash.toNat m.rollback m.identity.toNat spares).toNat, 64), (m.identity.toNat, 32)]

/-- `ATTESTATION_REQUEST` (R377): the report, signed over the digest of its first 256 bytes; through the mailbox, which takes nothing but an image in recovery, or through the management
port, number 1 (R376). -/
def execAttestationRequest (s : State) : Step :=
  let name := "ATTESTATION_REQUEST"
  commit name (do
    let (nonce, port) := match s.input with
      | .one n => (n, 0)
      | .two n p => (n, p)
      | _ => (2 ^ 256, 0)
    due name (s.mgmt.boot ≠ .off && decide (nonce < 2 ^ 256) && decide (port < 2))
    if s.mgmt.boot = .recovery && port = 0 then emit (.send (.report "REFUSED" 0 0))
    else do
      let x := attested s nonce
      let digest := shake256 ((List.range 256).map (fun i => BitVec.ofNat 8 (x / 256 ^ i)))
      emit (.send (.attestation (x + (Config.ed448 s.mgmt.identity.toNat digest).toNat * 2 ^ 2048)))) s

/-! ### Mailbox commands (R379) -/

/-- A mailbox command with admissible operands: refused in recovery (R376), and otherwise performed. (DESIGN CHOICE: log 48) -/
def command (name : String) (ok : Bool) (body : Act Unit) : State → Step := fun s =>
  commit name (do
    due name (ok && s.mgmt.boot ≠ .off)
    if s.mgmt.boot = .recovery then emit (.send (.report "REFUSED" 0 0)) else body) s

/-- Engine commands or traversals of a die's tiles that run on. -/
def enginesBusy (s : State) (die : Nat) : Bool :=
  s.tiles.any (fun t => dieOfTile t.1 = die && (!t.2.copyQ.isEmpty || !t.2.convQ.isEmpty || !t.2.array.fifo.isEmpty || !t.2.rays.isEmpty))

/-- A running context uses what is placed on a die: a thread there, one on its way, a request or an engine command of one, a message that waits to run, a packet that has reached the Tundish,
a grid, a mapped queue, or a page fault (R379). -/
def dieInUse (s : State) (die : Nat) : Bool :=
  let d := s.die die
  s.threads.any (fun t => dieOf t.1 = die) || s.migrants.any (fun m => m.2.target / 2048 = die) || s.reqs.any (fun r => r.2.homeDie = die) || enginesBusy s die
    || s.cores.any (fun c => c.1 / 2048 = die && !c.2.runnerQ.isEmpty) || !d.arrivals.isEmpty || s.grids.any (fun g => g.2.die = die) || !(s.slotsOf die).isEmpty
    || s.faults.any (fun f => f.die = die)

/-- Performs a placement, unless it would move what is in use (R379). -/
def placing (die : Nat) (moves : Bool) (body : Act Unit) : Act Unit := do
  if moves && dieInUse (← look) die then emit (.send (.report "BUSY" die 0)) else body

/-- A base for something placed elsewhere already. -/
def movesFrom (old : Option Nat) (base : Nat) : Bool := old.isSome && old ≠ some base

/-- A region of HBM at a multiple of `align`. -/
def regionOk (die base size align : Nat) : Bool := decide (die < 4) && base % align = 0 && decide (base + size ≤ Config.hbmBytes)

/-- `PLACE_CONTEXT_TABLE` (R135). -/
def execPlaceContextTable (s : State) : Step :=
  match s.input with
  | .two die base => command "PLACE_CONTEXT_TABLE" (regionOk die base 65536 1) (
      placing die (movesFrom (s.die die).contextTable base) (modDie die (fun d => { d with contextTable := some base }))) s
  | _ => .refused (.eventNotDue "PLACE_CONTEXT_TABLE")

/-- `PLACE_FAULT_RING` (R147): PROD becomes 0, FULL, and CONS 0. -/
def execPlaceFaultRing (s : State) : Step :=
  match s.input with
  | .two die base => command "PLACE_FAULT_RING" (regionOk die base 32832 32768) (
      placing die (movesFrom (s.die die).ring base) (do
        modDie die (fun d => { d with ring := some base, prod := 0 })
        poke (hbmKey (base + 32768)) 64 0
        emit (.empty (hbmKey (base + 32768)) false)
        pumpRing die)) s
  | _ => .refused (.eventNotDue "PLACE_FAULT_RING")

/-- `PLACE_PARKING_AREA` (R169): the map's own entries are in use; its other bits are what memory holds. -/
def execPlaceParkingArea (s : State) : Step :=
  match s.input with
  | .three die base n =>
    command "PLACE_PARKING_AREA" (regionOk die base (16 * n) 65536 && n % 1024 = 0 && decide (4096 ≤ n) && decide (n ≤ 2 ^ 22)) (
      placing die ((s.die die).parking.isSome && (s.die die).parking ≠ some (base, n)) (do
        modDie die (fun d => { d with parking := some (base, n) })
        emitAll ((List.range (n / 1024)).map (fun i => .byte (hbmKey (base + i)) 0xFF)))) s
  | _ => .refused (.eventNotDue "PLACE_PARKING_AREA")

/-- The 32 bytes of a row of the queue table as system software fills it: RIDX and ERRQ are 0 (R267). (DESIGN CHOICE: log 95) -/
def queueRowBytes (r : QueueRow) : Nat :=
  joinBytes [(r.ring.toNat / 64 % 2 ^ 50 * 64, 8), (r.size % 32, 4), (0, 4), (r.notify.toNat / 8 * 8, 8), (r.ctx % 4096, 2), (bit r.valid 0, 1), (0, 5)]

/-- `PLACE_QUEUE_TABLE` (R267): places the table and fills rows of it. -/
def execPlaceQueueTable (s : State) : Step :=
  match s.input with
  | .queues die base rows =>
    command "PLACE_QUEUE_TABLE" (regionOk die base (4096 * 32) 1 && rows.all (fun r => decide (r.index < 4096) && decide (r.size ≤ 16))) (
      placing die (movesFrom (s.die die).queueTable base) (do
        modDie die (fun d => { d with queueTable := some base })
        forEach rows (fun r => poke (hbmKey (base + 32 * r.index)) 32 (queueRowBytes r)))) s
  | _ => .refused (.eventNotDue "PLACE_QUEUE_TABLE")

/-- `SET_TIME_SLICE` (R268). -/
def execSetTimeSlice (s : State) : Step :=
  match s.input with
  | .two die n => command "SET_TIME_SLICE" (decide (die < 4)) (modDie die (fun d => { d with timeSlice := n })) s
  | _ => .refused (.eventNotDue "SET_TIME_SLICE")

/-- `PLACE_SAVE_AREAS` (R295). -/
def execPlaceSaveAreas (s : State) : Step :=
  match s.input with
  | .two die base => command "PLACE_SAVE_AREAS" (regionOk die base (2 ^ 24) 512) (
      placing die (movesFrom (s.die die).saveAreas base) (modDie die (fun d => { d with saveAreas := some base }))) s
  | _ => .refused (.eventNotDue "PLACE_SAVE_AREAS")

/-- An entry of a decode table, with the compressed bytes as they stand (R368); one that is not valid, or whose fields leave the ranges of R368, describes no view. -/
def decodeEntry (m : List Host.Cell) (a : Nat) : Option DecodedView :=
  if (Memory.read m (hbmKey (a + 23))).getLsbD 0 then
    let x := peek m (hbmKey a) 32
    let v : DecodedView :=
      { cbase := bits x 63 0, dbase := bits x 127 64, w := bits x 143 128, h := bits x 159 144, fmt := bits x 167 160, bw := bits x 175 172, bh := bits x 171 168,
        levels := bits x 183 176, blocks := [] }
    let footprints := [(4, 4), (5, 4), (5, 5), (6, 5), (6, 6), (8, 5), (8, 6), (8, 8), (10, 5), (10, 6), (10, 8), (10, 10), (12, 10), (12, 12)]
    if v.cbase % 16 = 0 && v.dbase % 512 = 0 && decide (1 ≤ v.w ∧ v.w ≤ 16384 ∧ 1 ≤ v.h ∧ v.h ≤ 16384 ∧ v.fmt ≤ 4 ∧ 1 ≤ v.levels ∧ v.levels ≤ 15)
        && (if v.fmt ≤ 1 then footprints.contains (v.bw, v.bh) else (v.bw, v.bh) = (4, 4)) then
      some { v with blocks := m.filter (fun c => decide (v.cbase ≤ c.1) && decide (c.1 < v.cbase + v.compressed)) }
    else none
  else none

/-- `PLACE_DECODE_TABLE` (R368): placing or rewriting the table, whose words in error are reported as they are read (R304). -/
def execPlaceDecodeTable (s : State) : Step :=
  match s.input with
  | .two die base => command "PLACE_DECODE_TABLE" (regionOk die base 32768 1) (
      placing die (movesFrom (s.die die).decodeTable base) (do
        reportErrors base 32768
        modDie die (fun d => { d with decodeTable := some base, views := (List.range 1024).filterMap (fun i => decodeEntry s.mem (base + 32 * i)) }))) s
  | _ => .refused (.eventNotDue "PLACE_DECODE_TABLE")

/-- The tiles that fixed timing pins, if these were assigned. -/
def pinnedTiles (s : State) (tiles : List Nat) : Nat := (s.tiles.filter (fun t => t.2.fixed && !tiles.contains t.1)).length + tiles.length

/-- A tile holds a thread, or one is on its way to it or queued there. -/
def tileHeld (s : State) (n : Nat) : Bool := s.threads.any (fun t => tileOf t.1 = n) || s.migrants.any (fun m => tileOfCore m.2.target = n)

/-- `ASSIGN_FIXED_TIMING_TILES` (R275, R278, R380): tiles, by global number, change regime or owner only while they hold no thread. -/
def execAssignFixedTimingTiles (s : State) : Step :=
  match s.input with
  | .places die ctx tiles fixed =>
    let owner := if fixed then some ctx else none
    command "ASSIGN_FIXED_TIMING_TILES" (decide (die < 4) && decide (ctx < 4096) && tiles.all (fun t => dieOfTile t = die) && tiles.Nodup) (do
      if tiles.any (fun n => ((s.tile n).fixed ≠ fixed || (s.tile n).owner ≠ owner) && tileHeld s n) then emit (.send (.report "BUSY" die ctx))
      else if fixed && ((s.settings die ctx).frameSlots = 0 || Config.powerRefuses (pinnedTiles s tiles) s.mgmt.cap) then emit (.send (.report "REFUSED" die ctx))
      else forEach tiles (fun n => modTile n (fun t =>
        -- a tile that enters the regime takes the reference count (R275)
        { t with fixed := fixed, owner := owner, ahead := if fixed && !t.fixed then 0 else t.ahead }))) s
  | _ => .refused (.eventNotDue "ASSIGN_FIXED_TIMING_TILES")

/-- `RESERVE_FRAME_SLOTS` (R278). -/
def execReserveFrameSlots (s : State) : Step :=
  match s.input with
  | .slots die ctx mask => command "RESERVE_FRAME_SLOTS" (decide (die < 4) && decide (ctx < 4096)) (do
      if mask = 0 && ownsFixed s die ctx then emit (.send (.report "REFUSED" die ctx))
      else modSettings die ctx (fun c => { c with frameSlots := mask })) s
  | _ => .refused (.eventNotDue "RESERVE_FRAME_SLOTS")

/-- `SET_WDLIM` (R301). -/
def execSetWdlim (s : State) : Step :=
  match s.input with
  | .three die ctx n => command "SET_WDLIM" (decide (die < 4) && decide (ctx < 4096)) (modSettings die ctx (fun c => { c with wdlim := n })) s
  | _ => .refused (.eventNotDue "SET_WDLIM")

/-- The group of a job cannot be formed anew: a step of it is pending, or another group would be made of the one that a running job uses (R284, R379). -/
def groupBusy (s : State) (job : Nat) (members : List Nat) (timeout : Nat) : Bool :=
  match mapGet job s.replicas with
  | none => false
  | some g => g.pending.isSome || ((g.members ≠ members || g.timeout ≠ timeout) && ((mapGet job s.jobs).isSome || s.grids.any (fun x => x.2.packet.job = job)))

/-- `FORM_REPLICA_GROUP` (R284): two or three modules by peer number, this one among them. -/
def execFormReplicaGroup (s : State) : Step :=
  match s.input with
  | .places job timeout members _ =>
    command "FORM_REPLICA_GROUP" (members.Nodup && [2, 3].contains members.length && members.contains 0 && members.all (· < 1024)) (do
      if groupBusy s job members timeout then emit (.send (.report "BUSY" job 0))
      else emit (.replica job (some
          { members := members, timeout := timeout, expected := 0, pending := none, digests := [], disagreed := false, since := s.cycle }))) s
  | _ => .refused (.eventNotDue "FORM_REPLICA_GROUP")

/-- `SET_PEER_TABLE` (R374). -/
def execSetPeerTable (s : State) : Step :=
  match s.input with
  | .peer n e => command "SET_PEER_TABLE" (decide (1 ≤ n) && decide (n < 1024)) (emit (.peer n e)) s
  | _ => .refused (.eventNotDue "SET_PEER_TABLE")

/-- `SET_CONTEXT_DEFAULTS` (R257, R379). -/
def execSetContextDefaults (s : State) : Step :=
  match s.input with
  | .defaults die (some ctx) r => command "SET_CONTEXT_DEFAULTS" (decide (die < 4) && decide (ctx < 4096)) (modSettings die ctx (fun c => { c with defaults := r })) s
  | _ => .refused (.eventNotDue "SET_CONTEXT_DEFAULTS")

/-- `SET_RUNNER_DEFAULTS` (R63, R379): one core of a die by its number there, or all of them. -/
def execSetRunnerDefaults (s : State) : Step :=
  match s.input with
  | .defaults die who r =>
    let cores : List Nat := match who with
      | some c => [c]
      | none => List.range 2048
    command "SET_RUNNER_DEFAULTS" (decide (die < 4) && cores.all (· < 2048)) (forEach cores (fun c => modCore (die * 2048 + c) (fun x => { x with defaults := r }))) s
  | _ => .refused (.eventNotDue "SET_RUNNER_DEFAULTS")

/-- `SET_PLACEMENT_LIST` (R270): clusters of the die in increasing global number. -/
def execSetPlacementList (s : State) : Step :=
  match s.input with
  | .places die ctx l _ =>
    command "SET_PLACEMENT_LIST" (decide (die < 4) && decide (ctx < 4096) && l.all (fun c => c / 64 = die) && l.Pairwise (· < ·)) (
      modSettings die ctx (fun c => { c with placement := l })) s
  | _ => .refused (.eventNotDue "SET_PLACEMENT_LIST")

/-- `FATAL_TRAP_REPORT` (R262). -/
def execFatalTrapReport (s : State) : Step :=
  match s.input with
  | .two job _ => command "FATAL_TRAP_REPORT" true (setErr job) s
  | _ => .refused (.eventNotDue "FATAL_TRAP_REPORT")

/-- A context has a thread in the module, in a slot or on its way, or something that one of its threads has left behind: a message on its way, or a reduction to a peer. -/
def contextRuns (s : State) (ctx : Nat) : Bool :=
  s.threads.any (fun t => t.2.ctx = ctx) || s.migrants.any (fun m => m.2.thread.ctx = ctx) || s.reqs.any (fun r => r.2.ctx = ctx)
    || s.tiles.any (fun t => t.2.copyQ.any (fun c => c.ctx = ctx))

/-- A context that runs has a peer that a port leads to (R373). -/
def portInUse (s : State) (p : Nat) : Bool :=
  s.peers.any (fun e => e.2.ports.contains p && e.2.contexts.any (fun c => contextRuns s c.1))

/-- `SET_PORT_MODE` (R373): only while no context uses the port. -/
def execSetPortMode (s : State) : Step :=
  match s.input with
  | .mode p m => command "SET_PORT_MODE" (decide (p < 12)) (do
      if (s.port p).mode ≠ m && portInUse s p then emit (.send (.report "BUSY" p 0)) else modPort p (fun x => { x with mode := m })) s
  | _ => .refused (.eventNotDue "SET_PORT_MODE")

/-! ### Power and the tray (R380, R381) -/

/-- `SET_POWER_CAP` (R380): at most 3.0 kW. -/
def execSetPowerCap (s : State) : Step :=
  match s.input with
  | .one w => command "SET_POWER_CAP" true (do
      if 3000 < w then emit (.send (.report "REFUSED" w 0)) else modMgmt (fun m => { m with cap := w })) s
  | _ => .refused (.eventNotDue "SET_POWER_CAP")

/-- `POWER_LIMIT_EXCEEDED` (R380): the elastic clocks fall by a step of 5%, or are restored. -/
def execPowerLimitExceeded (s : State) : Step :=
  let name := "POWER_LIMIT_EXCEEDED"
  commit name (do
    match s.input with
    | .one draw => do
      let m := s.mgmt
      due name (m.boot = .running && (decide (m.cap < draw) || m.clockSteps ≠ 0))
      modMgmt (fun m => { m with clockSteps := if m.cap < draw then min 19 (m.clockSteps + 1) else 0 })
    | _ => stop (.refused (.eventNotDue name))) s

/-- `TEMPERATURE_EXCURSION` (R381). -/
def execTemperatureExcursion (s : State) : Step :=
  let name := "TEMPERATURE_EXCURSION"
  commit name (do
    match s.input with
    | .two hbm c => do
      due name (s.mgmt.boot ≠ .off)
      emit (.send (.report (if hbm ≠ 0 then "HBM temperature" else "die temperature") c 0))
      if hbm ≠ 0 then modMgmt (fun m => { m with throttled := decide (95 < c) })
      else if 115 < c then do
        wipe
        modMgmt (fun m => { bootLog m .off none none with shutDown := true })
      else if 105 < c then do
        due name (s.jobs.all (fun j => !signalsWait s j.1))
        forEach [0, 1, 2, 3] (fun d => modDie d (fun x => { x with placementStopped := true }))
        forEach s.jobs (fun j => haltJob j.1 0 [])
      else pure ()
    | _ => stop (.refused (.eventNotDue name))) s

/-- `TRAY_EXCURSION` (R381): reported. -/
def execTrayExcursion (s : State) : Step :=
  let name := "TRAY_EXCURSION"
  commit name (do
    match s.input with
    | .tray w => do
      due name (s.mgmt.boot ≠ .off)
      emit (.send (.report "tray limit" (match w with | .supply => 0 | .coolantTemperature => 1 | .coolantFlow => 2) 0))
    | _ => stop (.refused (.eventNotDue name))) s

end Sys2Proof.Machine
end

