-- ==== Sys2Proof/Machine/Dispatch.lean ====
section
/-!
DEFINITION. The meaning of every constructor of `Instr`.
-/

namespace Sys2Proof.Machine

/-- What an instruction or event does. -/
def exec (i : Instr) (s : State) : Host.Outcome State Fault Refusal :=
  match i with
  | .exti x imm => Sys2Proof.Machine.execExti x imm s
  | .exts a x imm => Sys2Proof.Machine.execExts a x imm s
  | .extsh x imm => Sys2Proof.Machine.execExtsh x imm s
  | .move d x => Sys2Proof.Machine.execMove d x s
  | .add gd d a b => Sys2Proof.Machine.execAdd gd d a b s
  | .sub gd d a b => Sys2Proof.Machine.execSub gd d a b s
  | .mul gd d a b => Sys2Proof.Machine.execMul gd d a b s
  | .mulh gd d a b => Sys2Proof.Machine.execMulh gd d a b s
  | .mulhn gd d a b => Sys2Proof.Machine.execMulhn gd d a b s
  | .div gd d a b => Sys2Proof.Machine.execDiv gd d a b s
  | .divn gd d a b => Sys2Proof.Machine.execDivn gd d a b s
  | .rem gd d a b => Sys2Proof.Machine.execRem gd d a b s
  | .remn gd d a b => Sys2Proof.Machine.execRemn gd d a b s
  | .and gd d a b => Sys2Proof.Machine.execAnd gd d a b s
  | .or gd d a b => Sys2Proof.Machine.execOr gd d a b s
  | .xor gd d a b => Sys2Proof.Machine.execXor gd d a b s
  | .andn gd d a b => Sys2Proof.Machine.execAndn gd d a b s
  | .shl gd d a b => Sys2Proof.Machine.execShl gd d a b s
  | .shr gd d a b => Sys2Proof.Machine.execShr gd d a b s
  | .sar gd d a b => Sys2Proof.Machine.execSar gd d a b s
  | .rol gd d a b => Sys2Proof.Machine.execRol gd d a b s
  | .min gd d a b => Sys2Proof.Machine.execMin gd d a b s
  | .max gd d a b => Sys2Proof.Machine.execMax gd d a b s
  | .minn gd d a b => Sys2Proof.Machine.execMinn gd d a b s
  | .maxn gd d a b => Sys2Proof.Machine.execMaxn gd d a b s
  | .clz gd d a => Sys2Proof.Machine.execClz gd d a s
  | .ctz gd d a => Sys2Proof.Machine.execCtz gd d a s
  | .pop gd d a => Sys2Proof.Machine.execPop gd d a s
  | .brev gd d a => Sys2Proof.Machine.execBrev gd d a s
  | .bswap gd d a => Sys2Proof.Machine.execBswap gd d a s
  | .sel gd d a b k => Sys2Proof.Machine.execSel gd d a b k s
  | .addi gd d a imm => Sys2Proof.Machine.execAddi gd d a imm s
  | .andi gd d a imm => Sys2Proof.Machine.execAndi gd d a imm s
  | .ori gd d a imm => Sys2Proof.Machine.execOri gd d a imm s
  | .xori gd d a imm => Sys2Proof.Machine.execXori gd d a imm s
  | .shli gd d a imm => Sys2Proof.Machine.execShli gd d a imm s
  | .shri gd d a imm => Sys2Proof.Machine.execShri gd d a imm s
  | .sari gd d a imm => Sys2Proof.Machine.execSari gd d a imm s
  | .roli gd d a imm => Sys2Proof.Machine.execRoli gd d a imm s
  | .cmpi gd d a cc imm => Sys2Proof.Machine.execCmpi gd d a cc imm s
  | .padd gd d a b w => Sys2Proof.Machine.execPadd gd d a b w s
  | .psub gd d a b w => Sys2Proof.Machine.execPsub gd d a b w s
  | .pmul gd d a b w => Sys2Proof.Machine.execPmul gd d a b w s
  | .pmin gd d a b w ns => Sys2Proof.Machine.execPmin gd d a b w ns s
  | .pmax gd d a b w ns => Sys2Proof.Machine.execPmax gd d a b w ns s
  | .pshl gd d a b w bc => Sys2Proof.Machine.execPshl gd d a b w bc s
  | .pshr gd d a b w bc => Sys2Proof.Machine.execPshr gd d a b w bc s
  | .psar gd d a b w bc => Sys2Proof.Machine.execPsar gd d a b w bc s
  | .cmp gd d a b cc => Sys2Proof.Machine.execCmp gd d a b cc s
  | .pand gd d a b => Sys2Proof.Machine.execPand gd d a b s
  | .por gd d a b => Sys2Proof.Machine.execPor gd d a b s
  | .pxor gd d a b => Sys2Proof.Machine.execPxor gd d a b s
  | .pnot gd d a => Sys2Proof.Machine.execPnot gd d a s
  | .br gd off => Sys2Proof.Machine.execBr gd off s
  | .jal d off => Sys2Proof.Machine.execJal d off s
  | .jalr d a off => Sys2Proof.Machine.execJalr d a off s
  | .getc gd d imm => Sys2Proof.Machine.execGetc gd d imm s
  | .setc gd d imm => Sys2Proof.Machine.execSetc gd d imm s
  | .fence gd sz => Sys2Proof.Machine.execFence gd sz s
  | .fenceAcq gd sz => Sys2Proof.Machine.execFenceAcq gd sz s
  | .fenceRel gd sz => Sys2Proof.Machine.execFenceRel gd sz s
  | .fenceI gd => Sys2Proof.Machine.execFenceI gd s
  | .trap gd a => Sys2Proof.Machine.execTrap gd a s
  | .brk gd => Sys2Proof.Machine.execBrk gd s
  | .eret gd => Sys2Proof.Machine.execEret gd s
  | .halt gd => Sys2Proof.Machine.execHalt gd s
  | .spawn gd d a b => Sys2Proof.Machine.execSpawn gd d a b s
  | .spawnr gd d b => Sys2Proof.Machine.execSpawnr gd d b s
  | .quit gd => Sys2Proof.Machine.execQuit gd s
  | .yield => Sys2Proof.Machine.execYield s
  | .yieldIf1 => Sys2Proof.Machine.execYieldIf1 s
  | .yieldIf2 => Sys2Proof.Machine.execYieldIf2 s
  | .yieldIf3 => Sys2Proof.Machine.execYieldIf3 s
  | .yieldIf4 => Sys2Proof.Machine.execYieldIf4 s
  | .yieldIf5 => Sys2Proof.Machine.execYieldIf5 s
  | .yieldIf6 => Sys2Proof.Machine.execYieldIf6 s
  | .yieldIf7 => Sys2Proof.Machine.execYieldIf7 s
  | .yieldIf8 => Sys2Proof.Machine.execYieldIf8 s
  | .yieldIf9 => Sys2Proof.Machine.execYieldIf9 s
  | .yieldIf10 => Sys2Proof.Machine.execYieldIf10 s
  | .yieldIf11 => Sys2Proof.Machine.execYieldIf11 s
  | .yieldIf12 => Sys2Proof.Machine.execYieldIf12 s
  | .yieldIf13 => Sys2Proof.Machine.execYieldIf13 s
  | .yieldIf14 => Sys2Proof.Machine.execYieldIf14 s
  | .yieldIf15 => Sys2Proof.Machine.execYieldIf15 s
  | .yieldUnless1 => Sys2Proof.Machine.execYieldUnless1 s
  | .yieldUnless2 => Sys2Proof.Machine.execYieldUnless2 s
  | .yieldUnless3 => Sys2Proof.Machine.execYieldUnless3 s
  | .yieldUnless4 => Sys2Proof.Machine.execYieldUnless4 s
  | .yieldUnless5 => Sys2Proof.Machine.execYieldUnless5 s
  | .yieldUnless6 => Sys2Proof.Machine.execYieldUnless6 s
  | .yieldUnless7 => Sys2Proof.Machine.execYieldUnless7 s
  | .yieldUnless8 => Sys2Proof.Machine.execYieldUnless8 s
  | .yieldUnless9 => Sys2Proof.Machine.execYieldUnless9 s
  | .yieldUnless10 => Sys2Proof.Machine.execYieldUnless10 s
  | .yieldUnless11 => Sys2Proof.Machine.execYieldUnless11 s
  | .yieldUnless12 => Sys2Proof.Machine.execYieldUnless12 s
  | .yieldUnless13 => Sys2Proof.Machine.execYieldUnless13 s
  | .yieldUnless14 => Sys2Proof.Machine.execYieldUnless14 s
  | .yieldUnless15 => Sys2Proof.Machine.execYieldUnless15 s
  | .park gd => Sys2Proof.Machine.execPark gd s
  | .wake gd a => Sys2Proof.Machine.execWake gd a s
  | .migrA gd d a => Sys2Proof.Machine.execMigrA gd d a s
  | .migrC gd d a => Sys2Proof.Machine.execMigrC gd d a s
  | .self gd d k => Sys2Proof.Machine.execSelf gd d k s
  | .prio gd a => Sys2Proof.Machine.execPrio gd a s
  | .barc gd => Sys2Proof.Machine.execBarc gd s
  | .barf gd => Sys2Proof.Machine.execBarf gd s
  | .baraCrew gd d => Sys2Proof.Machine.execBaraCrew gd d s
  | .baraFlask gd d => Sys2Proof.Machine.execBaraFlask gd d s
  | .barwCrew gd a => Sys2Proof.Machine.execBarwCrew gd a s
  | .barwFlask gd a => Sys2Proof.Machine.execBarwFlask gd a s
  | .fadd gd d a b t => Sys2Proof.Machine.execFadd gd d a b t s
  | .fsub gd d a b t => Sys2Proof.Machine.execFsub gd d a b t s
  | .fmul gd d a b t => Sys2Proof.Machine.execFmul gd d a b t s
  | .ffma gd d a b t => Sys2Proof.Machine.execFfma gd d a b t s
  | .fdiv gd d a b t => Sys2Proof.Machine.execFdiv gd d a b t s
  | .fsqrt gd d a t => Sys2Proof.Machine.execFsqrt gd d a t s
  | .fmin gd d a b t => Sys2Proof.Machine.execFmin gd d a b t s
  | .fmax gd d a b t => Sys2Proof.Machine.execFmax gd d a b t s
  | .fcmp gd d a b t cc => Sys2Proof.Machine.execFcmp gd d a b t cc s
  | .cvt gd d a b dc fn => Sys2Proof.Machine.execCvt gd d a b dc fn s
  | .fclass gd d a fn => Sys2Proof.Machine.execFclass gd d a fn s
  | .ld gd d a off sz ord la => Sys2Proof.Machine.execLd gd d a off sz ord la s
  | .ldSigned gd d a off sz ord la => Sys2Proof.Machine.execLdSigned gd d a off sz ord la s
  | .ldp gd d a off ord la => Sys2Proof.Machine.execLdp gd d a off ord la s
  | .st gd d a off sz ord la => Sys2Proof.Machine.execSt gd d a off sz ord la s
  | .ldw gd d a off ord la => Sys2Proof.Machine.execLdw gd d a off ord la s
  | .ldc gd d a off ord la => Sys2Proof.Machine.execLdc gd d a off ord la s
  | .ldxW gd d a pf ord la => Sys2Proof.Machine.execLdxW gd d a pf ord la s
  | .ldxC gd d a pf ord la => Sys2Proof.Machine.execLdxC gd d a pf ord la s
  | .stf gd d a off ord la => Sys2Proof.Machine.execStf gd d a off ord la s
  | .stfx gd d a pf ord la => Sys2Proof.Machine.execStfx gd d a pf ord la s
  | .stff gd d a off ord la => Sys2Proof.Machine.execStff gd d a off ord la s
  | .amoAdd gd d a b la => Sys2Proof.Machine.execAmoAdd gd d a b la s
  | .amoAnd gd d a b la => Sys2Proof.Machine.execAmoAnd gd d a b la s
  | .amoOr gd d a b la => Sys2Proof.Machine.execAmoOr gd d a b la s
  | .amoXor gd d a b la => Sys2Proof.Machine.execAmoXor gd d a b la s
  | .amoMin gd d a b la => Sys2Proof.Machine.execAmoMin gd d a b la s
  | .amoMax gd d a b la => Sys2Proof.Machine.execAmoMax gd d a b la s
  | .amoMinn gd d a b la => Sys2Proof.Machine.execAmoMinn gd d a b la s
  | .amoMaxn gd d a b la => Sys2Proof.Machine.execAmoMaxn gd d a b la s
  | .amoSwap gd d a b la => Sys2Proof.Machine.execAmoSwap gd d a b la s
  | .amoCas gd d a b la => Sys2Proof.Machine.execAmoCas gd d a b la s
  | .amoFaddF32 gd d a b la => Sys2Proof.Machine.execAmoFaddF32 gd d a b la s
  | .amoFaddBf16 gd d a b la => Sys2Proof.Machine.execAmoFaddBf16 gd d a b la s
  | .amoOrdAdd gd d a b la => Sys2Proof.Machine.execAmoOrdAdd gd d a b la s
  | .amoOrdFadd gd d a b la => Sys2Proof.Machine.execAmoOrdFadd gd d a b la s
  | .cctlPf gd a la => Sys2Proof.Machine.execCctlPf gd a la s
  | .cctlPfs gd a la => Sys2Proof.Machine.execCctlPfs gd a la s
  | .cctlInv gd a la => Sys2Proof.Machine.execCctlInv gd a la s
  | .cctlInva gd la => Sys2Proof.Machine.execCctlInva gd la s
  | .cctlTinv gd a b la => Sys2Proof.Machine.execCctlTinv gd a b la s
  | .cctlTinvc gd b la => Sys2Proof.Machine.execCctlTinvc gd b la s
  | .feset gd a la => Sys2Proof.Machine.execFeset gd a la s
  | .feclr gd a la => Sys2Proof.Machine.execFeclr gd a la s
  | .fetest gd d a la => Sys2Proof.Machine.execFetest gd d a la s
  | .rmsg gd a b la => Sys2Proof.Machine.execRmsg gd a b la s
  | .rmsgSeq gd a b la => Sys2Proof.Machine.execRmsgSeq gd a b la s
  | .vadd gd d a b w => Sys2Proof.Machine.execVadd gd d a b w s
  | .vsub gd d a b w => Sys2Proof.Machine.execVsub gd d a b w s
  | .vmul gd d a b w => Sys2Proof.Machine.execVmul gd d a b w s
  | .vminI gd d a b w => Sys2Proof.Machine.execVminI gd d a b w s
  | .vmaxI gd d a b w => Sys2Proof.Machine.execVmaxI gd d a b w s
  | .vminN gd d a b w => Sys2Proof.Machine.execVminN gd d a b w s
  | .vmaxN gd d a b w => Sys2Proof.Machine.execVmaxN gd d a b w s
  | .vand gd d a b w => Sys2Proof.Machine.execVand gd d a b w s
  | .vor gd d a b w => Sys2Proof.Machine.execVor gd d a b w s
  | .vxor gd d a b w => Sys2Proof.Machine.execVxor gd d a b w s
  | .vshl gd d a b w => Sys2Proof.Machine.execVshl gd d a b w s
  | .vshr gd d a b w => Sys2Proof.Machine.execVshr gd d a b w s
  | .vsar gd d a b w => Sys2Proof.Machine.execVsar gd d a b w s
  | .vsel gd d a b w => Sys2Proof.Machine.execVsel gd d a b w s
  | .vcmp gd d a b w cc => Sys2Proof.Machine.execVcmp gd d a b w cc s
  | .vfadd gd d a b t => Sys2Proof.Machine.execVfadd gd d a b t s
  | .vfsub gd d a b t => Sys2Proof.Machine.execVfsub gd d a b t s
  | .vfmul gd d a b t => Sys2Proof.Machine.execVfmul gd d a b t s
  | .vffma gd d a b t => Sys2Proof.Machine.execVffma gd d a b t s
  | .vfdiv gd d a b t => Sys2Proof.Machine.execVfdiv gd d a b t s
  | .vfsqrt gd d a t => Sys2Proof.Machine.execVfsqrt gd d a t s
  | .vfmin gd d a b t => Sys2Proof.Machine.execVfmin gd d a b t s
  | .vfmax gd d a b t => Sys2Proof.Machine.execVfmax gd d a b t s
  | .vfcmp gd d a b t cc => Sys2Proof.Machine.execVfcmp gd d a b t cc s
  | .vld gd d a la => Sys2Proof.Machine.execVld gd d a la s
  | .vst gd d a la => Sys2Proof.Machine.execVst gd d a la s
  | .vlds gd d a b fn la => Sys2Proof.Machine.execVlds gd d a b fn la s
  | .vgath gd d a b fn la => Sys2Proof.Machine.execVgath gd d a b fn la s
  | .vscat gd d a b fn la => Sys2Proof.Machine.execVscat gd d a b fn la s
  | .vlong gd d => Sys2Proof.Machine.execVlong gd d s
  | .vshort gd => Sys2Proof.Machine.execVshort gd s
  | .vfnExp2 gd d a t => Sys2Proof.Machine.execVfnExp2 gd d a t s
  | .vfnLog2 gd d a t => Sys2Proof.Machine.execVfnLog2 gd d a t s
  | .vfnRcp gd d a t => Sys2Proof.Machine.execVfnRcp gd d a t s
  | .vfnRsq gd d a t => Sys2Proof.Machine.execVfnRsq gd d a t s
  | .vfnSin gd d a t => Sys2Proof.Machine.execVfnSin gd d a t s
  | .vfnCos gd d a t => Sys2Proof.Machine.execVfnCos gd d a t s
  | .coefld gd a b la => Sys2Proof.Machine.execCoefld gd a b la s
  | .vredAdd gd d a dc => Sys2Proof.Machine.execVredAdd gd d a dc s
  | .vredMinI gd d a dc => Sys2Proof.Machine.execVredMinI gd d a dc s
  | .vredMaxI gd d a dc => Sys2Proof.Machine.execVredMaxI gd d a dc s
  | .vredMinN gd d a dc => Sys2Proof.Machine.execVredMinN gd d a dc s
  | .vredMaxN gd d a dc => Sys2Proof.Machine.execVredMaxN gd d a dc s
  | .vredFadd gd d a dc => Sys2Proof.Machine.execVredFadd gd d a dc s
  | .vredFmin gd d a dc => Sys2Proof.Machine.execVredFmin gd d a dc s
  | .vredFmax gd d a dc => Sys2Proof.Machine.execVredFmax gd d a dc s
  | .vbcast gd d a w => Sys2Proof.Machine.execVbcast gd d a w s
  | .vperm gd d a b w => Sys2Proof.Machine.execVperm gd d a b w s
  | .mls gd d a b la => Sys2Proof.Machine.execMls gd d a b la s
  | .mlss gd d a b la => Sys2Proof.Machine.execMlss gd d a b la s
  | .mma gd d a b la => Sys2Proof.Machine.execMma gd d a b la s
  | .mmaM gd d a b la => Sys2Proof.Machine.execMmaM gd d a b la s
  | .mmaz gd d a b la => Sys2Proof.Machine.execMmaz gd d a b la s
  | .mmazM gd d a b la => Sys2Proof.Machine.execMmazM gd d a b la s
  | .vprune48 gd d a b t => Sys2Proof.Machine.execVprune48 gd d a b t s
  | .vsdot48 gd d a b t => Sys2Proof.Machine.execVsdot48 gd d a b t s
  | .mswap gd la => Sys2Proof.Machine.execMswap gd la s
  | .mcfg gd a la => Sys2Proof.Machine.execMcfg gd a la s
  | .mrd gd d a b la => Sys2Proof.Machine.execMrd gd d a b la s
  | .mrdZ gd d a b la => Sys2Proof.Machine.execMrdZ gd d a b la s
  | .mpop gd d a la => Sys2Proof.Machine.execMpop gd d a la s
  | .mdrain gd la => Sys2Proof.Machine.execMdrain gd la s
  | .mmon gd d k la => Sys2Proof.Machine.execMmon gd d k la s
  | .cpy gd d la => Sys2Proof.Machine.execCpy gd d la s
  | .cpym gd d b la => Sys2Proof.Machine.execCpym gd d b la s
  | .cpyr gd d a la => Sys2Proof.Machine.execCpyr gd d a la s
  | .cnv gd d la => Sys2Proof.Machine.execCnv gd d la s
  | .amaxrs gd d a la => Sys2Proof.Machine.execAmaxrs gd d a la s
  | .sscan gd d a b la => Sys2Proof.Machine.execSscan gd d a b la s
  | .semup gd b k => Sys2Proof.Machine.execSemup gd b k s
  | .semdn gd d k => Sys2Proof.Machine.execSemdn gd d k s
  | .semw gd k => Sys2Proof.Machine.execSemw gd k s
  | .qpush gd d b q => Sys2Proof.Machine.execQpush gd d b q s
  | .qpop gd d b q => Sys2Proof.Machine.execQpop gd d b q s
  | .qpeek gd d b q => Sys2Proof.Machine.execQpeek gd d b q s
  | .wqask gd a b la => Sys2Proof.Machine.execWqask gd a b la s
  | .wqput gd a b la => Sys2Proof.Machine.execWqput gd a b la s
  | .launch gd a b la => Sys2Proof.Machine.execLaunch gd a b la s
  | .jobsig gd d a b la => Sys2Proof.Machine.execJobsig gd d a b la s
  | .cyc gd d k => Sys2Proof.Machine.execCyc gd d k s
  | .tfenceOpen gd => Sys2Proof.Machine.execTfenceOpen gd s
  | .tfenceClose gd d => Sys2Proof.Machine.execTfenceClose gd d s
  | .digest gd d a b la => Sys2Proof.Machine.execDigest gd d a b la s
  | .stepb gd d a b la => Sys2Proof.Machine.execStepb gd d a b la s
  | .rlinit gd a b la => Sys2Proof.Machine.execRlinit gd a b la s
  | .rlins gd d a b la => Sys2Proof.Machine.execRlins gd d a b la s
  | .rlget gd d a b la => Sys2Proof.Machine.execRlget gd d a b la s
  | .rlstat gd d a k la => Sys2Proof.Machine.execRlstat gd d a k la s
  | .rlfin gd d a la => Sys2Proof.Machine.execRlfin gd d a la s
  | .trvgo gd d a b la => Sys2Proof.Machine.execTrvgo gd d a b la s
  | .trvbud gd a b la => Sys2Proof.Machine.execTrvbud gd a b la s
  | .tri gd d a b pf => Sys2Proof.Machine.execTri gd d a b pf s
  | .splat gd d a b pf => Sys2Proof.Machine.execSplat gd d a b pf s
  | .volseg gd d a b pf => Sys2Proof.Machine.execVolseg gd d a b pf s
  | .dkl gd d a b pf => Sys2Proof.Machine.execDkl gd d a b pf s
  | .gctx gd a b la => Sys2Proof.Machine.execGctx gd a b la s
  | .rastri gd b la => Sys2Proof.Machine.execRastri gd b la s
  | .rasfrag gd d b la => Sys2Proof.Machine.execRasfrag gd d b la s
  | .blend gd a b la => Sys2Proof.Machine.execBlend gd a b la s
  | .texs gd d a b la => Sys2Proof.Machine.execTexs gd d a b la s
  | .texl gd d a b la => Sys2Proof.Machine.execTexl gd d a b la s
  | .surfrel gd a la => Sys2Proof.Machine.execSurfrel gd a la s
  | .surfacq gd a la => Sys2Proof.Machine.execSurfacq gd a la s
  | .cMov d a => Sys2Proof.Machine.execCMov d a s
  | .cAdd d a => Sys2Proof.Machine.execCAdd d a s
  | .cSub d a => Sys2Proof.Machine.execCSub d a s
  | .cAddi d imm => Sys2Proof.Machine.execCAddi d imm s
  | .cLdi d imm => Sys2Proof.Machine.execCLdi d imm s
  | .cLd d a off => Sys2Proof.Machine.execCLd d a off s
  | .cSt d a off => Sys2Proof.Machine.execCSt d a off s
  | .cBr pf off => Sys2Proof.Machine.execCBr pf off s
  | .cJ off => Sys2Proof.Machine.execCJ off s
  | .cCmp d a cc => Sys2Proof.Machine.execCCmp d a cc s
  | .cShli d imm => Sys2Proof.Machine.execCShli d imm s
  | .cNop => Sys2Proof.Machine.execCNop s
  | .cYield => Sys2Proof.Machine.execCYield s
  | .cQuit => Sys2Proof.Machine.execCQuit s
  | .cPush d k => Sys2Proof.Machine.execCPush d k s
  | .cPop d k => Sys2Proof.Machine.execCPop d k s
  | .requestArrival => Sys2Proof.Machine.execRequestArrival s
  | .put => Sys2Proof.Machine.execPut s
  | .writeback => Sys2Proof.Machine.execWriteback s
  | .waitlimExpiry => Sys2Proof.Machine.execWaitlimExpiry s
  | .withdraw => Sys2Proof.Machine.execWithdraw s
  | .resend => Sys2Proof.Machine.execResend s
  | .trapEntry => Sys2Proof.Machine.execTrapEntry s
  | .wakeArrival => Sys2Proof.Machine.execWakeArrival s
  | .migrationDeparture => Sys2Proof.Machine.execMigrationDeparture s
  | .runQueueArrival => Sys2Proof.Machine.execRunQueueArrival s
  | .runQueueEntry => Sys2Proof.Machine.execRunQueueEntry s
  | .quitSlotEmpty => Sys2Proof.Machine.execQuitSlotEmpty s
  | .messageArrival => Sys2Proof.Machine.execMessageArrival s
  | .handlerStart => Sys2Proof.Machine.execHandlerStart s
  | .resumeNone => Sys2Proof.Machine.execResumeNone s
  | .resumeReissue => Sys2Proof.Machine.execResumeReissue s
  | .resumeConvert => Sys2Proof.Machine.execResumeConvert s
  | .registerWrite => Sys2Proof.Machine.execRegisterWrite s
  | .engineAcceptance => Sys2Proof.Machine.execEngineAcceptance s
  | .copyExecution => Sys2Proof.Machine.execCopyExecution s
  | .conversionExecution => Sys2Proof.Machine.execConversionExecution s
  | .sscanExecution => Sys2Proof.Machine.execSscanExecution s
  | .arrayCommand => Sys2Proof.Machine.execArrayCommand s
  | .deckleRowCommand => Sys2Proof.Machine.execDeckleRowCommand s
  | .packetTake => Sys2Proof.Machine.execPacketTake s
  | .packetAcceptance => Sys2Proof.Machine.execPacketAcceptance s
  | .flaskPlacement => Sys2Proof.Machine.execFlaskPlacement s
  | .gridCompletion => Sys2Proof.Machine.execGridCompletion s
  | .wqaskArrival => Sys2Proof.Machine.execWqaskArrival s
  | .wqputArrival => Sys2Proof.Machine.execWqputArrival s
  | .timeSliceExpiry => Sys2Proof.Machine.execTimeSliceExpiry s
  | .notifyWrite => Sys2Proof.Machine.execNotifyWrite s
  | .hostApertureAccess => Sys2Proof.Machine.execHostApertureAccess s
  | .droopStretch => Sys2Proof.Machine.execDroopStretch s
  | .detectorTrip => Sys2Proof.Machine.execDetectorTrip s
  | .peerDigestArrival => Sys2Proof.Machine.execPeerDigestArrival s
  | .memberTimeout => Sys2Proof.Machine.execMemberTimeout s
  | .spill => Sys2Proof.Machine.execSpill s
  | .restore => Sys2Proof.Machine.execRestore s
  | .discard => Sys2Proof.Machine.execDiscard s
  | .watchdogExpiry => Sys2Proof.Machine.execWatchdogExpiry s
  | .tileSparing => Sys2Proof.Machine.execTileSparing s
  | .couchPerform => Sys2Proof.Machine.execCouchPerform s
  | .traversalBegin => Sys2Proof.Machine.execTraversalBegin s
  | .nodeVisit => Sys2Proof.Machine.execNodeVisit s
  | .ringEntryWrite => Sys2Proof.Machine.execRingEntryWrite s
  | .rasterize => Sys2Proof.Machine.execRasterize s
  | .blendPerform => Sys2Proof.Machine.execBlendPerform s
  | .linkTraining => Sys2Proof.Machine.execLinkTraining s
  | .portFailure => Sys2Proof.Machine.execPortFailure s
  | .powerOn => Sys2Proof.Machine.execPowerOn s
  | .signedImage => Sys2Proof.Machine.execSignedImage s
  | .attestationRequest => Sys2Proof.Machine.execAttestationRequest s
  | .placeContextTable => Sys2Proof.Machine.execPlaceContextTable s
  | .placeFaultRing => Sys2Proof.Machine.execPlaceFaultRing s
  | .placeParkingArea => Sys2Proof.Machine.execPlaceParkingArea s
  | .placeQueueTable => Sys2Proof.Machine.execPlaceQueueTable s
  | .setTimeSlice => Sys2Proof.Machine.execSetTimeSlice s
  | .placeSaveAreas => Sys2Proof.Machine.execPlaceSaveAreas s
  | .placeDecodeTable => Sys2Proof.Machine.execPlaceDecodeTable s
  | .assignFixedTimingTiles => Sys2Proof.Machine.execAssignFixedTimingTiles s
  | .reserveFrameSlots => Sys2Proof.Machine.execReserveFrameSlots s
  | .setWdlim => Sys2Proof.Machine.execSetWdlim s
  | .formReplicaGroup => Sys2Proof.Machine.execFormReplicaGroup s
  | .setPeerTable => Sys2Proof.Machine.execSetPeerTable s
  | .setContextDefaults => Sys2Proof.Machine.execSetContextDefaults s
  | .setRunnerDefaults => Sys2Proof.Machine.execSetRunnerDefaults s
  | .setPlacementList => Sys2Proof.Machine.execSetPlacementList s
  | .fatalTrapReport => Sys2Proof.Machine.execFatalTrapReport s
  | .setPortMode => Sys2Proof.Machine.execSetPortMode s
  | .setPowerCap => Sys2Proof.Machine.execSetPowerCap s
  | .powerLimitExceeded => Sys2Proof.Machine.execPowerLimitExceeded s
  | .temperatureExcursion => Sys2Proof.Machine.execTemperatureExcursion s
  | .laneSparing => Sys2Proof.Machine.execLaneSparing s
  | .slotStateError => Sys2Proof.Machine.execSlotStateError s
  | .cxlMemAccess => Sys2Proof.Machine.execCxlMemAccess s
  | .notifyWindowRead => Sys2Proof.Machine.execNotifyWindowRead s
  | .trayExcursion => Sys2Proof.Machine.execTrayExcursion s

end Sys2Proof.Machine
end

