-- ==== Sys2Proof/Machine/Turn.lean ====
section
/-!
DEFINITION. Issue turns (R44-R47), instruction fetch (R14-R16), and the events that the state makes possible.
-/

namespace Sys2Proof.Machine

/-! ### Fetch (R14-R16, R145, R146) -/

/-- What a turn finds at the PC: an instruction to execute, a trap to take instead, or nothing to issue. -/
inductive Fetched where
  | ready (insn : BitVec 32)
  | traps (r : TrapReq)
  | nothing
  deriving DecidableEq, Repr

/-- A precise trap of a fetch: EPC and RESUME hold the instruction's first address, and ADDR that address, or where data was lost the address of the halfword (R15, R145, R288).
(DEDUCED: log 30) -/
def fetchTrap (t : Thread) (low : Option (BitVec 16)) (c : Cause) (addr : Word) (info : Nat) : Act Fetched := do
  let insn ← unfetched low
  return .traps ⟨c, t.pc, some t.pc, addr, BitVec.ofNat 64 info, false, insn, isWide insn, false⟩

/-- What a halfword of code may be beside the value `x` that the L1 or the home gave: what its home has now, and what it was before the stores since the thread's last `FENCE.i` (R16, R193). -/
def fetchOlds (k : Nat) (t : Thread) (va : Nat) (hit : Bool) (x : BitVec 16) : Act (List (BitVec 16)) := do
  if !hit && (← look).old.isEmpty then return []
  else
    match ← reach t.ctx (some (tileOf k)) va { exec := true } with
    | .error _ => return []
    | .ok (key, _) =>
      let s ← look
      let before := ((mapGet key s.old).getD []).filter (fun o => decide (t.fetchFrom ≤ o.1))
      let now := if loadSpoiled s va key 2 then [] else [BitVec.ofNat 16 (loadBytes s va key 2)]
      return ((now ++ before.map (·.2)).filter (· ≠ x)).eraseDups

/-- One halfword of an instruction, the second after `low`: each may be an old one or the new one, independently (R16). (DESIGN CHOICE: log 29) -/
def fetchHalf (k : Nat) (t : Thread) (low : Option (BitVec 16)) (va : Nat) : Act (Except Fetched (BitVec 16)) := do
  match ← readCached t.ctx (coreOf k) va 2 true with
  | .ok (x, hit) =>
    if hit then pure () else breakTiming k
    let x := BitVec.ofNat 16 x
    let others ← fetchOlds k t va hit x
    if others.isEmpty then return .ok x
    else do
      let n ← freshFree
      return .ok ((x :: others).getD (Config.pickFetch n % (others.length + 1)) x)
  | .error .protection => return .error (← fetchTrap t low .protection t.pc 0)
  | .error (.machineCheck src) => do
    machineReport src va
    return .error (← fetchTrap t low .machineCheck (BitVec.ofNat 64 va) src)
  | .error (.pageFault c) => do
    addFault ⟨faultDie va, va, tidOf k t, 2, c, t.ctx, t.pc, .fetch k low, 0⟩
    modThread k (fun t => { t with fetchFault := some (BitVec.ofNat 64 va).toNat })
    parkOnFault k
    return .error .nothing

/-- What a slot's turn finds: a trap that is due at this issue point, or the instruction at the PC. -/
def fetchFor (k : Nat) : Act Fetched := do
  settleOwed k
  match (← look).thread? k with
  | none => return .nothing
  | some t =>
    match nextTrap t with
    | (some r, u) => do
      emit (.thread k (some u))
      return .traps r
    | (none, u) => do
      -- a deferred trap that has fallen due in a handler is held (R289)
      if t.due.isEmpty then pure () else emit (.thread k (some u))
      match ← fetchHalf k t none t.pc.toNat with
      | .error f => return f
      | .ok lo =>
        if !lo.getLsbD 0 then return .ready (lo.zeroExtend 32)
        else
          match ← fetchHalf k t (some lo) (t.pc.toNat + 2) with
          | .error f => return f
          | .ok hi => return .ready (hi ++ lo)

/-- A word that does not decode raises ILLEGAL at its first address (R36, R37). -/
def enterIllegal (k : Nat) (insn : BitVec 32) : Act Unit := do
  match (← look).thread? k with
  | none => pure ()
  | some t => enterTrap k (preciseTrap t insn .illegal 0) false

/-! ### Turns (R44-R47) -/

/-- A slot key that no slot has. -/
def noSlot : Nat := 2 ^ 40

/-- The turn of a core's present cycle (R44). -/
def turnNow (s : State) (core : Nat) : Nat := coreCycle s (tileOfCore core) % 17

/-- A thread can take a turn: it is ACTIVE, and no window that has run out keeps it out of rotation (R24, R47). One that forfeits own turns takes no passed turn before the own turn after
them (R96). -/
def readyFor (s : State) (k : Nat) (own : Bool) : Bool :=
  match s.thread? k with
  | none => false
  | some t => t.status = .active && !t.blocked && (decide (t.forfeits = 0) || (own && decide (t.forfeits = 1)))

/-- PRIO, of which a runner slot counts as 3 (R45). -/
def prioOf (s : State) (k : Nat) : Nat := if isRunner k then 3 else ((s.thread? k).map (·.prio.toNat)).getD 0

/-- The thread that gets the turn of a core (R45, R46). -/
def pickThread (s : State) (c : Nat) : Option Nat :=
  let own := turnNow s c
  if readyFor s (keyOf c own) true then some (keyOf c own)
  else if (s.tile (tileOfCore c)).fixed then none
  else
    let others := ((List.range 16).map (fun i => keyOf c ((own + 1 + i) % 17))).filter (fun k => readyFor s k false)
    others.foldl (fun b k => match b with
      | none => some k
      | some j => if prioOf s j < prioOf s k then some k else b) none

/-- A thread that takes its own turn after the turns it forfeits is ready as before. -/
def takeTurnLog (s : State) (k : Nat) : List Effect :=
  match s.thread? k with
  | some t => if t.forfeits = 1 then [.thread k (some { t with forfeits := 0 })] else []
  | none => []

/-- The instruction of a thread could not issue: the thread is WAITING and its turn is passed or idles (R44). -/
def stalled (s : State) (k : Nat) : Bool :=
  match s.thread? k with
  | some t =>
    (match t.status with
    | .waiting .scoreboard => true
    | .waiting .room => true
    | .waiting .earlier => true
    | .waiting .eret => true
    | .waiting (.group _ _ _) => true
    | _ => false)
  | none => false

/-- The turn of a core has passed: its owner, if it did not issue, has had an own turn come round (R54) or forfeited it (R96). -/
def endTurnLog (s : State) (c : Nat) (issued : Option Nat) : List Effect :=
  let k := keyOf c (turnNow s c)
  let own : List Effect :=
    if issued = some k then []
    else match s.thread? k with
      | none => []
      | some t =>
        if t.status = .waiting .yield then [.thread k (some { t with status := goOn s k t })]
        else if 0 < t.forfeits then [.thread k (some { t with forfeits := t.forfeits - 1 })]
        else []
  own ++ [.phase (c + 1)]

/-- The next core with a thread whose turn of this cycle has not passed. -/
def nextCore (s : State) : Option Nat := (s.threads.find? (fun kt => decide (s.phase ≤ coreOf kt.1))).map (fun kt => coreOf kt.1)

/-- The issuer of the conversion whose update of its amax word a request is. -/
def updatingKey (s : State) (r : Req) : Option Nat :=
  match r.who with
  | .engine tile op => (updating s tile op).map (·.key)
  | _ => none

/-- A member of a flask whose wait stops the watchdog's count: SPILLED, on a page fault, or with an engine command stopped on one (R301). -/
def pausesWatchdog (s : State) (k : Nat) : Bool :=
  (match s.thread? k with | some t => t.status = .spilled | none => false) || (faultOf s k).isSome
    || s.faults.any (fun f => match f.who with
      | .engine tile e =>
        let q : List EngineCmd := match e with
          | 0 => (s.tile tile).copyQ
          | 1 => (s.tile tile).convQ
          | _ => (s.tile tile).array.fifo
        q.any (fun c => c.stopped && c.key = k)
      | .traversal tile op => (s.tile tile).rays.any (fun x => x.op = op && x.key = k)
      | .request r => ((mapGet r s.reqs).bind (updatingKey s)) = some k
      | _ => false)

/-- A flask's count of cycles without an issue, after a cycle: an issue sets it to 0, and a pause keeps it (R301). -/
def idleAfter (issued paused : Bool) (idle : Nat) : Nat := if issued then 0 else if paused then idle else idle + 1

/-- The count of a thread that is a flask of its own (R52, R301); a handler belongs to no flask. -/
def idleAlone (s : State) (k : Nat) (t : Thread) : Nat :=
  if t.detached && !isRunner k then idleAfter (t.lastIssue = s.cycle) (pausesWatchdog s k) t.idle else t.idle

/-- A cycle ends: the idle counts of the flasks move (R301), and the slots whose own turn comes in the new cycle try an instruction that stalled. (DESIGN CHOICE: log 11) -/
def cycleLog (s : State) : List Effect :=
  let flasks : List Effect := s.flasks.filterMap (fun f =>
    let ms := flaskMembers s f.1
    let n := idleAfter (f.2.leftIssue = some s.cycle || ms.any (fun m => match s.thread? m with | some t => t.lastIssue = s.cycle | none => false)) (ms.any (pausesWatchdog s)) f.2.idle
    if n = f.2.idle then none else some (.flask f.1 (some { f.2 with idle := n })))
  let threads : List Effect := s.threads.filterMap (fun kt =>
    let t := { kt.2 with idle := idleAlone s kt.1 kt.2 }
    let u := if slotOf kt.1 = (turnNow s (coreOf kt.1) + 1) % 17 && stalled s kt.1 then { t with status := .active } else t
    if u = kt.2 then none else some (.thread kt.1 (some u)))
  let moving : List Effect := s.migrants.filterMap (fun m =>
    if m.2.thread.detached then some (.migrant m.1 (some { m.2 with thread := { m.2.thread with idle := idleAfter (m.2.thread.lastIssue = s.cycle) false m.2.thread.idle } })) else none)
  [.phase 0, .clock (s.cycle + 1)] ++ threads ++ moving ++ flasks

/-! ### Events that the state makes possible -/

/-- An event row with what it acts on. -/
abbrev Candidate := Instr × EventArg

def cand (row : Instr) (arg : EventArg) : Candidate := (row, arg)

/-- Events of a request, by where it stands. -/
def requestEvents (r : Req) : List Candidate :=
  let i := EventArg.one r.id
  let stage : List Candidate := match r.stage with
    | .sent =>
      (match r.ask with
      | .message _ _ _ _ _ => [cand .messageArrival i]
      | .wqask _ => [cand .wqaskArrival i]
      | .wqput _ _ _ => [cand .wqputArrival i]
      | _ => [cand .requestArrival i])
    | .half _ => [cand .requestArrival i]
    | .taken _ _ => [cand .put i]
    | .refused _ => [cand .resend i]
    | _ => []
  if r.expiring then cand .withdraw i :: stage else stage

/-- Events of a thread. -/
def threadEvents (k : Nat) (t : Thread) : List Candidate :=
  let ended : List Candidate := t.ops.filterMap (fun o => if o.result.isSome then some (cand .writeback (.two k o.id)) else none)
  let slot : List Candidate := match t.status with
    | .leaving _ => [cand .migrationDeparture (.one k)]
    | .waiting .quit => [cand .quitSlotEmpty (.one k)]
    | _ => []
  let raster : List Candidate := if t.group.isSome then [cand .rasterize (.one k)] else []
  let engines : List Candidate := t.ops.filterMap (fun o => if o.result.isNone then some (cand .engineAcceptance (.two k o.id)) else none)
  List.flatten [ended, [cand .trapEntry (.one k)], slot, raster, engines]

/-- Events of a tile's engines. -/
def tileEvents (n : Nat) (t : Tile) : List Candidate :=
  let copy : List Candidate := if t.copyQ.isEmpty then [] else [cand .copyExecution (.one n)]
  let conv : List Candidate := if t.convQ.isEmpty then [] else [cand .conversionExecution (.one n)]
  let array : List Candidate := if t.array.fifo.isEmpty then [] else [cand .arrayCommand (.one n), cand .sscanExecution (.one n), cand .deckleRowCommand (.one n)]
  let lists : List Candidate := (List.range t.couch.length).map (fun i => cand .couchPerform (.two n i))
  let rays : List Candidate := (List.range t.rays.length).flatMap (fun i =>
    [cand .traversalBegin (.two n i), cand .ringEntryWrite (.two n i), cand .nodeVisit (.two n i)])
  List.flatten [copy, conv, array, lists, rays]

/-- Events of a die's Tundish and queue scheduler. -/
def dieEvents (s : State) (n : Nat) (d : Die) : List Candidate :=
  let accept : List Candidate := if d.arrivals.isEmpty then [] else [cand .packetAcceptance (.one n)]
  let take : List Candidate := (s.slotsOf n).map (fun q => cand .packetTake (.two n q.1))
  List.flatten [accept, take, if d.queueTable.isSome then [cand .timeSliceExpiry (.one n)] else []]

/-- Events that end waits by time (R172, R284, R301). -/
def timedEvents (s : State) : List Candidate :=
  let waits : List Candidate := s.threads.flatMap (fun kt =>
    (cand .waitlimExpiry (.one kt.1)) :: kt.2.ops.map (fun o => cand .waitlimExpiry (.two kt.1 o.id)))
  let steps : List Candidate := s.replicas.flatMap (fun r => r.2.members.map (fun m => cand .memberTimeout (.two r.1 m)))
  let dogs : List Candidate := s.flasks.map (fun f => cand .watchdogExpiry (.one f.1))
    ++ s.threads.filterMap (fun kt => if kt.2.detached then some (cand .watchdogExpiry (.two kt.1 0)) else none)
  List.flatten [waits, steps, dogs]

/-- The placement that each Tundish makes next (R258). -/
def placements (s : State) : List Candidate :=
  s.dies.filterMap (fun d => (nextPlacement s d.1).map (fun p => cand .flaskPlacement (.three d.1 p.2.1 p.2.2)))

/-- Every event that may be due, in the model's order; each row's own condition decides (log 3). -/
def candidates (s : State) : List Candidate :=
  List.flatten [s.reqs.flatMap (fun r => requestEvents r.2), s.threads.flatMap (fun kt => threadEvents kt.1 kt.2),
    s.wakes.map (fun w => cand .wakeArrival (.one w.id)),
    s.migrants.flatMap (fun m => [cand .runQueueArrival (.one m.1), cand .runQueueEntry (.one m.2.target)]),
    s.cores.flatMap (fun c => if c.2.runnerQ.isEmpty then [] else [cand .handlerStart (.one c.1)]),
    s.tiles.flatMap (fun t => tileEvents t.1 t.2), s.blends.map (fun b => cand .blendPerform (.one b.id)),
    s.dies.flatMap (fun d => dieEvents s d.1 d.2), placements s, s.grids.map (fun g => cand .gridCompletion (.one g.1)), timedEvents s]

end Sys2Proof.Machine
end

