-- ==== Sys2Proof/Machine/World.lean ====
section
/-!
DEFINITION. What the world does to the module beside the rows of the opcode table: soft and uncorrectable errors (R303, R304), a failing array (R223), the elastic clocks (R3, R275), notices
on the management port (R147), and the messages and reductions of peers (R181, R195, R235, R374).
-/

namespace Sys2Proof.Machine

/-! ### Errors (R223, R303, R304) -/

/-- A memory key of HBM, of a local store, or of a copy at a home: where an error can be. -/
def errorPlace (key : Nat) : Bool :=
  decide (key < Config.hbmBytes) || (decide (2 ^ 49 ≤ key) && decide (key < 2 ^ 50)) || (decide (2 ^ 58 ≤ key) && decide (key % 2 ^ 58 < Config.hbmBytes))

/-- The source code of an error at a place (R304). -/
def sourceOf (key : Nat) (slice : Bool) : Nat := if onTile key then 1 else if slice || 2 ^ 58 ≤ key then 2 else 0

/-- The data of a word takes an uncorrectable error (R303). -/
def upset (name : String) (key : Nat) (slice : Bool) : Act Unit := do
  due name (errorPlace key)
  emit (.bad (wordOf key) (some (sourceOf key slice)))

/-- The array of a tile fails: every command in flight there ends in MACHINE_CHECK, one that has a token by STATUS 5 (R223, R303). Which address it names, and whose data is concerned, is
open; what the array held stays. (DESIGN CHOICE: log 69) -/
def failArray (tile : Nat) : Act Unit := do
  let cmds := ((← look).tile tile).array.fifo.filter (·.accepted)
  forEach cmds (fun c => do
    let n ← freshFree
    let va := (Config.freeWord n).toNat
    machineReport 1 va
    match c.work with
    | .plate _ | .stream _ _ | .read _ | .scan => endCmd tile 2 c (tokenWord 5 va) 0 false
    | _ => trapCmd tile 2 c .machineCheck va 1)

/-! ### Clocks (R3, R275) -/

/-- The tile whose cycles the watchdog of a flask counts: that of its first crew (R10, R301). (DESIGN CHOICE: log 11) -/
def watchdogTile (s : State) (f : Flask) : Option Nat := (f.crews.head?.bind (fun c => mapGet c s.crews)).map (·.tile)

/-- A count of cycles after the tile's clock has run some more than the reference, modulo 2^64: a clock that falls back takes cycles away. -/
def driftIdle (cycles idle : Nat) : Nat := if cycles % 2 ^ 64 < 2 ^ 63 then idle + cycles % 2 ^ 64 else idle - (2 ^ 64 - cycles % 2 ^ 64)

/-- The clock of an elastic tile runs some cycles more than the reference: the watchdogs that count its cycles count them, unless they pause (R301). -/
def drift (tile cycles : Nat) : Act Unit := do
  let s ← look
  modTile tile (fun t => { t with ahead := t.ahead + BitVec.ofNat 64 cycles })
  forEach (s.flasks.filter (fun f => watchdogTile s f.2 = some tile && !(flaskMembers s f.1).any (pausesWatchdog s))) (fun f =>
    emit (.flask f.1 (some { f.2 with idle := driftIdle cycles f.2.idle })))
  forEach ((s.threads.filter (fun kt => tileOf kt.1 = tile && kt.2.detached && !isRunner kt.1 && !pausesWatchdog s kt.1)).map (·.1)) (fun k =>
    modThread k (fun t => { t with idle := driftIdle cycles t.idle }))

/-! ### Peers (R181, R195, R235, R374) -/

/-- A message from a peer takes its place in the runner queue of a core; its handler acquires at system scope (R195). One that finds no room is sent again by its peer, which is no event here. -/
def arrivePeerMessage (name : String) (peer sender core : Nat) (pc : Word) (words : List Word) (seq : Option Nat) (ctx : Nat) : Act Unit := do
  due name ((← look).mgmt.boot = .running && decide (0 < peer) && decide (peer < 1024) && decide (sender < 8192) && decide (core < 8192) && decide (ctx < 4096) && words.length = 4)
  let room ← queueMessage core ⟨pc, words, seq, ctx, sender, 2 ^ 40 + peer, [], none, .system⟩
  due name room

/-- A row of a peer's `CPYR` reaches this module: its adds are made in the bound context, and the answer goes back (R235, R374). (DESIGN CHOICE: log 10) -/
def arrivePeerAdd (name : String) (peer ctx va : Nat) (bf16 : Bool) (mode : BitVec 2) (elements : List Nat) : Act Unit := do
  due name ((← look).mgmt.boot = .running && decide (0 < peer) && decide (peer < 1024) && decide (ctx < 4096) && va % 8 = 0)
  let id ← freshId
  let s ← look
  emit (.req id (some {
    id := id, who := .gone, op := 0, ctx := ctx, core := 0, pc := 0, insn := 0, wide := false, ask := .addRow peer bf16, spans := [(va, 8 * elements.length)],
    data := joinBytes (elements.map (fun x => (x, 8))), cmp := 0, d := 0, pf := 0, vlong := false, scope := .system, form := 0, acq := false, rel := false, rmode := mode, seq := 0,
    runner := false, waitlim := 0, retrylim := 0, resends := 0, issued := s.cycle, arrived := 0, after := [], stage := .sent, expiring := false }))

/-! ### Happenings -/

/-- What the world does, as one step. -/
def happens (h : Happening) : State → Step :=
  let name := "WORLD"
  commit name (do
    match h with
    | .upset key slice => upset name key slice
    | .soft source => do
      due name (decide (source < 4))
      modMgmt (fun m => { m with corrected := m.corrected + 1 })
    | .arrayFails tile => do
      due name (decide (tile < 2048))
      failArray tile
    | .drift tile cycles => do
      due name (decide (tile < 2048) && !((← look).tile tile).fixed)
      drift tile cycles
    | .askNotice die on => do
      due name (decide (die < 4) && (← look).mgmt.boot = .running)
      modDie die (fun d => { d with noticeAsked := on })
    | .peerMessage peer sender core pc words seq ctx => arrivePeerMessage name peer sender core pc words seq ctx
    | .peerAdd peer ctx va bf16 mode elements => arrivePeerAdd name peer ctx va bf16 mode elements)

end Sys2Proof.Machine
end

