-- ==== Sys2Proof/Machine/Step.lean ====
section
/-!
DEFINITION. One step of the machine: the next turn of the agenda; with an empty agenda, the first event that is due; with none due, the next core's turn of the cycle under R44-R47;
when every core has had its turn, the cycle ends.
-/

namespace Sys2Proof.Machine

/-- The bytes of a fetched instruction. -/
def insnBytes (x : BitVec 32) : List Byte := (Encoding.word x).bytes

/-- The slot `k` takes its turn: a trap due at this issue point is taken, or its instruction is fetched, decoded and executed. A word that does not decode raises ILLEGAL (R36). -/
def runTurn (k : Nat) (s : State) : Step :=
  match (fetchFor k).from s with
  | .ok (.ready insn, x) =>
    let s1 := replay (.cur k insn :: x.log) s
    match decode (insnBytes insn) with
    | .ok (i, _) => exec i s1
    | .error _ => commit "TRAP_ENTRY" (enterIllegal k insn) s1
  | .ok (.traps r, x) => commit "TRAP_ENTRY" (enterTrap k r false) (replay x.log s)
  | .ok (.nothing, x) => .next (replay x.log s)
  | .error (.fault f) => .fault f
  | .error _ => .next s

/-- An event row is performed, with what it acts on. No slot has a turn meanwhile. -/
def runEvent (row : Instr) (arg : EventArg) (s : State) : Step := exec row (replay [.cur noSlot 0, .input arg] s)

/-- The first of the candidate events that comes about. -/
def firstDue (s : State) : List (Instr × EventArg) → Option Step
  | [] => none
  | (row, arg) :: rest =>
    match runEvent row arg s with
    | .refused _ => firstDue s rest
    | r => some r

/-- The turn of a core: the owner of the turn, or in an elastic context the thread to which the turn is passed (R44-R46). A thread that turns out to stall is WAITING and has not had the
turn, which the next step gives again. -/
def coreTurn (c : Nat) (s : State) : Step :=
  match pickThread s c with
  | none => .next (replay (endTurnLog s c none) s)
  | some k =>
    match runTurn k (replay (takeTurnLog s k) s) with
    | .next s1 => if stalled s1 k then .next s1 else .next (replay (endTurnLog s1 c (some k)) s1)
    | r => r

/-- One step. (DESIGN CHOICE: log 3) -/
def step (s : State) : Step :=
  match s.agenda with
  | .issue k :: rest =>
    let s1 := replay [.agenda rest] s
    match s1.thread? k with
    | some t => if t.status = .active && decide (t.forfeits = 0) && !t.blocked then runTurn k s1 else .next s1
    | none => .next s1
  | .event row arg :: rest => runEvent row arg (replay [.agenda rest] s)
  | .world h :: rest => happens h (replay [.agenda rest] s)
  | [] =>
    match firstDue s (candidates s) with
    | some r => r
    | none =>
      match nextCore s with
      | some c => coreTurn c s
      | none => .next (replay (cycleLog s) s)

/-! ### A program at hand -/

/-- The physical addresses of the tables that `withFetchWord` lays down, and of the instruction. -/
def demoCode : Nat := 0x1000
def demoContexts : Nat := 0x10000
def demoRoot : Nat := 0x20000
def demoMiddle : Nat := 0x30000
def demoLeaves : Nat := 0x40000

/-- Writes `n` bytes of a number into memory. -/
def pokeMem (m : List Host.Cell) (a : Nat) : Nat → Nat → List Host.Cell
  | 0, _ => m
  | n + 1, x => pokeMem (Memory.write m a (BitVec.ofNat 8 x)) (a + 1) n (x / 256)

/-- `s` with an instruction where the next step fetches: the agenda gives the turn to slot 0 of core 3 of tile 0, whose thread stands at `demoCode` in context 0. Die 0 has a context table
whose tables map the first GiB of addresses to the same physical addresses, executable and writable. Nothing older of the code is held: no line of the L1s that serve the core, no
translation, no copy of the granule, no halfword that a store has replaced, no error. `w` is numbered as spec/opcode_table.json numbers its bits; the bits above `nbits` are zero.
(DESIGN CHOICE: log 38) -/
def State.withFetchWord (s : State) (nbits w : Nat) : State :=
  let k := 96
  let m := pokeMem s.mem demoCode 4 (w % 2 ^ nbits % 2 ^ 32)
  let m := pokeMem m demoContexts 16 (demoRoot + 2 ^ 64)
  let m := pokeMem m demoRoot 8 (demoMiddle + 1)
  let m := pokeMem m demoMiddle 8 (demoLeaves + 1)
  let m := pokeMem m demoLeaves 16 (0x1D + (2 ^ 64 - 1) * 2 ^ 64)
  let t := (s.thread? k).getD (freshThread 0 0 0 0)
  { s with
    mem := m
    bad := mapDel demoCode s.bad
    old := []
    dies := mapPut 0 { s.die 0 with contextTable := some demoContexts, views := [] } s.dies
    cores := mapPut 0 { s.core 0 with l1 := [] } (mapPut 3 { s.core 3 with l1 := [] } s.cores)
    tlb := []
    granules := mapDel (demoCode / 256) s.granules
    threads := mapPut k { t.setPc (BitVec.ofNat 64 demoCode) with ctx := 0, status := .active, forfeits := 0, due := [], heldTraps := [], windows := [], owed := none, detached := true } s.threads
    agenda := [.issue k] }

end Sys2Proof.Machine
end

