-- ==== Sys2Proof/Safety.lean ====
section
/-!
DEFINITION. The terms in which claims are made: the canonical form of the state, a step that completes, a thread that can issue an instruction, and what the issue of an
instruction leaves in the state beside its own effect.
-/

namespace Sys2Proof.Machine

/-- The canonical form of the state: memory is canonical, and the keys of every map rise. -/
def State.canonical (s : State) : Prop :=
  Memory.wf s.mem = true ∧ keysRise s.empties = true ∧ keysRise s.bad = true ∧ keysRise s.old = true ∧ keysRise s.threads = true ∧ keysRise s.starts = true ∧ keysRise s.tiles = true ∧ keysRise s.accs = true
    ∧ keysRise s.cores = true ∧ keysRise s.clusters = true ∧ keysRise s.dies = true ∧ keysRise s.contexts = true ∧ keysRise s.queueSlots = true ∧ keysRise s.peers = true ∧ keysRise s.homes = true ∧ keysRise s.arrivals = true
    ∧ keysRise s.holds = true ∧ keysRise s.reqs = true ∧ keysRise s.tlb = true ∧ keysRise s.granules = true
    ∧ keysRise s.migrants = true ∧ keysRise s.crews = true ∧ keysRise s.flasks = true ∧ keysRise s.grids = true ∧ keysRise s.jobs = true
    ∧ keysRise s.gctxs = true ∧ keysRise s.replicas = true

/-- An outcome is a next state. -/
def completes (o : Step) : Prop := ∃ t, o = .next t

/-- The registers of a set are free: no open window and no incomplete operation of the thread will write one of them (R25, R26, R73). -/
def Thread.free (t : Thread) (x : Touch) : Prop := t.violated x = none ∧ t.pending.meets x = false

/-- The thread `t` has the turn and can issue: it is ACTIVE with no turn to forfeit, and no window keeps it out of rotation (R24, R44, R47). -/
structure HasTurn (s : State) (t : Thread) : Prop where
  thread : s.thread? s.cur = some t
  active : t.status = .active
  turn : t.forfeits = 0
  inRotation : t.blocked = false

/-- The thread `t` has the turn, its guard is free and true, and the registers that the instruction reads and writes are free (R21, R25-R28, R73). -/
structure CanIssue (s : State) (t : Thread) (gd : Guard) (uses : Touch) : Prop extends HasTurn s t where
  guardFree : t.free (touchP gd.p)
  guardTrue : guardHolds gd t = true
  usesFree : t.free uses

/-- The thread as an instruction that issues has it: one more instruction of every open window has issued (R23), and the word is the one last issued (R287). -/
def Thread.issuing (t : Thread) (s : State) : Thread := { t.ticked with word := s.insn }

/-- The state with the current thread replaced. -/
def State.withCurrent (s : State) (t : Thread) : State := { s with threads := mapPut s.cur t s.threads }

/-- What a register-only instruction of `len` bytes leaves: the thread's registers changed by `f`, and the PC after the instruction (R14). -/
def State.ran (s : State) (t : Thread) (len : Nat) (f : Thread → Thread) : State :=
  s.withCurrent ((f (t.issuing s)).advance len s.cycle)

/-- What a jump leaves: the registers changed by `f`, and the PC at the target (R87, R88). -/
def State.jumped (s : State) (t : Thread) (pc : Word) (f : Thread → Thread) : State :=
  s.withCurrent { (f (t.issuing s)).setPc pc with lastIssue := s.cycle, waitSince := none }

end Sys2Proof.Machine
end

