-- ==== Sys2Proof/Certificates/Slice0/Obligations.lean ====
section
/-!
DEFINITION. The statements about the machine that are put up for proof, and the tables they are written in. A table gives, for each instruction of a family, what the spec's rules give it:
its guard, the registers it reads and writes, and its result; an instruction that a table does not list is not spoken of there.
-/

namespace Sys2Proof.Claims

open Sys2Proof.Machine

/-! ### Encoding -/

/-- Words of the spec's encodings, a few from every part of the opcode table, with the instructions that they stand for. -/
def words : List (BitVec 32 × Instr) := [
  (0x0FFFF199, .exti 3 0x0FFFF), (0x00502181, .add ⟨0, false⟩ 3 4 5), (0x00000003, .addi ⟨0, false⟩ 0 0 0), (0x0100029B, .getc ⟨0, false⟩ 5 0x010),
  (0x005021A9, .fadd ⟨0, false⟩ 3 4 5 0), (0x705021AB, .cvt ⟨0, false⟩ 3 4 5 7 0), (0x032009C3, .vffma ⟨0, false⟩ 3 1 2 0), (0xFA3032B1, .ldSigned ⟨0, false⟩ 5 6 0xF 2 0 3 ),
  (0x110032B5, .ldc ⟨0, false⟩ 5 6 1 0 0), (0xA07032B9, .amoFaddF32 ⟨0, false⟩ 5 6 7 0), (0x00A0483F, .rmsg ⟨0, false⟩ 9 10 0), (0x00602921, .spawn ⟨0, false⟩ 2 5 6),
  (0x02703553, .mma ⟨0, false⟩ 10 6 7 2), (0x020004D9, .cpy ⟨0, false⟩ 9 2), (0x007035DD, .sscan ⟨0, false⟩ 11 6 7 0), (0x0100195F, .semdn ⟨0, false⟩ 2 3),
  (0x01301361, .qpop ⟨0, false⟩ 6 3 2), (0x00703065, .launch ⟨0, false⟩ 6 7 0), (0x30703569, .stepb ⟨0, false⟩ 10 6 7 0), (0x207031F1, .rlget ⟨0, false⟩ 3 6 7 0),
  (0x001034F3, .trvgo ⟨0, false⟩ 9 6 1 0), (0x33103175, .dkl ⟨0, false⟩ 2 6 1 3), (0x204001F9, .rasfrag ⟨0, false⟩ 3 4 0), (0x1010327B, .texl ⟨0, false⟩ 4 6 1 0),
  (0x2100001D, .brk ⟨0, false⟩)]

/-! ### What stands in front of an instruction's own rule -/

/-- The guard of an instruction: G and N of its word, or true where its format has none (R17, R18, R21). A row without bits, and a form with a condition of its own, has no guard. -/
def guardOf : Instr → Option Guard
  | .add gd _ _ _ => some gd
  | .sub gd _ _ _ => some gd
  | .mul gd _ _ _ => some gd
  | .mulh gd _ _ _ => some gd
  | .mulhn gd _ _ _ => some gd
  | .div gd _ _ _ => some gd
  | .divn gd _ _ _ => some gd
  | .rem gd _ _ _ => some gd
  | .remn gd _ _ _ => some gd
  | .and gd _ _ _ => some gd
  | .or gd _ _ _ => some gd
  | .xor gd _ _ _ => some gd
  | .andn gd _ _ _ => some gd
  | .shl gd _ _ _ => some gd
  | .shr gd _ _ _ => some gd
  | .sar gd _ _ _ => some gd
  | .rol gd _ _ _ => some gd
  | .min gd _ _ _ => some gd
  | .max gd _ _ _ => some gd
  | .minn gd _ _ _ => some gd
  | .maxn gd _ _ _ => some gd
  | .clz gd _ _ => some gd
  | .ctz gd _ _ => some gd
  | .pop gd _ _ => some gd
  | .brev gd _ _ => some gd
  | .bswap gd _ _ => some gd
  | .sel gd _ _ _ _ => some gd
  | .addi gd _ _ _ => some gd
  | .andi gd _ _ _ => some gd
  | .ori gd _ _ _ => some gd
  | .xori gd _ _ _ => some gd
  | .shli gd _ _ _ => some gd
  | .shri gd _ _ _ => some gd
  | .sari gd _ _ _ => some gd
  | .roli gd _ _ _ => some gd
  | .cmpi gd _ _ _ _ => some gd
  | .padd gd _ _ _ _ => some gd
  | .psub gd _ _ _ _ => some gd
  | .pmul gd _ _ _ _ => some gd
  | .pmin gd _ _ _ _ _ => some gd
  | .pmax gd _ _ _ _ _ => some gd
  | .pshl gd _ _ _ _ _ => some gd
  | .pshr gd _ _ _ _ _ => some gd
  | .psar gd _ _ _ _ _ => some gd
  | .cmp gd _ _ _ _ => some gd
  | .pand gd _ _ _ => some gd
  | .por gd _ _ _ => some gd
  | .pxor gd _ _ _ => some gd
  | .pnot gd _ _ => some gd
  | .br gd _ => some gd
  | .getc gd _ _ => some gd
  | .setc gd _ _ => some gd
  | .fence gd _ => some gd
  | .fenceAcq gd _ => some gd
  | .fenceRel gd _ => some gd
  | .fenceI gd => some gd
  | .trap gd _ => some gd
  | .brk gd => some gd
  | .eret gd => some gd
  | .halt gd => some gd
  | .spawn gd _ _ _ => some gd
  | .spawnr gd _ _ => some gd
  | .quit gd => some gd
  | .park gd => some gd
  | .wake gd _ => some gd
  | .migrA gd _ _ => some gd
  | .migrC gd _ _ => some gd
  | .self gd _ _ => some gd
  | .prio gd _ => some gd
  | .barc gd => some gd
  | .barf gd => some gd
  | .baraCrew gd _ => some gd
  | .baraFlask gd _ => some gd
  | .barwCrew gd _ => some gd
  | .barwFlask gd _ => some gd
  | .fadd gd _ _ _ _ => some gd
  | .fsub gd _ _ _ _ => some gd
  | .fmul gd _ _ _ _ => some gd
  | .ffma gd _ _ _ _ => some gd
  | .fdiv gd _ _ _ _ => some gd
  | .fsqrt gd _ _ _ => some gd
  | .fmin gd _ _ _ _ => some gd
  | .fmax gd _ _ _ _ => some gd
  | .fcmp gd _ _ _ _ _ => some gd
  | .cvt gd _ _ _ _ _ => some gd
  | .fclass gd _ _ _ => some gd
  | .ld gd _ _ _ _ _ _ => some gd
  | .ldSigned gd _ _ _ _ _ _ => some gd
  | .ldp gd _ _ _ _ _ => some gd
  | .st gd _ _ _ _ _ _ => some gd
  | .ldw gd _ _ _ _ _ => some gd
  | .ldc gd _ _ _ _ _ => some gd
  | .ldxW gd _ _ _ _ _ => some gd
  | .ldxC gd _ _ _ _ _ => some gd
  | .stf gd _ _ _ _ _ => some gd
  | .stfx gd _ _ _ _ _ => some gd
  | .stff gd _ _ _ _ _ => some gd
  | .amoAdd gd _ _ _ _ => some gd
  | .amoAnd gd _ _ _ _ => some gd
  | .amoOr gd _ _ _ _ => some gd
  | .amoXor gd _ _ _ _ => some gd
  | .amoMin gd _ _ _ _ => some gd
  | .amoMax gd _ _ _ _ => some gd
  | .amoMinn gd _ _ _ _ => some gd
  | .amoMaxn gd _ _ _ _ => some gd
  | .amoSwap gd _ _ _ _ => some gd
  | .amoCas gd _ _ _ _ => some gd
  | .amoFaddF32 gd _ _ _ _ => some gd
  | .amoFaddBf16 gd _ _ _ _ => some gd
  | .amoOrdAdd gd _ _ _ _ => some gd
  | .amoOrdFadd gd _ _ _ _ => some gd
  | .cctlPf gd _ _ => some gd
  | .cctlPfs gd _ _ => some gd
  | .cctlInv gd _ _ => some gd
  | .cctlInva gd _ => some gd
  | .cctlTinv gd _ _ _ => some gd
  | .cctlTinvc gd _ _ => some gd
  | .feset gd _ _ => some gd
  | .feclr gd _ _ => some gd
  | .fetest gd _ _ _ => some gd
  | .rmsg gd _ _ _ => some gd
  | .rmsgSeq gd _ _ _ => some gd
  | .vadd gd _ _ _ _ => some gd
  | .vsub gd _ _ _ _ => some gd
  | .vmul gd _ _ _ _ => some gd
  | .vminI gd _ _ _ _ => some gd
  | .vmaxI gd _ _ _ _ => some gd
  | .vminN gd _ _ _ _ => some gd
  | .vmaxN gd _ _ _ _ => some gd
  | .vand gd _ _ _ _ => some gd
  | .vor gd _ _ _ _ => some gd
  | .vxor gd _ _ _ _ => some gd
  | .vshl gd _ _ _ _ => some gd
  | .vshr gd _ _ _ _ => some gd
  | .vsar gd _ _ _ _ => some gd
  | .vsel gd _ _ _ _ => some gd
  | .vcmp gd _ _ _ _ _ => some gd
  | .vfadd gd _ _ _ _ => some gd
  | .vfsub gd _ _ _ _ => some gd
  | .vfmul gd _ _ _ _ => some gd
  | .vffma gd _ _ _ _ => some gd
  | .vfdiv gd _ _ _ _ => some gd
  | .vfsqrt gd _ _ _ => some gd
  | .vfmin gd _ _ _ _ => some gd
  | .vfmax gd _ _ _ _ => some gd
  | .vfcmp gd _ _ _ _ _ => some gd
  | .vld gd _ _ _ => some gd
  | .vst gd _ _ _ => some gd
  | .vlds gd _ _ _ _ _ => some gd
  | .vgath gd _ _ _ _ _ => some gd
  | .vscat gd _ _ _ _ _ => some gd
  | .vlong gd _ => some gd
  | .vshort gd => some gd
  | .vfnExp2 gd _ _ _ => some gd
  | .vfnLog2 gd _ _ _ => some gd
  | .vfnRcp gd _ _ _ => some gd
  | .vfnRsq gd _ _ _ => some gd
  | .vfnSin gd _ _ _ => some gd
  | .vfnCos gd _ _ _ => some gd
  | .coefld gd _ _ _ => some gd
  | .vredAdd gd _ _ _ => some gd
  | .vredMinI gd _ _ _ => some gd
  | .vredMaxI gd _ _ _ => some gd
  | .vredMinN gd _ _ _ => some gd
  | .vredMaxN gd _ _ _ => some gd
  | .vredFadd gd _ _ _ => some gd
  | .vredFmin gd _ _ _ => some gd
  | .vredFmax gd _ _ _ => some gd
  | .vbcast gd _ _ _ => some gd
  | .vperm gd _ _ _ _ => some gd
  | .mls gd _ _ _ _ => some gd
  | .mlss gd _ _ _ _ => some gd
  | .mma gd _ _ _ _ => some gd
  | .mmaM gd _ _ _ _ => some gd
  | .mmaz gd _ _ _ _ => some gd
  | .mmazM gd _ _ _ _ => some gd
  | .vprune48 gd _ _ _ _ => some gd
  | .vsdot48 gd _ _ _ _ => some gd
  | .mswap gd _ => some gd
  | .mcfg gd _ _ => some gd
  | .mrd gd _ _ _ _ => some gd
  | .mrdZ gd _ _ _ _ => some gd
  | .mpop gd _ _ _ => some gd
  | .mdrain gd _ => some gd
  | .mmon gd _ _ _ => some gd
  | .cpy gd _ _ => some gd
  | .cpym gd _ _ _ => some gd
  | .cpyr gd _ _ _ => some gd
  | .cnv gd _ _ => some gd
  | .amaxrs gd _ _ _ => some gd
  | .sscan gd _ _ _ _ => some gd
  | .semup gd _ _ => some gd
  | .semdn gd _ _ => some gd
  | .semw gd _ => some gd
  | .qpush gd _ _ _ => some gd
  | .qpop gd _ _ _ => some gd
  | .qpeek gd _ _ _ => some gd
  | .wqask gd _ _ _ => some gd
  | .wqput gd _ _ _ => some gd
  | .launch gd _ _ _ => some gd
  | .jobsig gd _ _ _ _ => some gd
  | .cyc gd _ _ => some gd
  | .tfenceOpen gd => some gd
  | .tfenceClose gd _ => some gd
  | .digest gd _ _ _ _ => some gd
  | .stepb gd _ _ _ _ => some gd
  | .rlinit gd _ _ _ => some gd
  | .rlins gd _ _ _ _ => some gd
  | .rlget gd _ _ _ _ => some gd
  | .rlstat gd _ _ _ _ => some gd
  | .rlfin gd _ _ _ => some gd
  | .trvgo gd _ _ _ _ => some gd
  | .trvbud gd _ _ _ => some gd
  | .tri gd _ _ _ _ => some gd
  | .splat gd _ _ _ _ => some gd
  | .volseg gd _ _ _ _ => some gd
  | .dkl gd _ _ _ _ => some gd
  | .gctx gd _ _ _ => some gd
  | .rastri gd _ _ => some gd
  | .rasfrag gd _ _ _ => some gd
  | .blend gd _ _ _ => some gd
  | .texs gd _ _ _ _ => some gd
  | .texl gd _ _ _ _ => some gd
  | .surfrel gd _ _ => some gd
  | .surfacq gd _ _ => some gd
  | .yieldIf1 => some ⟨1, false⟩
  | .yieldIf2 => some ⟨2, false⟩
  | .yieldIf3 => some ⟨3, false⟩
  | .yieldIf4 => some ⟨4, false⟩
  | .yieldIf5 => some ⟨5, false⟩
  | .yieldIf6 => some ⟨6, false⟩
  | .yieldIf7 => some ⟨7, false⟩
  | .yieldIf8 => some ⟨8, false⟩
  | .yieldIf9 => some ⟨9, false⟩
  | .yieldIf10 => some ⟨10, false⟩
  | .yieldIf11 => some ⟨11, false⟩
  | .yieldIf12 => some ⟨12, false⟩
  | .yieldIf13 => some ⟨13, false⟩
  | .yieldIf14 => some ⟨14, false⟩
  | .yieldIf15 => some ⟨15, false⟩
  | .yieldUnless1 => some ⟨1, true⟩
  | .yieldUnless2 => some ⟨2, true⟩
  | .yieldUnless3 => some ⟨3, true⟩
  | .yieldUnless4 => some ⟨4, true⟩
  | .yieldUnless5 => some ⟨5, true⟩
  | .yieldUnless6 => some ⟨6, true⟩
  | .yieldUnless7 => some ⟨7, true⟩
  | .yieldUnless8 => some ⟨8, true⟩
  | .yieldUnless9 => some ⟨9, true⟩
  | .yieldUnless10 => some ⟨10, true⟩
  | .yieldUnless11 => some ⟨11, true⟩
  | .yieldUnless12 => some ⟨12, true⟩
  | .yieldUnless13 => some ⟨13, true⟩
  | .yieldUnless14 => some ⟨14, true⟩
  | .yieldUnless15 => some ⟨15, true⟩
  | .cBr pf _ => some ⟨pf, false⟩
  | _ => none

/-- The length of an instruction in bytes (R14). -/
def lengthOf : Instr → Nat
  | .cBr _ _ => 2
  | _ => 4

/-- The vector registers that an instruction names in the mode of its thread (R113). -/
def vectorFields : Instr → List (BitVec 4)
  | .vadd _ d a b _ => [d, a, b]
  | .vsub _ d a b _ => [d, a, b]
  | .vmul _ d a b _ => [d, a, b]
  | .vminI _ d a b _ => [d, a, b]
  | .vmaxI _ d a b _ => [d, a, b]
  | .vminN _ d a b _ => [d, a, b]
  | .vmaxN _ d a b _ => [d, a, b]
  | .vand _ d a b _ => [d, a, b]
  | .vor _ d a b _ => [d, a, b]
  | .vxor _ d a b _ => [d, a, b]
  | .vshl _ d a b _ => [d, a, b]
  | .vshr _ d a b _ => [d, a, b]
  | .vsar _ d a b _ => [d, a, b]
  | .vsel _ d a b _ => [d, a, b]
  | .vcmp _ d a b _ _ => [d, a, b]
  | .vfadd _ d a b _ => [d, a, b]
  | .vfsub _ d a b _ => [d, a, b]
  | .vfmul _ d a b _ => [d, a, b]
  | .vffma _ d a b _ => [d, a, b]
  | .vfdiv _ d a b _ => [d, a, b]
  | .vfsqrt _ d a _ => [d, a]
  | .vfmin _ d a b _ => [d, a, b]
  | .vfmax _ d a b _ => [d, a, b]
  | .vfcmp _ d a b _ _ => [d, a, b]
  | .vld _ d _ _ => [d]
  | .vst _ d _ _ => [d]
  | .vlds _ d _ _ _ _ => [d]
  | .vgath _ d _ b _ _ => [d, b]
  | .vscat _ d _ b _ _ => [d, b]
  | .vfnExp2 _ d a _ => [d, a]
  | .vfnLog2 _ d a _ => [d, a]
  | .vfnRcp _ d a _ => [d, a]
  | .vfnRsq _ d a _ => [d, a]
  | .vfnSin _ d a _ => [d, a]
  | .vfnCos _ d a _ => [d, a]
  | .vredAdd _ _ a _ => [a]
  | .vredMinI _ _ a _ => [a]
  | .vredMaxI _ _ a _ => [a]
  | .vredMinN _ _ a _ => [a]
  | .vredMaxN _ _ a _ => [a]
  | .vredFadd _ _ a _ => [a]
  | .vredFmin _ _ a _ => [a]
  | .vredFmax _ _ a _ => [a]
  | .vbcast _ d _ _ => [d]
  | .vperm _ d a b _ => [d, a, b]
  | _ => []

/-- The vector registers that the forms for v0-v7 alone name (R219, R307, R319, R343, R353): these are ILLEGAL in LONG mode. -/
def shortFields : Instr → Option (List (BitVec 4))
  | .vprune48 _ d a _ _ => some [d, a]
  | .vsdot48 _ d a _ _ => some [d, a]
  | .rlinit _ _ _ _ => some []
  | .rlins _ _ _ b _ => some [b]
  | .rlget _ d _ _ _ => some [d]
  | .rlstat _ _ _ _ _ => some []
  | .rlfin _ d _ _ => some [d]
  | .trvgo _ _ _ b _ => some [b]
  | .tri _ d _ b _ => some [d, b]
  | .splat _ d _ b _ => some [d, b]
  | .volseg _ d _ b _ => some [d, b]
  | .dkl _ d _ b _ => some [d, b]
  | .gctx _ _ _ _ => some []
  | .rastri _ b _ => some [b]
  | .rasfrag _ d _ _ => some [d]
  | .blend _ _ b _ => some [b]
  | .texs _ d _ b _ => some [d, b]
  | .texl _ d _ b _ => some [d, b]
  | .surfrel _ _ _ => some []
  | .surfacq _ _ _ => some []
  | _ => none

/-- The instructions of majors 0x38 to 0x3A and 0x3C to 0x3E, which core 3 of a tile executes (R62). -/
def onCore3 : Instr → Bool
  | .rlinit _ _ _ _ | .rlins _ _ _ _ _ | .rlget _ _ _ _ _ | .rlstat _ _ _ _ _ | .rlfin _ _ _ _ | .trvgo _ _ _ _ _ | .trvbud _ _ _ _ => true
  | .tri _ _ _ _ _ | .splat _ _ _ _ _ | .volseg _ _ _ _ _ | .dkl _ _ _ _ _ => true
  | .gctx _ _ _ _ | .rastri _ _ _ | .rasfrag _ _ _ _ | .blend _ _ _ _ | .texs _ _ _ _ _ | .texl _ _ _ _ _ | .surfrel _ _ _ | .surfacq _ _ _ => true
  | _ => false

/-- The vector registers of an instruction exist in the mode of its thread (R36, R113). -/
def vectorsOk (i : Instr) (t : Thread) : Prop :=
  (t.long = false → ∀ v ∈ vectorFields i, v.toNat < 8) ∧ (∀ l, shortFields i = some l → t.long = false ∧ ∀ v ∈ l, v.toNat < 8)

/-! ### Integer results (R78-R81, R83, R89) -/

/-- A number modulo 2^64 as a word. -/
def mod64 (n : Nat) : Word := BitVec.ofNat 64 n
/-- An integer modulo 2^64 as a word. -/
def intMod64 (i : Int) : Word := BitVec.ofInt 64 i

/-- The shifts of R80 by an amount n. -/
def shl (a : Word) (n : Nat) : Word := if 64 ≤ n then 0 else mod64 (a.toNat * 2 ^ n)
def shr (a : Word) (n : Nat) : Word := if 64 ≤ n then 0 else mod64 (a.toNat / 2 ^ n)
def sar (a : Word) (n : Nat) : Word := if 64 ≤ n then (if a.toInt < 0 then mod64 (2 ^ 64 - 1) else 0) else intMod64 (a.toInt / 2 ^ n)
def rol (a : Word) (n : Nat) : Word := mod64 (a.toNat * 2 ^ (n % 64) + a.toNat / 2 ^ (64 - n % 64))

/-- What a scalar instruction computes: its guard, its length, its destination, the registers it reads and writes, and s[D]. -/
structure Computes where
  guard : Guard := ⟨0, false⟩
  len : Nat := 4
  d : BitVec 4
  uses : Touch
  result : Word

/-- The instructions of R78. -/
def arithmetic (t : Thread) : Instr → Option Computes
  | .add gd d a b => some { guard := gd, d, uses := touches [touchS d, touchS a, touchS b], result := mod64 ((t.readS a).toNat + (t.readS b).toNat) }
  | .sub gd d a b => some { guard := gd, d, uses := touches [touchS d, touchS a, touchS b], result := intMod64 ((t.readS a).toNat - (t.readS b).toNat : Int) }
  | .mul gd d a b => some { guard := gd, d, uses := touches [touchS d, touchS a, touchS b], result := mod64 ((t.readS a).toNat * (t.readS b).toNat) }
  | .mulh gd d a b => some { guard := gd, d, uses := touches [touchS d, touchS a, touchS b], result := intMod64 ((t.readS a).toInt * (t.readS b).toInt / 2 ^ 64) }
  | .mulhn gd d a b => some { guard := gd, d, uses := touches [touchS d, touchS a, touchS b], result := mod64 ((t.readS a).toNat * (t.readS b).toNat / 2 ^ 64) }
  | .and gd d a b => some { guard := gd, d, uses := touches [touchS d, touchS a, touchS b], result := t.readS a &&& t.readS b }
  | .or gd d a b => some { guard := gd, d, uses := touches [touchS d, touchS a, touchS b], result := t.readS a ||| t.readS b }
  | .xor gd d a b => some { guard := gd, d, uses := touches [touchS d, touchS a, touchS b], result := t.readS a ^^^ t.readS b }
  | .andn gd d a b => some { guard := gd, d, uses := touches [touchS d, touchS a, touchS b], result := t.readS a &&& ~~~(t.readS b) }
  | .min gd d a b => some { guard := gd, d, uses := touches [touchS d, touchS a, touchS b], result := intMod64 (min (t.readS a).toInt (t.readS b).toInt) }
  | .max gd d a b => some { guard := gd, d, uses := touches [touchS d, touchS a, touchS b], result := intMod64 (max (t.readS a).toInt (t.readS b).toInt) }
  | .minn gd d a b => some { guard := gd, d, uses := touches [touchS d, touchS a, touchS b], result := mod64 (min (t.readS a).toNat (t.readS b).toNat) }
  | .maxn gd d a b => some { guard := gd, d, uses := touches [touchS d, touchS a, touchS b], result := mod64 (max (t.readS a).toNat (t.readS b).toNat) }
  | .clz gd d a => some { guard := gd, d, uses := touches [touchS d, touchS a], result := mod64 (((List.range 64).find? (fun i => (t.readS a).getLsbD (63 - i))).getD 64) }
  | .ctz gd d a => some { guard := gd, d, uses := touches [touchS d, touchS a], result := mod64 (((List.range 64).find? (fun i => (t.readS a).getLsbD i)).getD 64) }
  | .pop gd d a => some { guard := gd, d, uses := touches [touchS d, touchS a], result := mod64 ((List.range 64).filter (fun i => (t.readS a).getLsbD i)).length }
  | .brev gd d a => some { guard := gd, d, uses := touches [touchS d, touchS a], result := (t.readS a).reverse }
  | .bswap gd d a =>
    let x := t.readS a
    some { guard := gd, d, uses := touches [touchS d, touchS a],
           result := x.extractLsb' 0 8 ++ x.extractLsb' 8 8 ++ x.extractLsb' 16 8 ++ x.extractLsb' 24 8 ++ x.extractLsb' 32 8 ++ x.extractLsb' 40 8 ++ x.extractLsb' 48 8 ++ x.extractLsb' 56 8 }
  | .sel gd d a b k => some { guard := gd, d, uses := touches [touchS d, touchS a, touchS b, touchP k], result := if t.readP k then t.readS a else t.readS b }
  | _ => none

/-- The shifts of R80. -/
def shifts (t : Thread) : Instr → Option Computes
  | .shl gd d a b => some { guard := gd, d, uses := touches [touchS d, touchS a, touchS b], result := shl (t.readS a) ((t.readS b).toNat % 256) }
  | .shr gd d a b => some { guard := gd, d, uses := touches [touchS d, touchS a, touchS b], result := shr (t.readS a) ((t.readS b).toNat % 256) }
  | .sar gd d a b => some { guard := gd, d, uses := touches [touchS d, touchS a, touchS b], result := sar (t.readS a) ((t.readS b).toNat % 256) }
  | .rol gd d a b => some { guard := gd, d, uses := touches [touchS d, touchS a, touchS b], result := rol (t.readS a) ((t.readS b).toNat % 256) }
  | _ => none

/-- The immediate forms of R81 and the 16-bit forms of R89 that write a scalar. -/
def immediates (t : Thread) : Instr → Option Computes
  | .addi gd d a imm => some { guard := gd, d, uses := touches [touchS d, touchS a], result := intMod64 ((t.readS a).toNat + imm.toInt) }
  | .andi gd d a imm => some { guard := gd, d, uses := touches [touchS d, touchS a], result := t.readS a &&& intMod64 imm.toInt }
  | .ori gd d a imm => some { guard := gd, d, uses := touches [touchS d, touchS a], result := t.readS a ||| intMod64 imm.toInt }
  | .xori gd d a imm => some { guard := gd, d, uses := touches [touchS d, touchS a], result := t.readS a ^^^ intMod64 imm.toInt }
  | .shli gd d a imm => some { guard := gd, d, uses := touches [touchS d, touchS a], result := shl (t.readS a) imm.toNat }
  | .shri gd d a imm => some { guard := gd, d, uses := touches [touchS d, touchS a], result := shr (t.readS a) imm.toNat }
  | .sari gd d a imm => some { guard := gd, d, uses := touches [touchS d, touchS a], result := sar (t.readS a) imm.toNat }
  | .roli gd d a imm => some { guard := gd, d, uses := touches [touchS d, touchS a], result := rol (t.readS a) imm.toNat }
  | .cMov d a => some { len := 2, d, uses := touches [touchS d, touchS a], result := t.readS a }
  | .cAdd d a => some { len := 2, d, uses := touches [touchS d, touchS a], result := mod64 ((t.readS d).toNat + (t.readS a).toNat) }
  | .cSub d a => some { len := 2, d, uses := touches [touchS d, touchS a], result := intMod64 ((t.readS d).toNat - (t.readS a).toNat : Int) }
  | .cAddi d imm => some { len := 2, d, uses := touchS d, result := intMod64 ((t.readS d).toNat + imm.toInt) }
  | .cLdi d imm => some { len := 2, d, uses := touchS d, result := intMod64 imm.toInt }
  | .cShli d imm => some { len := 2, d, uses := touchS d, result := shl (t.readS d) imm.toNat }
  | .cNop => some { len := 2, d := 0, uses := {}, result := 0 }
  | _ => none

/-- The divisions of R79: guard, D, A, B and the result. -/
def divisions (t : Thread) : Instr → Option (Guard × BitVec 4 × BitVec 4 × BitVec 4 × Word)
  | .div gd d a b =>
    let x := t.readS a
    let y := t.readS b
    some (gd, d, a, b, if y = 0 then mod64 (2 ^ 64 - 1) else if x.toInt = -2 ^ 63 ∧ y.toInt = -1 then mod64 (2 ^ 63) else intMod64 (x.toInt.tdiv y.toInt))
  | .divn gd d a b => some (gd, d, a, b, if t.readS b = 0 then mod64 (2 ^ 64 - 1) else mod64 ((t.readS a).toNat / (t.readS b).toNat))
  | .rem gd d a b =>
    let x := t.readS a
    let y := t.readS b
    some (gd, d, a, b, if y = 0 then x else if x.toInt = -2 ^ 63 ∧ y.toInt = -1 then 0 else intMod64 (x.toInt - y.toInt * x.toInt.tdiv y.toInt))
  | .remn gd d a b =>
    some (gd, d, a, b, if t.readS b = 0 then t.readS a else mod64 ((t.readS a).toNat - (t.readS b).toNat * ((t.readS a).toNat / (t.readS b).toNat)))
  | _ => none

/-- A packed instruction of R83: guard, D, A, B, the lane width, and lane i of the result from x, y and the amount n. -/
def packed (b : Word) : Instr → Option (Guard × BitVec 4 × BitVec 4 × BitVec 4 × (w : Nat) × (BitVec w → BitVec w → BitVec w))
  | .padd gd d x y w => some (gd, d, x, y, ⟨8 * 2 ^ w.toNat, fun u v => BitVec.ofNat _ (u.toNat + v.toNat)⟩)
  | .psub gd d x y w => some (gd, d, x, y, ⟨8 * 2 ^ w.toNat, fun u v => BitVec.ofInt _ (u.toNat - v.toNat : Int)⟩)
  | .pmul gd d x y w => some (gd, d, x, y, ⟨8 * 2 ^ w.toNat, fun u v => BitVec.ofNat _ (u.toNat * v.toNat)⟩)
  | .pmin gd d x y w ns => some (gd, d, x, y, ⟨8 * 2 ^ w.toNat, fun u v => if ns = 0 then BitVec.ofInt _ (min u.toInt v.toInt) else BitVec.ofNat _ (min u.toNat v.toNat)⟩)
  | .pmax gd d x y w ns => some (gd, d, x, y, ⟨8 * 2 ^ w.toNat, fun u v => if ns = 0 then BitVec.ofInt _ (max u.toInt v.toInt) else BitVec.ofNat _ (max u.toNat v.toNat)⟩)
  | .pshl gd d x y w bc => some (gd, d, x, y, ⟨8 * 2 ^ w.toNat, fun u v =>
      let n := if bc = 1 then b.toNat % 256 else v.toNat % 256
      if 8 * 2 ^ w.toNat ≤ n then 0 else BitVec.ofNat _ (u.toNat * 2 ^ n)⟩)
  | .pshr gd d x y w bc => some (gd, d, x, y, ⟨8 * 2 ^ w.toNat, fun u v =>
      let n := if bc = 1 then b.toNat % 256 else v.toNat % 256
      if 8 * 2 ^ w.toNat ≤ n then 0 else BitVec.ofNat _ (u.toNat / 2 ^ n)⟩)
  | .psar gd d x y w bc => some (gd, d, x, y, ⟨8 * 2 ^ w.toNat, fun u v =>
      let n := if bc = 1 then b.toNat % 256 else v.toNat % 256
      if 8 * 2 ^ w.toNat ≤ n then (if u.msb then BitVec.allOnes _ else 0) else BitVec.ofInt _ (u.toInt / 2 ^ n)⟩)
  | _ => none

/-! ### Conditions and predicates (R84-R86) -/

/-- The conditions of R84, by code. -/
def holds (cc : Nat) (a b : Word) : Bool :=
  match cc with
  | 0 => decide (a.toNat = b.toNat)
  | 1 => decide (a.toNat ≠ b.toNat)
  | 2 => decide (a.toInt < b.toInt)
  | 3 => decide (a.toInt ≥ b.toInt)
  | 4 => decide (a.toInt > b.toInt)
  | 5 => decide (a.toInt ≤ b.toInt)
  | 6 => decide (a.toNat < b.toNat)
  | 7 => decide (a.toNat ≥ b.toNat)
  | 8 => decide (a.toNat > b.toNat)
  | 9 => decide (a.toNat ≤ b.toNat)
  | 10 => decide ((a &&& b) ≠ 0)
  | _ => decide ((a &&& b) = 0)

/-- What a predicate instruction computes: guard, length, destination, registers read and written, and p[D]. -/
def decides (t : Thread) : Instr → Option (Guard × Nat × BitVec 4 × Touch × Bool)
  | .cmp gd d a b cc => some (gd, 4, d, touches [touchP d, touchS a, touchS b], holds cc.toNat (t.readS a) (t.readS b))
  | .cmpi gd d a cc imm => some (gd, 4, d, touches [touchP d, touchS a], holds cc.toNat (t.readS a) (intMod64 imm.toInt))
  | .cCmp d a cc => some (⟨0, false⟩, 2, d, touches [touchP d, touchS a], holds cc.toNat (t.readS a) 0)
  | .pand gd d a b => some (gd, 4, d, touches [touchP d, touchP a, touchP b], t.readP a && t.readP b)
  | .por gd d a b => some (gd, 4, d, touches [touchP d, touchP a, touchP b], t.readP a || t.readP b)
  | .pxor gd d a b => some (gd, 4, d, touches [touchP d, touchP a, touchP b], t.readP a != t.readP b)
  | .pnot gd d a => some (gd, 4, d, touches [touchP d, touchP a], !t.readP a)
  | _ => none

/-! ### Branches and jumps (R87-R89) -/

/-- A branch: its condition, its length and its target. -/
def branch (pc : Word) : Instr → Option (Guard × Nat × Word)
  | .br gd off => some (gd, 4, intMod64 (pc.toNat + 2 * off.toInt))
  | .cBr pf off => some (⟨pf, false⟩, 2, intMod64 (pc.toNat + 2 * off.toInt))
  | _ => none

/-! ### Control registers (R74, R75) -/

/-- What a `GETC` by an index reads (R75), for an index that R75 assigns. -/
def controlValue (s : State) (t : Thread) (index : Nat) : Option Nat :=
  match index with
  | 0x000 => some (t.inc.toNat * 2 ^ 18 + s.cur)
  | 0x001 => some (s.cur % 32)
  | 0x002 => some (s.cur / 32 % 4)
  | 0x003 => some (s.cur / 128 % 8)
  | 0x004 => some (s.cur / 1024 % 64)
  | 0x005 => some (s.cur / 65536)
  | 0x008 => some (t.p ||| 1).toNat
  | 0x010 => some ((s.cycle + (s.tile (s.cur / 128)).ahead.toNat) % 2 ^ 64)
  | 0x020 => some t.flags.toNat
  | 0x021 => some t.rmode.toNat
  | 0x022 => some t.approx.toNat
  | 0x023 => some t.div0.toNat
  | 0x030 => some t.waitlim.toNat
  | 0x031 => some t.retrylim.toNat
  | 0x038 => some t.prio.toNat
  | 0x040 => some (4 * t.inreg.toNat + 2 * t.broken.toNat + t.fixed.toNat)
  | 0x050 => some t.fmta.toNat
  | 0x051 => some t.fmtb.toNat
  | 0x052 => some t.fmts.toNat
  | 0x060 => some (4 * t.coefbase.toNat)
  | 0x070 => some t.trapvec.toNat
  | 0x071 => some t.traprec.toNat
  | _ => none

/-- What a `SETC` of a value changes in the thread (R75), for an index that R75 marks read-write; PRIO does not change in the runner slot, slot 16. -/
def controlWrite (k : Nat) (index : Nat) (x : Word) : Option (Thread → Thread) :=
  match index with
  | 0x008 => some (fun t => { t with p := x.extractLsb' 0 16 ||| 1 })
  | 0x020 => some (fun t => { t with flags := x.extractLsb' 0 5 })
  | 0x021 => some (fun t => { t with rmode := x.extractLsb' 0 2 })
  | 0x022 => some (fun t => { t with approx := x.extractLsb' 0 9 &&& 0x11F })
  | 0x023 => some (fun t => { t with div0 := x.getLsbD 0 })
  | 0x030 => some (fun t => { t with waitlim := x.extractLsb' 0 32 })
  | 0x031 => some (fun t => { t with retrylim := x.extractLsb' 0 16 })
  | 0x038 => some (fun t => if k % 32 = 16 then t else { t with prio := BitVec.ofNat 2 (min x.toNat 3) })
  | 0x040 => some (fun t => { t with broken := x.getLsbD 1 })
  | 0x050 => some (fun t => { t with fmta := x })
  | 0x051 => some (fun t => { t with fmtb := x })
  | 0x052 => some (fun t => { t with fmts := x })
  | 0x060 => some (fun t => { t with coefbase := x.extractLsb' 2 11 })
  | 0x070 => some (fun t => { t with trapvec := x })
  | 0x071 => some (fun t => { t with traprec := x })
  | _ => none

/-- The registers that an access to a control register touches beside the scalar: PRED is every predicate but p0, and FLAGS is a register of its own (R72, R76). -/
def controlUses (index : Nat) : Touch := if index = 0x008 then { p := 0xFFFE } else if index = 0x020 then { flags := true } else {}

/-! ### Floating point (R94-R96, R106-R112) -/

/-- A thread that forfeits its next n own turns (R96, R111). -/
def forfeits (n : Nat) (t : Thread) : Thread := if n = 0 then t else { t with forfeits := n + 1 }

/-- A scalar floating instruction: guard, operation, D, A, B (A again where there is one operand) and T. -/
def floats : Instr → Option (Guard × FloatOp × BitVec 4 × BitVec 4 × BitVec 4 × BitVec 2)
  | .fadd gd d a b t => some (gd, .add, d, a, b, t)
  | .fsub gd d a b t => some (gd, .sub, d, a, b, t)
  | .fmul gd d a b t => some (gd, .mul, d, a, b, t)
  | .ffma gd d a b t => some (gd, .fma, d, a, b, t)
  | .fdiv gd d a b t => some (gd, .div, d, a, b, t)
  | .fsqrt gd d a t => some (gd, .sqrt, d, a, 0, t)
  | .fmin gd d a b t => some (gd, .min, d, a, b, t)
  | .fmax gd d a b t => some (gd, .max, d, a, b, t)
  | _ => none

/-- Own turns that an operation forfeits for its arithmetic: 2 for a division or square root, 4 in .f64 (R111). -/
def arithmeticTurns (op : FloatOp) (ty : BitVec 2) : Nat :=
  match op with
  | .div | .sqrt => if ty = 3 then 4 else 2
  | _ => 0

/-- The class bit of a code (R109), from its sign, its exponent field and its fraction: in an IEEE format the top exponent holds the infinities and the NaNs, quiet where the fraction's first bit is set;
`e4m3` has one NaN magnitude, of all ones, and the other formats have none. -/
def classBit (f : FloatFmt) (x : Nat) : Nat :=
  let m := x % 2 ^ f.mbits
  let e := x / 2 ^ f.mbits % 2 ^ f.ebits
  let negative := x / 2 ^ (f.ebits + f.mbits) % 2 = 1
  let top := e = 2 ^ f.ebits - 1
  if f.kind = .ieee ∧ top then (if m = 0 then (if negative then 0 else 7) else if m < 2 ^ (f.mbits - 1) then 8 else 9)
  else if f.kind = .e4m3 ∧ top ∧ m = 2 ^ f.mbits - 1 then 9
  else if e = 0 then (if m = 0 then (if negative then 3 else 4) else if negative then 2 else 5)
  else if negative then 1 else 6

/-! ### Vectors (R113-R120) -/

/-- A lane-wise integer instruction of R117: guard, D, A, B, lane width, and lane i of the result from x, y and m. -/
def vectorLanes : Instr → Option (Guard × BitVec 4 × BitVec 4 × BitVec 4 × (w : Nat) × (BitVec w → BitVec w → BitVec w → BitVec w))
  | .vadd gd d a b w => some (gd, d, a, b, ⟨8 * 2 ^ w.toNat, fun x y _ => BitVec.ofNat _ (x.toNat + y.toNat)⟩)
  | .vsub gd d a b w => some (gd, d, a, b, ⟨8 * 2 ^ w.toNat, fun x y _ => BitVec.ofInt _ (x.toNat - y.toNat : Int)⟩)
  | .vmul gd d a b w => some (gd, d, a, b, ⟨8 * 2 ^ w.toNat, fun x y _ => BitVec.ofNat _ (x.toNat * y.toNat)⟩)
  | .vminI gd d a b w => some (gd, d, a, b, ⟨8 * 2 ^ w.toNat, fun x y _ => BitVec.ofInt _ (min x.toInt y.toInt)⟩)
  | .vmaxI gd d a b w => some (gd, d, a, b, ⟨8 * 2 ^ w.toNat, fun x y _ => BitVec.ofInt _ (max x.toInt y.toInt)⟩)
  | .vminN gd d a b w => some (gd, d, a, b, ⟨8 * 2 ^ w.toNat, fun x y _ => BitVec.ofNat _ (min x.toNat y.toNat)⟩)
  | .vmaxN gd d a b w => some (gd, d, a, b, ⟨8 * 2 ^ w.toNat, fun x y _ => BitVec.ofNat _ (max x.toNat y.toNat)⟩)
  | .vand gd d a b w => some (gd, d, a, b, ⟨8 * 2 ^ w.toNat, fun x y _ => x &&& y⟩)
  | .vor gd d a b w => some (gd, d, a, b, ⟨8 * 2 ^ w.toNat, fun x y _ => x ||| y⟩)
  | .vxor gd d a b w => some (gd, d, a, b, ⟨8 * 2 ^ w.toNat, fun x y _ => x ^^^ y⟩)
  | .vshl gd d a b w => some (gd, d, a, b, ⟨8 * 2 ^ w.toNat, fun x y _ => if 8 * 2 ^ w.toNat ≤ y.toNat % 256 then 0 else BitVec.ofNat _ (x.toNat * 2 ^ (y.toNat % 256))⟩)
  | .vshr gd d a b w => some (gd, d, a, b, ⟨8 * 2 ^ w.toNat, fun x y _ => if 8 * 2 ^ w.toNat ≤ y.toNat % 256 then 0 else BitVec.ofNat _ (x.toNat / 2 ^ (y.toNat % 256))⟩)
  | .vsar gd d a b w => some (gd, d, a, b, ⟨8 * 2 ^ w.toNat, fun x y _ =>
      if 8 * 2 ^ w.toNat ≤ y.toNat % 256 then (if x.msb then BitVec.allOnes _ else 0) else BitVec.ofInt _ (x.toInt / 2 ^ (y.toNat % 256))⟩)
  | .vsel gd d a b w => some (gd, d, a, b, ⟨8 * 2 ^ w.toNat, fun x y m => if m.msb then x else y⟩)
  | .vcmp gd d a b w cc => some (gd, d, a, b, ⟨8 * 2 ^ w.toNat, fun x y _ => if condition cc x y then BitVec.allOnes _ else 0⟩)
  | _ => none

/-- A lane-wise floating instruction of R118: guard, operation, D, A, B (A again where there is one operand) and T. -/
def vectorFloats : Instr → Option (Guard × FloatOp × BitVec 4 × BitVec 4 × BitVec 4 × BitVec 2)
  | .vfadd gd d a b t => some (gd, .add, d, a, b, t)
  | .vfsub gd d a b t => some (gd, .sub, d, a, b, t)
  | .vfmul gd d a b t => some (gd, .mul, d, a, b, t)
  | .vffma gd d a b t => some (gd, .fma, d, a, b, t)
  | .vfdiv gd d a b t => some (gd, .div, d, a, b, t)
  | .vfmin gd d a b t => some (gd, .min, d, a, b, t)
  | .vfmax gd d a b t => some (gd, .max, d, a, b, t)
  | .vfsqrt gd d a t => some (gd, .sqrt, d, a, a, t)
  | _ => none

/-- An integer reduction of R120: guard, D, A, E, whether its result is sign-extended, and how two lanes combine. -/
def reductions : Instr → Option (Guard × BitVec 4 × BitVec 4 × BitVec 4 × Bool × ((w : Nat) → BitVec w → BitVec w → BitVec w))
  | .vredAdd gd d a e => some (gd, d, a, e, true, fun _ x y => x + y)
  | .vredMinI gd d a e => some (gd, d, a, e, true, fun _ x y => if x.toInt ≤ y.toInt then x else y)
  | .vredMaxI gd d a e => some (gd, d, a, e, true, fun _ x y => if y.toInt ≤ x.toInt then x else y)
  | .vredMinN gd d a e => some (gd, d, a, e, false, fun _ x y => if x.toNat ≤ y.toNat then x else y)
  | .vredMaxN gd d a e => some (gd, d, a, e, false, fun _ x y => if y.toNat ≤ x.toNat then x else y)
  | _ => none

/-- A floating reduction of R120. -/
def floatReductions : Instr → Option (Guard × FloatOp × BitVec 4 × BitVec 4 × BitVec 4)
  | .vredFadd gd d a e => some (gd, .add, d, a, e)
  | .vredFmin gd d a e => some (gd, .min, d, a, e)
  | .vredFmax gd d a e => some (gd, .max, d, a, e)
  | _ => none

/-- A vector register of the current thread in its mode: vN, zero-extended, or wN of the tile's unit (R113). -/
def register (s : State) (t : Thread) (i : BitVec 4) : LongVec := if t.long then (s.tile (tileOf s.cur)).readW i else (t.readV i).zeroExtend 2048

/-- Lane k of a register (R116). -/
def part (w : Nat) (x : LongVec) (k : Nat) : BitVec w := x.extractLsb' (w * k) w

/-- How many rounds of halving reduce the lanes of width w in the thread's mode to one. -/
def rounds (t : Thread) (w : Nat) : Nat := (vecBits t / w).log2

/-- A vector result: in SHORT mode the thread's next instruction sees it; in LONG mode it is an operation in flight that opens no window, and writes when it lands (R113, R124). `fl` holds the flags of an
instruction that can set one, whose destination FLAGS is (R76). -/
def deliversResult (s : State) (t : Thread) (dest : Touch) (w : RegWrite) (now : Thread → Thread) (fl : Option Flags) (turns : Nat) : State :=
  if t.long then
    let writes := match fl with | some x => [w, .flags x] | none => [w]
    let o : PendOp := ⟨s.nextId, t.pc, s.insn, Machine.isWide s.insn, if fl.isSome then dest.union touchFlags else dest, true, false, 0, false, s.cycle, some { writes := writes }⟩
    { s.ran t 4 (fun u => { u with ops := u.ops ++ [o] }) with nextId := s.nextId + 1 }
  else s.ran t 4 (fun u => forfeits turns (match fl with | some x => (now u).orFlags x | none => now u))

/-- A result for vector register D. -/
def delivers (s : State) (t : Thread) (d : BitVec 4) (r : LongVec) (fl : Option Flags) (turns : Nat) : State :=
  deliversResult s t (touchVec d t) (.w d r) (fun u => u.writeV d (r.extractLsb' 0 256)) fl turns

/-- A result for s[D]. -/
def deliversScalar (s : State) (t : Thread) (d : BitVec 4) (x : Word) (fl : Option Flags) (turns : Nat) : State :=
  deliversResult s t (touchS d) (.s d x) (fun u => if d = 0 then u else u.writeS d x) fl turns

/-- The tiles once the thread's context owns the coefficient memory of its tile (R128). -/
def coefClaimed (s : State) (t : Thread) : NatMap Tile :=
  if (s.tile (tileOf s.cur)).coefOwner = none then mapPut (tileOf s.cur) { s.tile (tileOf s.cur) with coefOwner := some t.ctx } s.tiles else s.tiles

/-- A thing of a tile may be used by a context: it has no owner, or that one (R128, R249, R252). -/
def mayOwn (owner : Option Nat) (ctx : Nat) : Prop := owner = none ∨ owner = some ctx

/-- The first of two elements of a prune format has the greater magnitude: a NaN has the greatest (R219, R220). -/
def greater (ty : BitVec 2) (x y : BitVec 8) : Bool :=
  let code := if ty = 0 then 8 else if ty = 1 then 3 else 4
  match plainDecode code x.toNat, plainDecode code y.toNat with
  | .nan _ _, .nan _ _ => false
  | .nan _ _, _ => true
  | _, .nan _ _ => false
  | .inf _, .inf _ => false
  | .inf _, _ => true
  | _, .inf _ => false
  | u, v => Q.lt v.toQ.abs u.toQ.abs

/-- The fixed order of R120 over 2^n values: each of the first half is combined with the one half the length further. -/
def pairwise {α : Type} (f : α → α → α) : (n : Nat) → (Nat → α) → α
  | 0, x => x 0
  | n + 1, x => pairwise f n (fun i => f (x i) (x (i + 2 ^ n)))

/-- A `VFN` of R129: guard, function, D, A and T. -/
def functions : Instr → Option (Guard × CoefFn × BitVec 4 × BitVec 4 × BitVec 4)
  | .vfnExp2 gd d a t => some (gd, .exp2, d, a, t)
  | .vfnLog2 gd d a t => some (gd, .log2, d, a, t)
  | .vfnRcp gd d a t => some (gd, .rcp, d, a, t)
  | .vfnRsq gd d a t => some (gd, .rsq, d, a, t)
  | .vfnSin gd d a t => some (gd, .sin, d, a, t)
  | .vfnCos gd d a t => some (gd, .cos, d, a, t)
  | _ => none

/-- The directory entries that a function needs (R129). -/
def functionEntries (f : CoefFn) : List CoefFn := if f = .sin ∨ f = .cos then [.sin, .cos] else [f]

/-! ### Instructions that send a request (R23, R150-R153, R394) -/

/-- The thread after the operation `id` of its instruction has been opened: it is in flight with its destinations, and its window is open (R23). -/
def opened (s : State) (dest extra : Touch) (la : BitVec 4) (t : Thread) : Thread :=
  { t with
    ops := t.ops ++ [⟨s.nextId, t.pc, s.insn, Machine.isWide s.insn, dest.union extra, false, true, la.toNat, false, s.cycle, none⟩]
    windows := t.windows ++ [⟨s.nextId, t.pc, la.toNat, dest⟩] }

/-- A fixed-timing thread whose access leaves the tile's local store has its timing broken (R277). -/
def breaks (shared : Bool) (t : Thread) : Thread := if shared && t.fixed then { t with broken := true } else t

/-- The state after an instruction of `len` bytes has sent the request `r`: its operation is open, the request is in flight behind what it must wait for, the PC is past the instruction, and nothing
else has changed. -/
def sends (s : State) (t : Thread) (len : Nat) (dest extra : Touch) (la : BitVec 4) (r : Req) : State :=
  { s.ran t len (fun u => breaks (!r.spans.all (fun x => inWindow x.1)) (opened s dest extra la u)) with
    reqs := mapPut (s.nextId + 1) { r with after := barring s s.cur t [] r.rel } s.reqs
    nextId := s.nextId + 2 }

/-- A request of the thread's instruction, with what it captures at issue (R33, R76). -/
def request (s : State) (t : Thread) (ask : Ask) (spans : List (Nat × Nat)) : Req := newReq s s.cur (t.issuing s) (s.nextId + 1) s.nextId ask spans

/-- The address of an access is canonical and aligned (R132, R144). -/
def addressOk (va : Word) (n : Nat) : Prop := va.toNat < 2 ^ 56 ∧ va.toNat % n = 0

/-- An OFF4 field of an access of `n` bytes (R19). -/
def offset (t : Thread) (off : BitVec 4) (n : Nat) : Word := if off = 8 then t.readE 7 else intMod64 (off.toInt * n)

/-- A scalar load of R151 or R89: guard, length, D, A, offset, bytes, sign extension, acquire, LA. -/
def loads (t : Thread) : Instr → Option (Guard × Nat × BitVec 4 × BitVec 4 × Word × Nat × Bool × Bool × BitVec 4)
  | .ld gd d a off sz ord la => some (gd, 4, d, a, offset t off (2 ^ sz.toNat), 2 ^ sz.toNat, false, ord == 1, la)
  | .ldSigned gd d a off sz ord la => some (gd, 4, d, a, offset t off (2 ^ sz.toNat), 2 ^ sz.toNat, true, ord == 1, la)
  | .cLd d a off => some (⟨0, false⟩, 2, d, a.zeroExtend 4 + 8, mod64 (8 * off.toNat), 8, false, false, 0)
  | .cPop d k => some (⟨0, false⟩, 2, d, 14, intMod64 (-8 * k.toNat), 8, false, false, 0)
  | _ => none

/-- A scalar store of R151 or R89: guard, length, D, A, offset, bytes, release, LA. -/
def stores (t : Thread) : Instr → Option (Guard × Nat × BitVec 4 × BitVec 4 × Word × Nat × Bool × BitVec 4)
  | .st gd d a off sz ord la => some (gd, 4, d, a, offset t off (2 ^ sz.toNat), 2 ^ sz.toNat, ord == 1, la)
  | .cSt d a off => some (⟨0, false⟩, 2, d, a.zeroExtend 4 + 8, mod64 (8 * off.toNat), 8, false, 0)
  | .cPush d k => some (⟨0, false⟩, 2, d, 14, intMod64 (-8 * k.toNat), 8, false, 0)
  | _ => none

/-- A full/empty operation of R164 or R165: guard, operation, D, A, failure predicate, offset, FORM, LA, the registers beside s[A] that it reads and writes, and its destinations. -/
def fullEmpties (t : Thread) : Instr → Option (Guard × FeOp × BitVec 4 × BitVec 4 × BitVec 4 × Word × BitVec 2 × BitVec 4 × Touch × Touch)
  | .ldw gd d a off form la => some (gd, .ldw, d, a, 0, offset t off 8, form, la, touchS d, touchS d)
  | .ldc gd d a off form la => some (gd, .ldc, d, a, 0, offset t off 8, form, la, touchS d, touchS d)
  | .ldxW gd d a pf form la => some (gd, .ldxw, d, a, pf, 0, form, la, (touchS d).union (touchP pf), (touchS d).union (touchP pf))
  | .ldxC gd d a pf form la => some (gd, .ldxc, d, a, pf, 0, form, la, (touchS d).union (touchP pf), (touchS d).union (touchP pf))
  | .stf gd d a off form la => some (gd, .stf, d, a, 0, offset t off 8, form, la, touchS d, {})
  | .stfx gd d a pf form la => some (gd, .stfx, d, a, pf, 0, form, la, (touchS d).union (touchP pf), touchP pf)
  | .stff gd d a off form la => some (gd, .stff, d, a, 0, offset t off 8, form, la, touchS d, {})
  | .feset gd a la => some (gd, .feset, 0, a, 0, 0, 0, la, {}, {})
  | .feclr gd a la => some (gd, .feclr, 0, a, 0, 0, 0, la, {}, {})
  | .fetest gd d a la => some (gd, .fetest, d, a, 0, 0, 0, la, touchP d, touchP d)
  | _ => none

/-- The operations that wait, which a runner slot must not use (R173). -/
def waits : FeOp → Bool
  | .ldw | .ldc | .stf => true
  | _ => false

/-- The operations that acquire; the others release (R161). -/
def acquires : FeOp → Bool
  | .ldw | .ldc | .ldxw | .ldxc | .fetest => true
  | _ => false

/-- An atomic of R175-R177 or R241: guard, operation, D, A, B, LA, the bytes it is aligned to, and whether it can set a flag. -/
def atomics : Instr → Option (Guard × AmoOp × BitVec 4 × BitVec 4 × BitVec 4 × BitVec 4 × Nat × Bool)
  | .amoAdd gd d a b la => some (gd, .add, d, a, b, la, 8, false)
  | .amoAnd gd d a b la => some (gd, .and, d, a, b, la, 8, false)
  | .amoOr gd d a b la => some (gd, .or, d, a, b, la, 8, false)
  | .amoXor gd d a b la => some (gd, .xor, d, a, b, la, 8, false)
  | .amoMin gd d a b la => some (gd, .min, d, a, b, la, 8, false)
  | .amoMax gd d a b la => some (gd, .max, d, a, b, la, 8, false)
  | .amoMinn gd d a b la => some (gd, .minn, d, a, b, la, 8, false)
  | .amoMaxn gd d a b la => some (gd, .maxn, d, a, b, la, 8, false)
  | .amoSwap gd d a b la => some (gd, .swap, d, a, b, la, 8, false)
  | .amoCas gd d a b la => some (gd, .cas, d, a, b, la, 8, false)
  | .amoFaddF32 gd d a b la => some (gd, .faddF32, d, a, b, la, 4, true)
  | .amoFaddBf16 gd d a b la => some (gd, .faddBf16, d, a, b, la, 2, true)
  | .amoOrdAdd gd d a b la => some (gd, .ordAdd, d, a, b, la, 8, false)
  | .amoOrdFadd gd d a b la => some (gd, .ordFadd, d, a, b, la, 8, true)
  | .amaxrs gd d a la => some (gd, .reset, d, a, 0, la, 8, false)
  | _ => none

/-- An active message of R181: guard, A, B, LA, and whether it carries a sequence number. -/
def messages : Instr → Option (Guard × BitVec 4 × BitVec 4 × BitVec 4 × Bool)
  | .rmsg gd a b la => some (gd, a, b, la, false)
  | .rmsgSeq gd a b la => some (gd, a, b, la, true)
  | _ => none

/-- The operation of the thread's turn ends with a result, which a writeback will bring (R23). -/
def finished (op : Nat) (r : Result) (t : Thread) : Thread := { t with ops := t.ops.map (fun o => if o.id = op then { o with result := some r } else o) }

/-! ### Threads, barriers, and the things of a tile (R49-R69, R192, R248-R254) -/

/-- `YIELD` in each of its forms: its guard and its length (R54, R89). -/
def yields : Instr → Option (Guard × Nat)
  | .yield => some (⟨0, false⟩, 4)
  | .cYield => some (⟨0, false⟩, 2)
  | .yieldIf1 => some (⟨1, false⟩, 4)
  | .yieldIf2 => some (⟨2, false⟩, 4)
  | .yieldIf3 => some (⟨3, false⟩, 4)
  | .yieldIf4 => some (⟨4, false⟩, 4)
  | .yieldIf5 => some (⟨5, false⟩, 4)
  | .yieldIf6 => some (⟨6, false⟩, 4)
  | .yieldIf7 => some (⟨7, false⟩, 4)
  | .yieldIf8 => some (⟨8, false⟩, 4)
  | .yieldIf9 => some (⟨9, false⟩, 4)
  | .yieldIf10 => some (⟨10, false⟩, 4)
  | .yieldIf11 => some (⟨11, false⟩, 4)
  | .yieldIf12 => some (⟨12, false⟩, 4)
  | .yieldIf13 => some (⟨13, false⟩, 4)
  | .yieldIf14 => some (⟨14, false⟩, 4)
  | .yieldIf15 => some (⟨15, false⟩, 4)
  | .yieldUnless1 => some (⟨1, true⟩, 4)
  | .yieldUnless2 => some (⟨2, true⟩, 4)
  | .yieldUnless3 => some (⟨3, true⟩, 4)
  | .yieldUnless4 => some (⟨4, true⟩, 4)
  | .yieldUnless5 => some (⟨5, true⟩, 4)
  | .yieldUnless6 => some (⟨6, true⟩, 4)
  | .yieldUnless7 => some (⟨7, true⟩, 4)
  | .yieldUnless8 => some (⟨8, true⟩, 4)
  | .yieldUnless9 => some (⟨9, true⟩, 4)
  | .yieldUnless10 => some (⟨10, true⟩, 4)
  | .yieldUnless11 => some (⟨11, true⟩, 4)
  | .yieldUnless12 => some (⟨12, true⟩, 4)
  | .yieldUnless13 => some (⟨13, true⟩, 4)
  | .yieldUnless14 => some (⟨14, true⟩, 4)
  | .yieldUnless15 => some (⟨15, true⟩, 4)
  | _ => none

/-- The L1 of a core as an acquire of a wider scope than thread leaves it: only lines that fetch filled from an executable, read-only page stay (R155). -/
def acquired (c : Core) : Core := if c.l1.isEmpty then c else { c with l1 := c.l1.filter (fun l => l.fetched && l.x && !l.w) }

/-- The cores after an acquire of the current thread at a scope, in a cluster whose L1s are not fused. -/
def acquiredCores (s : State) (sc : Scope) : NatMap Core :=
  if sc = .thread then s.cores else mapPut (coreOf s.cur) (acquired (s.core (coreOf s.cur))) s.cores

/-- The tiles when the current core's L1 is discarded: the node cache of its tile goes with the L1 of core 3 (R333). -/
def nodesDropped (s : State) : NatMap Tile :=
  if roleOf s.cur = 3 ∧ (s.tile (tileOf s.cur)).nodes ≠ [] then mapPut (tileOf s.cur) { s.tile (tileOf s.cur) with nodes := [] } s.tiles else s.tiles

/-- The tiles after an acquire of the current thread at a scope, in a cluster whose L1s are not fused. -/
def acquiredTiles (s : State) (sc : Scope) : NatMap Tile := if sc = .thread then s.tiles else nodesDropped s

/-- A tile in which an acquire of the current thread at a scope has emptied the node cache, where that is the thread's tile and it runs on core 3. -/
def nodesAt (s : State) (sc : Scope) (x : Tile) : Tile := if sc ≠ .thread ∧ roleOf s.cur = 3 then { x with nodes := [] } else x

/-- The state after an acquire of the current thread at a scope has discarded what it discards there and then. -/
def acquiredState (s : State) (sc : Scope) (u : State) : State := { u with cores := acquiredCores s sc, tiles := acquiredTiles s sc }

/-- A thread whose later accesses wait for what an acquire of it carries (R394); while some of that is outstanding, the thread owes the discard of its scope once more, which it makes when all has been
performed. -/
def follows (s : State) (ids : List Nat) (sc : Scope) (t : Thread) : Thread :=
  let after := outstanding s t.after ++ outstanding s ids
  { t with after := after, owed := if after = [] ∨ sc = .thread then t.owed else stronger t.owed sc }

/-- The current thread waiting at its instruction, timed from the beginning of a wait of this kind, by its tile's count (R10, R47, R172). -/
def waiting (s : State) (t : Thread) (w : Wait) : Thread :=
  { t with
    status := .waiting w
    waitSince := some (match t.waitSince with
      | some (x, c) => (.waiting w, if x = .waiting w then c else coreCycle s (tileOf s.cur))
      | none => (.waiting w, coreCycle s (tileOf s.cur)))
    word := s.insn }

/-- The current thread parked by an instruction that has issued, timed from now on by its tile's count (R10, R172). -/
def parkedAt (s : State) (p : Park) (t : Thread) : Thread :=
  { t with status := .parked p, waitSince := some (.parked p, coreCycle s (tileOf s.cur)), lastIssue := s.cycle }

/-- By the count of a tile, `d` cycles have passed since it stood at `since`. -/
def passed (s : State) (tile since d : Nat) : Prop := coreCycle s tile = (since + d) % 2 ^ 64 ∧ d < 2 ^ 63

/-- The one of two scopes at which a discard takes place, if either does. -/
def either (a b : Scope) : Scope := if a = .thread then b else a

/-- A fence with a release part has nothing to wait for (R192): every earlier access has been performed, what earlier acquires wait for too, no operation that has ended is still to be written back, and every engine command has
been accepted. -/
def fenceReady (s : State) (t : Thread) : Prop :=
  ownAccesses s s.cur = [] ∧ outstanding s t.after = [] ∧ (∀ o ∈ t.ops, o.result ≠ none → o.token = true)
    ∧ ∀ x ∈ s.tiles, ∀ c ∈ x.2.copyQ ++ x.2.convQ ++ x.2.array.fifo, c.key = s.cur → c.accepted = true

/-- An earlier access, or an engine command that its FIFO has not accepted, keeps a release waiting (R192). -/
def fenceHeld (s : State) : Prop :=
  ownAccesses s s.cur ≠ [] ∨ ∃ x ∈ s.tiles, ∃ c ∈ x.2.copyQ ++ x.2.convQ ++ x.2.array.fifo, c.key = s.cur ∧ c.accepted = false

/-- An address of the shared space that its home finds, with no other translation of the context held for it (R137, R141) and no decoded view on its die (R368). -/
structure Mapped (s : State) (ctx va : Nat) (l : CachedLeaf) : Prop where
  canonical : va < 2 ^ 56
  shared : inWindow va = false
  leaf : walk s ctx va = .leaf l
  known : ∀ x ∈ (s.slice (homeHash va)).first ++ (s.slice (lastSlice va)).last, x.serves ctx va = true → x.leaf = l
  plain : (s.die (homeDie va)).views = []

/-- The granule behind an address is reached through one home alone, so that HBM's word is the one there is (R142), and the slice has room for a granule more (R5). -/
def SoleHome (s : State) (va : Nat) (l : CachedLeaf) : Prop :=
  (∀ g, mapGet (l.key va / 256) s.granules = some g → g.copies = [] ∧ g.holder.home = homeHash va) ∧ (s.granules.filter (fun e => e.2.heldBy (homeHash va))).length + 1 < 4096

/-- A state with reports beside another: those of words in error that a read of tables has met, of which there are none where no word is in error (R304). -/
def Reported (s u : State) : Prop := ∃ reports, u = { s with sent := reports ++ s.sent } ∧ (s.bad = [] → reports = [])

/-- A state that differs in what the translation caches and the homes hold, in the count of choices that are left open (R141, R142), and in the reports of a walk. -/
def Caches (s u : State) : Prop := ∃ tlb granules n, Reported { s with tlb := tlb, granules := granules, freeCtr := n } u

/-- The L1s of the current thread's cluster are not fused. -/
def unfused (s : State) : Prop := (s.cluster (clusterOfTile (tileOf s.cur))).fused = false

/-- A barrier instruction: guard, whether it is of the flask, and its kind: it arrives and waits, it arrives and writes s[D], or it waits for the phase in s[A] (R67). -/
inductive BarrierUse where
  | wait
  | arrive (d : BitVec 4)
  | phase (a : BitVec 4)

def barriers : Instr → Option (Guard × Bool × BarrierUse)
  | .barc gd => some (gd, false, .wait)
  | .barf gd => some (gd, true, .wait)
  | .baraCrew gd d => some (gd, false, .arrive d)
  | .baraFlask gd d => some (gd, true, .arrive d)
  | .barwCrew gd a => some (gd, false, .phase a)
  | .barwFlask gd a => some (gd, true, .phase a)
  | _ => none

/-- A thread's flags at its crew's or its flask's barrier. -/
def memberFlags (flask : Bool) (t : Thread) : BarrierFlags := if flask then t.barFlask else t.barCrew
def withMemberFlags (flask : Bool) (b : BarrierFlags) (t : Thread) : Thread := if flask then { t with barFlask := b } else { t with barCrew := b }

/-- The phase of a thread's crew or flask. -/
def unitPhase (s : State) (flask : Bool) (t : Thread) : Option (BitVec 32) :=
  if flask then (mapGet t.flask s.flasks).map (·.phase) else (mapGet t.crew s.crews).map (·.phase)

/-- The members of a thread's crew or flask, by slot key. -/
def unitMembers (s : State) (flask : Bool) (t : Thread) : List Nat :=
  if flask then flaskMembers s t.flask else ((mapGet t.crew s.crews).map (·.members)).getD []

/-- Some member of the unit has not arrived in the present phase, other than the thread itself. -/
def someoneMissing (s : State) (flask : Bool) (t : Thread) : Prop :=
  ∃ m ∈ unitMembers s flask t, m ≠ s.cur ∧ ∀ u, memberThread s m = some u → (memberFlags flask u).arrived = false

/-- The thread is a member and every other member of the unit has arrived in the present phase. -/
def lastToArrive (s : State) (flask : Bool) (t : Thread) : Prop :=
  s.cur ∈ unitMembers s flask t ∧ ∀ m ∈ unitMembers s flask t, m ≠ s.cur → ∃ u, memberThread s m = some u ∧ (memberFlags flask u).arrived = true

/-- The thread with its arrival in the present phase, and a state in which the thread's unit has the arrival's releases (R67). -/
def hasArrived (flask : Bool) (t : Thread) (phase : BitVec 32) (u : Thread) : Thread := withMemberFlags flask { memberFlags flask t with arrived := true, phase := phase } u
def arrivalRecorded (s : State) (flask : Bool) (t : Thread) (x : State) : State :=
  if flask then { x with flasks := match mapGet t.flask s.flasks with | some f => mapPut t.flask { f with rel := f.rel ++ releaseSet s s.cur } s.flasks | none => s.flasks }
  else { x with crews := match mapGet t.crew s.crews with | some c => mapPut t.crew { c with rel := c.rel ++ releaseSet s s.cur } s.crews | none => s.crews }

/-- The wait for a phase is over (R67). -/
def isOver (now waited : BitVec 32) : Prop := 1 ≤ (now - waited).toNat ∧ (now - waited).toNat ≤ 2 ^ 31

/-- What the completed phases of a thread's crew or flask released, and the unit after its phase has completed with what this phase released (R67). -/
def unitReleased (s : State) (flask : Bool) (t : Thread) : List Nat :=
  if flask then ((mapGet t.flask s.flasks).map (·.prev)).getD [] else ((mapGet t.crew s.crews).map (·.prev)).getD []

/-- The phase of a thread's unit has completed with the thread's own arrival: the unit is in the next phase, with nothing released in it, and what all its arrivals released is what its waiters acquire. -/
def phaseCompleted (s : State) (flask : Bool) (t : Thread) (u : State) : Prop :=
  if flask then ∀ f, mapGet t.flask s.flasks = some f →
    mapGet t.flask u.flasks = some { f with phase := f.phase + 1, rel := [], prev := outstanding s f.prev ++ outstanding s (f.rel ++ releaseSet s s.cur) }
  else ∀ c, mapGet t.crew s.crews = some c →
    mapGet t.crew u.crews = some { c with phase := c.phase + 1, rel := [], prev := outstanding s c.prev ++ outstanding s (c.rel ++ releaseSet s s.cur) }

/-- Nothing else keeps a parked thread from going on: no page fault rests on it, no `STEPB` of it waits for the group, and no trap of it waits to be entered (R47, R146, R284). -/
def unheld (s : State) (k : Nat) (t : Thread) : Prop := faultOf s k = none ∧ stepWaits s k = false ∧ t.entering = none

/-- A thread after a wait of it has ended: it is ACTIVE where nothing else holds it, and PARKED while a page fault rests on it (R47, R146, R149). -/
def freed (s : State) (k : Nat) (t : Thread) (x : Status) : Prop := (unheld s k t → x = .active) ∧ ((faultOf s k).isSome = true → x = .parked .fault)

/-- A member as the completion of a phase leaves it: it has not arrived in the new phase, and it goes on past its instruction where it waits in its slot for a phase that is over. -/
def memberAfter (s : State) (flask : Bool) (phase : BitVec 32) (m : Nat) (v w : Thread) : Prop :=
  let goesOn := m < 2 ^ 30 ∧ ∃ p own, v.status = .parked (.barrier flask p own) ∧ isOver phase p
  (memberFlags flask w).arrived = false ∧ (goesOn → freed s m v w.status ∧ w.pc = v.pc + 4) ∧ (¬ goesOn → w.status = v.status ∧ w.pc = v.pc)


/-! ### Engine commands (R200-R217, R225-R242) -/

/-- What a thread's instruction gives a tile engine: its guard; the engine (0 copy, 1 conversion, 2 array) and the role core that may command it; the registers it reads and writes; the
destinations that its window keeps and those outside the window (R226); its lookahead; the work with its token register and operands; whether it has no published cost (R277); what it changes in its
thread at issue; and what its issue requires beside a general slot of the role core, room and, for the array, its holder. -/
structure Command where
  guard : Guard
  engine : Nat
  uses : Touch
  dest : Touch := {}
  extra : Touch := {}
  la : BitVec 4
  work : EngineWork
  d : BitVec 4 := 0
  a : Word := 0
  b : Word := 0
  untimed : Bool := false
  also : Thread → Thread := id
  needs : Prop := True

/-- The shape operand of a stream or a read is legal, with its address aligned, and, for operands of the local store, every row of `span` bytes within the window (R209, R211). -/
def rowsOk (a b : Word) (span : Nat) (window : Bool) : Prop :=
  addressOk a 8 ∧ bits b.toNat 7 0 ≤ 128 ∧ bits b.toNat 14 8 + bits b.toNat 7 0 ≤ 128 ∧ bits b.toNat 47 16 % 8 = 0
    ∧ (window = true → ∀ i < bits b.toNat 7 0, inWindow (a.toNat + i * bits b.toNat 47 16) = true ∧ inWindow (a.toNat + i * bits b.toNat 47 16 + span - 1) = true)

/-- The copy descriptor in e0-e4 is legal (R230, R231): TREAT below 6, and 0 for `CPYR`. -/
def copyOk (t : Thread) (peer : Bool) : Prop :=
  addressOk (t.readE 0) 8 ∧ addressOk (t.readE 1) 8 ∧ bits (t.readE 2).toNat 31 0 % 8 = 0 ∧ bits (t.readE 3).toNat 63 32 % 8 = 0 ∧ bits (t.readE 3).toNat 31 0 % 8 = 0
    ∧ bits (t.readE 2).toNat 58 56 < 6 ∧ (bits (t.readE 2).toNat 58 56 ∈ [4, 5] → (t.readE 4).toNat % 8 = 0) ∧ (peer = true → bits (t.readE 2).toNat 58 56 = 0)

/-- The conversion descriptor in e0-e5 is legal (R237). -/
def convertOk (t : Thread) : Prop :=
  addressOk (t.readE 0) 8 ∧ addressOk (t.readE 1) 8 ∧ addressOk (t.readE 4) 8 ∧ bits (t.readE 2).toNat 31 0 % 32 = 0 ∧ bits (t.readE 3).toNat 63 32 % 8 = 0
    ∧ bits (t.readE 3).toNat 31 0 % 8 = 0 ∧ bits (t.readE 5).toNat 1 0 ≠ 3

/-- An address lies outside the local window, so that a command with it has no published cost (R277). -/
def outside (x : Word) : Bool := !inWindow x.toNat

/-- The addresses of the first and the last of `rows` rows: a row of an operand may lie outside the window though its first does not. -/
def outerRows (base rows : Nat) (stride : Int) : List Word := [mod64 base, intMod64 (base + (rows - 1 : Nat) * stride)]

/-- Operands of a copy that lie outside the window: a row of the source or the destination, a side array that the treatment uses, and the surface that e6 names. -/
def copyOutside (t : Thread) : Bool :=
  let rows := bits (t.readE 2).toNat 55 32
  (outerRows (t.readE 0).toNat rows ((t.readE 3).extractLsb' 0 32).toInt ++ outerRows (t.readE 1).toNat rows ((t.readE 3).extractLsb' 32 32).toInt).any outside || (decide (bits (t.readE 2).toNat 58 56 ∈ [4, 5]) && outside (t.readE 4)) || (decide (bits (t.readE 6).toNat 0 0 = 1) && outside (t.readE 6))

/-- The commands by instruction. -/
def command (s : State) (t : Thread) : Instr → Option Command
  | .mls gd d a b la => some {
      guard := gd, engine := 2, uses := touches [touchS d, touchS a, touchS b], dest := touchS d, la, work := .plate false, d, a := t.readS a, b := t.readS b,
      untimed := outside t.fmtb || outside t.fmts, needs := inWindow (t.readS a).toNat = true ∧ (t.readS a).toNat % 8 = 0 ∧ bits (t.readS b).toNat 20 0 % 8 = 0 }
  | .mlss gd d a b la => some {
      guard := gd, engine := 2, uses := touches [touchS d, touchS a, touchS b], dest := touchS d, la, work := .plate true, d, a := t.readS a, b := t.readS b,
      untimed := outside t.fmtb || outside t.fmts,
      needs := inWindow (t.readS a).toNat = true ∧ (t.readS a).toNat % 8 = 0 ∧ bits (t.readS b).toNat 20 0 % 8 = 0 ∧ addressOk (t.readE 4) 8 }
  | .mma gd d a b la => some {
      guard := gd, engine := 2, uses := touches [touchS d, touchS a, touchS b, touchFlags], dest := (touchS d).union touchFlags, la, work := .stream false false, d,
      a := t.readS a, b := t.readS b, untimed := outside t.fmta || outside t.fmts, needs := rowsOk (t.readS a) (t.readS b) 1 true }
  | .mmaz gd d a b la => some {
      guard := gd, engine := 2, uses := touches [touchS d, touchS a, touchS b, touchFlags], dest := (touchS d).union touchFlags, la, work := .stream false true, d,
      a := t.readS a, b := t.readS b, untimed := outside t.fmta || outside t.fmts, needs := rowsOk (t.readS a) (t.readS b) 1 true }
  | .mmaM gd d a b la => some {
      guard := gd, engine := 2, uses := touches [touchS d, touchS a, touchS b, touchFlags], dest := (touchS d).union touchFlags, la, work := .stream true false, d,
      a := t.readS a, b := t.readS b, untimed := true, needs := rowsOk (t.readS a) (t.readS b) 1 false }
  | .mmazM gd d a b la => some {
      guard := gd, engine := 2, uses := touches [touchS d, touchS a, touchS b, touchFlags], dest := (touchS d).union touchFlags, la, work := .stream true true, d,
      a := t.readS a, b := t.readS b, untimed := true, needs := rowsOk (t.readS a) (t.readS b) 1 false }
  | .mswap gd la => some {
      guard := gd, engine := 2, uses := {}, la, work := .swap }
  | .mcfg gd a la => some {
      guard := gd, engine := 2, uses := touchS a, la, work := .cfg, a := t.readS a, also := fun u => { u with approx := (t.readS a).extractLsb' 0 9 &&& 0x11F } }
  | .mrd gd d a b la => some {
      guard := gd, engine := 2, uses := touches [touchS d, touchS a, touchS b], dest := touchS d, la, work := .read false, d, a := t.readS a, b := t.readS b,
      needs := rowsOk (t.readS a) (t.readS b) 256 true }
  | .mrdZ gd d a b la => some {
      guard := gd, engine := 2, uses := touches [touchS d, touchS a, touchS b], dest := touchS d, la, work := .read true, d, a := t.readS a, b := t.readS b,
      needs := rowsOk (t.readS a) (t.readS b) 256 true }
  | .mpop gd d a la => some {
      guard := gd, engine := 2, uses := touches [touchS d, touchS a], dest := touchS d, la, work := .pop, d, a := t.readS a }
  | .mdrain gd la => some {
      guard := gd, engine := 2, uses := {}, la, work := .drain }
  | .mmon gd d k la => some {
      guard := gd, engine := 2, uses := touchS d, dest := touchS d, la, work := .mon k.toNat, d }
  | .cpy gd d la => some {
      guard := gd, engine := 0, uses := touchS d, extra := touchS d, la, work := .copy, d, untimed := copyOutside t, needs := copyOk t false }
  | .cpym gd d b la => some {
      guard := gd, engine := 0, uses := touches [touchS d, touchS b], extra := touchS d, la, work := .copyMulti ((t.readS b).toNat % 256), d, b := t.readS b,
      untimed := copyOutside t, needs := copyOk t false }
  | .cpyr gd d a la => some {
      guard := gd, engine := 0, uses := touches [touchS d, touchS a], extra := (touchS d).union touchFlags, la, work := .copyPeer (bits (t.readS a).toNat 31 16), d,
      a := t.readS a, untimed := true, needs := copyOk t true }
  | .cnv gd d la => some {
      guard := gd, engine := 1, uses := touchS d, extra := (touchS d).union touchFlags, la, work := .convert, d,
      untimed := (outerRows (t.readE 0).toNat (bits (t.readE 2).toNat 55 32) (bits (t.readE 3).toNat 31 0) ++ outerRows (t.readE 1).toNat (bits (t.readE 2).toNat 55 32) (bits (t.readE 3).toNat 63 32)).any outside
        || outside t.fmta || outside t.fmtb || outside t.fmts || (decide (t.readE 4 ≠ 0) && outside (t.readE 4))
        || (decide (bits (t.readE 6).toNat 0 0 = 1) && outside (t.readE 6)),
      needs := convertOk t }
  | .sscan gd d a b la =>
    let n := bits (t.readS b).toNat 15 0
    some {
      guard := gd, engine := 2, uses := touches [touchS d, touchS a, touchS b, touchCoef], extra := (touchS d).union touchFlags, la, work := .scan, d, a := t.readS a, b := t.readS b,
      needs := 1 ≤ bits (t.readS b).toNat 23 16 ∧ bits (t.readS b).toNat 23 16 ≤ 64
        ∧ (∀ r ∈ [(t.readS a, 4096), (t.readE 0, 256 * n), (t.readE 1, 256 * n), (t.readE 2, 64 * n), (t.readE 3, 64 * n), (t.readE 4, 256 * n)],
            addressOk r.1 8 ∧ (0 < r.2 → inWindow r.1.toNat = true ∧ inWindow (r.1.toNat + r.2 - 1) = true))
        ∧ (s.tile (tileOf s.cur)).coefOwner = some t.ctx ∧ ((coefsOf s s.cur t).entry .exp2).isSome = true }
  | _ => none

/-- The array of the current tile is free or held by a context (R201). -/
def arrayOpen (s : State) (ctx : Nat) : Prop := (s.tile (tileOf s.cur)).array.holder = none ∨ (s.tile (tileOf s.cur)).array.holder = some ctx


/-! ### Instructions that send a request for work, a list, a primitive, a texel or a pixel (R260-R265, R283, R284, R319-R332, R343-R370) -/

/-- What such an instruction sends: its guard; the registers it reads and writes; its destinations and lookahead, or none where it opens no window (R344); the request; whether it breaks the timing of a fixed-timing thread whatever
it addresses (R277); whether it runs on core 3 alone and claims its tile's coefficient memory (R62, R128); and what its issue requires beside. -/
structure Asked where
  guard : Guard
  uses : Touch
  dest : Touch := {}
  la : Option (BitVec 4)
  req : Req
  always : Bool := true
  core3 : Bool := false
  coef : Bool := false
  needs : Prop

/-- The thread belongs to a grid: it is no handler and is not detached (R260, R265). -/
def inGrid (s : State) (t : Thread) : Prop := isRunner s.cur = false ∧ t.detached = false

/-- The address of an interval list with K = 2^klog records: 32-byte aligned, and all of it in the local window (R308, R319). -/
def listOk (va : Word) (klog : Nat) : Prop := inWindow va.toNat = true ∧ va.toNat % 32 = 0 ∧ va.toNat + 32 + 128 * 2 ^ klog ≤ 2 ^ 56

/-- The list of an instruction that reads the header at issue: its address is legal for the header's K, and no command of the thread on the list is outstanding (R319). -/
def listRead (s : State) (va : Word) : Prop :=
  listOk va (headerAt s (tileOf s.cur) va.toNat).klog
    ∧ (ownReqs s s.cur).any (fun r => r.va = va.toNat && (match r.ask with | .list _ => true | _ => false)) = false

/-- The coefficient memory of the tile may be used by the thread's context, and holds the entries of functions (R125, R128). -/
def coefOk (s : State) (t : Thread) (fs : List CoefFn) : Prop :=
  mayOwn (s.tile (tileOf s.cur)).coefOwner t.ctx ∧ ∀ f ∈ fs, ((coefsOf s s.cur t).entry f).isSome = true

/-- A command to a list. -/
def listReq (s : State) (t : Thread) (va : Word) (d : BitVec 4) (c : ListCmd) : Req :=
  { request s t (.list c) [(va.toNat, 32)] with d := d, rel := true, scope := .thread, data := t.coefbase.toNat * 4 }

/-- A scene form: its bytes and the functions it needs (R339-R344). -/
def sceneBytes : SceneForm → Nat
  | .tri | .splat => 64
  | .volseg => 4160
  | .dkl => 128
def sceneNeeds : SceneForm → List CoefFn
  | .tri => [.log2]
  | .splat => [.exp2, .log2]
  | .volseg | .dkl => [.exp2]

/-- A scene instruction. -/
def sceneAsked (s : State) (t : Thread) (gd : Guard) (form : SceneForm) (d a b pf : BitVec 4) : Asked where
  guard := gd
  uses := touches [touchV d, touchP pf, touchS a, touchV b, touchCoef]
  dest := (touchV d).union (touchP pf)
  la := none
  req := { request s t (.scene form (t.readV b) (if form = .dkl then releaseSet s s.cur else [])) [((t.readS a).toNat, sceneBytes form)] with d := d, pf := pf, data := t.coefbase.toNat * 4 }
  always := false
  core3 := true
  coef := true
  needs := addressOk (t.readS a) 64 ∧ coefOk s t (sceneNeeds form) ∧ (form = .dkl → arrayOpen s t.ctx)

/-- The requests by instruction. -/
def asked (s : State) (t : Thread) : Instr → Option Asked
  | .wqask gd a b la => some {
      guard := gd, uses := touches [touchS a, touchS b], la, req := request s t (.wqask ((t.readS b).toNat % 4)) [((t.readS a).toNat, 8)], always := false
      needs := inGrid s t ∧ inWindow (t.readS a).toNat = true ∧ (t.readS a).toNat % 8 = 0 }
  | .wqput gd a b la => some {
      guard := gd, uses := touches [touchS a, touchS b], la, always := false
      req := { request s t (.wqput ((t.readS a).toNat % 4) ((t.readS b).toNat % 2 ^ 32) (decide (bits (t.readS b).toNat 63 63 = 1))) [] with rel := true, scope := .device }
      needs := inGrid s t }
  | .launch gd a b la => some {
      guard := gd, uses := touches [touchS a, touchS b], la
      req := { request s t (.launch ((t.readS b).toNat % 4) none) [((t.readS a).toNat, 64)] with rel := true, scope := .device }
      needs := inGrid s t ∧ addressOk (t.readS a) 64 }
  | .jobsig gd d a b la => some {
      guard := gd, uses := touches [touchP d, touchS a, touchS b], dest := touchP d, la
      req := { request s t (.jobsig ((t.readS a).toNat % 2 ^ 32)) [((t.readS b).toNat, 8)] with pf := d }
      needs := addressOk (t.readS b) 8 }
  | .digest gd d a b la =>
    let n := (t.readS b).toNat % 2 ^ 16
    some {
      guard := gd, uses := touches [touchS d, touchS a, touchS b], dest := touchS d, la, always := false
      req := { request s t (.digest n (t.readE 0).toNat) ((if n = 0 then [] else [((t.readS a).toNat, 16 * n)]) ++ [((t.readE 0).toNat, 64)]) with d := d, rel := true, scope := .thread }
      needs := addressOk (t.readS a) 8 ∧ addressOk (t.readE 0) 8 ∧ n ≤ 4096 }
  | .stepb gd d a b la => some {
      guard := gd, uses := touches [touchS d, touchS a, touchS b], dest := touchS d, la
      req := { request s t (.step ((t.readS b).toNat % 2 ^ 32)) (wordPieces (t.readS a).toNat 64) with d := d, rel := true, scope := .system }
      needs := (t.readS a).toNat < 2 ^ 56 }
  | .rlinit gd a b la => some {
      guard := gd, uses := touches [touchS b, touchS a, touchCoef], la, req := listReq s t (t.readS a) 0 (.init (t.readS b)), core3 := true, coef := true
      needs := listOk (t.readS a) ((t.readS b).toNat % 4) ∧ coefOk s t [.exp2, .log2] }
  | .rlins gd d a b la => some {
      guard := gd, uses := touches [touchV b, touchS d, touchS a, touchCoef], dest := touchS d, la, req := listReq s t (t.readS a) d (.ins (t.readV b)), core3 := true, coef := true
      needs := listRead s (t.readS a) ∧ coefOk s t [.exp2, .log2] ∧ (answerOf (t.readV b).toNat).isSome = true }
  | .rlget gd d a b la => some {
      guard := gd, uses := touches [touchS b, touchV d, touchS a], dest := touchV d, la, req := listReq s t (t.readS a) d (.get ((t.readS b).toNat % 32)), core3 := true, coef := true
      needs := listRead s (t.readS a) ∧ coefOk s t [] }
  | .rlstat gd d a n la => some {
      guard := gd, uses := touches [touchS d, touchS a], dest := touchS d, la, req := listReq s t (t.readS a) d (.stat n.toNat), core3 := true, coef := true
      needs := listRead s (t.readS a) ∧ coefOk s t [] }
  | .rlfin gd d a la => some {
      guard := gd, uses := touches [touchV d, touchS a, touchCoef], dest := touchV d, la, req := listReq s t (t.readS a) d .fin, core3 := true, coef := true
      needs := listRead s (t.readS a) ∧ coefOk s t [.exp2, .log2] }
  | .trvbud gd a b la => some {
      guard := gd, uses := touches [touchS a, touchS b], la, req := listReq s t (t.readS a) 0 (.budget (mod64 (min (t.readS b).toNat 65535))), always := false, core3 := true
      needs := listRead s (t.readS a) }
  | .tri gd d a b pf => some (sceneAsked s t gd .tri d a b pf)
  | .splat gd d a b pf => some (sceneAsked s t gd .splat d a b pf)
  | .volseg gd d a b pf => some (sceneAsked s t gd .volseg d a b pf)
  | .dkl gd d a b pf => some (sceneAsked s t gd .dkl d a b pf)
  | .texs gd d a b la => some {
      guard := gd, uses := touches [touchV d, touchS a, touchV b], dest := touchV d, la, core3 := true
      req := { request s t (.texture false (t.readV b)) [((t.readS a).toNat, 64)] with d := d, data := (t.readV d).toNat }
      needs := addressOk (t.readS a) 64 ∧ isRunner s.cur = false }
  | .texl gd d a b la => some {
      guard := gd, uses := touches [touchV d, touchS a, touchV b], dest := touchV d, la, core3 := true
      req := { request s t (.texture true (t.readV b)) [((t.readS a).toNat, 64)] with d := d, data := (t.readV d).toNat }
      needs := addressOk (t.readS a) 64 ∧ isRunner s.cur = false }
  | .surfrel gd a la => some {
      guard := gd, uses := touchS a, la, core3 := true, req := { request s t .surfrel [((t.readS a).toNat, 64)] with scope := .device, rel := true }
      needs := addressOk (t.readS a) 64 ∧ isRunner s.cur = false }
  | .surfacq gd a la => some {
      guard := gd, uses := touchS a, la, core3 := true, req := { request s t .surfacq [((t.readS a).toNat, 64)] with scope := .device, acq := true }
      needs := addressOk (t.readS a) 64 ∧ isRunner s.cur = false }
  | _ => none

/-- The thread after an operation that opens no window has been opened (R344). -/
def openedQuiet (s : State) (dest : Touch) (t : Thread) : Thread :=
  { t with ops := t.ops ++ [⟨s.nextId, t.pc, s.insn, Machine.isWide s.insn, dest, false, false, 0, false, s.cycle, none⟩] }

/-- The window of an operation whose token alone is pending closes, except in a fixed-timing context while it counts (R23, R226). -/
def tokenPending (op : Nat) (t : Thread) : Thread :=
  { t with
    ops := t.ops.map (fun o => if o.id = op then { o with token := true } else o)
    windows := if t.fixed then t.windows.filter (fun w => w.op ≠ op || decide (0 < w.left)) else t.windows.filter (·.op ≠ op) }

/-- The group that `GCTX` opens in a resident context whose draw it names (R360). -/
def groupOpens (s : State) (t : Thread) (key index : Nat) (g : GraphicsContext) (la : BitVec 4) : State :=
  { s.ran t 4 (fun u => finished (s.nextId + 1) {} (opened { s with nextId := s.nextId + 1 } {} {} la { breaks true u with group := some ⟨key, g.serial, index, 0, [], none, [], []⟩ })) with
    gctxs := mapPut key { g with begun := index :: g.begun, bound := s.cur :: g.bound, age := s.nextId } s.gctxs
    nextId := s.nextId + 2 }


/-! ### Requests at their homes, and the ends of operations (R23, R151, R160-R174) -/

/-- A request of a core has nothing left to wait for, and its thread is in its slot and owes no discard for an earlier acquire. -/
structure Ready (s : State) (i : Nat) (r : Req) (k : Nat) (t : Thread) : Prop where
  there : mapGet i s.reqs = some r
  self : r.id = i
  issuer : r.who = .thread k
  ready : outstanding s r.after = []
  place : r.core < 8192
  thread : s.thread? k = some t
  settled : t.owed = none

/-- The event acts on such a request, which has made none of its accesses apart from the others. -/
structure Due (s : State) (i : Nat) (r : Req) (k : Nat) (t : Thread) : Prop extends Ready s i r k t where
  input : s.input = .one i
  whole : r.parts = []
  unreached : r.reached = []

/-- The request arrives for the first time, and no earlier instruction of its thread may still turn out to read a word of it (R153). -/
structure Arriving (s : State) (i : Nat) (r : Req) (k : Nat) (t : Thread) : Prop extends Due s i r k t where
  sent : r.stage = .sent
  first : ownEarlier s r r.spans = false

/-- A WAITING thread tries its instruction again; `YIELD`, `QUIT` and trap entry wait for their own ends (R47). -/
def roused (t : Thread) : Thread :=
  match t.status with
  | .waiting .yield => t
  | .waiting .quit => t
  | .waiting .trapEntry => t
  | .waiting _ => { t with status := .active }
  | _ => t

/-- The state after a request that acquires nothing is performed: it is outstanding no more, and its operation is finished. -/
def performedWith (s : State) (i k : Nat) (t : Thread) (op : Nat) (ws : List RegWrite) : State :=
  { s with reqs := mapDel i s.reqs, threads := mapPut k (finished op { writes := ws } (roused t)) s.threads }

/-- The value of a load of `n` bytes: sign- or zero-extended to 64 bits (R151). -/
def extended (signed : Bool) (n x : Nat) : Word := if signed then intMod64 (BitVec.ofNat (8 * n) x).toInt else mod64 x

/-- The state in which a request that acquires has dropped the lines that its scope names, in a cluster whose L1s are not fused (R155, R333). -/
def discarded (s : State) (r : Req) (u : State) : State :=
  if r.scope = .thread then u
  else { u with
    cores := mapPut r.core (acquired (s.core r.core)) s.cores
    tiles := if r.core % 4 = 3 ∧ (s.tile r.tile).nodes ≠ [] then mapPut r.tile { s.tile r.tile with nodes := [] } s.tiles else s.tiles }

/-- The key of an address of the local window in the tile of a request. -/
def storeKey (r : Req) (va : Nat) : Nat := localKey r.tile (va - windowBase)

/-- What a full/empty operation does to a word (R164, R165): its register writes, the new data if it stores, and whether the word is EMPTY after it; none: the operation waits. -/
def served (op : FeOp) (d pf : BitVec 4) (data : Nat) (empty : Bool) (word : Word) : Option (List RegWrite × Option Nat × Bool) :=
  match op with
  | .ldw => if empty then none else some ([.s d word], none, false)
  | .ldc => if empty then none else some ([.s d word], none, true)
  | .stf => if empty then some ([], some data, false) else none
  | .stff => some ([], some data, false)
  | .ldxw => if empty then some ([.p pf true], none, true) else some ([.s d word, .p pf false], none, false)
  | .ldxc => if empty then some ([.p pf true], none, true) else some ([.s d word, .p pf false], none, true)
  | .stfx => if empty then some ([.p pf false], some data, false) else some ([.p pf true], none, false)
  | .feset => some ([], none, false)
  | .feclr => some ([], none, true)
  | .fetest => some ([.p d !empty], none, empty)

/-- The word that an integer atomic puts back (R175). -/
def putWord (op : AmoOp) (old data cmp : Word) : Option Word :=
  match op with
  | .add => some (old + data)
  | .and => some (old &&& data)
  | .or => some (old ||| data)
  | .xor => some (old ^^^ data)
  | .min => some (if old.toInt ≤ data.toInt then old else data)
  | .max => some (if old.toInt ≤ data.toInt then data else old)
  | .minn => some (if old.toNat ≤ data.toNat then old else data)
  | .maxn => some (if old.toNat ≤ data.toNat then data else old)
  | .swap => some data
  | .cas => some (if old = cmp then data else old)
  | _ => none

/-- The atomics that the ordered form does not cover (R177). -/
def unordered (op : AmoOp) : Prop := op ≠ .ordAdd ∧ op ≠ .ordFadd

/-- One register write of a completion, into the thread's own registers. -/
def applyWrite (t : Thread) : RegWrite → Thread
  | .s i x => if i = 0 then t else t.writeS i x
  | .p i b => t.writeP i b
  | .v i x => t.writeV i x
  | .w _ _ => t
  | .flags f => t.orFlags f

/-- The operation `op` of a thread has landed (R23, R24): it is in flight no more, and its windows have closed, but for those of a fixed-timing thread that still count. -/
def landed (op : Nat) (t : Thread) : Thread :=
  { t with
    ops := t.ops.filter (·.id ≠ op)
    windows := if t.fixed then t.windows.filter (fun w => w.op ≠ op || decide (0 < w.left)) else t.windows.filter (·.op ≠ op) }

/-! ### Traps (R286-R293) -/

/-- The cause codes of R288. -/
def causeCode : Cause → Nat
  | .illegal => 0x01
  | .lookahead => 0x02
  | .protection => 0x03
  | .align => 0x04
  | .waitExpired => 0x05
  | .parkExhausted => 0x06
  | .malformedMetadata => 0x07
  | .structFault => 0x08
  | .runnerWait => 0x09
  | .div0 => 0x0A
  | .brk => 0x0B
  | .machineCheck => 0x0C
  | .soft => 0x0D

/-- The thread of slot `k` can enter the trap `r` now (R286, R290): no writeback to s13 or to a predicate is to come, the trap is deliverable, and the record's words, at memory key `key`, can be written: no earlier access of the thread
meets them, none is reserved, and none has lost its data. -/
structure TrapReady (s : State) (k : Nat) (t : Thread) (r : TrapReq) (key : Nat) : Prop where
  form : s.canonical
  thread : s.thread? k = some t
  landed : t.pending.meets { s := 0x2000, p := 0xFFFF } = false
  vector : t.trapvec ≠ 0
  single : t.intrap = true → r.deferred = true
  canonical : t.traprec.toNat < 2 ^ 56
  aligned : t.traprec.toNat % 64 = 0
  ordered : barred s k t [(t.traprec.toNat, 64)] = false
  place : k < 2 ^ 18
  unreserved : ∀ i < 8, (s.hold (key + 8 * i)).resv = none
  whole : spoiled s key 64 = false
  reached : inWindow t.traprec.toNat = true ∧ key = localKey (tileOf k) (t.traprec.toNat - windowBase)

/-- The eight words of the record at a memory key (R287). -/
def recordAt (m : List Host.Cell) (key : Nat) (k : Nat) (t : Thread) (r : TrapReq) (cycle : Nat) : Prop :=
  let word (i : Nat) : Nat := peek m (key + 8 * i) 8
  let flag (b : Bool) (i : Nat) : Nat := if b then 2 ^ i else 0
  word 0 = r.epc.toNat ∧ word 1 = (r.resume.getD t.pc).toNat ∧ word 2 = r.addr.toNat ∧ word 3 = (t.readS 13).toNat
    ∧ word 4 = (t.p ||| 1).toNat + 2 ^ 16 * causeCode r.cause + 2 ^ 24 * (flag r.held 3 + flag (isRunner k) 2 + flag r.wide 1 + flag r.deferred 0) + 2 ^ 32 * r.insn.toNat
    ∧ word 5 = r.info.toNat ∧ word 6 = cycle % 2 ^ 64 ∧ word 7 = 0

/-- The trap has been taken (R286): the record is written and no other byte of memory has changed; every window is closed, s13 holds TRAPREC, the PC is TRAPVEC with bit 0 cleared, INTRAP is 1, and the thread's other registers, the other
threads and all the rest of the machine are as they were, but for the error marks that writing the record clears. -/
def TrapTaken (s : State) (k : Nat) (t : Thread) (r : TrapReq) (key : Nat) (u : State) : Prop :=
  (∃ (m : List Host.Cell) (b : NatMap Nat), u = { s with
      mem := m, bad := b
      threads := mapPut k { (({ breaks true t with windows := [] }).writeS 13 t.traprec).setPc t.trapvec with entering := none, status := .active, waitSince := none, intrap := true } s.threads })
    ∧ recordAt u.mem key k t r (s.cycle + (s.tile (tileOf k)).ahead.toNat) ∧ (∀ a, a < key ∨ key + 64 ≤ a → Memory.read u.mem a = Memory.read s.mem a)

/-- The trap of a `TRAP` or a `BRK`, which resumes after its instruction (R288, R292). -/
def trapAfter (t : Thread) (insn : BitVec 32) (c : Cause) (addr : Word) : TrapReq :=
  { preciseTrap t insn c addr with resume := some (t.pc + 4) }

/-- The byte is none of the fault ring of a die, nor of its control block (R147). -/
def offRing (s : State) (d a : Nat) : Prop := ∀ R, (s.die d).ring = some R → a < hbmKey R ∨ hbmKey R + 32832 ≤ a

/-- No request waits on the list of a word in the shared space, so that no fill of a PROD word serves one (R147, R167). -/
def unwatched (s : State) : Prop := ∀ h ∈ s.homes, 2 ^ 70 ≤ h.1

/-- A die's fault ring, placed at `R`, has taken 32 bytes as its next entry, and PROD counts them (R147). -/
def RingTook (s : State) (d R bytes : Nat) (u : State) : Prop :=
  peek u.mem (hbmKey (R + 32 * ((s.die d).prod % 1024))) 32 = bytes % 2 ^ 256 ∧ peek u.mem (hbmKey (R + 32768)) 8 = ((s.die d).prod + 1) % 2 ^ 32
    ∧ (u.die d).prod = ((s.die d).prod + 1) % 2 ^ 32 ∧ (u.die d).owed = []

/-- A ring placed at `R` has room, as CONS says, and no atomic holds a word reserved, so that an entry is written (R147, R167). -/
def ringRoom (s : State) (d R : Nat) : Prop :=
  ((s.die d).prod + 2 ^ 32 - peek s.mem (hbmKey (R + 32776)) 4) % 2 ^ 32 < 1024 ∧ ∀ h ∈ s.holds, h.2.resv = none

/-- A die has recorded 32 bytes more: its ring holds them, where one is placed, has room, and nothing was owed before; they are owed where none is placed (R146, R147). -/
def Recorded (s : State) (d bytes : Nat) (u : State) : Prop :=
  ((s.die d).ring = none → (u.die d).owed = (s.die d).owed ++ [⟨d, bytes⟩])
    ∧ ∀ R, (s.die d).ring = some R → (s.die d).owed = [] → ringRoom s d R → RingTook s d R bytes u

/-- A notice (R294): the save area, the TID, Kind 6, the reason, the context and the saved PC. -/
def noticeOf (A k : Nat) (t : Thread) (reason : Nat) (pc : Word) : Nat :=
  A + (t.inc.toNat * 2 ^ 18 + k) % 2 ^ 26 * 2 ^ 64 + 6 * 2 ^ 96 + reason * 2 ^ 104 + t.ctx % 2 ^ 12 * 2 ^ 112 + pc.toNat * 2 ^ 128

/-- A thread of a general slot has been stopped (R294-R297): it is SPILLED with its reason, its save area, where one is placed, holds its PC and registers, and its die has recorded the notice; no other byte below the local stores has changed but those of the ring. -/
def Stopped (s : State) (k : Nat) (t : Thread) (reason : Nat) (pc : Word) (u : State) : Prop :=
  (∃ v : Thread, u.thread? k = some v ∧ v.status = .spilled ∧ v.spill = some ⟨reason, none⟩ ∧ v.pc = pc &&& ~~~1 ∧ v.s = t.s ∧ v.p = t.p ∧ v.e = t.e ∧ v.v = t.v ∧ v.flags = t.flags
      ∧ v.intrap = t.intrap ∧ v.trapvec = t.trapvec ∧ v.traprec = t.traprec)
    ∧ (∀ j, j ≠ k → u.thread? j = s.thread? j)
    ∧ (∀ A, saveArea s k = some A →
        peek u.mem (hbmKey A) 8 = (pc &&& ~~~1).toNat ∧ (∀ i : BitVec 4, i ≠ 0 → peek u.mem (hbmKey (A + 8 * i.toNat)) 8 = (t.readS i).toNat)
          ∧ (∀ i < 8, peek u.mem (hbmKey (A + 128 + 32 * i)) 32 = (t.readV (BitVec.ofNat 4 i)).toNat) ∧ (∀ i : BitVec 3, peek u.mem (hbmKey (A + 384 + 8 * i.toNat)) 8 = (t.readE i).toNat)
          ∧ peek u.mem (hbmKey (A + 472)) 8 = t.trapvec.toNat ∧ peek u.mem (hbmKey (A + 480)) 8 = t.traprec.toNat)
    ∧ (∀ A, saveArea s k = some A → Recorded s (dieOf k) (noticeOf A k t reason (pc &&& ~~~1)) u)
    ∧ (∀ a, a < 2 ^ 48 → offRing s (dieOf k) a → (∀ A, saveArea s k = some A → a < A ∨ A + 512 ≤ a) → Memory.read u.mem a = Memory.read s.mem a)

/-- A thread of a general slot with no access in flight and no trap on its way in, whose save area lies apart from the fault ring of its die, on which no other thread waits. -/
structure Stoppable (s : State) (k : Nat) (t : Thread) : Prop where
  form : s.canonical
  thread : s.thread? k = some t
  active : t.status = .active
  general : isRunner k = false
  still : ownReqs s k = []
  fresh : t.entering = none
  apart : ∀ A R, saveArea s k = some A → (s.die (dieOf k)).ring = some R → A + 512 ≤ R ∨ R + 32832 ≤ A
  quiet : unwatched s

/-! ### Engines at work (R202-R246, R349) -/

/-- The oldest command of an engine of a tile is accepted, none is stopped, its issuer is there and no thread waits for room; the contexts that own the array and the coefficient memory still have threads on the tile. -/
structure Performing (s : State) (n e : Nat) (c : EngineCmd) (k : Nat) (t : Thread) : Prop where
  input : s.input = .one n
  head : (engineQ (s.tile n) e).head? = some c
  going : (engineQ (s.tile n) e).all (fun x => !x.stopped) = true
  accepted : c.accepted = true
  fresh : c.refused = none ∧ c.update = none ∧ c.done = 0 ∧ c.row = [] ∧ c.got = [] ∧ c.absent = none ∧ c.flags = 0 ∧ c.failed = false
  issuer : c.key = k ∧ s.thread? k = some t
  crowd : ∀ x ∈ s.threads, tileOf x.1 = n → x.2.status ≠ .waiting .room
  array : ∀ x, (s.tile n).array.holder = some x → contextOn s n x = true
  coefs : ∀ x, (s.tile n).coefOwner = some x → contextOn s n x = true

/-- A command has ended: it has left its engine, its issuer's operation has the result `r`, no thread has changed otherwise, and no memory but the bytes that `w` admits. -/
structure EndedBy (s : State) (n e : Nat) (c : EngineCmd) (k : Nat) (t : Thread) (r : Result) (w : Nat → Prop) (u : State) : Prop where
  gone : engineQ (u.tile n) e = (engineQ (s.tile n) e).filter (fun x => x.op ≠ c.op)
  issuer : u.thread? k = some (finished c.op r t)
  others : ∀ j, j ≠ k → u.thread? j = s.thread? j
  memory : ∀ a, ¬ w a → Memory.read u.mem a = Memory.read s.mem a

/-- The key of an address of the local window in a tile's store. -/
def storeAt (n va : Nat) : Nat := localKey n (va - windowBase)


/-! ### Lists, fragments and pixels (R309-R323, R345, R355, R362, R364) -/

/-- The front-to-back composite of R323 from a colour and a depth on: each channel and the depth are rounded once a record. -/
def frontToBack (c : Coefs) : List Rec → (Nat → Val) × Val → (Nat → Val) × Val
  | [], x => x
  | r :: rs, (col, a) => frontToBack c rs (fun i => toF32 (addX (col i) (mulX (c.ex a) (f16v (r.em.getD i 0)))), toF32 (addX a (f32v r.tau)))

/-- A number of the model as a rational. -/
def ratio (q : Q) : ℚ := (q.num : ℚ) / (q.den : ℚ)

/-- Corner i of a screen triangle, from the .f32 lanes of its register. -/
def corner (v i : Nat) : ℚ × ℚ := (ratio (f32v (bits v (64 * (i % 3) + 31) (64 * (i % 3)))).toQ, ratio (f32v (bits v (64 * (i % 3) + 63) (64 * (i % 3) + 32))).toQ)

/-- Twice the signed area of the triangle from p over a to b. -/
def turning (p a b : ℚ × ℚ) : ℚ := (a.1 - p.1) * (b.2 - p.2) - (b.1 - p.1) * (a.2 - p.2)

/-- A triangle that gives fragments: its lanes are finite, and it is neither flat nor culled (R362). -/
def drawn (v : Nat) : Prop :=
  let a2 := turning (corner v 0) (corner v 1) (corner v 2)
  (∀ i, i < 6 → (f32v (bits v (32 * i + 31) (32 * i))).isFinite = true) ∧ a2 ≠ 0 ∧ ¬ (bits v 224 224 = 1 ∧ a2 < 0) ∧ ¬ (bits v 225 225 = 1 ∧ 0 < a2)

/-- The barycentric coordinate i of the centre of a pixel. -/
def weight (v x y i : Nat) : ℚ :=
  turning ((x : ℚ) + 1 / 2, (y : ℚ) + 1 / 2) (corner v (i + 1)) (corner v (i + 2)) / turning (corner v 0) (corner v 1) (corner v 2)

/-- A pixel is covered: its centre lies inside every edge, or on one that its triangle owns, whose first corner is below its second (R345, R362). -/
def covers (v x y : Nat) : Prop :=
  ∀ i, i < 3 → 0 < weight v x y i ∨ (weight v x y i = 0
    ∧ ((corner v (i + 1)).1 < (corner v (i + 2)).1 ∨ ((corner v (i + 1)).1 = (corner v (i + 2)).1 ∧ (corner v (i + 1)).2 < (corner v (i + 2)).2)))

/-- A pixel inside the scissor of a graphics context descriptor and the raster's range. -/
def scissored (x px py : Nat) : Prop :=
  bits x (8 * 544 + 15) (8 * 544) ≤ px ∧ px < bits x (8 * 548 + 15) (8 * 548) ∧ bits x (8 * 546 + 15) (8 * 546) ≤ py ∧ py < bits x (8 * 550 + 15) (8 * 550) ∧ px < 16384 ∧ py < 16384

/-- What the blend operations make of source, destination and source alpha (R357, R364). -/
def blended (bop : Nat) (s d a : ℚ) : ℚ :=
  match bop with
  | 0 => s
  | 1 => s + d * (1 - a)
  | 2 => s + d
  | 3 => min s d
  | _ => max s d

/-- A channel of R8G8B8A8 is the integer nearest to 255 times r within [0, 1], to even where two are (R364). -/
def nearestByte (r : ℚ) (n : Nat) : Prop :=
  let x := 255 * min 1 (max 0 r)
  |(n : ℚ) - x| ≤ 1 / 2 ∧ (|(n : ℚ) - x| = 1 / 2 → n % 2 = 0)

/-- A memory in which only the bytes that `w` admits have changed. -/
def onlyChanges (w : Nat → Prop) (m m' : List Host.Cell) : Prop := ∀ a, ¬ w a → Memory.read m' a = Memory.read m a

/-- The bytes from an address on. -/
def span (a n : Nat) (x : Nat) : Prop := a ≤ x ∧ x < a + n

/-! ### Values of the engines and of the scene (R210, R238-R245, R345-R349, R370) -/

/-- Nearest even in .f32, as a code and as a value. -/
def near32 (v : Val) : Nat := (roundIeee fmtF32 0 v).1
def rounded (v : Val) : Val := fmtF32.decode (near32 v)

/-- A rational as a number of the model; zero is +0. -/
def real (x : ℚ) : Val := Val.ofQ ⟨x.num, x.den⟩

/-- A block of R210: the exact sum of its products, rounded once, and the accumulator with it, rounded once. -/
def addBlock (acc : Val) (b : List (Val × Val)) : Val :=
  rounded (exactSum [acc, rounded (exactSum (b.map (fun p => (mulVal p.1 p.2).1))).1]).1

/-- dot of R210 over blocks of n along K, without a block skip. -/
def dotOf (acc : Val) (nb n : Nat) (a w : Nat → Val) : Val :=
  (List.range nb).foldl (fun x b => addBlock x ((List.range n).map (fun j => (a (n * b + j), w (n * b + j))))) acc

/-- The exact sum of R210: a NaN or infinities of both signs give a NaN; an infinity gives itself; numbers give their sum, whose exact zero is −0 when every term is −0. -/
def sumRule (ts : List Val) (v : Val) : Prop :=
  ((∃ x ∈ ts, x.isNan = true) ∨ (.inf true ∈ ts ∧ .inf false ∈ ts) → v = .nan false false)
    ∧ (∀ neg, (∀ x ∈ ts, x.isNan = false) → .inf neg ∈ ts → .inf (!neg) ∉ ts → v = .inf neg)
    ∧ ((∀ x ∈ ts, x.isFinite = true ∧ 0 < x.toQ.den) →
        let q := (ts.map (fun x => ratio x.toQ)).sum
        (q ≠ 0 → ∃ y, v = .num y ∧ ratio y = q) ∧ (q = 0 → v = .zero (decide (ts ≠ [] ∧ ∀ x ∈ ts, x = .zero true))))

/-- The pairwise sum of 2^k lanes in the order of R120, each step rounded. -/
def pairs : Nat → (Nat → Val) → Val
  | 0, f => f 0
  | k + 1, f => pairs k (fun i => rounded (addVal 0 (f i) (f (i + 2 ^ k))).1)

/-- The .f32 at an address of a tile's local window, by index. -/
def floatAt (m : List Host.Cell) (key i : Nat) : Val := fmtF32.decode (peek m (key + 4 * i) 4)

/-- One step of the stepwise form, for one channel (R244): the new state by n, and y. -/
def scanStep (e : Coefs) (a x : Val) (b c h : Nat → Val) : (Nat → Val) × Val :=
  let h' (n : Nat) : Val := rounded (fmaVal 0 (e.exp2f a) (h n) (rounded (mulVal (b n) x).1)).1
  (h', pairs 4 (fun n => rounded (mulVal (c n) (h' n)).1))

/-- A chunk of one step in the chunked form, for one channel (R245). -/
def scanChunkOne (e : Coefs) (a x : Val) (b c h : Nat → Val) : (Nat → Val) × Val :=
  let c1 := rounded (addVal 0 (.zero false) a).1
  let decay := e.exp2f (rounded (addVal 0 c1 c1.neg).1)
  let sum16 (f : Nat → Val) : Val := rounded (exactSum ((List.range 16).map f)).1
  let w := rounded (mulVal decay (sum16 (fun n => (mulVal (c n) (b n)).1))).1
  let intra := rounded (exactSum [.zero false, rounded (exactSum [(mulVal w x).1]).1]).1
  let q := sum16 (fun n => (mulVal (c n) (h n)).1)
  (fun n => rounded (exactSum [(mulVal (e.exp2f c1) (h n)).1, (mulVal (mulVal decay (b n)).1 x).1]).1,
    rounded (addVal 0 intra (rounded (mulVal (e.exp2f c1) q).1)).1)

/-- EMAX of R238, by format code. -/
def emaxOf (dc : Nat) : Int := [8, 15, 4, 2, 2, 6, 2].getD (dc - 3) 0

/-- The bytes of an interval record (R308). -/
def recordBytes (t0 t1 tau : Nat) (em : Nat → Nat) (conf src kind : Nat) : Nat :=
  t0 + t1 * 2 ^ 32 + tau * 2 ^ 64 + em 0 * 2 ^ 96 + em 1 * 2 ^ 112 + em 2 * 2 ^ 128 + conf * 2 ^ 144 + src * 2 ^ 160 + kind * 2 ^ 192

/-- The registers of a scene answer that is a record, and those of a miss (R344). -/
def hit (d pf : BitVec 4) (x : Nat) : List RegWrite := [.v d (BitVec.ofNat 256 x), .p pf true]
def miss (d pf : BitVec 4) : List RegWrite := [.v d 0, .p pf false]

/-- A point and a vector as rationals, by axis. -/
def axesOf (l : List Val) (i : Nat) : ℚ := ratio (l.getD i (.zero false)).toQ

/-- Scalar product, cross product, and difference. -/
def dotR (a b : Nat → ℚ) : ℚ := a 0 * b 0 + a 1 * b 1 + a 2 * b 2
def crossR (a b : Nat → ℚ) (i : Nat) : ℚ := a ((i + 1) % 3) * b ((i + 2) % 3) - a ((i + 2) % 3) * b ((i + 1) % 3)
def minusR (a b : Nat → ℚ) (i : Nat) : ℚ := a i - b i

/-- The symmetric form of a splat's six lanes (xx, yy, zz, xy, xz, yz). -/
def formR (q x y : Nat → ℚ) : ℚ :=
  q 0 * x 0 * y 0 + q 1 * x 1 * y 1 + q 2 * x 2 * y 2 + q 3 * (x 0 * y 1 + x 1 * y 0) + q 4 * (x 0 * y 2 + x 2 * y 0) + q 5 * (x 1 * y 2 + x 2 * y 1)

/-- Edge of a triangle from a to b is owned (R345). -/
def ownedR (a b : Nat → ℚ) : Prop := a 0 < b 0 ∨ (a 0 = b 0 ∧ (a 1 < b 1 ∨ (a 1 = b 1 ∧ a 2 < b 2)))

/-- The radiance channel of a triangle or a splat: none where it is negative or not finite. -/
def channelR (b i : Nat) : Val :=
  let v := f16v (bits b (8 * 44 + 16 * i + 15) (8 * 44 + 16 * i))
  if v.isFinite = true ∧ v.isNeg = false then v else .zero false

/-- A coordinate of the Deckle along an axis, its cell at a level and its place in the cell (R348). -/
def unitR (x lo hi : ℚ) : ℚ := max 0 (min 1 ((x - lo) / (hi - lo)))
def cellR (u : ℚ) (g : Nat) : Nat := min ⌊u * g⌋.toNat (g - 1)

/-- The index of a corner of the cell at `i` in a level's table; bit a of n says that the corner is the upper one along axis a (R348). -/
def cornerIndex (g log n : Nat) (i : Nat → Nat) : Nat :=
  let c (a : Nat) : Nat := i a + n / 2 ^ a % 2
  if (g + 1) ^ 3 ≤ 2 ^ log then c 0 + (g + 1) * (c 1 + (g + 1) * c 2)
  else (c 0 * 0x2D1B % 2 ^ 32 ^^^ c 1 * 0x9C4F6A13 % 2 ^ 32 ^^^ c 2 * 0x51E3B7C5 % 2 ^ 32) % 2 ^ log

/-- A feature of a level: the entries of the corners, weighted (R348). -/
def featureR (g log : Nat) (u : Nat → ℚ) (entry : Nat → ℚ) : ℚ :=
  ((List.range 8).map (fun n => ((List.range 3).map (fun a =>
    let f := u a * g - cellR (u a) g
    if n / 2 ^ a % 2 = 1 then f else 1 - f)).prod * entry (cornerIndex g log n (fun a => cellR (u a) g)))).sum

/-- The point of a leaf's box at which the Deckle reads, and what it reads there (R348): whether the coordinates have values, u by axis, and, by level, the address of an entry and the index of a corner. -/
structure DeckleGrid where
  plain : Prop
  u : Nat → ℚ
  key : Nat → Nat → Nat
  index : Nat → Nat → Nat

def deckleGrid (f : FieldLeaf) (y : Ray) (ta tb : Nat) : DeckleGrid :=
  let tm := rounded (divVal (addVal 0 (f32v ta) (f32v tb)).1 (real 2)).1
  let at_ (j : Nat) : Val := rounded (addVal 0 (y.o.getD j (.zero false)) (mulVal tm (y.d.getD j (.zero false))).1).1
  let u (j : Nat) : ℚ := unitR (ratio (at_ j).toQ) (axesOf f.lo j) (axesOf f.hi j)
  ⟨∀ j, j < 3 → (at_ j).isFinite = true ∧ (f.lo.getD j (.zero false)).isFinite = true ∧ (f.hi.getD j (.zero false)).isFinite = true ∧ axesOf f.lo j ≠ axesOf f.hi j, u,
    fun l x => f.table + 4 * 2 ^ f.log * l + 4 * x, fun l m => cornerIndex (f.res.getD l 1) f.log m (fun j => cellR (u j) (f.res.getD l 1))⟩

/-- A texel index wrapped (R370). -/
def wrapR (rep : Bool) (i : Int) (n : Nat) : Nat := if rep = true then (i % (n : Int)).toNat else (max 0 (min i ((n : Int) - 1))).toNat

/-- The address of the texel (i, j) around (u, v) of a level, and the channel value of a bilinear sample there (R370); `texel` gives a texel's bytes by address. -/
def tapAt (f : Surface) (l : TexLevel) (u v : ℚ) (i j : Nat) : Nat :=
  l.addr + pixelOffset (if f.fmt = 1 then 8 else 4) l.c (wrapR f.wrapU (⌊u * l.w - 1 / 2⌋ + i) l.w) (wrapR f.wrapV (⌊v * l.h - 1 / 2⌋ + j) l.h)
def bilinear (f : Surface) (l : TexLevel) (u v : ℚ) (texel : Nat → Nat) (ch : Nat) : ℚ :=
  let fx := Int.fract (u * l.w - 1 / 2)
  let fy := Int.fract (v * l.h - 1 / 2)
  let at_ (i j : Nat) : ℚ := ratio (texelChannel f.fmt (texel (tapAt f l u v i j)) ch).toQ
  at_ 0 0 * (1 - fx) * (1 - fy) + at_ 1 0 * fx * (1 - fy) + at_ 0 1 * (1 - fx) * fy + at_ 1 1 * fx * fy

/-- What a texture instruction writes: the lanes of a colour, the level used and the number of taps. -/
def colourOf (lane : Nat → Nat) (level n : Nat) : Nat := lane 0 + lane 1 * 2 ^ 32 + lane 2 * 2 ^ 64 + lane 3 * 2 ^ 96 + level * 2 ^ 128 + n * 2 ^ 160

/-! ### The mailbox (R379) -/

/-- What a mailbox command of a running module makes of the state, with operands that the spec admits and nothing in use that it would move; none where this table says nothing. -/
def mailbox (s : State) : Instr → Option State
  | .placeContextTable => match s.input with
    | .two d base => if d < 4 ∧ base + 65536 ≤ 0xC000000000 then some { s with dies := mapPut d { s.die d with contextTable := some base } s.dies } else none
    | _ => none
  | .placeSaveAreas => match s.input with
    | .two d base => if d < 4 ∧ base % 512 = 0 ∧ base + 2 ^ 24 ≤ 0xC000000000 then some { s with dies := mapPut d { s.die d with saveAreas := some base } s.dies } else none
    | _ => none
  | .setTimeSlice => match s.input with
    | .two d n => if d < 4 then some { s with dies := mapPut d { s.die d with timeSlice := n } s.dies } else none
    | _ => none
  | .reserveFrameSlots => match s.input with
    | .slots d ctx mask => if d < 4 ∧ ctx < 4096 ∧ mask ≠ 0 then some { s with contexts := mapPut (4096 * d + ctx) { s.settings d ctx with frameSlots := mask } s.contexts } else none
    | _ => none
  | .setWdlim => match s.input with
    | .three d ctx n => if d < 4 ∧ ctx < 4096 then some { s with contexts := mapPut (4096 * d + ctx) { s.settings d ctx with wdlim := n } s.contexts } else none
    | _ => none
  | .setContextDefaults => match s.input with
    | .defaults d (some ctx) r => if d < 4 ∧ ctx < 4096 then some { s with contexts := mapPut (4096 * d + ctx) { s.settings d ctx with defaults := r } s.contexts } else none
    | _ => none
  | .setPlacementList => match s.input with
    | .places d ctx l _ => if d < 4 ∧ ctx < 4096 ∧ (∀ c ∈ l, c / 64 = d) ∧ l.Pairwise (· < ·) then some { s with contexts := mapPut (4096 * d + ctx) { s.settings d ctx with placement := l } s.contexts } else none
    | _ => none
  | .setRunnerDefaults => match s.input with
    | .defaults d (some c) r => if d < 4 ∧ c < 2048 then some { s with cores := mapPut (d * 2048 + c) { s.core (d * 2048 + c) with defaults := r } s.cores } else none
    | _ => none
  | .formReplicaGroup => match s.input with
    | .places job timeout members _ => if members.Nodup ∧ members.length ∈ [2, 3] ∧ 0 ∈ members ∧ (∀ m ∈ members, m < 1024) ∧ (∀ g, mapGet job s.replicas = some g → g.pending = none) ∧ mapGet job s.jobs = none ∧ (∀ x ∈ s.grids, x.2.packet.job ≠ job) then
        some { s with replicas := mapPut job ⟨members, timeout, 0, none, [], false, s.cycle⟩ s.replicas } else none
    | _ => none
  | .setPeerTable => match s.input with
    | .peer n e => if 1 ≤ n ∧ n < 1024 then some { s with peers := mapPut n e s.peers } else none
    | _ => none
  | .fatalTrapReport => match s.input with
    | .two job _ => some (match mapGet job s.jobs with | some j => { s with jobs := mapPut job { j with err := true } s.jobs } | none => s)
    | _ => none
  | .setPowerCap => match s.input with
    | .one w => some (if w ≤ 3000 then { s with mgmt := { s.mgmt with cap := w } } else { s with sent := .report "REFUSED" w 0 :: s.sent })
    | _ => none
  | .assignFixedTimingTiles => match s.input with
    | .places d ctx [n] fixed =>
      if d < 4 ∧ ctx < 4096 ∧ n / 512 = d then
        if fixed = false then some { s with tiles := mapPut n { s.tile n with fixed := false, owner := none } s.tiles }
        else if (s.settings d ctx).frameSlots = 0 ∨ Config.powerRefuses (pinnedTiles s [n]) s.mgmt.cap = true then some { s with sent := .report "REFUSED" d ctx :: s.sent }
        else some { s with tiles := mapPut n { s.tile n with fixed := true, owner := some ctx, ahead := if (s.tile n).fixed then (s.tile n).ahead else 0 } s.tiles }
      else none
    | _ => none
  | _ => none

end Sys2Proof.Claims

open Sys2Proof Sys2Proof.Machine Sys2Proof.Claims

/-! ## Encoding -/

/-- Decoding what the encoder gives for a well-formed instruction gives the instruction back, whatever bytes follow it: no bit of any encoding is dropped. -/
def Obligations.DecodeEncode : Prop :=
  ∀ (i : Instr) (w : Encoding) (rest : List Byte), i.wf = true → encode i = some w → decode (w.bytes ++ rest) = .ok (i, rest)

/-- Every instruction that decoding gives is well formed, and its encoding is the bytes that it was read from: no two words stand for one instruction. -/
def Obligations.EncodeDecode : Prop :=
  ∀ (bytes rest : List Byte) (i : Instr), decode bytes = .ok (i, rest) → i.wf = true ∧ ∃ w, encode i = some w ∧ bytes = w.bytes ++ rest

/-- Words written out from the spec's encodings decode to the instructions that they stand for. -/
def Obligations.DecodeWords : Prop := ∀ p ∈ words, decode (Encoding.word p.1).bytes = .ok (p.2, [])

/-! ## The machine as a whole -/

/-- R376, R160, R281, R393: the module right after the dies have left reset has no thread, every word FULL, nothing placed on a die, and its cycle counter at 0. The values that the spec does
not give are the model's (log 1, log 2). -/
def Obligations.ResetState : Prop :=
  State.reset.canonical ∧ State.reset.threads = [] ∧ State.reset.empties = [] ∧ State.reset.cycle = 0
    ∧ ∀ n, ((State.reset.die n).contextTable = none ∧ (State.reset.die n).ring = none ∧ (State.reset.die n).parking = none ∧ (State.reset.die n).saveAreas = none)

/-- Every step keeps the canonical form of the state: memory stays sorted with no entry that reads as an unlisted byte does, and the keys of every map rise; no map stands inside a value of another. -/
def Obligations.StepKeepsCanonical : Prop := ∀ s t : State, s.canonical → step s = .next t → t.canonical

/-- What the module has sent out stays sent, in its order: a step only adds to it.
`State.sent`, a list with the newest entry first, is the model's own form (log 49, DESIGN CHOICE): the rules cited say what leaves the module, and none speaks of such a list. -/
def Obligations.StepKeepsSent : Prop := ∀ s t : State, step s = .next t → s.sent <:+ t.sent

/-- R21: an instruction whose guard condition is false takes its issue turn and changes nothing but its thread's PC and the record of its issue: no register, predicate, flag or memory, and no
window opens. Only its guard predicate must be free. A vector field that is ILLEGAL in the thread's mode traps first (R22). -/
def Obligations.GuardFalse : Prop :=
  ∀ (i : Instr) (g : Guard) (s : State) (t : Thread), guardOf i = some g → HasTurn s t → vectorsOk i t → t.free (touchP g.p) → guardHolds g t = false →
    exec i s = .next (s.withCurrent { t.ticked.advance (lengthOf i) s.cycle with word := s.insn })

/-! ## Scalar instructions -/

/-- R34: the E-format instructions. -/
def Obligations.ExtensionRegisters : Prop :=
  ∀ (s : State) (t : Thread) (x : BitVec 3),
    (∀ imm : BitVec 20, CanIssue s t ⟨0, false⟩ {} → exec (.exti x imm) s = .next (s.ran t 4 (fun u => u.writeE x (intMod64 imm.toInt))))
    ∧ (∀ (a : BitVec 4) (imm : BitVec 16), CanIssue s t ⟨0, false⟩ (touchS a) →
        exec (.exts a x imm) s = .next (s.ran t 4 (fun u => u.writeE x (intMod64 ((t.readS a).toNat + imm.toInt)))))
    ∧ (∀ imm : BitVec 20, CanIssue s t ⟨0, false⟩ {} →
        exec (.extsh x imm) s = .next (s.ran t 4 (fun u => u.writeE x (mod64 ((t.readE x).toNat * 2 ^ 20 % 2 ^ 64 + imm.toNat)))))
    ∧ (∀ d : BitVec 4, CanIssue s t ⟨0, false⟩ (touchS d) → exec (.move d x) s = .next (s.ran t 4 (fun u => if d = 0 then u else u.writeS d (t.readE x))))

/-- R78, R81, R89: the integer instructions, the immediate forms and the 16-bit forms that write a scalar: s[D] receives the result, the PC goes past the instruction, and nothing else changes. -/
def Obligations.IntegerResults : Prop :=
  (∀ (i : Instr) (s : State) (t : Thread) (c : Computes), arithmetic t i = some c → CanIssue s t c.guard c.uses →
      exec i s = .next (s.ran t c.len (fun u => if c.d = 0 then u else u.writeS c.d c.result)))
  ∧ (∀ (i : Instr) (s : State) (t : Thread) (c : Computes), immediates t i = some c → CanIssue s t c.guard c.uses →
      exec i s = .next (s.ran t c.len (fun u => if c.d = 0 then u else u.writeS c.d c.result)))

/-- R80: the shifts, by the low 8 bits of s[B]. -/
def Obligations.Shifts : Prop :=
  ∀ (i : Instr) (s : State) (t : Thread) (c : Computes), shifts t i = some c → CanIssue s t c.guard c.uses →
    exec i s = .next (s.ran t c.len (fun u => if c.d = 0 then u else u.writeS c.d c.result))

/-- R79: division. A zero divisor traps DIV0 where TRAPEN.DIV0 is 1, with D = 0 too, and nothing of the instruction takes effect; otherwise s[D] receives the result. -/
def Obligations.Division : Prop :=
  ∀ (i : Instr) (s : State) (t : Thread) (gd : Guard) (d a b : BitVec 4) (x : Word), divisions t i = some (gd, d, a, b, x) →
    CanIssue s t gd (touches [touchS d, touchS a, touchS b]) →
    (t.readS b = 0 → t.div0 = true → exec i s = commit "TRAP_ENTRY" (enterTrap s.cur (preciseTrap t s.insn .div0 0) false) s)
    ∧ (t.readS b ≠ 0 ∨ t.div0 = false → exec i s = .next (s.ran t 4 (fun u => if d = 0 then u else u.writeS d x)))

/-- R83: every lane of the result is that of the rule, for W = 0, 1 and 2. -/
def Obligations.PackedLanes : Prop :=
  ∀ (i : Instr) (s : State) (t : Thread) (gd : Guard) (d a b : BitVec 4) (w : Nat) (f : BitVec w → BitVec w → BitVec w),
    i.wf = true → packed (t.readS b) i = some (gd, d, a, b, ⟨w, f⟩) → CanIssue s t gd (touches [touchS d, touchS a, touchS b]) →
    ∃ r : Word, (∀ k < 64 / w, r.extractLsb' (w * k) w = f ((t.readS a).extractLsb' (w * k) w) ((t.readS b).extractLsb' (w * k) w))
      ∧ exec i s = .next (s.ran t 4 (fun u => if d = 0 then u else u.writeS d r))

/-- R84-R86 and `C.CMP` of R89: p[D] receives the truth of the condition or of the predicate operation, for D other than 0. -/
def Obligations.Predicates : Prop :=
  ∀ (i : Instr) (s : State) (t : Thread) (gd : Guard) (len : Nat) (d : BitVec 4) (uses : Touch) (b : Bool), i.wf = true → decides t i = some (gd, len, d, uses, b) →
    CanIssue s t gd uses → exec i s = .next (s.ran t len (fun u => u.writeP d b))

/-- R87, R88, R89: a branch whose condition is true goes to its target, and one whose condition is false to the next instruction; it writes nothing. A jump goes to its target, with the return address written unless D is 0; a `JALR` to an odd target traps ALIGN with the target as ADDR and leaves s[D]. -/
def Obligations.BranchesAndJumps : Prop :=
  (∀ (i : Instr) (s : State) (t : Thread) (gd : Guard) (len : Nat) (target : Word), branch t.pc i = some (gd, len, target) →
      (CanIssue s t gd {} → exec i s = .next (s.jumped t target id))
      ∧ (HasTurn s t → t.free (touchP gd.p) → guardHolds gd t = false →
          exec i s = .next (s.withCurrent { t.ticked.advance len s.cycle with word := s.insn })))
  ∧ (∀ (s : State) (t : Thread) (d a : BitVec 4),
      (∀ off : BitVec 20, CanIssue s t ⟨0, false⟩ (touchS d) →
        exec (.jal d off) s = .next (s.jumped t (intMod64 (t.pc.toNat + 2 * off.toInt)) (fun u => if d = 0 then u else u.writeS d (t.pc + 4))))
      ∧ (∀ off : BitVec 11, CanIssue s t ⟨0, false⟩ {} → exec (.cJ off) s = .next (s.jumped t (intMod64 (t.pc.toNat + 2 * off.toInt)) id))
      ∧ (∀ off : BitVec 16, CanIssue s t ⟨0, false⟩ (touches [touchS d, touchS a]) →
          let target := intMod64 ((t.readS a).toNat + off.toInt)
          exec (.jalr d a off) s = if target.getLsbD 0 then commit "TRAP_ENTRY" (enterTrap s.cur (preciseTrap t s.insn .align target) false) s
            else .next (s.jumped t target (fun u => if d = 0 then u else u.writeS d (t.pc + 4)))))

/-- R74, R75: `GETC` reads the register that the map assigns to its index, zero-extended; `SETC` writes it, of which only the defined fields take the value. -/
def Obligations.ControlRegisters : Prop :=
  (∀ (s : State) (t : Thread) (gd : Guard) (d : BitVec 4) (i : BitVec 12) (x : Nat), controlValue s t i.toNat = some x →
      CanIssue s t gd ((touchS d).union (controlUses i.toNat)) → exec (.getc gd d i) s = .next (s.ran t 4 (fun u => if d = 0 then u else u.writeS d (mod64 x))))
  ∧ (∀ (s : State) (t : Thread) (gd : Guard) (d : BitVec 4) (i : BitVec 12) (f : Thread → Thread), controlWrite s.cur i.toNat (t.readS d) = some f →
      CanIssue s t gd ((touchS d).union (controlUses i.toNat)) → exec (.setc gd d i) s = .next (s.ran t 4 f))

/-! ## Floating point -/

/-- R111, R112, R94-R96: a scalar floating instruction writes the rounded result and ORs its flags into FLAGS, which it does for D = 0 too; it forfeits the turns of a division or square root,
and two more where the shared normaliser serves it.
R112, R106-R109: `FCMP` writes p[D], `CVT` the converted value and its flags, and `FCLASS` the one class bit that R109 gives the code's value, without a flag. -/
def Obligations.FloatScalars : Prop :=
  (∀ (i : Instr) (s : State) (t : Thread) (gd : Guard) (op : FloatOp) (d a b : BitVec 4) (ty : BitVec 2), floats i = some (gd, op, d, a, b, ty) →
      CanIssue s t gd (touches [touchS d, touchS a, touchS b, touchFlags]) →
      let f := typeFmt ty
      let exact := op.exact t.rmode (f.decode (t.readS a).toNat) (f.decode (t.readS b).toNat) (f.decode (t.readS d).toNat)
      let rounded := roundIeee f t.rmode exact.1
      let served := (floatLane op f t.rmode (t.readS a).toNat (t.readS b).toNat (t.readS d).toNat).2.2
      exec i s = .next (s.ran t 4 (fun u => forfeits (arithmeticTurns op ty + if served then 2 else 0)
        ((if d = 0 then u else u.writeS d (mod64 rounded.1)).orFlags (exact.2 ||| rounded.2)))))
  ∧ (∀ (s : State) (t : Thread) (gd : Guard) (d a b : BitVec 4),
      (∀ ty cc : BitVec 2, d ≠ 0 → CanIssue s t gd (touches [touchP d, touchS a, touchS b, touchFlags]) →
        let f := typeFmt ty
        let r := compareVal cc (f.decode (t.readS a).toNat) (f.decode (t.readS b).toNat)
        exec (.fcmp gd d a b ty cc) s = .next (s.ran t 4 (fun u =>
          forfeits (if f.subnormal (t.readS a).toNat || f.subnormal (t.readS b).toNat then 2 else 0) ((u.writeP d r.1).orFlags r.2))))
      ∧ (∀ dst src : BitVec 4, convertible dst src b = true → CanIssue s t gd (touches [touchS d, touchS a, touchS b, touchFlags]) →
        let r := convert dst.toNat src.toNat t.rmode (t.readS a) (t.readS b)
        exec (.cvt gd d a b dst src) s = .next (s.ran t 4 (fun u => forfeits (if r.2.2 then 2 else 0) ((if d = 0 then u else u.writeS d r.1).orFlags r.2.1))))
      ∧ (∀ c : BitVec 8, classCode c = true → CanIssue s t gd (touches [touchS d, touchS a]) →
        let f := (codeFmt (c.toNat / 16)).getD fmtF32
        exec (.fclass gd d a c) s = .next (s.ran t 4 (fun u => if d = 0 then u else u.writeS d (mod64 (2 ^ classBit f ((t.readS a).toNat % 2 ^ f.width)))))))

/-! ## Vectors -/

/-- R113, R117, R118, R119, R124: every lane of the destination is that of the rule, in the registers of the thread's mode. `VFCMP` gives lanes of all ones or zero; `VBCAST` puts the low part of s[A] into every lane; `VPERM` moves whole lanes, by the lane numbers modulo the lane count. -/
def Obligations.VectorResults : Prop :=
  (∀ (i : Instr) (s : State) (t : Thread) (gd : Guard) (d a b : BitVec 4) (w : Nat) (f : BitVec w → BitVec w → BitVec w → BitVec w),
      i.wf = true → vectorLanes i = some (gd, d, a, b, ⟨w, f⟩) → vectorsOk i t → CanIssue s t gd (touches [touchVec d t, touchVec a t, touchVec b t]) →
      ∃ r : LongVec, (∀ k < vecBits t / w, part w r k = f (part w (register s t a) k) (part w (register s t b) k) (part w (register s t d) k))
        ∧ exec i s = .next (delivers s t d r none 0))
  ∧ (∀ (s : State) (t : Thread) (gd : Guard) (d a b : BitVec 4),
      (∀ ty cc : BitVec 2, vectorsOk (.vfcmp gd d a b ty cc) t → CanIssue s t gd (touches [touchVec d t, touchVec a t, touchVec b t, touchFlags]) →
        let f := typeFmt ty
        let w := f.width
        let x (k : Nat) := (part w (register s t a) k).toNat
        let y (k : Nat) := (part w (register s t b) k).toNat
        let lane (k : Nat) := compareVal cc (f.decode (x k)) (f.decode (y k))
        let served := (List.range (vecBits t / w)).any (fun k => f.subnormal (x k) || f.subnormal (y k))
        ∃ r : LongVec, (∀ k < vecBits t / w, part w r k = if (lane k).1 then BitVec.allOnes w else 0)
          ∧ exec (.vfcmp gd d a b ty cc) s = .next (delivers s t d r (some (((List.range (vecBits t / w)).map (fun k => (lane k).2)).foldl (· ||| ·) 0)) (if served then 2 else 0)))
      ∧ (∀ sz : BitVec 2, vectorsOk (.vbcast gd d a sz) t → CanIssue s t gd (touches [touchVec d t, touchS a]) →
        let w := 8 * 2 ^ sz.toNat
        ∃ r : LongVec, (∀ k < vecBits t / w, part w r k = (t.readS a).extractLsb' 0 w) ∧ exec (.vbcast gd d a sz) s = .next (delivers s t d r none 0))
      ∧ (∀ sz : BitVec 2, vectorsOk (.vperm gd d a b sz) t → CanIssue s t gd (touches [touchVec d t, touchVec a t, touchVec b t]) →
        let w := 8 * 2 ^ sz.toNat
        ∃ r : LongVec, (∀ k < vecBits t / w, part w r k = part w (register s t a) ((part w (register s t b) k).toNat % (vecBits t / w)))
          ∧ exec (.vperm gd d a b sz) s = .next (delivers s t d r none 0)))

/-- R118, R96, R111: every lane of the destination is the rounded result of its lanes, and the flags of all lanes are ORed into FLAGS; in SHORT mode the turns of the operation are forfeited. -/
def Obligations.VectorFloats : Prop :=
  ∀ (i : Instr) (s : State) (t : Thread) (gd : Guard) (op : FloatOp) (d a b : BitVec 4) (ty : BitVec 2), vectorFloats i = some (gd, op, d, a, b, ty) → vectorsOk i t →
    CanIssue s t gd (touches [touchVec d t, touchVec a t, touchVec b t, touchFlags]) →
    let f := typeFmt ty
    let w := f.width
    let lane (k : Nat) := floatLane op f t.rmode (part w (register s t a) k).toNat (part w (register s t b) k).toNat (part w (register s t d) k).toNat
    let served := (List.range (vecBits t / w)).any (fun k => (lane k).2.2)
    ∃ r : LongVec, (∀ k < vecBits t / w, part w r k = BitVec.ofNat w (lane k).1)
      ∧ exec i s = .next (delivers s t d r (some (((List.range (vecBits t / w)).map (fun k => (lane k).2.1)).foldl (· ||| ·) 0)) (arithmeticTurns op ty + if served then 2 else 0))

/-- R120: a reduction combines the lanes in the fixed order; an integer result is sign-extended for `add`, `min.i` and `max.i`, zero-extended for `min.n` and `max.n`; a floating one ORs the flags of every
combination into FLAGS. -/
def Obligations.Reductions : Prop :=
  ∀ (i : Instr) (s : State) (t : Thread), i.wf = true → vectorsOk i t →
    (∀ (gd : Guard) (d a e : BitVec 4) (signed : Bool) (f : (w : Nat) → BitVec w → BitVec w → BitVec w), reductions i = some (gd, d, a, e, signed, f) →
      CanIssue s t gd (touches [touchS d, touchVec a t]) →
      let w := 8 * 2 ^ e.toNat
      let r := pairwise (f w) (rounds t w) (part w (register s t a))
      exec i s = .next (deliversScalar s t d (if signed then intMod64 r.toInt else mod64 r.toNat) none 0))
    ∧ (∀ (gd : Guard) (op : FloatOp) (d a e : BitVec 4), floatReductions i = some (gd, op, d, a, e) → CanIssue s t gd (touches [touchS d, touchVec a t, touchFlags]) →
      let f := typeFmt (e.extractLsb' 0 2)
      let combine (x y : Nat × Flags × Bool) : Nat × Flags × Bool :=
        let z := floatLane op f t.rmode x.1 y.1 0
        (z.1, x.2.1 ||| y.2.1 ||| z.2.1, x.2.2 || y.2.2 || z.2.2)
      let r := pairwise combine (rounds t f.width) (fun k => ((part f.width (register s t a) k).toNat, 0, false))
      exec i s = .next (deliversScalar s t d (mod64 r.1) (some r.2.1) (if r.2.2 then 2 else 0)))

/-- R114: `VLONG` attaches a free unit, zeroing w0-w15, and reports failure on one that another thread holds; `VSHORT` releases the unit of its thread without clearing it. -/
def Obligations.VectorMode : Prop :=
  ∀ (s : State) (t : Thread) (gd : Guard),
    let n := tileOf s.cur
    (∀ d : BitVec 4, d ≠ 0 → CanIssue s t gd (touchP d) →
      ((s.tile n).unit = some s.cur → exec (.vlong gd d) s = .next (s.ran t 4 (fun u => u.writeP d false)))
      ∧ (∀ k, (s.tile n).unit = some k → k ≠ s.cur → exec (.vlong gd d) s = .next (s.ran t 4 (fun u => u.writeP d true)))
      ∧ ((s.tile n).unit = none → exec (.vlong gd d) s = .next { s.ran t 4 (fun u => { u.writeP d false with long := true })
          with tiles := mapPut n { s.tile n with unit := some s.cur, w := Vector.replicate 16 0 } s.tiles }))
    ∧ (CanIssue s t gd {} →
      ((s.tile n).unit ≠ some s.cur → exec (.vshort gd) s = .next (s.ran t 4 id))
      ∧ ((s.tile n).unit = some s.cur → t.pending.w = 0 →
          exec (.vshort gd) s = .next { s.ran t 4 (fun u => { u with long := false }) with tiles := mapPut n { s.tile n with unit := none } s.tiles }))

/-- R125, R128-R130: a `VFN` whose context owns the tile's coefficient memory, or finds it without an owner and takes it, and whose directory entries pass the checks, gives in every lane the function's value under
the tables, with the flags of all lanes; in SHORT mode it forfeits as many turns as the highest degree, and two more where the shared normaliser serves a lane. -/
def Obligations.VectorFunctions : Prop :=
  ∀ (i : Instr) (s : State) (t : Thread) (gd : Guard) (f : CoefFn) (d a ty : BitVec 4), i.wf = true → functions i = some (gd, f, d, a, ty) → vectorsOk i t →
    CanIssue s t gd (touches [touchVec d t, touchVec a t, touchFlags, touchCoef]) → mayOwn (s.tile (tileOf s.cur)).coefOwner t.ctx →
    let c := coefsOf s s.cur t
    (∀ g ∈ functionEntries f, (c.entry g).isSome = true) →
    let w := (typeFmt (ty.extractLsb' 0 2)).width
    let e (g : CoefFn) : CoefEntry := (c.entry g).getD ⟨1, 0, 0⟩
    let lane (k : Nat) := c.lane f (e f) (e .sin) (e .cos) (typeFmt (ty.extractLsb' 0 2)) (part w (register s t a) k).toNat
    let served := (List.range (vecBits t / w)).any (fun k => (lane k).2.2)
    ∃ r : LongVec, (∀ k < vecBits t / w, part w r k = BitVec.ofNat w (lane k).1)
      ∧ exec i s = .next { delivers s t d r (some (((List.range (vecBits t / w)).map (fun k => (lane k).2.1)).foldl (· ||| ·) 0))
            (((functionEntries f).map (fun g => (e g).deg)).foldl max 0 + if served then 2 else 0) with tiles := coefClaimed s t }

/-- R219-R221: `VPRUNE48` and `VSDOT48`, in SHORT mode on v0-v7. `VPRUNE48` keeps the four elements of greatest magnitude of each group of eight, the lower index first among equals, packs them at the bottom of vD and writes the mask
to s[B]; `VSDOT48` traps MALFORMED_METADATA, naming the first group whose mask does not keep four, and else writes the dot product of the packed elements with the kept elements of vD. -/
def Obligations.PruneAndSparseDot : Prop :=
  ∀ (s : State) (t : Thread) (gd : Guard) (d a b : BitVec 4) (ty : BitVec 2), ty ≠ 3 → t.long = false → d.toNat < 8 → a.toNat < 8 →
    let element (v : Quad) (k : Nat) : BitVec 8 := v.extractLsb' (8 * k) 8
    (CanIssue s t gd (touches [touchV d, touchV a, touchS b]) →
      ∃ (r : Quad) (mask : BitVec 32),
        (∀ g < 4, ∃ keep : List Nat, keep.length = 4 ∧ keep.Pairwise (· < ·) ∧ (∀ j ∈ keep, j < 8)
          ∧ (∀ j < 8, (j ∈ keep ↔ mask.getLsbD (8 * g + j) = true))
          ∧ (∀ j ∈ keep, ∀ l < 8, l ∉ keep → greater ty (element (t.readV a) (8 * g + l)) (element (t.readV a) (8 * g + j)) = false
              ∧ (greater ty (element (t.readV a) (8 * g + j)) (element (t.readV a) (8 * g + l)) = false → j < l))
          ∧ ∀ m < 4, element r (4 * g + m) = element (t.readV a) (8 * g + keep.getD m 0))
        ∧ r.extractLsb' 128 128 = 0
        ∧ exec (.vprune48 gd d a b ty) s = .next (s.ran t 4 (fun u => if b = 0 then u.writeV d r else (u.writeV d r).writeS b (mask.zeroExtend 64))))
    ∧ (CanIssue s t gd (touches [touchV d, touchV a, touchS b, touchFlags]) →
      let kept (g : Nat) : List Nat := (List.range 8).filter (fun j => (t.readS b).getLsbD (8 * g + j))
      (∀ g < 4, (kept g).length ≠ 4 → (∀ h < g, (kept h).length = 4) →
        exec (.vsdot48 gd d a b ty) s = commit "TRAP_ENTRY" (enterTrap s.cur (preciseTrap t s.insn .malformedMetadata (mod64 g)) false) s)
      ∧ ((∀ g < 4, (kept g).length = 4) →
        let pairs : List (BitVec 8 × BitVec 8) := (List.range 4).flatMap (fun g => (List.range 4).map (fun m => (element (t.readV a) (4 * g + m), element (t.readV d) (8 * g + (kept g).getD m 0))))
        (ty = 0 → exec (.vsdot48 gd d a b ty) s
          = .next (s.ran t 4 (fun u => u.writeV d ((BitVec.ofInt 32 ((pairs.map (fun p => p.1.toInt * p.2.toInt)).sum)).zeroExtend 256))))
        ∧ (ty ≠ 0 →
          let products := pairs.map (fun p => mulVal (plainDecode (if ty = 1 then 3 else 4) p.1.toNat) (plainDecode (if ty = 1 then 3 else 4) p.2.toNat))
          let sum := exactSum (products.map (·.1))
          let rounded := roundIeee fmtF32 0 sum.1
          exec (.vsdot48 gd d a b ty) s = .next (s.ran t 4 (fun u => (u.writeV d (BitVec.ofNat 256 rounded.1)).orFlags
            ((products.map (·.2)).foldl (· ||| ·) 0 ||| (sum.2 ||| rounded.2)))))))

/-! ## Requests to memory -/

/-- R151, R89: a load from an address that is canonical and aligned sends its request: size, extension and order as its form says, with s[D] pending; `LDP` loads 16 bytes into the pair at D, for an even D, and into no register where D is 0; a store sends the low bytes of s[D], and no register is pending. -/
def Obligations.AccessesIssue : Prop :=
  (∀ (i : Instr) (s : State) (t : Thread) (gd : Guard) (len : Nat) (d a : BitVec 4) (off : Word) (n : Nat) (signed acq : Bool) (la : BitVec 4),
      loads t i = some (gd, len, d, a, off, n, signed, acq, la) → CanIssue s t gd (touches [touchS d, touchS a]) → addressOk (t.readS a + off) n →
      exec i s = .next (sends s t len (touchS d) {} la { request s t (.load signed) [((t.readS a + off).toNat, n)] with d := d, acq := acq }))
  ∧ (∀ (s : State) (t : Thread) (gd : Guard) (d a off : BitVec 4) (ord : BitVec 1) (la : BitVec 4), (Instr.ldp gd d a off ord la).wf = true →
      let pair : Touch := if d = 0 then {} else touches [touchS d, touchS (d + 1)]
      let va := t.readS a + offset t off 16
      CanIssue s t gd (pair.union (touchS a)) → addressOk va 16 →
      exec (.ldp gd d a off ord la) s = .next (sends s t 4 pair {} la { request s t .loadPair [(va.toNat, 16)] with d := d, acq := ord == 1 }))
  ∧ (∀ (i : Instr) (s : State) (t : Thread) (gd : Guard) (len : Nat) (d a : BitVec 4) (off : Word) (n : Nat) (rel : Bool) (la : BitVec 4),
      stores t i = some (gd, len, d, a, off, n, rel, la) → CanIssue s t gd (touches [touchS d, touchS a]) → addressOk (t.readS a + off) n →
      exec i s = .next (sends s t len {} {} la { request s t .store [((t.readS a + off).toNat, n)] with data := (t.readS d).toNat % 256 ^ n, rel := rel }))

/-- R144, R151: a load or a store, of every form, whose address is canonical and misaligned traps ALIGN with the address, and one whose address is not canonical traps PROTECTION, before anything else of it takes
effect; so do a full/empty operation, which must be aligned to its word (R161) and, where it waits, needs a general slot (R173), and an atomic (R175). A vector access names the first lane whose address is not canonical, and where all
are, the first that is misaligned (R122).
That a waiting form in the runner slot traps after the canonical form and before the alignment is the model's order (log 27, DEDUCED). -/
def Obligations.AddressTraps : Prop :=
  (∀ (i : Instr) (s : State) (t : Thread),
      let trapped (c : Cause) (addr : Word) : Prop := exec i s = commit "TRAP_ENTRY" (enterTrap s.cur (preciseTrap t s.insn c addr) false) s
      let checked (va : Word) (n : Nat) : Prop := (2 ^ 56 ≤ va.toNat → trapped .protection va) ∧ (va.toNat < 2 ^ 56 → va.toNat % n ≠ 0 → trapped .align va)
      (∀ gd len d a off n signed acq la, loads t i = some (gd, len, d, a, off, n, signed, acq, la) → CanIssue s t gd (touches [touchS d, touchS a]) → checked (t.readS a + off) n)
      ∧ (∀ gd len d a off n rel la, stores t i = some (gd, len, d, a, off, n, rel, la) → CanIssue s t gd (touches [touchS d, touchS a]) → checked (t.readS a + off) n)
      ∧ (∀ gd d a off ord la, i = .ldp gd d a off ord la → i.wf = true → CanIssue s t gd ((if d = 0 then {} else touches [touchS d, touchS (d + 1)]).union (touchS a)) → checked (t.readS a + offset t off 16) 16)
      ∧ (∀ gd op d a pf off form la uses dest, fullEmpties t i = some (gd, op, d, a, pf, off, form, la, uses, dest) → CanIssue s t gd (uses.union (touchS a)) →
          let va := t.readS a + off
          let refused := waits op = true ∧ isRunner s.cur = true
          (2 ^ 56 ≤ va.toNat → trapped .protection va) ∧ (va.toNat < 2 ^ 56 → refused → trapped .runnerWait 0) ∧ (va.toNat < 2 ^ 56 → ¬ refused → va.toNat % 8 ≠ 0 → trapped .align va))
      ∧ (∀ gd op d a b la n fl, atomics i = some (gd, op, d, a, b, la, n, fl) → CanIssue s t gd (((touchS d).union (if fl then touchFlags else {})).union ((touchS a).union (touchS b))) → checked (t.readS a) n))
  ∧ (∀ (s : State) (t : Thread) (gd : Guard) (d a b fn la : BitVec 4), (t.long = true ∨ d.toNat < 8) →
      let w := 8 * 2 ^ ((fn.toNat + 2) % 4)
      let n := vecBits t / w
      let va := t.readS a
      let whole := (List.range (vecBits t / 256)).map (fun i => va + mod64 (32 * i))
      let strided := (List.range n).map (fun i => va + mod64 (i * (t.readS b).toNat))
      let indexed := (List.range n).map (fun i => va + mod64 ((part w (register s t b) i).toNat * (w / 8)))
      let trapped (i : Instr) (c : Cause) (addr : Word) : Prop := exec i s = commit "TRAP_ENTRY" (enterTrap s.cur (preciseTrap t s.insn c addr) false) s
      let checked (i : Instr) (lanes : List Word) (n : Nat) : Prop :=
        (∀ x, lanes.find? (fun y => decide (2 ^ 56 ≤ y.toNat)) = some x → trapped i .protection x)
          ∧ ((∀ y ∈ lanes, y.toNat < 2 ^ 56) → ∀ x, lanes.find? (fun y => decide (y.toNat % n ≠ 0)) = some x → trapped i .align x)
      (CanIssue s t gd (touches [touchVec d t, touchS a]) → checked (.vld gd d a la) whole 32 ∧ checked (.vst gd d a la) whole 32)
      ∧ ((Instr.vlds gd d a b fn la).wf = true → CanIssue s t gd (touches [touchVec d t, touchS a, touchS b]) → checked (.vlds gd d a b fn la) strided (w / 8))
      ∧ ((t.long = true ∨ b.toNat < 8) → CanIssue s t gd (touches [touchVec d t, touchS a, touchVec b t]) →
          ((Instr.vgath gd d a b fn la).wf = true → checked (.vgath gd d a b fn la) indexed (w / 8))
          ∧ ((Instr.vscat gd d a b fn la).wf = true → checked (.vscat gd d a b fn la) indexed (w / 8))))

/-- R121-R123: the vector loads and stores send one request for all the lanes of the thread's mode, when every lane's address is canonical and aligned, and every 32 bytes of a whole register are. -/
def Obligations.VectorMemoryIssues : Prop :=
  ∀ (s : State) (t : Thread) (gd : Guard) (d a b fn la : BitVec 4), (t.long = true ∨ d.toNat < 8) →
    let w := 8 * 2 ^ ((fn.toNat + 2) % 4)
    let n := vecBits t / w
    let va := t.readS a
    let whole := (List.range (vecBits t / 256)).map (fun i => va + mod64 (32 * i))
    let strided := (List.range n).map (fun i => va + mod64 (i * (t.readS b).toNat))
    let indexed := (List.range n).map (fun i => va + mod64 ((part w (register s t b) i).toNat * (w / 8)))
    let spans (l : List Word) := l.map (fun x => (x.toNat, w / 8))
    let stored := (register s t d).toNat
    (CanIssue s t gd (touches [touchVec d t, touchS a]) → (∀ x ∈ whole, addressOk x 32) →
      exec (.vld gd d a la) s = .next (sends s t 4 (touchVec d t) {} la { request s t (.gather 64) [(va.toNat, vecBits t / 8)] with d := d })
      ∧ exec (.vst gd d a la) s = .next (sends s t 4 {} {} la { request s t (.scatter 64) [(va.toNat, vecBits t / 8)] with data := stored }))
    ∧ ((Instr.vlds gd d a b fn la).wf = true → CanIssue s t gd (touches [touchVec d t, touchS a, touchS b]) → (∀ x ∈ strided, addressOk x (w / 8)) →
      exec (.vlds gd d a b fn la) s = .next (sends s t 4 (touchVec d t) {} la { request s t (.gather w) (spans strided) with d := d }))
    ∧ ((t.long = true ∨ b.toNat < 8) → CanIssue s t gd (touches [touchVec d t, touchS a, touchVec b t]) → (∀ x ∈ indexed, addressOk x (w / 8)) →
      ((Instr.vgath gd d a b fn la).wf = true →
        exec (.vgath gd d a b fn la) s = .next (sends s t 4 (touchVec d t) {} la { request s t (.gather w) (spans indexed) with d := d }))
      ∧ ((Instr.vscat gd d a b fn la).wf = true →
        exec (.vscat gd d a b fn la) s = .next (sends s t 4 {} {} la { request s t (.scatter w) (spans indexed) with data := stored })))

/-- R161-R165: a full/empty operation on a word whose address is canonical and aligned sends its request, with its failure predicate, its FORM and scope, and its order; a form that waits needs a
general slot (R173).
R175-R177, R241: an atomic on an address that is canonical and aligned sends its request, an acquire and a release, with its operand, its comparand and its sequence number; s[D], and FLAGS where it
can set one, are pending. -/
def Obligations.WordOperationsIssue : Prop :=
  (∀ (i : Instr) (s : State) (t : Thread) (gd : Guard) (op : FeOp) (d a pf : BitVec 4) (off : Word) (form : BitVec 2) (la : BitVec 4) (uses dest : Touch),
      fullEmpties t i = some (gd, op, d, a, pf, off, form, la, uses, dest) → CanIssue s t gd (uses.union (touchS a)) → addressOk (t.readS a + off) 8 →
      (waits op = true → isRunner s.cur = false) →
      exec i s = .next (sends s t 4 dest {} la { request s t (.fullEmpty op) [((t.readS a + off).toNat, 8)] with
        d := d, pf := pf, data := (t.readS d).toNat, form := form.toNat, scope := formScope s.cur t form, acq := acquires op, rel := !acquires op }))
  ∧ (∀ (i : Instr) (s : State) (t : Thread) (gd : Guard) (op : AmoOp) (d a b la : BitVec 4) (n : Nat) (fl : Bool), atomics i = some (gd, op, d, a, b, la, n, fl) →
      let dest := (touchS d).union (if fl then touchFlags else {})
      CanIssue s t gd (dest.union ((touchS a).union (touchS b))) → addressOk (t.readS a) n →
      exec i s = .next (sends s t 4 dest {} la { request s t (.atomic op) [((t.readS a).toNat, n)] with
        d := d, data := (t.readS b).toNat, cmp := t.readS d, seq := (t.readE 6).toNat % 2 ^ 32, scope := actScope s.cur t.scope, acq := true, rel := true }))

/-- R181, R182: `RMSG` sends the handler PC in s[B] and s1-s4 to the core and device that s[A] names, behind all earlier accesses of its thread; `.SEQ` adds the sequence number in e6. A target on another
die or module breaks the timing of a fixed-timing thread (R277).
R126: `COEFLD` from a canonical, aligned address, with an aligned offset and length that end within the 8 KiB, sends its request for the owner of the tile's coefficient memory; a range that leaves the address space raises PROTECTION at its
end (R132, R144). -/
def Obligations.MessagesAndCoefficients : Prop :=
  (∀ (i : Instr) (s : State) (t : Thread) (gd : Guard) (a b la : BitVec 4) (seq : Bool), messages i = some (gd, a, b, la, seq) →
      CanIssue s t gd (touches [touchS a, touchS b, touchS 1, touchS 2, touchS 3, touchS 4]) →
      let x := (t.readS a).toNat
      let device := x / 2 ^ 16 % 2 ^ 16
      let core := x % 2 ^ 13
      let r := { request s t (.message core device (t.readS b) [t.readS 1, t.readS 2, t.readS 3, t.readS 4] (if seq then some ((t.readE 6).toNat % 2 ^ 32) else none)) [] with
        rel := true, scope := if device = 0 then .device else .system, after := barring s s.cur t [] true }
      exec i s = .next { s.ran t 4 (fun u => breaks (device ≠ 0 || dieOf s.cur ≠ core / 2048) (opened s {} {} la u)) with
        reqs := mapPut (s.nextId + 1) r s.reqs, nextId := s.nextId + 2 })
  ∧ (∀ (s : State) (t : Thread) (gd : Guard) (a b la : BitVec 4), CanIssue s t gd (touches [touchS a, touchS b, touchCoef]) →
      let off := (t.readS b).toNat % 2 ^ 13
      let len := (t.readS b).toNat / 2 ^ 16 % 2 ^ 14
      (addressOk (t.readS a) 8 → (t.readS a).toNat + len ≤ 2 ^ 56 → off % 8 = 0 → len % 8 = 0 → 0 < len → off + len ≤ 8192 → (s.tile (tileOf s.cur)).coefOwner = some t.ctx →
        exec (.coefld gd a b la) s = .next (sends s t 4 touchCoef {} la (request s t (.coef off) [((t.readS a).toNat, len)])))
      ∧ ((t.readS a).toNat < 2 ^ 56 → 2 ^ 56 < (t.readS a).toNat + len → exec (.coefld gd a b la) s = commit "TRAP_ENTRY" (enterTrap s.cur (preciseTrap t s.insn .protection (mod64 (2 ^ 56))) false) s))

/-- R158, R159: the cache operations, in a cluster whose L1s are not fused. A prefetch of an address that is in the local window or not canonical, that has no translation, or whose page does not let the cluster read it or is of device type, changes no register,
no memory and no thread but the issuer's PC and its own operation; of a mapped address that may be read `.pf` brings the line into the L1, in place of at most lines of its own, unless it is there or holds lost data, and `.pfs` the granule into its home slice.
`.inv` and `.inva` leave no line of the address, or none at all, in the L1, and `.inva` on core 3 empties the node cache (R333); `.tinv` and `.tinvc` send their invalidation where the context's SYS bit is 1, and raise PROTECTION where it is 0.
R191-R193: a fence that has nothing to wait for goes on at once; one with an acquire part drops the L1 lines that its scope names, `FENCE.i` drops every line of its L1 and has later fetches take no older word, and every fence makes the discard that its thread owes for an earlier
acquire. A thread with an earlier access outstanding, or an engine command not accepted, WAITS at a release.
The lines of an L1, which of them make room, and the node cache are the model's (logs 5, 68); CCTL.inv at an address that is not canonical does nothing and CCTL.tinv there raises PROTECTION (log 65). -/
def Obligations.CacheAndFences : Prop :=
  (∀ (s : State) (t : Thread) (gd : Guard) (a b la : BitVec 4),
      let done := { s.ran t 4 (fun u => finished s.nextId {} (opened s {} {} la u)) with nextId := s.nextId + 1 }
      let intoL1 := exec (.cctlPf gd a la) s
      let intoHome := exec (.cctlPfs gd a la) s
      let c := coreOf s.cur
      let va := (t.readS a).toNat
      let line := va / 32 * 32
      let cluster := clusterOfTile (tileOf s.cur)
      (CanIssue s t gd (touchS a) →
        (inWindow va = true ∨ canonical va = false → intoL1 = .next done ∧ intoHome = .next done)
        ∧ (∀ cause, canonical va = true → inWindow va = false → walk s t.ctx va = .missing cause → (∀ x ∈ (s.slice (homeHash va)).first ++ (s.slice (lastSlice va)).last, x.serves t.ctx va = false) →
            (∃ u, intoL1 = .next u ∧ Reported done u) ∧ ∃ u, intoHome = .next u ∧ Reported done u)
        ∧ (∀ l, Mapped s t.ctx va l → l.mt = 2 ∨ permits l (some cluster) {} = false → (∃ u, intoL1 = .next u ∧ Caches done u) ∧ (∃ u, intoHome = .next u ∧ Caches done u))
        ∧ (∀ l, Mapped s t.ctx va l → SoleHome s line l → l.mt ≠ 2 → permits l (some cluster) {} = true →
            (∃ u g, intoHome = .next u ∧ Caches done u ∧ mapGet (l.key line / 256) u.granules = some g ∧ g.holder.home = homeHash va)
            ∧ (unfused s →
              ((l1Find s c t.ctx va).isSome = true ∨ spoiled s (l.key line) 32 = true → ∃ u, intoL1 = .next u ∧ Caches done u)
              ∧ ((l1Find s c t.ctx va).isSome = false → spoiled s (l.key line) 32 = false →
                ∃ u lines, intoL1 = .next u ∧ lines.Sublist (s.core c).l1
                  ∧ Caches { done with cores := mapPut c { s.core c with l1 := ⟨t.ctx, va / 32, BitVec.ofNat 256 (peek s.mem (l.key line) 32), l.x, l.w, l.mt = 1, false, l.va, l.size⟩ :: lines } s.cores } u))))
      ∧ (unfused s →
        (CanIssue s t gd (touchS a) → exec (.cctlInv gd a la) s = .next { done with
          cores := if (l1Find s c t.ctx va).isNone then s.cores else mapPut c { s.core c with l1 := (s.core c).l1.filter (fun l => !(l.ctx = t.ctx && l.line = va / 32)) } s.cores })
        ∧ (CanIssue s t gd {} → exec (.cctlInva gd la) s = .next { done with cores := mapPut c { s.core c with l1 := [] } s.cores, tiles := nodesDropped s }))
      ∧ (contextSys s (dieOf s.cur) t.ctx = true →
        (CanIssue s t gd (touches [touchS a, touchS b]) → va < 2 ^ 56 →
          ∃ u, exec (.cctlTinv gd a b la) s = .next u ∧ Reported (sends s t 4 {} {} la (request s t (.tinv ((t.readS b).toNat % 4096) (some va)) [])) u)
        ∧ (CanIssue s t gd (touchS b) → ∃ u, exec (.cctlTinvc gd b la) s = .next u ∧ Reported (sends s t 4 {} {} la (request s t (.tinv ((t.readS b).toNat % 4096) none) [])) u))
      ∧ (contextSys s (dieOf s.cur) t.ctx = false →
        let trapped : Step := commit "TRAP_ENTRY" (enterTrap s.cur (preciseTrap t s.insn .protection 0) false) s
        (CanIssue s t gd (touches [touchS a, touchS b]) → va < 2 ^ 56 → exec (.cctlTinv gd a b la) s = trapped) ∧ (CanIssue s t gd (touchS b) → exec (.cctlTinvc gd b la) s = trapped))
      ∧ (CanIssue s t gd (touches [touchS a, touchS b]) → 2 ^ 56 ≤ va → exec (.cctlTinv gd a b la) s = commit "TRAP_ENTRY" (enterTrap s.cur (preciseTrap t s.insn .protection (t.readS a)) false) s))
  ∧ (∀ (s : State) (t : Thread) (gd : Guard) (sz : BitVec 3), CanIssue s t gd {} → unfused s →
      let settled (u : Thread) : Thread := { u with owed := none }
      let owed := t.owed.getD .thread
      let sc := either (actScope s.cur (scopeOf sz.toNat)) owed
      (fenceReady s t →
        exec (.fence gd sz) s = .next (acquiredState s sc (s.ran t 4 settled))
        ∧ exec (.fenceAcq gd sz) s = .next (acquiredState s sc (s.ran t 4 settled))
        ∧ exec (.fenceRel gd sz) s = .next (acquiredState s owed (s.ran t 4 settled))
        ∧ exec (.fenceI gd) s = .next { s.ran t 4 (fun u => { settled u with fetchFrom := s.nextId + 1 }) with
            cores := mapPut (coreOf s.cur) { s.core (coreOf s.cur) with l1 := [] } s.cores, tiles := nodesDropped s, nextId := s.nextId + 1 })
      ∧ (fenceHeld s → ∀ i ∈ [Instr.fence gd sz, .fenceRel gd sz, .fenceI gd],
        exec i s = .next (s.withCurrent (waiting s t .earlier))))

/-! ## Threads -/

/-- R53, R54, R89: in an elastic context and a general slot `YIELD` leaves its thread WAITING for its own turn to come round, past the instruction; in a fixed-timing context or in the runner slot it does nothing more than take its turn. `QUIT` leaves rotation with no deferred trap kept; the slot empties when the thread's writebacks have arrived. -/
def Obligations.YieldAndQuit : Prop :=
  (∀ (i : Instr) (s : State) (t : Thread) (gd : Guard) (len : Nat), yields i = some (gd, len) → CanIssue s t gd {} →
      exec i s = .next (s.ran t len (fun u => if t.fixed = true ∨ s.cur % 32 = 16 then u else { u with status := .waiting .yield })))
  ∧ (∀ (s : State) (t : Thread),
      let gone := s.withCurrent { t.issuing s with status := .waiting .quit, due := [], heldTraps := [], lastIssue := s.cycle }
      (∀ gd : Guard, CanIssue s t gd {} → exec (.quit gd) s = .next gone) ∧ (CanIssue s t ⟨0, false⟩ {} → exec .cQuit s = .next gone))

/-- R55, R56, R59: `PARK` takes the wake bit where it is set, an acquire of what its wakers released, and else parks its thread at the instruction; in the runner slot it traps RUNNER_WAIT (R65); `PRIO` sets the priority to the lesser of s[A] and 3, except in the runner slot; `WAKE` of a well-formed TID of a general slot sends a wake that carries the waker's releases, and any other value is discarded. -/
def Obligations.ParkAndWake : Prop :=
  (∀ (s : State) (t : Thread) (gd : Guard),
      (CanIssue s t gd {} → isRunner s.cur = false →
        (t.wake = false → exec (.park gd) s = .next (s.withCurrent { t.issuing s with status := .parked .wake, lastIssue := s.cycle }))
        ∧ (t.wake = true → unfused s → exec (.park gd) s =
            .next (acquiredState s .device (s.ran t 4 (fun u => follows s t.wakeRel .device { u with wake := false, wakeRel := [] })))))
      ∧ (CanIssue s t gd {} → isRunner s.cur = true → exec (.park gd) s = commit "TRAP_ENTRY" (enterTrap s.cur (preciseTrap t s.insn .runnerWait 0) false) s)
      ∧ (∀ a : BitVec 4, CanIssue s t gd (touchS a) →
          exec (.prio gd a) s = .next (s.ran t 4 (fun u => if s.cur % 32 = 16 then u else { u with prio := BitVec.ofNat 2 (min (t.readS a).toNat 3) }))))
  ∧ (∀ (s : State) (t : Thread) (gd : Guard) (a : BitVec 4), CanIssue s t gd (touchS a) →
      let x := (t.readS a).toNat
      (x < 2 ^ 26 → x % 32 < 16 → exec (.wake gd a) s = .next { s.ran t 4 id with wakes := s.wakes ++ [⟨s.nextId, x, releaseSet s s.cur, dieOf s.cur⟩], nextId := s.nextId + 1 })
      ∧ (2 ^ 26 ≤ x ∨ 16 ≤ x % 32 → exec (.wake gd a) s = .next (s.ran t 4 id)))

/-- R58, R43: `SELF` 0 gives the TID; 1, 2 and 3 give the thread and crew indices with the spawned bit, the flask's index and the grid's job, for a member of a flask in a general slot.
The values are those of the state in which it issues (log 62, DEDUCED). -/
def Obligations.SelfReads : Prop :=
  ∀ (s : State) (t : Thread) (gd : Guard) (d : BitVec 4), CanIssue s t gd (touchS d) →
    let answers (k : BitVec 4) (x : Nat) : Prop := exec (.self gd d k) s = .next (s.ran t 4 (fun u => if d = 0 then u else u.writeS d (mod64 x)))
    answers 0 (t.inc.toNat * 2 ^ 18 + s.cur)
    ∧ ∀ (c : Crew) (f : Flask) (g : Grid), isRunner s.cur = false → t.detached = false → mapGet t.crew s.crews = some c → mapGet t.flask s.flasks = some f → mapGet f.grid s.grids = some g →
        answers 1 (t.index + c.index * 64 + if t.spawned then 512 else 0) ∧ answers 2 f.index ∧ answers 3 g.packet.job

/-- R50-R52: `SPAWN` on a core of its tile, and `SPAWNR` on the next core with room, start a child in the slot that the rule names, when the crew has fewer than 64 members: the child begins at s[B] with s1-s4
of its parent, ACTIVE, in the same context, with the incarnation of its slot; p[D] is false; no memory changes. -/
def Obligations.SpawnStarts : Prop :=
  ∀ (s : State) (t : Thread) (gd : Guard) (d a b : BitVec 4) (slot : Nat), d ≠ 0 → (t.detached = false → (crewMembers s t.crew).length < 64) →
    let own := coreOf s.cur
    let started (o : Step) : Prop := ∃ u c, o = .next u ∧ u.thread? s.cur = some ((t.issuing s).writeP d false |>.advance 4 s.cycle) ∧ u.thread? slot = some c
      ∧ c.pc = t.readS b &&& ~~~1 ∧ c.status = .active ∧ c.ctx = t.ctx ∧ c.inc = (mapGet slot s.starts).getD 0 ∧ mapGet slot u.starts = some (c.inc + 1)
      ∧ (∀ j : BitVec 4, c.readS j = if 1 ≤ j.toNat ∧ j.toNat ≤ 4 then t.readS j else 0) ∧ u.mem = s.mem ∧ u.empties = s.empties ∧ u.reqs = s.reqs
    (CanIssue s t gd (touches [touchP d, touchS a, touchS b, touchS 1, touchS 2, touchS 3, touchS 4]) → (t.readS a).toNat ≤ 3 →
      spawnSlot s (crewOf t) (own / 4 * 4 + (t.readS a).toNat) = some slot → started (exec (.spawn gd d a b) s))
    ∧ (CanIssue s t gd (touches [touchP d, touchS b, touchS 1, touchS 2, touchS 3, touchS 4]) →
      ([1, 2, 3, 4].map (fun i => own / 4 * 4 + (own + i) % 4)).findSome? (spawnSlot s (crewOf t)) = some slot → started (exec (.spawnr gd d b) s))

/-- R62: an instruction that core 3 executes, issued with its guard true and no register to wait for on another core of the tile, sends its thread from a general slot to core 3, LEAVING, at the instruction; from the runner slot it traps
RUNNER_WAIT (R65). In LONG mode a form for v0-v7 alone is ILLEGAL on every core first (R37, R144).
R60: `MIGR.A` and `MIGR.C` to another core whose tile suits the thread begin its move, with p[D] false; to no core, the own core, or a tile that does not suit it, and for a handler that holds a trap, they set p[D] and do nothing else. -/
def Obligations.Migrations : Prop :=
  (∀ (i : Instr) (s : State) (t : Thread) (gd : Guard), onCore3 i = true → guardOf i = some gd → HasTurn s t → (∀ x, t.free x) → guardHolds gd t = true → roleOf s.cur ≠ 3 → (∀ l, shortFields i = some l → ∀ v ∈ l, v.toNat < 8) →
      (t.long = true → (shortFields i).isSome = true → exec i s = commit "TRAP_ENTRY" (enterTrap s.cur (preciseTrap t s.insn .illegal 0) false) s)
      ∧ ((∀ l, shortFields i = some l → t.long = false) →
      (isRunner s.cur = false → exec i s = .next (s.withCurrent { t with status := .leaving ⟨coreOf s.cur / 4 * 4 + 3, true, t.pc, s.insn, 0, none, none⟩, lastIssue := s.cycle }))
      ∧ (isRunner s.cur = true → exec i s = commit "TRAP_ENTRY" (enterTrap s.cur (preciseTrap t s.insn .runnerWait 0) false) s)))
  ∧ ∀ (s : State) (t : Thread) (gd : Guard) (d a : BitVec 4), d ≠ 0 → isRunner s.cur = false → CanIssue s t gd (touches [touchP d, touchS a]) →
    let moves (o : Step) (c : Nat) : Prop := o = .next (s.ran t 4 (fun u => { u.writeP d false with status := .leaving ⟨c, false, t.pc, s.insn, 0, none, some (d, t.readP d)⟩ }))
    let stays (o : Step) : Prop := o = .next (s.ran t 4 (fun u => u.writeP d true))
    let near := nearCore s.cur (t.readS a).toNat
    let named := (t.readS a).toNat
    let held := t.intrap = true ∧ t.heldTraps ≠ []
    (canonical named = true → inWindow named = false →
      (near ≠ coreOf s.cur → suits s t (tileOfCore near) = true → ¬ held → moves (exec (.migrA gd d a) s) near)
      ∧ (near = coreOf s.cur ∨ suits s t (tileOfCore near) = false ∨ held → stays (exec (.migrA gd d a) s)))
    ∧ (canonical named = false ∨ inWindow named = true → stays (exec (.migrA gd d a) s))
    ∧ (named < 8192 → named ≠ coreOf s.cur → suits s t (tileOfCore named) = true → ¬ held → moves (exec (.migrC gd d a) s) named)
    ∧ (8192 ≤ named ∨ named = coreOf s.cur ∨ suits s t (tileOfCore named) = false ∨ held → stays (exec (.migrC gd d a) s))

/-- R67: at a barrier whose phase some other member has still to arrive in, an arrival is recorded with what it releases; `BARC` and `BARF` park, `BARA` writes the phase and goes on. The last arrival completes the phase: it advances, no member has arrived in the new one,
and the members that wait for a phase that is now over go on. A thread whose arrival is outstanding takes it instead of arriving: `BARC` and `BARF` wait for the phase of that arrival. `BARW` parks on a phase that is not over, and acquires what the completed phases
released where it is. R52: a detached thread is alone at its barriers, at which its own earlier accesses are released and acquired. R65: the runner slot has none, and a barrier there traps RUNNER_WAIT. -/
def Obligations.Barriers : Prop :=
  ∀ (i : Instr) (s : State) (t : Thread) (gd : Guard) (flask : Bool) (use : BarrierUse), barriers i = some (gd, flask, use) →
    let uses : Touch := match use with | .wait => {} | .arrive d => touchS d | .phase a => touchS a
    CanIssue s t gd uses →
    let own := memberFlags flask t
    let parks (p : BitVec 32) (mine : Bool) (u : Thread) : Thread := parkedAt s (.barrier flask p mine) u
    let passes (rel : List Nat) (sc : Scope) (f : Thread → Thread) : State := acquiredState s sc (s.ran t 4 (fun u => follows s rel sc (f u)))
    (isRunner s.cur = true → exec i s = commit "TRAP_ENTRY" (enterTrap s.cur (preciseTrap t s.insn .runnerWait 0) false) s)
    ∧ (isRunner s.cur = false → t.detached = true → own.outstanding = false → unfused s →
      let released := outstanding s own.prev ++ releaseSet s s.cur
      let arrived (u : Thread) : Thread := withMemberFlags flask { own with phase := own.phase + 1, prev := released } u
      match use with
      | .wait => exec i s = .next (passes released .device arrived)
      | .arrive d => exec i s = .next (s.ran t 4 (fun u => if d = 0 then arrived u else (arrived u).writeS d (own.phase.zeroExtend 64)))
      | .phase a =>
        let p := (t.readS a).extractLsb' 0 32
        (isOver own.phase p → exec i s = .next (passes own.prev .device id)) ∧ (¬ isOver own.phase p → exec i s = .next (s.withCurrent (parks p false (t.issuing s)))))
    ∧ (∀ phase : BitVec 32, isRunner s.cur = false → t.detached = false → unitPhase s flask t = some phase →
      let sc : Scope := if flask then .flask else .crew
      let prev := unitReleased s flask t
      match use with
      | .phase a =>
        let p := (t.readS a).extractLsb' 0 32
        (isOver phase p → unfused s → exec i s = .next (passes prev sc id)) ∧ (¬ isOver phase p → exec i s = .next (s.withCurrent (parks p false (t.issuing s))))
      | .wait =>
        let taken (u : Thread) : Thread := withMemberFlags flask { own with outstanding := false } u
        (own.outstanding = true → (isOver phase own.phase → unfused s → exec i s = .next (passes prev sc taken)) ∧ (¬ isOver phase own.phase → exec i s = .next (s.withCurrent (parks own.phase true (taken (t.issuing s))))))
        ∧ (own.outstanding = false → own.arrived = false → someoneMissing s flask t → exec i s = .next (arrivalRecorded s flask t (s.withCurrent (parks phase true (hasArrived flask t phase (t.issuing s))))))
        ∧ (own.outstanding = false → own.arrived = false → lastToArrive s flask t → s.canonical →
          ∃ u w, exec i s = .next u ∧ phaseCompleted s flask t u ∧ (∀ m ∈ unitMembers s flask t, m ≠ s.cur → ∀ v, memberThread s m = some v → ∃ x, memberThread u m = some x ∧ memberAfter s flask (phase + 1) m v x)
            ∧ u.thread? s.cur = some w ∧ w.status = .active ∧ w.pc = t.pc + 4 ∧ w.s = t.s ∧ (memberFlags flask w).arrived = false ∧ (memberFlags flask w).outstanding = false)
      | .arrive d =>
        let taken (u : Thread) : Thread := withMemberFlags flask { own with outstanding := false } u
        let written (p : BitVec 32) (u : Thread) : Thread := if d = 0 then u else u.writeS d (p.zeroExtend 64)
        (own.outstanding = true → exec i s = .next (s.ran t 4 (fun u => written own.phase (taken u))))
        ∧ (own.outstanding = false → own.arrived = false → someoneMissing s flask t → exec i s = .next (arrivalRecorded s flask t (s.ran t 4 (fun u => written phase (hasArrived flask t phase u)))))
        ∧ (own.outstanding = false → own.arrived = false → lastToArrive s flask t → s.canonical →
          ∃ u w, exec i s = .next u ∧ phaseCompleted s flask t u ∧ (∀ m ∈ unitMembers s flask t, m ≠ s.cur → ∀ v, memberThread s m = some v → ∃ x, memberThread u m = some x ∧ memberAfter s flask (phase + 1) m v x)
            ∧ u.thread? s.cur = some w ∧ w.status = .active ∧ w.pc = t.pc + 4 ∧ w.s = (written phase t).s ∧ (memberFlags flask w).arrived = false ∧ (memberFlags flask w).outstanding = false))

/-! ## What the threads of a tile share -/

/-- R249-R251: `SEMUP` on a semaphore without waiters adds its units, at most to 2^32 − 1, with what it releases; `SEMDN` takes a unit where there is one, with p[D] false, and else sets p[D]; `SEMW` takes a unit, or
parks behind the waiters. A taker acquires at its default scope.
R252-R254: `QPUSH` to a queue of fewer than 64 entries appends s[B], with p[D] false; `QPOP` takes the oldest entry into s[D] and `QPEEK` leaves it, with p[B] false and an acquire; a full or an empty queue sets the
predicate and keeps its entries.
A `SEMUP` of 0 units claims nothing (log 36, DEDUCED). -/
def Obligations.SemaphoresAndQueues : Prop :=
  (∀ (s : State) (t : Thread) (gd : Guard) (d b k : BitVec 4),
      let n := tileOf s.cur
      let m := (s.tile n).sem k
      let put (x : Semaphore) : Tile := { s.tile n with sems := (s.tile n).sems.set k.toNat x k.isLt }
      let set (x : Semaphore) : NatMap Tile := mapPut n (put x) s.tiles
      let taken : NatMap Tile := mapPut n (nodesAt s t.scope (put { m with owner := some t.ctx, count := m.count - 1 })) s.tiles
      mayOwn m.owner t.ctx →
      (CanIssue s t gd (touchS b) → (t.readS b).toNat % 2 ^ 32 = 0 → exec (.semup gd b k) s = .next (s.ran t 4 id))
      ∧ (CanIssue s t gd (touchS b) → m.waiters.Nodup → s.cur ∉ m.waiters → (t.readS b).toNat % 2 ^ 32 ≠ 0 →
        let units := min (m.count + (t.readS b).toNat % 2 ^ 32) (2 ^ 32 - 1)
        let leaving := m.waiters.take units
        ∃ u, exec (.semup gd b k) s = .next u
          ∧ (u.tile n).sem k = { m with owner := some t.ctx, count := units - leaving.length, waiters := m.waiters.drop units, rel := outstanding s m.rel ++ releaseSet s s.cur }
          ∧ (∀ w ∈ leaving, ∀ v, s.thread? w = some v → ∃ v', u.thread? w = some v' ∧ freed s w v v'.status ∧ v'.pc = v.pc + 4)
          ∧ u.thread? s.cur = (s.ran t 4 id).thread? s.cur ∧ (∀ j, j ≠ s.cur → j ∉ leaving → u.thread? j = s.thread? j) ∧ u.mem = s.mem)
      ∧ (CanIssue s t gd (touchS b) → m.waiters = [] → (t.readS b).toNat % 2 ^ 32 ≠ 0 →
        exec (.semup gd b k) s = .next { s.ran t 4 id with
          tiles := set { m with owner := some t.ctx, count := min (m.count + (t.readS b).toNat % 2 ^ 32) (2 ^ 32 - 1), rel := outstanding s m.rel ++ releaseSet s s.cur } })
      ∧ (CanIssue s t gd (touchP d) → d ≠ 0 →
        (0 < m.count → unfused s → exec (.semdn gd d k) s = .next { s.ran t 4 (fun u => (follows s m.rel t.scope u).writeP d false) with tiles := taken, cores := acquiredCores s t.scope })
        ∧ (m.count = 0 → exec (.semdn gd d k) s = .next { s.ran t 4 (fun u => u.writeP d true) with tiles := set { m with owner := some t.ctx } }))
      ∧ (CanIssue s t gd {} → isRunner s.cur = true → exec (.semw gd k) s = commit "TRAP_ENTRY" (enterTrap s.cur (preciseTrap t s.insn .runnerWait 0) false) s)
      ∧ (CanIssue s t gd {} → isRunner s.cur = false →
        (0 < m.count → unfused s → exec (.semw gd k) s = .next { s.ran t 4 (follows s m.rel t.scope) with tiles := taken, cores := acquiredCores s t.scope })
        ∧ (m.count = 0 → exec (.semw gd k) s =
          .next { s.withCurrent (parkedAt s (.sem n k.toNat) (t.issuing s)) with
            tiles := set { m with owner := some t.ctx, waiters := m.waiters ++ [s.cur] } })))
  ∧ (∀ (s : State) (t : Thread) (gd : Guard) (d b q : BitVec 4),
      let n := tileOf s.cur
      let x := (s.tile n).queue q
      let put (y : TileQueue) : Tile := { s.tile n with queues := (s.tile n).queues.set (q.toNat % 4) { y with owner := some t.ctx } (Nat.mod_lt _ (by decide)) }
      let set (y : TileQueue) : NatMap Tile := mapPut n (put y) s.tiles
      let read (y : TileQueue) : NatMap Tile := mapPut n (nodesAt s t.scope (put y)) s.tiles
      mayOwn x.owner t.ctx →
      (CanIssue s t gd (touches [touchP d, touchS b]) → d ≠ 0 →
        exec (.qpush gd d b q) s = if x.entries.length < 64 then
            .next { s.ran t 4 (fun u => u.writeP d false) with tiles := set { x with entries := x.entries ++ [(t.readS b, releaseSet s s.cur)] } }
          else .next { s.ran t 4 (fun u => u.writeP d true) with tiles := set x })
      ∧ (CanIssue s t gd (touches [touchS d, touchP b]) → b ≠ 0 → unfused s →
        match x.entries with
        | [] => exec (.qpop gd d b q) s = .next { s.ran t 4 (fun u => u.writeP b true) with tiles := set x }
            ∧ exec (.qpeek gd d b q) s = .next { s.ran t 4 (fun u => u.writeP b true) with tiles := set x }
        | (w, rel) :: rest =>
          let took (u : Thread) : Thread := follows s rel t.scope ((if d = 0 then u else u.writeS d w).writeP b false)
          exec (.qpop gd d b q) s = .next { s.ran t 4 took with tiles := read { x with entries := rest }, cores := acquiredCores s t.scope }
            ∧ exec (.qpeek gd d b q) s = .next { s.ran t 4 took with tiles := read x, cores := acquiredCores s t.scope }))

/-- R281, R282: `CYC` reads the cycle counter, its third, its remainder by 64 and the stretched cycles; `TFENCE.open` starts a counted region, and `TFENCE.close` ends it and tells in p[D] whether it was broken or not in a
fixed-timing context, when every earlier long-latency instruction has completed.
A `CYC` gives the cycle of its own issue (log 62, DEDUCED). -/
def Obligations.Counting : Prop :=
  ∀ (s : State) (t : Thread) (gd : Guard) (d : BitVec 4),
    (CanIssue s t gd (touchS d) →
      let answers (k : BitVec 4) (x : Word) : Prop := exec (.cyc gd d k) s = .next (s.ran t 4 (fun u => if d = 0 then u else u.writeS d x))
      let count := (s.cycle + (s.tile (tileOf s.cur)).ahead.toNat) % 2 ^ 64
      answers 0 (mod64 count) ∧ answers 1 (mod64 (count / 3)) ∧ answers 2 (mod64 (count % 64)) ∧ answers 3 (s.tile (tileOf s.cur)).stretched)
    ∧ ((∀ o ∈ t.ops, o.longLatency = true → o.token = true) →
      (CanIssue s t gd {} → exec (.tfenceOpen gd) s = .next (s.ran t 4 (fun u => { u with broken := false, inreg := true })))
      ∧ (d ≠ 0 → CanIssue s t gd (touchP d) → exec (.tfenceClose gd d) s = .next (s.ran t 4 (fun u => { u.writeP d (!t.fixed || t.broken) with inreg := false }))))

/-! ## Tile engines -/

/-- R200-R217, R225-R237, R242: an engine instruction on its role core, in a general slot, with room in the engine's FIFO and operands that its issue-time checks pass, puts its command at the end of the FIFO with everything it
captures (R33, R76), and its thread goes on; the array's holder becomes its context. On another core, or in the runner slot, it traps PROTECTION, and so does a command of the array while another context holds it (R200, R201, R225); behind a full FIFO its thread is WAITING at the
instruction (R202). A command without a published cost, or behind one, breaks the timing of a fixed-timing thread (R277).
The command is at the end of its FIFO and not yet accepted: acceptance, which R202 and R225 tie to the entry it takes, is a later step of the model (log 33, DEDUCED); that a memory-form stream breaks the timing is R277, which log 67 prefers to R224. -/
def Obligations.EngineCommandsIssue : Prop :=
  (∀ (i : Instr) (s : State) (t : Thread) (c : Command), i.wf = true → command s t i = some c → CanIssue s t c.guard c.uses → c.needs →
    let refused : Prop := exec i s = commit "TRAP_ENTRY" (enterTrap s.cur (preciseTrap t s.insn .protection 0) false) s
    let place := roleOf s.cur = c.engine ∧ isRunner s.cur = false
    (¬ place → refused) ∧ (place → c.engine = 2 → ¬ arrayOpen s t.ctx → refused)
    ∧ (place → (c.engine = 2 → arrayOpen s t.ctx) → 16 ≤ (engineQ (s.tile (tileOf s.cur)) c.engine).length →
        exec i s = .next (s.withCurrent (waiting s t .room))))
  ∧ ∀ (i : Instr) (s : State) (t : Thread) (c : Command), i.wf = true → command s t i = some c → CanIssue s t c.guard c.uses → roleOf s.cur = c.engine → isRunner s.cur = false →
    (c.engine = 2 → arrayOpen s t.ctx) → (engineQ (s.tile (tileOf s.cur)) c.engine).length < 16 → c.needs →
    let x := s.tile (tileOf s.cur)
    let q := engineQ x c.engine
    let held := if c.engine = 2 then { x with array := { x.array with holder := some t.ctx } } else x
    let pushed := { captureCmd s s.cur t c.work s.nextId c.d c.a c.b with untimed := c.untimed }
    exec i s = .next { s.ran t 4 (fun u => breaks (c.untimed || q.any (·.untimed)) (c.also (opened s c.dest c.extra c.la u))) with
      tiles := mapPut (tileOf s.cur) (setEngineQ c.engine (q ++ [pushed]) held) s.tiles
      nextId := s.nextId + 1 }

/-- R260, R263, R265, R283, R284, R319-R323, R332, R343, R344, R367, R369: an instruction of these, with operands that its issue-time checks pass, opens its operation and sends its request, behind what the request must wait for;
a list, scene, texture or surface instruction does so on core 3, in SHORT mode, and one that uses the functions claims its tile's coefficient memory.
The order of a list instruction's checks and which of them claim the coefficient memory are the model's (log 45, DEDUCED). -/
def Obligations.RequestsIssue : Prop :=
  ∀ (i : Instr) (s : State) (t : Thread) (q : Asked), i.wf = true → asked s t i = some q → vectorsOk i t → CanIssue s t q.guard q.uses → (q.core3 = true → roleOf s.cur = 3) → q.needs →
    exec i s = .next { s.ran t 4 (fun u => breaks (q.always || !q.req.spans.all (fun x => inWindow x.1))
          (match q.la with | some la => opened s q.dest {} la u | none => openedQuiet s q.dest u)) with
      reqs := mapPut (s.nextId + 1) { q.req with after := barring s s.cur t [] q.req.rel } s.reqs
      tiles := if q.coef then coefClaimed s t else s.tiles
      nextId := s.nextId + 2 }

/-- R326, R327: `TRVGO` with legal operands takes a ray context, where fewer than 128 are taken; its operation then has only its token pending.
A traversal is accepted at its issue and begins as a later event (log 45, DEDUCED). -/
def Obligations.TraversalStarts : Prop :=
  ∀ (s : State) (t : Thread) (gd : Guard) (d a b la : BitVec 4), t.long = false → b.toNat < 8 → CanIssue s t gd (touches [touchS d, touchS a, touchV b, touchCoef]) → roleOf s.cur = 3 →
    let base := (t.readE 0).toNat
    let size := (t.readE 1).toNat
    let e2 := (t.readE 2).toNat
    (t.readS a).toNat < 2 ^ 56 → listRead s (t.readS a) → coefOk s t [.exp2, .log2] → base % 128 = 0 → size % 128 = 0 → 0 < size → base + size ≤ 2 ^ 56 →
    bits e2 19 4 * 16 + 16 * 2 ^ bits e2 3 0 ≤ 2 ^ 20 → 1 ≤ bits e2 3 0 → bits e2 3 0 ≤ 11 → (s.tile (tileOf s.cur)).rays.length < 128 →
    let x := s.tile (tileOf s.cur)
    let claimed := { x with coefOwner := some t.ctx }
    ∃ r : Traversal, r.key = s.cur ∧ r.op = s.nextId ∧ r.ctx = t.ctx ∧ r.pc = t.pc ∧ r.token = d ∧ r.list = (t.readS a).toNat ∧ r.ray = t.readV b ∧ r.base = base ∧ r.size = size ∧ r.e2 = e2
      ∧ r.visits = 0 ∧ r.stack = [] ∧ r.out = none ∧ r.after = releaseSet s s.cur
      ∧ exec (.trvgo gd d a b la) s = .next { s.ran t 4 (fun u => breaks true (tokenPending s.nextId (opened s {} (touchS d) la u))) with
          tiles := mapPut (tileOf s.cur) { claimed with rays := x.rays ++ [r] } s.tiles, nextId := s.nextId + 1 }

/-- R358-R361: `GCTX` of 0 ends its thread's open group, once the group's blends have been accepted: the group's index counts as ended and the context's LWM passes every consecutive ended index; a thread without a group goes on. `GCTX`
of a resident context whose current draw it names opens a group whose index is not below LWM, is below LWM + 64, and has not begun; on a context that is not resident it reads the descriptor, from the tile's store here, and begins the draw.
R361-R364: within its open group a thread pushes triangles, to 16 that are not yet rasterized, pops fragments, and sends blends. `RASFRAG` takes the oldest fragment, or reports a drained group, or waits in flight for a fragment; `BLEND`
names a valid surface of the group's context. With no open group each traps PROTECTION.
That `GCTX` ends the open group before it waits is the model's order (log 53, DEDUCED). -/
def Obligations.GroupsAndFragments : Prop :=
  (∀ (s : State) (t : Thread) (gd : Guard) (a b la : BitVec 4), t.long = false → CanIssue s t gd (touches [touchS a, touchS b]) → roleOf s.cur = 3 → isRunner s.cur = false →
      let va := t.readS a
      let key := gctxKey t.ctx (tileOf s.cur) va.toNat
      let draw := bits (t.readS b).toNat 47 32
      let index := bits (t.readS b).toNat 31 0
      addressOk va 1024 →
      (va = 0 → t.group = none →
        exec (.gctx gd a b la) s = .next { s.ran t 4 (fun u => finished s.nextId {} (opened s {} {} la (breaks true u))) with nextId := s.nextId + 1 })
      ∧ (∀ (g : Group) (c : GraphicsContext), va = 0 → t.group = some g → g.pops = [] → (∀ r ∈ ownReqs s s.cur, ∀ n v, r.ask ≠ .blend n v) → mapGet g.gctx s.gctxs = some c → c.serial = g.draw →
        ∃ lwm : Nat, c.lwm ≤ lwm ∧ (∀ n, c.lwm ≤ n → n < lwm → n = g.index ∨ n ∈ c.ended) ∧ ¬(lwm = g.index ∨ lwm ∈ c.ended)
          ∧ exec (.gctx gd a b la) s = .next { s.ran t 4 (fun u => finished s.nextId {} (opened s {} {} la { breaks true u with group := none })) with
              gctxs := mapPut g.gctx { c with bound := c.bound.filter (· ≠ s.cur), lwm := lwm, begun := c.begun.filter (fun i => decide (lwm ≤ i)), ended := (g.index :: c.ended).filter (fun i => decide (lwm ≤ i)) } s.gctxs
              nextId := s.nextId + 1 })
      ∧ (∀ g : GraphicsContext, va ≠ 0 → t.group = none → mapGet key s.gctxs = some g → g.draw = some draw → g.lwm ≤ index → index < g.lwm + 64 → index ∉ g.begun →
        exec (.gctx gd a b la) s = .next (groupOpens s t key index g la))
      ∧ (va ≠ 0 → t.group = none → mapGet key s.gctxs = none → s.gctxs.length < 16384 → inWindow va.toNat = true → barred s s.cur t [(va.toNat, 1024)] = false → t.owed = none → spoiled s (localKey (tileOf s.cur) (va.toNat - windowBase)) 1024 = false →
        let bytes := peek s.mem (localKey (tileOf s.cur) (va.toNat - windowBase)) 1024
        contextFault bytes = none → index < 64 →
        exec (.gctx gd a b la) s = .next (groupOpens { s with nextId := s.nextId + 1 } t key index ⟨t.ctx, va.toNat, some (tileOf s.cur), bytes, some draw, s.nextId, 0, [], [], [], s.nextId⟩ la)))
  ∧ (∀ (s : State) (t : Thread) (gd : Guard) (a b d la : BitVec 4), t.long = false → d.toNat < 8 → roleOf s.cur = 3 → isRunner s.cur = false →
      let refused (i : Instr) : Prop := exec i s = commit "TRAP_ENTRY" (enterTrap s.cur (preciseTrap t s.insn .protection 0) false) s
      (t.group = none →
        (CanIssue s t gd (touchV d) → refused (.rastri gd d la))
        ∧ (CanIssue s t gd (touches [touchV d, touchP b]) → refused (.rasfrag gd d b la))
        ∧ (CanIssue s t gd (touches [touchS a, touchV d]) → refused (.blend gd a d la)))
      ∧ ∀ g : Group, t.group = some g →
        (CanIssue s t gd (touchV d) → g.triangles.length < 16 →
          exec (.rastri gd d la) s = .next { s.ran t 4 (fun u => finished s.nextId {} (opened s {} {} la
            { breaks true u with group := some { g with prims := g.prims + 1, triangles := g.triangles ++ [(g.prims, t.readV d)] } })) with nextId := s.nextId + 1 })
        ∧ (CanIssue s t gd (touches [touchV d, touchP b]) →
          let popped (h : Group) (f : Thread → Thread) : Prop := exec (.rasfrag gd d b la) s =
            .next { s.ran t 4 (fun u => f { opened s ((touchV d).union (touchP b)) {} la (breaks true u) with group := some h }) with nextId := s.nextId + 1 }
          (∀ f rest, g.pops = [] → g.fragments = f :: rest → popped { g with fragments := rest } (finished s.nextId { writes := [.v d (BitVec.ofNat 256 f.bytes), .p b false] }))
          ∧ (g.pops = [] → g.fragments = [] → g.triangles = [] → popped g (finished s.nextId { writes := [.v d 0, .p b true] }))
          ∧ (g.pops ≠ [] ∨ (g.fragments = [] ∧ g.triangles ≠ []) → popped { g with pops := g.pops ++ [(s.nextId, d, b)] } id))
        ∧ (∀ c : GraphicsContext, mapGet g.gctx s.gctxs = some c → CanIssue s t gd (touches [touchS a, touchV d]) →
          let n := (t.readS a).toNat % 8
          slotValid c.bytes n = true →
          exec (.blend gd a d la) s = .next { s.ran t 4 (fun u => breaks true (opened s {} {} la u)) with
            reqs := mapPut (s.nextId + 1) { request s t (.blend n (t.readV d)) [] with data := g.gctx, cmp := mod64 g.index, seq := g.draw, after := barring s s.cur t [] false } s.reqs
            nextId := s.nextId + 2 }))

/-! ## Requests at their homes, and writebacks -/

/-- R23, R151, R160, R164: a load of a word of the local store, or of a part of one, completes with its value, sign- or zero-extended, and changes no memory; a store writes its bytes alone, whatever the full/empty state of the word, which stays. A load that acquires
reads so too, and drops the L1 lines that its scope names (R155, R187).
R138-R141, R154: in the shared space a plain load takes its value from the line that its L1 holds, and else, like every load that acquires, from the word that its translation leads to, as the page allows; the L1 then holds that line, unless the page is of device type. A
store writes that word, as the page allows, and the line that its L1 holds; what the page does not allow ends with a deferred PROTECTION that names the address (R145).
R152: `LDP` reads both words at once, or on a page of MT 2 one after the other. R121: a vector access reads or writes its lanes in their order.
R123, R127: a vector access makes its lanes one at a time too, each whole, in lane order where two store to one place, and ends with what each lane read; a `COEFLD` fills the coefficient memory from its source, all at once or, when all has been
read, one 4-byte coefficient at a time.
R146, R147: an access without a translation leaves a pending page fault with its record in the ring of the die of its home slice, or owed where none is placed, and its thread PARKED. -/
def Obligations.LoadsAndStoresArrive : Prop :=
  (∀ (s : State) (i : Nat) (r : Req) (k : Nat) (t : Thread) (va n : Nat), s.canonical → Arriving s i r k t → r.spans = [(va, n)] → n ∈ [1, 2, 4, 8] → va % n = 0 → s.bad = [] →
    let loaded (signed : Bool) (x : Nat) : List RegWrite := [.s r.d (extended signed n x)]
    let ends (u : State) (x : Result) : Prop := exec .requestArrival s = .next u ∧ u.reqs = mapDel i s.reqs ∧ u.thread? k = some (finished r.op x (roused t)) ∧ ∀ j, j ≠ k → u.thread? j = s.thread? j
    let stored (m : List Host.Cell) (key : Nat) : Prop := (∀ j < n, Memory.read m (key + j) = BitVec.ofNat 8 (r.data / 256 ^ j)) ∧ ∀ a, a < key ∨ key + n ≤ a → Memory.read m a = Memory.read s.mem a
    (inWindow va = true →
      let key := storeKey r va
      (∀ signed, r.ask = .load signed →
        let read := performedWith s i k t r.op (loaded signed (peek s.mem key n))
        (r.acq = false → exec .requestArrival s = .next read) ∧ (r.acq = true → (s.cluster (clusterOfTile r.tile)).fused = false → exec .requestArrival s = .next (discarded s r read)))
      ∧ (r.ask = .store → r.acq = false → (s.hold (key / 8 * 8)).resv = none → ∃ m, exec .requestArrival s = .next { performedWith s i k t r.op [] with mem := m } ∧ stored m key))
    ∧ (inWindow va = false →
      (∀ signed x, r.ask = .load signed → r.acq = false → l1Find s r.core r.ctx va = some x →
        exec .requestArrival s = .next (performedWith s i k t r.op (loaded signed (x.bytes.toNat / 256 ^ (va % 32) % 256 ^ n))))
      ∧ ∀ l : CachedLeaf, Mapped s r.ctx va l → SoleHome s va l →
        let key := l.key va
        let may (write : Bool) : Bool := permits l (some (clusterOfTile r.tile)) { write := write }
        let missed (signed : Bool) : Prop := r.ask = .load signed ∧ (r.acq = true ∨ l1Find s r.core r.ctx va = none)
        (∀ signed, missed signed → may false = true → ∃ u, ends u { writes := loaded signed (peek s.mem key n) } ∧ u.mem = s.mem ∧ u.empties = s.empties
          ∧ (r.acq = false → if l.mt = 2 then u.cores = s.cores
            else l1Find u r.core r.ctx va = some ⟨r.ctx, va / 32, BitVec.ofNat 256 (peek s.mem (key - va % 32) 32), l.x, l.w, decide (l.mt = 1), false, l.va, l.size⟩))
        ∧ (r.ask = .store → r.acq = false → may true = true → (s.hold (holdKey va key)).resv = none → ∃ u, ends u {} ∧ stored u.mem key ∧ u.empties = s.empties
          ∧ ∀ x, l1Find s r.core r.ctx va = some x → ∃ y : BitVec 256, l1Find u r.core r.ctx va = some { x with bytes := y } ∧ y.toNat / 256 ^ (va % 32) % 256 ^ n = r.data % 256 ^ n)
        ∧ ((∃ signed, missed signed ∧ may false = false) ∨ (r.ask = .store ∧ may true = false) → ∀ o : PendOp, t.ops.find? (·.id = r.op) = some o →
          ∃ u, ends u { trap := some ⟨.protection, o.pc, none, mod64 va, 0, true, o.insn, o.wide, false⟩ } ∧ u.mem = s.mem)))
  ∧ (∀ (s : State) (i : Nat) (r : Req) (k : Nat) (t : Thread) (va : Nat), s.canonical → r.ask = .loadPair → r.spans = [(va, 16)] → va % 16 = 0 → r.acq = false → s.bad = [] →
    let pair (x y : Nat) : List RegWrite := if r.d = 0 then [] else [.s r.d (mod64 x), .s (r.d + 1) (mod64 y)]
    let reads (x y : Nat) : Prop := ∃ u, exec .requestArrival s = .next u ∧ u.reqs = mapDel i s.reqs ∧ u.thread? k = some (finished r.op { writes := pair x y } (roused t)) ∧ (∀ j, j ≠ k → u.thread? j = s.thread? j) ∧ u.mem = s.mem
    (Arriving s i r k t → inWindow va = true →
      exec .requestArrival s = .next (performedWith s i k t r.op (pair (peek s.mem (storeKey r va) 8) (peek s.mem (storeKey r va + 8) 8))))
    ∧ (∀ l, Arriving s i r k t → Mapped s r.ctx va l → SoleHome s va l → permits l (some (clusterOfTile r.tile)) {} = true →
      (l.mt ≠ 2 → reads (peek s.mem (l.key va) 8) (peek s.mem (l.key va + 8) 8))
      ∧ (l.mt = 2 → ∃ u p, exec .requestArrival s = .next u ∧ u.reqs = mapPut i { r with stage := .half (peek s.mem (l.key va) 8), page := p } s.reqs ∧ u.threads = s.threads ∧ u.mem = s.mem))
    ∧ (∀ l low, Due s i r k t → r.stage = .half low → Mapped s r.ctx (va + 8) l → SoleHome s (va + 8) l → permits l (some (clusterOfTile r.tile)) {} = true → reads low (peek s.mem (l.key (va + 8)) 8)))
  ∧ (∀ (s : State) (i : Nat) (r : Req) (k : Nat) (t : Thread) (lanes : List Nat) (n : Nat), s.canonical → Arriving s i r k t → r.acq = false → r.spans = lanes.map (fun a => (a, n)) → n ∈ [1, 2, 4, 8, 32, 256] →
      (∀ a ∈ lanes, inWindow a = true ∧ inWindow (a + n - 1) = true ∧ a % min n 32 = 0) → s.bad = [] →
    let at_ (j : Nat) : Nat := storeKey r (lanes.getD j 0)
    (∀ w, r.ask = .gather w → ∃ x, x < 256 ^ (n * lanes.length) ∧ (∀ j < lanes.length, x / 256 ^ (n * j) % 256 ^ n = peek s.mem (at_ j) n)
      ∧ exec .requestArrival s = .next (performedWith s i k t r.op [if r.vlong then .w r.d (BitVec.ofNat 2048 x) else .v r.d (BitVec.ofNat 256 x)]))
    ∧ (∀ w, r.ask = .scatter w → s.holds = [] → ∃ m, exec .requestArrival s = .next { performedWith s i k t r.op [] with mem := m }
      ∧ (∀ j < lanes.length, (∀ j', j < j' → j' < lanes.length → at_ j' + n ≤ at_ j ∨ at_ j + n ≤ at_ j') → ∀ b < n, Memory.read m (at_ j + b) = BitVec.ofNat 8 (r.data / 256 ^ (n * j + b)))
      ∧ (∀ a, (∀ j < lanes.length, a < at_ j ∨ at_ j + n ≤ a) → Memory.read m a = Memory.read s.mem a)))
  ∧ (∀ (s : State) (i : Nat) (r : Req) (k : Nat) (t : Thread) (lanes : List Nat) (n : Nat), s.canonical → Ready s i r k t → r.acq = false → r.reads = lanes.map (fun a => (a, n)) → n ∈ [1, 2, 4, 8] →
      (∀ a ∈ lanes, inWindow a = true ∧ inWindow (a + n - 1) = true ∧ a % n = 0) → s.bad = [] →
    let at_ (j : Nat) : Nat := storeKey r (lanes.getD j 0)
    let made (j : Nat) : Bool := r.parts.any (·.index = j)
    (∀ w, r.ask = .gather w → r.stage = .sent →
      (∀ j < lanes.length, s.input = .two i j → made j = false → ownEarlier s r [(lanes.getD j 0, n)] = false →
        exec .requestArrival s = .next { s with reqs := mapPut i { r with parts := r.parts ++ [⟨j, peek s.mem (at_ j) n, lanes.getD j 0, at_ j, (0, 0)⟩] } s.reqs })
      ∧ (s.input = .one i → r.parts ≠ [] → r.reached = [] → ownEarlier s r r.left = false →
        ∃ x, x < 256 ^ (n * lanes.length) ∧ (∀ j < lanes.length, x / 256 ^ (n * j) % 256 ^ n = match r.parts.find? (·.index = j) with | some p => p.value % 256 ^ n | none => peek s.mem (at_ j) n)
          ∧ exec .requestArrival s = .next (performedWith s i k t r.op [if r.vlong then .w r.d (BitVec.ofNat 2048 x) else .v r.d (BitVec.ofNat 256 x)])))
    ∧ (∀ w, r.ask = .scatter w → r.stage = .sent → s.holds = [] →
      let places : List Part := lanes.zipIdx.map (fun p => ⟨p.2, r.data / 256 ^ (n * p.2) % 256 ^ n, p.1, storeKey r p.1, (0, 0)⟩)
      let stored (m : List Host.Cell) (j : Nat) : Prop := ∀ b < n, Memory.read m (at_ j + b) = BitVec.ofNat 8 (r.data / 256 ^ (n * j + b))
      (∀ j < lanes.length, s.input = .two i j → made j = false → ownEarlier s r [(lanes.getD j 0, n)] = false → r.reached = [] ∨ r.reached = places →
        (∀ j' < j, made j' = false → at_ j' + n ≤ at_ j ∨ at_ j + n ≤ at_ j') →
        ∃ m, exec .requestArrival s = .next { s with mem := m, reqs := mapPut i { r with reached := places, parts := r.parts ++ places.filter (·.index = j) } s.reqs }
          ∧ stored m j ∧ ∀ a, a < at_ j ∨ at_ j + n ≤ a → Memory.read m a = Memory.read s.mem a)
      ∧ (s.input = .one i → r.parts ≠ [] → r.reached = places → ownEarlier s r r.left = false →
        ∃ m, exec .requestArrival s = .next { performedWith s i k t r.op [] with mem := m }
          ∧ (∀ j < lanes.length, made j = false → (∀ j', j < j' → j' < lanes.length → made j' = false → at_ j' + n ≤ at_ j ∨ at_ j + n ≤ at_ j') → stored m j)
          ∧ ∀ a, (∀ j < lanes.length, made j = false → a < at_ j ∨ at_ j + n ≤ a) → Memory.read m a = Memory.read s.mem a)))
  ∧ (∀ (s : State) (i : Nat) (r : Req) (k : Nat) (t : Thread) (va len off : Nat), s.canonical → Ready s i r k t → r.acq = false → r.ask = .coef off → r.spans = [(va, len)] → inWindow va = true → inWindow (va + len - 1) = true →
      va % 8 = 0 → len % 8 = 0 → len ≠ 0 → s.bad = [] →
    let made (j : Nat) : Bool := r.parts.any (·.index = j)
    let key (j : Nat) : Nat := coefKey r.tile (off + 4 * j)
    let filled (m : List Host.Cell) (data j : Nat) : Prop := ∀ b < 4, Memory.read m (key j + b) = BitVec.ofNat 8 (data / 256 ^ (4 * j + b))
    (r.stage = .sent → r.parts = [] → r.reached = [] → ownEarlier s r r.spans = false →
      let data := peek s.mem (storeKey r va) len
      (s.input = .one i → ∃ m, exec .requestArrival s = .next { performedWith s i k t r.op [] with mem := m }
        ∧ (∀ j < len / 4, filled m data j) ∧ ∀ a, a < key 0 ∨ key 0 + len ≤ a → Memory.read m a = Memory.read s.mem a)
      ∧ (s.input = .two i (len / 8) → exec .requestArrival s = .next { s with reqs := mapPut i { r with stage := .half data } s.reqs, threads := mapPut k (roused t) s.threads }))
    ∧ (∀ data, r.stage = .half data → r.reached = [] →
      (∀ j < len / 4, s.input = .two i j → made j = false →
        ∃ m, exec .requestArrival s = .next { s with mem := m, reqs := mapPut i { r with parts := r.parts ++ [⟨j, data / 256 ^ (4 * j) % 256 ^ 4, off + 4 * j, key j, (0, 0)⟩] } s.reqs }
          ∧ filled m data j ∧ ∀ a, a < key j ∨ key j + 4 ≤ a → Memory.read m a = Memory.read s.mem a)
      ∧ (s.input = .one i → ∃ m, exec .requestArrival s = .next { performedWith s i k t r.op [] with mem := m }
        ∧ (∀ j < len / 4, made j = false → filled m data j) ∧ ∀ a, (∀ j < len / 4, made j = false → a < key j ∨ key j + 4 ≤ a) → Memory.read m a = Memory.read s.mem a)))
  ∧ (∀ (s : State) (i : Nat) (r : Req) (k : Nat) (t : Thread) (va n kind cause : Nat), s.canonical → Arriving s i r k t → r.spans = [(va, n)] → n ∈ [1, 2, 4, 8] → va % n = 0 → va < 2 ^ 56 → inWindow va = false → t.status = .active → s.bad = [] →
      walk s r.ctx va = .missing cause → (∀ x ∈ (s.slice (homeHash va)).first ++ (s.slice (lastSlice va)).last, x.serves r.ctx va = false) →
      ((∃ signed, r.ask = .load signed) ∧ (r.acq = true ∨ l1Find s r.core r.ctx va = none) ∧ kind = 0) ∨ (r.ask = .store ∧ kind = 1) ∨ ((∃ op, r.ask = .fullEmpty op) ∧ n = 8 ∧ kind = 3) ∨ ((∃ op, r.ask = .atomic op) ∧ n = 8 ∧ kind = 4) →
    let tid := t.inc.toNat * 2 ^ 18 + k
    let die := s.die (homeDie va)
    let bytes := va + tid % 2 ^ 26 * 2 ^ 64 + kind * 2 ^ 96 + cause * 2 ^ 104 + r.ctx % 2 ^ 12 * 2 ^ 112 + r.pc.toNat * 2 ^ 128
    let reqs := mapPut i { r with stage := .faulted } s.reqs
    let faults := s.faults ++ [⟨homeDie va, va, tid, kind, cause, r.ctx, r.pc, .request i, 0⟩]
    let threads := mapPut k { breaks true t with status := .parked .fault, faultSince := some (t.faultSince.getD (coreCycle s (tileOf k))) } s.threads
    (die.ring = none → exec .requestArrival s = .next { s with reqs, faults, threads, dies := mapPut (homeDie va) { die with owed := die.owed ++ [⟨homeDie va, bytes⟩] } s.dies })
    ∧ (unwatched s → ∃ u, exec .requestArrival s = .next u ∧ u.reqs = reqs ∧ u.faults = faults ∧ u.threads = threads ∧ Recorded s (homeDie va) bytes u
      ∧ ∀ a, offRing s (homeDie va) a → Memory.read u.mem a = Memory.read s.mem a))

/-- R160-R167: a full/empty operation on a word of the local store whose home keeps nothing is served by the table, which gives its register writes, the word's data and its state; one that must wait goes on the word's list, where a hardware
entry is free, with the home's next arrival number (R170). Every other word keeps its data and its state.
R167: the change of state serves a waiter of the word: a filling `STF` serves an `LDW` that waits, which leaves the word FULL, or an `LDC`, which empties it, and an `LDC` that empties the word serves an `STF` that waits, which fills it. The waiter leaves the list, and both
operations are finished. -/
def Obligations.FullEmptyArrives : Prop :=
  ∀ (s : State) (i : Nat) (r : Req) (k : Nat) (t : Thread) (va : Nat) (op : FeOp), s.canonical → Arriving s i r k t → r.ask = .fullEmpty op → r.spans = [(va, 8)] → inWindow va = true → va % 8 = 0 → s.bad = [] →
    let key := storeKey r va
    s.hold key = {} →
    (s.home r.homeKey = {} →
      match served op r.d r.pf (r.data % 2 ^ 64) (isEmptyWord s key) (mod64 (peek s.mem key 8)) with
      | some (ws, data, empty) => ∃ u : State, exec .requestArrival s = .next u ∧ u.reqs = mapDel i s.reqs ∧ u.thread? k = some (finished r.op { writes := ws } (roused t))
          ∧ peek u.mem key 8 = data.getD (peek s.mem key 8) ∧ isEmptyWord u key = empty ∧ (∀ a, a < key ∨ key + 8 ≤ a → Memory.read u.mem a = Memory.read s.mem a)
          ∧ (∀ w, w ≠ key → isEmptyWord u w = isEmptyWord s w) ∧ u.homes = s.homes ∧ (∀ j, j ≠ k → u.thread? j = s.thread? j)
      | none => (listedAt s r.slice false).length < homeEntries r.slice → exec .requestArrival s = .next { s with
          homes := mapPut r.homeKey { list := [i] } s.homes, reqs := mapPut i { r with stage := .listed none, arrived := (mapGet r.slice s.arrivals).getD 0, page := (0, 0) } s.reqs
          arrivals := mapPut r.slice ((mapGet r.slice s.arrivals).getD 0 + 1) s.arrivals })
    ∧ (∀ (j m : Nat) (q : Req) (v : Thread), j ≠ i → m ≠ k → s.home r.homeKey = { list := [j] } → mapGet j s.reqs = some q → q.id = j → q.who = .thread m → s.thread? m = some v → q.stage = .listed none → q.ctx = r.ctx → q.core = r.core →
        q.spans = r.spans → listedAt s r.slice true = [] →
      let word := mod64 (peek s.mem key 8)
      let both (mine its : List RegWrite) (data : Nat) (empty : Bool) : Prop := ∃ u : State, exec .requestArrival s = .next u ∧ u.reqs = mapDel j (mapDel i s.reqs) ∧ u.home r.homeKey = {}
        ∧ u.thread? k = some (finished r.op { writes := mine } (roused t)) ∧ u.thread? m = some (finished q.op { writes := its } (roused v)) ∧ (∀ x, x ≠ k → x ≠ m → u.thread? x = s.thread? x)
        ∧ peek u.mem key 8 = data ∧ isEmptyWord u key = empty ∧ (∀ a, a < key ∨ key + 8 ≤ a → Memory.read u.mem a = Memory.read s.mem a) ∧ (∀ w, w ≠ key → isEmptyWord u w = isEmptyWord s w)
      (op = .stf → isEmptyWord s key = true → q.ask = .fullEmpty .ldw → both [] [.s q.d (mod64 r.data)] (r.data % 2 ^ 64) false)
      ∧ (op = .stf → isEmptyWord s key = true → q.ask = .fullEmpty .ldc → both [] [.s q.d (mod64 r.data)] (r.data % 2 ^ 64) true)
      ∧ (op = .ldc → isEmptyWord s key = false → q.ask = .fullEmpty .stf → both [.s r.d word] [] (q.data % 2 ^ 64) false))

/-- R174-R176: an atomic on a FULL word of the local store whose home keeps nothing takes the word, which reserves it; the put writes the new value, ends the reservation, and gives s[D] the value taken. Nothing else in memory changes, and no word's
state does. -/
def Obligations.AtomicsTakeAndPut : Prop :=
  ∀ (s : State) (i : Nat) (r : Req) (k : Nat) (t : Thread) (va : Nat) (op : AmoOp), s.canonical → mapGet i s.reqs = some r → r.id = i → r.who = .thread k → s.input = .one i → s.thread? k = some t → t.owed = none → r.core < 8192 → r.ask = .atomic op → unordered op →
    r.parts = [] → r.spans = [(va, 8)] → inWindow va = true → va % 8 = 0 → s.bad = [] →
    let key := storeKey r va
    let old := mod64 (peek s.mem key 8)
    (r.stage = .sent → outstanding s r.after = [] → ownEarlier s r r.spans = false → s.hold key = {} → isEmptyWord s key = false →
      exec .requestArrival s = .next { s with holds := mapPut key { resv := some i } s.holds, reqs := mapPut i { r with stage := .taken old key, page := (0, 0) } s.reqs })
    ∧ (∀ x new, r.stage = .taken x key → s.hold key = { resv := some i } → s.home r.homeKey = {} → bufferedAt s r.slice = [] → (∀ d ∈ s.dies, d.2.owed = []) → putWord op x (mod64 r.data) r.cmp = some new →
      ∃ u : State, exec .put s = .next u ∧ peek u.mem key 8 = new.toNat ∧ (∀ a, a < key ∨ key + 8 ≤ a → Memory.read u.mem a = Memory.read s.mem a) ∧ u.empties = s.empties
        ∧ u.hold key = {} ∧ u.homes = s.homes ∧ u.reqs = mapDel i s.reqs ∧ u.thread? k = some (finished r.op { writes := [.s r.d x] } (roused t)))

/-- R23, R24, R171-R173: a writeback writes the finished operation's destinations, removes the operation, closes its windows, and lets a WAITING thread try again; a trap of it falls due, and one of an access that was refused to the end is precise when no later instruction of the thread has issued (R171). A refused request is sent again 32 cycles of its tile later.
A request that has waited WAITLIM cycles of its tile on a list, with no page fault resting on its thread, has a withdraw sent after it, and the withdraw takes it off the list and ends it with WAIT_EXPIRED at its word's address. -/
def Obligations.OperationsEnd : Prop :=
  ∀ (s : State) (k : Nat) (t : Thread), s.canonical → s.thread? k = some t →
    (∀ (o : PendOp) (ws : List RegWrite) (trap : Option TrapReq) (sure : Bool), s.input = .two k o.id → t.status ≠ .spilled → t.ops.find? (·.id = o.id) = some o →
      o.result = some { writes := ws, trap := trap, exact := sure } →
      (∀ w x, RegWrite.w w x ∉ ws) →
      let due := match trap with
        | some x => if t.status = .waiting .quit then t.due else assocPut o.id (if sure = true ∧ o.later = false then { x with deferred := false, resume := some o.pc } else x) t.due
        | none => t.due
      exec .writeback s = .next { s with threads := mapPut k (roused { landed o.id (ws.foldl applyWrite t) with due := due }) s.threads })
    ∧ (∀ (i : Nat) (r : Req) (since d : Nat), s.input = .one i → mapGet i s.reqs = some r → r.id = i → r.who = .thread k → r.stage = .refused since → passed s r.tile since d → 32 ≤ d →
      exec .resend s = .next { s with reqs := mapPut i { r with stage := .sent, resends := r.resends + 1 } s.reqs })
    ∧ (∀ (i : Nat) (r : Req) (e : Option Nat), mapGet i s.reqs = some r → r.id = i → r.who = .thread k → r.stage = .listed e →
      (s.input = .two k r.op → (ownReqs s k).find? (·.op = r.op) = some r → r.waitlim ≠ 0 → r.expiring = false → faultOf s k = none → ∀ d, passed s r.tile r.issued d → r.waitlim ≤ d →
        exec .waitlimExpiry s = .next { s with reqs := mapPut i { r with expiring := true } s.reqs })
      ∧ (∀ (o : PendOp), s.input = .one i → r.expiring = true → e = none → s.home r.homeKey = { list := [i] } → listedAt s r.slice true = [] → r.acq = false →
        t.ops.find? (·.id = r.op) = some o →
        ∃ u : State, exec .withdraw s = .next u ∧ u.home r.homeKey = {} ∧ u.reqs = mapDel i s.reqs ∧ u.mem = s.mem
          ∧ u.thread? k = some (finished r.op { trap := some ⟨.waitExpired, o.pc, if o.la = 0 then some o.pc else none, mod64 (r.va / 8 * 8), 0, decide (o.la ≠ 0), o.insn, o.wide, false⟩ } (roused t))))

/-! ## Exceptions -/

/-- R286-R289, R292: `TRAP` and `BRK` take their traps, SOFT with s[A] as ADDR and BRK with 0, which resume after the instruction; any precise trap of the current thread, and a deferred trap that is due at its issue point, is taken in the same way:
the record, then INTRAP, s13 and the PC.
The record is written at one moment and clears the error marks of its words (log 20, DEDUCED). -/
def Obligations.TrapsAreTaken : Prop :=
  ∀ (s : State) (t : Thread) (key : Nat),
    let issued : Thread := { t.issuing s with lastIssue := s.cycle }
    (∀ (gd : Guard) (a : BitVec 4), CanIssue s t gd (touchS a) → TrapReady s s.cur t (trapAfter t s.insn .soft (t.readS a)) key →
      ∃ u, exec (.trap gd a) s = .next u ∧ TrapTaken (s.withCurrent issued) s.cur issued (trapAfter t s.insn .soft (t.readS a)) key u)
    ∧ (∀ gd : Guard, CanIssue s t gd {} → TrapReady s s.cur t (trapAfter t s.insn .brk 0) key →
      ∃ u, exec (.brk gd) s = .next u ∧ TrapTaken (s.withCurrent issued) s.cur issued (trapAfter t s.insn .brk 0) key u)
    ∧ (∀ r : TrapReq, r.deferred = false → TrapReady s s.cur t r key →
      ∃ u, commit "TRAP_ENTRY" (enterTrap s.cur r false) s = .next u ∧ TrapTaken s s.cur t r key u)
    ∧ (∀ (k id : Nat) (r : TrapReq), s.input = .one k → s.thread? k = some t → t.status = .active → t.forfeits = 0 → t.blocked = false → t.due = [(id, r)] → t.heldTraps = [] → r.deferred = true → t.intrap = false →
      TrapReady { s with threads := mapPut k { t with due := [] } s.threads } k { t with due := [] } r key →
      ∃ u, exec .trapEntry s = .next u ∧ TrapTaken { s with threads := mapPut k { t with due := [] } s.threads } k { t with due := [] } r key u)

/-- R292: `ERET` in a handler that no writeback to s13 or a predicate is to come for restores the PC from RESUME, s13 from S13 and the predicates from PRED, p0 true, clears INTRAP, and changes nothing else; outside a handler it traps PROTECTION with ADDR 0. The record is in the local window here. -/
def Obligations.ReturnFromTrap : Prop :=
  ∀ (s : State) (t : Thread) (gd : Guard), CanIssue s t gd { s := 0x2000, p := 0xFFFF } →
    (t.intrap = false → exec (.eret gd) s = commit "TRAP_ENTRY" (enterTrap s.cur (preciseTrap t s.insn .protection 0) false) s)
    ∧ (t.intrap = true → t.owed = none → inWindow t.traprec.toNat = true → t.traprec.toNat % 64 = 0 → barred s s.cur t [(t.traprec.toNat, 64)] = false → s.bad = [] →
      let key := localKey (tileOf s.cur) (t.traprec.toNat - windowBase)
      let restored := ((t.issuing s).setPc (mod64 (peek s.mem (key + 8) 8))).writeS 13 (mod64 (peek s.mem (key + 24) 8))
      exec (.eret gd) s = .next (s.withCurrent { restored with p := BitVec.ofNat 16 (peek s.mem (key + 32) 2) ||| 1, intrap := false, status := .active, lastIssue := s.cycle }))

/-- R290, R292, R295-R297: `HALT` stops its thread with reason 1 and the PC after it; a trap of a thread whose TRAPREC cannot be used stops it, with the first reason that holds of 3 NOVEC, 2 DOUBLE and 4 NOREC, the PC at the instruction that a precise
trap names, and INTRAP as it was.
The PC that is saved, a precise trap's instruction or a deferred trap's next one, is the model's reading of R290 (log 21, DEDUCED), and so is which stop reason goes first (log 19, DEDUCED). -/
def Obligations.ThreadsStop : Prop :=
  ∀ (s : State) (t : Thread), Stoppable s s.cur t →
    (∀ gd : Guard, CanIssue s t gd {} → ∃ u, exec (.halt gd) s = .next u ∧ Stopped s s.cur t 1 (t.pc + 4) u)
    ∧ (∀ r : TrapReq, t.pending.meets { s := 0x2000, p := 0xFFFF } = false → (2 ^ 56 ≤ t.traprec.toNat ∨ t.traprec.toNat % 64 ≠ 0) →
      ∃ u, commit "TRAP_ENTRY" (enterTrap s.cur r false) s = .next u
        ∧ Stopped s s.cur t (if t.trapvec = 0 then 3 else if t.intrap = true ∧ r.deferred = false then 2 else 4) (if r.deferred then t.pc else r.epc) u)

/-! ## Threads: slots, queues and the Fettler -/

/-- R53, R56, R60-R65, R182, R183: what the events of threads do. A quitting thread without operations in flight empties its slot and leaves its crew, whose phase completes when every member that stays has arrived, and which ends
with its last member, as its flask does with its last crew; a wake sets the wake bit of the thread that it names, and is discarded where the slot is empty or holds another incarnation; a thread that leaves and has drained goes to its target's run
queue with its registers, joins the queue, and enters a free slot there, on a die that is ready (R393), under the next incarnation of the slot: after a `MIGR` with v0-v7 and e0-e7 zero, in SHORT mode, with BROKEN set and in the regime of the tile; a message takes a place in its core's runner queue, which completes its `RMSG`; and the runner slot, when empty, starts the first message that may run,
at its handler PC with its words in s1-s4.
What the parking area holds of messages and contexts is the model's form (log 59, DEDUCED). -/
def Obligations.ThreadEvents : Prop :=
  ∀ (s : State) (k : Nat) (t : Thread), s.canonical →
    (s.input = .one k → s.thread? k = some t → t.status = .waiting .quit → t.ops = [] → t.detached = true → ∃ u, exec .quitSlotEmpty s = .next u ∧ u.thread? k = none ∧ ∀ j, j ≠ k → u.thread? j = s.thread? j)
    ∧ (∀ w : Waking, s.input = .one w.id → s.wakes.find? (·.id = w.id) = some w → w.tid = t.inc.toNat * 2 ^ 18 + k → k < 2 ^ 18 → s.thread? k = some t →
      (t.status = .active → w.fromDie = dieOf k →
        exec .wakeArrival s = .next { s with wakes := s.wakes.filter (·.id ≠ w.id), threads := mapPut k { t with wake := true, wakeRel := t.wakeRel ++ w.rel } s.threads })
      ∧ (t.status = .parked .wake → ∃ u v, exec .wakeArrival s = .next u ∧ u.thread? k = some v ∧ freed s k t v.status ∧ v.pc = t.pc + 4 ∧ v.wake = t.wake))
    ∧ (s.input = .one k → s.thread? k = some t → t.status = .waiting .quit → t.ops = [] → t.detached = false → ∀ (c : Crew) (f : Flask), mapGet t.crew s.crews = some c → mapGet t.flask s.flasks = some f → t.crew ∈ f.crews →
      let rest := c.members.filter (· ≠ k)
      ∃ u, exec .quitSlotEmpty s = .next u ∧ u.thread? k = none
        ∧ (rest ≠ [] → (∃ m ∈ rest, ∀ v, memberThread s m = some v → v.barCrew.arrived = false ∧ v.barFlask.arrived = false) →
          mapGet t.crew u.crews = some { c with members := rest } ∧ ∀ j, j ≠ k → u.thread? j = s.thread? j)
        ∧ (rest ≠ [] → (∀ m ∈ rest, ∃ v, memberThread s m = some v ∧ v.barCrew.arrived = true) →
          mapGet t.crew u.crews = some { c with members := rest, phase := c.phase + 1, rel := [], prev := outstanding s c.prev ++ outstanding s c.rel })
        ∧ (rest = [] → mapGet t.crew u.crews = none
          ∧ (f.crews = [t.crew] → mapGet t.flask u.flasks = none ∧ ∀ g, mapGet f.grid s.grids = some g → mapGet f.grid u.grids = some { g with done := g.done + 1 })))
    ∧ (∀ w : Waking, s.input = .one w.id → s.wakes.find? (·.id = w.id) = some w → (s.thread? (w.tid % 2 ^ 18) = none ∨ ∃ v, s.thread? (w.tid % 2 ^ 18) = some v ∧ v.inc.toNat ≠ w.tid / 2 ^ 18) →
      exec .wakeArrival s = .next { s with wakes := s.wakes.filter (·.id ≠ w.id) })
    ∧ (∀ l : Leaving, s.input = .one k → s.thread? k = some t → t.status = .leaving l → t.ops = [] → l.again = none → hardwarePlaces s l.target < 4 → t.group = none →
      ∃ u m, exec .migrationDeparture s = .next u ∧ u.thread? k = none ∧ mapGet s.nextId u.migrants = some m ∧ m.target = l.target ∧ m.hardware = l.hardware ∧ m.parked = none ∧ m.arrived = none
        ∧ m.thread = { t with windows := [], status := .active, waitSince := none })
    ∧ (∀ (i : Nat) (m : Migrant), s.input = .one i → mapGet i s.migrants = some m → m.arrived = none → m.thread.fixed = false →
      exec .runQueueArrival s = .next { s with migrants := mapPut i { m with arrived := some s.nextId } s.migrants, nextId := s.nextId + 1 })
    ∧ (∀ (core i : Nat) (m : Migrant), s.input = .one core → dieReady s (core / 2048) = true → (generalSlots core).filterMap (fun j => (queuedFor s j).map (fun x => (j, x))) = [(k, i, m)] → m.parked = none →
      (∀ x ∈ s.migrants, x.2.target = core → x.2.parked = none) →
      let moved : Thread := if m.hardware then m.thread
        else { m.thread with e := Vector.replicate 8 0, v := Vector.replicate 8 0, long := false, broken := true, fixed := (s.tile (tileOfCore core)).fixed }
      ∃ u, exec .runQueueEntry s = .next u ∧ mapGet i u.migrants = none
        ∧ u.thread? k = some { moved with inc := (mapGet k s.starts).getD 0 }
        ∧ mapGet k u.starts = some ((mapGet k s.starts).getD 0 + 1))
    ∧ (∀ (i : Nat) (r : Req) (core : Nat) (pc : Word) (words : List Word) (seq : Option Nat), Arriving s i r k t → r.ask = .message core 0 pc words seq → r.acq = false → runnerPlaces (s.core core) < 8 → t.detached = true →
      exec .messageArrival s = .next { performedWith s i k t r.op [] with
        cores := mapPut core { s.core core with runnerQ := (s.core core).runnerQ ++ [⟨pc, words, seq, r.ctx, r.core, 0, r.after, none, .device⟩] } s.cores })
    ∧ (∀ (core : Nat) (m : Message), s.input = .one core → dieReady s (core / 2048) = true → s.thread? (keyOf core 16) = none → (s.core core).runnerQ = [m] → m.seq = none → m.parked = none →
      ∃ u v, exec .handlerStart s = .next u ∧ u.thread? (keyOf core 16) = some v ∧ v.pc = m.pc &&& ~~~1 ∧ v.status = .active ∧ v.ctx = m.ctx ∧ v.detached = true ∧ v.after = outstanding s m.rel ∧ (u.core core).runnerQ = []
        ∧ (∀ j : BitVec 4, v.readS j = if 1 ≤ j.toNat ∧ j.toNat ≤ 4 then m.words.getD (j.toNat - 1) 0 else 0) ∧ v.trapvec = (s.core core).defaults.trapvec ∧ v.traprec = (s.core core).defaults.traprec)

/-- R146, R147, R295-R301, R304, R305: the Fettler and the resume port, on a running module. SPILL stops the thread it names with reason 0; RESTORE puts a spilled thread back into its slot, ACTIVE, with the PC and the registers of its save area; DISCARD lets its slot
empty as `QUIT` does; the watchdog stops the members of a flask that has idled to its limit, or a detached thread, a flask of its own, with reason 5; sparing of a tile that holds no thread and no command moves none; an uncorrectable error in a slot's state stops its thread, with reason 6. A REISSUE sends a faulted request again, and a CONVERT ends it with PROTECTION at the
faulting address; either lets its thread go on, and the cycles of the fault count for none of its waits.
The model's: the completion false 0 of REGISTER_WRITE with other operands (log 49), what the free area of a failed slot and a refused notice hold (log 26), and what sparing and the watchdog do in their corners (log 55). -/
def Obligations.FettlerEvents : Prop :=
  ∀ (s : State), s.canonical → s.mgmt.boot = .running →
   (∀ (k : Nat) (t : Thread), k < 2 ^ 18 → isRunner k = false → s.thread? k = some t →
    let named := s.input = .two (dieOf k) (t.inc.toNat * 2 ^ 18 + k)
    let offRingSame (u : State) : Prop := ∀ a, offRing s (dieOf k) a → Memory.read u.mem a = Memory.read s.mem a
    (named → Stoppable s k t → ∃ u, exec .spill s = .next u ∧ Stopped s k t 0 t.pc u)
    ∧ (∀ (A : Nat) (reason : Nat), named → t.status = .spilled → t.spill = some ⟨reason, none⟩ → t.entering = none → saveArea s k = some A → ownReqs s k = [] → s.faults = [] → unwatched s →
      ∃ u v, exec .restore s = .next u ∧ u.thread? k = some v ∧ v.status = .active ∧ v.pc = mod64 (peek s.mem (hbmKey A) 8) &&& ~~~1 ∧ v.spill = none
        ∧ (∀ i : BitVec 4, i ≠ 0 → v.readS i = mod64 (peek s.mem (hbmKey (A + 8 * i.toNat)) 8)) ∧ (∀ i : BitVec 3, v.readE i = mod64 (peek s.mem (hbmKey (A + 384 + 8 * i.toNat)) 8))
        ∧ v.trapvec = mod64 (peek s.mem (hbmKey (A + 472)) 8) ∧ v.traprec = mod64 (peek s.mem (hbmKey (A + 480)) 8)
        ∧ Recorded s (dieOf k) (noticeOf A k t 7 (mod64 (peek s.mem (hbmKey A) 8))) u ∧ offRingSame u)
    ∧ (named → t.status = .spilled → ownReqs s k = [] → s.faults = [] →
      ∃ u v, exec .discard s = .next u ∧ u.thread? k = some v ∧ v.status = .waiting .quit ∧ v.spill = none ∧ v.due = [] ∧ v.heldTraps = [] ∧ u.mem = s.mem)
    ∧ (named → t.status = .active → exec .restore s = exec .discard s ∧ (unwatched s → ∃ u, exec .restore s = .next u ∧ u.threads = s.threads ∧ offRingSame u))
    ∧ (∀ (n : Nat) (f : Flask) (g : Grid), s.input = .one n → mapGet n s.flasks = some f → mapGet f.grid s.grids = some g → flaskMembers s n = [k] → Stoppable s k t →
      (s.settings (dieOfTile (f.cluster * 8)) g.ctx).wdlim ≠ 0 → (s.settings (dieOfTile (f.cluster * 8)) g.ctx).wdlim ≤ f.idle →
      ∃ u, exec .watchdogExpiry s = .next u ∧ Stopped s k t 5 t.pc u)
    ∧ (∀ x : Nat, s.input = .two k x → t.detached = true → Stoppable s k t → (s.settings (dieOf k) t.ctx).wdlim ≠ 0 → (s.settings (dieOf k) t.ctx).wdlim ≤ t.idle →
      ∃ u, exec .watchdogExpiry s = .next u ∧ Stopped s k t 5 t.pc u)
    ∧ (s.input = .one k → Stoppable s k t → ∃ u v, exec .slotStateError s = .next u ∧ u.thread? k = some v ∧ v.status = .spilled ∧ v.spill = some ⟨6, none⟩
        ∧ ∀ a, a < 2 ^ 48 → offRing s (dieOf k) a → (∀ A, saveArea s k = some A → a < A ∨ A + 512 ≤ a) → Memory.read u.mem a = Memory.read s.mem a)
    ∧ (∀ (f : PageFault) (i : Nat) (r : Req), s.input = .answer f.die (f.tid % 2 ^ 26) (f.ctx % 2 ^ 12) f.kind f.va → f.die < 4 → ((s.die f.die).ring = none ∨ (s.die f.die).owed = []) → s.faults = [f] → f.who = .request i → mapGet i s.reqs = some r → r.id = i →
      r.who = .thread k → t.status = .parked .fault → stepWaits s k = false → t.entering = none → ownReqs s k = [r] →
      -- the cycles of the fault are none of a wait (R146)
      let past (x : Nat) : Nat := match t.faultSince with | some c => pastFaults (coreCycle s (tileOf k)) (cyclesFrom c (coreCycle s (tileOf k))) x | none => x
      let went : Thread := { t with status := .active, faultSince := none, waitSince := t.waitSince.map (fun w => (w.1, past w.2)) }
      exec .resumeReissue s = .next { s with faults := [], reqs := mapPut i { r with stage := .sent, issued := past r.issued } s.reqs, threads := mapPut k went s.threads }
      ∧ ((∀ n a, r.ask ≠ .digest n a) → r.acq = false → ∀ o : PendOp, t.ops.find? (·.id = r.op) = some o →
        exec .resumeConvert s = .next { s with
          faults := [], reqs := mapDel i s.reqs
          threads := mapPut k (finished r.op { trap := some ⟨.protection, o.pc, none, mod64 f.va, 0, true, o.insn, o.wide, false⟩ } went) s.threads })))
    ∧ (∀ n, n < 2048 → s.input = .one n → (∀ x ∈ s.threads, tileOf x.1 ≠ n) → (s.tile n).array.fifo = [] → ∃ u, exec .tileSparing s = .next u ∧ u.threads = s.threads ∧ u.mem = s.mem)
    ∧ (∀ d, d < 4 → s.input = .one d →
      ((s.die d).ring = none ∨ (s.die d).owed = [] → exec .resumeNone s = .next s)
      ∧ (∀ (R : Nat) (e : RingEntry), (s.die d).ring = some R → (s.die d).owed = [e] → ringRoom s d R → unwatched s →
        ∃ u, exec .resumeNone s = .next u ∧ RingTook s d R e.bytes u ∧ u.threads = s.threads ∧ ∀ a, offRing s d a → Memory.read u.mem a = Memory.read s.mem a))
    ∧ exec .registerWrite s = .next { s with sent := .completion false 0 :: s.sent }

/-! ## Engines, work, lists and pixels -/

/-- R104, R202, R205-R217, R225-R227, R231-R243, R349: what the engines do with the commands they hold. A command takes its place in acceptance order when what its push releases is performed and the commands ahead of it are accepted; a plate load or a stream whose format registers are misaligned raises ALIGN then. The array then performs its
oldest: `MSWAP` exchanges the planes, `MCFG` sets the monitor, `MRD` writes the rows of the accumulators named and no other byte, `MPOP` gives one accumulator, `MDRAIN` acquires at thread scope, `MMON` gives a counter, `MLS` fills the shadow plane with the columns' bytes, a
stream changes no row of the accumulators but those it names. A copy of one word carries the word with its state; a copy, conversion or `CNV` without rows, and a scan, end with token 0; a row command without an active plate traps.
Acceptance as a step of its own, which waits for the releases of the push, is the model's (log 33, DEDUCED); so are the discard made when a token is written at device scope, and at no scope for MDRAIN (log 16, DEDUCED), and the deferral of a format's trap to acceptance (log 64, DEDUCED). -/
def Obligations.EngineEvents : Prop :=
  ∀ (s : State) (n k : Nat) (c : EngineCmd) (t : Thread), s.canonical →
    (∀ e, e < 3 → s.input = .two k c.op → tileOf k = n → s.thread? k = some t → t.owed = none → c.key = k → c.accepted = false → c.stopped = false → engineQ (s.tile n) e = [c] → waitingCmd (s.tile n) c.op = some (e, c) →
      outstanding s c.after = [] → c.refused = none → acceptReads c = [] → absentOf s n c = none → (c.work = .scan → bits c.b.toNat 15 0 ≠ 0) →
      let taken (failed : Bool) : EngineCmd := { c with accepted := true, converted := false, absent := none, failed := failed }
      (c.work.readsA = false → c.work.readsB = false →
        ∃ u, exec .engineAcceptance s = .next u ∧ engineQ (u.tile n) e = [taken false] ∧ u.mem = s.mem ∧ (∀ j, j ≠ k → u.thread? j = s.thread? j)
          ∧ u.thread? k = some (if c.work ∈ [.swap, .cfg] then finished c.op {} (breaks c.untimed t) else if c.work.completesAtAcceptance then roused (tokenPending c.op (breaks c.untimed t)) else breaks c.untimed t))
      ∧ (∀ (o : PendOp) (x : Word), ((∃ sparse, c.work = .plate sparse) ∧ [c.fmtb, c.fmts].find? (fun y => decide (y.toNat % 8 ≠ 0)) = some x)
          ∨ ((∃ zero, c.work = .stream false zero) ∧ [c.fmta, c.fmts].find? (fun y => decide (y.toNat % 8 ≠ 0)) = some x) → t.ops.find? (·.id = c.op) = some o →
        ∃ u, exec .engineAcceptance s = .next u ∧ engineQ (u.tile n) e = [taken true] ∧ u.mem = s.mem ∧ (∀ j, j ≠ k → u.thread? j = s.thread? j)
          ∧ u.thread? k = some (finished c.op { trap := some ⟨.align, o.pc, none, x, 0, true, o.insn, o.wide, false⟩ } (breaks c.untimed t))))
    ∧ (Performing s n 2 c k t →
      let a := (s.tile n).array
      let result (ws : List RegWrite) (q : Option Scope) (w : Nat → Prop) (more : State → Prop) := ∃ u, exec .arrayCommand s = .next u ∧ EndedBy s n 2 c k t { writes := ws, acquire := q } w u ∧ more u
      let same (u : State) := (u.tile n).array = { a with fifo := (u.tile n).array.fifo } ∧ u.accs = s.accs
      (c.work = .swap → ∃ u, exec .arrayCommand s = .next u ∧ (u.tile n).array.active = a.shadow ∧ (u.tile n).array.shadow = a.active ∧ u.accs = s.accs ∧ u.threads = s.threads ∧ u.mem = s.mem)
      ∧ (c.work = .cfg → ∃ u, exec .arrayCommand s = .next u ∧ u.threads = s.threads ∧ u.mem = s.mem ∧ u.accs = s.accs
        ∧ let m := (u.tile n).array.monitor
          m.on = decide (bits c.a.toNat 40 40 = 1) ∧ m.ks = min (bits c.a.toNat 36 32) 16 ∧ m.seed = bits c.a.toNat 31 16
            ∧ (m.samp, m.esum, m.emax, m.skip) = if bits c.a.toNat 41 41 = 1 then (0, 0, 0, 0) else (a.monitor.samp, a.monitor.esum, a.monitor.emax, a.monitor.skip))
      ∧ (c.work = .pop → result [.s c.token ((s.acc n (bits c.a.toNat 6 0) (bits c.a.toNat 13 8)).zeroExtend 64)] none (fun _ => False) same)
      ∧ (c.work = .drain → result [] (some .thread) (fun _ => False) same)
      ∧ (∀ i, i < 4 → c.work = .mon i → result [.s c.token (mod64 ([a.monitor.samp, a.monitor.esum, a.monitor.emax, a.monitor.skip].getD i 0))] none (fun _ => False) same)
      ∧ (∀ zero, c.work = .read zero → rowsOk c.a c.b 256 true → (∀ i, i < bits c.b.toNat 7 0 → reservedRange s c.ctx n (c.a.toNat + i * bits c.b.toNat 47 16) 256 = false) → 256 ≤ bits c.b.toNat 47 16 → s.bad = [] →
        let at_ (i : Nat) := storeAt n (c.a.toNat + i * bits c.b.toNat 47 16)
        result [.s c.token 0, .flags 0] (some .device) (fun x => ∃ i, i < bits c.b.toNat 7 0 ∧ at_ i ≤ x ∧ x < at_ i + 256) (fun u =>
          (∀ i col, i < bits c.b.toNat 7 0 → col < 64 → peek u.mem (at_ i + 4 * col) 4 = (s.acc n (bits c.b.toNat 14 8 + i) col).toNat)
          ∧ (u.tile n).array.active = a.active ∧ (u.tile n).array.shadow = a.shadow
          ∧ ∀ r col, r < 128 → col < 64 → u.acc n r col = if zero = true ∧ bits c.b.toNat 14 8 ≤ r ∧ r < bits c.b.toNat 14 8 + bits c.b.toNat 7 0 then 0 else s.acc n r col))
      ∧ (∀ f, c.work = .plate false → formatOf c.descB = some f → f.skind = 0 → s.bad = [] →
        (∀ i, i < 64 → leavesWindow (c.a.toNat + i * bits c.b.toNat 20 0) (columnBytes f.fmt false) = false) →
        result [.s c.token 0, .flags 0] none (fun _ => False) (fun u => u.accs = s.accs ∧ (u.tile n).array.active = a.active ∧ ∃ p, (u.tile n).array.shadow = some p ∧ p.fmt = f.fmt ∧ p.sparse = false
          ∧ ∀ i j, i < 64 → j < columnBytes f.fmt false → (p.columns.getD i []).getD j 0 = Memory.read s.mem (storeAt n (c.a.toNat + i * bits c.b.toNat 20 0) + j)))
      ∧ (∀ zero f p, c.work = .stream false zero → formatOf c.descA = some f → a.active = some p → classNum f.fmt = classNum p.fmt → f.skind = 0 → s.bad = [] →
        (∀ i, i < bits c.b.toNat 7 0 → leavesWindow (c.a.toNat + i * bits c.b.toNat 47 16) (rowBytes f.fmt (depthOf p.fmt p.sparse)) = false) →
        ∃ fl, result [.s c.token 0, .flags fl] none (fun _ => False) (fun u => (u.tile n).array.active = a.active ∧ (u.tile n).array.shadow = a.shadow
          ∧ ∀ r col, col < 64 → (r < bits c.b.toNat 14 8 ∨ bits c.b.toNat 14 8 + bits c.b.toNat 7 0 ≤ r) → u.acc n r col = s.acc n r col))
      ∧ (∀ data o, c.work = .row data → a.active = none → t.ops.find? (·.id = c.op) = some o →
        ∃ u, exec .deckleRowCommand s = .next u ∧ EndedBy s n 2 c k t { trap := some ⟨.malformedMetadata, o.pc, none, 0, 0, true, o.insn, o.wide, false⟩ } (fun _ => False) u ∧ same u)
      ∧ (c.work = .scan →
        let steps := bits c.b.toNat 15 0
        s.bad = [] → 1 ≤ bits c.b.toNat 23 16 → reservedRange s c.ctx n c.a.toNat 4096 = false → reservedRange s c.ctx n (c.e[4]).toNat (256 * steps) = false →
        leavesWindow c.a.toNat 4096 = false → leavesWindow (c.e[4]).toNat (256 * steps) = false →
        ∃ u fl, exec .sscanExecution s = .next u ∧ same u
          ∧ EndedBy s n 2 c k t { writes := [.s c.token 0, .flags fl], acquire := some .device }
              (fun x => (storeAt n c.a.toNat ≤ x ∧ x < storeAt n c.a.toNat + 4096) ∨ (storeAt n (c.e[4]).toNat ≤ x ∧ x < storeAt n (c.e[4]).toNat + 256 * steps)) u))
    ∧ (Performing s n 0 c k t → c.work = .copy →
      (bits (c.e[2]).toNat 55 32 = 0 ∨ bits (c.e[2]).toNat 31 0 = 0 →
        ∃ u, exec .copyExecution s = .next u ∧ EndedBy s n 0 c k t { writes := [.s c.token 0, .flags 0], acquire := if bits (c.e[6]).toNat 0 0 = 1 then some .device else none } (fun _ => False) u)
      ∧ (bits (c.e[2]).toNat 55 32 = 1 → bits (c.e[2]).toNat 31 0 = 8 → bits (c.e[2]).toNat 58 56 = 0 → bits (c.e[5]).toNat 15 15 = 0 → bits (c.e[5]).toNat 31 31 = 0 → s.bad = [] →
        inWindow (c.e[0]).toNat = true → (c.e[0]).toNat % 8 = 0 → inWindow (c.e[1]).toNat = true → (c.e[1]).toNat % 8 = 0 → s.home (homeKey c.ctx n (c.e[1]).toNat) = {} → reservedRange s c.ctx n (c.e[1]).toNat 8 = false →
        let src := storeAt n (c.e[0]).toNat
        let dst := storeAt n (c.e[1]).toNat
        ∃ u, exec .copyExecution s = .next u ∧ EndedBy s n 0 c k t { writes := [.s c.token 0, .flags 0], acquire := some .device } (fun x => dst ≤ x ∧ x < dst + 8) u
          ∧ peek u.mem dst 8 = peek s.mem src 8 ∧ isEmptyWord u dst = isEmptyWord s src ∧ ∀ w, w ≠ dst → isEmptyWord u w = isEmptyWord s w))
    ∧ (Performing s n 1 c k t → c.work = .convert → bits (c.e[2]).toNat 55 32 = 0 → (formatOf c.descA).isSome = true → (formatOf c.descB).isSome = true →
      ∃ u, exec .conversionExecution s = .next u ∧ EndedBy s n 1 c k t { writes := [.s c.token 0, .flags 0], acquire := if bits (c.e[6]).toNat 0 0 = 1 then some .device else none } (fun _ => False) u)

/-- R255-R269, R372: what the Tundish and the queue scheduler of a die do, which is ready to run. A packet that passes its checks becomes a grid with its counters; one that fails is reported if it names no job, and else sets ERR of its job, whose COUNT falls. A
flask is placed where it fits: its threads begin at the packet's entry with its arguments in s1-s4. A completed grid goes, and COUNT of its job falls; at zero the job's entry is freed and its armed word is filled. `WQASK` fills its answer word with the counter's
next item, all ones at the end of work, or 2^64 - 2 without such a counter; else it waits in the counter. `WQPUT` raises the limit. A hardware slot takes the packets of its queue up to WINDEX, each with COUNT of its job, moves RIDX past them, and then reads the notify word again; a time slice maps the queue whose turn has come. A
notify-window write that is not 8 bytes wide is refused, one for a row that is not valid does nothing, and one for a valid row fills the row's NOTIFY word.
The model's: the report 'packet rejected' and the completion false 0 (log 49), the answer to widths other than 8 and to offsets beyond the window (log 42), fills that come from no cluster (log 40), and when a time slice is due (log 41). -/
def Obligations.WorkEvents : Prop :=
  ∀ (s : State) (d : Nat), s.canonical → dieReady s d = true → s.bad = [] →
    (∀ (a : Arrival), s.input = .one d → (s.die d).arrivals = [a] → a.parked = none → a.source ≠ 256 → a.req = none → a.packet.timing = false →
      let p := a.packet
      let taken := mapPut d { s.die d with arrivals := [] } s.dies
      ((p.crewSize + 3) / 4 ≤ p.slots → p.wqn ≤ 4 → p.job ≠ 0 → p.fmtp = 0 → p.flasks ≠ 0 → exec .packetAcceptance s = .next { s with
        dies := taken, nextId := s.nextId + 1
        grids := mapPut s.nextId {
          packet := p, ctx := a.ctx, die := d, source := a.source, parent := a.parent, children := 0, placed := 0, done := 0, fmts := [0, 0, 0], det := if p.det then (s.settings d a.ctx).placement.map (fun _ => 0) else []
          counters := (List.range p.wqn).map (fun i => ⟨0, if i = 0 then p.wqlim else 0, if i = 0 then p.wqclose else false, []⟩)
          list := if p.det then (s.settings d a.ctx).placement else [] } s.grids })
      ∧ (p.job = 0 → exec .packetAcceptance s = .next { s with dies := taken, sent := .report "packet rejected" d a.ctx :: s.sent })
      ∧ (∀ j, p.job ≠ 0 → (p.slots < (p.crewSize + 3) / 4 ∨ 4 < p.wqn) → a.parent = none → mapGet p.job s.jobs = some j → 1 < j.count → signalsWait s p.job = false →
        ∃ u, exec .packetAcceptance s = .next u ∧ mapGet p.job u.jobs = some { j with err := true, count := j.count - 1 } ∧ u.dies = taken ∧ u.grids = s.grids ∧ u.mem = s.mem))
    ∧ (∀ (id cluster src index tile : Nat) (position : Option Nat) (slots : List (List Nat)) (g : Grid), s.input = .three d id cluster → (s.die d).placementStopped = false → nextPlacement s d = some (src, id, cluster) →
      mapGet id s.grids = some g → fitOn s id g cluster = some (index, position, [(tile, slots)]) → (s.cluster cluster).fused = g.packet.fuse → (g.packet.crewSize + 3) / 4 ≤ g.packet.slots →
      ∃ u f, exec .flaskPlacement s = .next u ∧ mapGet s.nextId u.flasks = some f ∧ f.grid = id ∧ f.index = index ∧ f.cluster = cluster ∧ f.phase = 0 ∧ f.crews = [s.nextId + 1] ∧ u.mem = s.mem
        ∧ (∃ h, mapGet id u.grids = some h ∧ h.placed = g.placed + 1) ∧ (u.die d).source = (src + 1) % 257
        ∧ ∀ i, i < g.packet.crewSize → ∃ v, u.thread? ((slots.getD (i % 4) []).getD (i / 4) 0) = some v ∧ v.status = .active ∧ v.pc = g.packet.entry &&& ~~~1 ∧ v.index = i ∧ v.ctx = g.ctx ∧ v.crew = s.nextId + 1 ∧ v.flask = s.nextId
          ∧ ∀ j : BitVec 4, v.readS j = if 1 ≤ j.toNat ∧ j.toNat ≤ 4 then g.packet.args.getD (j.toNat - 1) 0 else 0)
    ∧ (∀ (id : Nat) (g : Grid) (j : Job), s.input = .one id → mapGet id s.grids = some g → g.placed = g.packet.flasks → g.done = g.packet.flasks → g.children = 0 → g.parent = none → mapGet g.packet.job s.jobs = some j →
      (1 < j.count → exec .gridCompletion s = .next { s with grids := mapDel id s.grids, jobs := mapPut g.packet.job { j with count := j.count - 1 } s.jobs })
      ∧ (j.count = 1 → j.signals = [] → j.filling = [] → exec .gridCompletion s = .next { s with grids := mapDel id s.grids, jobs := mapDel g.packet.job s.jobs })
      ∧ (∀ x : Signal, j.count = 1 → j.signals = [x] → j.filling = [] → x.tile < 2048 → inWindow x.va = true → x.va % 8 = 0 → s.home (homeKey x.ctx x.tile x.va) = {} →
        let w := localKey x.tile (x.va - windowBase)
        s.hold w = {} →
        ∃ u, exec .gridCompletion s = .next u ∧ mapGet g.packet.job u.jobs = none ∧ peek u.mem w 8 = (g.packet.job + if j.err then 2 ^ 63 else 0) % 2 ^ 64 ∧ isEmptyWord u w = false
          ∧ ∀ b, b < w ∨ w + 8 ≤ b → Memory.read u.mem b = Memory.read s.mem b))
    ∧ (∀ (i k : Nat) (r : Req) (t : Thread) (n : Nat) (g : Grid) (w : Nat), Arriving s i r k t → gridOf s k = some (n, g) → r.acq = false →
      (r.ask = .wqask w → inWindow r.va = true → r.va % 8 = 0 → s.home (homeKey r.ctx r.tile r.va) = {} →
        let key := storeKey r r.va
        s.hold key = {} →
        let counter := g.counters[w]?
        let value : Option Nat := match counter with
          | none => some (2 ^ 64 - 2)
          | some c => if c.next < c.limit then some c.next else if c.closed then some (2 ^ 64 - 1) else none
        match value, counter with
        | some v, _ => ∃ u, exec .wqaskArrival s = .next u ∧ peek u.mem key 8 = v % 2 ^ 64 ∧ isEmptyWord u key = false ∧ (∀ b, b < key ∨ key + 8 ≤ b → Memory.read u.mem b = Memory.read s.mem b)
            ∧ u.reqs = mapDel i s.reqs ∧ u.thread? k = some (finished r.op {} (roused t))
            ∧ u.grids = match counter with
              | some c => mapPut n { g with counters := g.counters.set w (if c.next < c.limit then { c with next := c.next + 1 } else c) } s.grids
              | none => s.grids
        | none, some c => pendingAsks s g.die < 1024 →
          exec .wqaskArrival s = .next { performedWith s i k t r.op [] with grids := mapPut n { g with counters := g.counters.set w { c with asks := c.asks ++ [(r.tile, r.va - windowBase)] } } s.grids }
        | none, none => True)
      ∧ (∀ count close c, r.ask = .wqput w count close → g.counters[w]? = some c → c.asks = [] →
        exec .wqputArrival s = .next (if c.closed then performedWith s i k t r.op [] else
          { performedWith s i k t r.op [] with grids := mapPut n { g with counters := g.counters.set w { c with limit := min (c.limit + count) (2 ^ 32 - 1), closed := close } } s.grids })))
    ∧ (∀ (slot : Nat) (q : QueueSlot) (x : UserQueue), s.input = .two d slot → s.queueSlot? d slot = some q → q.windex = some x.ridx → q.stopped = false → q.unmapping = false →
      userQueue s d q.queue = some x →
      ∃ u r, exec .packetTake s = .next u ∧ u.queueSlot? d slot = some { q with windex := none } ∧ mapGet s.nextId u.reqs = some r ∧ r.who = .queue d slot ∧ r.ask = .notify false ∧ r.spans = [(x.notify, 8)] ∧ r.ctx = x.ctx ∧ u.mem = s.mem)
    ∧ (∀ (slot base : Nat) (q : QueueSlot) (x : UserQueue) (l : CachedLeaf), s.input = .two d slot → s.queueSlot? d slot = some q → (s.die d).queueTable = some base → userQueue s d q.queue = some x →
      q.windex = some ((x.ridx + 1) % 2 ^ 32) → q.stopped = false → q.unmapping = false →
      let va := x.ring + 64 * (x.ridx % 2 ^ x.size)
      Mapped s x.ctx va l → SoleHome s va l → permits l none {} = true →
      let p := packetOf (peek s.mem (l.key va) 64)
      let ridx := hbmKey (base + 32 * q.queue + 12)
      (p.job ≠ 0 → jobRoom s p.job = true) →
      ∃ u, exec .packetTake s = .next u ∧ (u.die d).arrivals = (s.die d).arrivals ++ [⟨p, x.ctx, slot, none, none, none⟩] ∧ u.queueSlot? d slot = some { q with windex := none }
        ∧ (p.job ≠ 0 → ∃ j, mapGet p.job u.jobs = some j ∧ j.count = ((mapGet p.job s.jobs).map (·.count)).getD 0 + 1) ∧ (p.job = 0 → u.jobs = s.jobs)
        ∧ peek u.mem ridx 4 = (x.ridx + 1) % 2 ^ 32 ∧ ∀ b, b < ridx ∨ ridx + 4 ≤ b → Memory.read u.mem b = Memory.read s.mem b)
    ∧ (∀ (q : Nat) (x : UserQueue), s.input = .one d → (s.die d).queueTable.isSome = true → (s.die d).sliceEnds ≤ s.cycle → s.slotsOf d = [] → mappable s d = [q] → userQueue s d q = some x →
      ∃ u r, exec .timeSliceExpiry s = .next u ∧ u.slotsOf d = [(0, ⟨q, s.nextId, none, false, false⟩)] ∧ (u.die d).nextQueue = (q + 1) % 4096 ∧ (u.die d).sliceEnds = s.cycle + max 1 (s.die d).timeSlice
        ∧ mapGet s.nextId u.reqs = some r ∧ r.who = .queue d 0 ∧ r.ask = .notify true ∧ r.spans = [(x.notify, 8)] ∧ u.mem = s.mem)
    ∧ (∀ off width data, s.mgmt.boot = .running → s.input = .three off width data →
      (width ≠ 8 → exec .notifyWrite s = .next { s with sent := .completion false 0 :: s.sent })
      ∧ (∀ x, width = 8 → off % 8 = 0 → off < 2 ^ 17 → userQueue s (off / 32768) (off % 32768 / 8) = some x →
        (x.valid = false → exec .notifyWrite s = .next s)
        ∧ (∀ l, x.valid = true → Mapped s x.ctx x.notify l → SoleHome s x.notify l → permits l none { write := true, fe := true } = true → (∀ r ∈ s.reqs, r.2.ask ≠ .fill true) →
          let w := l.key x.notify
          s.home (homeKey x.ctx 0 x.notify) = {} → (s.hold (holdKey x.notify w)).resv = none →
          ∃ u, exec .notifyWrite s = .next u ∧ peek u.mem w 8 = data % 2 ^ 64 ∧ isEmptyWord u w = false ∧ (∀ v, v ≠ w → isEmptyWord u v = isEmptyWord s v)
            ∧ (∀ b, b < w ∨ w + 8 ≤ b → Memory.read u.mem b = Memory.read s.mem b) ∧ u.threads = s.threads)))

/-- R311, R316-R318, R320-R324, R326-R331: the Couch and the Sprue of a tile. The Couch performs the oldest command of a list: `RLSTAT` gives word k of the list, `RLGET` a record of it or zero, `TRVBUD` sets BUDGET, `RLINIT` empties the list at its K, and a
malformed header ends a command other than `RLINIT` with MALFORMED_METADATA at the list. `RLINS` writes the list's bytes alone: a late answer changes LATE alone and gives 1; any other goes in, and s[D] gets 0, the merges and COUNT, where a first answer stands as it was given, one of the span of
the only record is combined with it, one beside it takes its place by the key, and in every case the header and the records are those of the Couch's insertion. `RLFIN` sets DONE and gives the front-to-back composite, T_O, COUNT, LATE and byte 3 of the header. A traversal begins with TRVA set, its budget, and the root on its stack if its ray meets anything; a pop that lies behind T_O is dropped, one beyond the budget is a structure
fault; with an empty stack the traversal ends: TRVA clears, VISITS is written and the end entry waits; its ring word, once EMPTY, is filled, and the token follows.
The order of a ring entry's two words is the model's (log 46, DEDUCED). -/
def Obligations.ListEvents : Prop :=
  ∀ (s : State) (n k : Nat) (t : Thread), s.canonical → s.thread? k = some t → s.bad = [] → s.input = .two n 0 →
    (∀ (i : Nat) (r : Req) (c : ListCmd), (s.tile n).couch = [i] → (s.tile n).rays = [] → mapGet i s.reqs = some r → r.id = i → r.tile = n → r.who = .thread k → r.acq = false → r.ask = .list c →
      listReserved s n r.va = false → windowBase ≤ r.va →
      let L := storeAt n r.va
      let answers (ws : List RegWrite) (w : Nat → Prop) (more : State → Prop) : Prop := ∃ u, exec .couchPerform s = .next u ∧ (u.tile n).couch = [] ∧ u.reqs = mapDel i s.reqs
        ∧ u.thread? k = some (finished r.op { writes := ws } (roused t)) ∧ onlyChanges w s.mem u.mem ∧ more u
      (∀ x, c = .init x → answers [] (span L 32) (fun u => peek u.mem L 2 = 0 ∧ bits (peek u.mem L 4) 17 16 = x.toNat % 4 ∧ bits (peek u.mem L 4) 31 24 = 0))
      ∧ ((headerAt s n r.va).bad = true → (∀ x, c ≠ .init x) → ∀ o : PendOp, t.ops.find? (·.id = r.op) = some o →
        ∃ u, exec .couchPerform s = .next u ∧ (u.tile n).couch = [] ∧ u.reqs = mapDel i s.reqs ∧ u.mem = s.mem
          ∧ u.thread? k = some (finished r.op { trap := some ⟨.malformedMetadata, o.pc, none, mod64 r.va, 0, true, o.insn, o.wide, false⟩ } (roused t)))
      ∧ ((headerAt s n r.va).bad = false →
        (∀ j, c = .stat j → answers [.s r.d (mod64 (peek s.mem (L + 8 * j) 8))] (fun _ => False) (fun _ => True))
        ∧ (∀ j, c = .get j → answers [.v r.d (if j < peek s.mem L 2 then BitVec.ofNat 256 (peek s.mem (L + 32 + 32 * j) 32) else 0)] (fun _ => False) (fun _ => True))
        ∧ (∀ b, c = .budget b → b.toNat < 2 ^ 16 → answers [] (span L 32) (fun u => peek u.mem (L + 6) 2 = b.toNat ∧ peek u.mem L 2 = peek s.mem L 2))
        ∧ (c = .fin →
          let e : Coefs := ⟨s.mem, n, r.data⟩
          let out := frontToBack e (recordsAt s n r.va (peek s.mem L 2)) (fun _ => .zero false, .zero false)
          let v := (List.range 3).foldl (fun x i => x + roundNe32 (out.1 i) * 2 ^ (32 * i)) 0 + roundNe32 (e.ex out.2) * 2 ^ 96 + peek s.mem (L + 8) 4 * 2 ^ 128 + peek s.mem L 2 * 2 ^ 160
            + peek s.mem (L + 12) 4 * 2 ^ 192 + (peek s.mem (L + 3) 1 ||| 8) * 2 ^ 224
          answers [.v r.d (BitVec.ofNat 256 v)] (span L 32) (fun u => bits (peek u.mem L 4) 27 27 = 1 ∧ peek u.mem L 2 = peek s.mem L 2))
        ∧ (∀ (x : BitVec 256) (N : Rec), c = .ins x → answerOf x.toNat = some N →
          let e : Coefs := ⟨s.mem, n, r.data⟩
          let h := headerAt s n r.va
          let late := bits (peek s.mem L 4) 27 27 = 1 ∨ geX (f32v N.t0) (f32v (peek s.mem (L + 8) 4)) = true
          let inserts (w : Nat) (more : State → Prop) : Prop := answers [.s r.d (mod64 w)] (span L (32 + 128 * 2 ^ h.klog)) more
          (late → inserts (1 + 65536 * peek s.mem L 2) (fun u => peek u.mem (L + 12) 4 = min (peek s.mem (L + 12) 4 + 1) (2 ^ 32 - 1) ∧ peek u.mem L 4 = peek s.mem L 4 ∧ peek u.mem (L + 8) 4 = peek s.mem (L + 8) 4
            ∧ onlyChanges (span L 32) s.mem u.mem))
          ∧ (¬ late → ∃ m, inserts (m % 256 * 256 + 65536 * (e.insert h (recordsAt s n r.va h.count) N false).2.1.length) (fun u =>
              headerAt u n r.va = { (e.insert h (recordsAt s n r.va h.count) N false).1 with count := (e.insert h (recordsAt s n r.va h.count) N false).2.1.length }
              ∧ recordsAt u n r.va (peek u.mem L 2) = (e.insert h (recordsAt s n r.va h.count) N false).2.1 ∧ peek u.mem L 2 ≤ 4 * 2 ^ h.klog
              ∧ peek u.mem (L + 16) 4 = min (peek s.mem (L + 16) 4 + m) (2 ^ 32 - 1)))
          ∧ (¬ late → peek s.mem L 2 = 0 → inserts 65536 (fun u => recordsAt u n r.va 1 = [N] ∧ peek u.mem L 2 = 1))
          ∧ (∀ X : Rec, ¬ late → recordsAt s n r.va (peek s.mem L 2) = [X] →
            (X.positive = true → N.positive = true → X.t0 = N.t0 → X.t1 = N.t1 → inserts 65536 (fun u => recordsAt u n r.va 1 = [e.combine X N]))
            ∧ (geX (f32v N.t0) (f32v X.t1) = true → Val.lt (f32v X.t0) (f32v N.t0) = true → inserts 131072 (fun u => recordsAt u n r.va 2 = [X, N]))
            ∧ (geX (f32v X.t0) (f32v N.t1) = true → Val.lt (f32v N.t0) (f32v X.t0) = true → inserts 131072 (fun u => recordsAt u n r.va 2 = [N, X]))))))
    ∧ (∀ (x : Traversal), (s.tile n).rays = [x] → (s.tile n).couch = [] → x.key = k → ringWaits s n x = false → x.stopAsked = none → x.stopped = false → (∀ y ∈ s.threads, tileOf y.1 = n → y.2.status ≠ .waiting .room) →
      let L := storeAt n x.list
      let ring := localKey n (bits x.e2 19 4 * 16 + 16 * (x.ring % 2 ^ (bits x.e2 3 0)))
      (x.stage = .accepted → outstanding s x.after = [] →
        ∃ u, exec .traversalBegin s = .next u ∧ u.threads = s.threads ∧ onlyChanges (span L 32) s.mem u.mem ∧ bits (peek u.mem L 4) 26 26 = 1
          ∧ (u.tile n).rays = [{ x with
              stage := .running, budget := if bits x.e2 63 48 = 0 then peek s.mem (L + 6) 2 else min (peek s.mem (L + 6) 2) (bits x.e2 63 48)
              stack := match rayOf x.ray.toNat with | some y => [(x.base, y.tmin)] | none => [] }])
      ∧ (x.stage = .running → x.out = none → x.converted = none → x.reading = false →
        (x.stack = [] → x.visits < 2 ^ 32 → (ring + 16 ≤ L ∨ L + 32 ≤ ring) →
          ∃ u, exec .nodeVisit s = .next u ∧ u.threads = s.threads ∧ onlyChanges (fun a => span L 32 a ∨ span (ring + 8) 8 a) s.mem u.mem
            ∧ bits (peek u.mem L 4) 26 26 = 0 ∧ peek u.mem (L + 20) 4 = x.visits ∧ peek u.mem (ring + 8) 8 = 0
            ∧ (u.tile n).rays = [{ x with stage := .ending 0 0, out := some (0xFF * 2 ^ 56), stack := [], leaves := [], nodes := [] }])
        ∧ (∀ node tin rest, x.stack = (node, tin) :: rest → (rayOf x.ray.toNat).isSome = true →
          (geX (f32v tin) (f32v (peek s.mem (L + 8) 4)) = true → ∃ u, exec .nodeVisit s = .next u ∧ u.threads = s.threads ∧ u.mem = s.mem ∧ (u.tile n).rays = [{ x with stack := rest }])
          ∧ (geX (f32v tin) (f32v (peek s.mem (L + 8) 4)) = false → x.budget ≤ x.visits → ∃ u y, exec .nodeVisit s = .next u ∧ (u.tile n).rays = [y] ∧ y.stage = .ending 6 node ∧ y.out = some (0xFF * 2 ^ 56))))
      ∧ (∀ w0 status waddr, x.out = some w0 → x.stage = .ending status waddr → bits x.e2 20 20 = 0 → isEmptyWord s ring = true → ringWaits s n { x with ring := x.ring + 1 } = false →
        s.home (homeKey x.ctx n (windowBase + x.ringAt)) = {} →
        ∃ u, exec .ringEntryWrite s = .next u ∧ (u.tile n).rays = [] ∧ onlyChanges (span ring 8) s.mem u.mem ∧ peek u.mem ring 8 = w0 % 2 ^ 64 ∧ isEmptyWord u ring = false
          ∧ u.thread? k = some (finished x.op { writes := [.s x.token (tokenWord status waddr)], acquire := some .device } t)))

/-- R362-R365: the raster unit and the blends. A culled triangle gives no fragment and goes; a `RASFRAG` that waits gets the oldest fragment, or zero and its predicate once no fragment and no triangle is left. A triangle that is drawn gives, in increasing y and then x, a fragment for each pixel
of the scissor whose centre it covers, with its primitive index and two barycentric coordinates, until the raster unit pauses at a pixel from which it goes on. A blend whose group is not above LWM is performed: it writes its pixel and no other byte; a channel of R8G8B8A8 becomes the nearest
integer to 255 times what the operation gives, within [0, 1]; under REPLACE in R16G16B16A16 a channel of 1.0 becomes 0x3C00.
A blend's address is translated when its window accepts it (log 52, DEDUCED), and the raster unit pauses at the end of a row (log 53, DEDUCED). -/
def Obligations.PixelEvents : Prop :=
  ∀ (s : State), s.canonical → s.bad = [] →
    (∀ (k : Nat) (t : Thread) (g : Group), s.input = .one k → s.thread? k = some t → t.group = some g →
      (∀ tri rest, g.triangles = tri :: rest → screenTriangle tri.2 = none → g.fragments.length < 256 → g.pops = [] →
        exec .rasterize s = .next { s with threads := mapPut k (roused { t with group := some { g with triangles := rest, pos := none } }) s.threads })
      ∧ (∀ tri rest c, g.triangles = tri :: rest → drawn tri.2.toNat → g.fragments.length < 256 → g.pops = [] → mapGet g.gctx s.gctxs = some c →
        (∀ p, g.pos = some p → bits c.bytes (8 * 546 + 15) (8 * 546) ≤ p.1 ∧ bits c.bytes (8 * 544 + 15) (8 * 544) ≤ p.2) →
        let v := tri.2.toNat
        let from_ (x y : Nat) : Prop := ∀ p, g.pos = some p → p.1 < y ∨ (p.1 = y ∧ p.2 ≤ x)
        ∃ (u : State) (t' : Thread) (g' : Group) (fs : List Fragment), exec .rasterize s = .next u ∧ u.thread? k = some t' ∧ t'.group = some g' ∧ g'.fragments = g.fragments ++ fs ∧ g'.fragments.length ≤ 256 ∧ u.mem = s.mem
          ∧ (g'.triangles = rest ∧ g'.pos = none ∨ g'.triangles = g.triangles ∧ g'.pos ≠ none)
          ∧ fs.Pairwise (fun a b => a.y < b.y ∨ (a.y = b.y ∧ a.x < b.x))
          ∧ (∀ f ∈ fs, scissored c.bytes f.x f.y ∧ covers v f.x f.y ∧ f.prim = tri.1
              ∧ ∃ q1 q2 : Q, ratio q1 = weight v f.x f.y 1 ∧ ratio q2 = weight v f.x f.y 2 ∧ f.b1 = BitVec.ofNat 32 (roundNe32 (Val.ofQ q1)) ∧ f.b2 = BitVec.ofNat 32 (roundNe32 (Val.ofQ q2)))
          ∧ ∀ x y, scissored c.bytes x y → covers v x y → from_ x y → (∃ f ∈ fs, f.x = x ∧ f.y = y) ∨ ∃ p, g'.pos = some p ∧ (p.1 < y ∨ (p.1 = y ∧ p.2 ≤ x)))
      ∧ (∀ op d pf, g.triangles = [] → g.pops = [(op, d, pf)] → exec .rasterize s = .next { s with threads := mapPut k (match g.fragments with
        | f :: rest => finished op { writes := [.v d (BitVec.ofNat 256 f.bytes), .p pf false] } { t with group := some { g with fragments := rest, pops := [] } }
        | [] => finished op { writes := [.v d 0, .p pf true] } { t with group := some { g with pops := [] } }) s.threads }))
    ∧ (∀ b : Blend, s.input = .one b.id → s.blends = [b] → (∀ c, mapGet b.gctx s.gctxs = some c → c.serial = b.draw → b.group ≤ c.lwm) →
      let n := if b.fmt = 1 then 8 else 4
      b.place s = b.key → reserved s b.holdKey = false →
      ∃ u, exec .blendPerform s = .next u ∧ u.blends = [] ∧ u.threads = s.threads ∧ onlyChanges (span b.key n) s.mem u.mem ∧ peek u.mem b.key n = blendPixel b (peek s.mem b.key n)
        ∧ (b.fmt = 0 → (∀ i, i < 4 → (f32v (bits b.colour.toNat (32 * i + 31) (32 * i))).isFinite = true) → ∀ i, i < 4 →
            let source (j : Nat) : ℚ := ratio (f32v (bits b.colour.toNat (32 * j + 31) (32 * j))).toQ
            nearestByte (blended b.bop (source i) (((Memory.read s.mem (b.key + i)).toNat : ℚ) / 255) (source 3)) (Memory.read u.mem (b.key + i)).toNat)
        ∧ (b.fmt = 0 → ∀ i, i < 4 → b.bop = 0 → (f32v (bits b.colour.toNat (32 * i + 31) (32 * i))).isNan = true → Memory.read u.mem (b.key + i) = 0)
        ∧ (b.fmt = 1 → b.bop = 0 → ∀ i, i < 4 → bits b.colour.toNat (32 * i + 31) (32 * i) = 0x3F800000 → peek u.mem (b.key + 2 * i) 2 = 0x3C00))

/-! ## The module and its surroundings -/

/-- R257, R262, R267-R270, R275, R278, R284, R295, R301, R368, R373, R374, R376, R379, R380: what the mailbox commands do on a running module where no thread, no request and no work of a die uses what they place: exactly what the table `mailbox` says, where a tile enters fixed timing only for a context with frame slots reserved and takes the reference count; a fault ring starts with its
control block zero, a parking area with the entries of its own map in use, a queue table with the rows given, a decode table describes the view of each valid entry and no other; every core of a die takes the runner defaults given for it; a port takes its mode. In recovery each is answered REFUSED and has no effect.
The answer REFUSED, the zeroed control block and what counts as in use are the model's (log 48). -/
def Obligations.MailboxCommands : Prop :=
  ∀ (s : State), s.canonical → s.threads = [] → s.migrants = [] → s.reqs = [] → (∀ d, dieInUse s d = false) →
    (s.mgmt.boot = .running → ∀ (i : Instr) (u : State), mailbox s i = some u → exec i s = .next u)
    ∧ (s.mgmt.boot = .recovery → ∀ (i : Instr) (u : State), mailbox s i = some u → exec i s = .next { s with sent := .report "REFUSED" 0 0 :: s.sent })
    ∧ (s.mgmt.boot = .running → ∀ (d base : Nat), d < 4 →
      (s.input = .two d base → base % 32768 = 0 → base + 32832 ≤ 0xC000000000 → (s.die d).owed = [] →
        ∃ u, exec .placeFaultRing s = .next u ∧ (u.die d).ring = some base ∧ (u.die d).prod = 0 ∧ peek u.mem (base + 32768) 64 = 0 ∧ isEmptyWord u (base + 32768) = false ∧ onlyChanges (span (base + 32768) 64) s.mem u.mem)
      ∧ (∀ n, s.input = .three d base n → base % 65536 = 0 → n % 1024 = 0 → 4096 ≤ n → n ≤ 2 ^ 22 → base + 16 * n ≤ 0xC000000000 →
        ∃ u, exec .placeParkingArea s = .next u ∧ (u.die d).parking = some (base, n) ∧ (∀ i, i < n / 1024 → Memory.read u.mem (base + i) = 0xFF) ∧ onlyChanges (span base (n / 1024)) s.mem u.mem)
      ∧ (∀ r : QueueRow, s.input = .queues d base [r] → base + 131072 ≤ 0xC000000000 → r.index < 4096 → r.size ≤ 16 →
        ∃ u, exec .placeQueueTable s = .next u ∧ (u.die d).queueTable = some base ∧ onlyChanges (span (base + 32 * r.index) 32) s.mem u.mem
          ∧ let x := peek u.mem (base + 32 * r.index) 32
            bits x 68 64 = r.size ∧ bits x 127 96 = 0 ∧ bits x 203 192 = r.ctx % 4096 ∧ bits x 208 208 = (if r.valid then 1 else 0) ∧ bits x 191 131 = r.notify.toNat / 8 ∧ bits x 55 6 = r.ring.toNat / 64 % 2 ^ 50)
      ∧ (s.input = .two d base → base + 32768 ≤ 0xC000000000 →
        ∃ u, exec .placeDecodeTable s = .next u ∧ (u.die d).decodeTable = some base ∧ u.mem = s.mem ∧ ((∀ i, i < 1024 → (Memory.read s.mem (base + 32 * i + 23)).getLsbD 0 = false) → (u.die d).views = [])
          ∧ ∀ i, i < 1024 → (∀ j, j < 1024 → ((Memory.read s.mem (base + 32 * j + 23)).getLsbD 0 = true ↔ j = i)) →
            let x := peek s.mem (base + 32 * i) 32
            bits x 63 0 % 16 = 0 → bits x 127 64 % 512 = 0 → bits x 143 128 ∈ Set.Icc 1 16384 → bits x 159 144 ∈ Set.Icc 1 16384 → bits x 183 176 ∈ Set.Icc 1 15 →
            (bits x 167 160 ∈ [2, 3, 4] ∧ bits x 175 168 = 0x44 ∨ bits x 167 160 ≤ 1 ∧ bits x 175 168 ∈ [0x44, 0x54, 0x55, 0x65, 0x66, 0x85, 0x86, 0x88, 0xA5, 0xA6, 0xA8, 0xAA, 0xCA, 0xCC]) →
            ∃ v, (u.die d).views = [v] ∧ v.cbase = bits x 63 0 ∧ v.dbase = bits x 127 64 ∧ v.w = bits x 143 128 ∧ v.h = bits x 159 144 ∧ v.fmt = bits x 167 160 ∧ v.bw = bits x 175 172 ∧ v.bh = bits x 171 168
              ∧ v.levels = bits x 183 176 ∧ ∀ a, v.cbase ≤ a → a < v.cbase + v.compressed → Memory.read v.blocks a = Memory.read s.mem a)
      ∧ (∀ r, s.input = .defaults d none r → ∃ cores, exec .setRunnerDefaults s = .next { s with cores := cores }
        ∧ ∀ c, ({ s with cores := cores } : State).core c = if c / 2048 = d then { s.core c with defaults := r } else s.core c))
    ∧ (s.mgmt.boot = .running → ∀ (p : Nat) (m : PortMode), s.input = .mode p m → p < 12 →
      ∃ u, exec .setPortMode s = .next u ∧ (u.port p).mode = m ∧ (∀ q, q ≠ p → u.port q = s.port q) ∧ u.mem = s.mem)

/-- R274, R275, R284: a stretched cycle of an elastic tile is counted; a detector trip counts it too, breaks the timing of the tile's threads, those that move between two cores of it among them, and is reported. A replica group whose members agree goes on to the next step and answers 0; the first disagreement answers 1 and the
step is taken again; a member that is lost leaves a group of three.
The report 'detector trip' is the form of the model (log 49); that the timeout counts from the last decision, and that the others go on as a smaller group, is its reading of R284 (log 43, DEDUCED). -/
def Obligations.TimingAndReplicaEvents : Prop :=
  ∀ (s : State), s.canonical →
    (∀ n, s.input = .one n →
      (n < 2048 → (s.tile n).fixed = false → exec .droopStretch s = .next { s with tiles := mapPut n { s.tile n with stretched := (s.tile n).stretched + 1 } s.tiles })
      ∧ ((s.tile n).fixed = true → ∃ u, exec .detectorTrip s = .next u ∧ u.tile n = { s.tile n with stretched := (s.tile n).stretched + 1 } ∧ u.sent = .report "detector trip" n 0 :: s.sent
        ∧ (∀ k t, s.thread? k = some t → u.thread? k = some (if tileOf k = n then { t with broken := true } else t))
        ∧ ∀ i m, mapGet i s.migrants = some m → mapGet i u.migrants = some (if m.source = n ∧ tileOfCore m.target = n then { m with thread := { m.thread with broken := true } } else m)))
    ∧ (∀ (job m x y i k : Nat) (g : Replica) (r : Req) (t : Thread), m ≠ 0 → s.input = .three job m y → y < 2 ^ 512 → mapGet job s.replicas = some g → signalsWait s job = false →
      (g.members = [0, m] → g.digests = [(0, x)] → g.pending = some i → mapGet i s.reqs = some r → r.id = i → r.who = .thread k → r.acq = false → s.thread? k = some t → t.status = .parked .step → unheld { s with reqs := mapDel i s.reqs } k t →
        let ends (a : Word) (h : Replica) : Prop := exec .peerDigestArrival s = .next { s with
          replicas := mapPut job h s.replicas, reqs := mapDel i s.reqs, threads := mapPut k { finished r.op { writes := [.s r.d a] } t with status := .active } s.threads }
        (x = y → ends 0 { g with expected := g.expected + 1, pending := none, digests := [], disagreed := false, since := s.cycle })
        ∧ (x ≠ y → g.disagreed = false → ends 1 { g with pending := none, digests := [], disagreed := true, since := s.cycle }))
      ∧ (g.pending = none → g.members = [0, m] → g.digests = [] → exec .peerDigestArrival s = .next { s with replicas := mapPut job { g with digests := [(m, y)] } s.replicas }))
    ∧ (∀ (job a b : Nat) (g : Replica), a ≠ 0 → b ≠ 0 → a ≠ b → s.input = .two job b → mapGet job s.replicas = some g → g.members = [0, a, b] → g.digests = [] → g.timeout ≤ s.cycle - g.since → signalsWait s job = false →
      exec .memberTimeout s = .next { s with replicas := mapPut job { g with members := [0, a] } s.replicas })

/-- R371-R377, R380, R381: what the host, the ports, boot and the management complex do. An access of the host reads or writes the bytes of HBM that it names, and beyond HBM it completes as an Unsupported Request; power-on leaves everything as reset does and runs if both images
verify, with the link, the ports and the spares as training found them and the failed units reported; a link without CXL leaves no translation and no line of host memory; in recovery an image that verifies is taken, and attestation answers through the management port alone; a report begins with the nonce and ends its 256 bytes with the identity; above the cap the clocks fall by a step; a temperature is reported, above 105 °C placement stops and above 115 °C the module is off.
The model's: entries of `State.sent` and completions (log 49), the completion beyond HBM, the aperture before training and the wait at reserved words (log 50), and the 19 clock steps restored whole, the throttle, what training finds and what power-on wipes (log 51). -/
def Obligations.ManagementEvents : Prop :=
  ∀ (s : State), s.canonical → s.bad = [] →
    (∀ (row : Instr) (write : Bool) (pa n data : Nat), s.mgmt.boot = .running → s.input = .access write pa n data → 0 < n → (row = .hostApertureAccess ∨ (row = .cxlMemAccess ∧ s.mgmt.trained = true ∧ s.mgmt.cxl ≠ 0)) →
      (0xC000000000 < pa + n → exec row s = .next { s with sent := .completion false 0 :: s.sent })
      ∧ (pa + n ≤ 0xC000000000 → write = false → exec row s = .next { s with sent := .completion true (peek s.mem pa n) :: s.sent })
      ∧ (pa + n ≤ 0xC000000000 → write = true → reservedBytes s pa n = false →
        ∃ u, exec row s = .next u ∧ u.sent = .completion true 0 :: s.sent ∧ peek u.mem pa n = data % 256 ^ n ∧ onlyChanges (span pa n) s.mem u.mem ∧ u.empties = s.empties))
    ∧ (s.mgmt.boot = .running → exec .notifyWindowRead s = .next { s with sent := .completion false 0 :: s.sent })
    ∧ (∀ gen width cxl, s.mgmt.boot ≠ .off → s.input = .three gen width cxl → gen ∈ [5, 6, 7] → width ∈ [8, 16] → cxl ∈ [0, 20, 31] →
      let m := { s.mgmt with trained := true, pcieGen := gen, width := width, cxl := cxl }
      (cxl ≠ 0 → exec .linkTraining s = .next { s with mgmt := m })
      ∧ (cxl = 0 → ∃ u, exec .linkTraining s = .next u ∧ u.mgmt = m ∧ u.mem = s.mem ∧ u.threads = s.threads ∧ (∀ c, ∀ l ∈ (u.core c).l1, l.host = false)
        ∧ ∀ h, ∀ x ∈ (u.slice h).first ++ (u.slice h).last, x.leaf.mt ≠ 1))
    ∧ (∀ p, s.mgmt.boot ≠ .off → s.input = .one p → p < 12 → (s.port p).live = true →
      (∃ u, exec .portFailure s = .next u ∧ u.port p = { s.port p with live := false } ∧ (∀ q, q ≠ p → u.port q = s.port q) ∧ u.sent = .report "port failed" p 0 :: s.sent)
      ∧ ((s.port p).mode = .qorger → ∃ u, exec .laneSparing s = .next u ∧ u.port p = { s.port p with spared := (s.port p).spared + 1 } ∧ ∀ q, q ≠ p → u.port q = s.port q))
    ∧ (∀ stage firmware b, s.mgmt.boot ≠ .running → s.input = .images stage firmware b → bringUpOk b = true →
      let good (i : SignedImage) : Prop := i.signed = true ∧ i.keyHash = s.mgmt.rootKeyHash ∧ s.mgmt.rollback ≤ i.version
      ∃ u, exec .powerOn s = .next u ∧ (u.mgmt.boot = .running ↔ good stage ∧ good firmware) ∧ (u.mgmt.boot = .recovery ↔ ¬ (good stage ∧ good firmware)) ∧ u.threads = [] ∧ u.reqs = [] ∧ u.empties = []
        ∧ u.mgmt.rootKeyHash = s.mgmt.rootKeyHash ∧ u.mgmt.rollback = s.mgmt.rollback ∧ u.mgmt.identity = s.mgmt.identity
        ∧ (∀ a, Memory.read u.mem a = if 2 ^ 48 ≤ a ∧ a < 2 ^ 49 then Memory.read s.mem a else 0)
        ∧ (good stage → good firmware → (u.mgmt.trained = true ↔ b.pcieGen ≠ 0) ∧ (b.pcieGen ≠ 0 → u.mgmt.pcieGen = b.pcieGen ∧ u.mgmt.width = b.width ∧ u.mgmt.cxl = b.cxl)
          ∧ (∀ p ∈ b.ports, (u.port p.1).mode = p.2.1 ∧ (u.port p.1).live = p.2.2) ∧ (∀ x ∈ b.spared, (u.cluster (clusterOfTile x)).spareFor = some x) ∧ ∀ x ∈ b.failed, .report "unit failed" x 0 ∈ u.sent))
    ∧ (∀ i, s.mgmt.boot = .recovery → s.input = .image i →
      (i.signed = true ∧ i.keyHash = s.mgmt.rootKeyHash ∧ s.mgmt.rollback ≤ i.version → exec .signedImage s = .next { s with mgmt := { s.mgmt with stage := some i } })
      ∧ (¬ (i.signed = true ∧ i.keyHash = s.mgmt.rootKeyHash ∧ s.mgmt.rollback ≤ i.version) → exec .signedImage s = .next { s with sent := .report "REFUSED" 0 0 :: s.sent }))
    ∧ (∀ nonce, s.mgmt.boot = .recovery → s.input = .one nonce → nonce < 2 ^ 256 → exec .attestationRequest s = .next { s with sent := .report "REFUSED" 0 0 :: s.sent })
    ∧ (∀ nonce, nonce < 2 ^ 256 → (s.mgmt.boot = .running ∧ s.input = .one nonce ∨ s.mgmt.boot ≠ .off ∧ s.input = .two nonce 1) →
      ∃ x, exec .attestationRequest s = .next { s with sent := .attestation x :: s.sent } ∧ x % 2 ^ 256 = nonce ∧ bits x 2047 1792 = s.mgmt.identity.toNat)
    ∧ (∀ draw, s.mgmt.boot = .running → s.input = .one draw → (s.mgmt.cap < draw ∨ s.mgmt.clockSteps ≠ 0) →
      exec .powerLimitExceeded s = .next { s with mgmt := { s.mgmt with clockSteps := if s.mgmt.cap < draw then min 19 (s.mgmt.clockSteps + 1) else 0 } })
    ∧ (∀ hbm c, s.mgmt.boot ≠ .off → s.input = .two hbm c →
      (hbm ≠ 0 → exec .temperatureExcursion s = .next { s with mgmt := { s.mgmt with throttled := decide (95 < c) }, sent := .report "HBM temperature" c 0 :: s.sent })
      ∧ (hbm = 0 → c ≤ 105 → exec .temperatureExcursion s = .next { s with sent := .report "die temperature" c 0 :: s.sent })
      ∧ (hbm = 0 → 105 < c → c ≤ 115 → s.jobs = [] → ∃ u, exec .temperatureExcursion s = .next u ∧ (∀ d, d < 4 → u.die d = { s.die d with placementStopped := true }) ∧ u.threads = s.threads)
      ∧ (hbm = 0 → 115 < c → ∃ u, exec .temperatureExcursion s = .next u ∧ u.mgmt.boot = .off ∧ u.mgmt.shutDown = true ∧ u.threads = []))
    ∧ (∀ w, s.mgmt.boot ≠ .off → s.input = .tray w → ∃ n, exec .trayExcursion s = .next { s with sent := .report "tray limit" n 0 :: s.sent })

/-! ## A step of the machine -/

/-- R14-R16, R36, R44: a turn of the agenda runs the decoded instruction. Where the slot's thread can take its turn and its fetch gives a word, the step is `exec` of the instruction that the word decodes to, in the state that the fetch has left with the slot as the current one; a
word that does not decode traps ILLEGAL. With no trap due, no discard owed and the L1 holding the PC's halfwords as their homes do, the fetch gives those halfwords, one where bit 0 of the first is 0, and changes nothing but what the translation caches and the homes hold. A slot whose thread cannot
take the turn, a window that has run out included, lets it pass; an event of the agenda is performed with what it acts on, and so is what the world does.
That a step is one turn of an agenda, and what the agenda names, is the model's (log 3, DESIGN CHOICE); the choice among old and new halfwords is log 29. -/
def Obligations.StepRunsDecoded : Prop :=
  ∀ (s : State) (k : Nat) (rest : List Turn),
    let s1 := { s with agenda := rest }
    (s.agenda = .issue k :: rest → (∀ t, s.thread? k = some t → t.status ≠ .active ∨ t.forfeits ≠ 0 ∨ t.blocked = true) → step s = .next s1)
    ∧ (∀ t, s.agenda = .issue k :: rest → s.thread? k = some t → t.status = .active → t.forfeits = 0 → t.blocked = false →
      (∀ insn x, (fetchFor k).from s1 = .ok (.ready insn, x) →
        (∀ i l, decode (insnBytes insn) = .ok (i, l) → step s = exec i { replay x.log s1 with cur := k, insn := insn })
        ∧ (∀ e u, decode (insnBytes insn) = .error e → u = { replay x.log s1 with cur := k, insn := insn } → u.thread? k = some t →
            step s = commit "TRAP_ENTRY" (enterTrap k (preciseTrap t insn .illegal 0) false) u))
      ∧ (∀ (a b : L1Line) (leaf : CachedLeaf), t.due = [] → t.owed = none → (t.heldTraps = [] ∨ t.intrap = true) → s.old = [] → Mapped s t.ctx t.pc.toNat leaf → Mapped s t.ctx (t.pc.toNat + 2) leaf →
        SoleHome s t.pc.toNat leaf → SoleHome s (t.pc.toNat + 2) leaf → l1Find s (coreOf k) t.ctx t.pc.toNat = some a → a.x = true →
        l1Find s (coreOf k) t.ctx (t.pc.toNat + 2) = some b → b.x = true →
        let lo := a.read t.pc.toNat 2
        let hi := b.read (t.pc.toNat + 2) 2
        let insn := BitVec.ofNat 32 (if lo % 2 = 0 then lo else lo + 65536 * hi)
        peek s.mem (leaf.key t.pc.toNat) 2 = lo → peek s.mem (leaf.key (t.pc.toNat + 2)) 2 = hi →
        ∀ i l, decode (insnBytes insn) = .ok (i, l) → ∃ u, Caches { s1 with cur := k, insn := insn } u ∧ step s = exec i u))
    ∧ (∀ row arg, s.agenda = .event row arg :: rest → step s = exec row { s1 with input := arg, cur := 2 ^ 40, insn := 0 })
    ∧ (∀ h, s.agenda = .world h :: rest → step s = happens h s1)

/-- R23-R28, R36, R73, R113: what keeps an instruction from issuing. A register that an operation in flight will write makes the thread wait; one that an open window holds makes a fixed-timing thread trap LOOKAHEAD with the window's PC as ADDR, and any other wait; a
thread whose window has run out waits; a vector register that the thread's mode does not have traps ILLEGAL, on the core that executes the instruction (R62, R115; log 45, DEDUCED). -/
def Obligations.RegistersGateIssue : Prop :=
  ∀ (s : State) (t : Thread),
    let stalls (i : Instr) : Prop := exec i s = .next (s.withCurrent (waiting s t .scoreboard))
    let traps (i : Instr) (c : Cause) (addr : Word) : Prop := exec i s = commit "TRAP_ENTRY" (enterTrap s.cur (preciseTrap t s.insn c addr) false) s
    (∀ (i : Instr) (c : Computes), (arithmetic t i = some c ∨ shifts t i = some c ∨ immediates t i = some c) → s.thread? s.cur = some t → t.status = .active → t.forfeits = 0 →
      (t.blocked = true → stalls i)
      ∧ (t.blocked = false → ∀ x : Touch, (x = touchP c.guard.p ∨ (x = c.uses ∧ t.free (touchP c.guard.p) ∧ guardHolds c.guard t = true)) →
        (t.violated x = none → t.pending.meets x = true → stalls i)
        ∧ (∀ w, t.violated x = some w → if t.fixed then traps i .lookahead w.pc else stalls i)))
    ∧ (∀ (i : Instr) (g : Guard), guardOf i = some g → HasTurn s t → (onCore3 i = true → roleOf s.cur = 3) → ¬ vectorsOk i t → traps i .illegal 0)

/-! ## Values -/

/-- R210, R238, R239, R243-R245, R349: the values that the engines compute. The exact sum of a block follows R210; a stream leaves in each accumulator that it names dot of R210 over its row and the plate's column; a conversion of 32 elements writes each one rounded by R93 or R95, or under the power of two that R238
takes from the block's largest magnitude, and raises the flags of all; a scan of one step gives the state and the sum of R244, or of R245 where L is 16 or more; a row command over a plate of class W16 answers with the record of R349, or with a miss.
The sign of an exact zero and which NaN is kept are R210 and R91; the order of maxima at zero is log 12. -/
def Obligations.EngineValues : Prop :=
  (∀ ts : List Val, sumRule ts (exactSum ts).1)
  ∧ ∀ (s : State) (n k : Nat) (c : EngineCmd) (t : Thread), s.canonical → s.bad = [] →
    (Performing s n 2 c k t →
      let a := (s.tile n).array
      let unit := coverAt 0 [] 0
      (∀ zero f p, c.work = .stream false zero → formatOf c.descA = some f → a.active = some p → classNum f.fmt = classNum p.fmt → f.skind = 0 → p.skind = 0 → p.sparse = false → c.approx.getLsbD 8 = false → a.monitor.on = false →
        (∀ i, i < bits c.b.toNat 7 0 → leavesWindow (c.a.toNat + i * bits c.b.toNat 47 16) (rowBytes f.fmt (depthOf p.fmt false)) = false) →
        let r0 := bits c.b.toNat 14 8
        let row (i : Nat) (j : Nat) : Val := decodeTerm f.fmt (elemAt (codeBits f.fmt) (peek s.mem (storeAt n (c.a.toNat + i * bits c.b.toNat 47 16)) (rowBytes f.fmt (depthOf p.fmt false))) j) unit
        let column (col : Nat) (j : Nat) : Val := decodeTerm p.fmt (elemAt (codeBits p.fmt) (bytesVal (p.columns.getD col [])) j) unit
        let old (r col : Nat) : Val := if zero = true then .zero false else fmtF32.decode (s.acc n r col).toNat
        ∃ u, exec .arrayCommand s = .next u ∧ u.mem = s.mem ∧ ∀ i col, i < bits c.b.toNat 7 0 → col < 64 →
          u.acc n (r0 + i) col
            = BitVec.ofNat 32 (near32 (dotOf (old (r0 + i) col) (depthOf p.fmt false / blockLen f.fmt) (blockLen f.fmt) (row i) (column col))))
      ∧ (∀ stepwise : Bool, c.work = .scan → bits c.b.toNat 15 0 = 1 → 1 ≤ bits c.b.toNat 23 16 → stepwise = decide (bits c.b.toNat 23 16 < 16) →
        let key (i : Nat) : Nat := storeAt n (c.e.toList.getD i 0).toNat
        let H := storeAt n c.a.toNat
        windowBase ≤ c.a.toNat → (∀ i, i < 5 → windowBase ≤ (c.e.toList.getD i 0).toNat) → (H + 4096 ≤ key 4 ∨ key 4 + 256 ≤ H) → reservedRange s c.ctx n c.a.toNat 4096 = false → reservedRange s c.ctx n (c.e[4]).toNat 256 = false →
        let e : Coefs := ⟨s.mem, n, c.coefbase.toNat * 4⟩
        let h0 (d i : Nat) : Val := if bits c.b.toNat 24 24 = 1 then .zero false else floatAt s.mem (H + 64 * d) i
        let out (d : Nat) := (if stepwise = true then scanStep else scanChunkOne) e (floatAt s.mem (key 1) d) (floatAt s.mem (key 0) d) (floatAt s.mem (key 2)) (floatAt s.mem (key 3)) (h0 d)
        ∃ u, exec .sscanExecution s = .next u ∧ ∀ d, d < 64 → peek u.mem (key 4 + 4 * d) 4 = near32 (out d).2 ∧ ∀ i, i < 16 → peek u.mem (H + 64 * d + 4 * i) 4 = near32 ((out d).1 i))
      ∧ (∀ data p, c.work = .row data → a.active = some p → classNum p.fmt = 1 → p.sparse = false → p.skind = 0 → leavesWindow (data.getD 4 0) 1024 = false →
        let head (r i : Nat) : Val := floatAt s.mem (storeAt n (data.getD 4 0) + 256 * r) i
        let row (j : Nat) : Val := decodeTerm p.fmt (elemAt 16 (data.getD (if p.fmt = 1 then 0 else 1) 0) j) unit
        let hid (col : Nat) : Val := dotOf (.zero false) 2 32 row (fun j => decodeTerm p.fmt (elemAt 16 (bytesVal (p.columns.getD col [])) j) unit)
        let h (col : Nat) : Val := if (hid col).isNan = true then hid col else maxX (hid col) (.zero false)
        let out (r : Nat) : Val := pairs 6 (fun col => rounded (mulVal (head r col) (h col)).1)
        let o (r : Nat) : Val := maxX (out r) (.zero false)
        let tau := rounded (mulVal (o 0) (addVal 0 (fmtF32.decode (data.getD 3 0)) (fmtF32.decode (data.getD 2 0)).neg).1).1
        let e : Coefs := ⟨s.mem, n, c.coefbase.toNat * 4⟩
        let x := recordBytes (data.getD 2 0) (data.getD 3 0) (near32 tau) (fun i => roundNe16 (mulVal (e.om tau) (o (i + 1))).1) (data.getD 5 0) (data.getD 6 0) 3
        let pf := BitVec.ofNat 4 (data.getD 7 0)
        let answers (ws : List RegWrite) : Prop := ∃ u, exec .deckleRowCommand s = .next u ∧ EndedBy s n 2 c k t { writes := ws } (fun _ => False) u ∧ (u.tile n).array = { a with fifo := (u.tile n).array.fifo }
        ((∃ r, r < 4 ∧ (out r).isNan = true) → answers (miss c.token pf))
        ∧ ((∀ r, r < 4 → (out r).isNan = false) → tau.isZero = true → answers (miss c.token pf))
        ∧ ((∀ r, r < 4 → (out r).isFinite = true) → Val.lt (.zero false) tau = true → notNegative (e.om tau) = true → (e.om tau).isFinite = true → (answerOf x).isSome = true → answers (hit c.token pf x))))
    ∧ (∀ fa fb : Format, Performing s n 1 c k t → c.work = .convert → bits (c.e[2]).toNat 55 32 = 1 → bits (c.e[2]).toNat 31 0 = 32 → bits (c.e[5]).toNat 1 0 = 0 → c.e[4] = 0 → formatOf c.descA = some fa → formatOf c.descB = some fb → fa.skind = 0 →
      let nb := 32 * codeBits fb.fmt / 8
      let scaleVa := c.bases / 2 ^ 64
      leavesWindow (c.e[0]).toNat (32 * codeBits fa.fmt / 8) = false → leavesWindow (c.e[1]).toNat nb = false → reservedRange s c.ctx n (c.e[1]).toNat nb = false →
      let dst := storeAt n (c.e[1]).toNat
      let x (i : Nat) : Val × Flags := decodeElem fa.fmt (elemAt (codeBits fa.fmt) (peek s.mem (storeAt n (c.e[0]).toNat) (32 * codeBits fa.fmt / 8)) i) (coverAt 0 [] 0)
      let writes (conv : Val → Nat × Flags) (scale : Nat → Prop) (fl : Flags) (more : State → Prop) : Prop :=
        ∃ u, exec .conversionExecution s = .next u
          ∧ EndedBy s n 1 c k t { writes := [.s c.token 0, .flags ((List.range 32).foldl (fun g i => g ||| (x i).2 ||| (conv (x i).1).2) fl)], acquire := some .device } (fun y => span dst nb y ∨ scale y) u
          ∧ (∀ i, i < 32 → elemAt (codeBits fb.fmt) (peek u.mem dst nb) i = (conv (x i).1).1 % 2 ^ codeBits fb.fmt) ∧ more u
      (∀ f, fb.fmt ≤ 2 → codeFmt fb.fmt = some f → writes (roundIeee f c.rmode) (fun _ => False) 0 (fun _ => True))
      ∧ (3 ≤ fb.fmt → fb.fmt ≤ 9 → fb.skind = 0 → writes (roundSatCode fb.fmt) (fun _ => False) 0 (fun _ => True))
      ∧ (∀ (top : ℚ) (code : Nat), 3 ≤ fb.fmt → fb.fmt ≤ 9 → fb.skind = 1 → leavesWindow scaleVa 1 = false → (storeAt n scaleVa < dst ∨ dst + nb ≤ storeAt n scaleVa) → reservedRange s c.ctx n scaleVa 1 = false →
        (∀ i, i < 32 → (x i).1.isFinite = true → |ratio (x i).1.toQ| ≤ top) → (top = 0 ∨ ∃ i, i < 32 ∧ (x i).1.isFinite = true ∧ |ratio (x i).1.toQ| = top) →
        (top = 0 → code = 0x7F) → (∀ m : Int, (2 : ℚ) ^ m ≤ top → top < (2 : ℚ) ^ (m + 1) → code = (min (max (m - emaxOf fb.fmt + 127) 0) 254).toNat) → 0 ≤ top →
        writes (fun v => encodeSat fb.fmt v (scaleOf 1 code)) (fun y => y = storeAt n scaleVa) 0 (fun u => Memory.read u.mem (storeAt n scaleVa) = BitVec.ofNat 8 code)))

/-- R344-R348, R370: the answers of the scene and texture instructions, where primitive, tables and descriptor lie in the local store and the L1 holds the texels. `TRI` answers where the ray's line meets the triangle inside it, by exact barycentric coordinates and edge ownership, with t in the ray's range; `SPLAT` with the
interval of 3 sigma about the peak; `VOLSEG` of one step with that step's depth and emission; each misses as its rule says. `DKL` raises MALFORMED_METADATA for a bad leaf, misses a box that the ray does not enter, and else hands the array the row of its features. `TEXL` and a `TEXS` that looks straight at the
surface give the bilinear sample, and a coordinate that is not finite the canonical NaN.
A `DKL` and a sample read the leaf or the descriptor first, from then on the words that they read next are among the request's, and they read those at a second arrival (log 54, DEDUCED).
A record that would not be valid is a miss in the model (log 46), of which nothing is said here; a row is pushed as log 54 says. -/
def Obligations.SceneAndTextureAnswers : Prop :=
  ∀ (s : State) (i k : Nat) (r : Req) (t : Thread) (ray : Quad) (rel : List Nat), s.canonical → Due s i r k t → r.acq = false → s.bad = [] → s.reqs = [(i, r)] → tileOf k = r.tile →
    let answers (ws : List RegWrite) : Prop := exec .requestArrival s = .next (performedWith s i k t r.op ws)
    let fails : Prop := ∀ o : PendOp, t.ops.find? (·.id = r.op) = some o → exec .requestArrival s = .next { s with
      reqs := mapDel i s.reqs
      threads := mapPut k (finished r.op { trap := some ⟨.malformedMetadata, o.pc, none, mod64 r.va, 0, true, o.insn, o.wide, false⟩ } (roused t)) s.threads }
    -- the first of two reads has been made, the next ones are known, and the instruction goes on with them
    let goesOn (x : Nat) (more : List (Nat × Nat) → Prop) : Prop := ∃ reads, exec .requestArrival s = .next { s with reqs := mapPut i { r with stage := .half x, spans := r.spans ++ reads } s.reqs } ∧ more reads
    (∀ (form : SceneForm) (y : Ray), r.stage = .sent → r.ask = .scene form ray rel → inWindow r.va = true → r.va % 64 = 0 → inWindow (r.va + form.size - 1) = true → r.spans = [(r.va, form.size)] →
      let b := peek s.mem (storeKey r r.va) form.size
      let e : Coefs := ⟨s.mem, r.tile, r.data⟩
      let vec (off j : Nat) : Val := f32v (bits b (8 * off + 32 * j + 31) (8 * off + 32 * j))
      let vecR (off j : Nat) : ℚ := ratio (vec off j).toQ
      let finite (off m : Nat) : Prop := ∀ j, j < m → (vec off j).isFinite = true
      let u16 (off : Nat) : Nat := bits b (8 * off + 15) (8 * off)
      let u32 (off : Nat) : Nat := bits b (8 * off + 31) (8 * off)
      (form ≠ .dkl → rayOf ray.toNat = none → answers (miss r.d r.pf))
      ∧ (rayOf ray.toNat = some y →
        let o := axesOf y.o
        let d := axesOf y.d
        let hits (x : Nat) : Prop := (answerOf x).isSome = true → answers (hit r.d r.pf x)
        (form = .tri → (∀ v ∈ y.d, v.isFinite = true) →
          let V (j : Nat) : Nat → ℚ := vecR (12 * (j % 3))
          let det := dotR d (crossR (minusR (V 1) (V 0)) (minusR (V 2) (V 0)))
          let lost : Prop := answers (miss r.d r.pf)
          (¬ (finite 0 3 ∧ finite 12 3 ∧ finite 24 3) → lost) ∧ (finite 0 3 → finite 12 3 → finite 24 3 →
            (det = 0 ∨ (bits b 400 400 = 1 ∧ 0 < det) → lost)
            ∧ (∀ (τ : ℚ) (w : Nat → ℚ), det ≠ 0 → ¬ (bits b 400 400 = 1 ∧ 0 < det) → w 0 + w 1 + w 2 = 1 → (∀ j, j < 3 → o j + τ * d j = w 0 * V 0 j + w 1 * V 1 j + w 2 * V 2 j) →
              let inside : Prop := ∀ j, j < 3 → 0 < w j ∨ (w j = 0 ∧ ownedR (V (j + 1)) (V (j + 2)))
              let inRange : Prop := Val.lt (real τ) (f32v y.tmin) = false ∧ Val.lt (f32v y.tmax) (real τ) = false
              (¬ (inside ∧ inRange) → lost)
              ∧ (inside → inRange → ∀ tau, (u16 40 = 0 → tau = 0) → (u16 40 = 0xFFFF → tau = infCode32) →
                (0 < u16 40 → u16 40 < 0xFFFF → Val.lt (.zero false) (rounded (mulVal (e.log2f (rounded (real (1 - (u16 40 : ℚ) / 65535)))).neg ln2).1) = true
                  ∧ tau = near32 (mulVal (e.log2f (rounded (real (1 - (u16 40 : ℚ) / 65535)))).neg ln2).1) →
                hits (recordBytes (near32 (real τ)) (near32 (real τ)) tau (fun j => roundNe16 (mulVal (real ((u16 40 : ℚ) / 65535)) (channelR b j)).1) (u16 42) (u32 36) 0)))))
        ∧ (form = .splat → (∀ v ∈ y.d, v.isFinite = true) →
          let q := vecR 12
          let m := minusR (vecR 0) o
          let aq := rounded (real (formR q d d))
          let bq := rounded (real (formR q d m))
          let cq := rounded (real (formR q m m))
          (¬ (finite 0 3 ∧ finite 12 6) ∨ u16 40 = 0 → answers (miss r.d r.pf))
          ∧ (finite 0 3 → finite 12 6 → u16 40 ≠ 0 →
            (¬ (aq.isFinite = true ∧ bq.isFinite = true ∧ cq.isFinite = true) ∨ Val.lt (.zero false) aq = false → answers (miss r.d r.pf))
            ∧ (aq.isFinite = true → bq.isFinite = true → cq.isFinite = true → Val.lt (.zero false) aq = true →
              let ts := rounded (divVal bq aq).1
              let sg := rounded (sqrtVal (divVal (real 9) aq).1).1
              let qq := maxX (rounded (addVal 0 cq (divVal (mulVal bq bq).1 aq).1.neg).1) (.zero false)
              let g := e.ex (rounded (divVal qq (real 2)).1)
              let al := minX (rounded (mulVal (real ((u16 40 : ℚ) / 65535)) g).1) (real 1)
              let t0 := maxX (rounded (addVal 0 ts sg.neg).1) (f32v y.tmin)
              let t1 := minX (rounded (addVal 0 ts sg).1) (f32v y.tmax)
              let keep := rounded (addVal 0 (real 1) al.neg).1
              let tau := rounded (mulVal (e.log2f keep).neg ln2).1
              ts.isFinite = true → sg.isFinite = true → qq.isFinite = true → al.isNan = false →
                (Val.lt al (real (1 / 256)) = true → answers (miss r.d r.pf))
                ∧ (Val.lt al (real (1 / 256)) = false → (¬ (t0.isFinite = true ∧ t1.isFinite = true) ∨ Val.lt t1 t0 = true → answers (miss r.d r.pf))
                  ∧ (t0.isFinite = true → t1.isFinite = true → Val.lt t1 t0 = false → (keep.isZero = true ∨ Val.lt (.zero false) tau = true) →
                    hits (recordBytes (near32 t0) (near32 t1) (if keep.isZero = true then infCode32 else near32 tau) (fun j => roundNe16 (mulVal al (channelR b j)).1) (u16 42) (u32 36) 1))))))
        ∧ (form = .volseg →
          let bad : Prop := ¬ (finite 0 5) ∨ Val.lt (.zero false) (vec 12 0) = false ∨ Val.lt (.zero false) (vec 16 0) = false
          (bad → answers (miss r.d r.pf))
          ∧ (¬ bad →
            let top (j : Nat) : Val := addX (vec 0 j) (mulX (natX 8) (vec 12 0))
            let box := boxTest y [vec 0 0, vec 0 1, vec 0 2] [top 0, top 1, top 2]
            (box = none → answers (miss r.d r.pf))
            ∧ ∀ ta tb, box = some (ta, tb) → (Val.eq (f32v ta) (f32v tb) = true → answers (miss r.d r.pf))
              ∧ (Val.lt (f32v ta) (f32v tb) = true → Val.lt (rounded (addVal 0 (f32v ta) (vec 16 0)).1) (f32v tb) = false →
                let tm := rounded (divVal (addVal 0 (f32v ta) (f32v tb)).1 (real 2)).1
                let at_ (j : Nat) : Val := rounded (addVal 0 (y.o.getD j (.zero false)) (mulVal tm (y.d.getD j (.zero false))).1).1
                let cell (j : Nat) : Nat := (min 7 (max 0 ⌊(ratio (at_ j).toQ - vecR 0 j) / vecR 12 0⌋)).toNat
                let at3 := cell 0 + 8 * cell 1 + 64 * cell 2
                let den := f16v (u16 (64 + 2 * at3))
                let rho := if den.isNan = true ∨ den.isNeg = true then .zero false else den
                let tau := if rho.isInf = true then rho else rounded (mulVal rho (addVal 0 (f32v tb) (f32v ta).neg).1).1
                let a := rounded (addVal 0 (.zero false) tau).1
                let em (j : Nat) : Nat :=
                  let x := f16v (u16 (1088 + 6 * at3 + 2 * j))
                  roundNe16 (rounded (addVal 0 (.zero false) (mulVal (mulVal (e.ex (.zero false)) (e.om tau)).1 (if x.isFinite = true ∧ x.isNeg = false then x else .zero false)).1).1)
                (∀ j, j < 3 → (at_ j).isFinite = true) → notNegative (e.om tau) = true → (e.om tau).isFinite = true →
                  (a.isZero = true → answers (miss r.d r.pf)) ∧ (Val.lt (.zero false) a = true → hits (recordBytes ta tb (near32 a) em (u16 24) (u32 20) 2))))))
      ∧ (form = .dkl → fieldLeaf b = none → fails)
      ∧ (∀ f, form = .dkl → fieldLeaf b = some f →
        (rayOf ray.toNat = none → answers (miss r.d r.pf))
        ∧ (rayOf ray.toNat = some y →
          (boxTest y f.lo f.hi = none → answers (miss r.d r.pf))
          ∧ ∀ ta tb, boxTest y f.lo f.hi = some (ta, tb) → (Val.eq (f32v ta) (f32v tb) = true → answers (miss r.d r.pf))
            ∧ (Val.lt (f32v ta) (f32v tb) = true →
              let g := deckleGrid f y ta tb
              goesOn b (fun reads => g.plain → ∀ l m, l < f.levels → m < 8 → (g.key l (g.index l m), 4) ∈ reads)))))
    ∧ (∀ (b : Nat) (f : FieldLeaf) (y : Ray) (ta tb : Nat), r.stage = .half b → r.ask = .scene .dkl ray rel → fieldLeaf b = some f → rayOf ray.toNat = some y → boxTest y f.lo f.hi = some (ta, tb) → Val.lt (f32v ta) (f32v tb) = true →
      rowMayPush s r = true →
      let g := deckleGrid f y ta tb
      let entry (l h x : Nat) : Val := f16v (peek s.mem (storeKey r (g.key l x) + 2 * h) 2)
      g.plain → (∀ l m, l < f.levels → m < 8 → inWindow (g.key l (g.index l m)) = true ∧ ∀ h, h < 2 → (entry l h (g.index l m)).isFinite = true) →
      ∃ (v : State) (c : EngineCmd) (data : List Nat), exec .requestArrival s = .next v ∧ v.mem = s.mem ∧ v.reqs = [] ∧ (v.tile r.tile).array.fifo = (s.tile r.tile).array.fifo ++ [c] ∧ v.accs = s.accs
        ∧ c.work = .row data ∧ c.op = r.op ∧ c.key = k ∧ c.token = r.d ∧ c.after = rel ∧ c.accepted = false ∧ data.drop 2 = [ta, tb, f.head, f.conf, f.src, r.pf.toNat]
        ∧ ∀ (half : Nat), half < 2 → ∀ l h, h < 2 → 2 * l + h < 64 →
          let x := elemAt 16 (data.getD half 0) (2 * l + h)
          let want := featureR (f.res.getD l 1) f.log g.u (fun x => ratio (entry l h x).toQ)
          (f.levels ≤ l → x = 0) ∧ (l < f.levels → (want = 0 → x % 2 ^ 15 = 0) ∧ (want ≠ 0 → x = (roundIeee (if half = 0 then fmtBf16 else fmtF16) 0 (real want)).1)))
    ∧ (∀ (linear : Bool) (q : Quad), r.ask = .texture linear q → inWindow r.va = true → r.va % 64 = 0 →
      let lane (x j : Nat) : Val := f32v (bits x (32 * j + 31) (32 * j))
      let un := lane q.toNat 0
      let vn := lane q.toNat 1
      -- the level at which the instruction makes its one sample
      let level (f : Surface) (l : Nat) : Prop := if linear = true then l = min (bits q.toNat 95 64) (f.levels - 1) else
        ∃ j : ℚ,
          let mn := ratio (lane q.toNat 7).toQ * |ratio (lane q.toNat 2).toQ|
          let n (a : Nat) : ℚ := ratio (lane q.toNat (4 + a)).toQ
          let d (a : Nat) : ℚ := ratio (lane r.data a).toQ
          (∀ a, a < 6 → (lane q.toNat (2 + a)).isFinite = true ∧ (lane r.data a).isFinite = true) ∧ ratio (lane q.toNat 3).toQ = 0 ∧ j ≠ 0 ∧ (∃ a, a < 3 ∧ n a ≠ 0) ∧ (∀ a, a < 3 → d a = j * n a) ∧ 0 < mn
            ∧ (mn < 1 → l = 0) ∧ (∀ m : Nat, (2 : ℚ) ^ m ≤ mn → mn < (2 : ℚ) ^ (m + 1) → l = min m (f.levels - 1))
      let size (f : Surface) : Nat := if f.fmt = 1 then 8 else 4
      let tap (f : Surface) (l a b : Nat) : Nat := tapAt f (f.level l) (ratio un.toQ) (ratio vn.toQ) a b
      (r.stage = .sent → r.spans = [(r.va, 64)] →
        let desc := peek s.mem (storeKey r r.va) 64
        (surfaceOf desc = none → fails)
        ∧ ∀ f l, surfaceOf desc = some f → level f l →
          (¬ (un.isFinite = true ∧ vn.isFinite = true) → answers [.v r.d (BitVec.ofNat 256 (colourOf (fun _ => 0x7FC00000) l 1))])
          ∧ (un.isFinite = true → vn.isFinite = true → goesOn desc (fun reads => ∀ a b, a < 2 → b < 2 → (tap f l a b, size f) ∈ reads)))
      ∧ (∀ desc f l, r.stage = .half desc → surfaceOf desc = some f → level f l → un.isFinite = true → vn.isFinite = true → ∀ texel : Nat → Nat,
        (∀ a b, a < 2 → b < 2 → inWindow (tap f l a b) = false ∧ ∃ x, l1Find s r.core r.ctx (tap f l a b) = some x ∧ x.read (tap f l a b) (size f) = texel (tap f l a b)) →
        (∀ a b ch, a < 2 → b < 2 → ch < 4 → (texelChannel f.fmt (texel (tap f l a b)) ch).isFinite = true) →
        ∃ col : Nat → Nat, answers [.v r.d (BitVec.ofNat 256 (colourOf col l 1))] ∧ ∀ ch, ch < 4 →
          let want := bilinear f (f.level l) (ratio un.toQ) (ratio vn.toQ) texel ch
          (want = 0 → col ch % 2 ^ 31 = 0) ∧ (want ≠ 0 → col ch = near32 (real want))))
end

