-- ==== Sys2Proof/Laws/Maps.lean ====
section
/-!
SUPPORT. Laws of the canonical maps and of memory: reading after a write, and that every operation keeps the canonical form.
-/

namespace Sys2Proof.Machine

/-! ### Reading after a change -/

@[simp] theorem mapGet_nil {α : Type} (k : Nat) : mapGet k ([] : NatMap α) = none := rfl

theorem mapGet_mapPut_same {α : Type} (k : Nat) (x : α) (m : NatMap α) : mapGet k (mapPut k x m) = some x := by
  induction m with
  | nil => simp [mapPut, mapGet]
  | cons p r ih =>
    obtain ⟨j, y⟩ := p
    simp only [mapPut]
    split
    · simp [mapGet]
    · split
      · simp [mapGet]
      · rename_i h1 h2
        have h3 : j ≠ k := fun h => h2 h.symm
        simp [mapGet, h3, h1, ih]

theorem mapGet_mapPut_other {α : Type} (k j : Nat) (x : α) (m : NatMap α) (h : k ≠ j) : mapGet k (mapPut j x m) = mapGet k m := by
  induction m with
  | nil =>
    have h' : j ≠ k := fun e => h e.symm
    simp [mapPut, mapGet, h']
  | cons p r ih =>
    obtain ⟨i, y⟩ := p
    have h' : j ≠ k := fun e => h e.symm
    by_cases h1 : j < i
    · by_cases h2 : k < j
      · have h3 : ¬ i = k := by omega
        have h4 : k < i := by omega
        simp [mapPut, mapGet, h1, h', h2, h3, h4]
      · simp [mapPut, mapGet, h1, h', h2]
    · by_cases h2 : j = i
      · subst h2
        by_cases h3 : k < j <;> simp [mapPut, mapGet, h', h3]
      · simp only [mapPut, h1, h2, if_false, mapGet, ih]

theorem mapPut_mapPut {α : Type} (k : Nat) (x y : α) (m : NatMap α) : mapPut k y (mapPut k x m) = mapPut k y m := by
  induction m with
  | nil => simp [mapPut]
  | cons p r ih =>
    obtain ⟨j, z⟩ := p
    by_cases h1 : k < j
    · simp [mapPut, h1]
    · by_cases h2 : k = j
      · simp [mapPut, h2]
      · simp [mapPut, h1, h2, ih]

/-! ### The canonical form -/

theorem keysRiseFrom_mono {α : Type} (lo : Nat) (m : NatMap α) (h : keysRiseFrom (some lo) m = true) : keysRiseFrom none m = true := by
  cases m with
  | nil => rfl
  | cons p r =>
    obtain ⟨j, x⟩ := p
    simp only [keysRiseFrom, Bool.and_eq_true] at h ⊢
    exact ⟨trivial, h.2⟩

theorem keysRiseFrom_lower {α : Type} (lo hi : Nat) (h : lo ≤ hi) (m : NatMap α) (hm : keysRiseFrom (some hi) m = true) : keysRiseFrom (some lo) m = true := by
  cases m with
  | nil => rfl
  | cons p r =>
    obtain ⟨j, x⟩ := p
    simp only [keysRiseFrom, Bool.and_eq_true, decide_eq_true_eq] at hm ⊢
    exact ⟨by omega, hm.2⟩

theorem keysRiseFrom_mapPut {α : Type} (k : Nat) (x : α) (m : NatMap α) (lo : Option Nat) (hlo : ∀ l, lo = some l → l < k)
    (h : keysRiseFrom lo m = true) : keysRiseFrom lo (mapPut k x m) = true := by
  induction m generalizing lo with
  | nil => cases lo <;> simp_all [mapPut, keysRiseFrom]
  | cons p r ih =>
    obtain ⟨j, y⟩ := p
    have hr : keysRiseFrom (some j) r = true := by cases lo <;> simp_all [keysRiseFrom]
    by_cases h1 : k < j
    · have : keysRiseFrom (some k) ((j, y) :: r) = true := by simp [keysRiseFrom, h1, hr]
      cases lo <;> simp_all [mapPut, keysRiseFrom]
    · by_cases h2 : k = j
      · subst h2
        cases lo <;> simp_all [mapPut, keysRiseFrom]
      · have h3 := ih (some j) (by intro l hl; cases hl; omega) hr
        rw [mapPut, if_neg h1, if_neg h2]
        cases lo <;> simp_all [keysRiseFrom]

theorem keysRiseFrom_mapDel {α : Type} (k : Nat) (m : NatMap α) (lo : Option Nat) (h : keysRiseFrom lo m = true) : keysRiseFrom lo (mapDel k m) = true := by
  induction m generalizing lo with
  | nil => exact h
  | cons p r ih =>
    obtain ⟨j, y⟩ := p
    have hr : keysRiseFrom (some j) r = true := by cases lo <;> simp_all [keysRiseFrom]
    simp only [mapDel]
    split
    · exact h
    · split
      · cases lo with
        | none => exact keysRiseFrom_mono j r hr
        | some l =>
          simp only [keysRiseFrom, Bool.and_eq_true, decide_eq_true_eq] at h
          exact keysRiseFrom_lower l j (by omega) r hr
      · have := ih (some j) hr
        cases lo <;> simp_all [keysRiseFrom]

@[simp] theorem keysRise_mapPut {α : Type} (k : Nat) (x : α) (m : NatMap α) (h : keysRise m = true) : keysRise (mapPut k x m) = true :=
  keysRiseFrom_mapPut k x m none (by intro l hl; cases hl) h

@[simp] theorem keysRise_mapDel {α : Type} (k : Nat) (m : NatMap α) (h : keysRise m = true) : keysRise (mapDel k m) = true :=
  keysRiseFrom_mapDel k m none h

@[simp] theorem keysRise_mapSet {α : Type} (k : Nat) (x : Option α) (m : NatMap α) (h : keysRise m = true) : keysRise (mapSet k x m) = true := by
  cases x <;> simp [mapSet, h]

/-- A key below every key of a rising map is absent. -/
theorem mapGet_below {α : Type} (k : Nat) (m : NatMap α) (h : keysRiseFrom (some k) m = true) : mapGet k m = none := by
  cases m with
  | nil => rfl
  | cons p r =>
    obtain ⟨j, y⟩ := p
    simp only [keysRiseFrom, Bool.and_eq_true, decide_eq_true_eq] at h
    have h1 : ¬ j = k := by omega
    simp [mapGet, h1, h.1]

theorem mapGet_mapDel_same {α : Type} (k : Nat) (m : NatMap α) (lo : Option Nat) (h : keysRiseFrom lo m = true) : mapGet k (mapDel k m) = none := by
  induction m generalizing lo with
  | nil => rfl
  | cons p r ih =>
    obtain ⟨j, y⟩ := p
    have hr : keysRiseFrom (some j) r = true := by cases lo <;> simp_all [keysRiseFrom]
    by_cases h1 : k < j
    · have h2 : ¬ j = k := by omega
      simp [mapDel, mapGet, h1, h2]
    · by_cases h2 : k = j
      · subst h2
        simpa [mapDel] using mapGet_below k r hr
      · have h3 : ¬ j = k := fun e => h2 e.symm
        simpa [mapDel, mapGet, h1, h2, h3] using ih (some j) hr

theorem mapGet_mapDel_other {α : Type} (k j : Nat) (m : NatMap α) (lo : Option Nat) (hm : keysRiseFrom lo m = true) (h : k ≠ j) :
    mapGet k (mapDel j m) = mapGet k m := by
  induction m generalizing lo with
  | nil => rfl
  | cons p r ih =>
    obtain ⟨i, y⟩ := p
    have hr : keysRiseFrom (some i) r = true := by cases lo <;> simp_all [keysRiseFrom]
    by_cases h1 : j < i
    · simp [mapDel, h1]
    · by_cases h2 : j = i
      · subst h2
        have h3 : ¬ j = k := fun e => h e.symm
        by_cases h4 : k < j
        · have := mapGet_below k r (keysRiseFrom_lower k j (by omega) r hr)
          simp [mapDel, mapGet, h3, h4, this]
        · simp [mapDel, mapGet, h3, h4]
      · simp [mapDel, mapGet, h1, h2, ih (some i) hr]

/-! ### Memory -/

/-- No entry of memory lists what an unlisted address reads as. -/
abbrev noBlank (m : List Host.Cell) : Bool := m.all (fun c => c.2 != Memory.blank)

theorem noBlank_mapPut (a : Nat) (b : Byte) (m : List Host.Cell) (hb : b ≠ Memory.blank) (h : noBlank m = true) : noBlank (mapPut a b m) = true := by
  induction m with
  | nil => simp [mapPut, noBlank, hb]
  | cons p r ih =>
    obtain ⟨j, y⟩ := p
    simp only [noBlank, List.all_cons, Bool.and_eq_true] at h
    simp only [mapPut]
    split
    · simp only [noBlank, List.all_cons, Bool.and_eq_true]
      exact ⟨by simpa using hb, h.1, h.2⟩
    · split
      · simp only [noBlank, List.all_cons, Bool.and_eq_true]
        exact ⟨by simpa using hb, h.2⟩
      · simp only [noBlank, List.all_cons, Bool.and_eq_true]
        exact ⟨h.1, ih h.2⟩

theorem noBlank_mapDel (a : Nat) (m : List Host.Cell) (h : noBlank m = true) : noBlank (mapDel a m) = true := by
  induction m with
  | nil => rfl
  | cons p r ih =>
    obtain ⟨j, y⟩ := p
    simp only [noBlank, List.all_cons, Bool.and_eq_true] at h
    simp only [mapDel]
    split
    · simp only [noBlank, List.all_cons, Bool.and_eq_true]
      exact ⟨h.1, h.2⟩
    · split
      · exact h.2
      · simp only [noBlank, List.all_cons, Bool.and_eq_true]
        exact ⟨h.1, ih h.2⟩

/-- Writing a byte keeps the canonical form of memory. -/
theorem Memory.wf_write (m : List Host.Cell) (a : Nat) (b : Byte) (h : Memory.wf m = true) : Memory.wf (Memory.write m a b) = true := by
  simp only [Memory.wf, Bool.and_eq_true] at h ⊢
  unfold Memory.write
  split
  · exact ⟨keysRise_mapDel a m h.1, noBlank_mapDel a m h.2⟩
  · exact ⟨keysRise_mapPut a b m h.1, noBlank_mapPut a b m ‹_› h.2⟩

/-- A read after a write to the same address gives the byte written. -/
theorem Memory.read_write_same (m : List Host.Cell) (a : Nat) (b : Byte) (h : Memory.wf m = true) : Memory.read (Memory.write m a b) a = b := by
  simp only [Memory.wf, Bool.and_eq_true] at h
  unfold Memory.write Memory.read
  split
  · rw [mapGet_mapDel_same a m none h.1]
    exact (‹b = Memory.blank›).symm
  · rw [mapGet_mapPut_same]
    rfl

/-- A write leaves every other address alone. -/
theorem Memory.read_write_other (m : List Host.Cell) (a c : Nat) (b : Byte) (h : Memory.wf m = true) (hc : c ≠ a) :
    Memory.read (Memory.write m a b) c = Memory.read m c := by
  simp only [Memory.wf, Bool.and_eq_true] at h
  unfold Memory.write Memory.read
  split
  · rw [mapGet_mapDel_other c a m none h.1 hc]
  · rw [mapGet_mapPut_other c a b m hc]

/-- Memory right after reset is canonical. -/
theorem Memory.wf_reset : Memory.wf State.reset.mem = true := rfl

end Sys2Proof.Machine
end

