-- ==== Sys2Proof/Laws/State.lean ====
section
/-!
SUPPORT. What each update of the state leaves in each field, and what each change of a thread's registers leaves in each field of the thread: one lemma per field, so that no later proof
unfolds a record update.
-/

namespace Sys2Proof.Machine

/-! ### Updates of the state -/

@[simp] theorem apply_byte_mem (a : Nat) (b : Byte) (s : State) : ((Effect.byte a b).apply s).mem = Memory.write s.mem a b := rfl
@[simp] theorem apply_byte_empties (a : Nat) (b : Byte) (s : State) : ((Effect.byte a b).apply s).empties = s.empties := rfl
@[simp] theorem apply_byte_bad (a : Nat) (b : Byte) (s : State) : ((Effect.byte a b).apply s).bad = s.bad := rfl
@[simp] theorem apply_byte_old (a : Nat) (b : Byte) (s : State) : ((Effect.byte a b).apply s).old = s.old := rfl
@[simp] theorem apply_byte_threads (a : Nat) (b : Byte) (s : State) : ((Effect.byte a b).apply s).threads = s.threads := rfl
@[simp] theorem apply_byte_starts (a : Nat) (b : Byte) (s : State) : ((Effect.byte a b).apply s).starts = s.starts := rfl
@[simp] theorem apply_byte_tiles (a : Nat) (b : Byte) (s : State) : ((Effect.byte a b).apply s).tiles = s.tiles := rfl
@[simp] theorem apply_byte_accs (a : Nat) (b : Byte) (s : State) : ((Effect.byte a b).apply s).accs = s.accs := rfl
@[simp] theorem apply_byte_cores (a : Nat) (b : Byte) (s : State) : ((Effect.byte a b).apply s).cores = s.cores := rfl
@[simp] theorem apply_byte_clusters (a : Nat) (b : Byte) (s : State) : ((Effect.byte a b).apply s).clusters = s.clusters := rfl
@[simp] theorem apply_byte_dies (a : Nat) (b : Byte) (s : State) : ((Effect.byte a b).apply s).dies = s.dies := rfl
@[simp] theorem apply_byte_contexts (a : Nat) (b : Byte) (s : State) : ((Effect.byte a b).apply s).contexts = s.contexts := rfl
@[simp] theorem apply_byte_queueSlots (a : Nat) (b : Byte) (s : State) : ((Effect.byte a b).apply s).queueSlots = s.queueSlots := rfl
@[simp] theorem apply_byte_peers (a : Nat) (b : Byte) (s : State) : ((Effect.byte a b).apply s).peers = s.peers := rfl
@[simp] theorem apply_byte_homes (a : Nat) (b : Byte) (s : State) : ((Effect.byte a b).apply s).homes = s.homes := rfl
@[simp] theorem apply_byte_arrivals (a : Nat) (b : Byte) (s : State) : ((Effect.byte a b).apply s).arrivals = s.arrivals := rfl
@[simp] theorem apply_byte_holds (a : Nat) (b : Byte) (s : State) : ((Effect.byte a b).apply s).holds = s.holds := rfl
@[simp] theorem apply_byte_reqs (a : Nat) (b : Byte) (s : State) : ((Effect.byte a b).apply s).reqs = s.reqs := rfl
@[simp] theorem apply_byte_tlb (a : Nat) (b : Byte) (s : State) : ((Effect.byte a b).apply s).tlb = s.tlb := rfl
@[simp] theorem apply_byte_granules (a : Nat) (b : Byte) (s : State) : ((Effect.byte a b).apply s).granules = s.granules := rfl
@[simp] theorem apply_byte_faults (a : Nat) (b : Byte) (s : State) : ((Effect.byte a b).apply s).faults = s.faults := rfl
@[simp] theorem apply_byte_wakes (a : Nat) (b : Byte) (s : State) : ((Effect.byte a b).apply s).wakes = s.wakes := rfl
@[simp] theorem apply_byte_migrants (a : Nat) (b : Byte) (s : State) : ((Effect.byte a b).apply s).migrants = s.migrants := rfl
@[simp] theorem apply_byte_crews (a : Nat) (b : Byte) (s : State) : ((Effect.byte a b).apply s).crews = s.crews := rfl
@[simp] theorem apply_byte_flasks (a : Nat) (b : Byte) (s : State) : ((Effect.byte a b).apply s).flasks = s.flasks := rfl
@[simp] theorem apply_byte_grids (a : Nat) (b : Byte) (s : State) : ((Effect.byte a b).apply s).grids = s.grids := rfl
@[simp] theorem apply_byte_jobs (a : Nat) (b : Byte) (s : State) : ((Effect.byte a b).apply s).jobs = s.jobs := rfl
@[simp] theorem apply_byte_gctxs (a : Nat) (b : Byte) (s : State) : ((Effect.byte a b).apply s).gctxs = s.gctxs := rfl
@[simp] theorem apply_byte_blends (a : Nat) (b : Byte) (s : State) : ((Effect.byte a b).apply s).blends = s.blends := rfl
@[simp] theorem apply_byte_replicas (a : Nat) (b : Byte) (s : State) : ((Effect.byte a b).apply s).replicas = s.replicas := rfl
@[simp] theorem apply_byte_mgmt (a : Nat) (b : Byte) (s : State) : ((Effect.byte a b).apply s).mgmt = s.mgmt := rfl
@[simp] theorem apply_byte_sent (a : Nat) (b : Byte) (s : State) : ((Effect.byte a b).apply s).sent = s.sent := rfl
@[simp] theorem apply_byte_cycle (a : Nat) (b : Byte) (s : State) : ((Effect.byte a b).apply s).cycle = s.cycle := rfl
@[simp] theorem apply_byte_agenda (a : Nat) (b : Byte) (s : State) : ((Effect.byte a b).apply s).agenda = s.agenda := rfl
@[simp] theorem apply_byte_input (a : Nat) (b : Byte) (s : State) : ((Effect.byte a b).apply s).input = s.input := rfl
@[simp] theorem apply_byte_cur (a : Nat) (b : Byte) (s : State) : ((Effect.byte a b).apply s).cur = s.cur := rfl
@[simp] theorem apply_byte_insn (a : Nat) (b : Byte) (s : State) : ((Effect.byte a b).apply s).insn = s.insn := rfl
@[simp] theorem apply_byte_phase (a : Nat) (b : Byte) (s : State) : ((Effect.byte a b).apply s).phase = s.phase := rfl
@[simp] theorem apply_byte_freeCtr (a : Nat) (b : Byte) (s : State) : ((Effect.byte a b).apply s).freeCtr = s.freeCtr := rfl
@[simp] theorem apply_byte_nextId (a : Nat) (b : Byte) (s : State) : ((Effect.byte a b).apply s).nextId = s.nextId := rfl
@[simp] theorem apply_empty_mem (w : Nat) (e : Bool) (s : State) : ((Effect.empty w e).apply s).mem = s.mem := rfl
@[simp] theorem apply_empty_empties (w : Nat) (e : Bool) (s : State) : ((Effect.empty w e).apply s).empties = if e then mapPut w () s.empties else mapDel w s.empties := rfl
@[simp] theorem apply_empty_bad (w : Nat) (e : Bool) (s : State) : ((Effect.empty w e).apply s).bad = s.bad := rfl
@[simp] theorem apply_empty_old (w : Nat) (e : Bool) (s : State) : ((Effect.empty w e).apply s).old = s.old := rfl
@[simp] theorem apply_empty_threads (w : Nat) (e : Bool) (s : State) : ((Effect.empty w e).apply s).threads = s.threads := rfl
@[simp] theorem apply_empty_starts (w : Nat) (e : Bool) (s : State) : ((Effect.empty w e).apply s).starts = s.starts := rfl
@[simp] theorem apply_empty_tiles (w : Nat) (e : Bool) (s : State) : ((Effect.empty w e).apply s).tiles = s.tiles := rfl
@[simp] theorem apply_empty_accs (w : Nat) (e : Bool) (s : State) : ((Effect.empty w e).apply s).accs = s.accs := rfl
@[simp] theorem apply_empty_cores (w : Nat) (e : Bool) (s : State) : ((Effect.empty w e).apply s).cores = s.cores := rfl
@[simp] theorem apply_empty_clusters (w : Nat) (e : Bool) (s : State) : ((Effect.empty w e).apply s).clusters = s.clusters := rfl
@[simp] theorem apply_empty_dies (w : Nat) (e : Bool) (s : State) : ((Effect.empty w e).apply s).dies = s.dies := rfl
@[simp] theorem apply_empty_contexts (w : Nat) (e : Bool) (s : State) : ((Effect.empty w e).apply s).contexts = s.contexts := rfl
@[simp] theorem apply_empty_queueSlots (w : Nat) (e : Bool) (s : State) : ((Effect.empty w e).apply s).queueSlots = s.queueSlots := rfl
@[simp] theorem apply_empty_peers (w : Nat) (e : Bool) (s : State) : ((Effect.empty w e).apply s).peers = s.peers := rfl
@[simp] theorem apply_empty_homes (w : Nat) (e : Bool) (s : State) : ((Effect.empty w e).apply s).homes = s.homes := rfl
@[simp] theorem apply_empty_arrivals (w : Nat) (e : Bool) (s : State) : ((Effect.empty w e).apply s).arrivals = s.arrivals := rfl
@[simp] theorem apply_empty_holds (w : Nat) (e : Bool) (s : State) : ((Effect.empty w e).apply s).holds = s.holds := rfl
@[simp] theorem apply_empty_reqs (w : Nat) (e : Bool) (s : State) : ((Effect.empty w e).apply s).reqs = s.reqs := rfl
@[simp] theorem apply_empty_tlb (w : Nat) (e : Bool) (s : State) : ((Effect.empty w e).apply s).tlb = s.tlb := rfl
@[simp] theorem apply_empty_granules (w : Nat) (e : Bool) (s : State) : ((Effect.empty w e).apply s).granules = s.granules := rfl
@[simp] theorem apply_empty_faults (w : Nat) (e : Bool) (s : State) : ((Effect.empty w e).apply s).faults = s.faults := rfl
@[simp] theorem apply_empty_wakes (w : Nat) (e : Bool) (s : State) : ((Effect.empty w e).apply s).wakes = s.wakes := rfl
@[simp] theorem apply_empty_migrants (w : Nat) (e : Bool) (s : State) : ((Effect.empty w e).apply s).migrants = s.migrants := rfl
@[simp] theorem apply_empty_crews (w : Nat) (e : Bool) (s : State) : ((Effect.empty w e).apply s).crews = s.crews := rfl
@[simp] theorem apply_empty_flasks (w : Nat) (e : Bool) (s : State) : ((Effect.empty w e).apply s).flasks = s.flasks := rfl
@[simp] theorem apply_empty_grids (w : Nat) (e : Bool) (s : State) : ((Effect.empty w e).apply s).grids = s.grids := rfl
@[simp] theorem apply_empty_jobs (w : Nat) (e : Bool) (s : State) : ((Effect.empty w e).apply s).jobs = s.jobs := rfl
@[simp] theorem apply_empty_gctxs (w : Nat) (e : Bool) (s : State) : ((Effect.empty w e).apply s).gctxs = s.gctxs := rfl
@[simp] theorem apply_empty_blends (w : Nat) (e : Bool) (s : State) : ((Effect.empty w e).apply s).blends = s.blends := rfl
@[simp] theorem apply_empty_replicas (w : Nat) (e : Bool) (s : State) : ((Effect.empty w e).apply s).replicas = s.replicas := rfl
@[simp] theorem apply_empty_mgmt (w : Nat) (e : Bool) (s : State) : ((Effect.empty w e).apply s).mgmt = s.mgmt := rfl
@[simp] theorem apply_empty_sent (w : Nat) (e : Bool) (s : State) : ((Effect.empty w e).apply s).sent = s.sent := rfl
@[simp] theorem apply_empty_cycle (w : Nat) (e : Bool) (s : State) : ((Effect.empty w e).apply s).cycle = s.cycle := rfl
@[simp] theorem apply_empty_agenda (w : Nat) (e : Bool) (s : State) : ((Effect.empty w e).apply s).agenda = s.agenda := rfl
@[simp] theorem apply_empty_input (w : Nat) (e : Bool) (s : State) : ((Effect.empty w e).apply s).input = s.input := rfl
@[simp] theorem apply_empty_cur (w : Nat) (e : Bool) (s : State) : ((Effect.empty w e).apply s).cur = s.cur := rfl
@[simp] theorem apply_empty_insn (w : Nat) (e : Bool) (s : State) : ((Effect.empty w e).apply s).insn = s.insn := rfl
@[simp] theorem apply_empty_phase (w : Nat) (e : Bool) (s : State) : ((Effect.empty w e).apply s).phase = s.phase := rfl
@[simp] theorem apply_empty_freeCtr (w : Nat) (e : Bool) (s : State) : ((Effect.empty w e).apply s).freeCtr = s.freeCtr := rfl
@[simp] theorem apply_empty_nextId (w : Nat) (e : Bool) (s : State) : ((Effect.empty w e).apply s).nextId = s.nextId := rfl
@[simp] theorem apply_bad_mem (w : Nat) (source : Option Nat) (s : State) : ((Effect.bad w source).apply s).mem = s.mem := rfl
@[simp] theorem apply_bad_empties (w : Nat) (source : Option Nat) (s : State) : ((Effect.bad w source).apply s).empties = s.empties := rfl
@[simp] theorem apply_bad_bad (w : Nat) (source : Option Nat) (s : State) : ((Effect.bad w source).apply s).bad = mapSet w source s.bad := rfl
@[simp] theorem apply_bad_old (w : Nat) (source : Option Nat) (s : State) : ((Effect.bad w source).apply s).old = s.old := rfl
@[simp] theorem apply_bad_threads (w : Nat) (source : Option Nat) (s : State) : ((Effect.bad w source).apply s).threads = s.threads := rfl
@[simp] theorem apply_bad_starts (w : Nat) (source : Option Nat) (s : State) : ((Effect.bad w source).apply s).starts = s.starts := rfl
@[simp] theorem apply_bad_tiles (w : Nat) (source : Option Nat) (s : State) : ((Effect.bad w source).apply s).tiles = s.tiles := rfl
@[simp] theorem apply_bad_accs (w : Nat) (source : Option Nat) (s : State) : ((Effect.bad w source).apply s).accs = s.accs := rfl
@[simp] theorem apply_bad_cores (w : Nat) (source : Option Nat) (s : State) : ((Effect.bad w source).apply s).cores = s.cores := rfl
@[simp] theorem apply_bad_clusters (w : Nat) (source : Option Nat) (s : State) : ((Effect.bad w source).apply s).clusters = s.clusters := rfl
@[simp] theorem apply_bad_dies (w : Nat) (source : Option Nat) (s : State) : ((Effect.bad w source).apply s).dies = s.dies := rfl
@[simp] theorem apply_bad_contexts (w : Nat) (source : Option Nat) (s : State) : ((Effect.bad w source).apply s).contexts = s.contexts := rfl
@[simp] theorem apply_bad_queueSlots (w : Nat) (source : Option Nat) (s : State) : ((Effect.bad w source).apply s).queueSlots = s.queueSlots := rfl
@[simp] theorem apply_bad_peers (w : Nat) (source : Option Nat) (s : State) : ((Effect.bad w source).apply s).peers = s.peers := rfl
@[simp] theorem apply_bad_homes (w : Nat) (source : Option Nat) (s : State) : ((Effect.bad w source).apply s).homes = s.homes := rfl
@[simp] theorem apply_bad_arrivals (w : Nat) (source : Option Nat) (s : State) : ((Effect.bad w source).apply s).arrivals = s.arrivals := rfl
@[simp] theorem apply_bad_holds (w : Nat) (source : Option Nat) (s : State) : ((Effect.bad w source).apply s).holds = s.holds := rfl
@[simp] theorem apply_bad_reqs (w : Nat) (source : Option Nat) (s : State) : ((Effect.bad w source).apply s).reqs = s.reqs := rfl
@[simp] theorem apply_bad_tlb (w : Nat) (source : Option Nat) (s : State) : ((Effect.bad w source).apply s).tlb = s.tlb := rfl
@[simp] theorem apply_bad_granules (w : Nat) (source : Option Nat) (s : State) : ((Effect.bad w source).apply s).granules = s.granules := rfl
@[simp] theorem apply_bad_faults (w : Nat) (source : Option Nat) (s : State) : ((Effect.bad w source).apply s).faults = s.faults := rfl
@[simp] theorem apply_bad_wakes (w : Nat) (source : Option Nat) (s : State) : ((Effect.bad w source).apply s).wakes = s.wakes := rfl
@[simp] theorem apply_bad_migrants (w : Nat) (source : Option Nat) (s : State) : ((Effect.bad w source).apply s).migrants = s.migrants := rfl
@[simp] theorem apply_bad_crews (w : Nat) (source : Option Nat) (s : State) : ((Effect.bad w source).apply s).crews = s.crews := rfl
@[simp] theorem apply_bad_flasks (w : Nat) (source : Option Nat) (s : State) : ((Effect.bad w source).apply s).flasks = s.flasks := rfl
@[simp] theorem apply_bad_grids (w : Nat) (source : Option Nat) (s : State) : ((Effect.bad w source).apply s).grids = s.grids := rfl
@[simp] theorem apply_bad_jobs (w : Nat) (source : Option Nat) (s : State) : ((Effect.bad w source).apply s).jobs = s.jobs := rfl
@[simp] theorem apply_bad_gctxs (w : Nat) (source : Option Nat) (s : State) : ((Effect.bad w source).apply s).gctxs = s.gctxs := rfl
@[simp] theorem apply_bad_blends (w : Nat) (source : Option Nat) (s : State) : ((Effect.bad w source).apply s).blends = s.blends := rfl
@[simp] theorem apply_bad_replicas (w : Nat) (source : Option Nat) (s : State) : ((Effect.bad w source).apply s).replicas = s.replicas := rfl
@[simp] theorem apply_bad_mgmt (w : Nat) (source : Option Nat) (s : State) : ((Effect.bad w source).apply s).mgmt = s.mgmt := rfl
@[simp] theorem apply_bad_sent (w : Nat) (source : Option Nat) (s : State) : ((Effect.bad w source).apply s).sent = s.sent := rfl
@[simp] theorem apply_bad_cycle (w : Nat) (source : Option Nat) (s : State) : ((Effect.bad w source).apply s).cycle = s.cycle := rfl
@[simp] theorem apply_bad_agenda (w : Nat) (source : Option Nat) (s : State) : ((Effect.bad w source).apply s).agenda = s.agenda := rfl
@[simp] theorem apply_bad_input (w : Nat) (source : Option Nat) (s : State) : ((Effect.bad w source).apply s).input = s.input := rfl
@[simp] theorem apply_bad_cur (w : Nat) (source : Option Nat) (s : State) : ((Effect.bad w source).apply s).cur = s.cur := rfl
@[simp] theorem apply_bad_insn (w : Nat) (source : Option Nat) (s : State) : ((Effect.bad w source).apply s).insn = s.insn := rfl
@[simp] theorem apply_bad_phase (w : Nat) (source : Option Nat) (s : State) : ((Effect.bad w source).apply s).phase = s.phase := rfl
@[simp] theorem apply_bad_freeCtr (w : Nat) (source : Option Nat) (s : State) : ((Effect.bad w source).apply s).freeCtr = s.freeCtr := rfl
@[simp] theorem apply_bad_nextId (w : Nat) (source : Option Nat) (s : State) : ((Effect.bad w source).apply s).nextId = s.nextId := rfl
@[simp] theorem apply_old_mem (w : Nat) (l : List (Nat × BitVec 16)) (s : State) : ((Effect.old w l).apply s).mem = s.mem := rfl
@[simp] theorem apply_old_empties (w : Nat) (l : List (Nat × BitVec 16)) (s : State) : ((Effect.old w l).apply s).empties = s.empties := rfl
@[simp] theorem apply_old_bad (w : Nat) (l : List (Nat × BitVec 16)) (s : State) : ((Effect.old w l).apply s).bad = s.bad := rfl
@[simp] theorem apply_old_old (w : Nat) (l : List (Nat × BitVec 16)) (s : State) : ((Effect.old w l).apply s).old = mapPut w l s.old := rfl
@[simp] theorem apply_old_threads (w : Nat) (l : List (Nat × BitVec 16)) (s : State) : ((Effect.old w l).apply s).threads = s.threads := rfl
@[simp] theorem apply_old_starts (w : Nat) (l : List (Nat × BitVec 16)) (s : State) : ((Effect.old w l).apply s).starts = s.starts := rfl
@[simp] theorem apply_old_tiles (w : Nat) (l : List (Nat × BitVec 16)) (s : State) : ((Effect.old w l).apply s).tiles = s.tiles := rfl
@[simp] theorem apply_old_accs (w : Nat) (l : List (Nat × BitVec 16)) (s : State) : ((Effect.old w l).apply s).accs = s.accs := rfl
@[simp] theorem apply_old_cores (w : Nat) (l : List (Nat × BitVec 16)) (s : State) : ((Effect.old w l).apply s).cores = s.cores := rfl
@[simp] theorem apply_old_clusters (w : Nat) (l : List (Nat × BitVec 16)) (s : State) : ((Effect.old w l).apply s).clusters = s.clusters := rfl
@[simp] theorem apply_old_dies (w : Nat) (l : List (Nat × BitVec 16)) (s : State) : ((Effect.old w l).apply s).dies = s.dies := rfl
@[simp] theorem apply_old_contexts (w : Nat) (l : List (Nat × BitVec 16)) (s : State) : ((Effect.old w l).apply s).contexts = s.contexts := rfl
@[simp] theorem apply_old_queueSlots (w : Nat) (l : List (Nat × BitVec 16)) (s : State) : ((Effect.old w l).apply s).queueSlots = s.queueSlots := rfl
@[simp] theorem apply_old_peers (w : Nat) (l : List (Nat × BitVec 16)) (s : State) : ((Effect.old w l).apply s).peers = s.peers := rfl
@[simp] theorem apply_old_homes (w : Nat) (l : List (Nat × BitVec 16)) (s : State) : ((Effect.old w l).apply s).homes = s.homes := rfl
@[simp] theorem apply_old_arrivals (w : Nat) (l : List (Nat × BitVec 16)) (s : State) : ((Effect.old w l).apply s).arrivals = s.arrivals := rfl
@[simp] theorem apply_old_holds (w : Nat) (l : List (Nat × BitVec 16)) (s : State) : ((Effect.old w l).apply s).holds = s.holds := rfl
@[simp] theorem apply_old_reqs (w : Nat) (l : List (Nat × BitVec 16)) (s : State) : ((Effect.old w l).apply s).reqs = s.reqs := rfl
@[simp] theorem apply_old_tlb (w : Nat) (l : List (Nat × BitVec 16)) (s : State) : ((Effect.old w l).apply s).tlb = s.tlb := rfl
@[simp] theorem apply_old_granules (w : Nat) (l : List (Nat × BitVec 16)) (s : State) : ((Effect.old w l).apply s).granules = s.granules := rfl
@[simp] theorem apply_old_faults (w : Nat) (l : List (Nat × BitVec 16)) (s : State) : ((Effect.old w l).apply s).faults = s.faults := rfl
@[simp] theorem apply_old_wakes (w : Nat) (l : List (Nat × BitVec 16)) (s : State) : ((Effect.old w l).apply s).wakes = s.wakes := rfl
@[simp] theorem apply_old_migrants (w : Nat) (l : List (Nat × BitVec 16)) (s : State) : ((Effect.old w l).apply s).migrants = s.migrants := rfl
@[simp] theorem apply_old_crews (w : Nat) (l : List (Nat × BitVec 16)) (s : State) : ((Effect.old w l).apply s).crews = s.crews := rfl
@[simp] theorem apply_old_flasks (w : Nat) (l : List (Nat × BitVec 16)) (s : State) : ((Effect.old w l).apply s).flasks = s.flasks := rfl
@[simp] theorem apply_old_grids (w : Nat) (l : List (Nat × BitVec 16)) (s : State) : ((Effect.old w l).apply s).grids = s.grids := rfl
@[simp] theorem apply_old_jobs (w : Nat) (l : List (Nat × BitVec 16)) (s : State) : ((Effect.old w l).apply s).jobs = s.jobs := rfl
@[simp] theorem apply_old_gctxs (w : Nat) (l : List (Nat × BitVec 16)) (s : State) : ((Effect.old w l).apply s).gctxs = s.gctxs := rfl
@[simp] theorem apply_old_blends (w : Nat) (l : List (Nat × BitVec 16)) (s : State) : ((Effect.old w l).apply s).blends = s.blends := rfl
@[simp] theorem apply_old_replicas (w : Nat) (l : List (Nat × BitVec 16)) (s : State) : ((Effect.old w l).apply s).replicas = s.replicas := rfl
@[simp] theorem apply_old_mgmt (w : Nat) (l : List (Nat × BitVec 16)) (s : State) : ((Effect.old w l).apply s).mgmt = s.mgmt := rfl
@[simp] theorem apply_old_sent (w : Nat) (l : List (Nat × BitVec 16)) (s : State) : ((Effect.old w l).apply s).sent = s.sent := rfl
@[simp] theorem apply_old_cycle (w : Nat) (l : List (Nat × BitVec 16)) (s : State) : ((Effect.old w l).apply s).cycle = s.cycle := rfl
@[simp] theorem apply_old_agenda (w : Nat) (l : List (Nat × BitVec 16)) (s : State) : ((Effect.old w l).apply s).agenda = s.agenda := rfl
@[simp] theorem apply_old_input (w : Nat) (l : List (Nat × BitVec 16)) (s : State) : ((Effect.old w l).apply s).input = s.input := rfl
@[simp] theorem apply_old_cur (w : Nat) (l : List (Nat × BitVec 16)) (s : State) : ((Effect.old w l).apply s).cur = s.cur := rfl
@[simp] theorem apply_old_insn (w : Nat) (l : List (Nat × BitVec 16)) (s : State) : ((Effect.old w l).apply s).insn = s.insn := rfl
@[simp] theorem apply_old_phase (w : Nat) (l : List (Nat × BitVec 16)) (s : State) : ((Effect.old w l).apply s).phase = s.phase := rfl
@[simp] theorem apply_old_freeCtr (w : Nat) (l : List (Nat × BitVec 16)) (s : State) : ((Effect.old w l).apply s).freeCtr = s.freeCtr := rfl
@[simp] theorem apply_old_nextId (w : Nat) (l : List (Nat × BitVec 16)) (s : State) : ((Effect.old w l).apply s).nextId = s.nextId := rfl
@[simp] theorem apply_thread_mem (k : Nat) (t : Option Thread) (s : State) : ((Effect.thread k t).apply s).mem = s.mem := rfl
@[simp] theorem apply_thread_empties (k : Nat) (t : Option Thread) (s : State) : ((Effect.thread k t).apply s).empties = s.empties := rfl
@[simp] theorem apply_thread_bad (k : Nat) (t : Option Thread) (s : State) : ((Effect.thread k t).apply s).bad = s.bad := rfl
@[simp] theorem apply_thread_old (k : Nat) (t : Option Thread) (s : State) : ((Effect.thread k t).apply s).old = s.old := rfl
@[simp] theorem apply_thread_threads (k : Nat) (t : Option Thread) (s : State) : ((Effect.thread k t).apply s).threads = mapSet k t s.threads := rfl
@[simp] theorem apply_thread_starts (k : Nat) (t : Option Thread) (s : State) : ((Effect.thread k t).apply s).starts = s.starts := rfl
@[simp] theorem apply_thread_tiles (k : Nat) (t : Option Thread) (s : State) : ((Effect.thread k t).apply s).tiles = s.tiles := rfl
@[simp] theorem apply_thread_accs (k : Nat) (t : Option Thread) (s : State) : ((Effect.thread k t).apply s).accs = s.accs := rfl
@[simp] theorem apply_thread_cores (k : Nat) (t : Option Thread) (s : State) : ((Effect.thread k t).apply s).cores = s.cores := rfl
@[simp] theorem apply_thread_clusters (k : Nat) (t : Option Thread) (s : State) : ((Effect.thread k t).apply s).clusters = s.clusters := rfl
@[simp] theorem apply_thread_dies (k : Nat) (t : Option Thread) (s : State) : ((Effect.thread k t).apply s).dies = s.dies := rfl
@[simp] theorem apply_thread_contexts (k : Nat) (t : Option Thread) (s : State) : ((Effect.thread k t).apply s).contexts = s.contexts := rfl
@[simp] theorem apply_thread_queueSlots (k : Nat) (t : Option Thread) (s : State) : ((Effect.thread k t).apply s).queueSlots = s.queueSlots := rfl
@[simp] theorem apply_thread_peers (k : Nat) (t : Option Thread) (s : State) : ((Effect.thread k t).apply s).peers = s.peers := rfl
@[simp] theorem apply_thread_homes (k : Nat) (t : Option Thread) (s : State) : ((Effect.thread k t).apply s).homes = s.homes := rfl
@[simp] theorem apply_thread_arrivals (k : Nat) (t : Option Thread) (s : State) : ((Effect.thread k t).apply s).arrivals = s.arrivals := rfl
@[simp] theorem apply_thread_holds (k : Nat) (t : Option Thread) (s : State) : ((Effect.thread k t).apply s).holds = s.holds := rfl
@[simp] theorem apply_thread_reqs (k : Nat) (t : Option Thread) (s : State) : ((Effect.thread k t).apply s).reqs = s.reqs := rfl
@[simp] theorem apply_thread_tlb (k : Nat) (t : Option Thread) (s : State) : ((Effect.thread k t).apply s).tlb = s.tlb := rfl
@[simp] theorem apply_thread_granules (k : Nat) (t : Option Thread) (s : State) : ((Effect.thread k t).apply s).granules = s.granules := rfl
@[simp] theorem apply_thread_faults (k : Nat) (t : Option Thread) (s : State) : ((Effect.thread k t).apply s).faults = s.faults := rfl
@[simp] theorem apply_thread_wakes (k : Nat) (t : Option Thread) (s : State) : ((Effect.thread k t).apply s).wakes = s.wakes := rfl
@[simp] theorem apply_thread_migrants (k : Nat) (t : Option Thread) (s : State) : ((Effect.thread k t).apply s).migrants = s.migrants := rfl
@[simp] theorem apply_thread_crews (k : Nat) (t : Option Thread) (s : State) : ((Effect.thread k t).apply s).crews = s.crews := rfl
@[simp] theorem apply_thread_flasks (k : Nat) (t : Option Thread) (s : State) : ((Effect.thread k t).apply s).flasks = s.flasks := rfl
@[simp] theorem apply_thread_grids (k : Nat) (t : Option Thread) (s : State) : ((Effect.thread k t).apply s).grids = s.grids := rfl
@[simp] theorem apply_thread_jobs (k : Nat) (t : Option Thread) (s : State) : ((Effect.thread k t).apply s).jobs = s.jobs := rfl
@[simp] theorem apply_thread_gctxs (k : Nat) (t : Option Thread) (s : State) : ((Effect.thread k t).apply s).gctxs = s.gctxs := rfl
@[simp] theorem apply_thread_blends (k : Nat) (t : Option Thread) (s : State) : ((Effect.thread k t).apply s).blends = s.blends := rfl
@[simp] theorem apply_thread_replicas (k : Nat) (t : Option Thread) (s : State) : ((Effect.thread k t).apply s).replicas = s.replicas := rfl
@[simp] theorem apply_thread_mgmt (k : Nat) (t : Option Thread) (s : State) : ((Effect.thread k t).apply s).mgmt = s.mgmt := rfl
@[simp] theorem apply_thread_sent (k : Nat) (t : Option Thread) (s : State) : ((Effect.thread k t).apply s).sent = s.sent := rfl
@[simp] theorem apply_thread_cycle (k : Nat) (t : Option Thread) (s : State) : ((Effect.thread k t).apply s).cycle = s.cycle := rfl
@[simp] theorem apply_thread_agenda (k : Nat) (t : Option Thread) (s : State) : ((Effect.thread k t).apply s).agenda = s.agenda := rfl
@[simp] theorem apply_thread_input (k : Nat) (t : Option Thread) (s : State) : ((Effect.thread k t).apply s).input = s.input := rfl
@[simp] theorem apply_thread_cur (k : Nat) (t : Option Thread) (s : State) : ((Effect.thread k t).apply s).cur = s.cur := rfl
@[simp] theorem apply_thread_insn (k : Nat) (t : Option Thread) (s : State) : ((Effect.thread k t).apply s).insn = s.insn := rfl
@[simp] theorem apply_thread_phase (k : Nat) (t : Option Thread) (s : State) : ((Effect.thread k t).apply s).phase = s.phase := rfl
@[simp] theorem apply_thread_freeCtr (k : Nat) (t : Option Thread) (s : State) : ((Effect.thread k t).apply s).freeCtr = s.freeCtr := rfl
@[simp] theorem apply_thread_nextId (k : Nat) (t : Option Thread) (s : State) : ((Effect.thread k t).apply s).nextId = s.nextId := rfl
@[simp] theorem apply_start_mem (k : Nat) (n : BitVec 8) (s : State) : ((Effect.start k n).apply s).mem = s.mem := rfl
@[simp] theorem apply_start_empties (k : Nat) (n : BitVec 8) (s : State) : ((Effect.start k n).apply s).empties = s.empties := rfl
@[simp] theorem apply_start_bad (k : Nat) (n : BitVec 8) (s : State) : ((Effect.start k n).apply s).bad = s.bad := rfl
@[simp] theorem apply_start_old (k : Nat) (n : BitVec 8) (s : State) : ((Effect.start k n).apply s).old = s.old := rfl
@[simp] theorem apply_start_threads (k : Nat) (n : BitVec 8) (s : State) : ((Effect.start k n).apply s).threads = s.threads := rfl
@[simp] theorem apply_start_starts (k : Nat) (n : BitVec 8) (s : State) : ((Effect.start k n).apply s).starts = mapPut k n s.starts := rfl
@[simp] theorem apply_start_tiles (k : Nat) (n : BitVec 8) (s : State) : ((Effect.start k n).apply s).tiles = s.tiles := rfl
@[simp] theorem apply_start_accs (k : Nat) (n : BitVec 8) (s : State) : ((Effect.start k n).apply s).accs = s.accs := rfl
@[simp] theorem apply_start_cores (k : Nat) (n : BitVec 8) (s : State) : ((Effect.start k n).apply s).cores = s.cores := rfl
@[simp] theorem apply_start_clusters (k : Nat) (n : BitVec 8) (s : State) : ((Effect.start k n).apply s).clusters = s.clusters := rfl
@[simp] theorem apply_start_dies (k : Nat) (n : BitVec 8) (s : State) : ((Effect.start k n).apply s).dies = s.dies := rfl
@[simp] theorem apply_start_contexts (k : Nat) (n : BitVec 8) (s : State) : ((Effect.start k n).apply s).contexts = s.contexts := rfl
@[simp] theorem apply_start_queueSlots (k : Nat) (n : BitVec 8) (s : State) : ((Effect.start k n).apply s).queueSlots = s.queueSlots := rfl
@[simp] theorem apply_start_peers (k : Nat) (n : BitVec 8) (s : State) : ((Effect.start k n).apply s).peers = s.peers := rfl
@[simp] theorem apply_start_homes (k : Nat) (n : BitVec 8) (s : State) : ((Effect.start k n).apply s).homes = s.homes := rfl
@[simp] theorem apply_start_arrivals (k : Nat) (n : BitVec 8) (s : State) : ((Effect.start k n).apply s).arrivals = s.arrivals := rfl
@[simp] theorem apply_start_holds (k : Nat) (n : BitVec 8) (s : State) : ((Effect.start k n).apply s).holds = s.holds := rfl
@[simp] theorem apply_start_reqs (k : Nat) (n : BitVec 8) (s : State) : ((Effect.start k n).apply s).reqs = s.reqs := rfl
@[simp] theorem apply_start_tlb (k : Nat) (n : BitVec 8) (s : State) : ((Effect.start k n).apply s).tlb = s.tlb := rfl
@[simp] theorem apply_start_granules (k : Nat) (n : BitVec 8) (s : State) : ((Effect.start k n).apply s).granules = s.granules := rfl
@[simp] theorem apply_start_faults (k : Nat) (n : BitVec 8) (s : State) : ((Effect.start k n).apply s).faults = s.faults := rfl
@[simp] theorem apply_start_wakes (k : Nat) (n : BitVec 8) (s : State) : ((Effect.start k n).apply s).wakes = s.wakes := rfl
@[simp] theorem apply_start_migrants (k : Nat) (n : BitVec 8) (s : State) : ((Effect.start k n).apply s).migrants = s.migrants := rfl
@[simp] theorem apply_start_crews (k : Nat) (n : BitVec 8) (s : State) : ((Effect.start k n).apply s).crews = s.crews := rfl
@[simp] theorem apply_start_flasks (k : Nat) (n : BitVec 8) (s : State) : ((Effect.start k n).apply s).flasks = s.flasks := rfl
@[simp] theorem apply_start_grids (k : Nat) (n : BitVec 8) (s : State) : ((Effect.start k n).apply s).grids = s.grids := rfl
@[simp] theorem apply_start_jobs (k : Nat) (n : BitVec 8) (s : State) : ((Effect.start k n).apply s).jobs = s.jobs := rfl
@[simp] theorem apply_start_gctxs (k : Nat) (n : BitVec 8) (s : State) : ((Effect.start k n).apply s).gctxs = s.gctxs := rfl
@[simp] theorem apply_start_blends (k : Nat) (n : BitVec 8) (s : State) : ((Effect.start k n).apply s).blends = s.blends := rfl
@[simp] theorem apply_start_replicas (k : Nat) (n : BitVec 8) (s : State) : ((Effect.start k n).apply s).replicas = s.replicas := rfl
@[simp] theorem apply_start_mgmt (k : Nat) (n : BitVec 8) (s : State) : ((Effect.start k n).apply s).mgmt = s.mgmt := rfl
@[simp] theorem apply_start_sent (k : Nat) (n : BitVec 8) (s : State) : ((Effect.start k n).apply s).sent = s.sent := rfl
@[simp] theorem apply_start_cycle (k : Nat) (n : BitVec 8) (s : State) : ((Effect.start k n).apply s).cycle = s.cycle := rfl
@[simp] theorem apply_start_agenda (k : Nat) (n : BitVec 8) (s : State) : ((Effect.start k n).apply s).agenda = s.agenda := rfl
@[simp] theorem apply_start_input (k : Nat) (n : BitVec 8) (s : State) : ((Effect.start k n).apply s).input = s.input := rfl
@[simp] theorem apply_start_cur (k : Nat) (n : BitVec 8) (s : State) : ((Effect.start k n).apply s).cur = s.cur := rfl
@[simp] theorem apply_start_insn (k : Nat) (n : BitVec 8) (s : State) : ((Effect.start k n).apply s).insn = s.insn := rfl
@[simp] theorem apply_start_phase (k : Nat) (n : BitVec 8) (s : State) : ((Effect.start k n).apply s).phase = s.phase := rfl
@[simp] theorem apply_start_freeCtr (k : Nat) (n : BitVec 8) (s : State) : ((Effect.start k n).apply s).freeCtr = s.freeCtr := rfl
@[simp] theorem apply_start_nextId (k : Nat) (n : BitVec 8) (s : State) : ((Effect.start k n).apply s).nextId = s.nextId := rfl
@[simp] theorem apply_tile_mem (n : Nat) (t : Tile) (s : State) : ((Effect.tile n t).apply s).mem = s.mem := rfl
@[simp] theorem apply_tile_empties (n : Nat) (t : Tile) (s : State) : ((Effect.tile n t).apply s).empties = s.empties := rfl
@[simp] theorem apply_tile_bad (n : Nat) (t : Tile) (s : State) : ((Effect.tile n t).apply s).bad = s.bad := rfl
@[simp] theorem apply_tile_old (n : Nat) (t : Tile) (s : State) : ((Effect.tile n t).apply s).old = s.old := rfl
@[simp] theorem apply_tile_threads (n : Nat) (t : Tile) (s : State) : ((Effect.tile n t).apply s).threads = s.threads := rfl
@[simp] theorem apply_tile_starts (n : Nat) (t : Tile) (s : State) : ((Effect.tile n t).apply s).starts = s.starts := rfl
@[simp] theorem apply_tile_tiles (n : Nat) (t : Tile) (s : State) : ((Effect.tile n t).apply s).tiles = mapPut n t s.tiles := rfl
@[simp] theorem apply_tile_accs (n : Nat) (t : Tile) (s : State) : ((Effect.tile n t).apply s).accs = s.accs := rfl
@[simp] theorem apply_tile_cores (n : Nat) (t : Tile) (s : State) : ((Effect.tile n t).apply s).cores = s.cores := rfl
@[simp] theorem apply_tile_clusters (n : Nat) (t : Tile) (s : State) : ((Effect.tile n t).apply s).clusters = s.clusters := rfl
@[simp] theorem apply_tile_dies (n : Nat) (t : Tile) (s : State) : ((Effect.tile n t).apply s).dies = s.dies := rfl
@[simp] theorem apply_tile_contexts (n : Nat) (t : Tile) (s : State) : ((Effect.tile n t).apply s).contexts = s.contexts := rfl
@[simp] theorem apply_tile_queueSlots (n : Nat) (t : Tile) (s : State) : ((Effect.tile n t).apply s).queueSlots = s.queueSlots := rfl
@[simp] theorem apply_tile_peers (n : Nat) (t : Tile) (s : State) : ((Effect.tile n t).apply s).peers = s.peers := rfl
@[simp] theorem apply_tile_homes (n : Nat) (t : Tile) (s : State) : ((Effect.tile n t).apply s).homes = s.homes := rfl
@[simp] theorem apply_tile_arrivals (n : Nat) (t : Tile) (s : State) : ((Effect.tile n t).apply s).arrivals = s.arrivals := rfl
@[simp] theorem apply_tile_holds (n : Nat) (t : Tile) (s : State) : ((Effect.tile n t).apply s).holds = s.holds := rfl
@[simp] theorem apply_tile_reqs (n : Nat) (t : Tile) (s : State) : ((Effect.tile n t).apply s).reqs = s.reqs := rfl
@[simp] theorem apply_tile_tlb (n : Nat) (t : Tile) (s : State) : ((Effect.tile n t).apply s).tlb = s.tlb := rfl
@[simp] theorem apply_tile_granules (n : Nat) (t : Tile) (s : State) : ((Effect.tile n t).apply s).granules = s.granules := rfl
@[simp] theorem apply_tile_faults (n : Nat) (t : Tile) (s : State) : ((Effect.tile n t).apply s).faults = s.faults := rfl
@[simp] theorem apply_tile_wakes (n : Nat) (t : Tile) (s : State) : ((Effect.tile n t).apply s).wakes = s.wakes := rfl
@[simp] theorem apply_tile_migrants (n : Nat) (t : Tile) (s : State) : ((Effect.tile n t).apply s).migrants = s.migrants := rfl
@[simp] theorem apply_tile_crews (n : Nat) (t : Tile) (s : State) : ((Effect.tile n t).apply s).crews = s.crews := rfl
@[simp] theorem apply_tile_flasks (n : Nat) (t : Tile) (s : State) : ((Effect.tile n t).apply s).flasks = s.flasks := rfl
@[simp] theorem apply_tile_grids (n : Nat) (t : Tile) (s : State) : ((Effect.tile n t).apply s).grids = s.grids := rfl
@[simp] theorem apply_tile_jobs (n : Nat) (t : Tile) (s : State) : ((Effect.tile n t).apply s).jobs = s.jobs := rfl
@[simp] theorem apply_tile_gctxs (n : Nat) (t : Tile) (s : State) : ((Effect.tile n t).apply s).gctxs = s.gctxs := rfl
@[simp] theorem apply_tile_blends (n : Nat) (t : Tile) (s : State) : ((Effect.tile n t).apply s).blends = s.blends := rfl
@[simp] theorem apply_tile_replicas (n : Nat) (t : Tile) (s : State) : ((Effect.tile n t).apply s).replicas = s.replicas := rfl
@[simp] theorem apply_tile_mgmt (n : Nat) (t : Tile) (s : State) : ((Effect.tile n t).apply s).mgmt = s.mgmt := rfl
@[simp] theorem apply_tile_sent (n : Nat) (t : Tile) (s : State) : ((Effect.tile n t).apply s).sent = s.sent := rfl
@[simp] theorem apply_tile_cycle (n : Nat) (t : Tile) (s : State) : ((Effect.tile n t).apply s).cycle = s.cycle := rfl
@[simp] theorem apply_tile_agenda (n : Nat) (t : Tile) (s : State) : ((Effect.tile n t).apply s).agenda = s.agenda := rfl
@[simp] theorem apply_tile_input (n : Nat) (t : Tile) (s : State) : ((Effect.tile n t).apply s).input = s.input := rfl
@[simp] theorem apply_tile_cur (n : Nat) (t : Tile) (s : State) : ((Effect.tile n t).apply s).cur = s.cur := rfl
@[simp] theorem apply_tile_insn (n : Nat) (t : Tile) (s : State) : ((Effect.tile n t).apply s).insn = s.insn := rfl
@[simp] theorem apply_tile_phase (n : Nat) (t : Tile) (s : State) : ((Effect.tile n t).apply s).phase = s.phase := rfl
@[simp] theorem apply_tile_freeCtr (n : Nat) (t : Tile) (s : State) : ((Effect.tile n t).apply s).freeCtr = s.freeCtr := rfl
@[simp] theorem apply_tile_nextId (n : Nat) (t : Tile) (s : State) : ((Effect.tile n t).apply s).nextId = s.nextId := rfl
@[simp] theorem apply_acc_mem (n : Nat) (x : BitVec 32) (s : State) : ((Effect.acc n x).apply s).mem = s.mem := rfl
@[simp] theorem apply_acc_empties (n : Nat) (x : BitVec 32) (s : State) : ((Effect.acc n x).apply s).empties = s.empties := rfl
@[simp] theorem apply_acc_bad (n : Nat) (x : BitVec 32) (s : State) : ((Effect.acc n x).apply s).bad = s.bad := rfl
@[simp] theorem apply_acc_old (n : Nat) (x : BitVec 32) (s : State) : ((Effect.acc n x).apply s).old = s.old := rfl
@[simp] theorem apply_acc_threads (n : Nat) (x : BitVec 32) (s : State) : ((Effect.acc n x).apply s).threads = s.threads := rfl
@[simp] theorem apply_acc_starts (n : Nat) (x : BitVec 32) (s : State) : ((Effect.acc n x).apply s).starts = s.starts := rfl
@[simp] theorem apply_acc_tiles (n : Nat) (x : BitVec 32) (s : State) : ((Effect.acc n x).apply s).tiles = s.tiles := rfl
@[simp] theorem apply_acc_accs (n : Nat) (x : BitVec 32) (s : State) : ((Effect.acc n x).apply s).accs = mapSet n (if x = 0 then none else some x) s.accs := rfl
@[simp] theorem apply_acc_cores (n : Nat) (x : BitVec 32) (s : State) : ((Effect.acc n x).apply s).cores = s.cores := rfl
@[simp] theorem apply_acc_clusters (n : Nat) (x : BitVec 32) (s : State) : ((Effect.acc n x).apply s).clusters = s.clusters := rfl
@[simp] theorem apply_acc_dies (n : Nat) (x : BitVec 32) (s : State) : ((Effect.acc n x).apply s).dies = s.dies := rfl
@[simp] theorem apply_acc_contexts (n : Nat) (x : BitVec 32) (s : State) : ((Effect.acc n x).apply s).contexts = s.contexts := rfl
@[simp] theorem apply_acc_queueSlots (n : Nat) (x : BitVec 32) (s : State) : ((Effect.acc n x).apply s).queueSlots = s.queueSlots := rfl
@[simp] theorem apply_acc_peers (n : Nat) (x : BitVec 32) (s : State) : ((Effect.acc n x).apply s).peers = s.peers := rfl
@[simp] theorem apply_acc_homes (n : Nat) (x : BitVec 32) (s : State) : ((Effect.acc n x).apply s).homes = s.homes := rfl
@[simp] theorem apply_acc_arrivals (n : Nat) (x : BitVec 32) (s : State) : ((Effect.acc n x).apply s).arrivals = s.arrivals := rfl
@[simp] theorem apply_acc_holds (n : Nat) (x : BitVec 32) (s : State) : ((Effect.acc n x).apply s).holds = s.holds := rfl
@[simp] theorem apply_acc_reqs (n : Nat) (x : BitVec 32) (s : State) : ((Effect.acc n x).apply s).reqs = s.reqs := rfl
@[simp] theorem apply_acc_tlb (n : Nat) (x : BitVec 32) (s : State) : ((Effect.acc n x).apply s).tlb = s.tlb := rfl
@[simp] theorem apply_acc_granules (n : Nat) (x : BitVec 32) (s : State) : ((Effect.acc n x).apply s).granules = s.granules := rfl
@[simp] theorem apply_acc_faults (n : Nat) (x : BitVec 32) (s : State) : ((Effect.acc n x).apply s).faults = s.faults := rfl
@[simp] theorem apply_acc_wakes (n : Nat) (x : BitVec 32) (s : State) : ((Effect.acc n x).apply s).wakes = s.wakes := rfl
@[simp] theorem apply_acc_migrants (n : Nat) (x : BitVec 32) (s : State) : ((Effect.acc n x).apply s).migrants = s.migrants := rfl
@[simp] theorem apply_acc_crews (n : Nat) (x : BitVec 32) (s : State) : ((Effect.acc n x).apply s).crews = s.crews := rfl
@[simp] theorem apply_acc_flasks (n : Nat) (x : BitVec 32) (s : State) : ((Effect.acc n x).apply s).flasks = s.flasks := rfl
@[simp] theorem apply_acc_grids (n : Nat) (x : BitVec 32) (s : State) : ((Effect.acc n x).apply s).grids = s.grids := rfl
@[simp] theorem apply_acc_jobs (n : Nat) (x : BitVec 32) (s : State) : ((Effect.acc n x).apply s).jobs = s.jobs := rfl
@[simp] theorem apply_acc_gctxs (n : Nat) (x : BitVec 32) (s : State) : ((Effect.acc n x).apply s).gctxs = s.gctxs := rfl
@[simp] theorem apply_acc_blends (n : Nat) (x : BitVec 32) (s : State) : ((Effect.acc n x).apply s).blends = s.blends := rfl
@[simp] theorem apply_acc_replicas (n : Nat) (x : BitVec 32) (s : State) : ((Effect.acc n x).apply s).replicas = s.replicas := rfl
@[simp] theorem apply_acc_mgmt (n : Nat) (x : BitVec 32) (s : State) : ((Effect.acc n x).apply s).mgmt = s.mgmt := rfl
@[simp] theorem apply_acc_sent (n : Nat) (x : BitVec 32) (s : State) : ((Effect.acc n x).apply s).sent = s.sent := rfl
@[simp] theorem apply_acc_cycle (n : Nat) (x : BitVec 32) (s : State) : ((Effect.acc n x).apply s).cycle = s.cycle := rfl
@[simp] theorem apply_acc_agenda (n : Nat) (x : BitVec 32) (s : State) : ((Effect.acc n x).apply s).agenda = s.agenda := rfl
@[simp] theorem apply_acc_input (n : Nat) (x : BitVec 32) (s : State) : ((Effect.acc n x).apply s).input = s.input := rfl
@[simp] theorem apply_acc_cur (n : Nat) (x : BitVec 32) (s : State) : ((Effect.acc n x).apply s).cur = s.cur := rfl
@[simp] theorem apply_acc_insn (n : Nat) (x : BitVec 32) (s : State) : ((Effect.acc n x).apply s).insn = s.insn := rfl
@[simp] theorem apply_acc_phase (n : Nat) (x : BitVec 32) (s : State) : ((Effect.acc n x).apply s).phase = s.phase := rfl
@[simp] theorem apply_acc_freeCtr (n : Nat) (x : BitVec 32) (s : State) : ((Effect.acc n x).apply s).freeCtr = s.freeCtr := rfl
@[simp] theorem apply_acc_nextId (n : Nat) (x : BitVec 32) (s : State) : ((Effect.acc n x).apply s).nextId = s.nextId := rfl
@[simp] theorem apply_core_mem (n : Nat) (c : Core) (s : State) : ((Effect.core n c).apply s).mem = s.mem := rfl
@[simp] theorem apply_core_empties (n : Nat) (c : Core) (s : State) : ((Effect.core n c).apply s).empties = s.empties := rfl
@[simp] theorem apply_core_bad (n : Nat) (c : Core) (s : State) : ((Effect.core n c).apply s).bad = s.bad := rfl
@[simp] theorem apply_core_old (n : Nat) (c : Core) (s : State) : ((Effect.core n c).apply s).old = s.old := rfl
@[simp] theorem apply_core_threads (n : Nat) (c : Core) (s : State) : ((Effect.core n c).apply s).threads = s.threads := rfl
@[simp] theorem apply_core_starts (n : Nat) (c : Core) (s : State) : ((Effect.core n c).apply s).starts = s.starts := rfl
@[simp] theorem apply_core_tiles (n : Nat) (c : Core) (s : State) : ((Effect.core n c).apply s).tiles = s.tiles := rfl
@[simp] theorem apply_core_accs (n : Nat) (c : Core) (s : State) : ((Effect.core n c).apply s).accs = s.accs := rfl
@[simp] theorem apply_core_cores (n : Nat) (c : Core) (s : State) : ((Effect.core n c).apply s).cores = mapPut n c s.cores := rfl
@[simp] theorem apply_core_clusters (n : Nat) (c : Core) (s : State) : ((Effect.core n c).apply s).clusters = s.clusters := rfl
@[simp] theorem apply_core_dies (n : Nat) (c : Core) (s : State) : ((Effect.core n c).apply s).dies = s.dies := rfl
@[simp] theorem apply_core_contexts (n : Nat) (c : Core) (s : State) : ((Effect.core n c).apply s).contexts = s.contexts := rfl
@[simp] theorem apply_core_queueSlots (n : Nat) (c : Core) (s : State) : ((Effect.core n c).apply s).queueSlots = s.queueSlots := rfl
@[simp] theorem apply_core_peers (n : Nat) (c : Core) (s : State) : ((Effect.core n c).apply s).peers = s.peers := rfl
@[simp] theorem apply_core_homes (n : Nat) (c : Core) (s : State) : ((Effect.core n c).apply s).homes = s.homes := rfl
@[simp] theorem apply_core_arrivals (n : Nat) (c : Core) (s : State) : ((Effect.core n c).apply s).arrivals = s.arrivals := rfl
@[simp] theorem apply_core_holds (n : Nat) (c : Core) (s : State) : ((Effect.core n c).apply s).holds = s.holds := rfl
@[simp] theorem apply_core_reqs (n : Nat) (c : Core) (s : State) : ((Effect.core n c).apply s).reqs = s.reqs := rfl
@[simp] theorem apply_core_tlb (n : Nat) (c : Core) (s : State) : ((Effect.core n c).apply s).tlb = s.tlb := rfl
@[simp] theorem apply_core_granules (n : Nat) (c : Core) (s : State) : ((Effect.core n c).apply s).granules = s.granules := rfl
@[simp] theorem apply_core_faults (n : Nat) (c : Core) (s : State) : ((Effect.core n c).apply s).faults = s.faults := rfl
@[simp] theorem apply_core_wakes (n : Nat) (c : Core) (s : State) : ((Effect.core n c).apply s).wakes = s.wakes := rfl
@[simp] theorem apply_core_migrants (n : Nat) (c : Core) (s : State) : ((Effect.core n c).apply s).migrants = s.migrants := rfl
@[simp] theorem apply_core_crews (n : Nat) (c : Core) (s : State) : ((Effect.core n c).apply s).crews = s.crews := rfl
@[simp] theorem apply_core_flasks (n : Nat) (c : Core) (s : State) : ((Effect.core n c).apply s).flasks = s.flasks := rfl
@[simp] theorem apply_core_grids (n : Nat) (c : Core) (s : State) : ((Effect.core n c).apply s).grids = s.grids := rfl
@[simp] theorem apply_core_jobs (n : Nat) (c : Core) (s : State) : ((Effect.core n c).apply s).jobs = s.jobs := rfl
@[simp] theorem apply_core_gctxs (n : Nat) (c : Core) (s : State) : ((Effect.core n c).apply s).gctxs = s.gctxs := rfl
@[simp] theorem apply_core_blends (n : Nat) (c : Core) (s : State) : ((Effect.core n c).apply s).blends = s.blends := rfl
@[simp] theorem apply_core_replicas (n : Nat) (c : Core) (s : State) : ((Effect.core n c).apply s).replicas = s.replicas := rfl
@[simp] theorem apply_core_mgmt (n : Nat) (c : Core) (s : State) : ((Effect.core n c).apply s).mgmt = s.mgmt := rfl
@[simp] theorem apply_core_sent (n : Nat) (c : Core) (s : State) : ((Effect.core n c).apply s).sent = s.sent := rfl
@[simp] theorem apply_core_cycle (n : Nat) (c : Core) (s : State) : ((Effect.core n c).apply s).cycle = s.cycle := rfl
@[simp] theorem apply_core_agenda (n : Nat) (c : Core) (s : State) : ((Effect.core n c).apply s).agenda = s.agenda := rfl
@[simp] theorem apply_core_input (n : Nat) (c : Core) (s : State) : ((Effect.core n c).apply s).input = s.input := rfl
@[simp] theorem apply_core_cur (n : Nat) (c : Core) (s : State) : ((Effect.core n c).apply s).cur = s.cur := rfl
@[simp] theorem apply_core_insn (n : Nat) (c : Core) (s : State) : ((Effect.core n c).apply s).insn = s.insn := rfl
@[simp] theorem apply_core_phase (n : Nat) (c : Core) (s : State) : ((Effect.core n c).apply s).phase = s.phase := rfl
@[simp] theorem apply_core_freeCtr (n : Nat) (c : Core) (s : State) : ((Effect.core n c).apply s).freeCtr = s.freeCtr := rfl
@[simp] theorem apply_core_nextId (n : Nat) (c : Core) (s : State) : ((Effect.core n c).apply s).nextId = s.nextId := rfl
@[simp] theorem apply_cluster_mem (n : Nat) (c : Cluster) (s : State) : ((Effect.cluster n c).apply s).mem = s.mem := rfl
@[simp] theorem apply_cluster_empties (n : Nat) (c : Cluster) (s : State) : ((Effect.cluster n c).apply s).empties = s.empties := rfl
@[simp] theorem apply_cluster_bad (n : Nat) (c : Cluster) (s : State) : ((Effect.cluster n c).apply s).bad = s.bad := rfl
@[simp] theorem apply_cluster_old (n : Nat) (c : Cluster) (s : State) : ((Effect.cluster n c).apply s).old = s.old := rfl
@[simp] theorem apply_cluster_threads (n : Nat) (c : Cluster) (s : State) : ((Effect.cluster n c).apply s).threads = s.threads := rfl
@[simp] theorem apply_cluster_starts (n : Nat) (c : Cluster) (s : State) : ((Effect.cluster n c).apply s).starts = s.starts := rfl
@[simp] theorem apply_cluster_tiles (n : Nat) (c : Cluster) (s : State) : ((Effect.cluster n c).apply s).tiles = s.tiles := rfl
@[simp] theorem apply_cluster_accs (n : Nat) (c : Cluster) (s : State) : ((Effect.cluster n c).apply s).accs = s.accs := rfl
@[simp] theorem apply_cluster_cores (n : Nat) (c : Cluster) (s : State) : ((Effect.cluster n c).apply s).cores = s.cores := rfl
@[simp] theorem apply_cluster_clusters (n : Nat) (c : Cluster) (s : State) : ((Effect.cluster n c).apply s).clusters = mapPut n c s.clusters := rfl
@[simp] theorem apply_cluster_dies (n : Nat) (c : Cluster) (s : State) : ((Effect.cluster n c).apply s).dies = s.dies := rfl
@[simp] theorem apply_cluster_contexts (n : Nat) (c : Cluster) (s : State) : ((Effect.cluster n c).apply s).contexts = s.contexts := rfl
@[simp] theorem apply_cluster_queueSlots (n : Nat) (c : Cluster) (s : State) : ((Effect.cluster n c).apply s).queueSlots = s.queueSlots := rfl
@[simp] theorem apply_cluster_peers (n : Nat) (c : Cluster) (s : State) : ((Effect.cluster n c).apply s).peers = s.peers := rfl
@[simp] theorem apply_cluster_homes (n : Nat) (c : Cluster) (s : State) : ((Effect.cluster n c).apply s).homes = s.homes := rfl
@[simp] theorem apply_cluster_arrivals (n : Nat) (c : Cluster) (s : State) : ((Effect.cluster n c).apply s).arrivals = s.arrivals := rfl
@[simp] theorem apply_cluster_holds (n : Nat) (c : Cluster) (s : State) : ((Effect.cluster n c).apply s).holds = s.holds := rfl
@[simp] theorem apply_cluster_reqs (n : Nat) (c : Cluster) (s : State) : ((Effect.cluster n c).apply s).reqs = s.reqs := rfl
@[simp] theorem apply_cluster_tlb (n : Nat) (c : Cluster) (s : State) : ((Effect.cluster n c).apply s).tlb = s.tlb := rfl
@[simp] theorem apply_cluster_granules (n : Nat) (c : Cluster) (s : State) : ((Effect.cluster n c).apply s).granules = s.granules := rfl
@[simp] theorem apply_cluster_faults (n : Nat) (c : Cluster) (s : State) : ((Effect.cluster n c).apply s).faults = s.faults := rfl
@[simp] theorem apply_cluster_wakes (n : Nat) (c : Cluster) (s : State) : ((Effect.cluster n c).apply s).wakes = s.wakes := rfl
@[simp] theorem apply_cluster_migrants (n : Nat) (c : Cluster) (s : State) : ((Effect.cluster n c).apply s).migrants = s.migrants := rfl
@[simp] theorem apply_cluster_crews (n : Nat) (c : Cluster) (s : State) : ((Effect.cluster n c).apply s).crews = s.crews := rfl
@[simp] theorem apply_cluster_flasks (n : Nat) (c : Cluster) (s : State) : ((Effect.cluster n c).apply s).flasks = s.flasks := rfl
@[simp] theorem apply_cluster_grids (n : Nat) (c : Cluster) (s : State) : ((Effect.cluster n c).apply s).grids = s.grids := rfl
@[simp] theorem apply_cluster_jobs (n : Nat) (c : Cluster) (s : State) : ((Effect.cluster n c).apply s).jobs = s.jobs := rfl
@[simp] theorem apply_cluster_gctxs (n : Nat) (c : Cluster) (s : State) : ((Effect.cluster n c).apply s).gctxs = s.gctxs := rfl
@[simp] theorem apply_cluster_blends (n : Nat) (c : Cluster) (s : State) : ((Effect.cluster n c).apply s).blends = s.blends := rfl
@[simp] theorem apply_cluster_replicas (n : Nat) (c : Cluster) (s : State) : ((Effect.cluster n c).apply s).replicas = s.replicas := rfl
@[simp] theorem apply_cluster_mgmt (n : Nat) (c : Cluster) (s : State) : ((Effect.cluster n c).apply s).mgmt = s.mgmt := rfl
@[simp] theorem apply_cluster_sent (n : Nat) (c : Cluster) (s : State) : ((Effect.cluster n c).apply s).sent = s.sent := rfl
@[simp] theorem apply_cluster_cycle (n : Nat) (c : Cluster) (s : State) : ((Effect.cluster n c).apply s).cycle = s.cycle := rfl
@[simp] theorem apply_cluster_agenda (n : Nat) (c : Cluster) (s : State) : ((Effect.cluster n c).apply s).agenda = s.agenda := rfl
@[simp] theorem apply_cluster_input (n : Nat) (c : Cluster) (s : State) : ((Effect.cluster n c).apply s).input = s.input := rfl
@[simp] theorem apply_cluster_cur (n : Nat) (c : Cluster) (s : State) : ((Effect.cluster n c).apply s).cur = s.cur := rfl
@[simp] theorem apply_cluster_insn (n : Nat) (c : Cluster) (s : State) : ((Effect.cluster n c).apply s).insn = s.insn := rfl
@[simp] theorem apply_cluster_phase (n : Nat) (c : Cluster) (s : State) : ((Effect.cluster n c).apply s).phase = s.phase := rfl
@[simp] theorem apply_cluster_freeCtr (n : Nat) (c : Cluster) (s : State) : ((Effect.cluster n c).apply s).freeCtr = s.freeCtr := rfl
@[simp] theorem apply_cluster_nextId (n : Nat) (c : Cluster) (s : State) : ((Effect.cluster n c).apply s).nextId = s.nextId := rfl
@[simp] theorem apply_die_mem (n : Nat) (d : Die) (s : State) : ((Effect.die n d).apply s).mem = s.mem := rfl
@[simp] theorem apply_die_empties (n : Nat) (d : Die) (s : State) : ((Effect.die n d).apply s).empties = s.empties := rfl
@[simp] theorem apply_die_bad (n : Nat) (d : Die) (s : State) : ((Effect.die n d).apply s).bad = s.bad := rfl
@[simp] theorem apply_die_old (n : Nat) (d : Die) (s : State) : ((Effect.die n d).apply s).old = s.old := rfl
@[simp] theorem apply_die_threads (n : Nat) (d : Die) (s : State) : ((Effect.die n d).apply s).threads = s.threads := rfl
@[simp] theorem apply_die_starts (n : Nat) (d : Die) (s : State) : ((Effect.die n d).apply s).starts = s.starts := rfl
@[simp] theorem apply_die_tiles (n : Nat) (d : Die) (s : State) : ((Effect.die n d).apply s).tiles = s.tiles := rfl
@[simp] theorem apply_die_accs (n : Nat) (d : Die) (s : State) : ((Effect.die n d).apply s).accs = s.accs := rfl
@[simp] theorem apply_die_cores (n : Nat) (d : Die) (s : State) : ((Effect.die n d).apply s).cores = s.cores := rfl
@[simp] theorem apply_die_clusters (n : Nat) (d : Die) (s : State) : ((Effect.die n d).apply s).clusters = s.clusters := rfl
@[simp] theorem apply_die_dies (n : Nat) (d : Die) (s : State) : ((Effect.die n d).apply s).dies = mapPut n d s.dies := rfl
@[simp] theorem apply_die_contexts (n : Nat) (d : Die) (s : State) : ((Effect.die n d).apply s).contexts = s.contexts := rfl
@[simp] theorem apply_die_queueSlots (n : Nat) (d : Die) (s : State) : ((Effect.die n d).apply s).queueSlots = s.queueSlots := rfl
@[simp] theorem apply_die_peers (n : Nat) (d : Die) (s : State) : ((Effect.die n d).apply s).peers = s.peers := rfl
@[simp] theorem apply_die_homes (n : Nat) (d : Die) (s : State) : ((Effect.die n d).apply s).homes = s.homes := rfl
@[simp] theorem apply_die_arrivals (n : Nat) (d : Die) (s : State) : ((Effect.die n d).apply s).arrivals = s.arrivals := rfl
@[simp] theorem apply_die_holds (n : Nat) (d : Die) (s : State) : ((Effect.die n d).apply s).holds = s.holds := rfl
@[simp] theorem apply_die_reqs (n : Nat) (d : Die) (s : State) : ((Effect.die n d).apply s).reqs = s.reqs := rfl
@[simp] theorem apply_die_tlb (n : Nat) (d : Die) (s : State) : ((Effect.die n d).apply s).tlb = s.tlb := rfl
@[simp] theorem apply_die_granules (n : Nat) (d : Die) (s : State) : ((Effect.die n d).apply s).granules = s.granules := rfl
@[simp] theorem apply_die_faults (n : Nat) (d : Die) (s : State) : ((Effect.die n d).apply s).faults = s.faults := rfl
@[simp] theorem apply_die_wakes (n : Nat) (d : Die) (s : State) : ((Effect.die n d).apply s).wakes = s.wakes := rfl
@[simp] theorem apply_die_migrants (n : Nat) (d : Die) (s : State) : ((Effect.die n d).apply s).migrants = s.migrants := rfl
@[simp] theorem apply_die_crews (n : Nat) (d : Die) (s : State) : ((Effect.die n d).apply s).crews = s.crews := rfl
@[simp] theorem apply_die_flasks (n : Nat) (d : Die) (s : State) : ((Effect.die n d).apply s).flasks = s.flasks := rfl
@[simp] theorem apply_die_grids (n : Nat) (d : Die) (s : State) : ((Effect.die n d).apply s).grids = s.grids := rfl
@[simp] theorem apply_die_jobs (n : Nat) (d : Die) (s : State) : ((Effect.die n d).apply s).jobs = s.jobs := rfl
@[simp] theorem apply_die_gctxs (n : Nat) (d : Die) (s : State) : ((Effect.die n d).apply s).gctxs = s.gctxs := rfl
@[simp] theorem apply_die_blends (n : Nat) (d : Die) (s : State) : ((Effect.die n d).apply s).blends = s.blends := rfl
@[simp] theorem apply_die_replicas (n : Nat) (d : Die) (s : State) : ((Effect.die n d).apply s).replicas = s.replicas := rfl
@[simp] theorem apply_die_mgmt (n : Nat) (d : Die) (s : State) : ((Effect.die n d).apply s).mgmt = s.mgmt := rfl
@[simp] theorem apply_die_sent (n : Nat) (d : Die) (s : State) : ((Effect.die n d).apply s).sent = s.sent := rfl
@[simp] theorem apply_die_cycle (n : Nat) (d : Die) (s : State) : ((Effect.die n d).apply s).cycle = s.cycle := rfl
@[simp] theorem apply_die_agenda (n : Nat) (d : Die) (s : State) : ((Effect.die n d).apply s).agenda = s.agenda := rfl
@[simp] theorem apply_die_input (n : Nat) (d : Die) (s : State) : ((Effect.die n d).apply s).input = s.input := rfl
@[simp] theorem apply_die_cur (n : Nat) (d : Die) (s : State) : ((Effect.die n d).apply s).cur = s.cur := rfl
@[simp] theorem apply_die_insn (n : Nat) (d : Die) (s : State) : ((Effect.die n d).apply s).insn = s.insn := rfl
@[simp] theorem apply_die_phase (n : Nat) (d : Die) (s : State) : ((Effect.die n d).apply s).phase = s.phase := rfl
@[simp] theorem apply_die_freeCtr (n : Nat) (d : Die) (s : State) : ((Effect.die n d).apply s).freeCtr = s.freeCtr := rfl
@[simp] theorem apply_die_nextId (n : Nat) (d : Die) (s : State) : ((Effect.die n d).apply s).nextId = s.nextId := rfl
@[simp] theorem apply_context_mem (n : Nat) (c : ContextSettings) (s : State) : ((Effect.context n c).apply s).mem = s.mem := rfl
@[simp] theorem apply_context_empties (n : Nat) (c : ContextSettings) (s : State) : ((Effect.context n c).apply s).empties = s.empties := rfl
@[simp] theorem apply_context_bad (n : Nat) (c : ContextSettings) (s : State) : ((Effect.context n c).apply s).bad = s.bad := rfl
@[simp] theorem apply_context_old (n : Nat) (c : ContextSettings) (s : State) : ((Effect.context n c).apply s).old = s.old := rfl
@[simp] theorem apply_context_threads (n : Nat) (c : ContextSettings) (s : State) : ((Effect.context n c).apply s).threads = s.threads := rfl
@[simp] theorem apply_context_starts (n : Nat) (c : ContextSettings) (s : State) : ((Effect.context n c).apply s).starts = s.starts := rfl
@[simp] theorem apply_context_tiles (n : Nat) (c : ContextSettings) (s : State) : ((Effect.context n c).apply s).tiles = s.tiles := rfl
@[simp] theorem apply_context_accs (n : Nat) (c : ContextSettings) (s : State) : ((Effect.context n c).apply s).accs = s.accs := rfl
@[simp] theorem apply_context_cores (n : Nat) (c : ContextSettings) (s : State) : ((Effect.context n c).apply s).cores = s.cores := rfl
@[simp] theorem apply_context_clusters (n : Nat) (c : ContextSettings) (s : State) : ((Effect.context n c).apply s).clusters = s.clusters := rfl
@[simp] theorem apply_context_dies (n : Nat) (c : ContextSettings) (s : State) : ((Effect.context n c).apply s).dies = s.dies := rfl
@[simp] theorem apply_context_contexts (n : Nat) (c : ContextSettings) (s : State) : ((Effect.context n c).apply s).contexts = mapPut n c s.contexts := rfl
@[simp] theorem apply_context_queueSlots (n : Nat) (c : ContextSettings) (s : State) : ((Effect.context n c).apply s).queueSlots = s.queueSlots := rfl
@[simp] theorem apply_context_peers (n : Nat) (c : ContextSettings) (s : State) : ((Effect.context n c).apply s).peers = s.peers := rfl
@[simp] theorem apply_context_homes (n : Nat) (c : ContextSettings) (s : State) : ((Effect.context n c).apply s).homes = s.homes := rfl
@[simp] theorem apply_context_arrivals (n : Nat) (c : ContextSettings) (s : State) : ((Effect.context n c).apply s).arrivals = s.arrivals := rfl
@[simp] theorem apply_context_holds (n : Nat) (c : ContextSettings) (s : State) : ((Effect.context n c).apply s).holds = s.holds := rfl
@[simp] theorem apply_context_reqs (n : Nat) (c : ContextSettings) (s : State) : ((Effect.context n c).apply s).reqs = s.reqs := rfl
@[simp] theorem apply_context_tlb (n : Nat) (c : ContextSettings) (s : State) : ((Effect.context n c).apply s).tlb = s.tlb := rfl
@[simp] theorem apply_context_granules (n : Nat) (c : ContextSettings) (s : State) : ((Effect.context n c).apply s).granules = s.granules := rfl
@[simp] theorem apply_context_faults (n : Nat) (c : ContextSettings) (s : State) : ((Effect.context n c).apply s).faults = s.faults := rfl
@[simp] theorem apply_context_wakes (n : Nat) (c : ContextSettings) (s : State) : ((Effect.context n c).apply s).wakes = s.wakes := rfl
@[simp] theorem apply_context_migrants (n : Nat) (c : ContextSettings) (s : State) : ((Effect.context n c).apply s).migrants = s.migrants := rfl
@[simp] theorem apply_context_crews (n : Nat) (c : ContextSettings) (s : State) : ((Effect.context n c).apply s).crews = s.crews := rfl
@[simp] theorem apply_context_flasks (n : Nat) (c : ContextSettings) (s : State) : ((Effect.context n c).apply s).flasks = s.flasks := rfl
@[simp] theorem apply_context_grids (n : Nat) (c : ContextSettings) (s : State) : ((Effect.context n c).apply s).grids = s.grids := rfl
@[simp] theorem apply_context_jobs (n : Nat) (c : ContextSettings) (s : State) : ((Effect.context n c).apply s).jobs = s.jobs := rfl
@[simp] theorem apply_context_gctxs (n : Nat) (c : ContextSettings) (s : State) : ((Effect.context n c).apply s).gctxs = s.gctxs := rfl
@[simp] theorem apply_context_blends (n : Nat) (c : ContextSettings) (s : State) : ((Effect.context n c).apply s).blends = s.blends := rfl
@[simp] theorem apply_context_replicas (n : Nat) (c : ContextSettings) (s : State) : ((Effect.context n c).apply s).replicas = s.replicas := rfl
@[simp] theorem apply_context_mgmt (n : Nat) (c : ContextSettings) (s : State) : ((Effect.context n c).apply s).mgmt = s.mgmt := rfl
@[simp] theorem apply_context_sent (n : Nat) (c : ContextSettings) (s : State) : ((Effect.context n c).apply s).sent = s.sent := rfl
@[simp] theorem apply_context_cycle (n : Nat) (c : ContextSettings) (s : State) : ((Effect.context n c).apply s).cycle = s.cycle := rfl
@[simp] theorem apply_context_agenda (n : Nat) (c : ContextSettings) (s : State) : ((Effect.context n c).apply s).agenda = s.agenda := rfl
@[simp] theorem apply_context_input (n : Nat) (c : ContextSettings) (s : State) : ((Effect.context n c).apply s).input = s.input := rfl
@[simp] theorem apply_context_cur (n : Nat) (c : ContextSettings) (s : State) : ((Effect.context n c).apply s).cur = s.cur := rfl
@[simp] theorem apply_context_insn (n : Nat) (c : ContextSettings) (s : State) : ((Effect.context n c).apply s).insn = s.insn := rfl
@[simp] theorem apply_context_phase (n : Nat) (c : ContextSettings) (s : State) : ((Effect.context n c).apply s).phase = s.phase := rfl
@[simp] theorem apply_context_freeCtr (n : Nat) (c : ContextSettings) (s : State) : ((Effect.context n c).apply s).freeCtr = s.freeCtr := rfl
@[simp] theorem apply_context_nextId (n : Nat) (c : ContextSettings) (s : State) : ((Effect.context n c).apply s).nextId = s.nextId := rfl
@[simp] theorem apply_queueSlot_mem (n : Nat) (q : Option QueueSlot) (s : State) : ((Effect.queueSlot n q).apply s).mem = s.mem := rfl
@[simp] theorem apply_queueSlot_empties (n : Nat) (q : Option QueueSlot) (s : State) : ((Effect.queueSlot n q).apply s).empties = s.empties := rfl
@[simp] theorem apply_queueSlot_bad (n : Nat) (q : Option QueueSlot) (s : State) : ((Effect.queueSlot n q).apply s).bad = s.bad := rfl
@[simp] theorem apply_queueSlot_old (n : Nat) (q : Option QueueSlot) (s : State) : ((Effect.queueSlot n q).apply s).old = s.old := rfl
@[simp] theorem apply_queueSlot_threads (n : Nat) (q : Option QueueSlot) (s : State) : ((Effect.queueSlot n q).apply s).threads = s.threads := rfl
@[simp] theorem apply_queueSlot_starts (n : Nat) (q : Option QueueSlot) (s : State) : ((Effect.queueSlot n q).apply s).starts = s.starts := rfl
@[simp] theorem apply_queueSlot_tiles (n : Nat) (q : Option QueueSlot) (s : State) : ((Effect.queueSlot n q).apply s).tiles = s.tiles := rfl
@[simp] theorem apply_queueSlot_accs (n : Nat) (q : Option QueueSlot) (s : State) : ((Effect.queueSlot n q).apply s).accs = s.accs := rfl
@[simp] theorem apply_queueSlot_cores (n : Nat) (q : Option QueueSlot) (s : State) : ((Effect.queueSlot n q).apply s).cores = s.cores := rfl
@[simp] theorem apply_queueSlot_clusters (n : Nat) (q : Option QueueSlot) (s : State) : ((Effect.queueSlot n q).apply s).clusters = s.clusters := rfl
@[simp] theorem apply_queueSlot_dies (n : Nat) (q : Option QueueSlot) (s : State) : ((Effect.queueSlot n q).apply s).dies = s.dies := rfl
@[simp] theorem apply_queueSlot_contexts (n : Nat) (q : Option QueueSlot) (s : State) : ((Effect.queueSlot n q).apply s).contexts = s.contexts := rfl
@[simp] theorem apply_queueSlot_queueSlots (n : Nat) (q : Option QueueSlot) (s : State) : ((Effect.queueSlot n q).apply s).queueSlots = mapSet n q s.queueSlots := rfl
@[simp] theorem apply_queueSlot_peers (n : Nat) (q : Option QueueSlot) (s : State) : ((Effect.queueSlot n q).apply s).peers = s.peers := rfl
@[simp] theorem apply_queueSlot_homes (n : Nat) (q : Option QueueSlot) (s : State) : ((Effect.queueSlot n q).apply s).homes = s.homes := rfl
@[simp] theorem apply_queueSlot_arrivals (n : Nat) (q : Option QueueSlot) (s : State) : ((Effect.queueSlot n q).apply s).arrivals = s.arrivals := rfl
@[simp] theorem apply_queueSlot_holds (n : Nat) (q : Option QueueSlot) (s : State) : ((Effect.queueSlot n q).apply s).holds = s.holds := rfl
@[simp] theorem apply_queueSlot_reqs (n : Nat) (q : Option QueueSlot) (s : State) : ((Effect.queueSlot n q).apply s).reqs = s.reqs := rfl
@[simp] theorem apply_queueSlot_tlb (n : Nat) (q : Option QueueSlot) (s : State) : ((Effect.queueSlot n q).apply s).tlb = s.tlb := rfl
@[simp] theorem apply_queueSlot_granules (n : Nat) (q : Option QueueSlot) (s : State) : ((Effect.queueSlot n q).apply s).granules = s.granules := rfl
@[simp] theorem apply_queueSlot_faults (n : Nat) (q : Option QueueSlot) (s : State) : ((Effect.queueSlot n q).apply s).faults = s.faults := rfl
@[simp] theorem apply_queueSlot_wakes (n : Nat) (q : Option QueueSlot) (s : State) : ((Effect.queueSlot n q).apply s).wakes = s.wakes := rfl
@[simp] theorem apply_queueSlot_migrants (n : Nat) (q : Option QueueSlot) (s : State) : ((Effect.queueSlot n q).apply s).migrants = s.migrants := rfl
@[simp] theorem apply_queueSlot_crews (n : Nat) (q : Option QueueSlot) (s : State) : ((Effect.queueSlot n q).apply s).crews = s.crews := rfl
@[simp] theorem apply_queueSlot_flasks (n : Nat) (q : Option QueueSlot) (s : State) : ((Effect.queueSlot n q).apply s).flasks = s.flasks := rfl
@[simp] theorem apply_queueSlot_grids (n : Nat) (q : Option QueueSlot) (s : State) : ((Effect.queueSlot n q).apply s).grids = s.grids := rfl
@[simp] theorem apply_queueSlot_jobs (n : Nat) (q : Option QueueSlot) (s : State) : ((Effect.queueSlot n q).apply s).jobs = s.jobs := rfl
@[simp] theorem apply_queueSlot_gctxs (n : Nat) (q : Option QueueSlot) (s : State) : ((Effect.queueSlot n q).apply s).gctxs = s.gctxs := rfl
@[simp] theorem apply_queueSlot_blends (n : Nat) (q : Option QueueSlot) (s : State) : ((Effect.queueSlot n q).apply s).blends = s.blends := rfl
@[simp] theorem apply_queueSlot_replicas (n : Nat) (q : Option QueueSlot) (s : State) : ((Effect.queueSlot n q).apply s).replicas = s.replicas := rfl
@[simp] theorem apply_queueSlot_mgmt (n : Nat) (q : Option QueueSlot) (s : State) : ((Effect.queueSlot n q).apply s).mgmt = s.mgmt := rfl
@[simp] theorem apply_queueSlot_sent (n : Nat) (q : Option QueueSlot) (s : State) : ((Effect.queueSlot n q).apply s).sent = s.sent := rfl
@[simp] theorem apply_queueSlot_cycle (n : Nat) (q : Option QueueSlot) (s : State) : ((Effect.queueSlot n q).apply s).cycle = s.cycle := rfl
@[simp] theorem apply_queueSlot_agenda (n : Nat) (q : Option QueueSlot) (s : State) : ((Effect.queueSlot n q).apply s).agenda = s.agenda := rfl
@[simp] theorem apply_queueSlot_input (n : Nat) (q : Option QueueSlot) (s : State) : ((Effect.queueSlot n q).apply s).input = s.input := rfl
@[simp] theorem apply_queueSlot_cur (n : Nat) (q : Option QueueSlot) (s : State) : ((Effect.queueSlot n q).apply s).cur = s.cur := rfl
@[simp] theorem apply_queueSlot_insn (n : Nat) (q : Option QueueSlot) (s : State) : ((Effect.queueSlot n q).apply s).insn = s.insn := rfl
@[simp] theorem apply_queueSlot_phase (n : Nat) (q : Option QueueSlot) (s : State) : ((Effect.queueSlot n q).apply s).phase = s.phase := rfl
@[simp] theorem apply_queueSlot_freeCtr (n : Nat) (q : Option QueueSlot) (s : State) : ((Effect.queueSlot n q).apply s).freeCtr = s.freeCtr := rfl
@[simp] theorem apply_queueSlot_nextId (n : Nat) (q : Option QueueSlot) (s : State) : ((Effect.queueSlot n q).apply s).nextId = s.nextId := rfl
@[simp] theorem apply_peer_mem (n : Nat) (e : PeerEntry) (s : State) : ((Effect.peer n e).apply s).mem = s.mem := rfl
@[simp] theorem apply_peer_empties (n : Nat) (e : PeerEntry) (s : State) : ((Effect.peer n e).apply s).empties = s.empties := rfl
@[simp] theorem apply_peer_bad (n : Nat) (e : PeerEntry) (s : State) : ((Effect.peer n e).apply s).bad = s.bad := rfl
@[simp] theorem apply_peer_old (n : Nat) (e : PeerEntry) (s : State) : ((Effect.peer n e).apply s).old = s.old := rfl
@[simp] theorem apply_peer_threads (n : Nat) (e : PeerEntry) (s : State) : ((Effect.peer n e).apply s).threads = s.threads := rfl
@[simp] theorem apply_peer_starts (n : Nat) (e : PeerEntry) (s : State) : ((Effect.peer n e).apply s).starts = s.starts := rfl
@[simp] theorem apply_peer_tiles (n : Nat) (e : PeerEntry) (s : State) : ((Effect.peer n e).apply s).tiles = s.tiles := rfl
@[simp] theorem apply_peer_accs (n : Nat) (e : PeerEntry) (s : State) : ((Effect.peer n e).apply s).accs = s.accs := rfl
@[simp] theorem apply_peer_cores (n : Nat) (e : PeerEntry) (s : State) : ((Effect.peer n e).apply s).cores = s.cores := rfl
@[simp] theorem apply_peer_clusters (n : Nat) (e : PeerEntry) (s : State) : ((Effect.peer n e).apply s).clusters = s.clusters := rfl
@[simp] theorem apply_peer_dies (n : Nat) (e : PeerEntry) (s : State) : ((Effect.peer n e).apply s).dies = s.dies := rfl
@[simp] theorem apply_peer_contexts (n : Nat) (e : PeerEntry) (s : State) : ((Effect.peer n e).apply s).contexts = s.contexts := rfl
@[simp] theorem apply_peer_queueSlots (n : Nat) (e : PeerEntry) (s : State) : ((Effect.peer n e).apply s).queueSlots = s.queueSlots := rfl
@[simp] theorem apply_peer_peers (n : Nat) (e : PeerEntry) (s : State) : ((Effect.peer n e).apply s).peers = mapPut n e s.peers := rfl
@[simp] theorem apply_peer_homes (n : Nat) (e : PeerEntry) (s : State) : ((Effect.peer n e).apply s).homes = s.homes := rfl
@[simp] theorem apply_peer_arrivals (n : Nat) (e : PeerEntry) (s : State) : ((Effect.peer n e).apply s).arrivals = s.arrivals := rfl
@[simp] theorem apply_peer_holds (n : Nat) (e : PeerEntry) (s : State) : ((Effect.peer n e).apply s).holds = s.holds := rfl
@[simp] theorem apply_peer_reqs (n : Nat) (e : PeerEntry) (s : State) : ((Effect.peer n e).apply s).reqs = s.reqs := rfl
@[simp] theorem apply_peer_tlb (n : Nat) (e : PeerEntry) (s : State) : ((Effect.peer n e).apply s).tlb = s.tlb := rfl
@[simp] theorem apply_peer_granules (n : Nat) (e : PeerEntry) (s : State) : ((Effect.peer n e).apply s).granules = s.granules := rfl
@[simp] theorem apply_peer_faults (n : Nat) (e : PeerEntry) (s : State) : ((Effect.peer n e).apply s).faults = s.faults := rfl
@[simp] theorem apply_peer_wakes (n : Nat) (e : PeerEntry) (s : State) : ((Effect.peer n e).apply s).wakes = s.wakes := rfl
@[simp] theorem apply_peer_migrants (n : Nat) (e : PeerEntry) (s : State) : ((Effect.peer n e).apply s).migrants = s.migrants := rfl
@[simp] theorem apply_peer_crews (n : Nat) (e : PeerEntry) (s : State) : ((Effect.peer n e).apply s).crews = s.crews := rfl
@[simp] theorem apply_peer_flasks (n : Nat) (e : PeerEntry) (s : State) : ((Effect.peer n e).apply s).flasks = s.flasks := rfl
@[simp] theorem apply_peer_grids (n : Nat) (e : PeerEntry) (s : State) : ((Effect.peer n e).apply s).grids = s.grids := rfl
@[simp] theorem apply_peer_jobs (n : Nat) (e : PeerEntry) (s : State) : ((Effect.peer n e).apply s).jobs = s.jobs := rfl
@[simp] theorem apply_peer_gctxs (n : Nat) (e : PeerEntry) (s : State) : ((Effect.peer n e).apply s).gctxs = s.gctxs := rfl
@[simp] theorem apply_peer_blends (n : Nat) (e : PeerEntry) (s : State) : ((Effect.peer n e).apply s).blends = s.blends := rfl
@[simp] theorem apply_peer_replicas (n : Nat) (e : PeerEntry) (s : State) : ((Effect.peer n e).apply s).replicas = s.replicas := rfl
@[simp] theorem apply_peer_mgmt (n : Nat) (e : PeerEntry) (s : State) : ((Effect.peer n e).apply s).mgmt = s.mgmt := rfl
@[simp] theorem apply_peer_sent (n : Nat) (e : PeerEntry) (s : State) : ((Effect.peer n e).apply s).sent = s.sent := rfl
@[simp] theorem apply_peer_cycle (n : Nat) (e : PeerEntry) (s : State) : ((Effect.peer n e).apply s).cycle = s.cycle := rfl
@[simp] theorem apply_peer_agenda (n : Nat) (e : PeerEntry) (s : State) : ((Effect.peer n e).apply s).agenda = s.agenda := rfl
@[simp] theorem apply_peer_input (n : Nat) (e : PeerEntry) (s : State) : ((Effect.peer n e).apply s).input = s.input := rfl
@[simp] theorem apply_peer_cur (n : Nat) (e : PeerEntry) (s : State) : ((Effect.peer n e).apply s).cur = s.cur := rfl
@[simp] theorem apply_peer_insn (n : Nat) (e : PeerEntry) (s : State) : ((Effect.peer n e).apply s).insn = s.insn := rfl
@[simp] theorem apply_peer_phase (n : Nat) (e : PeerEntry) (s : State) : ((Effect.peer n e).apply s).phase = s.phase := rfl
@[simp] theorem apply_peer_freeCtr (n : Nat) (e : PeerEntry) (s : State) : ((Effect.peer n e).apply s).freeCtr = s.freeCtr := rfl
@[simp] theorem apply_peer_nextId (n : Nat) (e : PeerEntry) (s : State) : ((Effect.peer n e).apply s).nextId = s.nextId := rfl
@[simp] theorem apply_home_mem (n : Nat) (h : Option Home) (s : State) : ((Effect.home n h).apply s).mem = s.mem := rfl
@[simp] theorem apply_home_empties (n : Nat) (h : Option Home) (s : State) : ((Effect.home n h).apply s).empties = s.empties := rfl
@[simp] theorem apply_home_bad (n : Nat) (h : Option Home) (s : State) : ((Effect.home n h).apply s).bad = s.bad := rfl
@[simp] theorem apply_home_old (n : Nat) (h : Option Home) (s : State) : ((Effect.home n h).apply s).old = s.old := rfl
@[simp] theorem apply_home_threads (n : Nat) (h : Option Home) (s : State) : ((Effect.home n h).apply s).threads = s.threads := rfl
@[simp] theorem apply_home_starts (n : Nat) (h : Option Home) (s : State) : ((Effect.home n h).apply s).starts = s.starts := rfl
@[simp] theorem apply_home_tiles (n : Nat) (h : Option Home) (s : State) : ((Effect.home n h).apply s).tiles = s.tiles := rfl
@[simp] theorem apply_home_accs (n : Nat) (h : Option Home) (s : State) : ((Effect.home n h).apply s).accs = s.accs := rfl
@[simp] theorem apply_home_cores (n : Nat) (h : Option Home) (s : State) : ((Effect.home n h).apply s).cores = s.cores := rfl
@[simp] theorem apply_home_clusters (n : Nat) (h : Option Home) (s : State) : ((Effect.home n h).apply s).clusters = s.clusters := rfl
@[simp] theorem apply_home_dies (n : Nat) (h : Option Home) (s : State) : ((Effect.home n h).apply s).dies = s.dies := rfl
@[simp] theorem apply_home_contexts (n : Nat) (h : Option Home) (s : State) : ((Effect.home n h).apply s).contexts = s.contexts := rfl
@[simp] theorem apply_home_queueSlots (n : Nat) (h : Option Home) (s : State) : ((Effect.home n h).apply s).queueSlots = s.queueSlots := rfl
@[simp] theorem apply_home_peers (n : Nat) (h : Option Home) (s : State) : ((Effect.home n h).apply s).peers = s.peers := rfl
@[simp] theorem apply_home_homes (n : Nat) (h : Option Home) (s : State) : ((Effect.home n h).apply s).homes = mapSet n h s.homes := rfl
@[simp] theorem apply_home_arrivals (n : Nat) (h : Option Home) (s : State) : ((Effect.home n h).apply s).arrivals = s.arrivals := rfl
@[simp] theorem apply_home_holds (n : Nat) (h : Option Home) (s : State) : ((Effect.home n h).apply s).holds = s.holds := rfl
@[simp] theorem apply_home_reqs (n : Nat) (h : Option Home) (s : State) : ((Effect.home n h).apply s).reqs = s.reqs := rfl
@[simp] theorem apply_home_tlb (n : Nat) (h : Option Home) (s : State) : ((Effect.home n h).apply s).tlb = s.tlb := rfl
@[simp] theorem apply_home_granules (n : Nat) (h : Option Home) (s : State) : ((Effect.home n h).apply s).granules = s.granules := rfl
@[simp] theorem apply_home_faults (n : Nat) (h : Option Home) (s : State) : ((Effect.home n h).apply s).faults = s.faults := rfl
@[simp] theorem apply_home_wakes (n : Nat) (h : Option Home) (s : State) : ((Effect.home n h).apply s).wakes = s.wakes := rfl
@[simp] theorem apply_home_migrants (n : Nat) (h : Option Home) (s : State) : ((Effect.home n h).apply s).migrants = s.migrants := rfl
@[simp] theorem apply_home_crews (n : Nat) (h : Option Home) (s : State) : ((Effect.home n h).apply s).crews = s.crews := rfl
@[simp] theorem apply_home_flasks (n : Nat) (h : Option Home) (s : State) : ((Effect.home n h).apply s).flasks = s.flasks := rfl
@[simp] theorem apply_home_grids (n : Nat) (h : Option Home) (s : State) : ((Effect.home n h).apply s).grids = s.grids := rfl
@[simp] theorem apply_home_jobs (n : Nat) (h : Option Home) (s : State) : ((Effect.home n h).apply s).jobs = s.jobs := rfl
@[simp] theorem apply_home_gctxs (n : Nat) (h : Option Home) (s : State) : ((Effect.home n h).apply s).gctxs = s.gctxs := rfl
@[simp] theorem apply_home_blends (n : Nat) (h : Option Home) (s : State) : ((Effect.home n h).apply s).blends = s.blends := rfl
@[simp] theorem apply_home_replicas (n : Nat) (h : Option Home) (s : State) : ((Effect.home n h).apply s).replicas = s.replicas := rfl
@[simp] theorem apply_home_mgmt (n : Nat) (h : Option Home) (s : State) : ((Effect.home n h).apply s).mgmt = s.mgmt := rfl
@[simp] theorem apply_home_sent (n : Nat) (h : Option Home) (s : State) : ((Effect.home n h).apply s).sent = s.sent := rfl
@[simp] theorem apply_home_cycle (n : Nat) (h : Option Home) (s : State) : ((Effect.home n h).apply s).cycle = s.cycle := rfl
@[simp] theorem apply_home_agenda (n : Nat) (h : Option Home) (s : State) : ((Effect.home n h).apply s).agenda = s.agenda := rfl
@[simp] theorem apply_home_input (n : Nat) (h : Option Home) (s : State) : ((Effect.home n h).apply s).input = s.input := rfl
@[simp] theorem apply_home_cur (n : Nat) (h : Option Home) (s : State) : ((Effect.home n h).apply s).cur = s.cur := rfl
@[simp] theorem apply_home_insn (n : Nat) (h : Option Home) (s : State) : ((Effect.home n h).apply s).insn = s.insn := rfl
@[simp] theorem apply_home_phase (n : Nat) (h : Option Home) (s : State) : ((Effect.home n h).apply s).phase = s.phase := rfl
@[simp] theorem apply_home_freeCtr (n : Nat) (h : Option Home) (s : State) : ((Effect.home n h).apply s).freeCtr = s.freeCtr := rfl
@[simp] theorem apply_home_nextId (n : Nat) (h : Option Home) (s : State) : ((Effect.home n h).apply s).nextId = s.nextId := rfl
@[simp] theorem apply_arrival_mem (n count : Nat) (s : State) : ((Effect.arrival n count).apply s).mem = s.mem := rfl
@[simp] theorem apply_arrival_empties (n count : Nat) (s : State) : ((Effect.arrival n count).apply s).empties = s.empties := rfl
@[simp] theorem apply_arrival_bad (n count : Nat) (s : State) : ((Effect.arrival n count).apply s).bad = s.bad := rfl
@[simp] theorem apply_arrival_old (n count : Nat) (s : State) : ((Effect.arrival n count).apply s).old = s.old := rfl
@[simp] theorem apply_arrival_threads (n count : Nat) (s : State) : ((Effect.arrival n count).apply s).threads = s.threads := rfl
@[simp] theorem apply_arrival_starts (n count : Nat) (s : State) : ((Effect.arrival n count).apply s).starts = s.starts := rfl
@[simp] theorem apply_arrival_tiles (n count : Nat) (s : State) : ((Effect.arrival n count).apply s).tiles = s.tiles := rfl
@[simp] theorem apply_arrival_accs (n count : Nat) (s : State) : ((Effect.arrival n count).apply s).accs = s.accs := rfl
@[simp] theorem apply_arrival_cores (n count : Nat) (s : State) : ((Effect.arrival n count).apply s).cores = s.cores := rfl
@[simp] theorem apply_arrival_clusters (n count : Nat) (s : State) : ((Effect.arrival n count).apply s).clusters = s.clusters := rfl
@[simp] theorem apply_arrival_dies (n count : Nat) (s : State) : ((Effect.arrival n count).apply s).dies = s.dies := rfl
@[simp] theorem apply_arrival_contexts (n count : Nat) (s : State) : ((Effect.arrival n count).apply s).contexts = s.contexts := rfl
@[simp] theorem apply_arrival_queueSlots (n count : Nat) (s : State) : ((Effect.arrival n count).apply s).queueSlots = s.queueSlots := rfl
@[simp] theorem apply_arrival_peers (n count : Nat) (s : State) : ((Effect.arrival n count).apply s).peers = s.peers := rfl
@[simp] theorem apply_arrival_homes (n count : Nat) (s : State) : ((Effect.arrival n count).apply s).homes = s.homes := rfl
@[simp] theorem apply_arrival_arrivals (n count : Nat) (s : State) : ((Effect.arrival n count).apply s).arrivals = mapPut n count s.arrivals := rfl
@[simp] theorem apply_arrival_holds (n count : Nat) (s : State) : ((Effect.arrival n count).apply s).holds = s.holds := rfl
@[simp] theorem apply_arrival_reqs (n count : Nat) (s : State) : ((Effect.arrival n count).apply s).reqs = s.reqs := rfl
@[simp] theorem apply_arrival_tlb (n count : Nat) (s : State) : ((Effect.arrival n count).apply s).tlb = s.tlb := rfl
@[simp] theorem apply_arrival_granules (n count : Nat) (s : State) : ((Effect.arrival n count).apply s).granules = s.granules := rfl
@[simp] theorem apply_arrival_faults (n count : Nat) (s : State) : ((Effect.arrival n count).apply s).faults = s.faults := rfl
@[simp] theorem apply_arrival_wakes (n count : Nat) (s : State) : ((Effect.arrival n count).apply s).wakes = s.wakes := rfl
@[simp] theorem apply_arrival_migrants (n count : Nat) (s : State) : ((Effect.arrival n count).apply s).migrants = s.migrants := rfl
@[simp] theorem apply_arrival_crews (n count : Nat) (s : State) : ((Effect.arrival n count).apply s).crews = s.crews := rfl
@[simp] theorem apply_arrival_flasks (n count : Nat) (s : State) : ((Effect.arrival n count).apply s).flasks = s.flasks := rfl
@[simp] theorem apply_arrival_grids (n count : Nat) (s : State) : ((Effect.arrival n count).apply s).grids = s.grids := rfl
@[simp] theorem apply_arrival_jobs (n count : Nat) (s : State) : ((Effect.arrival n count).apply s).jobs = s.jobs := rfl
@[simp] theorem apply_arrival_gctxs (n count : Nat) (s : State) : ((Effect.arrival n count).apply s).gctxs = s.gctxs := rfl
@[simp] theorem apply_arrival_blends (n count : Nat) (s : State) : ((Effect.arrival n count).apply s).blends = s.blends := rfl
@[simp] theorem apply_arrival_replicas (n count : Nat) (s : State) : ((Effect.arrival n count).apply s).replicas = s.replicas := rfl
@[simp] theorem apply_arrival_mgmt (n count : Nat) (s : State) : ((Effect.arrival n count).apply s).mgmt = s.mgmt := rfl
@[simp] theorem apply_arrival_sent (n count : Nat) (s : State) : ((Effect.arrival n count).apply s).sent = s.sent := rfl
@[simp] theorem apply_arrival_cycle (n count : Nat) (s : State) : ((Effect.arrival n count).apply s).cycle = s.cycle := rfl
@[simp] theorem apply_arrival_agenda (n count : Nat) (s : State) : ((Effect.arrival n count).apply s).agenda = s.agenda := rfl
@[simp] theorem apply_arrival_input (n count : Nat) (s : State) : ((Effect.arrival n count).apply s).input = s.input := rfl
@[simp] theorem apply_arrival_cur (n count : Nat) (s : State) : ((Effect.arrival n count).apply s).cur = s.cur := rfl
@[simp] theorem apply_arrival_insn (n count : Nat) (s : State) : ((Effect.arrival n count).apply s).insn = s.insn := rfl
@[simp] theorem apply_arrival_phase (n count : Nat) (s : State) : ((Effect.arrival n count).apply s).phase = s.phase := rfl
@[simp] theorem apply_arrival_freeCtr (n count : Nat) (s : State) : ((Effect.arrival n count).apply s).freeCtr = s.freeCtr := rfl
@[simp] theorem apply_arrival_nextId (n count : Nat) (s : State) : ((Effect.arrival n count).apply s).nextId = s.nextId := rfl
@[simp] theorem apply_hold_mem (n : Nat) (h : Option Hold) (s : State) : ((Effect.hold n h).apply s).mem = s.mem := rfl
@[simp] theorem apply_hold_empties (n : Nat) (h : Option Hold) (s : State) : ((Effect.hold n h).apply s).empties = s.empties := rfl
@[simp] theorem apply_hold_bad (n : Nat) (h : Option Hold) (s : State) : ((Effect.hold n h).apply s).bad = s.bad := rfl
@[simp] theorem apply_hold_old (n : Nat) (h : Option Hold) (s : State) : ((Effect.hold n h).apply s).old = s.old := rfl
@[simp] theorem apply_hold_threads (n : Nat) (h : Option Hold) (s : State) : ((Effect.hold n h).apply s).threads = s.threads := rfl
@[simp] theorem apply_hold_starts (n : Nat) (h : Option Hold) (s : State) : ((Effect.hold n h).apply s).starts = s.starts := rfl
@[simp] theorem apply_hold_tiles (n : Nat) (h : Option Hold) (s : State) : ((Effect.hold n h).apply s).tiles = s.tiles := rfl
@[simp] theorem apply_hold_accs (n : Nat) (h : Option Hold) (s : State) : ((Effect.hold n h).apply s).accs = s.accs := rfl
@[simp] theorem apply_hold_cores (n : Nat) (h : Option Hold) (s : State) : ((Effect.hold n h).apply s).cores = s.cores := rfl
@[simp] theorem apply_hold_clusters (n : Nat) (h : Option Hold) (s : State) : ((Effect.hold n h).apply s).clusters = s.clusters := rfl
@[simp] theorem apply_hold_dies (n : Nat) (h : Option Hold) (s : State) : ((Effect.hold n h).apply s).dies = s.dies := rfl
@[simp] theorem apply_hold_contexts (n : Nat) (h : Option Hold) (s : State) : ((Effect.hold n h).apply s).contexts = s.contexts := rfl
@[simp] theorem apply_hold_queueSlots (n : Nat) (h : Option Hold) (s : State) : ((Effect.hold n h).apply s).queueSlots = s.queueSlots := rfl
@[simp] theorem apply_hold_peers (n : Nat) (h : Option Hold) (s : State) : ((Effect.hold n h).apply s).peers = s.peers := rfl
@[simp] theorem apply_hold_homes (n : Nat) (h : Option Hold) (s : State) : ((Effect.hold n h).apply s).homes = s.homes := rfl
@[simp] theorem apply_hold_arrivals (n : Nat) (h : Option Hold) (s : State) : ((Effect.hold n h).apply s).arrivals = s.arrivals := rfl
@[simp] theorem apply_hold_holds (n : Nat) (h : Option Hold) (s : State) : ((Effect.hold n h).apply s).holds = mapSet n h s.holds := rfl
@[simp] theorem apply_hold_reqs (n : Nat) (h : Option Hold) (s : State) : ((Effect.hold n h).apply s).reqs = s.reqs := rfl
@[simp] theorem apply_hold_tlb (n : Nat) (h : Option Hold) (s : State) : ((Effect.hold n h).apply s).tlb = s.tlb := rfl
@[simp] theorem apply_hold_granules (n : Nat) (h : Option Hold) (s : State) : ((Effect.hold n h).apply s).granules = s.granules := rfl
@[simp] theorem apply_hold_faults (n : Nat) (h : Option Hold) (s : State) : ((Effect.hold n h).apply s).faults = s.faults := rfl
@[simp] theorem apply_hold_wakes (n : Nat) (h : Option Hold) (s : State) : ((Effect.hold n h).apply s).wakes = s.wakes := rfl
@[simp] theorem apply_hold_migrants (n : Nat) (h : Option Hold) (s : State) : ((Effect.hold n h).apply s).migrants = s.migrants := rfl
@[simp] theorem apply_hold_crews (n : Nat) (h : Option Hold) (s : State) : ((Effect.hold n h).apply s).crews = s.crews := rfl
@[simp] theorem apply_hold_flasks (n : Nat) (h : Option Hold) (s : State) : ((Effect.hold n h).apply s).flasks = s.flasks := rfl
@[simp] theorem apply_hold_grids (n : Nat) (h : Option Hold) (s : State) : ((Effect.hold n h).apply s).grids = s.grids := rfl
@[simp] theorem apply_hold_jobs (n : Nat) (h : Option Hold) (s : State) : ((Effect.hold n h).apply s).jobs = s.jobs := rfl
@[simp] theorem apply_hold_gctxs (n : Nat) (h : Option Hold) (s : State) : ((Effect.hold n h).apply s).gctxs = s.gctxs := rfl
@[simp] theorem apply_hold_blends (n : Nat) (h : Option Hold) (s : State) : ((Effect.hold n h).apply s).blends = s.blends := rfl
@[simp] theorem apply_hold_replicas (n : Nat) (h : Option Hold) (s : State) : ((Effect.hold n h).apply s).replicas = s.replicas := rfl
@[simp] theorem apply_hold_mgmt (n : Nat) (h : Option Hold) (s : State) : ((Effect.hold n h).apply s).mgmt = s.mgmt := rfl
@[simp] theorem apply_hold_sent (n : Nat) (h : Option Hold) (s : State) : ((Effect.hold n h).apply s).sent = s.sent := rfl
@[simp] theorem apply_hold_cycle (n : Nat) (h : Option Hold) (s : State) : ((Effect.hold n h).apply s).cycle = s.cycle := rfl
@[simp] theorem apply_hold_agenda (n : Nat) (h : Option Hold) (s : State) : ((Effect.hold n h).apply s).agenda = s.agenda := rfl
@[simp] theorem apply_hold_input (n : Nat) (h : Option Hold) (s : State) : ((Effect.hold n h).apply s).input = s.input := rfl
@[simp] theorem apply_hold_cur (n : Nat) (h : Option Hold) (s : State) : ((Effect.hold n h).apply s).cur = s.cur := rfl
@[simp] theorem apply_hold_insn (n : Nat) (h : Option Hold) (s : State) : ((Effect.hold n h).apply s).insn = s.insn := rfl
@[simp] theorem apply_hold_phase (n : Nat) (h : Option Hold) (s : State) : ((Effect.hold n h).apply s).phase = s.phase := rfl
@[simp] theorem apply_hold_freeCtr (n : Nat) (h : Option Hold) (s : State) : ((Effect.hold n h).apply s).freeCtr = s.freeCtr := rfl
@[simp] theorem apply_hold_nextId (n : Nat) (h : Option Hold) (s : State) : ((Effect.hold n h).apply s).nextId = s.nextId := rfl
@[simp] theorem apply_req_mem (n : Nat) (r : Option Req) (s : State) : ((Effect.req n r).apply s).mem = s.mem := rfl
@[simp] theorem apply_req_empties (n : Nat) (r : Option Req) (s : State) : ((Effect.req n r).apply s).empties = s.empties := rfl
@[simp] theorem apply_req_bad (n : Nat) (r : Option Req) (s : State) : ((Effect.req n r).apply s).bad = s.bad := rfl
@[simp] theorem apply_req_old (n : Nat) (r : Option Req) (s : State) : ((Effect.req n r).apply s).old = s.old := rfl
@[simp] theorem apply_req_threads (n : Nat) (r : Option Req) (s : State) : ((Effect.req n r).apply s).threads = s.threads := rfl
@[simp] theorem apply_req_starts (n : Nat) (r : Option Req) (s : State) : ((Effect.req n r).apply s).starts = s.starts := rfl
@[simp] theorem apply_req_tiles (n : Nat) (r : Option Req) (s : State) : ((Effect.req n r).apply s).tiles = s.tiles := rfl
@[simp] theorem apply_req_accs (n : Nat) (r : Option Req) (s : State) : ((Effect.req n r).apply s).accs = s.accs := rfl
@[simp] theorem apply_req_cores (n : Nat) (r : Option Req) (s : State) : ((Effect.req n r).apply s).cores = s.cores := rfl
@[simp] theorem apply_req_clusters (n : Nat) (r : Option Req) (s : State) : ((Effect.req n r).apply s).clusters = s.clusters := rfl
@[simp] theorem apply_req_dies (n : Nat) (r : Option Req) (s : State) : ((Effect.req n r).apply s).dies = s.dies := rfl
@[simp] theorem apply_req_contexts (n : Nat) (r : Option Req) (s : State) : ((Effect.req n r).apply s).contexts = s.contexts := rfl
@[simp] theorem apply_req_queueSlots (n : Nat) (r : Option Req) (s : State) : ((Effect.req n r).apply s).queueSlots = s.queueSlots := rfl
@[simp] theorem apply_req_peers (n : Nat) (r : Option Req) (s : State) : ((Effect.req n r).apply s).peers = s.peers := rfl
@[simp] theorem apply_req_homes (n : Nat) (r : Option Req) (s : State) : ((Effect.req n r).apply s).homes = s.homes := rfl
@[simp] theorem apply_req_arrivals (n : Nat) (r : Option Req) (s : State) : ((Effect.req n r).apply s).arrivals = s.arrivals := rfl
@[simp] theorem apply_req_holds (n : Nat) (r : Option Req) (s : State) : ((Effect.req n r).apply s).holds = s.holds := rfl
@[simp] theorem apply_req_reqs (n : Nat) (r : Option Req) (s : State) : ((Effect.req n r).apply s).reqs = mapSet n r s.reqs := rfl
@[simp] theorem apply_req_tlb (n : Nat) (r : Option Req) (s : State) : ((Effect.req n r).apply s).tlb = s.tlb := rfl
@[simp] theorem apply_req_granules (n : Nat) (r : Option Req) (s : State) : ((Effect.req n r).apply s).granules = s.granules := rfl
@[simp] theorem apply_req_faults (n : Nat) (r : Option Req) (s : State) : ((Effect.req n r).apply s).faults = s.faults := rfl
@[simp] theorem apply_req_wakes (n : Nat) (r : Option Req) (s : State) : ((Effect.req n r).apply s).wakes = s.wakes := rfl
@[simp] theorem apply_req_migrants (n : Nat) (r : Option Req) (s : State) : ((Effect.req n r).apply s).migrants = s.migrants := rfl
@[simp] theorem apply_req_crews (n : Nat) (r : Option Req) (s : State) : ((Effect.req n r).apply s).crews = s.crews := rfl
@[simp] theorem apply_req_flasks (n : Nat) (r : Option Req) (s : State) : ((Effect.req n r).apply s).flasks = s.flasks := rfl
@[simp] theorem apply_req_grids (n : Nat) (r : Option Req) (s : State) : ((Effect.req n r).apply s).grids = s.grids := rfl
@[simp] theorem apply_req_jobs (n : Nat) (r : Option Req) (s : State) : ((Effect.req n r).apply s).jobs = s.jobs := rfl
@[simp] theorem apply_req_gctxs (n : Nat) (r : Option Req) (s : State) : ((Effect.req n r).apply s).gctxs = s.gctxs := rfl
@[simp] theorem apply_req_blends (n : Nat) (r : Option Req) (s : State) : ((Effect.req n r).apply s).blends = s.blends := rfl
@[simp] theorem apply_req_replicas (n : Nat) (r : Option Req) (s : State) : ((Effect.req n r).apply s).replicas = s.replicas := rfl
@[simp] theorem apply_req_mgmt (n : Nat) (r : Option Req) (s : State) : ((Effect.req n r).apply s).mgmt = s.mgmt := rfl
@[simp] theorem apply_req_sent (n : Nat) (r : Option Req) (s : State) : ((Effect.req n r).apply s).sent = s.sent := rfl
@[simp] theorem apply_req_cycle (n : Nat) (r : Option Req) (s : State) : ((Effect.req n r).apply s).cycle = s.cycle := rfl
@[simp] theorem apply_req_agenda (n : Nat) (r : Option Req) (s : State) : ((Effect.req n r).apply s).agenda = s.agenda := rfl
@[simp] theorem apply_req_input (n : Nat) (r : Option Req) (s : State) : ((Effect.req n r).apply s).input = s.input := rfl
@[simp] theorem apply_req_cur (n : Nat) (r : Option Req) (s : State) : ((Effect.req n r).apply s).cur = s.cur := rfl
@[simp] theorem apply_req_insn (n : Nat) (r : Option Req) (s : State) : ((Effect.req n r).apply s).insn = s.insn := rfl
@[simp] theorem apply_req_phase (n : Nat) (r : Option Req) (s : State) : ((Effect.req n r).apply s).phase = s.phase := rfl
@[simp] theorem apply_req_freeCtr (n : Nat) (r : Option Req) (s : State) : ((Effect.req n r).apply s).freeCtr = s.freeCtr := rfl
@[simp] theorem apply_req_nextId (n : Nat) (r : Option Req) (s : State) : ((Effect.req n r).apply s).nextId = s.nextId := rfl
@[simp] theorem apply_migrant_mem (n : Nat) (m : Option Migrant) (s : State) : ((Effect.migrant n m).apply s).mem = s.mem := rfl
@[simp] theorem apply_migrant_empties (n : Nat) (m : Option Migrant) (s : State) : ((Effect.migrant n m).apply s).empties = s.empties := rfl
@[simp] theorem apply_migrant_bad (n : Nat) (m : Option Migrant) (s : State) : ((Effect.migrant n m).apply s).bad = s.bad := rfl
@[simp] theorem apply_migrant_old (n : Nat) (m : Option Migrant) (s : State) : ((Effect.migrant n m).apply s).old = s.old := rfl
@[simp] theorem apply_migrant_threads (n : Nat) (m : Option Migrant) (s : State) : ((Effect.migrant n m).apply s).threads = s.threads := rfl
@[simp] theorem apply_migrant_starts (n : Nat) (m : Option Migrant) (s : State) : ((Effect.migrant n m).apply s).starts = s.starts := rfl
@[simp] theorem apply_migrant_tiles (n : Nat) (m : Option Migrant) (s : State) : ((Effect.migrant n m).apply s).tiles = s.tiles := rfl
@[simp] theorem apply_migrant_accs (n : Nat) (m : Option Migrant) (s : State) : ((Effect.migrant n m).apply s).accs = s.accs := rfl
@[simp] theorem apply_migrant_cores (n : Nat) (m : Option Migrant) (s : State) : ((Effect.migrant n m).apply s).cores = s.cores := rfl
@[simp] theorem apply_migrant_clusters (n : Nat) (m : Option Migrant) (s : State) : ((Effect.migrant n m).apply s).clusters = s.clusters := rfl
@[simp] theorem apply_migrant_dies (n : Nat) (m : Option Migrant) (s : State) : ((Effect.migrant n m).apply s).dies = s.dies := rfl
@[simp] theorem apply_migrant_contexts (n : Nat) (m : Option Migrant) (s : State) : ((Effect.migrant n m).apply s).contexts = s.contexts := rfl
@[simp] theorem apply_migrant_queueSlots (n : Nat) (m : Option Migrant) (s : State) : ((Effect.migrant n m).apply s).queueSlots = s.queueSlots := rfl
@[simp] theorem apply_migrant_peers (n : Nat) (m : Option Migrant) (s : State) : ((Effect.migrant n m).apply s).peers = s.peers := rfl
@[simp] theorem apply_migrant_homes (n : Nat) (m : Option Migrant) (s : State) : ((Effect.migrant n m).apply s).homes = s.homes := rfl
@[simp] theorem apply_migrant_arrivals (n : Nat) (m : Option Migrant) (s : State) : ((Effect.migrant n m).apply s).arrivals = s.arrivals := rfl
@[simp] theorem apply_migrant_holds (n : Nat) (m : Option Migrant) (s : State) : ((Effect.migrant n m).apply s).holds = s.holds := rfl
@[simp] theorem apply_migrant_reqs (n : Nat) (m : Option Migrant) (s : State) : ((Effect.migrant n m).apply s).reqs = s.reqs := rfl
@[simp] theorem apply_migrant_tlb (n : Nat) (m : Option Migrant) (s : State) : ((Effect.migrant n m).apply s).tlb = s.tlb := rfl
@[simp] theorem apply_migrant_granules (n : Nat) (m : Option Migrant) (s : State) : ((Effect.migrant n m).apply s).granules = s.granules := rfl
@[simp] theorem apply_migrant_faults (n : Nat) (m : Option Migrant) (s : State) : ((Effect.migrant n m).apply s).faults = s.faults := rfl
@[simp] theorem apply_migrant_wakes (n : Nat) (m : Option Migrant) (s : State) : ((Effect.migrant n m).apply s).wakes = s.wakes := rfl
@[simp] theorem apply_migrant_migrants (n : Nat) (m : Option Migrant) (s : State) : ((Effect.migrant n m).apply s).migrants = mapSet n m s.migrants := rfl
@[simp] theorem apply_migrant_crews (n : Nat) (m : Option Migrant) (s : State) : ((Effect.migrant n m).apply s).crews = s.crews := rfl
@[simp] theorem apply_migrant_flasks (n : Nat) (m : Option Migrant) (s : State) : ((Effect.migrant n m).apply s).flasks = s.flasks := rfl
@[simp] theorem apply_migrant_grids (n : Nat) (m : Option Migrant) (s : State) : ((Effect.migrant n m).apply s).grids = s.grids := rfl
@[simp] theorem apply_migrant_jobs (n : Nat) (m : Option Migrant) (s : State) : ((Effect.migrant n m).apply s).jobs = s.jobs := rfl
@[simp] theorem apply_migrant_gctxs (n : Nat) (m : Option Migrant) (s : State) : ((Effect.migrant n m).apply s).gctxs = s.gctxs := rfl
@[simp] theorem apply_migrant_blends (n : Nat) (m : Option Migrant) (s : State) : ((Effect.migrant n m).apply s).blends = s.blends := rfl
@[simp] theorem apply_migrant_replicas (n : Nat) (m : Option Migrant) (s : State) : ((Effect.migrant n m).apply s).replicas = s.replicas := rfl
@[simp] theorem apply_migrant_mgmt (n : Nat) (m : Option Migrant) (s : State) : ((Effect.migrant n m).apply s).mgmt = s.mgmt := rfl
@[simp] theorem apply_migrant_sent (n : Nat) (m : Option Migrant) (s : State) : ((Effect.migrant n m).apply s).sent = s.sent := rfl
@[simp] theorem apply_migrant_cycle (n : Nat) (m : Option Migrant) (s : State) : ((Effect.migrant n m).apply s).cycle = s.cycle := rfl
@[simp] theorem apply_migrant_agenda (n : Nat) (m : Option Migrant) (s : State) : ((Effect.migrant n m).apply s).agenda = s.agenda := rfl
@[simp] theorem apply_migrant_input (n : Nat) (m : Option Migrant) (s : State) : ((Effect.migrant n m).apply s).input = s.input := rfl
@[simp] theorem apply_migrant_cur (n : Nat) (m : Option Migrant) (s : State) : ((Effect.migrant n m).apply s).cur = s.cur := rfl
@[simp] theorem apply_migrant_insn (n : Nat) (m : Option Migrant) (s : State) : ((Effect.migrant n m).apply s).insn = s.insn := rfl
@[simp] theorem apply_migrant_phase (n : Nat) (m : Option Migrant) (s : State) : ((Effect.migrant n m).apply s).phase = s.phase := rfl
@[simp] theorem apply_migrant_freeCtr (n : Nat) (m : Option Migrant) (s : State) : ((Effect.migrant n m).apply s).freeCtr = s.freeCtr := rfl
@[simp] theorem apply_migrant_nextId (n : Nat) (m : Option Migrant) (s : State) : ((Effect.migrant n m).apply s).nextId = s.nextId := rfl
@[simp] theorem apply_crew_mem (n : Nat) (c : Option Crew) (s : State) : ((Effect.crew n c).apply s).mem = s.mem := rfl
@[simp] theorem apply_crew_empties (n : Nat) (c : Option Crew) (s : State) : ((Effect.crew n c).apply s).empties = s.empties := rfl
@[simp] theorem apply_crew_bad (n : Nat) (c : Option Crew) (s : State) : ((Effect.crew n c).apply s).bad = s.bad := rfl
@[simp] theorem apply_crew_old (n : Nat) (c : Option Crew) (s : State) : ((Effect.crew n c).apply s).old = s.old := rfl
@[simp] theorem apply_crew_threads (n : Nat) (c : Option Crew) (s : State) : ((Effect.crew n c).apply s).threads = s.threads := rfl
@[simp] theorem apply_crew_starts (n : Nat) (c : Option Crew) (s : State) : ((Effect.crew n c).apply s).starts = s.starts := rfl
@[simp] theorem apply_crew_tiles (n : Nat) (c : Option Crew) (s : State) : ((Effect.crew n c).apply s).tiles = s.tiles := rfl
@[simp] theorem apply_crew_accs (n : Nat) (c : Option Crew) (s : State) : ((Effect.crew n c).apply s).accs = s.accs := rfl
@[simp] theorem apply_crew_cores (n : Nat) (c : Option Crew) (s : State) : ((Effect.crew n c).apply s).cores = s.cores := rfl
@[simp] theorem apply_crew_clusters (n : Nat) (c : Option Crew) (s : State) : ((Effect.crew n c).apply s).clusters = s.clusters := rfl
@[simp] theorem apply_crew_dies (n : Nat) (c : Option Crew) (s : State) : ((Effect.crew n c).apply s).dies = s.dies := rfl
@[simp] theorem apply_crew_contexts (n : Nat) (c : Option Crew) (s : State) : ((Effect.crew n c).apply s).contexts = s.contexts := rfl
@[simp] theorem apply_crew_queueSlots (n : Nat) (c : Option Crew) (s : State) : ((Effect.crew n c).apply s).queueSlots = s.queueSlots := rfl
@[simp] theorem apply_crew_peers (n : Nat) (c : Option Crew) (s : State) : ((Effect.crew n c).apply s).peers = s.peers := rfl
@[simp] theorem apply_crew_homes (n : Nat) (c : Option Crew) (s : State) : ((Effect.crew n c).apply s).homes = s.homes := rfl
@[simp] theorem apply_crew_arrivals (n : Nat) (c : Option Crew) (s : State) : ((Effect.crew n c).apply s).arrivals = s.arrivals := rfl
@[simp] theorem apply_crew_holds (n : Nat) (c : Option Crew) (s : State) : ((Effect.crew n c).apply s).holds = s.holds := rfl
@[simp] theorem apply_crew_reqs (n : Nat) (c : Option Crew) (s : State) : ((Effect.crew n c).apply s).reqs = s.reqs := rfl
@[simp] theorem apply_crew_tlb (n : Nat) (c : Option Crew) (s : State) : ((Effect.crew n c).apply s).tlb = s.tlb := rfl
@[simp] theorem apply_crew_granules (n : Nat) (c : Option Crew) (s : State) : ((Effect.crew n c).apply s).granules = s.granules := rfl
@[simp] theorem apply_crew_faults (n : Nat) (c : Option Crew) (s : State) : ((Effect.crew n c).apply s).faults = s.faults := rfl
@[simp] theorem apply_crew_wakes (n : Nat) (c : Option Crew) (s : State) : ((Effect.crew n c).apply s).wakes = s.wakes := rfl
@[simp] theorem apply_crew_migrants (n : Nat) (c : Option Crew) (s : State) : ((Effect.crew n c).apply s).migrants = s.migrants := rfl
@[simp] theorem apply_crew_crews (n : Nat) (c : Option Crew) (s : State) : ((Effect.crew n c).apply s).crews = mapSet n c s.crews := rfl
@[simp] theorem apply_crew_flasks (n : Nat) (c : Option Crew) (s : State) : ((Effect.crew n c).apply s).flasks = s.flasks := rfl
@[simp] theorem apply_crew_grids (n : Nat) (c : Option Crew) (s : State) : ((Effect.crew n c).apply s).grids = s.grids := rfl
@[simp] theorem apply_crew_jobs (n : Nat) (c : Option Crew) (s : State) : ((Effect.crew n c).apply s).jobs = s.jobs := rfl
@[simp] theorem apply_crew_gctxs (n : Nat) (c : Option Crew) (s : State) : ((Effect.crew n c).apply s).gctxs = s.gctxs := rfl
@[simp] theorem apply_crew_blends (n : Nat) (c : Option Crew) (s : State) : ((Effect.crew n c).apply s).blends = s.blends := rfl
@[simp] theorem apply_crew_replicas (n : Nat) (c : Option Crew) (s : State) : ((Effect.crew n c).apply s).replicas = s.replicas := rfl
@[simp] theorem apply_crew_mgmt (n : Nat) (c : Option Crew) (s : State) : ((Effect.crew n c).apply s).mgmt = s.mgmt := rfl
@[simp] theorem apply_crew_sent (n : Nat) (c : Option Crew) (s : State) : ((Effect.crew n c).apply s).sent = s.sent := rfl
@[simp] theorem apply_crew_cycle (n : Nat) (c : Option Crew) (s : State) : ((Effect.crew n c).apply s).cycle = s.cycle := rfl
@[simp] theorem apply_crew_agenda (n : Nat) (c : Option Crew) (s : State) : ((Effect.crew n c).apply s).agenda = s.agenda := rfl
@[simp] theorem apply_crew_input (n : Nat) (c : Option Crew) (s : State) : ((Effect.crew n c).apply s).input = s.input := rfl
@[simp] theorem apply_crew_cur (n : Nat) (c : Option Crew) (s : State) : ((Effect.crew n c).apply s).cur = s.cur := rfl
@[simp] theorem apply_crew_insn (n : Nat) (c : Option Crew) (s : State) : ((Effect.crew n c).apply s).insn = s.insn := rfl
@[simp] theorem apply_crew_phase (n : Nat) (c : Option Crew) (s : State) : ((Effect.crew n c).apply s).phase = s.phase := rfl
@[simp] theorem apply_crew_freeCtr (n : Nat) (c : Option Crew) (s : State) : ((Effect.crew n c).apply s).freeCtr = s.freeCtr := rfl
@[simp] theorem apply_crew_nextId (n : Nat) (c : Option Crew) (s : State) : ((Effect.crew n c).apply s).nextId = s.nextId := rfl
@[simp] theorem apply_flask_mem (n : Nat) (f : Option Flask) (s : State) : ((Effect.flask n f).apply s).mem = s.mem := rfl
@[simp] theorem apply_flask_empties (n : Nat) (f : Option Flask) (s : State) : ((Effect.flask n f).apply s).empties = s.empties := rfl
@[simp] theorem apply_flask_bad (n : Nat) (f : Option Flask) (s : State) : ((Effect.flask n f).apply s).bad = s.bad := rfl
@[simp] theorem apply_flask_old (n : Nat) (f : Option Flask) (s : State) : ((Effect.flask n f).apply s).old = s.old := rfl
@[simp] theorem apply_flask_threads (n : Nat) (f : Option Flask) (s : State) : ((Effect.flask n f).apply s).threads = s.threads := rfl
@[simp] theorem apply_flask_starts (n : Nat) (f : Option Flask) (s : State) : ((Effect.flask n f).apply s).starts = s.starts := rfl
@[simp] theorem apply_flask_tiles (n : Nat) (f : Option Flask) (s : State) : ((Effect.flask n f).apply s).tiles = s.tiles := rfl
@[simp] theorem apply_flask_accs (n : Nat) (f : Option Flask) (s : State) : ((Effect.flask n f).apply s).accs = s.accs := rfl
@[simp] theorem apply_flask_cores (n : Nat) (f : Option Flask) (s : State) : ((Effect.flask n f).apply s).cores = s.cores := rfl
@[simp] theorem apply_flask_clusters (n : Nat) (f : Option Flask) (s : State) : ((Effect.flask n f).apply s).clusters = s.clusters := rfl
@[simp] theorem apply_flask_dies (n : Nat) (f : Option Flask) (s : State) : ((Effect.flask n f).apply s).dies = s.dies := rfl
@[simp] theorem apply_flask_contexts (n : Nat) (f : Option Flask) (s : State) : ((Effect.flask n f).apply s).contexts = s.contexts := rfl
@[simp] theorem apply_flask_queueSlots (n : Nat) (f : Option Flask) (s : State) : ((Effect.flask n f).apply s).queueSlots = s.queueSlots := rfl
@[simp] theorem apply_flask_peers (n : Nat) (f : Option Flask) (s : State) : ((Effect.flask n f).apply s).peers = s.peers := rfl
@[simp] theorem apply_flask_homes (n : Nat) (f : Option Flask) (s : State) : ((Effect.flask n f).apply s).homes = s.homes := rfl
@[simp] theorem apply_flask_arrivals (n : Nat) (f : Option Flask) (s : State) : ((Effect.flask n f).apply s).arrivals = s.arrivals := rfl
@[simp] theorem apply_flask_holds (n : Nat) (f : Option Flask) (s : State) : ((Effect.flask n f).apply s).holds = s.holds := rfl
@[simp] theorem apply_flask_reqs (n : Nat) (f : Option Flask) (s : State) : ((Effect.flask n f).apply s).reqs = s.reqs := rfl
@[simp] theorem apply_flask_tlb (n : Nat) (f : Option Flask) (s : State) : ((Effect.flask n f).apply s).tlb = s.tlb := rfl
@[simp] theorem apply_flask_granules (n : Nat) (f : Option Flask) (s : State) : ((Effect.flask n f).apply s).granules = s.granules := rfl
@[simp] theorem apply_flask_faults (n : Nat) (f : Option Flask) (s : State) : ((Effect.flask n f).apply s).faults = s.faults := rfl
@[simp] theorem apply_flask_wakes (n : Nat) (f : Option Flask) (s : State) : ((Effect.flask n f).apply s).wakes = s.wakes := rfl
@[simp] theorem apply_flask_migrants (n : Nat) (f : Option Flask) (s : State) : ((Effect.flask n f).apply s).migrants = s.migrants := rfl
@[simp] theorem apply_flask_crews (n : Nat) (f : Option Flask) (s : State) : ((Effect.flask n f).apply s).crews = s.crews := rfl
@[simp] theorem apply_flask_flasks (n : Nat) (f : Option Flask) (s : State) : ((Effect.flask n f).apply s).flasks = mapSet n f s.flasks := rfl
@[simp] theorem apply_flask_grids (n : Nat) (f : Option Flask) (s : State) : ((Effect.flask n f).apply s).grids = s.grids := rfl
@[simp] theorem apply_flask_jobs (n : Nat) (f : Option Flask) (s : State) : ((Effect.flask n f).apply s).jobs = s.jobs := rfl
@[simp] theorem apply_flask_gctxs (n : Nat) (f : Option Flask) (s : State) : ((Effect.flask n f).apply s).gctxs = s.gctxs := rfl
@[simp] theorem apply_flask_blends (n : Nat) (f : Option Flask) (s : State) : ((Effect.flask n f).apply s).blends = s.blends := rfl
@[simp] theorem apply_flask_replicas (n : Nat) (f : Option Flask) (s : State) : ((Effect.flask n f).apply s).replicas = s.replicas := rfl
@[simp] theorem apply_flask_mgmt (n : Nat) (f : Option Flask) (s : State) : ((Effect.flask n f).apply s).mgmt = s.mgmt := rfl
@[simp] theorem apply_flask_sent (n : Nat) (f : Option Flask) (s : State) : ((Effect.flask n f).apply s).sent = s.sent := rfl
@[simp] theorem apply_flask_cycle (n : Nat) (f : Option Flask) (s : State) : ((Effect.flask n f).apply s).cycle = s.cycle := rfl
@[simp] theorem apply_flask_agenda (n : Nat) (f : Option Flask) (s : State) : ((Effect.flask n f).apply s).agenda = s.agenda := rfl
@[simp] theorem apply_flask_input (n : Nat) (f : Option Flask) (s : State) : ((Effect.flask n f).apply s).input = s.input := rfl
@[simp] theorem apply_flask_cur (n : Nat) (f : Option Flask) (s : State) : ((Effect.flask n f).apply s).cur = s.cur := rfl
@[simp] theorem apply_flask_insn (n : Nat) (f : Option Flask) (s : State) : ((Effect.flask n f).apply s).insn = s.insn := rfl
@[simp] theorem apply_flask_phase (n : Nat) (f : Option Flask) (s : State) : ((Effect.flask n f).apply s).phase = s.phase := rfl
@[simp] theorem apply_flask_freeCtr (n : Nat) (f : Option Flask) (s : State) : ((Effect.flask n f).apply s).freeCtr = s.freeCtr := rfl
@[simp] theorem apply_flask_nextId (n : Nat) (f : Option Flask) (s : State) : ((Effect.flask n f).apply s).nextId = s.nextId := rfl
@[simp] theorem apply_grid_mem (n : Nat) (g : Option Grid) (s : State) : ((Effect.grid n g).apply s).mem = s.mem := rfl
@[simp] theorem apply_grid_empties (n : Nat) (g : Option Grid) (s : State) : ((Effect.grid n g).apply s).empties = s.empties := rfl
@[simp] theorem apply_grid_bad (n : Nat) (g : Option Grid) (s : State) : ((Effect.grid n g).apply s).bad = s.bad := rfl
@[simp] theorem apply_grid_old (n : Nat) (g : Option Grid) (s : State) : ((Effect.grid n g).apply s).old = s.old := rfl
@[simp] theorem apply_grid_threads (n : Nat) (g : Option Grid) (s : State) : ((Effect.grid n g).apply s).threads = s.threads := rfl
@[simp] theorem apply_grid_starts (n : Nat) (g : Option Grid) (s : State) : ((Effect.grid n g).apply s).starts = s.starts := rfl
@[simp] theorem apply_grid_tiles (n : Nat) (g : Option Grid) (s : State) : ((Effect.grid n g).apply s).tiles = s.tiles := rfl
@[simp] theorem apply_grid_accs (n : Nat) (g : Option Grid) (s : State) : ((Effect.grid n g).apply s).accs = s.accs := rfl
@[simp] theorem apply_grid_cores (n : Nat) (g : Option Grid) (s : State) : ((Effect.grid n g).apply s).cores = s.cores := rfl
@[simp] theorem apply_grid_clusters (n : Nat) (g : Option Grid) (s : State) : ((Effect.grid n g).apply s).clusters = s.clusters := rfl
@[simp] theorem apply_grid_dies (n : Nat) (g : Option Grid) (s : State) : ((Effect.grid n g).apply s).dies = s.dies := rfl
@[simp] theorem apply_grid_contexts (n : Nat) (g : Option Grid) (s : State) : ((Effect.grid n g).apply s).contexts = s.contexts := rfl
@[simp] theorem apply_grid_queueSlots (n : Nat) (g : Option Grid) (s : State) : ((Effect.grid n g).apply s).queueSlots = s.queueSlots := rfl
@[simp] theorem apply_grid_peers (n : Nat) (g : Option Grid) (s : State) : ((Effect.grid n g).apply s).peers = s.peers := rfl
@[simp] theorem apply_grid_homes (n : Nat) (g : Option Grid) (s : State) : ((Effect.grid n g).apply s).homes = s.homes := rfl
@[simp] theorem apply_grid_arrivals (n : Nat) (g : Option Grid) (s : State) : ((Effect.grid n g).apply s).arrivals = s.arrivals := rfl
@[simp] theorem apply_grid_holds (n : Nat) (g : Option Grid) (s : State) : ((Effect.grid n g).apply s).holds = s.holds := rfl
@[simp] theorem apply_grid_reqs (n : Nat) (g : Option Grid) (s : State) : ((Effect.grid n g).apply s).reqs = s.reqs := rfl
@[simp] theorem apply_grid_tlb (n : Nat) (g : Option Grid) (s : State) : ((Effect.grid n g).apply s).tlb = s.tlb := rfl
@[simp] theorem apply_grid_granules (n : Nat) (g : Option Grid) (s : State) : ((Effect.grid n g).apply s).granules = s.granules := rfl
@[simp] theorem apply_grid_faults (n : Nat) (g : Option Grid) (s : State) : ((Effect.grid n g).apply s).faults = s.faults := rfl
@[simp] theorem apply_grid_wakes (n : Nat) (g : Option Grid) (s : State) : ((Effect.grid n g).apply s).wakes = s.wakes := rfl
@[simp] theorem apply_grid_migrants (n : Nat) (g : Option Grid) (s : State) : ((Effect.grid n g).apply s).migrants = s.migrants := rfl
@[simp] theorem apply_grid_crews (n : Nat) (g : Option Grid) (s : State) : ((Effect.grid n g).apply s).crews = s.crews := rfl
@[simp] theorem apply_grid_flasks (n : Nat) (g : Option Grid) (s : State) : ((Effect.grid n g).apply s).flasks = s.flasks := rfl
@[simp] theorem apply_grid_grids (n : Nat) (g : Option Grid) (s : State) : ((Effect.grid n g).apply s).grids = mapSet n g s.grids := rfl
@[simp] theorem apply_grid_jobs (n : Nat) (g : Option Grid) (s : State) : ((Effect.grid n g).apply s).jobs = s.jobs := rfl
@[simp] theorem apply_grid_gctxs (n : Nat) (g : Option Grid) (s : State) : ((Effect.grid n g).apply s).gctxs = s.gctxs := rfl
@[simp] theorem apply_grid_blends (n : Nat) (g : Option Grid) (s : State) : ((Effect.grid n g).apply s).blends = s.blends := rfl
@[simp] theorem apply_grid_replicas (n : Nat) (g : Option Grid) (s : State) : ((Effect.grid n g).apply s).replicas = s.replicas := rfl
@[simp] theorem apply_grid_mgmt (n : Nat) (g : Option Grid) (s : State) : ((Effect.grid n g).apply s).mgmt = s.mgmt := rfl
@[simp] theorem apply_grid_sent (n : Nat) (g : Option Grid) (s : State) : ((Effect.grid n g).apply s).sent = s.sent := rfl
@[simp] theorem apply_grid_cycle (n : Nat) (g : Option Grid) (s : State) : ((Effect.grid n g).apply s).cycle = s.cycle := rfl
@[simp] theorem apply_grid_agenda (n : Nat) (g : Option Grid) (s : State) : ((Effect.grid n g).apply s).agenda = s.agenda := rfl
@[simp] theorem apply_grid_input (n : Nat) (g : Option Grid) (s : State) : ((Effect.grid n g).apply s).input = s.input := rfl
@[simp] theorem apply_grid_cur (n : Nat) (g : Option Grid) (s : State) : ((Effect.grid n g).apply s).cur = s.cur := rfl
@[simp] theorem apply_grid_insn (n : Nat) (g : Option Grid) (s : State) : ((Effect.grid n g).apply s).insn = s.insn := rfl
@[simp] theorem apply_grid_phase (n : Nat) (g : Option Grid) (s : State) : ((Effect.grid n g).apply s).phase = s.phase := rfl
@[simp] theorem apply_grid_freeCtr (n : Nat) (g : Option Grid) (s : State) : ((Effect.grid n g).apply s).freeCtr = s.freeCtr := rfl
@[simp] theorem apply_grid_nextId (n : Nat) (g : Option Grid) (s : State) : ((Effect.grid n g).apply s).nextId = s.nextId := rfl
@[simp] theorem apply_job_mem (n : Nat) (j : Option Job) (s : State) : ((Effect.job n j).apply s).mem = s.mem := rfl
@[simp] theorem apply_job_empties (n : Nat) (j : Option Job) (s : State) : ((Effect.job n j).apply s).empties = s.empties := rfl
@[simp] theorem apply_job_bad (n : Nat) (j : Option Job) (s : State) : ((Effect.job n j).apply s).bad = s.bad := rfl
@[simp] theorem apply_job_old (n : Nat) (j : Option Job) (s : State) : ((Effect.job n j).apply s).old = s.old := rfl
@[simp] theorem apply_job_threads (n : Nat) (j : Option Job) (s : State) : ((Effect.job n j).apply s).threads = s.threads := rfl
@[simp] theorem apply_job_starts (n : Nat) (j : Option Job) (s : State) : ((Effect.job n j).apply s).starts = s.starts := rfl
@[simp] theorem apply_job_tiles (n : Nat) (j : Option Job) (s : State) : ((Effect.job n j).apply s).tiles = s.tiles := rfl
@[simp] theorem apply_job_accs (n : Nat) (j : Option Job) (s : State) : ((Effect.job n j).apply s).accs = s.accs := rfl
@[simp] theorem apply_job_cores (n : Nat) (j : Option Job) (s : State) : ((Effect.job n j).apply s).cores = s.cores := rfl
@[simp] theorem apply_job_clusters (n : Nat) (j : Option Job) (s : State) : ((Effect.job n j).apply s).clusters = s.clusters := rfl
@[simp] theorem apply_job_dies (n : Nat) (j : Option Job) (s : State) : ((Effect.job n j).apply s).dies = s.dies := rfl
@[simp] theorem apply_job_contexts (n : Nat) (j : Option Job) (s : State) : ((Effect.job n j).apply s).contexts = s.contexts := rfl
@[simp] theorem apply_job_queueSlots (n : Nat) (j : Option Job) (s : State) : ((Effect.job n j).apply s).queueSlots = s.queueSlots := rfl
@[simp] theorem apply_job_peers (n : Nat) (j : Option Job) (s : State) : ((Effect.job n j).apply s).peers = s.peers := rfl
@[simp] theorem apply_job_homes (n : Nat) (j : Option Job) (s : State) : ((Effect.job n j).apply s).homes = s.homes := rfl
@[simp] theorem apply_job_arrivals (n : Nat) (j : Option Job) (s : State) : ((Effect.job n j).apply s).arrivals = s.arrivals := rfl
@[simp] theorem apply_job_holds (n : Nat) (j : Option Job) (s : State) : ((Effect.job n j).apply s).holds = s.holds := rfl
@[simp] theorem apply_job_reqs (n : Nat) (j : Option Job) (s : State) : ((Effect.job n j).apply s).reqs = s.reqs := rfl
@[simp] theorem apply_job_tlb (n : Nat) (j : Option Job) (s : State) : ((Effect.job n j).apply s).tlb = s.tlb := rfl
@[simp] theorem apply_job_granules (n : Nat) (j : Option Job) (s : State) : ((Effect.job n j).apply s).granules = s.granules := rfl
@[simp] theorem apply_job_faults (n : Nat) (j : Option Job) (s : State) : ((Effect.job n j).apply s).faults = s.faults := rfl
@[simp] theorem apply_job_wakes (n : Nat) (j : Option Job) (s : State) : ((Effect.job n j).apply s).wakes = s.wakes := rfl
@[simp] theorem apply_job_migrants (n : Nat) (j : Option Job) (s : State) : ((Effect.job n j).apply s).migrants = s.migrants := rfl
@[simp] theorem apply_job_crews (n : Nat) (j : Option Job) (s : State) : ((Effect.job n j).apply s).crews = s.crews := rfl
@[simp] theorem apply_job_flasks (n : Nat) (j : Option Job) (s : State) : ((Effect.job n j).apply s).flasks = s.flasks := rfl
@[simp] theorem apply_job_grids (n : Nat) (j : Option Job) (s : State) : ((Effect.job n j).apply s).grids = s.grids := rfl
@[simp] theorem apply_job_jobs (n : Nat) (j : Option Job) (s : State) : ((Effect.job n j).apply s).jobs = mapSet n j s.jobs := rfl
@[simp] theorem apply_job_gctxs (n : Nat) (j : Option Job) (s : State) : ((Effect.job n j).apply s).gctxs = s.gctxs := rfl
@[simp] theorem apply_job_blends (n : Nat) (j : Option Job) (s : State) : ((Effect.job n j).apply s).blends = s.blends := rfl
@[simp] theorem apply_job_replicas (n : Nat) (j : Option Job) (s : State) : ((Effect.job n j).apply s).replicas = s.replicas := rfl
@[simp] theorem apply_job_mgmt (n : Nat) (j : Option Job) (s : State) : ((Effect.job n j).apply s).mgmt = s.mgmt := rfl
@[simp] theorem apply_job_sent (n : Nat) (j : Option Job) (s : State) : ((Effect.job n j).apply s).sent = s.sent := rfl
@[simp] theorem apply_job_cycle (n : Nat) (j : Option Job) (s : State) : ((Effect.job n j).apply s).cycle = s.cycle := rfl
@[simp] theorem apply_job_agenda (n : Nat) (j : Option Job) (s : State) : ((Effect.job n j).apply s).agenda = s.agenda := rfl
@[simp] theorem apply_job_input (n : Nat) (j : Option Job) (s : State) : ((Effect.job n j).apply s).input = s.input := rfl
@[simp] theorem apply_job_cur (n : Nat) (j : Option Job) (s : State) : ((Effect.job n j).apply s).cur = s.cur := rfl
@[simp] theorem apply_job_insn (n : Nat) (j : Option Job) (s : State) : ((Effect.job n j).apply s).insn = s.insn := rfl
@[simp] theorem apply_job_phase (n : Nat) (j : Option Job) (s : State) : ((Effect.job n j).apply s).phase = s.phase := rfl
@[simp] theorem apply_job_freeCtr (n : Nat) (j : Option Job) (s : State) : ((Effect.job n j).apply s).freeCtr = s.freeCtr := rfl
@[simp] theorem apply_job_nextId (n : Nat) (j : Option Job) (s : State) : ((Effect.job n j).apply s).nextId = s.nextId := rfl
@[simp] theorem apply_gctx_mem (n : Nat) (g : Option GraphicsContext) (s : State) : ((Effect.gctx n g).apply s).mem = s.mem := rfl
@[simp] theorem apply_gctx_empties (n : Nat) (g : Option GraphicsContext) (s : State) : ((Effect.gctx n g).apply s).empties = s.empties := rfl
@[simp] theorem apply_gctx_bad (n : Nat) (g : Option GraphicsContext) (s : State) : ((Effect.gctx n g).apply s).bad = s.bad := rfl
@[simp] theorem apply_gctx_old (n : Nat) (g : Option GraphicsContext) (s : State) : ((Effect.gctx n g).apply s).old = s.old := rfl
@[simp] theorem apply_gctx_threads (n : Nat) (g : Option GraphicsContext) (s : State) : ((Effect.gctx n g).apply s).threads = s.threads := rfl
@[simp] theorem apply_gctx_starts (n : Nat) (g : Option GraphicsContext) (s : State) : ((Effect.gctx n g).apply s).starts = s.starts := rfl
@[simp] theorem apply_gctx_tiles (n : Nat) (g : Option GraphicsContext) (s : State) : ((Effect.gctx n g).apply s).tiles = s.tiles := rfl
@[simp] theorem apply_gctx_accs (n : Nat) (g : Option GraphicsContext) (s : State) : ((Effect.gctx n g).apply s).accs = s.accs := rfl
@[simp] theorem apply_gctx_cores (n : Nat) (g : Option GraphicsContext) (s : State) : ((Effect.gctx n g).apply s).cores = s.cores := rfl
@[simp] theorem apply_gctx_clusters (n : Nat) (g : Option GraphicsContext) (s : State) : ((Effect.gctx n g).apply s).clusters = s.clusters := rfl
@[simp] theorem apply_gctx_dies (n : Nat) (g : Option GraphicsContext) (s : State) : ((Effect.gctx n g).apply s).dies = s.dies := rfl
@[simp] theorem apply_gctx_contexts (n : Nat) (g : Option GraphicsContext) (s : State) : ((Effect.gctx n g).apply s).contexts = s.contexts := rfl
@[simp] theorem apply_gctx_queueSlots (n : Nat) (g : Option GraphicsContext) (s : State) : ((Effect.gctx n g).apply s).queueSlots = s.queueSlots := rfl
@[simp] theorem apply_gctx_peers (n : Nat) (g : Option GraphicsContext) (s : State) : ((Effect.gctx n g).apply s).peers = s.peers := rfl
@[simp] theorem apply_gctx_homes (n : Nat) (g : Option GraphicsContext) (s : State) : ((Effect.gctx n g).apply s).homes = s.homes := rfl
@[simp] theorem apply_gctx_arrivals (n : Nat) (g : Option GraphicsContext) (s : State) : ((Effect.gctx n g).apply s).arrivals = s.arrivals := rfl
@[simp] theorem apply_gctx_holds (n : Nat) (g : Option GraphicsContext) (s : State) : ((Effect.gctx n g).apply s).holds = s.holds := rfl
@[simp] theorem apply_gctx_reqs (n : Nat) (g : Option GraphicsContext) (s : State) : ((Effect.gctx n g).apply s).reqs = s.reqs := rfl
@[simp] theorem apply_gctx_tlb (n : Nat) (g : Option GraphicsContext) (s : State) : ((Effect.gctx n g).apply s).tlb = s.tlb := rfl
@[simp] theorem apply_gctx_granules (n : Nat) (g : Option GraphicsContext) (s : State) : ((Effect.gctx n g).apply s).granules = s.granules := rfl
@[simp] theorem apply_gctx_faults (n : Nat) (g : Option GraphicsContext) (s : State) : ((Effect.gctx n g).apply s).faults = s.faults := rfl
@[simp] theorem apply_gctx_wakes (n : Nat) (g : Option GraphicsContext) (s : State) : ((Effect.gctx n g).apply s).wakes = s.wakes := rfl
@[simp] theorem apply_gctx_migrants (n : Nat) (g : Option GraphicsContext) (s : State) : ((Effect.gctx n g).apply s).migrants = s.migrants := rfl
@[simp] theorem apply_gctx_crews (n : Nat) (g : Option GraphicsContext) (s : State) : ((Effect.gctx n g).apply s).crews = s.crews := rfl
@[simp] theorem apply_gctx_flasks (n : Nat) (g : Option GraphicsContext) (s : State) : ((Effect.gctx n g).apply s).flasks = s.flasks := rfl
@[simp] theorem apply_gctx_grids (n : Nat) (g : Option GraphicsContext) (s : State) : ((Effect.gctx n g).apply s).grids = s.grids := rfl
@[simp] theorem apply_gctx_jobs (n : Nat) (g : Option GraphicsContext) (s : State) : ((Effect.gctx n g).apply s).jobs = s.jobs := rfl
@[simp] theorem apply_gctx_gctxs (n : Nat) (g : Option GraphicsContext) (s : State) : ((Effect.gctx n g).apply s).gctxs = mapSet n g s.gctxs := rfl
@[simp] theorem apply_gctx_blends (n : Nat) (g : Option GraphicsContext) (s : State) : ((Effect.gctx n g).apply s).blends = s.blends := rfl
@[simp] theorem apply_gctx_replicas (n : Nat) (g : Option GraphicsContext) (s : State) : ((Effect.gctx n g).apply s).replicas = s.replicas := rfl
@[simp] theorem apply_gctx_mgmt (n : Nat) (g : Option GraphicsContext) (s : State) : ((Effect.gctx n g).apply s).mgmt = s.mgmt := rfl
@[simp] theorem apply_gctx_sent (n : Nat) (g : Option GraphicsContext) (s : State) : ((Effect.gctx n g).apply s).sent = s.sent := rfl
@[simp] theorem apply_gctx_cycle (n : Nat) (g : Option GraphicsContext) (s : State) : ((Effect.gctx n g).apply s).cycle = s.cycle := rfl
@[simp] theorem apply_gctx_agenda (n : Nat) (g : Option GraphicsContext) (s : State) : ((Effect.gctx n g).apply s).agenda = s.agenda := rfl
@[simp] theorem apply_gctx_input (n : Nat) (g : Option GraphicsContext) (s : State) : ((Effect.gctx n g).apply s).input = s.input := rfl
@[simp] theorem apply_gctx_cur (n : Nat) (g : Option GraphicsContext) (s : State) : ((Effect.gctx n g).apply s).cur = s.cur := rfl
@[simp] theorem apply_gctx_insn (n : Nat) (g : Option GraphicsContext) (s : State) : ((Effect.gctx n g).apply s).insn = s.insn := rfl
@[simp] theorem apply_gctx_phase (n : Nat) (g : Option GraphicsContext) (s : State) : ((Effect.gctx n g).apply s).phase = s.phase := rfl
@[simp] theorem apply_gctx_freeCtr (n : Nat) (g : Option GraphicsContext) (s : State) : ((Effect.gctx n g).apply s).freeCtr = s.freeCtr := rfl
@[simp] theorem apply_gctx_nextId (n : Nat) (g : Option GraphicsContext) (s : State) : ((Effect.gctx n g).apply s).nextId = s.nextId := rfl
@[simp] theorem apply_replica_mem (n : Nat) (r : Option Replica) (s : State) : ((Effect.replica n r).apply s).mem = s.mem := rfl
@[simp] theorem apply_replica_empties (n : Nat) (r : Option Replica) (s : State) : ((Effect.replica n r).apply s).empties = s.empties := rfl
@[simp] theorem apply_replica_bad (n : Nat) (r : Option Replica) (s : State) : ((Effect.replica n r).apply s).bad = s.bad := rfl
@[simp] theorem apply_replica_old (n : Nat) (r : Option Replica) (s : State) : ((Effect.replica n r).apply s).old = s.old := rfl
@[simp] theorem apply_replica_threads (n : Nat) (r : Option Replica) (s : State) : ((Effect.replica n r).apply s).threads = s.threads := rfl
@[simp] theorem apply_replica_starts (n : Nat) (r : Option Replica) (s : State) : ((Effect.replica n r).apply s).starts = s.starts := rfl
@[simp] theorem apply_replica_tiles (n : Nat) (r : Option Replica) (s : State) : ((Effect.replica n r).apply s).tiles = s.tiles := rfl
@[simp] theorem apply_replica_accs (n : Nat) (r : Option Replica) (s : State) : ((Effect.replica n r).apply s).accs = s.accs := rfl
@[simp] theorem apply_replica_cores (n : Nat) (r : Option Replica) (s : State) : ((Effect.replica n r).apply s).cores = s.cores := rfl
@[simp] theorem apply_replica_clusters (n : Nat) (r : Option Replica) (s : State) : ((Effect.replica n r).apply s).clusters = s.clusters := rfl
@[simp] theorem apply_replica_dies (n : Nat) (r : Option Replica) (s : State) : ((Effect.replica n r).apply s).dies = s.dies := rfl
@[simp] theorem apply_replica_contexts (n : Nat) (r : Option Replica) (s : State) : ((Effect.replica n r).apply s).contexts = s.contexts := rfl
@[simp] theorem apply_replica_queueSlots (n : Nat) (r : Option Replica) (s : State) : ((Effect.replica n r).apply s).queueSlots = s.queueSlots := rfl
@[simp] theorem apply_replica_peers (n : Nat) (r : Option Replica) (s : State) : ((Effect.replica n r).apply s).peers = s.peers := rfl
@[simp] theorem apply_replica_homes (n : Nat) (r : Option Replica) (s : State) : ((Effect.replica n r).apply s).homes = s.homes := rfl
@[simp] theorem apply_replica_arrivals (n : Nat) (r : Option Replica) (s : State) : ((Effect.replica n r).apply s).arrivals = s.arrivals := rfl
@[simp] theorem apply_replica_holds (n : Nat) (r : Option Replica) (s : State) : ((Effect.replica n r).apply s).holds = s.holds := rfl
@[simp] theorem apply_replica_reqs (n : Nat) (r : Option Replica) (s : State) : ((Effect.replica n r).apply s).reqs = s.reqs := rfl
@[simp] theorem apply_replica_tlb (n : Nat) (r : Option Replica) (s : State) : ((Effect.replica n r).apply s).tlb = s.tlb := rfl
@[simp] theorem apply_replica_granules (n : Nat) (r : Option Replica) (s : State) : ((Effect.replica n r).apply s).granules = s.granules := rfl
@[simp] theorem apply_replica_faults (n : Nat) (r : Option Replica) (s : State) : ((Effect.replica n r).apply s).faults = s.faults := rfl
@[simp] theorem apply_replica_wakes (n : Nat) (r : Option Replica) (s : State) : ((Effect.replica n r).apply s).wakes = s.wakes := rfl
@[simp] theorem apply_replica_migrants (n : Nat) (r : Option Replica) (s : State) : ((Effect.replica n r).apply s).migrants = s.migrants := rfl
@[simp] theorem apply_replica_crews (n : Nat) (r : Option Replica) (s : State) : ((Effect.replica n r).apply s).crews = s.crews := rfl
@[simp] theorem apply_replica_flasks (n : Nat) (r : Option Replica) (s : State) : ((Effect.replica n r).apply s).flasks = s.flasks := rfl
@[simp] theorem apply_replica_grids (n : Nat) (r : Option Replica) (s : State) : ((Effect.replica n r).apply s).grids = s.grids := rfl
@[simp] theorem apply_replica_jobs (n : Nat) (r : Option Replica) (s : State) : ((Effect.replica n r).apply s).jobs = s.jobs := rfl
@[simp] theorem apply_replica_gctxs (n : Nat) (r : Option Replica) (s : State) : ((Effect.replica n r).apply s).gctxs = s.gctxs := rfl
@[simp] theorem apply_replica_blends (n : Nat) (r : Option Replica) (s : State) : ((Effect.replica n r).apply s).blends = s.blends := rfl
@[simp] theorem apply_replica_replicas (n : Nat) (r : Option Replica) (s : State) : ((Effect.replica n r).apply s).replicas = mapSet n r s.replicas := rfl
@[simp] theorem apply_replica_mgmt (n : Nat) (r : Option Replica) (s : State) : ((Effect.replica n r).apply s).mgmt = s.mgmt := rfl
@[simp] theorem apply_replica_sent (n : Nat) (r : Option Replica) (s : State) : ((Effect.replica n r).apply s).sent = s.sent := rfl
@[simp] theorem apply_replica_cycle (n : Nat) (r : Option Replica) (s : State) : ((Effect.replica n r).apply s).cycle = s.cycle := rfl
@[simp] theorem apply_replica_agenda (n : Nat) (r : Option Replica) (s : State) : ((Effect.replica n r).apply s).agenda = s.agenda := rfl
@[simp] theorem apply_replica_input (n : Nat) (r : Option Replica) (s : State) : ((Effect.replica n r).apply s).input = s.input := rfl
@[simp] theorem apply_replica_cur (n : Nat) (r : Option Replica) (s : State) : ((Effect.replica n r).apply s).cur = s.cur := rfl
@[simp] theorem apply_replica_insn (n : Nat) (r : Option Replica) (s : State) : ((Effect.replica n r).apply s).insn = s.insn := rfl
@[simp] theorem apply_replica_phase (n : Nat) (r : Option Replica) (s : State) : ((Effect.replica n r).apply s).phase = s.phase := rfl
@[simp] theorem apply_replica_freeCtr (n : Nat) (r : Option Replica) (s : State) : ((Effect.replica n r).apply s).freeCtr = s.freeCtr := rfl
@[simp] theorem apply_replica_nextId (n : Nat) (r : Option Replica) (s : State) : ((Effect.replica n r).apply s).nextId = s.nextId := rfl
@[simp] theorem apply_tlb_mem (n : Nat) (c : SliceCache) (s : State) : ((Effect.tlb n c).apply s).mem = s.mem := rfl
@[simp] theorem apply_tlb_empties (n : Nat) (c : SliceCache) (s : State) : ((Effect.tlb n c).apply s).empties = s.empties := rfl
@[simp] theorem apply_tlb_bad (n : Nat) (c : SliceCache) (s : State) : ((Effect.tlb n c).apply s).bad = s.bad := rfl
@[simp] theorem apply_tlb_old (n : Nat) (c : SliceCache) (s : State) : ((Effect.tlb n c).apply s).old = s.old := rfl
@[simp] theorem apply_tlb_threads (n : Nat) (c : SliceCache) (s : State) : ((Effect.tlb n c).apply s).threads = s.threads := rfl
@[simp] theorem apply_tlb_starts (n : Nat) (c : SliceCache) (s : State) : ((Effect.tlb n c).apply s).starts = s.starts := rfl
@[simp] theorem apply_tlb_tiles (n : Nat) (c : SliceCache) (s : State) : ((Effect.tlb n c).apply s).tiles = s.tiles := rfl
@[simp] theorem apply_tlb_accs (n : Nat) (c : SliceCache) (s : State) : ((Effect.tlb n c).apply s).accs = s.accs := rfl
@[simp] theorem apply_tlb_cores (n : Nat) (c : SliceCache) (s : State) : ((Effect.tlb n c).apply s).cores = s.cores := rfl
@[simp] theorem apply_tlb_clusters (n : Nat) (c : SliceCache) (s : State) : ((Effect.tlb n c).apply s).clusters = s.clusters := rfl
@[simp] theorem apply_tlb_dies (n : Nat) (c : SliceCache) (s : State) : ((Effect.tlb n c).apply s).dies = s.dies := rfl
@[simp] theorem apply_tlb_contexts (n : Nat) (c : SliceCache) (s : State) : ((Effect.tlb n c).apply s).contexts = s.contexts := rfl
@[simp] theorem apply_tlb_queueSlots (n : Nat) (c : SliceCache) (s : State) : ((Effect.tlb n c).apply s).queueSlots = s.queueSlots := rfl
@[simp] theorem apply_tlb_peers (n : Nat) (c : SliceCache) (s : State) : ((Effect.tlb n c).apply s).peers = s.peers := rfl
@[simp] theorem apply_tlb_homes (n : Nat) (c : SliceCache) (s : State) : ((Effect.tlb n c).apply s).homes = s.homes := rfl
@[simp] theorem apply_tlb_arrivals (n : Nat) (c : SliceCache) (s : State) : ((Effect.tlb n c).apply s).arrivals = s.arrivals := rfl
@[simp] theorem apply_tlb_holds (n : Nat) (c : SliceCache) (s : State) : ((Effect.tlb n c).apply s).holds = s.holds := rfl
@[simp] theorem apply_tlb_reqs (n : Nat) (c : SliceCache) (s : State) : ((Effect.tlb n c).apply s).reqs = s.reqs := rfl
@[simp] theorem apply_tlb_tlb (n : Nat) (c : SliceCache) (s : State) : ((Effect.tlb n c).apply s).tlb = mapPut n c s.tlb := rfl
@[simp] theorem apply_tlb_granules (n : Nat) (c : SliceCache) (s : State) : ((Effect.tlb n c).apply s).granules = s.granules := rfl
@[simp] theorem apply_tlb_faults (n : Nat) (c : SliceCache) (s : State) : ((Effect.tlb n c).apply s).faults = s.faults := rfl
@[simp] theorem apply_tlb_wakes (n : Nat) (c : SliceCache) (s : State) : ((Effect.tlb n c).apply s).wakes = s.wakes := rfl
@[simp] theorem apply_tlb_migrants (n : Nat) (c : SliceCache) (s : State) : ((Effect.tlb n c).apply s).migrants = s.migrants := rfl
@[simp] theorem apply_tlb_crews (n : Nat) (c : SliceCache) (s : State) : ((Effect.tlb n c).apply s).crews = s.crews := rfl
@[simp] theorem apply_tlb_flasks (n : Nat) (c : SliceCache) (s : State) : ((Effect.tlb n c).apply s).flasks = s.flasks := rfl
@[simp] theorem apply_tlb_grids (n : Nat) (c : SliceCache) (s : State) : ((Effect.tlb n c).apply s).grids = s.grids := rfl
@[simp] theorem apply_tlb_jobs (n : Nat) (c : SliceCache) (s : State) : ((Effect.tlb n c).apply s).jobs = s.jobs := rfl
@[simp] theorem apply_tlb_gctxs (n : Nat) (c : SliceCache) (s : State) : ((Effect.tlb n c).apply s).gctxs = s.gctxs := rfl
@[simp] theorem apply_tlb_blends (n : Nat) (c : SliceCache) (s : State) : ((Effect.tlb n c).apply s).blends = s.blends := rfl
@[simp] theorem apply_tlb_replicas (n : Nat) (c : SliceCache) (s : State) : ((Effect.tlb n c).apply s).replicas = s.replicas := rfl
@[simp] theorem apply_tlb_mgmt (n : Nat) (c : SliceCache) (s : State) : ((Effect.tlb n c).apply s).mgmt = s.mgmt := rfl
@[simp] theorem apply_tlb_sent (n : Nat) (c : SliceCache) (s : State) : ((Effect.tlb n c).apply s).sent = s.sent := rfl
@[simp] theorem apply_tlb_cycle (n : Nat) (c : SliceCache) (s : State) : ((Effect.tlb n c).apply s).cycle = s.cycle := rfl
@[simp] theorem apply_tlb_agenda (n : Nat) (c : SliceCache) (s : State) : ((Effect.tlb n c).apply s).agenda = s.agenda := rfl
@[simp] theorem apply_tlb_input (n : Nat) (c : SliceCache) (s : State) : ((Effect.tlb n c).apply s).input = s.input := rfl
@[simp] theorem apply_tlb_cur (n : Nat) (c : SliceCache) (s : State) : ((Effect.tlb n c).apply s).cur = s.cur := rfl
@[simp] theorem apply_tlb_insn (n : Nat) (c : SliceCache) (s : State) : ((Effect.tlb n c).apply s).insn = s.insn := rfl
@[simp] theorem apply_tlb_phase (n : Nat) (c : SliceCache) (s : State) : ((Effect.tlb n c).apply s).phase = s.phase := rfl
@[simp] theorem apply_tlb_freeCtr (n : Nat) (c : SliceCache) (s : State) : ((Effect.tlb n c).apply s).freeCtr = s.freeCtr := rfl
@[simp] theorem apply_tlb_nextId (n : Nat) (c : SliceCache) (s : State) : ((Effect.tlb n c).apply s).nextId = s.nextId := rfl
@[simp] theorem apply_granule_mem (n : Nat) (g : Option Granule) (s : State) : ((Effect.granule n g).apply s).mem = s.mem := rfl
@[simp] theorem apply_granule_empties (n : Nat) (g : Option Granule) (s : State) : ((Effect.granule n g).apply s).empties = s.empties := rfl
@[simp] theorem apply_granule_bad (n : Nat) (g : Option Granule) (s : State) : ((Effect.granule n g).apply s).bad = s.bad := rfl
@[simp] theorem apply_granule_old (n : Nat) (g : Option Granule) (s : State) : ((Effect.granule n g).apply s).old = s.old := rfl
@[simp] theorem apply_granule_threads (n : Nat) (g : Option Granule) (s : State) : ((Effect.granule n g).apply s).threads = s.threads := rfl
@[simp] theorem apply_granule_starts (n : Nat) (g : Option Granule) (s : State) : ((Effect.granule n g).apply s).starts = s.starts := rfl
@[simp] theorem apply_granule_tiles (n : Nat) (g : Option Granule) (s : State) : ((Effect.granule n g).apply s).tiles = s.tiles := rfl
@[simp] theorem apply_granule_accs (n : Nat) (g : Option Granule) (s : State) : ((Effect.granule n g).apply s).accs = s.accs := rfl
@[simp] theorem apply_granule_cores (n : Nat) (g : Option Granule) (s : State) : ((Effect.granule n g).apply s).cores = s.cores := rfl
@[simp] theorem apply_granule_clusters (n : Nat) (g : Option Granule) (s : State) : ((Effect.granule n g).apply s).clusters = s.clusters := rfl
@[simp] theorem apply_granule_dies (n : Nat) (g : Option Granule) (s : State) : ((Effect.granule n g).apply s).dies = s.dies := rfl
@[simp] theorem apply_granule_contexts (n : Nat) (g : Option Granule) (s : State) : ((Effect.granule n g).apply s).contexts = s.contexts := rfl
@[simp] theorem apply_granule_queueSlots (n : Nat) (g : Option Granule) (s : State) : ((Effect.granule n g).apply s).queueSlots = s.queueSlots := rfl
@[simp] theorem apply_granule_peers (n : Nat) (g : Option Granule) (s : State) : ((Effect.granule n g).apply s).peers = s.peers := rfl
@[simp] theorem apply_granule_homes (n : Nat) (g : Option Granule) (s : State) : ((Effect.granule n g).apply s).homes = s.homes := rfl
@[simp] theorem apply_granule_arrivals (n : Nat) (g : Option Granule) (s : State) : ((Effect.granule n g).apply s).arrivals = s.arrivals := rfl
@[simp] theorem apply_granule_holds (n : Nat) (g : Option Granule) (s : State) : ((Effect.granule n g).apply s).holds = s.holds := rfl
@[simp] theorem apply_granule_reqs (n : Nat) (g : Option Granule) (s : State) : ((Effect.granule n g).apply s).reqs = s.reqs := rfl
@[simp] theorem apply_granule_tlb (n : Nat) (g : Option Granule) (s : State) : ((Effect.granule n g).apply s).tlb = s.tlb := rfl
@[simp] theorem apply_granule_granules (n : Nat) (g : Option Granule) (s : State) : ((Effect.granule n g).apply s).granules = mapSet n g s.granules := rfl
@[simp] theorem apply_granule_faults (n : Nat) (g : Option Granule) (s : State) : ((Effect.granule n g).apply s).faults = s.faults := rfl
@[simp] theorem apply_granule_wakes (n : Nat) (g : Option Granule) (s : State) : ((Effect.granule n g).apply s).wakes = s.wakes := rfl
@[simp] theorem apply_granule_migrants (n : Nat) (g : Option Granule) (s : State) : ((Effect.granule n g).apply s).migrants = s.migrants := rfl
@[simp] theorem apply_granule_crews (n : Nat) (g : Option Granule) (s : State) : ((Effect.granule n g).apply s).crews = s.crews := rfl
@[simp] theorem apply_granule_flasks (n : Nat) (g : Option Granule) (s : State) : ((Effect.granule n g).apply s).flasks = s.flasks := rfl
@[simp] theorem apply_granule_grids (n : Nat) (g : Option Granule) (s : State) : ((Effect.granule n g).apply s).grids = s.grids := rfl
@[simp] theorem apply_granule_jobs (n : Nat) (g : Option Granule) (s : State) : ((Effect.granule n g).apply s).jobs = s.jobs := rfl
@[simp] theorem apply_granule_gctxs (n : Nat) (g : Option Granule) (s : State) : ((Effect.granule n g).apply s).gctxs = s.gctxs := rfl
@[simp] theorem apply_granule_blends (n : Nat) (g : Option Granule) (s : State) : ((Effect.granule n g).apply s).blends = s.blends := rfl
@[simp] theorem apply_granule_replicas (n : Nat) (g : Option Granule) (s : State) : ((Effect.granule n g).apply s).replicas = s.replicas := rfl
@[simp] theorem apply_granule_mgmt (n : Nat) (g : Option Granule) (s : State) : ((Effect.granule n g).apply s).mgmt = s.mgmt := rfl
@[simp] theorem apply_granule_sent (n : Nat) (g : Option Granule) (s : State) : ((Effect.granule n g).apply s).sent = s.sent := rfl
@[simp] theorem apply_granule_cycle (n : Nat) (g : Option Granule) (s : State) : ((Effect.granule n g).apply s).cycle = s.cycle := rfl
@[simp] theorem apply_granule_agenda (n : Nat) (g : Option Granule) (s : State) : ((Effect.granule n g).apply s).agenda = s.agenda := rfl
@[simp] theorem apply_granule_input (n : Nat) (g : Option Granule) (s : State) : ((Effect.granule n g).apply s).input = s.input := rfl
@[simp] theorem apply_granule_cur (n : Nat) (g : Option Granule) (s : State) : ((Effect.granule n g).apply s).cur = s.cur := rfl
@[simp] theorem apply_granule_insn (n : Nat) (g : Option Granule) (s : State) : ((Effect.granule n g).apply s).insn = s.insn := rfl
@[simp] theorem apply_granule_phase (n : Nat) (g : Option Granule) (s : State) : ((Effect.granule n g).apply s).phase = s.phase := rfl
@[simp] theorem apply_granule_freeCtr (n : Nat) (g : Option Granule) (s : State) : ((Effect.granule n g).apply s).freeCtr = s.freeCtr := rfl
@[simp] theorem apply_granule_nextId (n : Nat) (g : Option Granule) (s : State) : ((Effect.granule n g).apply s).nextId = s.nextId := rfl
@[simp] theorem apply_faults_mem (l : List PageFault) (s : State) : ((Effect.faults l).apply s).mem = s.mem := rfl
@[simp] theorem apply_faults_empties (l : List PageFault) (s : State) : ((Effect.faults l).apply s).empties = s.empties := rfl
@[simp] theorem apply_faults_bad (l : List PageFault) (s : State) : ((Effect.faults l).apply s).bad = s.bad := rfl
@[simp] theorem apply_faults_old (l : List PageFault) (s : State) : ((Effect.faults l).apply s).old = s.old := rfl
@[simp] theorem apply_faults_threads (l : List PageFault) (s : State) : ((Effect.faults l).apply s).threads = s.threads := rfl
@[simp] theorem apply_faults_starts (l : List PageFault) (s : State) : ((Effect.faults l).apply s).starts = s.starts := rfl
@[simp] theorem apply_faults_tiles (l : List PageFault) (s : State) : ((Effect.faults l).apply s).tiles = s.tiles := rfl
@[simp] theorem apply_faults_accs (l : List PageFault) (s : State) : ((Effect.faults l).apply s).accs = s.accs := rfl
@[simp] theorem apply_faults_cores (l : List PageFault) (s : State) : ((Effect.faults l).apply s).cores = s.cores := rfl
@[simp] theorem apply_faults_clusters (l : List PageFault) (s : State) : ((Effect.faults l).apply s).clusters = s.clusters := rfl
@[simp] theorem apply_faults_dies (l : List PageFault) (s : State) : ((Effect.faults l).apply s).dies = s.dies := rfl
@[simp] theorem apply_faults_contexts (l : List PageFault) (s : State) : ((Effect.faults l).apply s).contexts = s.contexts := rfl
@[simp] theorem apply_faults_queueSlots (l : List PageFault) (s : State) : ((Effect.faults l).apply s).queueSlots = s.queueSlots := rfl
@[simp] theorem apply_faults_peers (l : List PageFault) (s : State) : ((Effect.faults l).apply s).peers = s.peers := rfl
@[simp] theorem apply_faults_homes (l : List PageFault) (s : State) : ((Effect.faults l).apply s).homes = s.homes := rfl
@[simp] theorem apply_faults_arrivals (l : List PageFault) (s : State) : ((Effect.faults l).apply s).arrivals = s.arrivals := rfl
@[simp] theorem apply_faults_holds (l : List PageFault) (s : State) : ((Effect.faults l).apply s).holds = s.holds := rfl
@[simp] theorem apply_faults_reqs (l : List PageFault) (s : State) : ((Effect.faults l).apply s).reqs = s.reqs := rfl
@[simp] theorem apply_faults_tlb (l : List PageFault) (s : State) : ((Effect.faults l).apply s).tlb = s.tlb := rfl
@[simp] theorem apply_faults_granules (l : List PageFault) (s : State) : ((Effect.faults l).apply s).granules = s.granules := rfl
@[simp] theorem apply_faults_faults (l : List PageFault) (s : State) : ((Effect.faults l).apply s).faults = l := rfl
@[simp] theorem apply_faults_wakes (l : List PageFault) (s : State) : ((Effect.faults l).apply s).wakes = s.wakes := rfl
@[simp] theorem apply_faults_migrants (l : List PageFault) (s : State) : ((Effect.faults l).apply s).migrants = s.migrants := rfl
@[simp] theorem apply_faults_crews (l : List PageFault) (s : State) : ((Effect.faults l).apply s).crews = s.crews := rfl
@[simp] theorem apply_faults_flasks (l : List PageFault) (s : State) : ((Effect.faults l).apply s).flasks = s.flasks := rfl
@[simp] theorem apply_faults_grids (l : List PageFault) (s : State) : ((Effect.faults l).apply s).grids = s.grids := rfl
@[simp] theorem apply_faults_jobs (l : List PageFault) (s : State) : ((Effect.faults l).apply s).jobs = s.jobs := rfl
@[simp] theorem apply_faults_gctxs (l : List PageFault) (s : State) : ((Effect.faults l).apply s).gctxs = s.gctxs := rfl
@[simp] theorem apply_faults_blends (l : List PageFault) (s : State) : ((Effect.faults l).apply s).blends = s.blends := rfl
@[simp] theorem apply_faults_replicas (l : List PageFault) (s : State) : ((Effect.faults l).apply s).replicas = s.replicas := rfl
@[simp] theorem apply_faults_mgmt (l : List PageFault) (s : State) : ((Effect.faults l).apply s).mgmt = s.mgmt := rfl
@[simp] theorem apply_faults_sent (l : List PageFault) (s : State) : ((Effect.faults l).apply s).sent = s.sent := rfl
@[simp] theorem apply_faults_cycle (l : List PageFault) (s : State) : ((Effect.faults l).apply s).cycle = s.cycle := rfl
@[simp] theorem apply_faults_agenda (l : List PageFault) (s : State) : ((Effect.faults l).apply s).agenda = s.agenda := rfl
@[simp] theorem apply_faults_input (l : List PageFault) (s : State) : ((Effect.faults l).apply s).input = s.input := rfl
@[simp] theorem apply_faults_cur (l : List PageFault) (s : State) : ((Effect.faults l).apply s).cur = s.cur := rfl
@[simp] theorem apply_faults_insn (l : List PageFault) (s : State) : ((Effect.faults l).apply s).insn = s.insn := rfl
@[simp] theorem apply_faults_phase (l : List PageFault) (s : State) : ((Effect.faults l).apply s).phase = s.phase := rfl
@[simp] theorem apply_faults_freeCtr (l : List PageFault) (s : State) : ((Effect.faults l).apply s).freeCtr = s.freeCtr := rfl
@[simp] theorem apply_faults_nextId (l : List PageFault) (s : State) : ((Effect.faults l).apply s).nextId = s.nextId := rfl
@[simp] theorem apply_wakes_mem (l : List Waking) (s : State) : ((Effect.wakes l).apply s).mem = s.mem := rfl
@[simp] theorem apply_wakes_empties (l : List Waking) (s : State) : ((Effect.wakes l).apply s).empties = s.empties := rfl
@[simp] theorem apply_wakes_bad (l : List Waking) (s : State) : ((Effect.wakes l).apply s).bad = s.bad := rfl
@[simp] theorem apply_wakes_old (l : List Waking) (s : State) : ((Effect.wakes l).apply s).old = s.old := rfl
@[simp] theorem apply_wakes_threads (l : List Waking) (s : State) : ((Effect.wakes l).apply s).threads = s.threads := rfl
@[simp] theorem apply_wakes_starts (l : List Waking) (s : State) : ((Effect.wakes l).apply s).starts = s.starts := rfl
@[simp] theorem apply_wakes_tiles (l : List Waking) (s : State) : ((Effect.wakes l).apply s).tiles = s.tiles := rfl
@[simp] theorem apply_wakes_accs (l : List Waking) (s : State) : ((Effect.wakes l).apply s).accs = s.accs := rfl
@[simp] theorem apply_wakes_cores (l : List Waking) (s : State) : ((Effect.wakes l).apply s).cores = s.cores := rfl
@[simp] theorem apply_wakes_clusters (l : List Waking) (s : State) : ((Effect.wakes l).apply s).clusters = s.clusters := rfl
@[simp] theorem apply_wakes_dies (l : List Waking) (s : State) : ((Effect.wakes l).apply s).dies = s.dies := rfl
@[simp] theorem apply_wakes_contexts (l : List Waking) (s : State) : ((Effect.wakes l).apply s).contexts = s.contexts := rfl
@[simp] theorem apply_wakes_queueSlots (l : List Waking) (s : State) : ((Effect.wakes l).apply s).queueSlots = s.queueSlots := rfl
@[simp] theorem apply_wakes_peers (l : List Waking) (s : State) : ((Effect.wakes l).apply s).peers = s.peers := rfl
@[simp] theorem apply_wakes_homes (l : List Waking) (s : State) : ((Effect.wakes l).apply s).homes = s.homes := rfl
@[simp] theorem apply_wakes_arrivals (l : List Waking) (s : State) : ((Effect.wakes l).apply s).arrivals = s.arrivals := rfl
@[simp] theorem apply_wakes_holds (l : List Waking) (s : State) : ((Effect.wakes l).apply s).holds = s.holds := rfl
@[simp] theorem apply_wakes_reqs (l : List Waking) (s : State) : ((Effect.wakes l).apply s).reqs = s.reqs := rfl
@[simp] theorem apply_wakes_tlb (l : List Waking) (s : State) : ((Effect.wakes l).apply s).tlb = s.tlb := rfl
@[simp] theorem apply_wakes_granules (l : List Waking) (s : State) : ((Effect.wakes l).apply s).granules = s.granules := rfl
@[simp] theorem apply_wakes_faults (l : List Waking) (s : State) : ((Effect.wakes l).apply s).faults = s.faults := rfl
@[simp] theorem apply_wakes_wakes (l : List Waking) (s : State) : ((Effect.wakes l).apply s).wakes = l := rfl
@[simp] theorem apply_wakes_migrants (l : List Waking) (s : State) : ((Effect.wakes l).apply s).migrants = s.migrants := rfl
@[simp] theorem apply_wakes_crews (l : List Waking) (s : State) : ((Effect.wakes l).apply s).crews = s.crews := rfl
@[simp] theorem apply_wakes_flasks (l : List Waking) (s : State) : ((Effect.wakes l).apply s).flasks = s.flasks := rfl
@[simp] theorem apply_wakes_grids (l : List Waking) (s : State) : ((Effect.wakes l).apply s).grids = s.grids := rfl
@[simp] theorem apply_wakes_jobs (l : List Waking) (s : State) : ((Effect.wakes l).apply s).jobs = s.jobs := rfl
@[simp] theorem apply_wakes_gctxs (l : List Waking) (s : State) : ((Effect.wakes l).apply s).gctxs = s.gctxs := rfl
@[simp] theorem apply_wakes_blends (l : List Waking) (s : State) : ((Effect.wakes l).apply s).blends = s.blends := rfl
@[simp] theorem apply_wakes_replicas (l : List Waking) (s : State) : ((Effect.wakes l).apply s).replicas = s.replicas := rfl
@[simp] theorem apply_wakes_mgmt (l : List Waking) (s : State) : ((Effect.wakes l).apply s).mgmt = s.mgmt := rfl
@[simp] theorem apply_wakes_sent (l : List Waking) (s : State) : ((Effect.wakes l).apply s).sent = s.sent := rfl
@[simp] theorem apply_wakes_cycle (l : List Waking) (s : State) : ((Effect.wakes l).apply s).cycle = s.cycle := rfl
@[simp] theorem apply_wakes_agenda (l : List Waking) (s : State) : ((Effect.wakes l).apply s).agenda = s.agenda := rfl
@[simp] theorem apply_wakes_input (l : List Waking) (s : State) : ((Effect.wakes l).apply s).input = s.input := rfl
@[simp] theorem apply_wakes_cur (l : List Waking) (s : State) : ((Effect.wakes l).apply s).cur = s.cur := rfl
@[simp] theorem apply_wakes_insn (l : List Waking) (s : State) : ((Effect.wakes l).apply s).insn = s.insn := rfl
@[simp] theorem apply_wakes_phase (l : List Waking) (s : State) : ((Effect.wakes l).apply s).phase = s.phase := rfl
@[simp] theorem apply_wakes_freeCtr (l : List Waking) (s : State) : ((Effect.wakes l).apply s).freeCtr = s.freeCtr := rfl
@[simp] theorem apply_wakes_nextId (l : List Waking) (s : State) : ((Effect.wakes l).apply s).nextId = s.nextId := rfl
@[simp] theorem apply_blends_mem (l : List Blend) (s : State) : ((Effect.blends l).apply s).mem = s.mem := rfl
@[simp] theorem apply_blends_empties (l : List Blend) (s : State) : ((Effect.blends l).apply s).empties = s.empties := rfl
@[simp] theorem apply_blends_bad (l : List Blend) (s : State) : ((Effect.blends l).apply s).bad = s.bad := rfl
@[simp] theorem apply_blends_old (l : List Blend) (s : State) : ((Effect.blends l).apply s).old = s.old := rfl
@[simp] theorem apply_blends_threads (l : List Blend) (s : State) : ((Effect.blends l).apply s).threads = s.threads := rfl
@[simp] theorem apply_blends_starts (l : List Blend) (s : State) : ((Effect.blends l).apply s).starts = s.starts := rfl
@[simp] theorem apply_blends_tiles (l : List Blend) (s : State) : ((Effect.blends l).apply s).tiles = s.tiles := rfl
@[simp] theorem apply_blends_accs (l : List Blend) (s : State) : ((Effect.blends l).apply s).accs = s.accs := rfl
@[simp] theorem apply_blends_cores (l : List Blend) (s : State) : ((Effect.blends l).apply s).cores = s.cores := rfl
@[simp] theorem apply_blends_clusters (l : List Blend) (s : State) : ((Effect.blends l).apply s).clusters = s.clusters := rfl
@[simp] theorem apply_blends_dies (l : List Blend) (s : State) : ((Effect.blends l).apply s).dies = s.dies := rfl
@[simp] theorem apply_blends_contexts (l : List Blend) (s : State) : ((Effect.blends l).apply s).contexts = s.contexts := rfl
@[simp] theorem apply_blends_queueSlots (l : List Blend) (s : State) : ((Effect.blends l).apply s).queueSlots = s.queueSlots := rfl
@[simp] theorem apply_blends_peers (l : List Blend) (s : State) : ((Effect.blends l).apply s).peers = s.peers := rfl
@[simp] theorem apply_blends_homes (l : List Blend) (s : State) : ((Effect.blends l).apply s).homes = s.homes := rfl
@[simp] theorem apply_blends_arrivals (l : List Blend) (s : State) : ((Effect.blends l).apply s).arrivals = s.arrivals := rfl
@[simp] theorem apply_blends_holds (l : List Blend) (s : State) : ((Effect.blends l).apply s).holds = s.holds := rfl
@[simp] theorem apply_blends_reqs (l : List Blend) (s : State) : ((Effect.blends l).apply s).reqs = s.reqs := rfl
@[simp] theorem apply_blends_tlb (l : List Blend) (s : State) : ((Effect.blends l).apply s).tlb = s.tlb := rfl
@[simp] theorem apply_blends_granules (l : List Blend) (s : State) : ((Effect.blends l).apply s).granules = s.granules := rfl
@[simp] theorem apply_blends_faults (l : List Blend) (s : State) : ((Effect.blends l).apply s).faults = s.faults := rfl
@[simp] theorem apply_blends_wakes (l : List Blend) (s : State) : ((Effect.blends l).apply s).wakes = s.wakes := rfl
@[simp] theorem apply_blends_migrants (l : List Blend) (s : State) : ((Effect.blends l).apply s).migrants = s.migrants := rfl
@[simp] theorem apply_blends_crews (l : List Blend) (s : State) : ((Effect.blends l).apply s).crews = s.crews := rfl
@[simp] theorem apply_blends_flasks (l : List Blend) (s : State) : ((Effect.blends l).apply s).flasks = s.flasks := rfl
@[simp] theorem apply_blends_grids (l : List Blend) (s : State) : ((Effect.blends l).apply s).grids = s.grids := rfl
@[simp] theorem apply_blends_jobs (l : List Blend) (s : State) : ((Effect.blends l).apply s).jobs = s.jobs := rfl
@[simp] theorem apply_blends_gctxs (l : List Blend) (s : State) : ((Effect.blends l).apply s).gctxs = s.gctxs := rfl
@[simp] theorem apply_blends_blends (l : List Blend) (s : State) : ((Effect.blends l).apply s).blends = l := rfl
@[simp] theorem apply_blends_replicas (l : List Blend) (s : State) : ((Effect.blends l).apply s).replicas = s.replicas := rfl
@[simp] theorem apply_blends_mgmt (l : List Blend) (s : State) : ((Effect.blends l).apply s).mgmt = s.mgmt := rfl
@[simp] theorem apply_blends_sent (l : List Blend) (s : State) : ((Effect.blends l).apply s).sent = s.sent := rfl
@[simp] theorem apply_blends_cycle (l : List Blend) (s : State) : ((Effect.blends l).apply s).cycle = s.cycle := rfl
@[simp] theorem apply_blends_agenda (l : List Blend) (s : State) : ((Effect.blends l).apply s).agenda = s.agenda := rfl
@[simp] theorem apply_blends_input (l : List Blend) (s : State) : ((Effect.blends l).apply s).input = s.input := rfl
@[simp] theorem apply_blends_cur (l : List Blend) (s : State) : ((Effect.blends l).apply s).cur = s.cur := rfl
@[simp] theorem apply_blends_insn (l : List Blend) (s : State) : ((Effect.blends l).apply s).insn = s.insn := rfl
@[simp] theorem apply_blends_phase (l : List Blend) (s : State) : ((Effect.blends l).apply s).phase = s.phase := rfl
@[simp] theorem apply_blends_freeCtr (l : List Blend) (s : State) : ((Effect.blends l).apply s).freeCtr = s.freeCtr := rfl
@[simp] theorem apply_blends_nextId (l : List Blend) (s : State) : ((Effect.blends l).apply s).nextId = s.nextId := rfl
@[simp] theorem apply_mgmt_mem (m : Management) (s : State) : ((Effect.mgmt m).apply s).mem = s.mem := rfl
@[simp] theorem apply_mgmt_empties (m : Management) (s : State) : ((Effect.mgmt m).apply s).empties = s.empties := rfl
@[simp] theorem apply_mgmt_bad (m : Management) (s : State) : ((Effect.mgmt m).apply s).bad = s.bad := rfl
@[simp] theorem apply_mgmt_old (m : Management) (s : State) : ((Effect.mgmt m).apply s).old = s.old := rfl
@[simp] theorem apply_mgmt_threads (m : Management) (s : State) : ((Effect.mgmt m).apply s).threads = s.threads := rfl
@[simp] theorem apply_mgmt_starts (m : Management) (s : State) : ((Effect.mgmt m).apply s).starts = s.starts := rfl
@[simp] theorem apply_mgmt_tiles (m : Management) (s : State) : ((Effect.mgmt m).apply s).tiles = s.tiles := rfl
@[simp] theorem apply_mgmt_accs (m : Management) (s : State) : ((Effect.mgmt m).apply s).accs = s.accs := rfl
@[simp] theorem apply_mgmt_cores (m : Management) (s : State) : ((Effect.mgmt m).apply s).cores = s.cores := rfl
@[simp] theorem apply_mgmt_clusters (m : Management) (s : State) : ((Effect.mgmt m).apply s).clusters = s.clusters := rfl
@[simp] theorem apply_mgmt_dies (m : Management) (s : State) : ((Effect.mgmt m).apply s).dies = s.dies := rfl
@[simp] theorem apply_mgmt_contexts (m : Management) (s : State) : ((Effect.mgmt m).apply s).contexts = s.contexts := rfl
@[simp] theorem apply_mgmt_queueSlots (m : Management) (s : State) : ((Effect.mgmt m).apply s).queueSlots = s.queueSlots := rfl
@[simp] theorem apply_mgmt_peers (m : Management) (s : State) : ((Effect.mgmt m).apply s).peers = s.peers := rfl
@[simp] theorem apply_mgmt_homes (m : Management) (s : State) : ((Effect.mgmt m).apply s).homes = s.homes := rfl
@[simp] theorem apply_mgmt_arrivals (m : Management) (s : State) : ((Effect.mgmt m).apply s).arrivals = s.arrivals := rfl
@[simp] theorem apply_mgmt_holds (m : Management) (s : State) : ((Effect.mgmt m).apply s).holds = s.holds := rfl
@[simp] theorem apply_mgmt_reqs (m : Management) (s : State) : ((Effect.mgmt m).apply s).reqs = s.reqs := rfl
@[simp] theorem apply_mgmt_tlb (m : Management) (s : State) : ((Effect.mgmt m).apply s).tlb = s.tlb := rfl
@[simp] theorem apply_mgmt_granules (m : Management) (s : State) : ((Effect.mgmt m).apply s).granules = s.granules := rfl
@[simp] theorem apply_mgmt_faults (m : Management) (s : State) : ((Effect.mgmt m).apply s).faults = s.faults := rfl
@[simp] theorem apply_mgmt_wakes (m : Management) (s : State) : ((Effect.mgmt m).apply s).wakes = s.wakes := rfl
@[simp] theorem apply_mgmt_migrants (m : Management) (s : State) : ((Effect.mgmt m).apply s).migrants = s.migrants := rfl
@[simp] theorem apply_mgmt_crews (m : Management) (s : State) : ((Effect.mgmt m).apply s).crews = s.crews := rfl
@[simp] theorem apply_mgmt_flasks (m : Management) (s : State) : ((Effect.mgmt m).apply s).flasks = s.flasks := rfl
@[simp] theorem apply_mgmt_grids (m : Management) (s : State) : ((Effect.mgmt m).apply s).grids = s.grids := rfl
@[simp] theorem apply_mgmt_jobs (m : Management) (s : State) : ((Effect.mgmt m).apply s).jobs = s.jobs := rfl
@[simp] theorem apply_mgmt_gctxs (m : Management) (s : State) : ((Effect.mgmt m).apply s).gctxs = s.gctxs := rfl
@[simp] theorem apply_mgmt_blends (m : Management) (s : State) : ((Effect.mgmt m).apply s).blends = s.blends := rfl
@[simp] theorem apply_mgmt_replicas (m : Management) (s : State) : ((Effect.mgmt m).apply s).replicas = s.replicas := rfl
@[simp] theorem apply_mgmt_mgmt (m : Management) (s : State) : ((Effect.mgmt m).apply s).mgmt = m := rfl
@[simp] theorem apply_mgmt_sent (m : Management) (s : State) : ((Effect.mgmt m).apply s).sent = s.sent := rfl
@[simp] theorem apply_mgmt_cycle (m : Management) (s : State) : ((Effect.mgmt m).apply s).cycle = s.cycle := rfl
@[simp] theorem apply_mgmt_agenda (m : Management) (s : State) : ((Effect.mgmt m).apply s).agenda = s.agenda := rfl
@[simp] theorem apply_mgmt_input (m : Management) (s : State) : ((Effect.mgmt m).apply s).input = s.input := rfl
@[simp] theorem apply_mgmt_cur (m : Management) (s : State) : ((Effect.mgmt m).apply s).cur = s.cur := rfl
@[simp] theorem apply_mgmt_insn (m : Management) (s : State) : ((Effect.mgmt m).apply s).insn = s.insn := rfl
@[simp] theorem apply_mgmt_phase (m : Management) (s : State) : ((Effect.mgmt m).apply s).phase = s.phase := rfl
@[simp] theorem apply_mgmt_freeCtr (m : Management) (s : State) : ((Effect.mgmt m).apply s).freeCtr = s.freeCtr := rfl
@[simp] theorem apply_mgmt_nextId (m : Management) (s : State) : ((Effect.mgmt m).apply s).nextId = s.nextId := rfl
@[simp] theorem apply_send_mem (x : Sent) (s : State) : ((Effect.send x).apply s).mem = s.mem := rfl
@[simp] theorem apply_send_empties (x : Sent) (s : State) : ((Effect.send x).apply s).empties = s.empties := rfl
@[simp] theorem apply_send_bad (x : Sent) (s : State) : ((Effect.send x).apply s).bad = s.bad := rfl
@[simp] theorem apply_send_old (x : Sent) (s : State) : ((Effect.send x).apply s).old = s.old := rfl
@[simp] theorem apply_send_threads (x : Sent) (s : State) : ((Effect.send x).apply s).threads = s.threads := rfl
@[simp] theorem apply_send_starts (x : Sent) (s : State) : ((Effect.send x).apply s).starts = s.starts := rfl
@[simp] theorem apply_send_tiles (x : Sent) (s : State) : ((Effect.send x).apply s).tiles = s.tiles := rfl
@[simp] theorem apply_send_accs (x : Sent) (s : State) : ((Effect.send x).apply s).accs = s.accs := rfl
@[simp] theorem apply_send_cores (x : Sent) (s : State) : ((Effect.send x).apply s).cores = s.cores := rfl
@[simp] theorem apply_send_clusters (x : Sent) (s : State) : ((Effect.send x).apply s).clusters = s.clusters := rfl
@[simp] theorem apply_send_dies (x : Sent) (s : State) : ((Effect.send x).apply s).dies = s.dies := rfl
@[simp] theorem apply_send_contexts (x : Sent) (s : State) : ((Effect.send x).apply s).contexts = s.contexts := rfl
@[simp] theorem apply_send_queueSlots (x : Sent) (s : State) : ((Effect.send x).apply s).queueSlots = s.queueSlots := rfl
@[simp] theorem apply_send_peers (x : Sent) (s : State) : ((Effect.send x).apply s).peers = s.peers := rfl
@[simp] theorem apply_send_homes (x : Sent) (s : State) : ((Effect.send x).apply s).homes = s.homes := rfl
@[simp] theorem apply_send_arrivals (x : Sent) (s : State) : ((Effect.send x).apply s).arrivals = s.arrivals := rfl
@[simp] theorem apply_send_holds (x : Sent) (s : State) : ((Effect.send x).apply s).holds = s.holds := rfl
@[simp] theorem apply_send_reqs (x : Sent) (s : State) : ((Effect.send x).apply s).reqs = s.reqs := rfl
@[simp] theorem apply_send_tlb (x : Sent) (s : State) : ((Effect.send x).apply s).tlb = s.tlb := rfl
@[simp] theorem apply_send_granules (x : Sent) (s : State) : ((Effect.send x).apply s).granules = s.granules := rfl
@[simp] theorem apply_send_faults (x : Sent) (s : State) : ((Effect.send x).apply s).faults = s.faults := rfl
@[simp] theorem apply_send_wakes (x : Sent) (s : State) : ((Effect.send x).apply s).wakes = s.wakes := rfl
@[simp] theorem apply_send_migrants (x : Sent) (s : State) : ((Effect.send x).apply s).migrants = s.migrants := rfl
@[simp] theorem apply_send_crews (x : Sent) (s : State) : ((Effect.send x).apply s).crews = s.crews := rfl
@[simp] theorem apply_send_flasks (x : Sent) (s : State) : ((Effect.send x).apply s).flasks = s.flasks := rfl
@[simp] theorem apply_send_grids (x : Sent) (s : State) : ((Effect.send x).apply s).grids = s.grids := rfl
@[simp] theorem apply_send_jobs (x : Sent) (s : State) : ((Effect.send x).apply s).jobs = s.jobs := rfl
@[simp] theorem apply_send_gctxs (x : Sent) (s : State) : ((Effect.send x).apply s).gctxs = s.gctxs := rfl
@[simp] theorem apply_send_blends (x : Sent) (s : State) : ((Effect.send x).apply s).blends = s.blends := rfl
@[simp] theorem apply_send_replicas (x : Sent) (s : State) : ((Effect.send x).apply s).replicas = s.replicas := rfl
@[simp] theorem apply_send_mgmt (x : Sent) (s : State) : ((Effect.send x).apply s).mgmt = s.mgmt := rfl
@[simp] theorem apply_send_sent (x : Sent) (s : State) : ((Effect.send x).apply s).sent = x :: s.sent := rfl
@[simp] theorem apply_send_cycle (x : Sent) (s : State) : ((Effect.send x).apply s).cycle = s.cycle := rfl
@[simp] theorem apply_send_agenda (x : Sent) (s : State) : ((Effect.send x).apply s).agenda = s.agenda := rfl
@[simp] theorem apply_send_input (x : Sent) (s : State) : ((Effect.send x).apply s).input = s.input := rfl
@[simp] theorem apply_send_cur (x : Sent) (s : State) : ((Effect.send x).apply s).cur = s.cur := rfl
@[simp] theorem apply_send_insn (x : Sent) (s : State) : ((Effect.send x).apply s).insn = s.insn := rfl
@[simp] theorem apply_send_phase (x : Sent) (s : State) : ((Effect.send x).apply s).phase = s.phase := rfl
@[simp] theorem apply_send_freeCtr (x : Sent) (s : State) : ((Effect.send x).apply s).freeCtr = s.freeCtr := rfl
@[simp] theorem apply_send_nextId (x : Sent) (s : State) : ((Effect.send x).apply s).nextId = s.nextId := rfl
@[simp] theorem apply_clock_mem (n : Nat) (s : State) : ((Effect.clock n).apply s).mem = s.mem := rfl
@[simp] theorem apply_clock_empties (n : Nat) (s : State) : ((Effect.clock n).apply s).empties = s.empties := rfl
@[simp] theorem apply_clock_bad (n : Nat) (s : State) : ((Effect.clock n).apply s).bad = s.bad := rfl
@[simp] theorem apply_clock_old (n : Nat) (s : State) : ((Effect.clock n).apply s).old = s.old := rfl
@[simp] theorem apply_clock_threads (n : Nat) (s : State) : ((Effect.clock n).apply s).threads = s.threads := rfl
@[simp] theorem apply_clock_starts (n : Nat) (s : State) : ((Effect.clock n).apply s).starts = s.starts := rfl
@[simp] theorem apply_clock_tiles (n : Nat) (s : State) : ((Effect.clock n).apply s).tiles = s.tiles := rfl
@[simp] theorem apply_clock_accs (n : Nat) (s : State) : ((Effect.clock n).apply s).accs = s.accs := rfl
@[simp] theorem apply_clock_cores (n : Nat) (s : State) : ((Effect.clock n).apply s).cores = s.cores := rfl
@[simp] theorem apply_clock_clusters (n : Nat) (s : State) : ((Effect.clock n).apply s).clusters = s.clusters := rfl
@[simp] theorem apply_clock_dies (n : Nat) (s : State) : ((Effect.clock n).apply s).dies = s.dies := rfl
@[simp] theorem apply_clock_contexts (n : Nat) (s : State) : ((Effect.clock n).apply s).contexts = s.contexts := rfl
@[simp] theorem apply_clock_queueSlots (n : Nat) (s : State) : ((Effect.clock n).apply s).queueSlots = s.queueSlots := rfl
@[simp] theorem apply_clock_peers (n : Nat) (s : State) : ((Effect.clock n).apply s).peers = s.peers := rfl
@[simp] theorem apply_clock_homes (n : Nat) (s : State) : ((Effect.clock n).apply s).homes = s.homes := rfl
@[simp] theorem apply_clock_arrivals (n : Nat) (s : State) : ((Effect.clock n).apply s).arrivals = s.arrivals := rfl
@[simp] theorem apply_clock_holds (n : Nat) (s : State) : ((Effect.clock n).apply s).holds = s.holds := rfl
@[simp] theorem apply_clock_reqs (n : Nat) (s : State) : ((Effect.clock n).apply s).reqs = s.reqs := rfl
@[simp] theorem apply_clock_tlb (n : Nat) (s : State) : ((Effect.clock n).apply s).tlb = s.tlb := rfl
@[simp] theorem apply_clock_granules (n : Nat) (s : State) : ((Effect.clock n).apply s).granules = s.granules := rfl
@[simp] theorem apply_clock_faults (n : Nat) (s : State) : ((Effect.clock n).apply s).faults = s.faults := rfl
@[simp] theorem apply_clock_wakes (n : Nat) (s : State) : ((Effect.clock n).apply s).wakes = s.wakes := rfl
@[simp] theorem apply_clock_migrants (n : Nat) (s : State) : ((Effect.clock n).apply s).migrants = s.migrants := rfl
@[simp] theorem apply_clock_crews (n : Nat) (s : State) : ((Effect.clock n).apply s).crews = s.crews := rfl
@[simp] theorem apply_clock_flasks (n : Nat) (s : State) : ((Effect.clock n).apply s).flasks = s.flasks := rfl
@[simp] theorem apply_clock_grids (n : Nat) (s : State) : ((Effect.clock n).apply s).grids = s.grids := rfl
@[simp] theorem apply_clock_jobs (n : Nat) (s : State) : ((Effect.clock n).apply s).jobs = s.jobs := rfl
@[simp] theorem apply_clock_gctxs (n : Nat) (s : State) : ((Effect.clock n).apply s).gctxs = s.gctxs := rfl
@[simp] theorem apply_clock_blends (n : Nat) (s : State) : ((Effect.clock n).apply s).blends = s.blends := rfl
@[simp] theorem apply_clock_replicas (n : Nat) (s : State) : ((Effect.clock n).apply s).replicas = s.replicas := rfl
@[simp] theorem apply_clock_mgmt (n : Nat) (s : State) : ((Effect.clock n).apply s).mgmt = s.mgmt := rfl
@[simp] theorem apply_clock_sent (n : Nat) (s : State) : ((Effect.clock n).apply s).sent = s.sent := rfl
@[simp] theorem apply_clock_cycle (n : Nat) (s : State) : ((Effect.clock n).apply s).cycle = n := rfl
@[simp] theorem apply_clock_agenda (n : Nat) (s : State) : ((Effect.clock n).apply s).agenda = s.agenda := rfl
@[simp] theorem apply_clock_input (n : Nat) (s : State) : ((Effect.clock n).apply s).input = s.input := rfl
@[simp] theorem apply_clock_cur (n : Nat) (s : State) : ((Effect.clock n).apply s).cur = s.cur := rfl
@[simp] theorem apply_clock_insn (n : Nat) (s : State) : ((Effect.clock n).apply s).insn = s.insn := rfl
@[simp] theorem apply_clock_phase (n : Nat) (s : State) : ((Effect.clock n).apply s).phase = s.phase := rfl
@[simp] theorem apply_clock_freeCtr (n : Nat) (s : State) : ((Effect.clock n).apply s).freeCtr = s.freeCtr := rfl
@[simp] theorem apply_clock_nextId (n : Nat) (s : State) : ((Effect.clock n).apply s).nextId = s.nextId := rfl
@[simp] theorem apply_agenda_mem (l : List Turn) (s : State) : ((Effect.agenda l).apply s).mem = s.mem := rfl
@[simp] theorem apply_agenda_empties (l : List Turn) (s : State) : ((Effect.agenda l).apply s).empties = s.empties := rfl
@[simp] theorem apply_agenda_bad (l : List Turn) (s : State) : ((Effect.agenda l).apply s).bad = s.bad := rfl
@[simp] theorem apply_agenda_old (l : List Turn) (s : State) : ((Effect.agenda l).apply s).old = s.old := rfl
@[simp] theorem apply_agenda_threads (l : List Turn) (s : State) : ((Effect.agenda l).apply s).threads = s.threads := rfl
@[simp] theorem apply_agenda_starts (l : List Turn) (s : State) : ((Effect.agenda l).apply s).starts = s.starts := rfl
@[simp] theorem apply_agenda_tiles (l : List Turn) (s : State) : ((Effect.agenda l).apply s).tiles = s.tiles := rfl
@[simp] theorem apply_agenda_accs (l : List Turn) (s : State) : ((Effect.agenda l).apply s).accs = s.accs := rfl
@[simp] theorem apply_agenda_cores (l : List Turn) (s : State) : ((Effect.agenda l).apply s).cores = s.cores := rfl
@[simp] theorem apply_agenda_clusters (l : List Turn) (s : State) : ((Effect.agenda l).apply s).clusters = s.clusters := rfl
@[simp] theorem apply_agenda_dies (l : List Turn) (s : State) : ((Effect.agenda l).apply s).dies = s.dies := rfl
@[simp] theorem apply_agenda_contexts (l : List Turn) (s : State) : ((Effect.agenda l).apply s).contexts = s.contexts := rfl
@[simp] theorem apply_agenda_queueSlots (l : List Turn) (s : State) : ((Effect.agenda l).apply s).queueSlots = s.queueSlots := rfl
@[simp] theorem apply_agenda_peers (l : List Turn) (s : State) : ((Effect.agenda l).apply s).peers = s.peers := rfl
@[simp] theorem apply_agenda_homes (l : List Turn) (s : State) : ((Effect.agenda l).apply s).homes = s.homes := rfl
@[simp] theorem apply_agenda_arrivals (l : List Turn) (s : State) : ((Effect.agenda l).apply s).arrivals = s.arrivals := rfl
@[simp] theorem apply_agenda_holds (l : List Turn) (s : State) : ((Effect.agenda l).apply s).holds = s.holds := rfl
@[simp] theorem apply_agenda_reqs (l : List Turn) (s : State) : ((Effect.agenda l).apply s).reqs = s.reqs := rfl
@[simp] theorem apply_agenda_tlb (l : List Turn) (s : State) : ((Effect.agenda l).apply s).tlb = s.tlb := rfl
@[simp] theorem apply_agenda_granules (l : List Turn) (s : State) : ((Effect.agenda l).apply s).granules = s.granules := rfl
@[simp] theorem apply_agenda_faults (l : List Turn) (s : State) : ((Effect.agenda l).apply s).faults = s.faults := rfl
@[simp] theorem apply_agenda_wakes (l : List Turn) (s : State) : ((Effect.agenda l).apply s).wakes = s.wakes := rfl
@[simp] theorem apply_agenda_migrants (l : List Turn) (s : State) : ((Effect.agenda l).apply s).migrants = s.migrants := rfl
@[simp] theorem apply_agenda_crews (l : List Turn) (s : State) : ((Effect.agenda l).apply s).crews = s.crews := rfl
@[simp] theorem apply_agenda_flasks (l : List Turn) (s : State) : ((Effect.agenda l).apply s).flasks = s.flasks := rfl
@[simp] theorem apply_agenda_grids (l : List Turn) (s : State) : ((Effect.agenda l).apply s).grids = s.grids := rfl
@[simp] theorem apply_agenda_jobs (l : List Turn) (s : State) : ((Effect.agenda l).apply s).jobs = s.jobs := rfl
@[simp] theorem apply_agenda_gctxs (l : List Turn) (s : State) : ((Effect.agenda l).apply s).gctxs = s.gctxs := rfl
@[simp] theorem apply_agenda_blends (l : List Turn) (s : State) : ((Effect.agenda l).apply s).blends = s.blends := rfl
@[simp] theorem apply_agenda_replicas (l : List Turn) (s : State) : ((Effect.agenda l).apply s).replicas = s.replicas := rfl
@[simp] theorem apply_agenda_mgmt (l : List Turn) (s : State) : ((Effect.agenda l).apply s).mgmt = s.mgmt := rfl
@[simp] theorem apply_agenda_sent (l : List Turn) (s : State) : ((Effect.agenda l).apply s).sent = s.sent := rfl
@[simp] theorem apply_agenda_cycle (l : List Turn) (s : State) : ((Effect.agenda l).apply s).cycle = s.cycle := rfl
@[simp] theorem apply_agenda_agenda (l : List Turn) (s : State) : ((Effect.agenda l).apply s).agenda = l := rfl
@[simp] theorem apply_agenda_input (l : List Turn) (s : State) : ((Effect.agenda l).apply s).input = s.input := rfl
@[simp] theorem apply_agenda_cur (l : List Turn) (s : State) : ((Effect.agenda l).apply s).cur = s.cur := rfl
@[simp] theorem apply_agenda_insn (l : List Turn) (s : State) : ((Effect.agenda l).apply s).insn = s.insn := rfl
@[simp] theorem apply_agenda_phase (l : List Turn) (s : State) : ((Effect.agenda l).apply s).phase = s.phase := rfl
@[simp] theorem apply_agenda_freeCtr (l : List Turn) (s : State) : ((Effect.agenda l).apply s).freeCtr = s.freeCtr := rfl
@[simp] theorem apply_agenda_nextId (l : List Turn) (s : State) : ((Effect.agenda l).apply s).nextId = s.nextId := rfl
@[simp] theorem apply_input_mem (a : EventArg) (s : State) : ((Effect.input a).apply s).mem = s.mem := rfl
@[simp] theorem apply_input_empties (a : EventArg) (s : State) : ((Effect.input a).apply s).empties = s.empties := rfl
@[simp] theorem apply_input_bad (a : EventArg) (s : State) : ((Effect.input a).apply s).bad = s.bad := rfl
@[simp] theorem apply_input_old (a : EventArg) (s : State) : ((Effect.input a).apply s).old = s.old := rfl
@[simp] theorem apply_input_threads (a : EventArg) (s : State) : ((Effect.input a).apply s).threads = s.threads := rfl
@[simp] theorem apply_input_starts (a : EventArg) (s : State) : ((Effect.input a).apply s).starts = s.starts := rfl
@[simp] theorem apply_input_tiles (a : EventArg) (s : State) : ((Effect.input a).apply s).tiles = s.tiles := rfl
@[simp] theorem apply_input_accs (a : EventArg) (s : State) : ((Effect.input a).apply s).accs = s.accs := rfl
@[simp] theorem apply_input_cores (a : EventArg) (s : State) : ((Effect.input a).apply s).cores = s.cores := rfl
@[simp] theorem apply_input_clusters (a : EventArg) (s : State) : ((Effect.input a).apply s).clusters = s.clusters := rfl
@[simp] theorem apply_input_dies (a : EventArg) (s : State) : ((Effect.input a).apply s).dies = s.dies := rfl
@[simp] theorem apply_input_contexts (a : EventArg) (s : State) : ((Effect.input a).apply s).contexts = s.contexts := rfl
@[simp] theorem apply_input_queueSlots (a : EventArg) (s : State) : ((Effect.input a).apply s).queueSlots = s.queueSlots := rfl
@[simp] theorem apply_input_peers (a : EventArg) (s : State) : ((Effect.input a).apply s).peers = s.peers := rfl
@[simp] theorem apply_input_homes (a : EventArg) (s : State) : ((Effect.input a).apply s).homes = s.homes := rfl
@[simp] theorem apply_input_arrivals (a : EventArg) (s : State) : ((Effect.input a).apply s).arrivals = s.arrivals := rfl
@[simp] theorem apply_input_holds (a : EventArg) (s : State) : ((Effect.input a).apply s).holds = s.holds := rfl
@[simp] theorem apply_input_reqs (a : EventArg) (s : State) : ((Effect.input a).apply s).reqs = s.reqs := rfl
@[simp] theorem apply_input_tlb (a : EventArg) (s : State) : ((Effect.input a).apply s).tlb = s.tlb := rfl
@[simp] theorem apply_input_granules (a : EventArg) (s : State) : ((Effect.input a).apply s).granules = s.granules := rfl
@[simp] theorem apply_input_faults (a : EventArg) (s : State) : ((Effect.input a).apply s).faults = s.faults := rfl
@[simp] theorem apply_input_wakes (a : EventArg) (s : State) : ((Effect.input a).apply s).wakes = s.wakes := rfl
@[simp] theorem apply_input_migrants (a : EventArg) (s : State) : ((Effect.input a).apply s).migrants = s.migrants := rfl
@[simp] theorem apply_input_crews (a : EventArg) (s : State) : ((Effect.input a).apply s).crews = s.crews := rfl
@[simp] theorem apply_input_flasks (a : EventArg) (s : State) : ((Effect.input a).apply s).flasks = s.flasks := rfl
@[simp] theorem apply_input_grids (a : EventArg) (s : State) : ((Effect.input a).apply s).grids = s.grids := rfl
@[simp] theorem apply_input_jobs (a : EventArg) (s : State) : ((Effect.input a).apply s).jobs = s.jobs := rfl
@[simp] theorem apply_input_gctxs (a : EventArg) (s : State) : ((Effect.input a).apply s).gctxs = s.gctxs := rfl
@[simp] theorem apply_input_blends (a : EventArg) (s : State) : ((Effect.input a).apply s).blends = s.blends := rfl
@[simp] theorem apply_input_replicas (a : EventArg) (s : State) : ((Effect.input a).apply s).replicas = s.replicas := rfl
@[simp] theorem apply_input_mgmt (a : EventArg) (s : State) : ((Effect.input a).apply s).mgmt = s.mgmt := rfl
@[simp] theorem apply_input_sent (a : EventArg) (s : State) : ((Effect.input a).apply s).sent = s.sent := rfl
@[simp] theorem apply_input_cycle (a : EventArg) (s : State) : ((Effect.input a).apply s).cycle = s.cycle := rfl
@[simp] theorem apply_input_agenda (a : EventArg) (s : State) : ((Effect.input a).apply s).agenda = s.agenda := rfl
@[simp] theorem apply_input_input (a : EventArg) (s : State) : ((Effect.input a).apply s).input = a := rfl
@[simp] theorem apply_input_cur (a : EventArg) (s : State) : ((Effect.input a).apply s).cur = s.cur := rfl
@[simp] theorem apply_input_insn (a : EventArg) (s : State) : ((Effect.input a).apply s).insn = s.insn := rfl
@[simp] theorem apply_input_phase (a : EventArg) (s : State) : ((Effect.input a).apply s).phase = s.phase := rfl
@[simp] theorem apply_input_freeCtr (a : EventArg) (s : State) : ((Effect.input a).apply s).freeCtr = s.freeCtr := rfl
@[simp] theorem apply_input_nextId (a : EventArg) (s : State) : ((Effect.input a).apply s).nextId = s.nextId := rfl
@[simp] theorem apply_cur_mem (k : Nat) (insn : BitVec 32) (s : State) : ((Effect.cur k insn).apply s).mem = s.mem := rfl
@[simp] theorem apply_cur_empties (k : Nat) (insn : BitVec 32) (s : State) : ((Effect.cur k insn).apply s).empties = s.empties := rfl
@[simp] theorem apply_cur_bad (k : Nat) (insn : BitVec 32) (s : State) : ((Effect.cur k insn).apply s).bad = s.bad := rfl
@[simp] theorem apply_cur_old (k : Nat) (insn : BitVec 32) (s : State) : ((Effect.cur k insn).apply s).old = s.old := rfl
@[simp] theorem apply_cur_threads (k : Nat) (insn : BitVec 32) (s : State) : ((Effect.cur k insn).apply s).threads = s.threads := rfl
@[simp] theorem apply_cur_starts (k : Nat) (insn : BitVec 32) (s : State) : ((Effect.cur k insn).apply s).starts = s.starts := rfl
@[simp] theorem apply_cur_tiles (k : Nat) (insn : BitVec 32) (s : State) : ((Effect.cur k insn).apply s).tiles = s.tiles := rfl
@[simp] theorem apply_cur_accs (k : Nat) (insn : BitVec 32) (s : State) : ((Effect.cur k insn).apply s).accs = s.accs := rfl
@[simp] theorem apply_cur_cores (k : Nat) (insn : BitVec 32) (s : State) : ((Effect.cur k insn).apply s).cores = s.cores := rfl
@[simp] theorem apply_cur_clusters (k : Nat) (insn : BitVec 32) (s : State) : ((Effect.cur k insn).apply s).clusters = s.clusters := rfl
@[simp] theorem apply_cur_dies (k : Nat) (insn : BitVec 32) (s : State) : ((Effect.cur k insn).apply s).dies = s.dies := rfl
@[simp] theorem apply_cur_contexts (k : Nat) (insn : BitVec 32) (s : State) : ((Effect.cur k insn).apply s).contexts = s.contexts := rfl
@[simp] theorem apply_cur_queueSlots (k : Nat) (insn : BitVec 32) (s : State) : ((Effect.cur k insn).apply s).queueSlots = s.queueSlots := rfl
@[simp] theorem apply_cur_peers (k : Nat) (insn : BitVec 32) (s : State) : ((Effect.cur k insn).apply s).peers = s.peers := rfl
@[simp] theorem apply_cur_homes (k : Nat) (insn : BitVec 32) (s : State) : ((Effect.cur k insn).apply s).homes = s.homes := rfl
@[simp] theorem apply_cur_arrivals (k : Nat) (insn : BitVec 32) (s : State) : ((Effect.cur k insn).apply s).arrivals = s.arrivals := rfl
@[simp] theorem apply_cur_holds (k : Nat) (insn : BitVec 32) (s : State) : ((Effect.cur k insn).apply s).holds = s.holds := rfl
@[simp] theorem apply_cur_reqs (k : Nat) (insn : BitVec 32) (s : State) : ((Effect.cur k insn).apply s).reqs = s.reqs := rfl
@[simp] theorem apply_cur_tlb (k : Nat) (insn : BitVec 32) (s : State) : ((Effect.cur k insn).apply s).tlb = s.tlb := rfl
@[simp] theorem apply_cur_granules (k : Nat) (insn : BitVec 32) (s : State) : ((Effect.cur k insn).apply s).granules = s.granules := rfl
@[simp] theorem apply_cur_faults (k : Nat) (insn : BitVec 32) (s : State) : ((Effect.cur k insn).apply s).faults = s.faults := rfl
@[simp] theorem apply_cur_wakes (k : Nat) (insn : BitVec 32) (s : State) : ((Effect.cur k insn).apply s).wakes = s.wakes := rfl
@[simp] theorem apply_cur_migrants (k : Nat) (insn : BitVec 32) (s : State) : ((Effect.cur k insn).apply s).migrants = s.migrants := rfl
@[simp] theorem apply_cur_crews (k : Nat) (insn : BitVec 32) (s : State) : ((Effect.cur k insn).apply s).crews = s.crews := rfl
@[simp] theorem apply_cur_flasks (k : Nat) (insn : BitVec 32) (s : State) : ((Effect.cur k insn).apply s).flasks = s.flasks := rfl
@[simp] theorem apply_cur_grids (k : Nat) (insn : BitVec 32) (s : State) : ((Effect.cur k insn).apply s).grids = s.grids := rfl
@[simp] theorem apply_cur_jobs (k : Nat) (insn : BitVec 32) (s : State) : ((Effect.cur k insn).apply s).jobs = s.jobs := rfl
@[simp] theorem apply_cur_gctxs (k : Nat) (insn : BitVec 32) (s : State) : ((Effect.cur k insn).apply s).gctxs = s.gctxs := rfl
@[simp] theorem apply_cur_blends (k : Nat) (insn : BitVec 32) (s : State) : ((Effect.cur k insn).apply s).blends = s.blends := rfl
@[simp] theorem apply_cur_replicas (k : Nat) (insn : BitVec 32) (s : State) : ((Effect.cur k insn).apply s).replicas = s.replicas := rfl
@[simp] theorem apply_cur_mgmt (k : Nat) (insn : BitVec 32) (s : State) : ((Effect.cur k insn).apply s).mgmt = s.mgmt := rfl
@[simp] theorem apply_cur_sent (k : Nat) (insn : BitVec 32) (s : State) : ((Effect.cur k insn).apply s).sent = s.sent := rfl
@[simp] theorem apply_cur_cycle (k : Nat) (insn : BitVec 32) (s : State) : ((Effect.cur k insn).apply s).cycle = s.cycle := rfl
@[simp] theorem apply_cur_agenda (k : Nat) (insn : BitVec 32) (s : State) : ((Effect.cur k insn).apply s).agenda = s.agenda := rfl
@[simp] theorem apply_cur_input (k : Nat) (insn : BitVec 32) (s : State) : ((Effect.cur k insn).apply s).input = s.input := rfl
@[simp] theorem apply_cur_cur (k : Nat) (insn : BitVec 32) (s : State) : ((Effect.cur k insn).apply s).cur = k := rfl
@[simp] theorem apply_cur_insn (k : Nat) (insn : BitVec 32) (s : State) : ((Effect.cur k insn).apply s).insn = insn := rfl
@[simp] theorem apply_cur_phase (k : Nat) (insn : BitVec 32) (s : State) : ((Effect.cur k insn).apply s).phase = s.phase := rfl
@[simp] theorem apply_cur_freeCtr (k : Nat) (insn : BitVec 32) (s : State) : ((Effect.cur k insn).apply s).freeCtr = s.freeCtr := rfl
@[simp] theorem apply_cur_nextId (k : Nat) (insn : BitVec 32) (s : State) : ((Effect.cur k insn).apply s).nextId = s.nextId := rfl
@[simp] theorem apply_phase_mem (n : Nat) (s : State) : ((Effect.phase n).apply s).mem = s.mem := rfl
@[simp] theorem apply_phase_empties (n : Nat) (s : State) : ((Effect.phase n).apply s).empties = s.empties := rfl
@[simp] theorem apply_phase_bad (n : Nat) (s : State) : ((Effect.phase n).apply s).bad = s.bad := rfl
@[simp] theorem apply_phase_old (n : Nat) (s : State) : ((Effect.phase n).apply s).old = s.old := rfl
@[simp] theorem apply_phase_threads (n : Nat) (s : State) : ((Effect.phase n).apply s).threads = s.threads := rfl
@[simp] theorem apply_phase_starts (n : Nat) (s : State) : ((Effect.phase n).apply s).starts = s.starts := rfl
@[simp] theorem apply_phase_tiles (n : Nat) (s : State) : ((Effect.phase n).apply s).tiles = s.tiles := rfl
@[simp] theorem apply_phase_accs (n : Nat) (s : State) : ((Effect.phase n).apply s).accs = s.accs := rfl
@[simp] theorem apply_phase_cores (n : Nat) (s : State) : ((Effect.phase n).apply s).cores = s.cores := rfl
@[simp] theorem apply_phase_clusters (n : Nat) (s : State) : ((Effect.phase n).apply s).clusters = s.clusters := rfl
@[simp] theorem apply_phase_dies (n : Nat) (s : State) : ((Effect.phase n).apply s).dies = s.dies := rfl
@[simp] theorem apply_phase_contexts (n : Nat) (s : State) : ((Effect.phase n).apply s).contexts = s.contexts := rfl
@[simp] theorem apply_phase_queueSlots (n : Nat) (s : State) : ((Effect.phase n).apply s).queueSlots = s.queueSlots := rfl
@[simp] theorem apply_phase_peers (n : Nat) (s : State) : ((Effect.phase n).apply s).peers = s.peers := rfl
@[simp] theorem apply_phase_homes (n : Nat) (s : State) : ((Effect.phase n).apply s).homes = s.homes := rfl
@[simp] theorem apply_phase_arrivals (n : Nat) (s : State) : ((Effect.phase n).apply s).arrivals = s.arrivals := rfl
@[simp] theorem apply_phase_holds (n : Nat) (s : State) : ((Effect.phase n).apply s).holds = s.holds := rfl
@[simp] theorem apply_phase_reqs (n : Nat) (s : State) : ((Effect.phase n).apply s).reqs = s.reqs := rfl
@[simp] theorem apply_phase_tlb (n : Nat) (s : State) : ((Effect.phase n).apply s).tlb = s.tlb := rfl
@[simp] theorem apply_phase_granules (n : Nat) (s : State) : ((Effect.phase n).apply s).granules = s.granules := rfl
@[simp] theorem apply_phase_faults (n : Nat) (s : State) : ((Effect.phase n).apply s).faults = s.faults := rfl
@[simp] theorem apply_phase_wakes (n : Nat) (s : State) : ((Effect.phase n).apply s).wakes = s.wakes := rfl
@[simp] theorem apply_phase_migrants (n : Nat) (s : State) : ((Effect.phase n).apply s).migrants = s.migrants := rfl
@[simp] theorem apply_phase_crews (n : Nat) (s : State) : ((Effect.phase n).apply s).crews = s.crews := rfl
@[simp] theorem apply_phase_flasks (n : Nat) (s : State) : ((Effect.phase n).apply s).flasks = s.flasks := rfl
@[simp] theorem apply_phase_grids (n : Nat) (s : State) : ((Effect.phase n).apply s).grids = s.grids := rfl
@[simp] theorem apply_phase_jobs (n : Nat) (s : State) : ((Effect.phase n).apply s).jobs = s.jobs := rfl
@[simp] theorem apply_phase_gctxs (n : Nat) (s : State) : ((Effect.phase n).apply s).gctxs = s.gctxs := rfl
@[simp] theorem apply_phase_blends (n : Nat) (s : State) : ((Effect.phase n).apply s).blends = s.blends := rfl
@[simp] theorem apply_phase_replicas (n : Nat) (s : State) : ((Effect.phase n).apply s).replicas = s.replicas := rfl
@[simp] theorem apply_phase_mgmt (n : Nat) (s : State) : ((Effect.phase n).apply s).mgmt = s.mgmt := rfl
@[simp] theorem apply_phase_sent (n : Nat) (s : State) : ((Effect.phase n).apply s).sent = s.sent := rfl
@[simp] theorem apply_phase_cycle (n : Nat) (s : State) : ((Effect.phase n).apply s).cycle = s.cycle := rfl
@[simp] theorem apply_phase_agenda (n : Nat) (s : State) : ((Effect.phase n).apply s).agenda = s.agenda := rfl
@[simp] theorem apply_phase_input (n : Nat) (s : State) : ((Effect.phase n).apply s).input = s.input := rfl
@[simp] theorem apply_phase_cur (n : Nat) (s : State) : ((Effect.phase n).apply s).cur = s.cur := rfl
@[simp] theorem apply_phase_insn (n : Nat) (s : State) : ((Effect.phase n).apply s).insn = s.insn := rfl
@[simp] theorem apply_phase_phase (n : Nat) (s : State) : ((Effect.phase n).apply s).phase = n := rfl
@[simp] theorem apply_phase_freeCtr (n : Nat) (s : State) : ((Effect.phase n).apply s).freeCtr = s.freeCtr := rfl
@[simp] theorem apply_phase_nextId (n : Nat) (s : State) : ((Effect.phase n).apply s).nextId = s.nextId := rfl
@[simp] theorem apply_freeCtr_mem (n : Nat) (s : State) : ((Effect.freeCtr n).apply s).mem = s.mem := rfl
@[simp] theorem apply_freeCtr_empties (n : Nat) (s : State) : ((Effect.freeCtr n).apply s).empties = s.empties := rfl
@[simp] theorem apply_freeCtr_bad (n : Nat) (s : State) : ((Effect.freeCtr n).apply s).bad = s.bad := rfl
@[simp] theorem apply_freeCtr_old (n : Nat) (s : State) : ((Effect.freeCtr n).apply s).old = s.old := rfl
@[simp] theorem apply_freeCtr_threads (n : Nat) (s : State) : ((Effect.freeCtr n).apply s).threads = s.threads := rfl
@[simp] theorem apply_freeCtr_starts (n : Nat) (s : State) : ((Effect.freeCtr n).apply s).starts = s.starts := rfl
@[simp] theorem apply_freeCtr_tiles (n : Nat) (s : State) : ((Effect.freeCtr n).apply s).tiles = s.tiles := rfl
@[simp] theorem apply_freeCtr_accs (n : Nat) (s : State) : ((Effect.freeCtr n).apply s).accs = s.accs := rfl
@[simp] theorem apply_freeCtr_cores (n : Nat) (s : State) : ((Effect.freeCtr n).apply s).cores = s.cores := rfl
@[simp] theorem apply_freeCtr_clusters (n : Nat) (s : State) : ((Effect.freeCtr n).apply s).clusters = s.clusters := rfl
@[simp] theorem apply_freeCtr_dies (n : Nat) (s : State) : ((Effect.freeCtr n).apply s).dies = s.dies := rfl
@[simp] theorem apply_freeCtr_contexts (n : Nat) (s : State) : ((Effect.freeCtr n).apply s).contexts = s.contexts := rfl
@[simp] theorem apply_freeCtr_queueSlots (n : Nat) (s : State) : ((Effect.freeCtr n).apply s).queueSlots = s.queueSlots := rfl
@[simp] theorem apply_freeCtr_peers (n : Nat) (s : State) : ((Effect.freeCtr n).apply s).peers = s.peers := rfl
@[simp] theorem apply_freeCtr_homes (n : Nat) (s : State) : ((Effect.freeCtr n).apply s).homes = s.homes := rfl
@[simp] theorem apply_freeCtr_arrivals (n : Nat) (s : State) : ((Effect.freeCtr n).apply s).arrivals = s.arrivals := rfl
@[simp] theorem apply_freeCtr_holds (n : Nat) (s : State) : ((Effect.freeCtr n).apply s).holds = s.holds := rfl
@[simp] theorem apply_freeCtr_reqs (n : Nat) (s : State) : ((Effect.freeCtr n).apply s).reqs = s.reqs := rfl
@[simp] theorem apply_freeCtr_tlb (n : Nat) (s : State) : ((Effect.freeCtr n).apply s).tlb = s.tlb := rfl
@[simp] theorem apply_freeCtr_granules (n : Nat) (s : State) : ((Effect.freeCtr n).apply s).granules = s.granules := rfl
@[simp] theorem apply_freeCtr_faults (n : Nat) (s : State) : ((Effect.freeCtr n).apply s).faults = s.faults := rfl
@[simp] theorem apply_freeCtr_wakes (n : Nat) (s : State) : ((Effect.freeCtr n).apply s).wakes = s.wakes := rfl
@[simp] theorem apply_freeCtr_migrants (n : Nat) (s : State) : ((Effect.freeCtr n).apply s).migrants = s.migrants := rfl
@[simp] theorem apply_freeCtr_crews (n : Nat) (s : State) : ((Effect.freeCtr n).apply s).crews = s.crews := rfl
@[simp] theorem apply_freeCtr_flasks (n : Nat) (s : State) : ((Effect.freeCtr n).apply s).flasks = s.flasks := rfl
@[simp] theorem apply_freeCtr_grids (n : Nat) (s : State) : ((Effect.freeCtr n).apply s).grids = s.grids := rfl
@[simp] theorem apply_freeCtr_jobs (n : Nat) (s : State) : ((Effect.freeCtr n).apply s).jobs = s.jobs := rfl
@[simp] theorem apply_freeCtr_gctxs (n : Nat) (s : State) : ((Effect.freeCtr n).apply s).gctxs = s.gctxs := rfl
@[simp] theorem apply_freeCtr_blends (n : Nat) (s : State) : ((Effect.freeCtr n).apply s).blends = s.blends := rfl
@[simp] theorem apply_freeCtr_replicas (n : Nat) (s : State) : ((Effect.freeCtr n).apply s).replicas = s.replicas := rfl
@[simp] theorem apply_freeCtr_mgmt (n : Nat) (s : State) : ((Effect.freeCtr n).apply s).mgmt = s.mgmt := rfl
@[simp] theorem apply_freeCtr_sent (n : Nat) (s : State) : ((Effect.freeCtr n).apply s).sent = s.sent := rfl
@[simp] theorem apply_freeCtr_cycle (n : Nat) (s : State) : ((Effect.freeCtr n).apply s).cycle = s.cycle := rfl
@[simp] theorem apply_freeCtr_agenda (n : Nat) (s : State) : ((Effect.freeCtr n).apply s).agenda = s.agenda := rfl
@[simp] theorem apply_freeCtr_input (n : Nat) (s : State) : ((Effect.freeCtr n).apply s).input = s.input := rfl
@[simp] theorem apply_freeCtr_cur (n : Nat) (s : State) : ((Effect.freeCtr n).apply s).cur = s.cur := rfl
@[simp] theorem apply_freeCtr_insn (n : Nat) (s : State) : ((Effect.freeCtr n).apply s).insn = s.insn := rfl
@[simp] theorem apply_freeCtr_phase (n : Nat) (s : State) : ((Effect.freeCtr n).apply s).phase = s.phase := rfl
@[simp] theorem apply_freeCtr_freeCtr (n : Nat) (s : State) : ((Effect.freeCtr n).apply s).freeCtr = n := rfl
@[simp] theorem apply_freeCtr_nextId (n : Nat) (s : State) : ((Effect.freeCtr n).apply s).nextId = s.nextId := rfl
@[simp] theorem apply_nextId_mem (n : Nat) (s : State) : ((Effect.nextId n).apply s).mem = s.mem := rfl
@[simp] theorem apply_nextId_empties (n : Nat) (s : State) : ((Effect.nextId n).apply s).empties = s.empties := rfl
@[simp] theorem apply_nextId_bad (n : Nat) (s : State) : ((Effect.nextId n).apply s).bad = s.bad := rfl
@[simp] theorem apply_nextId_old (n : Nat) (s : State) : ((Effect.nextId n).apply s).old = s.old := rfl
@[simp] theorem apply_nextId_threads (n : Nat) (s : State) : ((Effect.nextId n).apply s).threads = s.threads := rfl
@[simp] theorem apply_nextId_starts (n : Nat) (s : State) : ((Effect.nextId n).apply s).starts = s.starts := rfl
@[simp] theorem apply_nextId_tiles (n : Nat) (s : State) : ((Effect.nextId n).apply s).tiles = s.tiles := rfl
@[simp] theorem apply_nextId_accs (n : Nat) (s : State) : ((Effect.nextId n).apply s).accs = s.accs := rfl
@[simp] theorem apply_nextId_cores (n : Nat) (s : State) : ((Effect.nextId n).apply s).cores = s.cores := rfl
@[simp] theorem apply_nextId_clusters (n : Nat) (s : State) : ((Effect.nextId n).apply s).clusters = s.clusters := rfl
@[simp] theorem apply_nextId_dies (n : Nat) (s : State) : ((Effect.nextId n).apply s).dies = s.dies := rfl
@[simp] theorem apply_nextId_contexts (n : Nat) (s : State) : ((Effect.nextId n).apply s).contexts = s.contexts := rfl
@[simp] theorem apply_nextId_queueSlots (n : Nat) (s : State) : ((Effect.nextId n).apply s).queueSlots = s.queueSlots := rfl
@[simp] theorem apply_nextId_peers (n : Nat) (s : State) : ((Effect.nextId n).apply s).peers = s.peers := rfl
@[simp] theorem apply_nextId_homes (n : Nat) (s : State) : ((Effect.nextId n).apply s).homes = s.homes := rfl
@[simp] theorem apply_nextId_arrivals (n : Nat) (s : State) : ((Effect.nextId n).apply s).arrivals = s.arrivals := rfl
@[simp] theorem apply_nextId_holds (n : Nat) (s : State) : ((Effect.nextId n).apply s).holds = s.holds := rfl
@[simp] theorem apply_nextId_reqs (n : Nat) (s : State) : ((Effect.nextId n).apply s).reqs = s.reqs := rfl
@[simp] theorem apply_nextId_tlb (n : Nat) (s : State) : ((Effect.nextId n).apply s).tlb = s.tlb := rfl
@[simp] theorem apply_nextId_granules (n : Nat) (s : State) : ((Effect.nextId n).apply s).granules = s.granules := rfl
@[simp] theorem apply_nextId_faults (n : Nat) (s : State) : ((Effect.nextId n).apply s).faults = s.faults := rfl
@[simp] theorem apply_nextId_wakes (n : Nat) (s : State) : ((Effect.nextId n).apply s).wakes = s.wakes := rfl
@[simp] theorem apply_nextId_migrants (n : Nat) (s : State) : ((Effect.nextId n).apply s).migrants = s.migrants := rfl
@[simp] theorem apply_nextId_crews (n : Nat) (s : State) : ((Effect.nextId n).apply s).crews = s.crews := rfl
@[simp] theorem apply_nextId_flasks (n : Nat) (s : State) : ((Effect.nextId n).apply s).flasks = s.flasks := rfl
@[simp] theorem apply_nextId_grids (n : Nat) (s : State) : ((Effect.nextId n).apply s).grids = s.grids := rfl
@[simp] theorem apply_nextId_jobs (n : Nat) (s : State) : ((Effect.nextId n).apply s).jobs = s.jobs := rfl
@[simp] theorem apply_nextId_gctxs (n : Nat) (s : State) : ((Effect.nextId n).apply s).gctxs = s.gctxs := rfl
@[simp] theorem apply_nextId_blends (n : Nat) (s : State) : ((Effect.nextId n).apply s).blends = s.blends := rfl
@[simp] theorem apply_nextId_replicas (n : Nat) (s : State) : ((Effect.nextId n).apply s).replicas = s.replicas := rfl
@[simp] theorem apply_nextId_mgmt (n : Nat) (s : State) : ((Effect.nextId n).apply s).mgmt = s.mgmt := rfl
@[simp] theorem apply_nextId_sent (n : Nat) (s : State) : ((Effect.nextId n).apply s).sent = s.sent := rfl
@[simp] theorem apply_nextId_cycle (n : Nat) (s : State) : ((Effect.nextId n).apply s).cycle = s.cycle := rfl
@[simp] theorem apply_nextId_agenda (n : Nat) (s : State) : ((Effect.nextId n).apply s).agenda = s.agenda := rfl
@[simp] theorem apply_nextId_input (n : Nat) (s : State) : ((Effect.nextId n).apply s).input = s.input := rfl
@[simp] theorem apply_nextId_cur (n : Nat) (s : State) : ((Effect.nextId n).apply s).cur = s.cur := rfl
@[simp] theorem apply_nextId_insn (n : Nat) (s : State) : ((Effect.nextId n).apply s).insn = s.insn := rfl
@[simp] theorem apply_nextId_phase (n : Nat) (s : State) : ((Effect.nextId n).apply s).phase = s.phase := rfl
@[simp] theorem apply_nextId_freeCtr (n : Nat) (s : State) : ((Effect.nextId n).apply s).freeCtr = s.freeCtr := rfl
@[simp] theorem apply_nextId_nextId (n : Nat) (s : State) : ((Effect.nextId n).apply s).nextId = n := rfl

/-! ### The current thread replaced -/

@[simp] theorem State.withCurrent_mem (s : State) (t : Thread) : (s.withCurrent t).mem = s.mem := rfl
@[simp] theorem State.withCurrent_empties (s : State) (t : Thread) : (s.withCurrent t).empties = s.empties := rfl
@[simp] theorem State.withCurrent_bad (s : State) (t : Thread) : (s.withCurrent t).bad = s.bad := rfl
@[simp] theorem State.withCurrent_old (s : State) (t : Thread) : (s.withCurrent t).old = s.old := rfl
@[simp] theorem State.withCurrent_arrivals (s : State) (t : Thread) : (s.withCurrent t).arrivals = s.arrivals := rfl
@[simp] theorem State.withCurrent_holds (s : State) (t : Thread) : (s.withCurrent t).holds = s.holds := rfl
@[simp] theorem State.withCurrent_granules (s : State) (t : Thread) : (s.withCurrent t).granules = s.granules := rfl
@[simp] theorem State.withCurrent_accs (s : State) (t : Thread) : (s.withCurrent t).accs = s.accs := rfl
@[simp] theorem State.withCurrent_contexts (s : State) (t : Thread) : (s.withCurrent t).contexts = s.contexts := rfl
@[simp] theorem State.withCurrent_queueSlots (s : State) (t : Thread) : (s.withCurrent t).queueSlots = s.queueSlots := rfl
@[simp] theorem State.withCurrent_peers (s : State) (t : Thread) : (s.withCurrent t).peers = s.peers := rfl
@[simp] theorem State.withCurrent_threads (s : State) (t : Thread) : (s.withCurrent t).threads = mapPut s.cur t s.threads := rfl
@[simp] theorem State.withCurrent_starts (s : State) (t : Thread) : (s.withCurrent t).starts = s.starts := rfl
@[simp] theorem State.withCurrent_tiles (s : State) (t : Thread) : (s.withCurrent t).tiles = s.tiles := rfl
@[simp] theorem State.withCurrent_cores (s : State) (t : Thread) : (s.withCurrent t).cores = s.cores := rfl
@[simp] theorem State.withCurrent_clusters (s : State) (t : Thread) : (s.withCurrent t).clusters = s.clusters := rfl
@[simp] theorem State.withCurrent_dies (s : State) (t : Thread) : (s.withCurrent t).dies = s.dies := rfl
@[simp] theorem State.withCurrent_homes (s : State) (t : Thread) : (s.withCurrent t).homes = s.homes := rfl
@[simp] theorem State.withCurrent_reqs (s : State) (t : Thread) : (s.withCurrent t).reqs = s.reqs := rfl
@[simp] theorem State.withCurrent_tlb (s : State) (t : Thread) : (s.withCurrent t).tlb = s.tlb := rfl
@[simp] theorem State.withCurrent_faults (s : State) (t : Thread) : (s.withCurrent t).faults = s.faults := rfl
@[simp] theorem State.withCurrent_wakes (s : State) (t : Thread) : (s.withCurrent t).wakes = s.wakes := rfl
@[simp] theorem State.withCurrent_migrants (s : State) (t : Thread) : (s.withCurrent t).migrants = s.migrants := rfl
@[simp] theorem State.withCurrent_crews (s : State) (t : Thread) : (s.withCurrent t).crews = s.crews := rfl
@[simp] theorem State.withCurrent_flasks (s : State) (t : Thread) : (s.withCurrent t).flasks = s.flasks := rfl
@[simp] theorem State.withCurrent_grids (s : State) (t : Thread) : (s.withCurrent t).grids = s.grids := rfl
@[simp] theorem State.withCurrent_jobs (s : State) (t : Thread) : (s.withCurrent t).jobs = s.jobs := rfl
@[simp] theorem State.withCurrent_gctxs (s : State) (t : Thread) : (s.withCurrent t).gctxs = s.gctxs := rfl
@[simp] theorem State.withCurrent_blends (s : State) (t : Thread) : (s.withCurrent t).blends = s.blends := rfl
@[simp] theorem State.withCurrent_replicas (s : State) (t : Thread) : (s.withCurrent t).replicas = s.replicas := rfl
@[simp] theorem State.withCurrent_mgmt (s : State) (t : Thread) : (s.withCurrent t).mgmt = s.mgmt := rfl
@[simp] theorem State.withCurrent_sent (s : State) (t : Thread) : (s.withCurrent t).sent = s.sent := rfl
@[simp] theorem State.withCurrent_cycle (s : State) (t : Thread) : (s.withCurrent t).cycle = s.cycle := rfl
@[simp] theorem State.withCurrent_agenda (s : State) (t : Thread) : (s.withCurrent t).agenda = s.agenda := rfl
@[simp] theorem State.withCurrent_input (s : State) (t : Thread) : (s.withCurrent t).input = s.input := rfl
@[simp] theorem State.withCurrent_cur (s : State) (t : Thread) : (s.withCurrent t).cur = s.cur := rfl
@[simp] theorem State.withCurrent_insn (s : State) (t : Thread) : (s.withCurrent t).insn = s.insn := rfl
@[simp] theorem State.withCurrent_phase (s : State) (t : Thread) : (s.withCurrent t).phase = s.phase := rfl
@[simp] theorem State.withCurrent_freeCtr (s : State) (t : Thread) : (s.withCurrent t).freeCtr = s.freeCtr := rfl
@[simp] theorem State.withCurrent_nextId (s : State) (t : Thread) : (s.withCurrent t).nextId = s.nextId := rfl

/-! ### Changes of a thread -/

@[simp] theorem Thread.writeE_pcHalf (t : Thread) (i : BitVec 3) (x : Word) : (t.writeE i x).pcHalf = t.pcHalf := rfl
@[simp] theorem Thread.writeE_s (t : Thread) (i : BitVec 3) (x : Word) : (t.writeE i x).s = t.s := rfl
@[simp] theorem Thread.writeE_p (t : Thread) (i : BitVec 3) (x : Word) : (t.writeE i x).p = t.p := rfl
@[simp] theorem Thread.writeE_v (t : Thread) (i : BitVec 3) (x : Word) : (t.writeE i x).v = t.v := rfl
@[simp] theorem Thread.writeE_long (t : Thread) (i : BitVec 3) (x : Word) : (t.writeE i x).long = t.long := rfl
@[simp] theorem Thread.writeE_inc (t : Thread) (i : BitVec 3) (x : Word) : (t.writeE i x).inc = t.inc := rfl
@[simp] theorem Thread.writeE_status (t : Thread) (i : BitVec 3) (x : Word) : (t.writeE i x).status = t.status := rfl
@[simp] theorem Thread.writeE_wake (t : Thread) (i : BitVec 3) (x : Word) : (t.writeE i x).wake = t.wake := rfl
@[simp] theorem Thread.writeE_wakeRel (t : Thread) (i : BitVec 3) (x : Word) : (t.writeE i x).wakeRel = t.wakeRel := rfl
@[simp] theorem Thread.writeE_flags (t : Thread) (i : BitVec 3) (x : Word) : (t.writeE i x).flags = t.flags := rfl
@[simp] theorem Thread.writeE_rmode (t : Thread) (i : BitVec 3) (x : Word) : (t.writeE i x).rmode = t.rmode := rfl
@[simp] theorem Thread.writeE_approx (t : Thread) (i : BitVec 3) (x : Word) : (t.writeE i x).approx = t.approx := rfl
@[simp] theorem Thread.writeE_div0 (t : Thread) (i : BitVec 3) (x : Word) : (t.writeE i x).div0 = t.div0 := rfl
@[simp] theorem Thread.writeE_waitlim (t : Thread) (i : BitVec 3) (x : Word) : (t.writeE i x).waitlim = t.waitlim := rfl
@[simp] theorem Thread.writeE_retrylim (t : Thread) (i : BitVec 3) (x : Word) : (t.writeE i x).retrylim = t.retrylim := rfl
@[simp] theorem Thread.writeE_prio (t : Thread) (i : BitVec 3) (x : Word) : (t.writeE i x).prio = t.prio := rfl
@[simp] theorem Thread.writeE_fixed (t : Thread) (i : BitVec 3) (x : Word) : (t.writeE i x).fixed = t.fixed := rfl
@[simp] theorem Thread.writeE_broken (t : Thread) (i : BitVec 3) (x : Word) : (t.writeE i x).broken = t.broken := rfl
@[simp] theorem Thread.writeE_inreg (t : Thread) (i : BitVec 3) (x : Word) : (t.writeE i x).inreg = t.inreg := rfl
@[simp] theorem Thread.writeE_fmta (t : Thread) (i : BitVec 3) (x : Word) : (t.writeE i x).fmta = t.fmta := rfl
@[simp] theorem Thread.writeE_fmtb (t : Thread) (i : BitVec 3) (x : Word) : (t.writeE i x).fmtb = t.fmtb := rfl
@[simp] theorem Thread.writeE_fmts (t : Thread) (i : BitVec 3) (x : Word) : (t.writeE i x).fmts = t.fmts := rfl
@[simp] theorem Thread.writeE_coefbase (t : Thread) (i : BitVec 3) (x : Word) : (t.writeE i x).coefbase = t.coefbase := rfl
@[simp] theorem Thread.writeE_trapvec (t : Thread) (i : BitVec 3) (x : Word) : (t.writeE i x).trapvec = t.trapvec := rfl
@[simp] theorem Thread.writeE_traprec (t : Thread) (i : BitVec 3) (x : Word) : (t.writeE i x).traprec = t.traprec := rfl
@[simp] theorem Thread.writeE_intrap (t : Thread) (i : BitVec 3) (x : Word) : (t.writeE i x).intrap = t.intrap := rfl
@[simp] theorem Thread.writeE_due (t : Thread) (i : BitVec 3) (x : Word) : (t.writeE i x).due = t.due := rfl
@[simp] theorem Thread.writeE_heldTraps (t : Thread) (i : BitVec 3) (x : Word) : (t.writeE i x).heldTraps = t.heldTraps := rfl
@[simp] theorem Thread.writeE_entering (t : Thread) (i : BitVec 3) (x : Word) : (t.writeE i x).entering = t.entering := rfl
@[simp] theorem Thread.writeE_ops (t : Thread) (i : BitVec 3) (x : Word) : (t.writeE i x).ops = t.ops := rfl
@[simp] theorem Thread.writeE_windows (t : Thread) (i : BitVec 3) (x : Word) : (t.writeE i x).windows = t.windows := rfl
@[simp] theorem Thread.writeE_forfeits (t : Thread) (i : BitVec 3) (x : Word) : (t.writeE i x).forfeits = t.forfeits := rfl
@[simp] theorem Thread.writeE_ctx (t : Thread) (i : BitVec 3) (x : Word) : (t.writeE i x).ctx = t.ctx := rfl
@[simp] theorem Thread.writeE_crew (t : Thread) (i : BitVec 3) (x : Word) : (t.writeE i x).crew = t.crew := rfl
@[simp] theorem Thread.writeE_flask (t : Thread) (i : BitVec 3) (x : Word) : (t.writeE i x).flask = t.flask := rfl
@[simp] theorem Thread.writeE_index (t : Thread) (i : BitVec 3) (x : Word) : (t.writeE i x).index = t.index := rfl
@[simp] theorem Thread.writeE_spawned (t : Thread) (i : BitVec 3) (x : Word) : (t.writeE i x).spawned = t.spawned := rfl
@[simp] theorem Thread.writeE_detached (t : Thread) (i : BitVec 3) (x : Word) : (t.writeE i x).detached = t.detached := rfl
@[simp] theorem Thread.writeE_scope (t : Thread) (i : BitVec 3) (x : Word) : (t.writeE i x).scope = t.scope := rfl
@[simp] theorem Thread.writeE_barCrew (t : Thread) (i : BitVec 3) (x : Word) : (t.writeE i x).barCrew = t.barCrew := rfl
@[simp] theorem Thread.writeE_barFlask (t : Thread) (i : BitVec 3) (x : Word) : (t.writeE i x).barFlask = t.barFlask := rfl
@[simp] theorem Thread.writeE_group (t : Thread) (i : BitVec 3) (x : Word) : (t.writeE i x).group = t.group := rfl
@[simp] theorem Thread.writeE_spill (t : Thread) (i : BitVec 3) (x : Word) : (t.writeE i x).spill = t.spill := rfl
@[simp] theorem Thread.writeE_waitSince (t : Thread) (i : BitVec 3) (x : Word) : (t.writeE i x).waitSince = t.waitSince := rfl
@[simp] theorem Thread.writeE_faultSince (t : Thread) (i : BitVec 3) (x : Word) : (t.writeE i x).faultSince = t.faultSince := rfl
@[simp] theorem Thread.writeE_lastIssue (t : Thread) (i : BitVec 3) (x : Word) : (t.writeE i x).lastIssue = t.lastIssue := rfl
@[simp] theorem Thread.writeE_word (t : Thread) (i : BitVec 3) (x : Word) : (t.writeE i x).word = t.word := rfl
@[simp] theorem Thread.writeE_after (t : Thread) (i : BitVec 3) (x : Word) : (t.writeE i x).after = t.after := rfl
@[simp] theorem Thread.writeE_owed (t : Thread) (i : BitVec 3) (x : Word) : (t.writeE i x).owed = t.owed := rfl
@[simp] theorem Thread.writeE_fetchFrom (t : Thread) (i : BitVec 3) (x : Word) : (t.writeE i x).fetchFrom = t.fetchFrom := rfl
@[simp] theorem Thread.writeE_idle (t : Thread) (i : BitVec 3) (x : Word) : (t.writeE i x).idle = t.idle := rfl
@[simp] theorem Thread.writeE_fetchFault (t : Thread) (i : BitVec 3) (x : Word) : (t.writeE i x).fetchFault = t.fetchFault := rfl

@[simp] theorem Thread.writeV_pcHalf (t : Thread) (i : BitVec 4) (x : Quad) : (t.writeV i x).pcHalf = t.pcHalf := rfl
@[simp] theorem Thread.writeV_s (t : Thread) (i : BitVec 4) (x : Quad) : (t.writeV i x).s = t.s := rfl
@[simp] theorem Thread.writeV_p (t : Thread) (i : BitVec 4) (x : Quad) : (t.writeV i x).p = t.p := rfl
@[simp] theorem Thread.writeV_e (t : Thread) (i : BitVec 4) (x : Quad) : (t.writeV i x).e = t.e := rfl
@[simp] theorem Thread.writeV_long (t : Thread) (i : BitVec 4) (x : Quad) : (t.writeV i x).long = t.long := rfl
@[simp] theorem Thread.writeV_inc (t : Thread) (i : BitVec 4) (x : Quad) : (t.writeV i x).inc = t.inc := rfl
@[simp] theorem Thread.writeV_status (t : Thread) (i : BitVec 4) (x : Quad) : (t.writeV i x).status = t.status := rfl
@[simp] theorem Thread.writeV_wake (t : Thread) (i : BitVec 4) (x : Quad) : (t.writeV i x).wake = t.wake := rfl
@[simp] theorem Thread.writeV_wakeRel (t : Thread) (i : BitVec 4) (x : Quad) : (t.writeV i x).wakeRel = t.wakeRel := rfl
@[simp] theorem Thread.writeV_flags (t : Thread) (i : BitVec 4) (x : Quad) : (t.writeV i x).flags = t.flags := rfl
@[simp] theorem Thread.writeV_rmode (t : Thread) (i : BitVec 4) (x : Quad) : (t.writeV i x).rmode = t.rmode := rfl
@[simp] theorem Thread.writeV_approx (t : Thread) (i : BitVec 4) (x : Quad) : (t.writeV i x).approx = t.approx := rfl
@[simp] theorem Thread.writeV_div0 (t : Thread) (i : BitVec 4) (x : Quad) : (t.writeV i x).div0 = t.div0 := rfl
@[simp] theorem Thread.writeV_waitlim (t : Thread) (i : BitVec 4) (x : Quad) : (t.writeV i x).waitlim = t.waitlim := rfl
@[simp] theorem Thread.writeV_retrylim (t : Thread) (i : BitVec 4) (x : Quad) : (t.writeV i x).retrylim = t.retrylim := rfl
@[simp] theorem Thread.writeV_prio (t : Thread) (i : BitVec 4) (x : Quad) : (t.writeV i x).prio = t.prio := rfl
@[simp] theorem Thread.writeV_fixed (t : Thread) (i : BitVec 4) (x : Quad) : (t.writeV i x).fixed = t.fixed := rfl
@[simp] theorem Thread.writeV_broken (t : Thread) (i : BitVec 4) (x : Quad) : (t.writeV i x).broken = t.broken := rfl
@[simp] theorem Thread.writeV_inreg (t : Thread) (i : BitVec 4) (x : Quad) : (t.writeV i x).inreg = t.inreg := rfl
@[simp] theorem Thread.writeV_fmta (t : Thread) (i : BitVec 4) (x : Quad) : (t.writeV i x).fmta = t.fmta := rfl
@[simp] theorem Thread.writeV_fmtb (t : Thread) (i : BitVec 4) (x : Quad) : (t.writeV i x).fmtb = t.fmtb := rfl
@[simp] theorem Thread.writeV_fmts (t : Thread) (i : BitVec 4) (x : Quad) : (t.writeV i x).fmts = t.fmts := rfl
@[simp] theorem Thread.writeV_coefbase (t : Thread) (i : BitVec 4) (x : Quad) : (t.writeV i x).coefbase = t.coefbase := rfl
@[simp] theorem Thread.writeV_trapvec (t : Thread) (i : BitVec 4) (x : Quad) : (t.writeV i x).trapvec = t.trapvec := rfl
@[simp] theorem Thread.writeV_traprec (t : Thread) (i : BitVec 4) (x : Quad) : (t.writeV i x).traprec = t.traprec := rfl
@[simp] theorem Thread.writeV_intrap (t : Thread) (i : BitVec 4) (x : Quad) : (t.writeV i x).intrap = t.intrap := rfl
@[simp] theorem Thread.writeV_due (t : Thread) (i : BitVec 4) (x : Quad) : (t.writeV i x).due = t.due := rfl
@[simp] theorem Thread.writeV_heldTraps (t : Thread) (i : BitVec 4) (x : Quad) : (t.writeV i x).heldTraps = t.heldTraps := rfl
@[simp] theorem Thread.writeV_entering (t : Thread) (i : BitVec 4) (x : Quad) : (t.writeV i x).entering = t.entering := rfl
@[simp] theorem Thread.writeV_ops (t : Thread) (i : BitVec 4) (x : Quad) : (t.writeV i x).ops = t.ops := rfl
@[simp] theorem Thread.writeV_windows (t : Thread) (i : BitVec 4) (x : Quad) : (t.writeV i x).windows = t.windows := rfl
@[simp] theorem Thread.writeV_forfeits (t : Thread) (i : BitVec 4) (x : Quad) : (t.writeV i x).forfeits = t.forfeits := rfl
@[simp] theorem Thread.writeV_ctx (t : Thread) (i : BitVec 4) (x : Quad) : (t.writeV i x).ctx = t.ctx := rfl
@[simp] theorem Thread.writeV_crew (t : Thread) (i : BitVec 4) (x : Quad) : (t.writeV i x).crew = t.crew := rfl
@[simp] theorem Thread.writeV_flask (t : Thread) (i : BitVec 4) (x : Quad) : (t.writeV i x).flask = t.flask := rfl
@[simp] theorem Thread.writeV_index (t : Thread) (i : BitVec 4) (x : Quad) : (t.writeV i x).index = t.index := rfl
@[simp] theorem Thread.writeV_spawned (t : Thread) (i : BitVec 4) (x : Quad) : (t.writeV i x).spawned = t.spawned := rfl
@[simp] theorem Thread.writeV_detached (t : Thread) (i : BitVec 4) (x : Quad) : (t.writeV i x).detached = t.detached := rfl
@[simp] theorem Thread.writeV_scope (t : Thread) (i : BitVec 4) (x : Quad) : (t.writeV i x).scope = t.scope := rfl
@[simp] theorem Thread.writeV_barCrew (t : Thread) (i : BitVec 4) (x : Quad) : (t.writeV i x).barCrew = t.barCrew := rfl
@[simp] theorem Thread.writeV_barFlask (t : Thread) (i : BitVec 4) (x : Quad) : (t.writeV i x).barFlask = t.barFlask := rfl
@[simp] theorem Thread.writeV_group (t : Thread) (i : BitVec 4) (x : Quad) : (t.writeV i x).group = t.group := rfl
@[simp] theorem Thread.writeV_spill (t : Thread) (i : BitVec 4) (x : Quad) : (t.writeV i x).spill = t.spill := rfl
@[simp] theorem Thread.writeV_waitSince (t : Thread) (i : BitVec 4) (x : Quad) : (t.writeV i x).waitSince = t.waitSince := rfl
@[simp] theorem Thread.writeV_faultSince (t : Thread) (i : BitVec 4) (x : Quad) : (t.writeV i x).faultSince = t.faultSince := rfl
@[simp] theorem Thread.writeV_lastIssue (t : Thread) (i : BitVec 4) (x : Quad) : (t.writeV i x).lastIssue = t.lastIssue := rfl
@[simp] theorem Thread.writeV_word (t : Thread) (i : BitVec 4) (x : Quad) : (t.writeV i x).word = t.word := rfl
@[simp] theorem Thread.writeV_after (t : Thread) (i : BitVec 4) (x : Quad) : (t.writeV i x).after = t.after := rfl
@[simp] theorem Thread.writeV_owed (t : Thread) (i : BitVec 4) (x : Quad) : (t.writeV i x).owed = t.owed := rfl
@[simp] theorem Thread.writeV_fetchFrom (t : Thread) (i : BitVec 4) (x : Quad) : (t.writeV i x).fetchFrom = t.fetchFrom := rfl
@[simp] theorem Thread.writeV_idle (t : Thread) (i : BitVec 4) (x : Quad) : (t.writeV i x).idle = t.idle := rfl
@[simp] theorem Thread.writeV_fetchFault (t : Thread) (i : BitVec 4) (x : Quad) : (t.writeV i x).fetchFault = t.fetchFault := rfl

@[simp] theorem Thread.orFlags_pcHalf (t : Thread) (f : BitVec 5) : (t.orFlags f).pcHalf = t.pcHalf := rfl
@[simp] theorem Thread.orFlags_s (t : Thread) (f : BitVec 5) : (t.orFlags f).s = t.s := rfl
@[simp] theorem Thread.orFlags_p (t : Thread) (f : BitVec 5) : (t.orFlags f).p = t.p := rfl
@[simp] theorem Thread.orFlags_e (t : Thread) (f : BitVec 5) : (t.orFlags f).e = t.e := rfl
@[simp] theorem Thread.orFlags_v (t : Thread) (f : BitVec 5) : (t.orFlags f).v = t.v := rfl
@[simp] theorem Thread.orFlags_long (t : Thread) (f : BitVec 5) : (t.orFlags f).long = t.long := rfl
@[simp] theorem Thread.orFlags_inc (t : Thread) (f : BitVec 5) : (t.orFlags f).inc = t.inc := rfl
@[simp] theorem Thread.orFlags_status (t : Thread) (f : BitVec 5) : (t.orFlags f).status = t.status := rfl
@[simp] theorem Thread.orFlags_wake (t : Thread) (f : BitVec 5) : (t.orFlags f).wake = t.wake := rfl
@[simp] theorem Thread.orFlags_wakeRel (t : Thread) (f : BitVec 5) : (t.orFlags f).wakeRel = t.wakeRel := rfl
@[simp] theorem Thread.orFlags_rmode (t : Thread) (f : BitVec 5) : (t.orFlags f).rmode = t.rmode := rfl
@[simp] theorem Thread.orFlags_approx (t : Thread) (f : BitVec 5) : (t.orFlags f).approx = t.approx := rfl
@[simp] theorem Thread.orFlags_div0 (t : Thread) (f : BitVec 5) : (t.orFlags f).div0 = t.div0 := rfl
@[simp] theorem Thread.orFlags_waitlim (t : Thread) (f : BitVec 5) : (t.orFlags f).waitlim = t.waitlim := rfl
@[simp] theorem Thread.orFlags_retrylim (t : Thread) (f : BitVec 5) : (t.orFlags f).retrylim = t.retrylim := rfl
@[simp] theorem Thread.orFlags_prio (t : Thread) (f : BitVec 5) : (t.orFlags f).prio = t.prio := rfl
@[simp] theorem Thread.orFlags_fixed (t : Thread) (f : BitVec 5) : (t.orFlags f).fixed = t.fixed := rfl
@[simp] theorem Thread.orFlags_broken (t : Thread) (f : BitVec 5) : (t.orFlags f).broken = t.broken := rfl
@[simp] theorem Thread.orFlags_inreg (t : Thread) (f : BitVec 5) : (t.orFlags f).inreg = t.inreg := rfl
@[simp] theorem Thread.orFlags_fmta (t : Thread) (f : BitVec 5) : (t.orFlags f).fmta = t.fmta := rfl
@[simp] theorem Thread.orFlags_fmtb (t : Thread) (f : BitVec 5) : (t.orFlags f).fmtb = t.fmtb := rfl
@[simp] theorem Thread.orFlags_fmts (t : Thread) (f : BitVec 5) : (t.orFlags f).fmts = t.fmts := rfl
@[simp] theorem Thread.orFlags_coefbase (t : Thread) (f : BitVec 5) : (t.orFlags f).coefbase = t.coefbase := rfl
@[simp] theorem Thread.orFlags_trapvec (t : Thread) (f : BitVec 5) : (t.orFlags f).trapvec = t.trapvec := rfl
@[simp] theorem Thread.orFlags_traprec (t : Thread) (f : BitVec 5) : (t.orFlags f).traprec = t.traprec := rfl
@[simp] theorem Thread.orFlags_intrap (t : Thread) (f : BitVec 5) : (t.orFlags f).intrap = t.intrap := rfl
@[simp] theorem Thread.orFlags_due (t : Thread) (f : BitVec 5) : (t.orFlags f).due = t.due := rfl
@[simp] theorem Thread.orFlags_heldTraps (t : Thread) (f : BitVec 5) : (t.orFlags f).heldTraps = t.heldTraps := rfl
@[simp] theorem Thread.orFlags_entering (t : Thread) (f : BitVec 5) : (t.orFlags f).entering = t.entering := rfl
@[simp] theorem Thread.orFlags_ops (t : Thread) (f : BitVec 5) : (t.orFlags f).ops = t.ops := rfl
@[simp] theorem Thread.orFlags_windows (t : Thread) (f : BitVec 5) : (t.orFlags f).windows = t.windows := rfl
@[simp] theorem Thread.orFlags_forfeits (t : Thread) (f : BitVec 5) : (t.orFlags f).forfeits = t.forfeits := rfl
@[simp] theorem Thread.orFlags_ctx (t : Thread) (f : BitVec 5) : (t.orFlags f).ctx = t.ctx := rfl
@[simp] theorem Thread.orFlags_crew (t : Thread) (f : BitVec 5) : (t.orFlags f).crew = t.crew := rfl
@[simp] theorem Thread.orFlags_flask (t : Thread) (f : BitVec 5) : (t.orFlags f).flask = t.flask := rfl
@[simp] theorem Thread.orFlags_index (t : Thread) (f : BitVec 5) : (t.orFlags f).index = t.index := rfl
@[simp] theorem Thread.orFlags_spawned (t : Thread) (f : BitVec 5) : (t.orFlags f).spawned = t.spawned := rfl
@[simp] theorem Thread.orFlags_detached (t : Thread) (f : BitVec 5) : (t.orFlags f).detached = t.detached := rfl
@[simp] theorem Thread.orFlags_scope (t : Thread) (f : BitVec 5) : (t.orFlags f).scope = t.scope := rfl
@[simp] theorem Thread.orFlags_barCrew (t : Thread) (f : BitVec 5) : (t.orFlags f).barCrew = t.barCrew := rfl
@[simp] theorem Thread.orFlags_barFlask (t : Thread) (f : BitVec 5) : (t.orFlags f).barFlask = t.barFlask := rfl
@[simp] theorem Thread.orFlags_group (t : Thread) (f : BitVec 5) : (t.orFlags f).group = t.group := rfl
@[simp] theorem Thread.orFlags_spill (t : Thread) (f : BitVec 5) : (t.orFlags f).spill = t.spill := rfl
@[simp] theorem Thread.orFlags_waitSince (t : Thread) (f : BitVec 5) : (t.orFlags f).waitSince = t.waitSince := rfl
@[simp] theorem Thread.orFlags_faultSince (t : Thread) (f : BitVec 5) : (t.orFlags f).faultSince = t.faultSince := rfl
@[simp] theorem Thread.orFlags_lastIssue (t : Thread) (f : BitVec 5) : (t.orFlags f).lastIssue = t.lastIssue := rfl
@[simp] theorem Thread.orFlags_word (t : Thread) (f : BitVec 5) : (t.orFlags f).word = t.word := rfl
@[simp] theorem Thread.orFlags_after (t : Thread) (f : BitVec 5) : (t.orFlags f).after = t.after := rfl
@[simp] theorem Thread.orFlags_owed (t : Thread) (f : BitVec 5) : (t.orFlags f).owed = t.owed := rfl
@[simp] theorem Thread.orFlags_fetchFrom (t : Thread) (f : BitVec 5) : (t.orFlags f).fetchFrom = t.fetchFrom := rfl
@[simp] theorem Thread.orFlags_idle (t : Thread) (f : BitVec 5) : (t.orFlags f).idle = t.idle := rfl
@[simp] theorem Thread.orFlags_fetchFault (t : Thread) (f : BitVec 5) : (t.orFlags f).fetchFault = t.fetchFault := rfl

@[simp] theorem Thread.setPc_s (t : Thread) (x : Word) : (t.setPc x).s = t.s := rfl
@[simp] theorem Thread.setPc_p (t : Thread) (x : Word) : (t.setPc x).p = t.p := rfl
@[simp] theorem Thread.setPc_e (t : Thread) (x : Word) : (t.setPc x).e = t.e := rfl
@[simp] theorem Thread.setPc_v (t : Thread) (x : Word) : (t.setPc x).v = t.v := rfl
@[simp] theorem Thread.setPc_long (t : Thread) (x : Word) : (t.setPc x).long = t.long := rfl
@[simp] theorem Thread.setPc_inc (t : Thread) (x : Word) : (t.setPc x).inc = t.inc := rfl
@[simp] theorem Thread.setPc_status (t : Thread) (x : Word) : (t.setPc x).status = t.status := rfl
@[simp] theorem Thread.setPc_wake (t : Thread) (x : Word) : (t.setPc x).wake = t.wake := rfl
@[simp] theorem Thread.setPc_wakeRel (t : Thread) (x : Word) : (t.setPc x).wakeRel = t.wakeRel := rfl
@[simp] theorem Thread.setPc_flags (t : Thread) (x : Word) : (t.setPc x).flags = t.flags := rfl
@[simp] theorem Thread.setPc_rmode (t : Thread) (x : Word) : (t.setPc x).rmode = t.rmode := rfl
@[simp] theorem Thread.setPc_approx (t : Thread) (x : Word) : (t.setPc x).approx = t.approx := rfl
@[simp] theorem Thread.setPc_div0 (t : Thread) (x : Word) : (t.setPc x).div0 = t.div0 := rfl
@[simp] theorem Thread.setPc_waitlim (t : Thread) (x : Word) : (t.setPc x).waitlim = t.waitlim := rfl
@[simp] theorem Thread.setPc_retrylim (t : Thread) (x : Word) : (t.setPc x).retrylim = t.retrylim := rfl
@[simp] theorem Thread.setPc_prio (t : Thread) (x : Word) : (t.setPc x).prio = t.prio := rfl
@[simp] theorem Thread.setPc_fixed (t : Thread) (x : Word) : (t.setPc x).fixed = t.fixed := rfl
@[simp] theorem Thread.setPc_broken (t : Thread) (x : Word) : (t.setPc x).broken = t.broken := rfl
@[simp] theorem Thread.setPc_inreg (t : Thread) (x : Word) : (t.setPc x).inreg = t.inreg := rfl
@[simp] theorem Thread.setPc_fmta (t : Thread) (x : Word) : (t.setPc x).fmta = t.fmta := rfl
@[simp] theorem Thread.setPc_fmtb (t : Thread) (x : Word) : (t.setPc x).fmtb = t.fmtb := rfl
@[simp] theorem Thread.setPc_fmts (t : Thread) (x : Word) : (t.setPc x).fmts = t.fmts := rfl
@[simp] theorem Thread.setPc_coefbase (t : Thread) (x : Word) : (t.setPc x).coefbase = t.coefbase := rfl
@[simp] theorem Thread.setPc_trapvec (t : Thread) (x : Word) : (t.setPc x).trapvec = t.trapvec := rfl
@[simp] theorem Thread.setPc_traprec (t : Thread) (x : Word) : (t.setPc x).traprec = t.traprec := rfl
@[simp] theorem Thread.setPc_intrap (t : Thread) (x : Word) : (t.setPc x).intrap = t.intrap := rfl
@[simp] theorem Thread.setPc_due (t : Thread) (x : Word) : (t.setPc x).due = t.due := rfl
@[simp] theorem Thread.setPc_heldTraps (t : Thread) (x : Word) : (t.setPc x).heldTraps = t.heldTraps := rfl
@[simp] theorem Thread.setPc_entering (t : Thread) (x : Word) : (t.setPc x).entering = t.entering := rfl
@[simp] theorem Thread.setPc_ops (t : Thread) (x : Word) : (t.setPc x).ops = t.ops := rfl
@[simp] theorem Thread.setPc_windows (t : Thread) (x : Word) : (t.setPc x).windows = t.windows := rfl
@[simp] theorem Thread.setPc_forfeits (t : Thread) (x : Word) : (t.setPc x).forfeits = t.forfeits := rfl
@[simp] theorem Thread.setPc_ctx (t : Thread) (x : Word) : (t.setPc x).ctx = t.ctx := rfl
@[simp] theorem Thread.setPc_crew (t : Thread) (x : Word) : (t.setPc x).crew = t.crew := rfl
@[simp] theorem Thread.setPc_flask (t : Thread) (x : Word) : (t.setPc x).flask = t.flask := rfl
@[simp] theorem Thread.setPc_index (t : Thread) (x : Word) : (t.setPc x).index = t.index := rfl
@[simp] theorem Thread.setPc_spawned (t : Thread) (x : Word) : (t.setPc x).spawned = t.spawned := rfl
@[simp] theorem Thread.setPc_detached (t : Thread) (x : Word) : (t.setPc x).detached = t.detached := rfl
@[simp] theorem Thread.setPc_scope (t : Thread) (x : Word) : (t.setPc x).scope = t.scope := rfl
@[simp] theorem Thread.setPc_barCrew (t : Thread) (x : Word) : (t.setPc x).barCrew = t.barCrew := rfl
@[simp] theorem Thread.setPc_barFlask (t : Thread) (x : Word) : (t.setPc x).barFlask = t.barFlask := rfl
@[simp] theorem Thread.setPc_group (t : Thread) (x : Word) : (t.setPc x).group = t.group := rfl
@[simp] theorem Thread.setPc_spill (t : Thread) (x : Word) : (t.setPc x).spill = t.spill := rfl
@[simp] theorem Thread.setPc_waitSince (t : Thread) (x : Word) : (t.setPc x).waitSince = t.waitSince := rfl
@[simp] theorem Thread.setPc_faultSince (t : Thread) (x : Word) : (t.setPc x).faultSince = t.faultSince := rfl
@[simp] theorem Thread.setPc_lastIssue (t : Thread) (x : Word) : (t.setPc x).lastIssue = t.lastIssue := rfl
@[simp] theorem Thread.setPc_word (t : Thread) (x : Word) : (t.setPc x).word = t.word := rfl
@[simp] theorem Thread.setPc_after (t : Thread) (x : Word) : (t.setPc x).after = t.after := rfl
@[simp] theorem Thread.setPc_owed (t : Thread) (x : Word) : (t.setPc x).owed = t.owed := rfl
@[simp] theorem Thread.setPc_fetchFrom (t : Thread) (x : Word) : (t.setPc x).fetchFrom = t.fetchFrom := rfl
@[simp] theorem Thread.setPc_idle (t : Thread) (x : Word) : (t.setPc x).idle = t.idle := rfl
@[simp] theorem Thread.setPc_fetchFault (t : Thread) (x : Word) : (t.setPc x).fetchFault = t.fetchFault := rfl

@[simp] theorem Thread.setPredWord_pcHalf (t : Thread) (x : BitVec 16) : (t.setPredWord x).pcHalf = t.pcHalf := rfl
@[simp] theorem Thread.setPredWord_s (t : Thread) (x : BitVec 16) : (t.setPredWord x).s = t.s := rfl
@[simp] theorem Thread.setPredWord_e (t : Thread) (x : BitVec 16) : (t.setPredWord x).e = t.e := rfl
@[simp] theorem Thread.setPredWord_v (t : Thread) (x : BitVec 16) : (t.setPredWord x).v = t.v := rfl
@[simp] theorem Thread.setPredWord_long (t : Thread) (x : BitVec 16) : (t.setPredWord x).long = t.long := rfl
@[simp] theorem Thread.setPredWord_inc (t : Thread) (x : BitVec 16) : (t.setPredWord x).inc = t.inc := rfl
@[simp] theorem Thread.setPredWord_status (t : Thread) (x : BitVec 16) : (t.setPredWord x).status = t.status := rfl
@[simp] theorem Thread.setPredWord_wake (t : Thread) (x : BitVec 16) : (t.setPredWord x).wake = t.wake := rfl
@[simp] theorem Thread.setPredWord_wakeRel (t : Thread) (x : BitVec 16) : (t.setPredWord x).wakeRel = t.wakeRel := rfl
@[simp] theorem Thread.setPredWord_flags (t : Thread) (x : BitVec 16) : (t.setPredWord x).flags = t.flags := rfl
@[simp] theorem Thread.setPredWord_rmode (t : Thread) (x : BitVec 16) : (t.setPredWord x).rmode = t.rmode := rfl
@[simp] theorem Thread.setPredWord_approx (t : Thread) (x : BitVec 16) : (t.setPredWord x).approx = t.approx := rfl
@[simp] theorem Thread.setPredWord_div0 (t : Thread) (x : BitVec 16) : (t.setPredWord x).div0 = t.div0 := rfl
@[simp] theorem Thread.setPredWord_waitlim (t : Thread) (x : BitVec 16) : (t.setPredWord x).waitlim = t.waitlim := rfl
@[simp] theorem Thread.setPredWord_retrylim (t : Thread) (x : BitVec 16) : (t.setPredWord x).retrylim = t.retrylim := rfl
@[simp] theorem Thread.setPredWord_prio (t : Thread) (x : BitVec 16) : (t.setPredWord x).prio = t.prio := rfl
@[simp] theorem Thread.setPredWord_fixed (t : Thread) (x : BitVec 16) : (t.setPredWord x).fixed = t.fixed := rfl
@[simp] theorem Thread.setPredWord_broken (t : Thread) (x : BitVec 16) : (t.setPredWord x).broken = t.broken := rfl
@[simp] theorem Thread.setPredWord_inreg (t : Thread) (x : BitVec 16) : (t.setPredWord x).inreg = t.inreg := rfl
@[simp] theorem Thread.setPredWord_fmta (t : Thread) (x : BitVec 16) : (t.setPredWord x).fmta = t.fmta := rfl
@[simp] theorem Thread.setPredWord_fmtb (t : Thread) (x : BitVec 16) : (t.setPredWord x).fmtb = t.fmtb := rfl
@[simp] theorem Thread.setPredWord_fmts (t : Thread) (x : BitVec 16) : (t.setPredWord x).fmts = t.fmts := rfl
@[simp] theorem Thread.setPredWord_coefbase (t : Thread) (x : BitVec 16) : (t.setPredWord x).coefbase = t.coefbase := rfl
@[simp] theorem Thread.setPredWord_trapvec (t : Thread) (x : BitVec 16) : (t.setPredWord x).trapvec = t.trapvec := rfl
@[simp] theorem Thread.setPredWord_traprec (t : Thread) (x : BitVec 16) : (t.setPredWord x).traprec = t.traprec := rfl
@[simp] theorem Thread.setPredWord_intrap (t : Thread) (x : BitVec 16) : (t.setPredWord x).intrap = t.intrap := rfl
@[simp] theorem Thread.setPredWord_due (t : Thread) (x : BitVec 16) : (t.setPredWord x).due = t.due := rfl
@[simp] theorem Thread.setPredWord_heldTraps (t : Thread) (x : BitVec 16) : (t.setPredWord x).heldTraps = t.heldTraps := rfl
@[simp] theorem Thread.setPredWord_entering (t : Thread) (x : BitVec 16) : (t.setPredWord x).entering = t.entering := rfl
@[simp] theorem Thread.setPredWord_ops (t : Thread) (x : BitVec 16) : (t.setPredWord x).ops = t.ops := rfl
@[simp] theorem Thread.setPredWord_windows (t : Thread) (x : BitVec 16) : (t.setPredWord x).windows = t.windows := rfl
@[simp] theorem Thread.setPredWord_forfeits (t : Thread) (x : BitVec 16) : (t.setPredWord x).forfeits = t.forfeits := rfl
@[simp] theorem Thread.setPredWord_ctx (t : Thread) (x : BitVec 16) : (t.setPredWord x).ctx = t.ctx := rfl
@[simp] theorem Thread.setPredWord_crew (t : Thread) (x : BitVec 16) : (t.setPredWord x).crew = t.crew := rfl
@[simp] theorem Thread.setPredWord_flask (t : Thread) (x : BitVec 16) : (t.setPredWord x).flask = t.flask := rfl
@[simp] theorem Thread.setPredWord_index (t : Thread) (x : BitVec 16) : (t.setPredWord x).index = t.index := rfl
@[simp] theorem Thread.setPredWord_spawned (t : Thread) (x : BitVec 16) : (t.setPredWord x).spawned = t.spawned := rfl
@[simp] theorem Thread.setPredWord_detached (t : Thread) (x : BitVec 16) : (t.setPredWord x).detached = t.detached := rfl
@[simp] theorem Thread.setPredWord_scope (t : Thread) (x : BitVec 16) : (t.setPredWord x).scope = t.scope := rfl
@[simp] theorem Thread.setPredWord_barCrew (t : Thread) (x : BitVec 16) : (t.setPredWord x).barCrew = t.barCrew := rfl
@[simp] theorem Thread.setPredWord_barFlask (t : Thread) (x : BitVec 16) : (t.setPredWord x).barFlask = t.barFlask := rfl
@[simp] theorem Thread.setPredWord_group (t : Thread) (x : BitVec 16) : (t.setPredWord x).group = t.group := rfl
@[simp] theorem Thread.setPredWord_spill (t : Thread) (x : BitVec 16) : (t.setPredWord x).spill = t.spill := rfl
@[simp] theorem Thread.setPredWord_waitSince (t : Thread) (x : BitVec 16) : (t.setPredWord x).waitSince = t.waitSince := rfl
@[simp] theorem Thread.setPredWord_faultSince (t : Thread) (x : BitVec 16) : (t.setPredWord x).faultSince = t.faultSince := rfl
@[simp] theorem Thread.setPredWord_lastIssue (t : Thread) (x : BitVec 16) : (t.setPredWord x).lastIssue = t.lastIssue := rfl
@[simp] theorem Thread.setPredWord_word (t : Thread) (x : BitVec 16) : (t.setPredWord x).word = t.word := rfl
@[simp] theorem Thread.setPredWord_after (t : Thread) (x : BitVec 16) : (t.setPredWord x).after = t.after := rfl
@[simp] theorem Thread.setPredWord_owed (t : Thread) (x : BitVec 16) : (t.setPredWord x).owed = t.owed := rfl
@[simp] theorem Thread.setPredWord_fetchFrom (t : Thread) (x : BitVec 16) : (t.setPredWord x).fetchFrom = t.fetchFrom := rfl
@[simp] theorem Thread.setPredWord_idle (t : Thread) (x : BitVec 16) : (t.setPredWord x).idle = t.idle := rfl
@[simp] theorem Thread.setPredWord_fetchFault (t : Thread) (x : BitVec 16) : (t.setPredWord x).fetchFault = t.fetchFault := rfl

@[simp] theorem Thread.ticked_pcHalf (t : Thread)  : (t.ticked).pcHalf = t.pcHalf := rfl
@[simp] theorem Thread.ticked_s (t : Thread)  : (t.ticked).s = t.s := rfl
@[simp] theorem Thread.ticked_p (t : Thread)  : (t.ticked).p = t.p := rfl
@[simp] theorem Thread.ticked_e (t : Thread)  : (t.ticked).e = t.e := rfl
@[simp] theorem Thread.ticked_v (t : Thread)  : (t.ticked).v = t.v := rfl
@[simp] theorem Thread.ticked_long (t : Thread)  : (t.ticked).long = t.long := rfl
@[simp] theorem Thread.ticked_inc (t : Thread)  : (t.ticked).inc = t.inc := rfl
@[simp] theorem Thread.ticked_status (t : Thread)  : (t.ticked).status = t.status := rfl
@[simp] theorem Thread.ticked_wake (t : Thread)  : (t.ticked).wake = t.wake := rfl
@[simp] theorem Thread.ticked_wakeRel (t : Thread)  : (t.ticked).wakeRel = t.wakeRel := rfl
@[simp] theorem Thread.ticked_flags (t : Thread)  : (t.ticked).flags = t.flags := rfl
@[simp] theorem Thread.ticked_rmode (t : Thread)  : (t.ticked).rmode = t.rmode := rfl
@[simp] theorem Thread.ticked_approx (t : Thread)  : (t.ticked).approx = t.approx := rfl
@[simp] theorem Thread.ticked_div0 (t : Thread)  : (t.ticked).div0 = t.div0 := rfl
@[simp] theorem Thread.ticked_waitlim (t : Thread)  : (t.ticked).waitlim = t.waitlim := rfl
@[simp] theorem Thread.ticked_retrylim (t : Thread)  : (t.ticked).retrylim = t.retrylim := rfl
@[simp] theorem Thread.ticked_prio (t : Thread)  : (t.ticked).prio = t.prio := rfl
@[simp] theorem Thread.ticked_fixed (t : Thread)  : (t.ticked).fixed = t.fixed := rfl
@[simp] theorem Thread.ticked_broken (t : Thread)  : (t.ticked).broken = t.broken := rfl
@[simp] theorem Thread.ticked_inreg (t : Thread)  : (t.ticked).inreg = t.inreg := rfl
@[simp] theorem Thread.ticked_fmta (t : Thread)  : (t.ticked).fmta = t.fmta := rfl
@[simp] theorem Thread.ticked_fmtb (t : Thread)  : (t.ticked).fmtb = t.fmtb := rfl
@[simp] theorem Thread.ticked_fmts (t : Thread)  : (t.ticked).fmts = t.fmts := rfl
@[simp] theorem Thread.ticked_coefbase (t : Thread)  : (t.ticked).coefbase = t.coefbase := rfl
@[simp] theorem Thread.ticked_trapvec (t : Thread)  : (t.ticked).trapvec = t.trapvec := rfl
@[simp] theorem Thread.ticked_traprec (t : Thread)  : (t.ticked).traprec = t.traprec := rfl
@[simp] theorem Thread.ticked_intrap (t : Thread)  : (t.ticked).intrap = t.intrap := rfl
@[simp] theorem Thread.ticked_due (t : Thread)  : (t.ticked).due = t.due := rfl
@[simp] theorem Thread.ticked_heldTraps (t : Thread)  : (t.ticked).heldTraps = t.heldTraps := rfl
@[simp] theorem Thread.ticked_entering (t : Thread)  : (t.ticked).entering = t.entering := rfl
@[simp] theorem Thread.ticked_forfeits (t : Thread)  : (t.ticked).forfeits = t.forfeits := rfl
@[simp] theorem Thread.ticked_ctx (t : Thread)  : (t.ticked).ctx = t.ctx := rfl
@[simp] theorem Thread.ticked_crew (t : Thread)  : (t.ticked).crew = t.crew := rfl
@[simp] theorem Thread.ticked_flask (t : Thread)  : (t.ticked).flask = t.flask := rfl
@[simp] theorem Thread.ticked_index (t : Thread)  : (t.ticked).index = t.index := rfl
@[simp] theorem Thread.ticked_spawned (t : Thread)  : (t.ticked).spawned = t.spawned := rfl
@[simp] theorem Thread.ticked_detached (t : Thread)  : (t.ticked).detached = t.detached := rfl
@[simp] theorem Thread.ticked_scope (t : Thread)  : (t.ticked).scope = t.scope := rfl
@[simp] theorem Thread.ticked_barCrew (t : Thread)  : (t.ticked).barCrew = t.barCrew := rfl
@[simp] theorem Thread.ticked_barFlask (t : Thread)  : (t.ticked).barFlask = t.barFlask := rfl
@[simp] theorem Thread.ticked_group (t : Thread)  : (t.ticked).group = t.group := rfl
@[simp] theorem Thread.ticked_spill (t : Thread)  : (t.ticked).spill = t.spill := rfl
@[simp] theorem Thread.ticked_waitSince (t : Thread)  : (t.ticked).waitSince = t.waitSince := rfl
@[simp] theorem Thread.ticked_faultSince (t : Thread)  : (t.ticked).faultSince = t.faultSince := rfl
@[simp] theorem Thread.ticked_lastIssue (t : Thread)  : (t.ticked).lastIssue = t.lastIssue := rfl
@[simp] theorem Thread.ticked_word (t : Thread)  : (t.ticked).word = t.word := rfl
@[simp] theorem Thread.ticked_after (t : Thread)  : (t.ticked).after = t.after := rfl
@[simp] theorem Thread.ticked_owed (t : Thread)  : (t.ticked).owed = t.owed := rfl
@[simp] theorem Thread.ticked_fetchFrom (t : Thread)  : (t.ticked).fetchFrom = t.fetchFrom := rfl
@[simp] theorem Thread.ticked_idle (t : Thread)  : (t.ticked).idle = t.idle := rfl
@[simp] theorem Thread.ticked_fetchFault (t : Thread)  : (t.ticked).fetchFault = t.fetchFault := rfl

@[simp] theorem Thread.unticked_pcHalf (t : Thread)  : (t.unticked).pcHalf = t.pcHalf := rfl
@[simp] theorem Thread.unticked_s (t : Thread)  : (t.unticked).s = t.s := rfl
@[simp] theorem Thread.unticked_p (t : Thread)  : (t.unticked).p = t.p := rfl
@[simp] theorem Thread.unticked_e (t : Thread)  : (t.unticked).e = t.e := rfl
@[simp] theorem Thread.unticked_v (t : Thread)  : (t.unticked).v = t.v := rfl
@[simp] theorem Thread.unticked_long (t : Thread)  : (t.unticked).long = t.long := rfl
@[simp] theorem Thread.unticked_inc (t : Thread)  : (t.unticked).inc = t.inc := rfl
@[simp] theorem Thread.unticked_status (t : Thread)  : (t.unticked).status = t.status := rfl
@[simp] theorem Thread.unticked_wake (t : Thread)  : (t.unticked).wake = t.wake := rfl
@[simp] theorem Thread.unticked_wakeRel (t : Thread)  : (t.unticked).wakeRel = t.wakeRel := rfl
@[simp] theorem Thread.unticked_flags (t : Thread)  : (t.unticked).flags = t.flags := rfl
@[simp] theorem Thread.unticked_rmode (t : Thread)  : (t.unticked).rmode = t.rmode := rfl
@[simp] theorem Thread.unticked_approx (t : Thread)  : (t.unticked).approx = t.approx := rfl
@[simp] theorem Thread.unticked_div0 (t : Thread)  : (t.unticked).div0 = t.div0 := rfl
@[simp] theorem Thread.unticked_waitlim (t : Thread)  : (t.unticked).waitlim = t.waitlim := rfl
@[simp] theorem Thread.unticked_retrylim (t : Thread)  : (t.unticked).retrylim = t.retrylim := rfl
@[simp] theorem Thread.unticked_prio (t : Thread)  : (t.unticked).prio = t.prio := rfl
@[simp] theorem Thread.unticked_fixed (t : Thread)  : (t.unticked).fixed = t.fixed := rfl
@[simp] theorem Thread.unticked_broken (t : Thread)  : (t.unticked).broken = t.broken := rfl
@[simp] theorem Thread.unticked_inreg (t : Thread)  : (t.unticked).inreg = t.inreg := rfl
@[simp] theorem Thread.unticked_fmta (t : Thread)  : (t.unticked).fmta = t.fmta := rfl
@[simp] theorem Thread.unticked_fmtb (t : Thread)  : (t.unticked).fmtb = t.fmtb := rfl
@[simp] theorem Thread.unticked_fmts (t : Thread)  : (t.unticked).fmts = t.fmts := rfl
@[simp] theorem Thread.unticked_coefbase (t : Thread)  : (t.unticked).coefbase = t.coefbase := rfl
@[simp] theorem Thread.unticked_trapvec (t : Thread)  : (t.unticked).trapvec = t.trapvec := rfl
@[simp] theorem Thread.unticked_traprec (t : Thread)  : (t.unticked).traprec = t.traprec := rfl
@[simp] theorem Thread.unticked_intrap (t : Thread)  : (t.unticked).intrap = t.intrap := rfl
@[simp] theorem Thread.unticked_due (t : Thread)  : (t.unticked).due = t.due := rfl
@[simp] theorem Thread.unticked_heldTraps (t : Thread)  : (t.unticked).heldTraps = t.heldTraps := rfl
@[simp] theorem Thread.unticked_entering (t : Thread)  : (t.unticked).entering = t.entering := rfl
@[simp] theorem Thread.unticked_forfeits (t : Thread)  : (t.unticked).forfeits = t.forfeits := rfl
@[simp] theorem Thread.unticked_ctx (t : Thread)  : (t.unticked).ctx = t.ctx := rfl
@[simp] theorem Thread.unticked_crew (t : Thread)  : (t.unticked).crew = t.crew := rfl
@[simp] theorem Thread.unticked_flask (t : Thread)  : (t.unticked).flask = t.flask := rfl
@[simp] theorem Thread.unticked_index (t : Thread)  : (t.unticked).index = t.index := rfl
@[simp] theorem Thread.unticked_spawned (t : Thread)  : (t.unticked).spawned = t.spawned := rfl
@[simp] theorem Thread.unticked_detached (t : Thread)  : (t.unticked).detached = t.detached := rfl
@[simp] theorem Thread.unticked_scope (t : Thread)  : (t.unticked).scope = t.scope := rfl
@[simp] theorem Thread.unticked_barCrew (t : Thread)  : (t.unticked).barCrew = t.barCrew := rfl
@[simp] theorem Thread.unticked_barFlask (t : Thread)  : (t.unticked).barFlask = t.barFlask := rfl
@[simp] theorem Thread.unticked_group (t : Thread)  : (t.unticked).group = t.group := rfl
@[simp] theorem Thread.unticked_spill (t : Thread)  : (t.unticked).spill = t.spill := rfl
@[simp] theorem Thread.unticked_waitSince (t : Thread)  : (t.unticked).waitSince = t.waitSince := rfl
@[simp] theorem Thread.unticked_faultSince (t : Thread)  : (t.unticked).faultSince = t.faultSince := rfl
@[simp] theorem Thread.unticked_lastIssue (t : Thread)  : (t.unticked).lastIssue = t.lastIssue := rfl
@[simp] theorem Thread.unticked_word (t : Thread)  : (t.unticked).word = t.word := rfl
@[simp] theorem Thread.unticked_after (t : Thread)  : (t.unticked).after = t.after := rfl
@[simp] theorem Thread.unticked_owed (t : Thread)  : (t.unticked).owed = t.owed := rfl
@[simp] theorem Thread.unticked_fetchFrom (t : Thread)  : (t.unticked).fetchFrom = t.fetchFrom := rfl
@[simp] theorem Thread.unticked_idle (t : Thread)  : (t.unticked).idle = t.idle := rfl
@[simp] theorem Thread.unticked_fetchFault (t : Thread)  : (t.unticked).fetchFault = t.fetchFault := rfl
@[simp] theorem Thread.unticked_ops (t : Thread)  : (t.unticked).ops = t.ops := rfl

@[simp] theorem Thread.advance_s (t : Thread) (n c : Nat) : (t.advance n c).s = t.s := rfl
@[simp] theorem Thread.advance_p (t : Thread) (n c : Nat) : (t.advance n c).p = t.p := rfl
@[simp] theorem Thread.advance_e (t : Thread) (n c : Nat) : (t.advance n c).e = t.e := rfl
@[simp] theorem Thread.advance_v (t : Thread) (n c : Nat) : (t.advance n c).v = t.v := rfl
@[simp] theorem Thread.advance_long (t : Thread) (n c : Nat) : (t.advance n c).long = t.long := rfl
@[simp] theorem Thread.advance_inc (t : Thread) (n c : Nat) : (t.advance n c).inc = t.inc := rfl
@[simp] theorem Thread.advance_status (t : Thread) (n c : Nat) : (t.advance n c).status = t.status := rfl
@[simp] theorem Thread.advance_wake (t : Thread) (n c : Nat) : (t.advance n c).wake = t.wake := rfl
@[simp] theorem Thread.advance_wakeRel (t : Thread) (n c : Nat) : (t.advance n c).wakeRel = t.wakeRel := rfl
@[simp] theorem Thread.advance_flags (t : Thread) (n c : Nat) : (t.advance n c).flags = t.flags := rfl
@[simp] theorem Thread.advance_rmode (t : Thread) (n c : Nat) : (t.advance n c).rmode = t.rmode := rfl
@[simp] theorem Thread.advance_approx (t : Thread) (n c : Nat) : (t.advance n c).approx = t.approx := rfl
@[simp] theorem Thread.advance_div0 (t : Thread) (n c : Nat) : (t.advance n c).div0 = t.div0 := rfl
@[simp] theorem Thread.advance_waitlim (t : Thread) (n c : Nat) : (t.advance n c).waitlim = t.waitlim := rfl
@[simp] theorem Thread.advance_retrylim (t : Thread) (n c : Nat) : (t.advance n c).retrylim = t.retrylim := rfl
@[simp] theorem Thread.advance_prio (t : Thread) (n c : Nat) : (t.advance n c).prio = t.prio := rfl
@[simp] theorem Thread.advance_fixed (t : Thread) (n c : Nat) : (t.advance n c).fixed = t.fixed := rfl
@[simp] theorem Thread.advance_broken (t : Thread) (n c : Nat) : (t.advance n c).broken = t.broken := rfl
@[simp] theorem Thread.advance_inreg (t : Thread) (n c : Nat) : (t.advance n c).inreg = t.inreg := rfl
@[simp] theorem Thread.advance_fmta (t : Thread) (n c : Nat) : (t.advance n c).fmta = t.fmta := rfl
@[simp] theorem Thread.advance_fmtb (t : Thread) (n c : Nat) : (t.advance n c).fmtb = t.fmtb := rfl
@[simp] theorem Thread.advance_fmts (t : Thread) (n c : Nat) : (t.advance n c).fmts = t.fmts := rfl
@[simp] theorem Thread.advance_coefbase (t : Thread) (n c : Nat) : (t.advance n c).coefbase = t.coefbase := rfl
@[simp] theorem Thread.advance_trapvec (t : Thread) (n c : Nat) : (t.advance n c).trapvec = t.trapvec := rfl
@[simp] theorem Thread.advance_traprec (t : Thread) (n c : Nat) : (t.advance n c).traprec = t.traprec := rfl
@[simp] theorem Thread.advance_intrap (t : Thread) (n c : Nat) : (t.advance n c).intrap = t.intrap := rfl
@[simp] theorem Thread.advance_due (t : Thread) (n c : Nat) : (t.advance n c).due = t.due := rfl
@[simp] theorem Thread.advance_heldTraps (t : Thread) (n c : Nat) : (t.advance n c).heldTraps = t.heldTraps := rfl
@[simp] theorem Thread.advance_entering (t : Thread) (n c : Nat) : (t.advance n c).entering = t.entering := rfl
@[simp] theorem Thread.advance_ops (t : Thread) (n c : Nat) : (t.advance n c).ops = t.ops := rfl
@[simp] theorem Thread.advance_windows (t : Thread) (n c : Nat) : (t.advance n c).windows = t.windows := rfl
@[simp] theorem Thread.advance_forfeits (t : Thread) (n c : Nat) : (t.advance n c).forfeits = t.forfeits := rfl
@[simp] theorem Thread.advance_ctx (t : Thread) (n c : Nat) : (t.advance n c).ctx = t.ctx := rfl
@[simp] theorem Thread.advance_crew (t : Thread) (n c : Nat) : (t.advance n c).crew = t.crew := rfl
@[simp] theorem Thread.advance_flask (t : Thread) (n c : Nat) : (t.advance n c).flask = t.flask := rfl
@[simp] theorem Thread.advance_index (t : Thread) (n c : Nat) : (t.advance n c).index = t.index := rfl
@[simp] theorem Thread.advance_spawned (t : Thread) (n c : Nat) : (t.advance n c).spawned = t.spawned := rfl
@[simp] theorem Thread.advance_detached (t : Thread) (n c : Nat) : (t.advance n c).detached = t.detached := rfl
@[simp] theorem Thread.advance_scope (t : Thread) (n c : Nat) : (t.advance n c).scope = t.scope := rfl
@[simp] theorem Thread.advance_barCrew (t : Thread) (n c : Nat) : (t.advance n c).barCrew = t.barCrew := rfl
@[simp] theorem Thread.advance_barFlask (t : Thread) (n c : Nat) : (t.advance n c).barFlask = t.barFlask := rfl
@[simp] theorem Thread.advance_group (t : Thread) (n c : Nat) : (t.advance n c).group = t.group := rfl
@[simp] theorem Thread.advance_spill (t : Thread) (n c : Nat) : (t.advance n c).spill = t.spill := rfl
@[simp] theorem Thread.advance_word (t : Thread) (n c : Nat) : (t.advance n c).word = t.word := rfl
@[simp] theorem Thread.advance_after (t : Thread) (n c : Nat) : (t.advance n c).after = t.after := rfl
@[simp] theorem Thread.advance_owed (t : Thread) (n c : Nat) : (t.advance n c).owed = t.owed := rfl
@[simp] theorem Thread.advance_fetchFrom (t : Thread) (n c : Nat) : (t.advance n c).fetchFrom = t.fetchFrom := rfl
@[simp] theorem Thread.advance_idle (t : Thread) (n c : Nat) : (t.advance n c).idle = t.idle := rfl
@[simp] theorem Thread.advance_fetchFault (t : Thread) (n c : Nat) : (t.advance n c).fetchFault = t.fetchFault := rfl

@[simp] theorem Thread.issuing_pcHalf (t : Thread) (s : State) : (t.issuing s).pcHalf = t.pcHalf := rfl
@[simp] theorem Thread.issuing_s (t : Thread) (s : State) : (t.issuing s).s = t.s := rfl
@[simp] theorem Thread.issuing_p (t : Thread) (s : State) : (t.issuing s).p = t.p := rfl
@[simp] theorem Thread.issuing_e (t : Thread) (s : State) : (t.issuing s).e = t.e := rfl
@[simp] theorem Thread.issuing_v (t : Thread) (s : State) : (t.issuing s).v = t.v := rfl
@[simp] theorem Thread.issuing_long (t : Thread) (s : State) : (t.issuing s).long = t.long := rfl
@[simp] theorem Thread.issuing_inc (t : Thread) (s : State) : (t.issuing s).inc = t.inc := rfl
@[simp] theorem Thread.issuing_status (t : Thread) (s : State) : (t.issuing s).status = t.status := rfl
@[simp] theorem Thread.issuing_wake (t : Thread) (s : State) : (t.issuing s).wake = t.wake := rfl
@[simp] theorem Thread.issuing_wakeRel (t : Thread) (s : State) : (t.issuing s).wakeRel = t.wakeRel := rfl
@[simp] theorem Thread.issuing_flags (t : Thread) (s : State) : (t.issuing s).flags = t.flags := rfl
@[simp] theorem Thread.issuing_rmode (t : Thread) (s : State) : (t.issuing s).rmode = t.rmode := rfl
@[simp] theorem Thread.issuing_approx (t : Thread) (s : State) : (t.issuing s).approx = t.approx := rfl
@[simp] theorem Thread.issuing_div0 (t : Thread) (s : State) : (t.issuing s).div0 = t.div0 := rfl
@[simp] theorem Thread.issuing_waitlim (t : Thread) (s : State) : (t.issuing s).waitlim = t.waitlim := rfl
@[simp] theorem Thread.issuing_retrylim (t : Thread) (s : State) : (t.issuing s).retrylim = t.retrylim := rfl
@[simp] theorem Thread.issuing_prio (t : Thread) (s : State) : (t.issuing s).prio = t.prio := rfl
@[simp] theorem Thread.issuing_fixed (t : Thread) (s : State) : (t.issuing s).fixed = t.fixed := rfl
@[simp] theorem Thread.issuing_broken (t : Thread) (s : State) : (t.issuing s).broken = t.broken := rfl
@[simp] theorem Thread.issuing_inreg (t : Thread) (s : State) : (t.issuing s).inreg = t.inreg := rfl
@[simp] theorem Thread.issuing_fmta (t : Thread) (s : State) : (t.issuing s).fmta = t.fmta := rfl
@[simp] theorem Thread.issuing_fmtb (t : Thread) (s : State) : (t.issuing s).fmtb = t.fmtb := rfl
@[simp] theorem Thread.issuing_fmts (t : Thread) (s : State) : (t.issuing s).fmts = t.fmts := rfl
@[simp] theorem Thread.issuing_coefbase (t : Thread) (s : State) : (t.issuing s).coefbase = t.coefbase := rfl
@[simp] theorem Thread.issuing_trapvec (t : Thread) (s : State) : (t.issuing s).trapvec = t.trapvec := rfl
@[simp] theorem Thread.issuing_traprec (t : Thread) (s : State) : (t.issuing s).traprec = t.traprec := rfl
@[simp] theorem Thread.issuing_intrap (t : Thread) (s : State) : (t.issuing s).intrap = t.intrap := rfl
@[simp] theorem Thread.issuing_due (t : Thread) (s : State) : (t.issuing s).due = t.due := rfl
@[simp] theorem Thread.issuing_heldTraps (t : Thread) (s : State) : (t.issuing s).heldTraps = t.heldTraps := rfl
@[simp] theorem Thread.issuing_entering (t : Thread) (s : State) : (t.issuing s).entering = t.entering := rfl
@[simp] theorem Thread.issuing_forfeits (t : Thread) (s : State) : (t.issuing s).forfeits = t.forfeits := rfl
@[simp] theorem Thread.issuing_ctx (t : Thread) (s : State) : (t.issuing s).ctx = t.ctx := rfl
@[simp] theorem Thread.issuing_crew (t : Thread) (s : State) : (t.issuing s).crew = t.crew := rfl
@[simp] theorem Thread.issuing_flask (t : Thread) (s : State) : (t.issuing s).flask = t.flask := rfl
@[simp] theorem Thread.issuing_index (t : Thread) (s : State) : (t.issuing s).index = t.index := rfl
@[simp] theorem Thread.issuing_spawned (t : Thread) (s : State) : (t.issuing s).spawned = t.spawned := rfl
@[simp] theorem Thread.issuing_detached (t : Thread) (s : State) : (t.issuing s).detached = t.detached := rfl
@[simp] theorem Thread.issuing_scope (t : Thread) (s : State) : (t.issuing s).scope = t.scope := rfl
@[simp] theorem Thread.issuing_barCrew (t : Thread) (s : State) : (t.issuing s).barCrew = t.barCrew := rfl
@[simp] theorem Thread.issuing_barFlask (t : Thread) (s : State) : (t.issuing s).barFlask = t.barFlask := rfl
@[simp] theorem Thread.issuing_group (t : Thread) (s : State) : (t.issuing s).group = t.group := rfl
@[simp] theorem Thread.issuing_spill (t : Thread) (s : State) : (t.issuing s).spill = t.spill := rfl
@[simp] theorem Thread.issuing_waitSince (t : Thread) (s : State) : (t.issuing s).waitSince = t.waitSince := rfl
@[simp] theorem Thread.issuing_faultSince (t : Thread) (s : State) : (t.issuing s).faultSince = t.faultSince := rfl
@[simp] theorem Thread.issuing_lastIssue (t : Thread) (s : State) : (t.issuing s).lastIssue = t.lastIssue := rfl
@[simp] theorem Thread.issuing_after (t : Thread) (s : State) : (t.issuing s).after = t.after := rfl
@[simp] theorem Thread.issuing_owed (t : Thread) (s : State) : (t.issuing s).owed = t.owed := rfl
@[simp] theorem Thread.issuing_fetchFrom (t : Thread) (s : State) : (t.issuing s).fetchFrom = t.fetchFrom := rfl
@[simp] theorem Thread.issuing_idle (t : Thread) (s : State) : (t.issuing s).idle = t.idle := rfl
@[simp] theorem Thread.issuing_fetchFault (t : Thread) (s : State) : (t.issuing s).fetchFault = t.fetchFault := rfl

@[simp] theorem Thread.writeS_pcHalf (t : Thread) (i : BitVec 4) (x : Word) : (t.writeS i x).pcHalf = t.pcHalf := by unfold Thread.writeS; split <;> rfl
@[simp] theorem Thread.writeS_p (t : Thread) (i : BitVec 4) (x : Word) : (t.writeS i x).p = t.p := by unfold Thread.writeS; split <;> rfl
@[simp] theorem Thread.writeS_e (t : Thread) (i : BitVec 4) (x : Word) : (t.writeS i x).e = t.e := by unfold Thread.writeS; split <;> rfl
@[simp] theorem Thread.writeS_v (t : Thread) (i : BitVec 4) (x : Word) : (t.writeS i x).v = t.v := by unfold Thread.writeS; split <;> rfl
@[simp] theorem Thread.writeS_long (t : Thread) (i : BitVec 4) (x : Word) : (t.writeS i x).long = t.long := by unfold Thread.writeS; split <;> rfl
@[simp] theorem Thread.writeS_inc (t : Thread) (i : BitVec 4) (x : Word) : (t.writeS i x).inc = t.inc := by unfold Thread.writeS; split <;> rfl
@[simp] theorem Thread.writeS_status (t : Thread) (i : BitVec 4) (x : Word) : (t.writeS i x).status = t.status := by unfold Thread.writeS; split <;> rfl
@[simp] theorem Thread.writeS_wake (t : Thread) (i : BitVec 4) (x : Word) : (t.writeS i x).wake = t.wake := by unfold Thread.writeS; split <;> rfl
@[simp] theorem Thread.writeS_wakeRel (t : Thread) (i : BitVec 4) (x : Word) : (t.writeS i x).wakeRel = t.wakeRel := by unfold Thread.writeS; split <;> rfl
@[simp] theorem Thread.writeS_flags (t : Thread) (i : BitVec 4) (x : Word) : (t.writeS i x).flags = t.flags := by unfold Thread.writeS; split <;> rfl
@[simp] theorem Thread.writeS_rmode (t : Thread) (i : BitVec 4) (x : Word) : (t.writeS i x).rmode = t.rmode := by unfold Thread.writeS; split <;> rfl
@[simp] theorem Thread.writeS_approx (t : Thread) (i : BitVec 4) (x : Word) : (t.writeS i x).approx = t.approx := by unfold Thread.writeS; split <;> rfl
@[simp] theorem Thread.writeS_div0 (t : Thread) (i : BitVec 4) (x : Word) : (t.writeS i x).div0 = t.div0 := by unfold Thread.writeS; split <;> rfl
@[simp] theorem Thread.writeS_waitlim (t : Thread) (i : BitVec 4) (x : Word) : (t.writeS i x).waitlim = t.waitlim := by unfold Thread.writeS; split <;> rfl
@[simp] theorem Thread.writeS_retrylim (t : Thread) (i : BitVec 4) (x : Word) : (t.writeS i x).retrylim = t.retrylim := by unfold Thread.writeS; split <;> rfl
@[simp] theorem Thread.writeS_prio (t : Thread) (i : BitVec 4) (x : Word) : (t.writeS i x).prio = t.prio := by unfold Thread.writeS; split <;> rfl
@[simp] theorem Thread.writeS_fixed (t : Thread) (i : BitVec 4) (x : Word) : (t.writeS i x).fixed = t.fixed := by unfold Thread.writeS; split <;> rfl
@[simp] theorem Thread.writeS_broken (t : Thread) (i : BitVec 4) (x : Word) : (t.writeS i x).broken = t.broken := by unfold Thread.writeS; split <;> rfl
@[simp] theorem Thread.writeS_inreg (t : Thread) (i : BitVec 4) (x : Word) : (t.writeS i x).inreg = t.inreg := by unfold Thread.writeS; split <;> rfl
@[simp] theorem Thread.writeS_fmta (t : Thread) (i : BitVec 4) (x : Word) : (t.writeS i x).fmta = t.fmta := by unfold Thread.writeS; split <;> rfl
@[simp] theorem Thread.writeS_fmtb (t : Thread) (i : BitVec 4) (x : Word) : (t.writeS i x).fmtb = t.fmtb := by unfold Thread.writeS; split <;> rfl
@[simp] theorem Thread.writeS_fmts (t : Thread) (i : BitVec 4) (x : Word) : (t.writeS i x).fmts = t.fmts := by unfold Thread.writeS; split <;> rfl
@[simp] theorem Thread.writeS_coefbase (t : Thread) (i : BitVec 4) (x : Word) : (t.writeS i x).coefbase = t.coefbase := by unfold Thread.writeS; split <;> rfl
@[simp] theorem Thread.writeS_trapvec (t : Thread) (i : BitVec 4) (x : Word) : (t.writeS i x).trapvec = t.trapvec := by unfold Thread.writeS; split <;> rfl
@[simp] theorem Thread.writeS_traprec (t : Thread) (i : BitVec 4) (x : Word) : (t.writeS i x).traprec = t.traprec := by unfold Thread.writeS; split <;> rfl
@[simp] theorem Thread.writeS_intrap (t : Thread) (i : BitVec 4) (x : Word) : (t.writeS i x).intrap = t.intrap := by unfold Thread.writeS; split <;> rfl
@[simp] theorem Thread.writeS_due (t : Thread) (i : BitVec 4) (x : Word) : (t.writeS i x).due = t.due := by unfold Thread.writeS; split <;> rfl
@[simp] theorem Thread.writeS_heldTraps (t : Thread) (i : BitVec 4) (x : Word) : (t.writeS i x).heldTraps = t.heldTraps := by unfold Thread.writeS; split <;> rfl
@[simp] theorem Thread.writeS_entering (t : Thread) (i : BitVec 4) (x : Word) : (t.writeS i x).entering = t.entering := by unfold Thread.writeS; split <;> rfl
@[simp] theorem Thread.writeS_ops (t : Thread) (i : BitVec 4) (x : Word) : (t.writeS i x).ops = t.ops := by unfold Thread.writeS; split <;> rfl
@[simp] theorem Thread.writeS_windows (t : Thread) (i : BitVec 4) (x : Word) : (t.writeS i x).windows = t.windows := by unfold Thread.writeS; split <;> rfl
@[simp] theorem Thread.writeS_forfeits (t : Thread) (i : BitVec 4) (x : Word) : (t.writeS i x).forfeits = t.forfeits := by unfold Thread.writeS; split <;> rfl
@[simp] theorem Thread.writeS_ctx (t : Thread) (i : BitVec 4) (x : Word) : (t.writeS i x).ctx = t.ctx := by unfold Thread.writeS; split <;> rfl
@[simp] theorem Thread.writeS_crew (t : Thread) (i : BitVec 4) (x : Word) : (t.writeS i x).crew = t.crew := by unfold Thread.writeS; split <;> rfl
@[simp] theorem Thread.writeS_flask (t : Thread) (i : BitVec 4) (x : Word) : (t.writeS i x).flask = t.flask := by unfold Thread.writeS; split <;> rfl
@[simp] theorem Thread.writeS_index (t : Thread) (i : BitVec 4) (x : Word) : (t.writeS i x).index = t.index := by unfold Thread.writeS; split <;> rfl
@[simp] theorem Thread.writeS_spawned (t : Thread) (i : BitVec 4) (x : Word) : (t.writeS i x).spawned = t.spawned := by unfold Thread.writeS; split <;> rfl
@[simp] theorem Thread.writeS_detached (t : Thread) (i : BitVec 4) (x : Word) : (t.writeS i x).detached = t.detached := by unfold Thread.writeS; split <;> rfl
@[simp] theorem Thread.writeS_scope (t : Thread) (i : BitVec 4) (x : Word) : (t.writeS i x).scope = t.scope := by unfold Thread.writeS; split <;> rfl
@[simp] theorem Thread.writeS_barCrew (t : Thread) (i : BitVec 4) (x : Word) : (t.writeS i x).barCrew = t.barCrew := by unfold Thread.writeS; split <;> rfl
@[simp] theorem Thread.writeS_barFlask (t : Thread) (i : BitVec 4) (x : Word) : (t.writeS i x).barFlask = t.barFlask := by unfold Thread.writeS; split <;> rfl
@[simp] theorem Thread.writeS_group (t : Thread) (i : BitVec 4) (x : Word) : (t.writeS i x).group = t.group := by unfold Thread.writeS; split <;> rfl
@[simp] theorem Thread.writeS_spill (t : Thread) (i : BitVec 4) (x : Word) : (t.writeS i x).spill = t.spill := by unfold Thread.writeS; split <;> rfl
@[simp] theorem Thread.writeS_waitSince (t : Thread) (i : BitVec 4) (x : Word) : (t.writeS i x).waitSince = t.waitSince := by unfold Thread.writeS; split <;> rfl
@[simp] theorem Thread.writeS_faultSince (t : Thread) (i : BitVec 4) (x : Word) : (t.writeS i x).faultSince = t.faultSince := by unfold Thread.writeS; split <;> rfl
@[simp] theorem Thread.writeS_lastIssue (t : Thread) (i : BitVec 4) (x : Word) : (t.writeS i x).lastIssue = t.lastIssue := by unfold Thread.writeS; split <;> rfl
@[simp] theorem Thread.writeS_word (t : Thread) (i : BitVec 4) (x : Word) : (t.writeS i x).word = t.word := by unfold Thread.writeS; split <;> rfl
@[simp] theorem Thread.writeS_after (t : Thread) (i : BitVec 4) (x : Word) : (t.writeS i x).after = t.after := by unfold Thread.writeS; split <;> rfl
@[simp] theorem Thread.writeS_owed (t : Thread) (i : BitVec 4) (x : Word) : (t.writeS i x).owed = t.owed := by unfold Thread.writeS; split <;> rfl
@[simp] theorem Thread.writeS_fetchFrom (t : Thread) (i : BitVec 4) (x : Word) : (t.writeS i x).fetchFrom = t.fetchFrom := by unfold Thread.writeS; split <;> rfl
@[simp] theorem Thread.writeS_idle (t : Thread) (i : BitVec 4) (x : Word) : (t.writeS i x).idle = t.idle := by unfold Thread.writeS; split <;> rfl
@[simp] theorem Thread.writeS_fetchFault (t : Thread) (i : BitVec 4) (x : Word) : (t.writeS i x).fetchFault = t.fetchFault := by unfold Thread.writeS; split <;> rfl

@[simp] theorem Thread.writeP_pcHalf (t : Thread) (i : BitVec 4) (x : Bool) : (t.writeP i x).pcHalf = t.pcHalf := by unfold Thread.writeP; split <;> rfl
@[simp] theorem Thread.writeP_s (t : Thread) (i : BitVec 4) (x : Bool) : (t.writeP i x).s = t.s := by unfold Thread.writeP; split <;> rfl
@[simp] theorem Thread.writeP_e (t : Thread) (i : BitVec 4) (x : Bool) : (t.writeP i x).e = t.e := by unfold Thread.writeP; split <;> rfl
@[simp] theorem Thread.writeP_v (t : Thread) (i : BitVec 4) (x : Bool) : (t.writeP i x).v = t.v := by unfold Thread.writeP; split <;> rfl
@[simp] theorem Thread.writeP_long (t : Thread) (i : BitVec 4) (x : Bool) : (t.writeP i x).long = t.long := by unfold Thread.writeP; split <;> rfl
@[simp] theorem Thread.writeP_inc (t : Thread) (i : BitVec 4) (x : Bool) : (t.writeP i x).inc = t.inc := by unfold Thread.writeP; split <;> rfl
@[simp] theorem Thread.writeP_status (t : Thread) (i : BitVec 4) (x : Bool) : (t.writeP i x).status = t.status := by unfold Thread.writeP; split <;> rfl
@[simp] theorem Thread.writeP_wake (t : Thread) (i : BitVec 4) (x : Bool) : (t.writeP i x).wake = t.wake := by unfold Thread.writeP; split <;> rfl
@[simp] theorem Thread.writeP_wakeRel (t : Thread) (i : BitVec 4) (x : Bool) : (t.writeP i x).wakeRel = t.wakeRel := by unfold Thread.writeP; split <;> rfl
@[simp] theorem Thread.writeP_flags (t : Thread) (i : BitVec 4) (x : Bool) : (t.writeP i x).flags = t.flags := by unfold Thread.writeP; split <;> rfl
@[simp] theorem Thread.writeP_rmode (t : Thread) (i : BitVec 4) (x : Bool) : (t.writeP i x).rmode = t.rmode := by unfold Thread.writeP; split <;> rfl
@[simp] theorem Thread.writeP_approx (t : Thread) (i : BitVec 4) (x : Bool) : (t.writeP i x).approx = t.approx := by unfold Thread.writeP; split <;> rfl
@[simp] theorem Thread.writeP_div0 (t : Thread) (i : BitVec 4) (x : Bool) : (t.writeP i x).div0 = t.div0 := by unfold Thread.writeP; split <;> rfl
@[simp] theorem Thread.writeP_waitlim (t : Thread) (i : BitVec 4) (x : Bool) : (t.writeP i x).waitlim = t.waitlim := by unfold Thread.writeP; split <;> rfl
@[simp] theorem Thread.writeP_retrylim (t : Thread) (i : BitVec 4) (x : Bool) : (t.writeP i x).retrylim = t.retrylim := by unfold Thread.writeP; split <;> rfl
@[simp] theorem Thread.writeP_prio (t : Thread) (i : BitVec 4) (x : Bool) : (t.writeP i x).prio = t.prio := by unfold Thread.writeP; split <;> rfl
@[simp] theorem Thread.writeP_fixed (t : Thread) (i : BitVec 4) (x : Bool) : (t.writeP i x).fixed = t.fixed := by unfold Thread.writeP; split <;> rfl
@[simp] theorem Thread.writeP_broken (t : Thread) (i : BitVec 4) (x : Bool) : (t.writeP i x).broken = t.broken := by unfold Thread.writeP; split <;> rfl
@[simp] theorem Thread.writeP_inreg (t : Thread) (i : BitVec 4) (x : Bool) : (t.writeP i x).inreg = t.inreg := by unfold Thread.writeP; split <;> rfl
@[simp] theorem Thread.writeP_fmta (t : Thread) (i : BitVec 4) (x : Bool) : (t.writeP i x).fmta = t.fmta := by unfold Thread.writeP; split <;> rfl
@[simp] theorem Thread.writeP_fmtb (t : Thread) (i : BitVec 4) (x : Bool) : (t.writeP i x).fmtb = t.fmtb := by unfold Thread.writeP; split <;> rfl
@[simp] theorem Thread.writeP_fmts (t : Thread) (i : BitVec 4) (x : Bool) : (t.writeP i x).fmts = t.fmts := by unfold Thread.writeP; split <;> rfl
@[simp] theorem Thread.writeP_coefbase (t : Thread) (i : BitVec 4) (x : Bool) : (t.writeP i x).coefbase = t.coefbase := by unfold Thread.writeP; split <;> rfl
@[simp] theorem Thread.writeP_trapvec (t : Thread) (i : BitVec 4) (x : Bool) : (t.writeP i x).trapvec = t.trapvec := by unfold Thread.writeP; split <;> rfl
@[simp] theorem Thread.writeP_traprec (t : Thread) (i : BitVec 4) (x : Bool) : (t.writeP i x).traprec = t.traprec := by unfold Thread.writeP; split <;> rfl
@[simp] theorem Thread.writeP_intrap (t : Thread) (i : BitVec 4) (x : Bool) : (t.writeP i x).intrap = t.intrap := by unfold Thread.writeP; split <;> rfl
@[simp] theorem Thread.writeP_due (t : Thread) (i : BitVec 4) (x : Bool) : (t.writeP i x).due = t.due := by unfold Thread.writeP; split <;> rfl
@[simp] theorem Thread.writeP_heldTraps (t : Thread) (i : BitVec 4) (x : Bool) : (t.writeP i x).heldTraps = t.heldTraps := by unfold Thread.writeP; split <;> rfl
@[simp] theorem Thread.writeP_entering (t : Thread) (i : BitVec 4) (x : Bool) : (t.writeP i x).entering = t.entering := by unfold Thread.writeP; split <;> rfl
@[simp] theorem Thread.writeP_ops (t : Thread) (i : BitVec 4) (x : Bool) : (t.writeP i x).ops = t.ops := by unfold Thread.writeP; split <;> rfl
@[simp] theorem Thread.writeP_windows (t : Thread) (i : BitVec 4) (x : Bool) : (t.writeP i x).windows = t.windows := by unfold Thread.writeP; split <;> rfl
@[simp] theorem Thread.writeP_forfeits (t : Thread) (i : BitVec 4) (x : Bool) : (t.writeP i x).forfeits = t.forfeits := by unfold Thread.writeP; split <;> rfl
@[simp] theorem Thread.writeP_ctx (t : Thread) (i : BitVec 4) (x : Bool) : (t.writeP i x).ctx = t.ctx := by unfold Thread.writeP; split <;> rfl
@[simp] theorem Thread.writeP_crew (t : Thread) (i : BitVec 4) (x : Bool) : (t.writeP i x).crew = t.crew := by unfold Thread.writeP; split <;> rfl
@[simp] theorem Thread.writeP_flask (t : Thread) (i : BitVec 4) (x : Bool) : (t.writeP i x).flask = t.flask := by unfold Thread.writeP; split <;> rfl
@[simp] theorem Thread.writeP_index (t : Thread) (i : BitVec 4) (x : Bool) : (t.writeP i x).index = t.index := by unfold Thread.writeP; split <;> rfl
@[simp] theorem Thread.writeP_spawned (t : Thread) (i : BitVec 4) (x : Bool) : (t.writeP i x).spawned = t.spawned := by unfold Thread.writeP; split <;> rfl
@[simp] theorem Thread.writeP_detached (t : Thread) (i : BitVec 4) (x : Bool) : (t.writeP i x).detached = t.detached := by unfold Thread.writeP; split <;> rfl
@[simp] theorem Thread.writeP_scope (t : Thread) (i : BitVec 4) (x : Bool) : (t.writeP i x).scope = t.scope := by unfold Thread.writeP; split <;> rfl
@[simp] theorem Thread.writeP_barCrew (t : Thread) (i : BitVec 4) (x : Bool) : (t.writeP i x).barCrew = t.barCrew := by unfold Thread.writeP; split <;> rfl
@[simp] theorem Thread.writeP_barFlask (t : Thread) (i : BitVec 4) (x : Bool) : (t.writeP i x).barFlask = t.barFlask := by unfold Thread.writeP; split <;> rfl
@[simp] theorem Thread.writeP_group (t : Thread) (i : BitVec 4) (x : Bool) : (t.writeP i x).group = t.group := by unfold Thread.writeP; split <;> rfl
@[simp] theorem Thread.writeP_spill (t : Thread) (i : BitVec 4) (x : Bool) : (t.writeP i x).spill = t.spill := by unfold Thread.writeP; split <;> rfl
@[simp] theorem Thread.writeP_waitSince (t : Thread) (i : BitVec 4) (x : Bool) : (t.writeP i x).waitSince = t.waitSince := by unfold Thread.writeP; split <;> rfl
@[simp] theorem Thread.writeP_faultSince (t : Thread) (i : BitVec 4) (x : Bool) : (t.writeP i x).faultSince = t.faultSince := by unfold Thread.writeP; split <;> rfl
@[simp] theorem Thread.writeP_lastIssue (t : Thread) (i : BitVec 4) (x : Bool) : (t.writeP i x).lastIssue = t.lastIssue := by unfold Thread.writeP; split <;> rfl
@[simp] theorem Thread.writeP_word (t : Thread) (i : BitVec 4) (x : Bool) : (t.writeP i x).word = t.word := by unfold Thread.writeP; split <;> rfl
@[simp] theorem Thread.writeP_after (t : Thread) (i : BitVec 4) (x : Bool) : (t.writeP i x).after = t.after := by unfold Thread.writeP; split <;> rfl
@[simp] theorem Thread.writeP_owed (t : Thread) (i : BitVec 4) (x : Bool) : (t.writeP i x).owed = t.owed := by unfold Thread.writeP; split <;> rfl
@[simp] theorem Thread.writeP_fetchFrom (t : Thread) (i : BitVec 4) (x : Bool) : (t.writeP i x).fetchFrom = t.fetchFrom := by unfold Thread.writeP; split <;> rfl
@[simp] theorem Thread.writeP_idle (t : Thread) (i : BitVec 4) (x : Bool) : (t.writeP i x).idle = t.idle := by unfold Thread.writeP; split <;> rfl
@[simp] theorem Thread.writeP_fetchFault (t : Thread) (i : BitVec 4) (x : Bool) : (t.writeP i x).fetchFault = t.fetchFault := by unfold Thread.writeP; split <;> rfl

@[simp] theorem Thread.orFlags_flags (t : Thread) (f : BitVec 5) : (t.orFlags f).flags = t.flags ||| f := rfl
@[simp] theorem Thread.advance_lastIssue (t : Thread) (n c : Nat) : (t.advance n c).lastIssue = c := rfl
@[simp] theorem Thread.advance_waitSince (t : Thread) (n c : Nat) : (t.advance n c).waitSince = none := rfl
@[simp] theorem Thread.advance_faultSince (t : Thread) (n c : Nat) : (t.advance n c).faultSince = t.faultSince := rfl
@[simp] theorem Thread.issuing_word (t : Thread) (s : State) : (t.issuing s).word = s.insn := rfl

/-! ### Registers read after a write -/

@[simp] theorem Thread.readS_zero (t : Thread) : t.readS 0 = 0 := rfl
@[simp] theorem Thread.readP_zero (t : Thread) : t.readP 0 = true := rfl

theorem Thread.readS_writeS_same (t : Thread) (i : BitVec 4) (x : Word) (h : i ≠ 0) : (t.writeS i x).readS i = x := by
  unfold Thread.readS Thread.writeS
  rw [if_neg h, if_neg h]
  exact Vector.getElem_set_self ..

theorem Thread.readS_writeS_other (t : Thread) (i j : BitVec 4) (x : Word) (h : j ≠ i) : (t.writeS i x).readS j = t.readS j := by
  unfold Thread.writeS Thread.readS
  split
  · rfl
  · split
    · rfl
    · exact Vector.getElem_set_ne i.isLt j.isLt (fun e => h (BitVec.eq_of_toNat_eq e.symm))

theorem setBit_getLsbD (x : BitVec 16) (i j : Nat) (b : Bool) (hi : i < 16) (hj : j < 16) : (setBit x i b).getLsbD j = if i = j then b else x.getLsbD j := by
  unfold setBit
  have h2 : (BitVec.twoPow 16 i).getLsbD j = decide (i = j) := by
    rw [BitVec.getLsbD_twoPow]
    simp [hi]
  cases b
  · by_cases h : i = j
    · simp only [Bool.false_eq_true, if_false, BitVec.getLsbD_and, BitVec.getLsbD_not, h2]
      simp [h]
    · simp only [Bool.false_eq_true, if_false, BitVec.getLsbD_and, BitVec.getLsbD_not, h2, h, decide_false, Bool.not_false, hj, decide_true, Bool.and_true]
  · by_cases h : i = j
    · simp only [if_true, BitVec.getLsbD_or, h2]
      simp [h]
    · simp only [if_true, BitVec.getLsbD_or, h2, h, decide_false, Bool.or_false, if_false]

theorem Thread.readP_writeP_same (t : Thread) (i : BitVec 4) (b : Bool) (h : i ≠ 0) : (t.writeP i b).readP i = b := by
  unfold Thread.readP Thread.writeP
  rw [if_neg h, setBit_getLsbD _ _ _ _ i.isLt i.isLt]
  have : (i == 0) = false := beq_false_of_ne h
  rw [this]
  simp

theorem Thread.readP_writeP_other (t : Thread) (i j : BitVec 4) (b : Bool) (h : j ≠ i) : (t.writeP i b).readP j = t.readP j := by
  have h' : i.toNat ≠ j.toNat := fun e => h (BitVec.eq_of_toNat_eq e.symm)
  unfold Thread.writeP Thread.readP
  split
  · rfl
  · rw [setBit_getLsbD _ _ _ _ i.isLt j.isLt, if_neg h']

end Sys2Proof.Machine
end

