-- ==== Sys2Proof/Laws/Act.lean ====
section
/-!
SUPPORT. How to reason about actions: `Ends a s P` says that the action `a`, begun in the state `s`, finishes without a stop, with a value and in a state of which `P` holds, and that its log
replays to that state. One lemma per building block; `commit` and `issue` are then read off. Every update keeps the canonical form and lets the record of what was sent out only grow.
-/

namespace Sys2Proof.Machine

/-! ### Logs -/

@[simp] theorem replay_nil (s : State) : replay [] s = s := rfl
@[simp] theorem replay_cons (e : Effect) (l : List Effect) (s : State) : replay (e :: l) s = e.apply (replay l s) := rfl

theorem replay_append (l m : List Effect) (s : State) : replay (l ++ m) s = replay l (replay m s) := by
  simp [replay, List.foldr_append]

/-- Every update keeps the canonical form of the state. -/
theorem apply_canonical (e : Effect) (s : State) (h : s.canonical) : (e.apply s).canonical := by
  cases e <;> simp only [State.canonical] at h ⊢ <;> simp [Memory.wf_write, h]
  all_goals split <;> simp [h]

/-- A log keeps the canonical form of the state. -/
theorem replay_canonical (l : List Effect) (s : State) (h : s.canonical) : (replay l s).canonical := by
  induction l with
  | nil => exact h
  | cons e l ih => exact apply_canonical e _ ih

/-- What has been sent out stays sent, in its order. -/
theorem replay_sent (l : List Effect) (s : State) : s.sent <:+ (replay l s).sent := by
  induction l with
  | nil => exact List.suffix_refl _
  | cons e l ih => cases e <;> simp <;> first | exact ih | exact List.suffix_cons_iff.mpr (Or.inr ih)

/-! ### Actions that finish -/

/-- The action finishes in a state of which `P` holds, and its log replays to that state. -/
def Ends {α : Type} (a : Act α) (s : State) (P : α → State → Prop) : Prop :=
  ∀ l, ∃ r m, a ⟨s, l⟩ = .ok (r, ⟨replay m s, m ++ l⟩) ∧ P r (replay m s)

theorem Ends.mono {α : Type} {a : Act α} {s : State} {P Q : α → State → Prop} (h : Ends a s P) (hpq : ∀ r t, P r t → Q r t) : Ends a s Q := by
  intro l
  obtain ⟨r, m, h1, h2⟩ := h l
  exact ⟨r, m, h1, hpq _ _ h2⟩

theorem ends_pure {α : Type} {x : α} {s : State} {P : α → State → Prop} (h : P x s) : Ends (pure x) s P :=
  fun _ => ⟨x, [], rfl, h⟩

theorem ends_bind {α β : Type} {a : Act α} {f : α → Act β} {s : State} {P : β → State → Prop} (h : Ends a s (fun r t => Ends (f r) t P)) : Ends (a >>= f) s P := by
  intro l
  obtain ⟨r, m, h1, h2⟩ := h l
  obtain ⟨r', m', h3, h4⟩ := h2 (m ++ l)
  refine ⟨r', m' ++ m, ?_, ?_⟩
  · change (StateT.bind a f) ⟨s, l⟩ = _
    simp only [StateT.bind, h1, bind, Except.bind]
    rw [h3, replay_append, List.append_assoc]
  · rw [replay_append]
    exact h4

theorem ends_map {α β : Type} {a : Act α} {f : α → β} {s : State} {P : β → State → Prop} (h : Ends a s (fun r t => P (f r) t)) : Ends (f <$> a) s P := by
  rw [← bind_pure_comp]
  exact ends_bind (h.mono (fun r t hp => ends_pure hp))

theorem ends_look {s : State} {P : State → State → Prop} (h : P s s) : Ends look s P :=
  fun _ => ⟨s, [], rfl, h⟩

theorem ends_emit {e : Effect} {s : State} {P : Unit → State → Prop} (h : P () (e.apply s)) : Ends (emit e) s P :=
  fun _ => ⟨(), [e], rfl, h⟩

theorem ends_look_bind {β : Type} {f : State → Act β} {s : State} {P : β → State → Prop} (h : Ends (f s) s P) : Ends (look >>= f) s P :=
  ends_bind (ends_look h)

theorem ends_emit_bind {β : Type} {e : Effect} {f : Unit → Act β} {s : State} {P : β → State → Prop} (h : Ends (f ()) (e.apply s) P) : Ends (emit e >>= f) s P :=
  ends_bind (ends_emit h)

theorem ends_pure_bind {α β : Type} {x : α} {f : α → Act β} {s : State} {P : β → State → Prop} (h : Ends (f x) s P) : Ends (pure x >>= f) s P :=
  ends_bind (ends_pure h)

theorem ends_due {name : String} {c : Bool} {s : State} {P : Unit → State → Prop} (hc : c = true) (h : P () s) : Ends (due name c) s P := by
  subst hc
  exact ends_pure h

theorem ends_freshId {s : State} {P : Nat → State → Prop} (h : P s.nextId ((Effect.nextId (s.nextId + 1)).apply s)) : Ends freshId s P :=
  ends_look_bind (ends_emit_bind (ends_pure h))

theorem ends_forEach_nil {α : Type} {f : α → Act Unit} {s : State} {P : Unit → State → Prop} (h : P () s) : Ends (forEach [] f) s P := ends_pure h

theorem ends_forEach_cons {α : Type} {x : α} {r : List α} {f : α → Act Unit} {s : State} {P : Unit → State → Prop}
    (h : Ends (f x) s (fun _ t => Ends (forEach r f) t P)) : Ends (forEach (x :: r) f) s P := ends_bind h

/-- A loop whose body always finishes and keeps a property finishes and keeps it. -/
theorem ends_forEach {α : Type} {l : List α} {f : α → Act Unit} {s : State} (I : State → Prop) (hs : I s)
    (h : ∀ x ∈ l, ∀ t, I t → Ends (f x) t (fun _ u => I u)) : Ends (forEach l f) s (fun _ t => I t) := by
  induction l generalizing s with
  | nil => exact ends_pure hs
  | cons x r ih =>
    exact ends_bind ((h x (List.mem_cons_self ..) s hs).mono (fun _ t ht => ih ht (fun y hy u hu => h y (List.mem_cons_of_mem _ hy) u hu)))

theorem ends_modThread {k : Nat} {f : Thread → Thread} {s : State} {t : Thread} {P : Unit → State → Prop} (ht : s.thread? k = some t)
    (h : P () ((Effect.thread k (some (f t))).apply s)) : Ends (modThread k f) s P := by
  refine ends_look_bind ?_
  simp only [ht]
  exact ends_emit h

theorem ends_needThread {name : String} {k : Nat} {s : State} {t : Thread} {P : Thread → State → Prop} (ht : s.thread? k = some t) (h : P t s) :
    Ends (needThread name k) s P := by
  refine ends_look_bind ?_
  simp only [ht]
  exact ends_pure h

theorem ends_needReq {name : String} {r : Nat} {s : State} {q : Req} {P : Req → State → Prop} (hq : mapGet r s.reqs = some q) (h : P q s) :
    Ends (needReq name r) s P := by
  refine ends_look_bind ?_
  simp only [hq]
  exact ends_pure h

theorem ends_modTile {n : Nat} {f : Tile → Tile} {s : State} {P : Unit → State → Prop} (h : P () ((Effect.tile n (f (s.tile n))).apply s)) : Ends (modTile n f) s P :=
  ends_look_bind (ends_emit h)

theorem ends_modCore {n : Nat} {f : Core → Core} {s : State} {P : Unit → State → Prop} (h : P () ((Effect.core n (f (s.core n))).apply s)) : Ends (modCore n f) s P :=
  ends_look_bind (ends_emit h)

theorem ends_modDie {n : Nat} {f : Die → Die} {s : State} {P : Unit → State → Prop} (h : P () ((Effect.die n (f (s.die n))).apply s)) : Ends (modDie n f) s P :=
  ends_look_bind (ends_emit h)

theorem ends_modMgmt {f : Management → Management} {s : State} {P : Unit → State → Prop} (h : P () ((Effect.mgmt (f s.mgmt)).apply s)) : Ends (modMgmt f) s P :=
  ends_look_bind (ends_emit h)

theorem ends_require {ok : Bool} {c : Cause} {a : Word} {s : State} {P : Unit → State → Prop} (hok : ok = true) (h : P () s) : Ends (require ok c a) s P := by
  subst hok
  exact ends_pure h

/-! ### Reports and clocks -/

/-- Reports of words in error change nothing but what has been sent out, and there are none where no word is in error (R304). -/
theorem ends_reportErrors {pa n : Nat} {s : State} : Ends (reportErrors pa n) s (fun _ t => ∃ r, t = { s with sent := r ++ s.sent } ∧ (s.bad = [] → r = [])) := by
  refine ends_look_bind ?_
  by_cases hb : s.bad = []
  · have he : s.bad.filter (fun e => decide (hbmKey (wordOf pa) ≤ e.1) && decide (e.1 < hbmKey (pa + n))) = [] := by simp [hb]
    simp only [he]
    exact ends_forEach_nil ⟨[], rfl, fun _ => rfl⟩
  · refine ends_forEach _ ⟨[], rfl, fun _ => rfl⟩ ?_
    rintro x _ t ⟨r, rfl, hr⟩
    exact ends_emit ⟨_ :: r, rfl, fun h => absurd h hb⟩

/-- The cycles from a count to the count that stands `d` cycles on (R10, R281). -/
theorem cyclesFrom_add (since d : Nat) (h : d < 2 ^ 63) : cyclesFrom since ((since + d) % 2 ^ 64) = d := by
  unfold cyclesFrom
  have : ((since + d) % 2 ^ 64 + (2 ^ 64 - since % 2 ^ 64)) % 2 ^ 64 = d := by omega
  simp only [this, h, if_true]

/-! ### Outcomes -/

/-- An event row whose action finishes gives a next state. -/
theorem commit_next {name : String} {a : Act Unit} {s : State} {P : State → Prop} (h : Ends a s (fun _ t => P t)) : ∃ t, commit name a s = .next t ∧ P t := by
  obtain ⟨r, m, h1, h2⟩ := h []
  rw [List.append_nil] at h1
  refine ⟨replay m s, ?_, h2⟩
  simp only [commit, Act.from, h1]

/-- The same, for a state that is known. -/
theorem commit_eq {name : String} {a : Act Unit} {s t : State} (h : Ends a s (fun _ u => u = t)) : commit name a s = .next t := by
  obtain ⟨u, h1, h2⟩ := commit_next (name := name) h
  rw [h1, h2]

/-- Whatever an event row does, a next state is reached by a log of updates. -/
theorem commit_replay {name : String} {a : Act Unit} {s t : State} (h : commit name a s = .next t) : ∃ l, t = replay l s := by
  unfold commit at h
  split at h <;> first | exact ⟨_, (by cases h; rfl)⟩ | cases h

/-- Whatever an instruction does in its turn, a next state is reached by a log of updates. -/
theorem issue_replay {f : Form} {body : Nat → Thread → Act Flow} {s t : State} (h : issue f body s = .next t) : ∃ l, t = replay l s := by
  unfold issue at h
  split at h
  · exact ⟨_, (by cases h; rfl)⟩
  · cases h
  · cases h
  · exact commit_replay h
  · exact commit_replay h

end Sys2Proof.Machine
end

