-- ==== Sys2Proof/Laws/Issue.lean ====
section
/-!
SUPPORT. What the issue of an instruction can do, said once: an instruction that can issue runs its own rule on the thread as the windows leave it, and its flow sets the PC; one whose guard is
false only moves the PC; one whose rule raises a precise trap enters it; one that cannot issue leaves its thread WAITING.
-/

namespace Sys2Proof.Machine

/-- What the flow of an instruction leaves of the state that its own rule has reached. -/
def afterFlow (f : Form) (s : State) (fl : Flow) (v : State) : State :=
  match v.thread? s.cur with
  | none => v
  | some w =>
    match fl with
    | .seq => (Effect.thread s.cur (some (w.advance f.len s.cycle))).apply v
    | .jump pc => (Effect.thread s.cur (some { w.setPc pc with lastIssue := s.cycle, waitSince := none })).apply v
    | .hold => (Effect.thread s.cur (some { w with lastIssue := s.cycle })).apply v

/-- The vector fields of an instruction are legal in the mode of its thread (R36, R113). -/
def vectorsLegal (f : Form) (t : Thread) : Prop := ((t.long && f.short) || ((!t.long || f.short) && f.vectors.any (fun v => decide (v.toNat ≥ 8)))) = false

theorem ends_modThread_any {k : Nat} {f : Thread → Thread} {s : State} {P : Unit → State → Prop}
    (h : P () (match s.thread? k with | some t => (Effect.thread k (some (f t))).apply s | none => s)) : Ends (modThread k f) s P := by
  refine ends_look_bind ?_
  cases ht : s.thread? k with
  | none => rw [ht] at h; exact ends_pure h
  | some t => rw [ht] at h; exact ends_emit h

theorem ends_current {s : State} {t : Thread} {P : Thread → State → Prop} (ht : s.thread? s.cur = some t) (h : P t s) : Ends current s P := by
  refine ends_look_bind ?_
  simp only [ht]
  exact ends_pure h

theorem ends_clear {t : Thread} {x : Touch} {s : State} {P : Unit → State → Prop} (hx : t.free x) (h : P () s) : Ends (clear t x) s P := by
  unfold clear
  rw [hx.1, hx.2]
  exact ends_pure h

/-- The issue of an instruction that can issue: its own rule, and then its flow. -/
theorem ends_plan {f : Form} {body : Nat → Thread → Act Flow} {s : State} {t : Thread} {P : Unit → State → Prop}
    (h : CanIssue s t f.guard (f.uses t)) (hv : vectorsLegal f t) (h3 : f.core3 = true → roleOf s.cur = 3)
    (hb : Ends (body s.cur (t.issuing s)) (s.withCurrent (t.issuing s)) (fun fl v => P () (afterFlow f s fl v))) : Ends (plan f body) s P := by
  unfold plan
  refine ends_look_bind (ends_bind (ends_current h.thread ?_))
  simp only [h.active, h.turn, ne_eq, not_true_eq_false]
  simp only [h.inRotation, Bool.false_eq_true, if_false]
  rw [vectorsLegal] at hv; simp only [hv, Bool.false_eq_true, if_false]
  refine ends_bind (ends_clear h.guardFree ?_)
  simp only [h.guardTrue, Bool.not_true, Bool.false_eq_true, if_false]
  refine ends_bind (ends_clear h.usesFree ?_)
  have hc : (f.core3 && decide (roleOf s.cur ≠ 3)) = false := by
    cases h' : f.core3
    · rfl
    · simp [h3 h']
  simp only [hc, Bool.false_eq_true, if_false]
  refine ends_emit_bind (ends_bind (hb.mono ?_))
  intro fl v hp
  cases fl <;> refine ends_modThread_any ?_ <;> simp only [afterFlow] at hp <;> cases hw : v.thread? s.cur <;> simp only [hw] at hp <;> exact hp

/-- An instruction that can issue gives the next state that its own rule and its flow lead to. -/
theorem issue_next {f : Form} {body : Nat → Thread → Act Flow} {s : State} {t : Thread} {P : State → Prop}
    (h : CanIssue s t f.guard (f.uses t)) (hv : vectorsLegal f t) (h3 : f.core3 = true → roleOf s.cur = 3)
    (hb : Ends (body s.cur (t.issuing s)) (s.withCurrent (t.issuing s)) (fun fl v => P (afterFlow f s fl v))) : ∃ x, issue f body s = .next x ∧ P x := by
  obtain ⟨r, m, h1, h2⟩ := ends_plan (P := fun _ v => P v) h hv h3 hb []
  rw [List.append_nil] at h1
  refine ⟨replay m s, ?_, h2⟩
  simp only [issue, Act.from, h1]

theorem issue_eq {f : Form} {body : Nat → Thread → Act Flow} {s x : State} {t : Thread}
    (h : CanIssue s t f.guard (f.uses t)) (hv : vectorsLegal f t) (h3 : f.core3 = true → roleOf s.cur = 3)
    (hb : Ends (body s.cur (t.issuing s)) (s.withCurrent (t.issuing s)) (fun fl v => afterFlow f s fl v = x)) : issue f body s = .next x := by
  obtain ⟨y, h1, h2⟩ := issue_next (P := fun v => v = x) h hv h3 hb
  rw [h1, h2]

@[simp] theorem withCurrent_thread (s : State) (t : Thread) : (s.withCurrent t).thread? s.cur = some t := mapGet_mapPut_same ..

@[simp] theorem withCurrent_withCurrent (s : State) (t u : Thread) : (s.withCurrent t).withCurrent u = s.withCurrent u := by
  simp [State.withCurrent, mapPut_mapPut]

theorem apply_thread_current (s : State) (t : Thread) : (Effect.thread s.cur (some t)).apply s = s.withCurrent t := rfl

theorem afterFlow_seq (f : Form) (s : State) (w : Thread) : afterFlow f s .seq (s.withCurrent w) = s.withCurrent (w.advance f.len s.cycle) := by
  unfold afterFlow
  rw [withCurrent_thread]
  change (Effect.thread (s.withCurrent w).cur _).apply _ = _
  rw [apply_thread_current, withCurrent_withCurrent]

theorem afterFlow_jump (f : Form) (s : State) (w : Thread) (pc : Word) :
    afterFlow f s (.jump pc) (s.withCurrent w) = s.withCurrent { w.setPc pc with lastIssue := s.cycle, waitSince := none } := by
  unfold afterFlow
  rw [withCurrent_thread]
  change (Effect.thread (s.withCurrent w).cur _).apply _ = _
  rw [apply_thread_current, withCurrent_withCurrent]

/-- The thread of the turn changed by its own rule. -/
theorem ends_modCur {s : State} {u : Thread} {f : Thread → Thread} {P : Unit → State → Prop} (h : P () (s.withCurrent (f u))) :
    Ends (modThread s.cur f) (s.withCurrent u) P := by
  refine ends_modThread (withCurrent_thread s u) ?_
  change P () ((Effect.thread (s.withCurrent u).cur _).apply _)
  rw [apply_thread_current, withCurrent_withCurrent]
  exact h

/-- A rule that only changes the thread's registers. -/
theorem issue_ran {f : Form} {s : State} {t : Thread} {g : Thread → Thread} {body : Nat → Thread → Act Flow}
    (h : CanIssue s t f.guard (f.uses t)) (hv : vectorsLegal f t) (h3 : f.core3 = true → roleOf s.cur = 3)
    (hb : body s.cur (t.issuing s) = (do modThread s.cur g; return .seq)) : issue f body s = .next (s.ran t f.len g) := by
  refine issue_eq h hv h3 ?_
  rw [hb]
  refine ends_bind (ends_modCur (ends_pure ?_))
  exact afterFlow_seq ..

/-- A jump. -/
theorem issue_jumped {f : Form} {s : State} {t : Thread} {g : Thread → Thread} {pc : Word} {body : Nat → Thread → Act Flow}
    (h : CanIssue s t f.guard (f.uses t)) (hv : vectorsLegal f t) (h3 : f.core3 = true → roleOf s.cur = 3)
    (hb : body s.cur (t.issuing s) = (do modThread s.cur g; return .jump pc)) : issue f body s = .next (s.jumped t pc g) := by
  refine issue_eq h hv h3 ?_
  rw [hb]
  refine ends_bind (ends_modCur (ends_pure ?_))
  exact afterFlow_jump ..

/-- A form without vector fields is legal in either mode. -/
theorem vectorsLegal_none {f : Form} {t : Thread} (h : f.vectors = []) (hs : f.short = false) : vectorsLegal f t := by
  simp [vectorsLegal, h, hs]

/-! ### Precise traps -/

/-- The action stops with `w`. -/
def StopsWith {α : Type} (a : Act α) (s : State) (w : Stop) : Prop := ∀ l, a ⟨s, l⟩ = .error w

theorem stops_bind {α β : Type} {a : Act α} {f : α → Act β} {s : State} {w : Stop} (h : StopsWith a s w) : StopsWith (a >>= f) s w := by
  intro l
  change (StateT.bind a f) ⟨s, l⟩ = _
  simp [StateT.bind, h l, bind, Except.bind]

theorem stops_after {α β : Type} {a : Act α} {f : α → Act β} {s : State} {w : Stop} (h : Ends a s (fun r t => StopsWith (f r) t w)) : StopsWith (a >>= f) s w := by
  intro l
  obtain ⟨r, m, h1, h2⟩ := h l
  change (StateT.bind a f) ⟨s, l⟩ = _
  simp only [StateT.bind, h1, bind, Except.bind]
  exact h2 _

theorem stops_stop {α : Type} {s : State} {w : Stop} : StopsWith (stop w : Act α) s w := fun _ => rfl

/-- An instruction whose own rule raises a precise trap enters the trap, and nothing else of it takes effect (R144, R145). -/
theorem issue_trap {f : Form} {body : Nat → Thread → Act Flow} {s : State} {t : Thread} {r : TrapReq}
    (h : CanIssue s t f.guard (f.uses t)) (hv : vectorsLegal f t) (h3 : f.core3 = true → roleOf s.cur = 3)
    (hb : StopsWith (body s.cur (t.issuing s)) (s.withCurrent (t.issuing s)) (.trap r)) : issue f body s = commit "TRAP_ENTRY" (enterTrap s.cur r false) s := by
  have hp : StopsWith (plan f body) s (.trap r) := by
    unfold plan
    refine stops_after (ends_look ?_)
    refine stops_after (ends_current h.thread ?_)
    simp only [h.active, h.turn, ne_eq, not_true_eq_false]
    simp only [h.inRotation, Bool.false_eq_true, if_false]
    rw [vectorsLegal] at hv; simp only [hv, Bool.false_eq_true, if_false]
    refine stops_after (ends_clear h.guardFree ?_)
    simp only [h.guardTrue, Bool.not_true, Bool.false_eq_true, if_false]
    refine stops_after (ends_clear h.usesFree ?_)
    have hc : (f.core3 && decide (roleOf s.cur ≠ 3)) = false := by
      cases h' : f.core3
      · rfl
      · simp [h3 h']
    simp only [hc, Bool.false_eq_true, if_false]
    exact stops_after (ends_emit (stops_bind hb))
  simp only [issue, Act.from, hp []]

/-! ### Guard false -/

/-- An instruction whose guard is false only moves the PC (R21). -/
theorem issue_skipped {f : Form} {body : Nat → Thread → Act Flow} {s : State} {t : Thread} (h : HasTurn s t) (hv : vectorsLegal f t)
    (hg : t.free (touchP f.guard.p)) (hf : guardHolds f.guard t = false) :
    issue f body s = .next (s.withCurrent { t.ticked.advance f.len s.cycle with word := s.insn }) := by
  have hp : Ends (plan f body) s (fun _ v => v = s.withCurrent { t.ticked.advance f.len s.cycle with word := s.insn }) := by
    unfold plan
    refine ends_look_bind (ends_bind (ends_current h.thread ?_))
    simp only [h.active, h.turn, ne_eq, not_true_eq_false]
    simp only [h.inRotation, Bool.false_eq_true, if_false]
    rw [vectorsLegal] at hv; simp only [hv, Bool.false_eq_true, if_false]
    refine ends_bind (ends_clear hg ?_)
    simp only [hf, Bool.not_false, if_true]
    exact ends_emit rfl
  obtain ⟨r, m, h1, h2⟩ := hp []
  rw [List.append_nil] at h1
  simp only [issue, Act.from, h1, h2]

end Sys2Proof.Machine
end

