-- ==== Sys2Proof/Laws/PerInstr.lean ====
section
/-!
SUPPORT. One lemma per instruction about its encoding: bit 0 of its first halfword tells its length (R14).
-/

namespace Sys2Proof.Laws.Encodes

/-- The encoding of an instruction, where it has one, is as long as bit 0 of its first halfword says: 1 for a 32-bit word, 0 for a 16-bit one (R14). -/
def Statement (i : Instr) : Prop :=
  match encode i with
  | some (.word x) => x.getLsbD 0 = true
  | some (.half x) => x.getLsbD 0 = false
  | none => True

theorem word_low {n : Nat} (x : BitVec n) (y : BitVec 7) (h : y.getLsbD 0 = true) : (x ++ y).getLsbD 0 = true := by
  rw [BitVec.getLsbD_append]
  simpa using h

theorem half_low {n : Nat} (x : BitVec n) : (x ++ 0#1).getLsbD 0 = false := by
  rw [BitVec.getLsbD_append]
  rfl

theorem exti (x : BitVec 3) (imm : BitVec 20) : Statement (.exti x imm) := word_low _ _ rfl
theorem exts (a : BitVec 4) (x : BitVec 3) (imm : BitVec 16) : Statement (.exts a x imm) := word_low _ _ rfl
theorem extsh (x : BitVec 3) (imm : BitVec 20) : Statement (.extsh x imm) := word_low _ _ rfl
theorem move (d : BitVec 4) (x : BitVec 3) : Statement (.move d x) := word_low _ _ rfl
theorem add (gd : Guard) (d : BitVec 4) (a : BitVec 4) (b : BitVec 4) : Statement (.add gd d a b) := word_low _ _ rfl
theorem sub (gd : Guard) (d : BitVec 4) (a : BitVec 4) (b : BitVec 4) : Statement (.sub gd d a b) := word_low _ _ rfl
theorem mul (gd : Guard) (d : BitVec 4) (a : BitVec 4) (b : BitVec 4) : Statement (.mul gd d a b) := word_low _ _ rfl
theorem mulh (gd : Guard) (d : BitVec 4) (a : BitVec 4) (b : BitVec 4) : Statement (.mulh gd d a b) := word_low _ _ rfl
theorem mulhn (gd : Guard) (d : BitVec 4) (a : BitVec 4) (b : BitVec 4) : Statement (.mulhn gd d a b) := word_low _ _ rfl
theorem div (gd : Guard) (d : BitVec 4) (a : BitVec 4) (b : BitVec 4) : Statement (.div gd d a b) := word_low _ _ rfl
theorem divn (gd : Guard) (d : BitVec 4) (a : BitVec 4) (b : BitVec 4) : Statement (.divn gd d a b) := word_low _ _ rfl
theorem rem (gd : Guard) (d : BitVec 4) (a : BitVec 4) (b : BitVec 4) : Statement (.rem gd d a b) := word_low _ _ rfl
theorem remn (gd : Guard) (d : BitVec 4) (a : BitVec 4) (b : BitVec 4) : Statement (.remn gd d a b) := word_low _ _ rfl
theorem and (gd : Guard) (d : BitVec 4) (a : BitVec 4) (b : BitVec 4) : Statement (.and gd d a b) := word_low _ _ rfl
theorem or (gd : Guard) (d : BitVec 4) (a : BitVec 4) (b : BitVec 4) : Statement (.or gd d a b) := word_low _ _ rfl
theorem xor (gd : Guard) (d : BitVec 4) (a : BitVec 4) (b : BitVec 4) : Statement (.xor gd d a b) := word_low _ _ rfl
theorem andn (gd : Guard) (d : BitVec 4) (a : BitVec 4) (b : BitVec 4) : Statement (.andn gd d a b) := word_low _ _ rfl
theorem shl (gd : Guard) (d : BitVec 4) (a : BitVec 4) (b : BitVec 4) : Statement (.shl gd d a b) := word_low _ _ rfl
theorem shr (gd : Guard) (d : BitVec 4) (a : BitVec 4) (b : BitVec 4) : Statement (.shr gd d a b) := word_low _ _ rfl
theorem sar (gd : Guard) (d : BitVec 4) (a : BitVec 4) (b : BitVec 4) : Statement (.sar gd d a b) := word_low _ _ rfl
theorem rol (gd : Guard) (d : BitVec 4) (a : BitVec 4) (b : BitVec 4) : Statement (.rol gd d a b) := word_low _ _ rfl
theorem min (gd : Guard) (d : BitVec 4) (a : BitVec 4) (b : BitVec 4) : Statement (.min gd d a b) := word_low _ _ rfl
theorem max (gd : Guard) (d : BitVec 4) (a : BitVec 4) (b : BitVec 4) : Statement (.max gd d a b) := word_low _ _ rfl
theorem minn (gd : Guard) (d : BitVec 4) (a : BitVec 4) (b : BitVec 4) : Statement (.minn gd d a b) := word_low _ _ rfl
theorem maxn (gd : Guard) (d : BitVec 4) (a : BitVec 4) (b : BitVec 4) : Statement (.maxn gd d a b) := word_low _ _ rfl
theorem clz (gd : Guard) (d : BitVec 4) (a : BitVec 4) : Statement (.clz gd d a) := word_low _ _ rfl
theorem ctz (gd : Guard) (d : BitVec 4) (a : BitVec 4) : Statement (.ctz gd d a) := word_low _ _ rfl
theorem pop (gd : Guard) (d : BitVec 4) (a : BitVec 4) : Statement (.pop gd d a) := word_low _ _ rfl
theorem brev (gd : Guard) (d : BitVec 4) (a : BitVec 4) : Statement (.brev gd d a) := word_low _ _ rfl
theorem bswap (gd : Guard) (d : BitVec 4) (a : BitVec 4) : Statement (.bswap gd d a) := word_low _ _ rfl
theorem sel (gd : Guard) (d : BitVec 4) (a : BitVec 4) (b : BitVec 4) (k : BitVec 4) : Statement (.sel gd d a b k) := word_low _ _ rfl
theorem addi (gd : Guard) (d : BitVec 4) (a : BitVec 4) (imm : BitVec 12) : Statement (.addi gd d a imm) := word_low _ _ rfl
theorem andi (gd : Guard) (d : BitVec 4) (a : BitVec 4) (imm : BitVec 12) : Statement (.andi gd d a imm) := word_low _ _ rfl
theorem ori (gd : Guard) (d : BitVec 4) (a : BitVec 4) (imm : BitVec 12) : Statement (.ori gd d a imm) := word_low _ _ rfl
theorem xori (gd : Guard) (d : BitVec 4) (a : BitVec 4) (imm : BitVec 12) : Statement (.xori gd d a imm) := word_low _ _ rfl
theorem shli (gd : Guard) (d : BitVec 4) (a : BitVec 4) (imm : BitVec 8) : Statement (.shli gd d a imm) := word_low _ _ rfl
theorem shri (gd : Guard) (d : BitVec 4) (a : BitVec 4) (imm : BitVec 8) : Statement (.shri gd d a imm) := word_low _ _ rfl
theorem sari (gd : Guard) (d : BitVec 4) (a : BitVec 4) (imm : BitVec 8) : Statement (.sari gd d a imm) := word_low _ _ rfl
theorem roli (gd : Guard) (d : BitVec 4) (a : BitVec 4) (imm : BitVec 8) : Statement (.roli gd d a imm) := word_low _ _ rfl
theorem cmpi (gd : Guard) (d : BitVec 4) (a : BitVec 4) (cc : BitVec 4) (imm : BitVec 8) : Statement (.cmpi gd d a cc imm) := word_low _ _ rfl
theorem padd (gd : Guard) (d : BitVec 4) (a : BitVec 4) (b : BitVec 4) (w : BitVec 2) : Statement (.padd gd d a b w) := word_low _ _ rfl
theorem psub (gd : Guard) (d : BitVec 4) (a : BitVec 4) (b : BitVec 4) (w : BitVec 2) : Statement (.psub gd d a b w) := word_low _ _ rfl
theorem pmul (gd : Guard) (d : BitVec 4) (a : BitVec 4) (b : BitVec 4) (w : BitVec 2) : Statement (.pmul gd d a b w) := word_low _ _ rfl
theorem pmin (gd : Guard) (d : BitVec 4) (a : BitVec 4) (b : BitVec 4) (w : BitVec 2) (ns : BitVec 1) : Statement (.pmin gd d a b w ns) := word_low _ _ rfl
theorem pmax (gd : Guard) (d : BitVec 4) (a : BitVec 4) (b : BitVec 4) (w : BitVec 2) (ns : BitVec 1) : Statement (.pmax gd d a b w ns) := word_low _ _ rfl
theorem pshl (gd : Guard) (d : BitVec 4) (a : BitVec 4) (b : BitVec 4) (w : BitVec 2) (bc : BitVec 1) : Statement (.pshl gd d a b w bc) := word_low _ _ rfl
theorem pshr (gd : Guard) (d : BitVec 4) (a : BitVec 4) (b : BitVec 4) (w : BitVec 2) (bc : BitVec 1) : Statement (.pshr gd d a b w bc) := word_low _ _ rfl
theorem psar (gd : Guard) (d : BitVec 4) (a : BitVec 4) (b : BitVec 4) (w : BitVec 2) (bc : BitVec 1) : Statement (.psar gd d a b w bc) := word_low _ _ rfl
theorem cmp (gd : Guard) (d : BitVec 4) (a : BitVec 4) (b : BitVec 4) (cc : BitVec 4) : Statement (.cmp gd d a b cc) := word_low _ _ rfl
theorem pand (gd : Guard) (d : BitVec 4) (a : BitVec 4) (b : BitVec 4) : Statement (.pand gd d a b) := word_low _ _ rfl
theorem por (gd : Guard) (d : BitVec 4) (a : BitVec 4) (b : BitVec 4) : Statement (.por gd d a b) := word_low _ _ rfl
theorem pxor (gd : Guard) (d : BitVec 4) (a : BitVec 4) (b : BitVec 4) : Statement (.pxor gd d a b) := word_low _ _ rfl
theorem pnot (gd : Guard) (d : BitVec 4) (a : BitVec 4) : Statement (.pnot gd d a) := word_low _ _ rfl
theorem br (gd : Guard) (off : BitVec 20) : Statement (.br gd off) := word_low _ _ rfl
theorem jal (d : BitVec 4) (off : BitVec 20) : Statement (.jal d off) := word_low _ _ rfl
theorem jalr (d : BitVec 4) (a : BitVec 4) (off : BitVec 16) : Statement (.jalr d a off) := word_low _ _ rfl
theorem getc (gd : Guard) (d : BitVec 4) (imm : BitVec 12) : Statement (.getc gd d imm) := word_low _ _ rfl
theorem setc (gd : Guard) (d : BitVec 4) (imm : BitVec 12) : Statement (.setc gd d imm) := word_low _ _ rfl
theorem fence (gd : Guard) (sz : BitVec 3) : Statement (.fence gd sz) := word_low _ _ rfl
theorem fenceAcq (gd : Guard) (sz : BitVec 3) : Statement (.fenceAcq gd sz) := word_low _ _ rfl
theorem fenceRel (gd : Guard) (sz : BitVec 3) : Statement (.fenceRel gd sz) := word_low _ _ rfl
theorem fenceI (gd : Guard) : Statement (.fenceI gd) := word_low _ _ rfl
theorem trap (gd : Guard) (a : BitVec 4) : Statement (.trap gd a) := word_low _ _ rfl
theorem brk (gd : Guard) : Statement (.brk gd) := word_low _ _ rfl
theorem eret (gd : Guard) : Statement (.eret gd) := word_low _ _ rfl
theorem halt (gd : Guard) : Statement (.halt gd) := word_low _ _ rfl
theorem spawn (gd : Guard) (d : BitVec 4) (a : BitVec 4) (b : BitVec 4) : Statement (.spawn gd d a b) := word_low _ _ rfl
theorem spawnr (gd : Guard) (d : BitVec 4) (b : BitVec 4) : Statement (.spawnr gd d b) := word_low _ _ rfl
theorem quit (gd : Guard) : Statement (.quit gd) := word_low _ _ rfl
theorem park (gd : Guard) : Statement (.park gd) := word_low _ _ rfl
theorem wake (gd : Guard) (a : BitVec 4) : Statement (.wake gd a) := word_low _ _ rfl
theorem migrA (gd : Guard) (d : BitVec 4) (a : BitVec 4) : Statement (.migrA gd d a) := word_low _ _ rfl
theorem migrC (gd : Guard) (d : BitVec 4) (a : BitVec 4) : Statement (.migrC gd d a) := word_low _ _ rfl
theorem self (gd : Guard) (d : BitVec 4) (k : BitVec 4) : Statement (.self gd d k) := word_low _ _ rfl
theorem prio (gd : Guard) (a : BitVec 4) : Statement (.prio gd a) := word_low _ _ rfl
theorem barc (gd : Guard) : Statement (.barc gd) := word_low _ _ rfl
theorem barf (gd : Guard) : Statement (.barf gd) := word_low _ _ rfl
theorem baraCrew (gd : Guard) (d : BitVec 4) : Statement (.baraCrew gd d) := word_low _ _ rfl
theorem baraFlask (gd : Guard) (d : BitVec 4) : Statement (.baraFlask gd d) := word_low _ _ rfl
theorem barwCrew (gd : Guard) (a : BitVec 4) : Statement (.barwCrew gd a) := word_low _ _ rfl
theorem barwFlask (gd : Guard) (a : BitVec 4) : Statement (.barwFlask gd a) := word_low _ _ rfl
theorem fadd (gd : Guard) (d : BitVec 4) (a : BitVec 4) (b : BitVec 4) (t : BitVec 2) : Statement (.fadd gd d a b t) := word_low _ _ rfl
theorem fsub (gd : Guard) (d : BitVec 4) (a : BitVec 4) (b : BitVec 4) (t : BitVec 2) : Statement (.fsub gd d a b t) := word_low _ _ rfl
theorem fmul (gd : Guard) (d : BitVec 4) (a : BitVec 4) (b : BitVec 4) (t : BitVec 2) : Statement (.fmul gd d a b t) := word_low _ _ rfl
theorem ffma (gd : Guard) (d : BitVec 4) (a : BitVec 4) (b : BitVec 4) (t : BitVec 2) : Statement (.ffma gd d a b t) := word_low _ _ rfl
theorem fdiv (gd : Guard) (d : BitVec 4) (a : BitVec 4) (b : BitVec 4) (t : BitVec 2) : Statement (.fdiv gd d a b t) := word_low _ _ rfl
theorem fsqrt (gd : Guard) (d : BitVec 4) (a : BitVec 4) (t : BitVec 2) : Statement (.fsqrt gd d a t) := word_low _ _ rfl
theorem fmin (gd : Guard) (d : BitVec 4) (a : BitVec 4) (b : BitVec 4) (t : BitVec 2) : Statement (.fmin gd d a b t) := word_low _ _ rfl
theorem fmax (gd : Guard) (d : BitVec 4) (a : BitVec 4) (b : BitVec 4) (t : BitVec 2) : Statement (.fmax gd d a b t) := word_low _ _ rfl
theorem fcmp (gd : Guard) (d : BitVec 4) (a : BitVec 4) (b : BitVec 4) (t : BitVec 2) (cc : BitVec 2) : Statement (.fcmp gd d a b t cc) := word_low _ _ rfl
theorem cvt (gd : Guard) (d : BitVec 4) (a : BitVec 4) (b : BitVec 4) (dc : BitVec 4) (fn : BitVec 4) : Statement (.cvt gd d a b dc fn) := word_low _ _ rfl
theorem fclass (gd : Guard) (d : BitVec 4) (a : BitVec 4) (fn : BitVec 8) : Statement (.fclass gd d a fn) := word_low _ _ rfl
theorem ld (gd : Guard) (d : BitVec 4) (a : BitVec 4) (off : BitVec 4) (sz : BitVec 2) (ord : BitVec 1) (la : BitVec 4) : Statement (.ld gd d a off sz ord la) := word_low _ _ rfl
theorem ldSigned (gd : Guard) (d : BitVec 4) (a : BitVec 4) (off : BitVec 4) (sz : BitVec 2) (ord : BitVec 1) (la : BitVec 4) : Statement (.ldSigned gd d a off sz ord la) := word_low _ _ rfl
theorem ldp (gd : Guard) (d : BitVec 4) (a : BitVec 4) (off : BitVec 4) (ord : BitVec 1) (la : BitVec 4) : Statement (.ldp gd d a off ord la) := word_low _ _ rfl
theorem st (gd : Guard) (d : BitVec 4) (a : BitVec 4) (off : BitVec 4) (sz : BitVec 2) (ord : BitVec 1) (la : BitVec 4) : Statement (.st gd d a off sz ord la) := word_low _ _ rfl
theorem ldw (gd : Guard) (d : BitVec 4) (a : BitVec 4) (off : BitVec 4) (ord : BitVec 2) (la : BitVec 4) : Statement (.ldw gd d a off ord la) := word_low _ _ rfl
theorem ldc (gd : Guard) (d : BitVec 4) (a : BitVec 4) (off : BitVec 4) (ord : BitVec 2) (la : BitVec 4) : Statement (.ldc gd d a off ord la) := word_low _ _ rfl
theorem ldxW (gd : Guard) (d : BitVec 4) (a : BitVec 4) (pf : BitVec 4) (ord : BitVec 2) (la : BitVec 4) : Statement (.ldxW gd d a pf ord la) := word_low _ _ rfl
theorem ldxC (gd : Guard) (d : BitVec 4) (a : BitVec 4) (pf : BitVec 4) (ord : BitVec 2) (la : BitVec 4) : Statement (.ldxC gd d a pf ord la) := word_low _ _ rfl
theorem stf (gd : Guard) (d : BitVec 4) (a : BitVec 4) (off : BitVec 4) (ord : BitVec 2) (la : BitVec 4) : Statement (.stf gd d a off ord la) := word_low _ _ rfl
theorem stfx (gd : Guard) (d : BitVec 4) (a : BitVec 4) (pf : BitVec 4) (ord : BitVec 2) (la : BitVec 4) : Statement (.stfx gd d a pf ord la) := word_low _ _ rfl
theorem stff (gd : Guard) (d : BitVec 4) (a : BitVec 4) (off : BitVec 4) (ord : BitVec 2) (la : BitVec 4) : Statement (.stff gd d a off ord la) := word_low _ _ rfl
theorem amoAdd (gd : Guard) (d : BitVec 4) (a : BitVec 4) (b : BitVec 4) (la : BitVec 4) : Statement (.amoAdd gd d a b la) := word_low _ _ rfl
theorem amoAnd (gd : Guard) (d : BitVec 4) (a : BitVec 4) (b : BitVec 4) (la : BitVec 4) : Statement (.amoAnd gd d a b la) := word_low _ _ rfl
theorem amoOr (gd : Guard) (d : BitVec 4) (a : BitVec 4) (b : BitVec 4) (la : BitVec 4) : Statement (.amoOr gd d a b la) := word_low _ _ rfl
theorem amoXor (gd : Guard) (d : BitVec 4) (a : BitVec 4) (b : BitVec 4) (la : BitVec 4) : Statement (.amoXor gd d a b la) := word_low _ _ rfl
theorem amoMin (gd : Guard) (d : BitVec 4) (a : BitVec 4) (b : BitVec 4) (la : BitVec 4) : Statement (.amoMin gd d a b la) := word_low _ _ rfl
theorem amoMax (gd : Guard) (d : BitVec 4) (a : BitVec 4) (b : BitVec 4) (la : BitVec 4) : Statement (.amoMax gd d a b la) := word_low _ _ rfl
theorem amoMinn (gd : Guard) (d : BitVec 4) (a : BitVec 4) (b : BitVec 4) (la : BitVec 4) : Statement (.amoMinn gd d a b la) := word_low _ _ rfl
theorem amoMaxn (gd : Guard) (d : BitVec 4) (a : BitVec 4) (b : BitVec 4) (la : BitVec 4) : Statement (.amoMaxn gd d a b la) := word_low _ _ rfl
theorem amoSwap (gd : Guard) (d : BitVec 4) (a : BitVec 4) (b : BitVec 4) (la : BitVec 4) : Statement (.amoSwap gd d a b la) := word_low _ _ rfl
theorem amoCas (gd : Guard) (d : BitVec 4) (a : BitVec 4) (b : BitVec 4) (la : BitVec 4) : Statement (.amoCas gd d a b la) := word_low _ _ rfl
theorem amoFaddF32 (gd : Guard) (d : BitVec 4) (a : BitVec 4) (b : BitVec 4) (la : BitVec 4) : Statement (.amoFaddF32 gd d a b la) := word_low _ _ rfl
theorem amoFaddBf16 (gd : Guard) (d : BitVec 4) (a : BitVec 4) (b : BitVec 4) (la : BitVec 4) : Statement (.amoFaddBf16 gd d a b la) := word_low _ _ rfl
theorem amoOrdAdd (gd : Guard) (d : BitVec 4) (a : BitVec 4) (b : BitVec 4) (la : BitVec 4) : Statement (.amoOrdAdd gd d a b la) := word_low _ _ rfl
theorem amoOrdFadd (gd : Guard) (d : BitVec 4) (a : BitVec 4) (b : BitVec 4) (la : BitVec 4) : Statement (.amoOrdFadd gd d a b la) := word_low _ _ rfl
theorem cctlPf (gd : Guard) (a : BitVec 4) (la : BitVec 4) : Statement (.cctlPf gd a la) := word_low _ _ rfl
theorem cctlPfs (gd : Guard) (a : BitVec 4) (la : BitVec 4) : Statement (.cctlPfs gd a la) := word_low _ _ rfl
theorem cctlInv (gd : Guard) (a : BitVec 4) (la : BitVec 4) : Statement (.cctlInv gd a la) := word_low _ _ rfl
theorem cctlInva (gd : Guard) (la : BitVec 4) : Statement (.cctlInva gd la) := word_low _ _ rfl
theorem cctlTinv (gd : Guard) (a : BitVec 4) (b : BitVec 4) (la : BitVec 4) : Statement (.cctlTinv gd a b la) := word_low _ _ rfl
theorem cctlTinvc (gd : Guard) (b : BitVec 4) (la : BitVec 4) : Statement (.cctlTinvc gd b la) := word_low _ _ rfl
theorem feset (gd : Guard) (a : BitVec 4) (la : BitVec 4) : Statement (.feset gd a la) := word_low _ _ rfl
theorem feclr (gd : Guard) (a : BitVec 4) (la : BitVec 4) : Statement (.feclr gd a la) := word_low _ _ rfl
theorem fetest (gd : Guard) (d : BitVec 4) (a : BitVec 4) (la : BitVec 4) : Statement (.fetest gd d a la) := word_low _ _ rfl
theorem rmsg (gd : Guard) (a : BitVec 4) (b : BitVec 4) (la : BitVec 4) : Statement (.rmsg gd a b la) := word_low _ _ rfl
theorem rmsgSeq (gd : Guard) (a : BitVec 4) (b : BitVec 4) (la : BitVec 4) : Statement (.rmsgSeq gd a b la) := word_low _ _ rfl
theorem vadd (gd : Guard) (d : BitVec 4) (a : BitVec 4) (b : BitVec 4) (w : BitVec 2) : Statement (.vadd gd d a b w) := word_low _ _ rfl
theorem vsub (gd : Guard) (d : BitVec 4) (a : BitVec 4) (b : BitVec 4) (w : BitVec 2) : Statement (.vsub gd d a b w) := word_low _ _ rfl
theorem vmul (gd : Guard) (d : BitVec 4) (a : BitVec 4) (b : BitVec 4) (w : BitVec 2) : Statement (.vmul gd d a b w) := word_low _ _ rfl
theorem vminI (gd : Guard) (d : BitVec 4) (a : BitVec 4) (b : BitVec 4) (w : BitVec 2) : Statement (.vminI gd d a b w) := word_low _ _ rfl
theorem vmaxI (gd : Guard) (d : BitVec 4) (a : BitVec 4) (b : BitVec 4) (w : BitVec 2) : Statement (.vmaxI gd d a b w) := word_low _ _ rfl
theorem vminN (gd : Guard) (d : BitVec 4) (a : BitVec 4) (b : BitVec 4) (w : BitVec 2) : Statement (.vminN gd d a b w) := word_low _ _ rfl
theorem vmaxN (gd : Guard) (d : BitVec 4) (a : BitVec 4) (b : BitVec 4) (w : BitVec 2) : Statement (.vmaxN gd d a b w) := word_low _ _ rfl
theorem vand (gd : Guard) (d : BitVec 4) (a : BitVec 4) (b : BitVec 4) (w : BitVec 2) : Statement (.vand gd d a b w) := word_low _ _ rfl
theorem vor (gd : Guard) (d : BitVec 4) (a : BitVec 4) (b : BitVec 4) (w : BitVec 2) : Statement (.vor gd d a b w) := word_low _ _ rfl
theorem vxor (gd : Guard) (d : BitVec 4) (a : BitVec 4) (b : BitVec 4) (w : BitVec 2) : Statement (.vxor gd d a b w) := word_low _ _ rfl
theorem vshl (gd : Guard) (d : BitVec 4) (a : BitVec 4) (b : BitVec 4) (w : BitVec 2) : Statement (.vshl gd d a b w) := word_low _ _ rfl
theorem vshr (gd : Guard) (d : BitVec 4) (a : BitVec 4) (b : BitVec 4) (w : BitVec 2) : Statement (.vshr gd d a b w) := word_low _ _ rfl
theorem vsar (gd : Guard) (d : BitVec 4) (a : BitVec 4) (b : BitVec 4) (w : BitVec 2) : Statement (.vsar gd d a b w) := word_low _ _ rfl
theorem vsel (gd : Guard) (d : BitVec 4) (a : BitVec 4) (b : BitVec 4) (w : BitVec 2) : Statement (.vsel gd d a b w) := word_low _ _ rfl
theorem vcmp (gd : Guard) (d : BitVec 4) (a : BitVec 4) (b : BitVec 4) (w : BitVec 2) (cc : BitVec 4) : Statement (.vcmp gd d a b w cc) := word_low _ _ rfl
theorem vfadd (gd : Guard) (d : BitVec 4) (a : BitVec 4) (b : BitVec 4) (t : BitVec 2) : Statement (.vfadd gd d a b t) := word_low _ _ rfl
theorem vfsub (gd : Guard) (d : BitVec 4) (a : BitVec 4) (b : BitVec 4) (t : BitVec 2) : Statement (.vfsub gd d a b t) := word_low _ _ rfl
theorem vfmul (gd : Guard) (d : BitVec 4) (a : BitVec 4) (b : BitVec 4) (t : BitVec 2) : Statement (.vfmul gd d a b t) := word_low _ _ rfl
theorem vffma (gd : Guard) (d : BitVec 4) (a : BitVec 4) (b : BitVec 4) (t : BitVec 2) : Statement (.vffma gd d a b t) := word_low _ _ rfl
theorem vfdiv (gd : Guard) (d : BitVec 4) (a : BitVec 4) (b : BitVec 4) (t : BitVec 2) : Statement (.vfdiv gd d a b t) := word_low _ _ rfl
theorem vfsqrt (gd : Guard) (d : BitVec 4) (a : BitVec 4) (t : BitVec 2) : Statement (.vfsqrt gd d a t) := word_low _ _ rfl
theorem vfmin (gd : Guard) (d : BitVec 4) (a : BitVec 4) (b : BitVec 4) (t : BitVec 2) : Statement (.vfmin gd d a b t) := word_low _ _ rfl
theorem vfmax (gd : Guard) (d : BitVec 4) (a : BitVec 4) (b : BitVec 4) (t : BitVec 2) : Statement (.vfmax gd d a b t) := word_low _ _ rfl
theorem vfcmp (gd : Guard) (d : BitVec 4) (a : BitVec 4) (b : BitVec 4) (t : BitVec 2) (cc : BitVec 2) : Statement (.vfcmp gd d a b t cc) := word_low _ _ rfl
theorem vld (gd : Guard) (d : BitVec 4) (a : BitVec 4) (la : BitVec 4) : Statement (.vld gd d a la) := word_low _ _ rfl
theorem vst (gd : Guard) (d : BitVec 4) (a : BitVec 4) (la : BitVec 4) : Statement (.vst gd d a la) := word_low _ _ rfl
theorem vlds (gd : Guard) (d : BitVec 4) (a : BitVec 4) (b : BitVec 4) (fn : BitVec 4) (la : BitVec 4) : Statement (.vlds gd d a b fn la) := word_low _ _ rfl
theorem vgath (gd : Guard) (d : BitVec 4) (a : BitVec 4) (b : BitVec 4) (fn : BitVec 4) (la : BitVec 4) : Statement (.vgath gd d a b fn la) := word_low _ _ rfl
theorem vscat (gd : Guard) (d : BitVec 4) (a : BitVec 4) (b : BitVec 4) (fn : BitVec 4) (la : BitVec 4) : Statement (.vscat gd d a b fn la) := word_low _ _ rfl
theorem vlong (gd : Guard) (d : BitVec 4) : Statement (.vlong gd d) := word_low _ _ rfl
theorem vshort (gd : Guard) : Statement (.vshort gd) := word_low _ _ rfl
theorem vfnExp2 (gd : Guard) (d : BitVec 4) (a : BitVec 4) (t : BitVec 4) : Statement (.vfnExp2 gd d a t) := word_low _ _ rfl
theorem vfnLog2 (gd : Guard) (d : BitVec 4) (a : BitVec 4) (t : BitVec 4) : Statement (.vfnLog2 gd d a t) := word_low _ _ rfl
theorem vfnRcp (gd : Guard) (d : BitVec 4) (a : BitVec 4) (t : BitVec 4) : Statement (.vfnRcp gd d a t) := word_low _ _ rfl
theorem vfnRsq (gd : Guard) (d : BitVec 4) (a : BitVec 4) (t : BitVec 4) : Statement (.vfnRsq gd d a t) := word_low _ _ rfl
theorem vfnSin (gd : Guard) (d : BitVec 4) (a : BitVec 4) (t : BitVec 4) : Statement (.vfnSin gd d a t) := word_low _ _ rfl
theorem vfnCos (gd : Guard) (d : BitVec 4) (a : BitVec 4) (t : BitVec 4) : Statement (.vfnCos gd d a t) := word_low _ _ rfl
theorem coefld (gd : Guard) (a : BitVec 4) (b : BitVec 4) (la : BitVec 4) : Statement (.coefld gd a b la) := word_low _ _ rfl
theorem vredAdd (gd : Guard) (d : BitVec 4) (a : BitVec 4) (dc : BitVec 4) : Statement (.vredAdd gd d a dc) := word_low _ _ rfl
theorem vredMinI (gd : Guard) (d : BitVec 4) (a : BitVec 4) (dc : BitVec 4) : Statement (.vredMinI gd d a dc) := word_low _ _ rfl
theorem vredMaxI (gd : Guard) (d : BitVec 4) (a : BitVec 4) (dc : BitVec 4) : Statement (.vredMaxI gd d a dc) := word_low _ _ rfl
theorem vredMinN (gd : Guard) (d : BitVec 4) (a : BitVec 4) (dc : BitVec 4) : Statement (.vredMinN gd d a dc) := word_low _ _ rfl
theorem vredMaxN (gd : Guard) (d : BitVec 4) (a : BitVec 4) (dc : BitVec 4) : Statement (.vredMaxN gd d a dc) := word_low _ _ rfl
theorem vredFadd (gd : Guard) (d : BitVec 4) (a : BitVec 4) (dc : BitVec 4) : Statement (.vredFadd gd d a dc) := word_low _ _ rfl
theorem vredFmin (gd : Guard) (d : BitVec 4) (a : BitVec 4) (dc : BitVec 4) : Statement (.vredFmin gd d a dc) := word_low _ _ rfl
theorem vredFmax (gd : Guard) (d : BitVec 4) (a : BitVec 4) (dc : BitVec 4) : Statement (.vredFmax gd d a dc) := word_low _ _ rfl
theorem vbcast (gd : Guard) (d : BitVec 4) (a : BitVec 4) (w : BitVec 2) : Statement (.vbcast gd d a w) := word_low _ _ rfl
theorem vperm (gd : Guard) (d : BitVec 4) (a : BitVec 4) (b : BitVec 4) (w : BitVec 2) : Statement (.vperm gd d a b w) := word_low _ _ rfl
theorem mls (gd : Guard) (d : BitVec 4) (a : BitVec 4) (b : BitVec 4) (la : BitVec 4) : Statement (.mls gd d a b la) := word_low _ _ rfl
theorem mlss (gd : Guard) (d : BitVec 4) (a : BitVec 4) (b : BitVec 4) (la : BitVec 4) : Statement (.mlss gd d a b la) := word_low _ _ rfl
theorem mma (gd : Guard) (d : BitVec 4) (a : BitVec 4) (b : BitVec 4) (la : BitVec 4) : Statement (.mma gd d a b la) := word_low _ _ rfl
theorem mmaM (gd : Guard) (d : BitVec 4) (a : BitVec 4) (b : BitVec 4) (la : BitVec 4) : Statement (.mmaM gd d a b la) := word_low _ _ rfl
theorem mmaz (gd : Guard) (d : BitVec 4) (a : BitVec 4) (b : BitVec 4) (la : BitVec 4) : Statement (.mmaz gd d a b la) := word_low _ _ rfl
theorem mmazM (gd : Guard) (d : BitVec 4) (a : BitVec 4) (b : BitVec 4) (la : BitVec 4) : Statement (.mmazM gd d a b la) := word_low _ _ rfl
theorem vprune48 (gd : Guard) (d : BitVec 4) (a : BitVec 4) (b : BitVec 4) (t : BitVec 2) : Statement (.vprune48 gd d a b t) := word_low _ _ rfl
theorem vsdot48 (gd : Guard) (d : BitVec 4) (a : BitVec 4) (b : BitVec 4) (t : BitVec 2) : Statement (.vsdot48 gd d a b t) := word_low _ _ rfl
theorem mswap (gd : Guard) (la : BitVec 4) : Statement (.mswap gd la) := word_low _ _ rfl
theorem mcfg (gd : Guard) (a : BitVec 4) (la : BitVec 4) : Statement (.mcfg gd a la) := word_low _ _ rfl
theorem mrd (gd : Guard) (d : BitVec 4) (a : BitVec 4) (b : BitVec 4) (la : BitVec 4) : Statement (.mrd gd d a b la) := word_low _ _ rfl
theorem mrdZ (gd : Guard) (d : BitVec 4) (a : BitVec 4) (b : BitVec 4) (la : BitVec 4) : Statement (.mrdZ gd d a b la) := word_low _ _ rfl
theorem mpop (gd : Guard) (d : BitVec 4) (a : BitVec 4) (la : BitVec 4) : Statement (.mpop gd d a la) := word_low _ _ rfl
theorem mdrain (gd : Guard) (la : BitVec 4) : Statement (.mdrain gd la) := word_low _ _ rfl
theorem mmon (gd : Guard) (d : BitVec 4) (k : BitVec 4) (la : BitVec 4) : Statement (.mmon gd d k la) := word_low _ _ rfl
theorem cpy (gd : Guard) (d : BitVec 4) (la : BitVec 4) : Statement (.cpy gd d la) := word_low _ _ rfl
theorem cpym (gd : Guard) (d : BitVec 4) (b : BitVec 4) (la : BitVec 4) : Statement (.cpym gd d b la) := word_low _ _ rfl
theorem cpyr (gd : Guard) (d : BitVec 4) (a : BitVec 4) (la : BitVec 4) : Statement (.cpyr gd d a la) := word_low _ _ rfl
theorem cnv (gd : Guard) (d : BitVec 4) (la : BitVec 4) : Statement (.cnv gd d la) := word_low _ _ rfl
theorem amaxrs (gd : Guard) (d : BitVec 4) (a : BitVec 4) (la : BitVec 4) : Statement (.amaxrs gd d a la) := word_low _ _ rfl
theorem sscan (gd : Guard) (d : BitVec 4) (a : BitVec 4) (b : BitVec 4) (la : BitVec 4) : Statement (.sscan gd d a b la) := word_low _ _ rfl
theorem semup (gd : Guard) (b : BitVec 4) (k : BitVec 4) : Statement (.semup gd b k) := word_low _ _ rfl
theorem semdn (gd : Guard) (d : BitVec 4) (k : BitVec 4) : Statement (.semdn gd d k) := word_low _ _ rfl
theorem semw (gd : Guard) (k : BitVec 4) : Statement (.semw gd k) := word_low _ _ rfl
theorem qpush (gd : Guard) (d : BitVec 4) (b : BitVec 4) (q : BitVec 4) : Statement (.qpush gd d b q) := word_low _ _ rfl
theorem qpop (gd : Guard) (d : BitVec 4) (b : BitVec 4) (q : BitVec 4) : Statement (.qpop gd d b q) := word_low _ _ rfl
theorem qpeek (gd : Guard) (d : BitVec 4) (b : BitVec 4) (q : BitVec 4) : Statement (.qpeek gd d b q) := word_low _ _ rfl
theorem wqask (gd : Guard) (a : BitVec 4) (b : BitVec 4) (la : BitVec 4) : Statement (.wqask gd a b la) := word_low _ _ rfl
theorem wqput (gd : Guard) (a : BitVec 4) (b : BitVec 4) (la : BitVec 4) : Statement (.wqput gd a b la) := word_low _ _ rfl
theorem launch (gd : Guard) (a : BitVec 4) (b : BitVec 4) (la : BitVec 4) : Statement (.launch gd a b la) := word_low _ _ rfl
theorem jobsig (gd : Guard) (d : BitVec 4) (a : BitVec 4) (b : BitVec 4) (la : BitVec 4) : Statement (.jobsig gd d a b la) := word_low _ _ rfl
theorem cyc (gd : Guard) (d : BitVec 4) (k : BitVec 4) : Statement (.cyc gd d k) := word_low _ _ rfl
theorem tfenceOpen (gd : Guard) : Statement (.tfenceOpen gd) := word_low _ _ rfl
theorem tfenceClose (gd : Guard) (d : BitVec 4) : Statement (.tfenceClose gd d) := word_low _ _ rfl
theorem digest (gd : Guard) (d : BitVec 4) (a : BitVec 4) (b : BitVec 4) (la : BitVec 4) : Statement (.digest gd d a b la) := word_low _ _ rfl
theorem stepb (gd : Guard) (d : BitVec 4) (a : BitVec 4) (b : BitVec 4) (la : BitVec 4) : Statement (.stepb gd d a b la) := word_low _ _ rfl
theorem rlinit (gd : Guard) (a : BitVec 4) (b : BitVec 4) (la : BitVec 4) : Statement (.rlinit gd a b la) := word_low _ _ rfl
theorem rlins (gd : Guard) (d : BitVec 4) (a : BitVec 4) (b : BitVec 4) (la : BitVec 4) : Statement (.rlins gd d a b la) := word_low _ _ rfl
theorem rlget (gd : Guard) (d : BitVec 4) (a : BitVec 4) (b : BitVec 4) (la : BitVec 4) : Statement (.rlget gd d a b la) := word_low _ _ rfl
theorem rlstat (gd : Guard) (d : BitVec 4) (a : BitVec 4) (k : BitVec 4) (la : BitVec 4) : Statement (.rlstat gd d a k la) := word_low _ _ rfl
theorem rlfin (gd : Guard) (d : BitVec 4) (a : BitVec 4) (la : BitVec 4) : Statement (.rlfin gd d a la) := word_low _ _ rfl
theorem trvgo (gd : Guard) (d : BitVec 4) (a : BitVec 4) (b : BitVec 4) (la : BitVec 4) : Statement (.trvgo gd d a b la) := word_low _ _ rfl
theorem trvbud (gd : Guard) (a : BitVec 4) (b : BitVec 4) (la : BitVec 4) : Statement (.trvbud gd a b la) := word_low _ _ rfl
theorem tri (gd : Guard) (d : BitVec 4) (a : BitVec 4) (b : BitVec 4) (pf : BitVec 4) : Statement (.tri gd d a b pf) := word_low _ _ rfl
theorem splat (gd : Guard) (d : BitVec 4) (a : BitVec 4) (b : BitVec 4) (pf : BitVec 4) : Statement (.splat gd d a b pf) := word_low _ _ rfl
theorem volseg (gd : Guard) (d : BitVec 4) (a : BitVec 4) (b : BitVec 4) (pf : BitVec 4) : Statement (.volseg gd d a b pf) := word_low _ _ rfl
theorem dkl (gd : Guard) (d : BitVec 4) (a : BitVec 4) (b : BitVec 4) (pf : BitVec 4) : Statement (.dkl gd d a b pf) := word_low _ _ rfl
theorem gctx (gd : Guard) (a : BitVec 4) (b : BitVec 4) (la : BitVec 4) : Statement (.gctx gd a b la) := word_low _ _ rfl
theorem rastri (gd : Guard) (b : BitVec 4) (la : BitVec 4) : Statement (.rastri gd b la) := word_low _ _ rfl
theorem rasfrag (gd : Guard) (d : BitVec 4) (b : BitVec 4) (la : BitVec 4) : Statement (.rasfrag gd d b la) := word_low _ _ rfl
theorem blend (gd : Guard) (a : BitVec 4) (b : BitVec 4) (la : BitVec 4) : Statement (.blend gd a b la) := word_low _ _ rfl
theorem texs (gd : Guard) (d : BitVec 4) (a : BitVec 4) (b : BitVec 4) (la : BitVec 4) : Statement (.texs gd d a b la) := word_low _ _ rfl
theorem texl (gd : Guard) (d : BitVec 4) (a : BitVec 4) (b : BitVec 4) (la : BitVec 4) : Statement (.texl gd d a b la) := word_low _ _ rfl
theorem surfrel (gd : Guard) (a : BitVec 4) (la : BitVec 4) : Statement (.surfrel gd a la) := word_low _ _ rfl
theorem surfacq (gd : Guard) (a : BitVec 4) (la : BitVec 4) : Statement (.surfacq gd a la) := word_low _ _ rfl
theorem cMov (d : BitVec 4) (a : BitVec 4) : Statement (.cMov d a) := half_low _
theorem cAdd (d : BitVec 4) (a : BitVec 4) : Statement (.cAdd d a) := half_low _
theorem cSub (d : BitVec 4) (a : BitVec 4) : Statement (.cSub d a) := half_low _
theorem cAddi (d : BitVec 4) (imm : BitVec 7) : Statement (.cAddi d imm) := half_low _
theorem cLdi (d : BitVec 4) (imm : BitVec 7) : Statement (.cLdi d imm) := half_low _
theorem cLd (d : BitVec 4) (a : BitVec 3) (off : BitVec 3) : Statement (.cLd d a off) := half_low _
theorem cSt (d : BitVec 4) (a : BitVec 3) (off : BitVec 3) : Statement (.cSt d a off) := half_low _
theorem cBr (pf : BitVec 4) (off : BitVec 7) : Statement (.cBr pf off) := half_low _
theorem cJ (off : BitVec 11) : Statement (.cJ off) := half_low _
theorem cCmp (d : BitVec 4) (a : BitVec 4) (cc : BitVec 3) : Statement (.cCmp d a cc) := half_low _
theorem cShli (d : BitVec 4) (imm : BitVec 7) : Statement (.cShli d imm) := half_low _
theorem cPush (d : BitVec 4) (k : BitVec 7) : Statement (.cPush d k) := half_low _
theorem cPop (d : BitVec 4) (k : BitVec 7) : Statement (.cPop d k) := half_low _
theorem cNop : Statement .cNop := rfl
theorem cYield : Statement .cYield := rfl
theorem cQuit : Statement .cQuit := rfl
theorem yield : Statement .yield := rfl
theorem yieldIf1 : Statement .yieldIf1 := rfl
theorem yieldIf2 : Statement .yieldIf2 := rfl
theorem yieldIf3 : Statement .yieldIf3 := rfl
theorem yieldIf4 : Statement .yieldIf4 := rfl
theorem yieldIf5 : Statement .yieldIf5 := rfl
theorem yieldIf6 : Statement .yieldIf6 := rfl
theorem yieldIf7 : Statement .yieldIf7 := rfl
theorem yieldIf8 : Statement .yieldIf8 := rfl
theorem yieldIf9 : Statement .yieldIf9 := rfl
theorem yieldIf10 : Statement .yieldIf10 := rfl
theorem yieldIf11 : Statement .yieldIf11 := rfl
theorem yieldIf12 : Statement .yieldIf12 := rfl
theorem yieldIf13 : Statement .yieldIf13 := rfl
theorem yieldIf14 : Statement .yieldIf14 := rfl
theorem yieldIf15 : Statement .yieldIf15 := rfl
theorem yieldUnless1 : Statement .yieldUnless1 := rfl
theorem yieldUnless2 : Statement .yieldUnless2 := rfl
theorem yieldUnless3 : Statement .yieldUnless3 := rfl
theorem yieldUnless4 : Statement .yieldUnless4 := rfl
theorem yieldUnless5 : Statement .yieldUnless5 := rfl
theorem yieldUnless6 : Statement .yieldUnless6 := rfl
theorem yieldUnless7 : Statement .yieldUnless7 := rfl
theorem yieldUnless8 : Statement .yieldUnless8 := rfl
theorem yieldUnless9 : Statement .yieldUnless9 := rfl
theorem yieldUnless10 : Statement .yieldUnless10 := rfl
theorem yieldUnless11 : Statement .yieldUnless11 := rfl
theorem yieldUnless12 : Statement .yieldUnless12 := rfl
theorem yieldUnless13 : Statement .yieldUnless13 := rfl
theorem yieldUnless14 : Statement .yieldUnless14 := rfl
theorem yieldUnless15 : Statement .yieldUnless15 := rfl
theorem requestArrival : Statement .requestArrival := trivial
theorem put : Statement .put := trivial
theorem writeback : Statement .writeback := trivial
theorem waitlimExpiry : Statement .waitlimExpiry := trivial
theorem withdraw : Statement .withdraw := trivial
theorem resend : Statement .resend := trivial
theorem trapEntry : Statement .trapEntry := trivial
theorem wakeArrival : Statement .wakeArrival := trivial
theorem migrationDeparture : Statement .migrationDeparture := trivial
theorem runQueueArrival : Statement .runQueueArrival := trivial
theorem runQueueEntry : Statement .runQueueEntry := trivial
theorem quitSlotEmpty : Statement .quitSlotEmpty := trivial
theorem messageArrival : Statement .messageArrival := trivial
theorem handlerStart : Statement .handlerStart := trivial
theorem resumeNone : Statement .resumeNone := trivial
theorem resumeReissue : Statement .resumeReissue := trivial
theorem resumeConvert : Statement .resumeConvert := trivial
theorem registerWrite : Statement .registerWrite := trivial
theorem engineAcceptance : Statement .engineAcceptance := trivial
theorem copyExecution : Statement .copyExecution := trivial
theorem conversionExecution : Statement .conversionExecution := trivial
theorem sscanExecution : Statement .sscanExecution := trivial
theorem arrayCommand : Statement .arrayCommand := trivial
theorem deckleRowCommand : Statement .deckleRowCommand := trivial
theorem packetTake : Statement .packetTake := trivial
theorem packetAcceptance : Statement .packetAcceptance := trivial
theorem flaskPlacement : Statement .flaskPlacement := trivial
theorem gridCompletion : Statement .gridCompletion := trivial
theorem wqaskArrival : Statement .wqaskArrival := trivial
theorem wqputArrival : Statement .wqputArrival := trivial
theorem timeSliceExpiry : Statement .timeSliceExpiry := trivial
theorem notifyWrite : Statement .notifyWrite := trivial
theorem hostApertureAccess : Statement .hostApertureAccess := trivial
theorem droopStretch : Statement .droopStretch := trivial
theorem detectorTrip : Statement .detectorTrip := trivial
theorem peerDigestArrival : Statement .peerDigestArrival := trivial
theorem memberTimeout : Statement .memberTimeout := trivial
theorem spill : Statement .spill := trivial
theorem restore : Statement .restore := trivial
theorem discard : Statement .discard := trivial
theorem watchdogExpiry : Statement .watchdogExpiry := trivial
theorem tileSparing : Statement .tileSparing := trivial
theorem couchPerform : Statement .couchPerform := trivial
theorem traversalBegin : Statement .traversalBegin := trivial
theorem nodeVisit : Statement .nodeVisit := trivial
theorem ringEntryWrite : Statement .ringEntryWrite := trivial
theorem rasterize : Statement .rasterize := trivial
theorem blendPerform : Statement .blendPerform := trivial
theorem linkTraining : Statement .linkTraining := trivial
theorem portFailure : Statement .portFailure := trivial
theorem powerOn : Statement .powerOn := trivial
theorem signedImage : Statement .signedImage := trivial
theorem attestationRequest : Statement .attestationRequest := trivial
theorem placeContextTable : Statement .placeContextTable := trivial
theorem placeFaultRing : Statement .placeFaultRing := trivial
theorem placeParkingArea : Statement .placeParkingArea := trivial
theorem placeQueueTable : Statement .placeQueueTable := trivial
theorem setTimeSlice : Statement .setTimeSlice := trivial
theorem placeSaveAreas : Statement .placeSaveAreas := trivial
theorem placeDecodeTable : Statement .placeDecodeTable := trivial
theorem assignFixedTimingTiles : Statement .assignFixedTimingTiles := trivial
theorem reserveFrameSlots : Statement .reserveFrameSlots := trivial
theorem setWdlim : Statement .setWdlim := trivial
theorem formReplicaGroup : Statement .formReplicaGroup := trivial
theorem setPeerTable : Statement .setPeerTable := trivial
theorem setContextDefaults : Statement .setContextDefaults := trivial
theorem setRunnerDefaults : Statement .setRunnerDefaults := trivial
theorem setPlacementList : Statement .setPlacementList := trivial
theorem fatalTrapReport : Statement .fatalTrapReport := trivial
theorem setPortMode : Statement .setPortMode := trivial
theorem setPowerCap : Statement .setPowerCap := trivial
theorem powerLimitExceeded : Statement .powerLimitExceeded := trivial
theorem temperatureExcursion : Statement .temperatureExcursion := trivial
theorem laneSparing : Statement .laneSparing := trivial
theorem slotStateError : Statement .slotStateError := trivial
theorem cxlMemAccess : Statement .cxlMemAccess := trivial
theorem notifyWindowRead : Statement .notifyWindowRead := trivial
theorem trayExcursion : Statement .trayExcursion := trivial

end Sys2Proof.Laws.Encodes
end

