-- ==== Sys2Proof/Tests/Slice0.lean ====
section
/-!
SUPPORT. Tests: terms that the well-formedness checks refuse, words of the spec that decode to their instructions, the first step after `withFetchWord`, and for every statement a concrete state and operands that meet its
hypotheses, clause by clause. A theorem `witness_X` is about `Obligations.X`: it states the hypotheses of each clause, and with most of them the conclusion there, whose expected values are worked out from the rules.
-/

namespace Sys2Proof.Tests

open Sys2Proof.Machine Sys2Proof.Claims

set_option Elab.async false

/-! ### States -/

/-- A thread of context 5 at 0x2000 with a detached slot of its own: small numbers, window addresses and floating values in its registers. -/
def thread : Thread := { freshThread 5 0 0 0x2000 with
  detached := true, p := 0x5A5B, trapvec := 0x9000, traprec := 0xFFFFFFFFF0A000
  s := #v[0, 5, 0xFFFFFFFFFFFFFFFB, 0xFFFFFFFFF00040, 64, 0x8000000000000000, 0xFFFFFFFFF00100, 7, 0x40490FDB, 0xFFFFFFFFF00200, 0x3FF0000000000000, 3, 0x0F0F0F0F, 0, 0xFFFFFFFFF00800, 0xFFFFFFFFF01000]
  e := #v[0xFFFFFFFFF02000, 0xFFFFFFFFF03000, 0x8, 0x10, 0xFFFFFFFFF04000, 1, 0, 0x18]
  v := #v[0, 0x3f8000004000000040400000c0000000bf80000000000000800000007f800000, 0x3f000000408000003f80000041200000c1200000000000007fc000003dcccccd, 0x0102030405060708090a0b0c0d0e0f101112131415161718191a1b1c1d1e1f20, 0, 0, 0, 0] }

/-- Reset with one thread in a slot, whose turn it is. -/
def one (k : Nat) (t : Thread) : State := { State.reset with threads := [(k, t)], cur := k, insn := 0x12345679, cycle := 1000, nextId := 50 }

/-- Slot 0 of core 3 of tile 0, slot 0 of core 0, and so on. -/
def core3 : State := one 96 thread
def core0 : State := one 0 thread
def core1 : State := one 32 thread
def core2 : State := one 64 thread

/-- An instruction or event gives this next state. -/
def gives (o : Step) (u : State) : Bool :=
  match o with
  | .next v => decide (v = u)
  | _ => false

/-- An instruction or event gives a next state with a property. -/
def after (o : Step) (p : State → Bool) : Bool :=
  match o with
  | .next u => p u
  | _ => false

/-- Two outcomes are the same next state. -/
def agree (a b : Step) : Bool :=
  match b with
  | .next u => gives a u
  | _ => false

/-- A thread of a state after a step has a property. -/
def threadIs (u : State) (k : Nat) (p : Thread → Bool) : Bool :=
  match u.thread? k with
  | some t => p t
  | none => false

/-- What `CanIssue` asks, evaluated. -/
def canB (s : State) (t : Thread) (gd : Guard) (x : Touch) : Bool :=
  decide (s.thread? s.cur = some t) && decide (t.status = .active) && decide (t.forfeits = 0) && !t.blocked && (t.violated (touchP gd.p)).isNone && !t.pending.meets (touchP gd.p)
    && guardHolds gd t && (t.violated x).isNone && !t.pending.meets x

theorem canIssue_of_canB {s : State} {t : Thread} {gd : Guard} {x : Touch} (h : canB s t gd x = true) : CanIssue s t gd x := by
  simp only [canB, Bool.and_eq_true, decide_eq_true_eq, Bool.not_eq_true', Option.isNone_iff_eq_none] at h
  obtain ⟨⟨⟨⟨⟨⟨⟨⟨h1, h2⟩, h3⟩, h4⟩, h5⟩, h6⟩, h7⟩, h8⟩, h9⟩ := h
  exact ⟨⟨h1, h2, h3, h4⟩, ⟨h5, h6⟩, h7, ⟨h8, h9⟩⟩

theorem turn_of {s : State} {t : Thread} (h1 : s.thread? s.cur = some t) (h2 : t.status = .active ∧ t.forfeits = 0 ∧ t.blocked = false) : HasTurn s t := ⟨h1, h2.1, h2.2.1, h2.2.2⟩

/-- An instruction traps precisely, evaluated. -/
def trapsB (s : State) (t : Thread) (i : Instr) (c : Cause) (addr : Word) : Bool :=
  agree (exec i s) (commit "TRAP_ENTRY" (enterTrap s.cur (preciseTrap t s.insn c addr) false) s)

/-- The state is in canonical form, evaluated. -/
def canonicalB (s : State) : Bool :=
  [Memory.wf s.mem, keysRise s.empties, keysRise s.bad, keysRise s.old, keysRise s.threads, keysRise s.starts, keysRise s.tiles, keysRise s.accs, keysRise s.cores, keysRise s.clusters, keysRise s.dies, keysRise s.contexts, keysRise s.queueSlots, keysRise s.peers, keysRise s.homes, keysRise s.arrivals, keysRise s.holds,
    keysRise s.reqs, keysRise s.tlb, keysRise s.granules, keysRise s.migrants, keysRise s.crews, keysRise s.flasks, keysRise s.grids, keysRise s.jobs, keysRise s.gctxs, keysRise s.replicas].all id

theorem canonical_of_canonicalB {s : State} (h : canonicalB s = true) : s.canonical := by
  simpa [canonicalB, State.canonical, and_assoc] using h

/-- An always-true guard. -/
def g0 : Guard := ⟨0, false⟩

/-! ### Ill-formed terms, and words of the spec -/

/-- One term for each check of `Instr.wf` that an encoding can fail. -/
def illFormed : List Instr := [
  .add ⟨0, true⟩ 3 4 5, .cmpi g0 0 1 2 3, .cmpi g0 1 1 12 3, .padd g0 1 2 3 3, .psar g0 1 2 3 3 0, .cmp g0 0 1 2 3, .cmp g0 1 1 2 12, .pand g0 0 1 2, .getc g0 1 0x006, .setc g0 1 0x010, .fence g0 5,
  .fenceAcq g0 5, .fenceRel g0 7, .spawn g0 0 1 2, .spawnr g0 0 1, .migrA g0 0 1, .migrC g0 0 1, .self g0 1 4, .fcmp g0 0 1 2 0 0, .cvt g0 1 2 0 3 3, .cvt g0 1 2 0 3 4, .cvt g0 1 2 1 0 1,
  .fclass g0 1 2 0x01, .fclass g0 1 2 0x88, .ldSigned g0 1 2 0 3 0 0, .ldp g0 3 1 0 0 0, .ldxW g0 1 2 0 0 0, .ldxC g0 1 2 0 0 0, .stfx g0 1 2 0 0 0, .fetest g0 0 1 0, .vcmp g0 1 2 3 0 12,
  .vlds g0 1 2 3 6 0, .vgath g0 1 2 3 5 0, .vscat g0 1 2 3 14 0, .vlong g0 0, .vfnCos g0 1 2 3, .vredAdd g0 1 2 4, .vprune48 g0 8 1 2 0, .vprune48 g0 1 8 2 0, .vsdot48 g0 1 2 3 3, .mmon g0 1 4 0,
  .semdn g0 0 1, .qpush g0 0 1 1, .qpush g0 1 1 4, .qpop g0 1 0 1, .qpeek g0 1 1 4, .jobsig g0 0 1 2 0, .cyc g0 1 4, .tfenceClose g0 0, .rlins g0 1 2 8 0, .rlget g0 8 1 2 0, .rlstat g0 1 2 4 0,
  .rlfin g0 8 1 0, .trvgo g0 1 2 8 0, .tri g0 1 2 3 0, .splat g0 8 2 3 1, .volseg g0 1 2 8 1, .dkl g0 1 2 3 0, .rastri g0 8 0, .rasfrag g0 1 0 0, .rasfrag g0 8 1 0, .blend g0 1 8 0, .texs g0 8 1 2 0,
  .texl g0 1 2 8 0, .cMov 0 0, .cCmp 0 1 2, .cCmp 1 1 6, .cPush 1 0, .cPush 1 8, .cPop 1 0]

theorem test_ill_formed_refused : illFormed.all (fun i => !i.wf) = true := by decide +kernel

/-- The decoder refuses their words too, but for those that are words of other instructions: a `CVT` of a code to itself is an `FCLASS`, and the other way round, and `VLDS` and `VGATH` with the FN of another form are that form. -/
theorem test_ill_formed_words : illFormed.all (fun i => decide (i ∈ [Instr.cvt g0 1 2 0 3 3, .fclass g0 1 2 0x01, .vlds g0 1 2 3 6 0, .vgath g0 1 2 3 5 0]) || match encode i with | some w => (match decode w.bytes with | .ok _ => false | .error _ => true) | none => false) = true := by decide +kernel

/-! Each word below is written out field by field from the encoding that the spec's tables give, bit 31 (or 15) first. The registers are 5, 6 and 7 and the guard is 2 inverted. -/

theorem test_decode_scalar : decodeTableWord 32 0b10101011110011011110_00_011_0011001 = some (.exti 3 703710)
    ∧ decodeTableWord 32 0b00000000_0111_1_0010_0110_0101_0000001 = some (.add ⟨2, true⟩ 5 6 7)
    ∧ decodeTableWord 32 0b010110100011_1_0010_0110_0101_0000011 = some (.addi ⟨2, true⟩ 5 6 1443)
    ∧ decodeTableWord 32 0b010110100011_1_0010_0110_0101_0000101 = some (.andi ⟨2, true⟩ 5 6 1443)
    ∧ decodeTableWord 32 0b010110100011_1_0010_0110_0101_0000111 = some (.ori ⟨2, true⟩ 5 6 1443)
    ∧ decodeTableWord 32 0b010110100011_1_0010_0110_0101_0001001 = some (.xori ⟨2, true⟩ 5 6 1443)
    ∧ decodeTableWord 32 0b0000_10100101_1_0010_0110_0101_0001011 = some (.shli ⟨2, true⟩ 5 6 165)
    ∧ decodeTableWord 32 0b10100101_1001_1_0010_0110_0101_0001101 = some (.cmpi ⟨2, true⟩ 5 6 9 165)
    ∧ decodeTableWord 32 0b01_000000_0111_1_0010_0110_0101_0001111 = some (.padd ⟨2, true⟩ 5 6 7 1)
    ∧ decodeTableWord 32 0b0000_1001_0111_1_0010_0110_0101_0010001 = some (.cmp ⟨2, true⟩ 5 6 7 9)
    ∧ decodeTableWord 32 0b00000000_0111_1_0010_0110_0101_0010011 = some (.pand ⟨2, true⟩ 5 6 7) := by
  decide +kernel

theorem test_decode_control : decodeTableWord 32 0b10101011110011011110_1_0010_0010101 = some (.br ⟨2, true⟩ 703710)
    ∧ decodeTableWord 32 0b10101011110011011110_0_0101_0010111 = some (.jal 5 703710)
    ∧ decodeTableWord 32 0b000000010000_1_0010_0000_0101_0011011 = some (.getc ⟨2, true⟩ 5 16)
    ∧ decodeTableWord 32 0b00000_010_0000_1_0010_000000000011101 = some (.fence ⟨2, true⟩ 2)
    ∧ decodeTableWord 32 0b00000000_0111_1_0010_0110_0101_0100001 = some (.spawn ⟨2, true⟩ 5 6 7)
    ∧ decodeTableWord 32 0b000000000000_1_0010_000000000100011 = some (.barc ⟨2, true⟩) := by
  decide +kernel

theorem test_decode_floats : decodeTableWord 32 0b0000_01_00_0111_1_0010_0110_0101_0101001 = some (.fadd ⟨2, true⟩ 5 6 7 1)
    ∧ decodeTableWord 32 0b0111_0000_0111_1_0010_0110_0101_0101011 = some (.cvt ⟨2, true⟩ 5 6 7 7 0)
    ∧ decodeTableWord 32 0b01_000000_0111_1_0010_0110_0101_1000001 = some (.vadd ⟨2, true⟩ 5 6 7 1)
    ∧ decodeTableWord 32 0b01_000000_0111_1_0010_0110_0101_1000011 = some (.vfadd ⟨2, true⟩ 5 6 7 1)
    ∧ decodeTableWord 32 0b0000_1100_0000_1_0010_0110_0101_1000101 = some (.vld ⟨2, true⟩ 5 6 12)
    ∧ decodeTableWord 32 0b000000000000_1_0010_0000_0101_1000111 = some (.vlong ⟨2, true⟩ 5)
    ∧ decodeTableWord 32 0b0001_00000000_1_0010_0110_0101_1001001 = some (.vfnExp2 ⟨2, true⟩ 5 6 1)
    ∧ decodeTableWord 32 0b0000_0010_0000_1_0010_0110_0101_1001011 = some (.vredAdd ⟨2, true⟩ 5 6 2)
    ∧ decodeTableWord 32 0b01_0000000000_1_0010_0110_0101_1001101 = some (.vbcast ⟨2, true⟩ 5 6 1) := by
  decide +kernel

theorem test_decode_memory : decodeTableWord 32 0b1011_0_1_10_1100_1_0010_0110_0101_0110001 = some (.ld ⟨2, true⟩ 5 6 11 2 1 12)
    ∧ decodeTableWord 32 0b1011_0_1_10_1100_1_0010_0110_0101_0110011 = some (.st ⟨2, true⟩ 5 6 11 2 1 12)
    ∧ decodeTableWord 32 0b1011_10_00_1100_1_0010_0110_0101_0110101 = some (.ldw ⟨2, true⟩ 5 6 11 2 12)
    ∧ decodeTableWord 32 0b1011_10_00_1100_1_0010_0110_0101_0110111 = some (.stf ⟨2, true⟩ 5 6 11 2 12)
    ∧ decodeTableWord 32 0b0000_1100_0111_1_0010_0110_0101_0111001 = some (.amoAdd ⟨2, true⟩ 5 6 7 12)
    ∧ decodeTableWord 32 0b0000_1100_0000_1_0010_0110_00000111011 = some (.cctlPf ⟨2, true⟩ 6 12)
    ∧ decodeTableWord 32 0b0000_1100_0000_1_0010_0110_00000111101 = some (.feset ⟨2, true⟩ 6 12)
    ∧ decodeTableWord 32 0b0000_1100_0111_1_0010_0110_00000111111 = some (.rmsg ⟨2, true⟩ 6 7 12) := by
  decide +kernel

theorem test_decode_engines : decodeTableWord 32 0b0000_1100_0111_1_0010_0110_0101_1010001 = some (.mls ⟨2, true⟩ 5 6 7 12)
    ∧ decodeTableWord 32 0b0000_1100_0111_1_0010_0110_0101_1010011 = some (.mma ⟨2, true⟩ 5 6 7 12)
    ∧ decodeTableWord 32 0b000000_01_0111_1_0010_0110_0101_1010101 = some (.vprune48 ⟨2, true⟩ 5 6 7 1)
    ∧ decodeTableWord 32 0b0000_1100_0000_1_0010_000000001010111 = some (.mswap ⟨2, true⟩ 12)
    ∧ decodeTableWord 32 0b0000_1100_0000_1_0010_0000_0101_1011001 = some (.cpy ⟨2, true⟩ 5 12)
    ∧ decodeTableWord 32 0b0000_1100_0000_1_0010_0000_0101_1011011 = some (.cnv ⟨2, true⟩ 5 12)
    ∧ decodeTableWord 32 0b0000_1100_0111_1_0010_0110_0101_1011101 = some (.sscan ⟨2, true⟩ 5 6 7 12) := by
  decide +kernel

theorem test_decode_work : decodeTableWord 32 0b00000000_0111_1_0010_0011_00001011111 = some (.semup ⟨2, true⟩ 7 3)
    ∧ decodeTableWord 32 0b00000000_0111_1_0010_0010_0101_1100001 = some (.qpush ⟨2, true⟩ 5 7 2)
    ∧ decodeTableWord 32 0b0000_1100_0111_1_0010_0110_00001100011 = some (.wqask ⟨2, true⟩ 6 7 12)
    ∧ decodeTableWord 32 0b0000_1100_0111_1_0010_0110_00001100101 = some (.launch ⟨2, true⟩ 6 7 12)
    ∧ decodeTableWord 32 0b00000000_0011_1_0010_0000_0101_1101001 = some (.cyc ⟨2, true⟩ 5 3) := by
  decide +kernel

theorem test_decode_pictures : decodeTableWord 32 0b0000_1100_0111_1_0010_0110_00001110001 = some (.rlinit ⟨2, true⟩ 6 7 12)
    ∧ decodeTableWord 32 0b0000_1100_0111_1_0010_0110_0101_1110011 = some (.trvgo ⟨2, true⟩ 5 6 7 12)
    ∧ decodeTableWord 32 0b0000_0100_0111_1_0010_0110_0101_1110101 = some (.tri ⟨2, true⟩ 5 6 7 4)
    ∧ decodeTableWord 32 0b0000_1100_0111_1_0010_0110_00001111001 = some (.gctx ⟨2, true⟩ 6 7 12)
    ∧ decodeTableWord 32 0b0000_1100_0111_1_0010_0110_0101_1111011 = some (.texs ⟨2, true⟩ 5 6 7 12)
    ∧ decodeTableWord 32 0b0000_1100_0000_1_0010_0110_00001111101 = some (.surfrel ⟨2, true⟩ 6 12) := by
  decide +kernel

theorem test_decode_compact : decodeTableWord 16 0b000_0110_0101_00000 = some (.cMov 5 6)
    ∧ decodeTableWord 16 0b000_0110_0101_00010 = some (.cAdd 5 6)
    ∧ decodeTableWord 16 0b000_0110_0101_00100 = some (.cSub 5 6)
    ∧ decodeTableWord 16 0b1010101_0101_00110 = some (.cAddi 5 85)
    ∧ decodeTableWord 16 0b1010101_0101_01000 = some (.cLdi 5 85)
    ∧ decodeTableWord 16 0b0_101_011_0101_01010 = some (.cLd 5 3 5)
    ∧ decodeTableWord 16 0b0_101_011_0101_01100 = some (.cSt 5 3 5)
    ∧ decodeTableWord 16 0b1010101_0100_01110 = some (.cBr 4 85)
    ∧ decodeTableWord 16 0b10110100011_10000 = some (.cJ 1443)
    ∧ decodeTableWord 16 0b101_0110_0101_10010 = some (.cCmp 5 6 5)
    ∧ decodeTableWord 16 0b1010101_0101_10100 = some (.cShli 5 85)
    ∧ decodeTableWord 16 0b0000000000010110 = some (.cNop)
    ∧ decodeTableWord 16 0b0000011_0101_11000 = some (.cPush 5 3)
    ∧ decodeTableWord 16 0b0000011_0101_11010 = some (.cPop 5 3) := by
  decide +kernel

theorem witness_DecodeWords : words.all (fun p => match decode (Encoding.word p.1).bytes with | .ok (i, l) => decide (i = p.2) && l.isEmpty | .error _ => false) = true := by decide +kernel

/-- A well-formed instruction and its word; the word decodes. -/
theorem witness_DecodeEncode : (Instr.add g0 3 4 5).wf = true ∧ encode (.add g0 3 4 5) = some (.word 0x00502181) := ⟨by decide +kernel, rfl⟩

theorem witness_EncodeDecode : decode [0x81#8, 0x21#8, 0x50#8, 0x00#8] = .ok (.add g0 3 4 5, []) := rfl

/-! ### The first step after `withFetchWord` -/

/-- `ADDI s5, s0, 77` runs as the first instruction after reset; the words after it are not touched. -/
theorem test_first_step : after (step (State.reset.withFetchWord 32 0b000001001101_0_0000_0000_0101_0000011)) (fun u => threadIs u 96 (fun t => t.readS 5 == 77 && t.pc == 0x1004)) = true := by decide +kernel

theorem test_first_step_compact : after (step (State.reset.withFetchWord 16 0b1111111_0101_01000)) (fun u => threadIs u 96 (fun t => t.readS 5 == 0xFFFFFFFFFFFFFFFF && t.pc == 0x1002)) = true := by decide +kernel

/-- A word that is no instruction traps ILLEGAL: without TRAPVEC, the thread stops, with reason 3 (R288, R290). -/
theorem test_first_step_illegal : after (step (State.reset.withFetchWord 32 0xFFFFFFFF)) (fun u => threadIs u 96 (fun t => t.spill == some ⟨3, none⟩)) = true := by decide +kernel

/-! ### Witnesses: the turn of an instruction -/

theorem witness_GuardFalse : guardOf (.add ⟨2, false⟩ 3 4 1) = some ⟨2, false⟩ ∧ HasTurn core3 thread ∧ vectorsOk (.add ⟨2, false⟩ 3 4 1) thread ∧ thread.free (touchP 2) ∧ guardHolds ⟨2, false⟩ thread = false
    ∧ gives (exec (.add ⟨2, false⟩ 3 4 1) core3) (core3.withCurrent { thread.ticked.advance 4 1000 with word := 0x12345679 }) = true := by
  and_intros <;> first | decide +kernel | exact canIssue_of_canB (by decide +kernel) | exact turn_of rfl (by decide +kernel)

theorem witness_ExtensionRegisters : CanIssue core3 thread g0 {} ∧ CanIssue core3 thread g0 (touchS 4) ∧ after (exec (.exti 3 0xFFFFF) core3) (fun u => threadIs u 96 (fun t => t.readE 3 == 0xFFFFFFFFFFFFFFFF)) = true
    ∧ after (exec (.exts 4 1 0x8000) core3) (fun u => threadIs u 96 (fun t => t.readE 1 == 0xFFFFFFFFFFFF8040)) = true := by
  and_intros <;> first | decide +kernel | exact canIssue_of_canB (by decide +kernel)

/-- 5 + (−5) wraps to 0; the low 64 bits of a product; `ADDI` with a negative immediate. -/
theorem witness_IntegerResults : arithmetic thread (.add g0 3 1 2) = some { guard := g0, d := 3, uses := touches [touchS 3, touchS 1, touchS 2], result := 0 }
    ∧ CanIssue core3 thread g0 (touches [touchS 3, touchS 1, touchS 2]) ∧ after (exec (.add g0 3 1 2) core3) (fun u => threadIs u 96 (fun t => t.readS 3 == 0 && t.pc == 0x2004)) = true
    ∧ (immediates thread (.addi g0 3 1 0xFFE)).isSome = true ∧ CanIssue core3 thread g0 (touches [touchS 3, touchS 1])
    ∧ after (exec (.addi g0 3 1 0xFFE) core3) (fun u => threadIs u 96 (fun t => t.readS 3 == 3)) = true := by
  and_intros <;> first | decide +kernel | exact canIssue_of_canB (by decide +kernel) | rfl

/-- A shift by 64 gives 0, or the sign for `SAR`. -/
theorem witness_Shifts : shifts thread (.sar g0 3 5 4) = some { guard := g0, d := 3, uses := touches [touchS 3, touchS 5, touchS 4], result := 0xFFFFFFFFFFFFFFFF }
    ∧ CanIssue core3 thread g0 (touches [touchS 3, touchS 5, touchS 4]) ∧ after (exec (.sar g0 3 5 4) core3) (fun u => threadIs u 96 (fun t => t.readS 3 == 0xFFFFFFFFFFFFFFFF)) = true
    ∧ after (exec (.shl g0 3 1 4) core3) (fun u => threadIs u 96 (fun t => t.readS 3 == 0)) = true := by
  and_intros <;> first | decide +kernel | exact canIssue_of_canB (by decide +kernel) | rfl

/-- Division by zero with and without TRAPEN.DIV0, and 7 / 5. -/
theorem witness_Division : (divisions { thread with div0 := true } (.div g0 3 1 0)).isSome = true ∧ CanIssue (one 96 { thread with div0 := true }) { thread with div0 := true } g0 (touches [touchS 3, touchS 1, touchS 0])
    ∧ (thread.readS 0 = 0 ∧ ({ thread with div0 := true } : Thread).div0 = true)
    ∧ (divisions thread (.div g0 3 7 1)).isSome = true ∧ CanIssue core3 thread g0 (touches [touchS 3, touchS 7, touchS 1]) ∧ thread.readS 1 ≠ 0
    ∧ after (exec (.div g0 3 7 1) core3) (fun u => threadIs u 96 (fun t => t.readS 3 == 1)) = true
    ∧ after (exec (.div g0 3 1 0) (one 96 { thread with div0 := true })) (fun u => threadIs u 96 (fun t => t.intrap && t.pc == 0x9000)) = true := by
  and_intros <;> first | decide +kernel | exact canIssue_of_canB (by decide +kernel)

theorem witness_PackedLanes : (Instr.padd g0 3 5 2 0).wf = true ∧ (packed (thread.readS 2) (.padd g0 3 5 2 0)).isSome = true ∧ CanIssue core3 thread g0 (touches [touchS 3, touchS 5, touchS 2])
    ∧ after (exec (.padd g0 3 5 2 0) core3) (fun u => threadIs u 96 (fun t => t.readS 3 == 0x7FFFFFFFFFFFFFFB)) = true := by
  and_intros <;> first | decide +kernel | exact canIssue_of_canB (by decide +kernel)

/-- −5 < 5 signed, but not unsigned. -/
theorem witness_Predicates : (decides thread (.cmp g0 3 2 1 2)).isSome = true ∧ (Instr.cmp g0 3 2 1 2).wf = true ∧ CanIssue core3 thread g0 (touches [touchP 3, touchS 2, touchS 1]) := by
  and_intros <;> first | decide +kernel | exact canIssue_of_canB (by decide +kernel)

theorem witness_BranchesAndJumps : (branch thread.pc (.br g0 0xFFFFE)).isSome = true ∧ CanIssue core3 thread g0 {} ∧ HasTurn core3 thread ∧ guardHolds ⟨2, false⟩ thread = false ∧ (branch thread.pc (.br ⟨2, false⟩ 4)).isSome = true
    ∧ CanIssue core3 thread g0 (touchS 3) ∧ CanIssue core3 thread g0 (touches [touchS 3, touchS 1])
    ∧ after (exec (.jal 3 0xFFFFE) core3) (fun u => threadIs u 96 (fun t => t.pc == 0x1FFC && t.readS 3 == 0x2004)) = true
    ∧ after (exec (.jalr 3 1 0) core3) (fun u => threadIs u 96 (fun t => t.intrap && t.readS 3 == 0xFFFFFFFFF00040)) = true := by
  and_intros <;> first | decide +kernel | exact canIssue_of_canB (by decide +kernel) | exact turn_of rfl (by decide +kernel)

/-- A thread with a load of s3 in flight whose window has two members left. -/
def loading : Thread := { thread with ops := [⟨3, 0x1FFC, 0, true, touchS 3, false, true, 3, false, 900, none⟩], windows := [⟨3, 0x1FFC, 2, touchS 3⟩] }

theorem witness_RegistersGateIssue : (arithmetic loading (.add g0 4 3 1)).isSome = true ∧ (one 96 loading).thread? 96 = some loading ∧ loading.blocked = false ∧ loading.free (touchP 0) ∧ guardHolds g0 loading = true
    ∧ loading.violated (touches [touchS 4, touchS 3, touchS 1]) = some ⟨3, 0x1FFC, 2, touchS 3⟩
    ∧ ({ loading with windows := [] } : Thread).violated (touches [touchS 4, touchS 3, touchS 1]) = none ∧ loading.pending.meets (touches [touchS 4, touchS 3, touchS 1]) = true
    ∧ ({ loading with windows := [⟨3, 0x1FFC, 0, touchS 3⟩] } : Thread).blocked = true
    ∧ guardOf (.vadd g0 9 1 2 0) = some g0 ∧ HasTurn core3 thread ∧ ¬ vectorsOk (.vadd g0 9 1 2 0) thread
    ∧ after (exec (.add g0 4 3 1) (one 96 { loading with fixed := true })) (fun u => threadIs u 96 (fun t => t.intrap && t.pc == 0x9000) && (peek u.mem (localKey 0 0xA010) 8 == 0x1FFC)) = true
    ∧ after (exec (.vadd g0 9 1 2 0) core3) (fun u => threadIs u 96 (fun t => t.intrap)) = true := by
  and_intros <;> first | decide +kernel | exact canIssue_of_canB (by decide +kernel) | exact turn_of rfl (by decide +kernel) | exact fun h => absurd (h.1 rfl 9 (by decide)) (by decide)

/-- WAITLIM, control register 0x030, takes the low 32 bits. -/
theorem witness_ControlRegisters : (controlValue core3 thread 0x010).isSome = true ∧ CanIssue core3 thread g0 ((touchS 3).union (controlUses 0x010)) ∧ (controlWrite 96 0x030 (thread.readS 3)).isSome = true
    ∧ after (exec (.setc g0 3 0x030) core3) (fun u => threadIs u 96 (fun t => t.waitlim == 0xFFF00040)) = true := by
  and_intros <;> first | decide +kernel | exact canIssue_of_canB (by decide +kernel)

/-! ### Witnesses: floating point and vectors -/

theorem witness_FloatScalars : floats (.fadd g0 3 8 8 0) = some (g0, .add, 3, 8, 8, 0) ∧ CanIssue core3 thread g0 (touches [touchS 3, touchS 8, touchS 8, touchFlags]) ∧ CanIssue core3 thread g0 (touches [touchP 3, touchS 8, touchS 4, touchFlags])
    ∧ convertible 0 3 0 = true ∧ CanIssue core3 thread g0 (touches [touchS 3, touchS 8, touchS 0, touchFlags]) ∧ classCode 0 = true ∧ CanIssue core3 thread g0 (touches [touchS 3, touchS 8])
    ∧ after (exec (.fadd g0 3 8 8 0) core3) (fun u => threadIs u 96 (fun t => t.readS 3 == 0x40C90FDB && t.flags == 0)) = true ∧ after (exec (.fclass g0 3 8 0) core3) (fun u => threadIs u 96 (fun t => t.readS 3 == 64)) = true := by
  and_intros <;> first | decide +kernel | exact canIssue_of_canB (by decide +kernel)

/-- A thread in LONG mode, whose tile's unit it holds. -/
def longThread : Thread := { thread with long := true }
def longState : State := { one 96 longThread with tiles := [(0, { ({} : Tile) with unit := some 96, w := (Vector.replicate 16 0).set 1 (BitVec.allOnes 2048) })] }

theorem witness_VectorResults : (vectorLanes (.vadd g0 4 1 2 2)).isSome = true ∧ (Instr.vadd g0 4 1 2 2).wf = true ∧ vectorsOk (.vadd g0 4 1 2 2) thread ∧ CanIssue core3 thread g0 (touches [touchVec 4 thread, touchVec 1 thread, touchVec 2 thread])
    ∧ vectorsOk (.vadd g0 12 1 2 2) longThread ∧ CanIssue longState longThread g0 (touches [touchVec 12 longThread, touchVec 1 longThread, touchVec 2 longThread])
    ∧ vectorsOk (.vfcmp g0 4 1 2 0 1) thread ∧ CanIssue core3 thread g0 (touches [touchVec 4 thread, touchVec 1 thread, touchVec 2 thread, touchFlags])
    ∧ vectorsOk (.vbcast g0 4 8 2) thread ∧ CanIssue core3 thread g0 (touches [touchVec 4 thread, touchS 8]) ∧ vectorsOk (.vperm g0 4 1 3 0) thread
    ∧ after (exec (.vbcast g0 4 8 2) core3) (fun u => threadIs u 96 (fun t => t.readV 4 == 0x40490FDB40490FDB40490FDB40490FDB40490FDB40490FDB40490FDB40490FDB)) = true
    ∧ after (exec (.vadd g0 12 1 2 2) longState) (fun u => threadIs u 96 (fun t => (t.ops.map (·.dest.w)) == [0x1000] && t.windows.isEmpty)) = true := by
  and_intros <;> first | decide +kernel | exact canIssue_of_canB (by decide +kernel)

theorem witness_VectorFloats : (vectorFloats (.vfdiv g0 4 1 2 0)) = some (g0, .div, 4, 1, 2, 0) ∧ vectorsOk (.vfdiv g0 4 1 2 0) thread ∧ CanIssue core3 thread g0 (touches [touchVec 4 thread, touchVec 1 thread, touchVec 2 thread, touchFlags])
    ∧ vectorsOk (.vfdiv g0 4 1 2 0) longThread ∧ CanIssue longState longThread g0 (touches [touchVec 4 longThread, touchVec 1 longThread, touchVec 2 longThread, touchFlags])
    ∧ after (exec (.vfadd g0 4 1 2 0) core3) (fun u => threadIs u 96 (fun t => (t.readV 4).extractLsb' 224 32 == 0x3fc00000#32)) = true := by
  and_intros <;> first | decide +kernel | exact canIssue_of_canB (by decide +kernel)

/-- The sum of 32 bytes 1..32 is 528, which is 16 modulo 256. -/
theorem witness_Reductions : (Instr.vredAdd g0 4 3 0).wf = true ∧ vectorsOk (.vredAdd g0 4 3 0) thread ∧ (reductions (.vredAdd g0 4 3 0)).isSome = true ∧ CanIssue core3 thread g0 (touches [touchS 4, touchVec 3 thread])
    ∧ (Instr.vredFadd g0 4 1 0).wf = true ∧ vectorsOk (.vredFadd g0 4 1 0) thread ∧ floatReductions (.vredFadd g0 4 1 0) = some (g0, .add, 4, 1, 0) ∧ CanIssue core3 thread g0 (touches [touchS 4, touchVec 1 thread, touchFlags])
    ∧ after (exec (.vredAdd g0 4 3 0) core3) (fun u => threadIs u 96 (fun t => t.readS 4 == 16)) = true := by
  and_intros <;> first | decide +kernel | exact canIssue_of_canB (by decide +kernel)

theorem witness_VectorMode : CanIssue core3 thread g0 (touchP 3) ∧ (core3.tile 0).unit = none ∧ CanIssue longState longThread g0 (touchP 3) ∧ (longState.tile 0).unit = some 96
    ∧ CanIssue { core3 with tiles := [(0, { unit := some 0 })] } thread g0 (touchP 3) ∧ CanIssue longState longThread g0 {} ∧ longThread.pending.w = 0 ∧ CanIssue core3 thread g0 {} ∧ (core3.tile 0).unit ≠ some 96 := by
  and_intros <;> first | decide +kernel | exact canIssue_of_canB (by decide +kernel)

/-- Coefficient memory with a directory whose six entries are of degree 1 with one segment at offset 64: 1.0 + 0.5 t (two segments of `RSQ`). -/
def coefBytes : List Host.Cell :=
  ((List.range 6).flatMap (fun f => [(coefKey 0 (4 * f), 64#8), (coefKey 0 (4 * f + 2), 16#8)]))
    ++ [(coefKey 0 66, 0x80#8), (coefKey 0 67, 0x3F#8), (coefKey 0 71, 0x3F#8), (coefKey 0 74, 0x80#8), (coefKey 0 75, 0x3E#8), (coefKey 0 78, 0x40#8), (coefKey 0 79, 0x40#8)]

/-- Tile 0 with that coefficient memory, owned by context 5. -/
def coefState (t : Thread) (k : Nat) : State := { one k t with mem := coefBytes, tiles := [(0, { coefOwner := some 5 })] }

theorem witness_VectorFunctions : functions (.vfnExp2 g0 4 1 0) = some (g0, .exp2, 4, 1, 0) ∧ (Instr.vfnExp2 g0 4 1 0).wf = true ∧ vectorsOk (.vfnExp2 g0 4 1 0) thread
    ∧ CanIssue (coefState thread 96) thread g0 (touches [touchVec 4 thread, touchVec 1 thread, touchFlags, touchCoef]) ∧ mayOwn ((coefState thread 96).tile 0).coefOwner thread.ctx
    ∧ (functionEntries .exp2).all (fun f => ((coefsOf (coefState thread 96) 96 thread).entry f).isSome) = true ∧ (functionEntries .sin).all (fun f => ((coefsOf (coefState thread 96) 96 thread).entry f).isSome) = true := by
  and_intros <;> first | decide +kernel | exact canIssue_of_canB (by decide +kernel) | exact Or.inr rfl

/-- Four of 1..8 are kept: the greatest, 5..8 at the high bytes. -/
theorem witness_PruneAndSparseDot : CanIssue core3 thread g0 (touches [touchV 4, touchV 3, touchS 7]) ∧ CanIssue core3 thread g0 (touches [touchV 4, touchV 3, touchS 12, touchFlags])
    ∧ ((List.range 4).all (fun g => decide (((List.range 8).filter (fun j => (thread.readS 12).getLsbD (8 * g + j))).length = 4))) = true ∧ ((List.range 8).filter (fun j => (thread.readS 7).getLsbD j)).length ≠ 4
    ∧ after (exec (.vprune48 g0 4 3 7 0) core3) (fun u => threadIs u 96 (fun t => t.readS 7 == 0x0F0F0F0F && t.readV 4 == 0x05060708_0d0e0f10_15161718_1d1e1f20)) = true
    ∧ after (exec (.vsdot48 g0 3 3 12 0) core3) (fun u => threadIs u 96 (fun t => t.readV 3 == 7912)) = true := by
  and_intros <;> first | decide +kernel | exact canIssue_of_canB (by decide +kernel)

/-! ### Witnesses: requests to memory -/

/-- `LD.i32 s5, -4(s6)~3` with sign extension, `LDP s2, 16(s9)` and a store; offsets count in units of the access. -/
theorem witness_AccessesIssue : (loads thread (.ldSigned g0 5 6 0xF 2 0 3)).isSome = true ∧ CanIssue core3 thread g0 (touches [touchS 5, touchS 6]) ∧ addressOk (thread.readS 6 + offset thread 0xF 4) 4
    ∧ (Instr.ldp g0 4 9 1 0 0).wf = true ∧ CanIssue core3 thread g0 ((touches [touchS 4, touchS 5]).union (touchS 9)) ∧ addressOk (thread.readS 9 + offset thread 1 16) 16
    ∧ (stores thread (.st g0 5 6 0 3 0 0)).isSome = true ∧ addressOk (thread.readS 6 + offset thread 0 8) 8
    ∧ after (exec (.ldSigned g0 5 6 0xF 2 0 3) core3) (fun u => (u.reqs.map (fun r => r.2.spans)) == [[(0xFFFFFFFFF000FC, 4)]] && threadIs u 96 (fun t => t.windows == [⟨50, 0x2000, 3, touchS 5⟩])) = true := by
  and_intros <;> first | decide +kernel | exact canIssue_of_canB (by decide +kernel)

theorem witness_AddressTraps : (loads thread (.ldSigned g0 3 1 0 2 0 0)).isSome = true ∧ CanIssue core3 thread g0 (touches [touchS 3, touchS 1]) ∧ (stores thread (.st g0 3 5 0 1 0 0)).isSome = true ∧ CanIssue core3 thread g0 (touches [touchS 3, touchS 5])
    ∧ (Instr.ldp g0 4 1 0 0 0).wf = true ∧ CanIssue core3 thread g0 ((touches [touchS 4, touchS 5]).union (touchS 1)) ∧ (fullEmpties thread (.ldw g0 3 1 0 0 0)).isSome = true ∧ waits .ldw = true ∧ isRunner (one 112 thread).cur = true
    ∧ (atomics (.amoAdd g0 3 1 7 0)).isSome = true ∧ CanIssue core3 thread g0 ((touchS 3).union ((touchS 1).union (touchS 7)))
    ∧ CanIssue core3 thread g0 (touches [touchVec 4 thread, touchS 1]) ∧ CanIssue longState longThread g0 (touches [touchVec 12 longThread, touchS 5]) ∧ CanIssue core3 thread g0 (touches [touchVec 4 thread, touchS 1, touchS 4])
    ∧ CanIssue core3 thread g0 (touches [touchVec 4 thread, touchS 5, touchVec 6 thread]) := by
  and_intros <;> first | decide +kernel | exact canIssue_of_canB (by decide +kernel)

/-- s1 holds 5, which is aligned to nothing wider than a byte, and s5 is not canonical (R144). -/
theorem witness_AddressTraps_forms :
    [(Instr.ldSigned g0 3 1 0 2 0 0, Cause.align, 5), (.ldSigned g0 3 5 0 1 0 0, .protection, 0x8000000000000000), (.st g0 3 1 0 3 0 0, .align, 5), (.st g0 3 5 0 1 0 0, .protection, 0x8000000000000000), (.ldp g0 4 1 0 0 0, .align, 5),
      (.ldp g0 4 5 0 0 0, .protection, 0x8000000000000000), (.ldw g0 3 1 0 0 0, .align, 5), (.ldw g0 3 5 0 0 0, .protection, 0x8000000000000000), (.amoAdd g0 3 1 7 0, .align, 5), (.amoAdd g0 3 5 7 0, .protection, 0x8000000000000000),
      (.vld g0 4 1 0, .align, 5), (.vst g0 4 5 0, .protection, 0x8000000000000000), (.vlds g0 4 1 4 5 0, .align, 5), (.vgath g0 4 1 6 8 0, .align, 5), (.vscat g0 4 5 6 12 0, .protection, 0x8000000000000000)].all (fun x => trapsB core3 thread x.1 x.2.1 x.2.2) = true
    ∧ trapsB (one 112 thread) thread (.ldw g0 3 1 0 0 0) .runnerWait 0 = true := by
  and_intros <;> decide +kernel

/-- Addresses are canonical and aligned, evaluated. -/
def addressesB (l : List Word) (n : Nat) : Bool := l.all (fun x => decide (x.toNat < 2 ^ 56) && decide (x.toNat % n = 0))

theorem addresses_ok {l : List Word} {n : Nat} (h : addressesB l n = true) : ∀ x ∈ l, addressOk x n := by
  intro x hx
  have := List.all_eq_true.mp h x hx
  simp only [Bool.and_eq_true, decide_eq_true_eq] at this
  exact this

theorem witness_VectorMemoryIssues : CanIssue core3 thread g0 (touches [touchVec 4 thread, touchS 9]) ∧ (∀ x ∈ (List.range 1).map (fun i => thread.readS 9 + mod64 (32 * i)), addressOk x 32)
    ∧ CanIssue longState longThread g0 (touches [touchVec 12 longThread, touchS 9]) ∧ (∀ x ∈ (List.range 8).map (fun i => thread.readS 9 + mod64 (32 * i)), addressOk x 32)
    ∧ (Instr.vlds g0 4 9 4 5 0).wf = true ∧ CanIssue core3 thread g0 (touches [touchVec 4 thread, touchS 9, touchS 4]) ∧ (∀ x ∈ (List.range 4).map (fun i => thread.readS 9 + mod64 (i * 64)), addressOk x 8)
    ∧ (Instr.vgath g0 4 9 6 8 0).wf = true ∧ (Instr.vscat g0 4 9 6 12 0).wf = true ∧ CanIssue core3 thread g0 (touches [touchVec 4 thread, touchS 9, touchVec 6 thread])
    ∧ (∀ x ∈ (List.range 8).map (fun i => thread.readS 9 + mod64 ((part 32 (register core3 thread 6) i).toNat * 4)), addressOk x 4) := by
  and_intros <;> first | decide +kernel | exact canIssue_of_canB (by decide +kernel) | exact addresses_ok (by decide +kernel)

theorem witness_WordOperationsIssue : (fullEmpties thread (.ldc g0 5 6 1 0 1)).isSome = true ∧ CanIssue core3 thread g0 ((touchS 5).union (touchS 6)) ∧ addressOk (thread.readS 6 + offset thread 1 8) 8 ∧ isRunner core3.cur = false
    ∧ (atomics (.amoFaddF32 g0 5 6 7 0)).isSome = true ∧ CanIssue core3 thread g0 (((touchS 5).union touchFlags).union ((touchS 6).union (touchS 7))) ∧ addressOk (thread.readS 6) 4 := by
  and_intros <;> first | decide +kernel | exact canIssue_of_canB (by decide +kernel)

theorem witness_MessagesAndCoefficients : messages (.rmsg g0 9 7 0) = some (g0, 9, 7, 0, false) ∧ CanIssue core3 thread g0 (touches [touchS 9, touchS 7, touchS 1, touchS 2, touchS 3, touchS 4])
    ∧ CanIssue (coefState { thread with s := thread.s.set 7 0x80010 } 96) { thread with s := thread.s.set 7 0x80010 } g0 (touches [touchS 6, touchS 7, touchCoef]) ∧ addressOk (thread.readS 6) 8
    ∧ 0x80010 % 2 ^ 13 % 8 = 0 ∧ 0x80010 / 2 ^ 16 % 2 ^ 14 = 8 ∧ ((coefState thread 96).tile 0).coefOwner = some thread.ctx
    ∧ after (exec (.coefld g0 6 7 0) (coefState { thread with s := thread.s.set 7 0x80010 } 96)) (fun u => (u.reqs.map (fun r => (r.2.ask, r.2.spans))) == [(.coef 16, [(0xFFFFFFFFF00100, 8)])]) = true := by
  and_intros <;> first | decide +kernel | exact canIssue_of_canB (by decide +kernel)

/-- Die 0 with a context table at 0x10000 that gives context 5 the right to invalidate translations (SYS, R135). -/
def sysState : State := { one 96 thread with mem := [(0x10051, 2#8), (0x10058, 3#8)], dies := [(0, { contextTable := some 0x10000 })] }

/-- A load that is still outstanding. -/
def loadReq : Req := { newReq core3 96 thread 51 50 (.load false) [(0xFFFFFFFFF00100, 8)] with d := 3 }

/-- Page tables of context 5 at 0x20000 whose first entry maps the first GiB onto itself, with GPC mask `g`; the word at 0x2040 holds 42. -/
def mapped (g : BitVec 8) (t : Thread) : State := { one 96 t with
  mem := [(0x2040, 42#8), (0x10052, 2#8), (0x10058, 3#8), (0x20000, 1#8), (0x20002, 3#8), (0x30000, 1#8), (0x30002, 4#8), (0x40000, 0x1D#8)] ++ if g = 0 then [] else [(0x40008, g)]
  dies := [(0, { contextTable := some 0x10000 })] }
/-- The leaf of that page. -/
def page (g : BitVec 64) : CachedLeaf := ⟨5, 0, 2 ^ 30, 0, 0, true, true, g⟩
def mapThread : Thread := { thread with s := thread.s.set 6 0x2048 }

theorem mapped_of {s : State} {ctx va : Nat} {l : CachedLeaf} (h : va < 2 ^ 56 ∧ inWindow va = false ∧ walk s ctx va = .leaf l ∧ (s.die (homeDie va)).views = [])
    (h2 : (s.slice (homeHash va)).first ++ (s.slice (lastSlice va)).last = []) : Mapped s ctx va l :=
  ⟨h.1, h.2.1, h.2.2.1, by rw [h2]; intro x hx; exact absurd hx (List.not_mem_nil), h.2.2.2⟩

theorem soleHome_of {s : State} {va : Nat} {l : CachedLeaf} (h : s.granules = []) : SoleHome s va l := by
  refine ⟨fun g hg => ?_, by simp [h]⟩
  rw [h] at hg
  exact nomatch hg

theorem witness_CacheAndFences_lines : CanIssue core3 thread g0 (touchS 6) ∧ inWindow (thread.readS 6).toNat = true ∧ canonical (thread.readS 5).toNat = false ∧ CanIssue sysState thread g0 (touchS 7)
    ∧ canonical (thread.readS 7).toNat = true ∧ inWindow (thread.readS 7).toNat = false ∧ walk sysState 5 (thread.readS 7).toNat = .missing 0 ∧ (sysState.slice (homeHash 7)).first ++ (sysState.slice (lastSlice 7)).last = []
    ∧ CanIssue (mapped 0 mapThread) mapThread g0 (touchS 6) ∧ Mapped (mapped 0 mapThread) 5 0x2048 (page 0) ∧ permits (page 0) (some (clusterOfTile 0)) {} = false
    ∧ CanIssue (mapped 1 mapThread) mapThread g0 (touchS 6) ∧ Mapped (mapped 1 mapThread) 5 0x2048 (page 1) ∧ SoleHome (mapped 1 mapThread) 0x2040 (page 1) ∧ permits (page 1) (some (clusterOfTile 0)) {} = true ∧ unfused (mapped 1 mapThread)
    ∧ l1Find (mapped 1 mapThread) 3 5 0x2048 = none ∧ spoiled (mapped 1 mapThread) ((page 1).key 0x2040) 32 = false ∧ spoiled { mapped 1 mapThread with bad := [(0x2040, 0)] } ((page 1).key 0x2040) 32 = true
    ∧ after (exec (.cctlPf g0 6 0) (mapped 1 mapThread)) (fun u => (u.core 3).l1 == [⟨5, 0x102, 42, true, true, false, false, 0, 2 ^ 30⟩] && threadIs u 96 (fun t => t.pc == 0x2004)) = true
    ∧ after (exec (.cctlPfs g0 6 0) (mapped 1 mapThread)) (fun u => u.cores.isEmpty && u.granules.map (·.1) == [0x20]) = true
    ∧ after (exec (.cctlPf g0 6 0) (mapped 0 mapThread)) (fun u => u.cores.isEmpty && u.granules.isEmpty) = true := by
  and_intros <;> first | decide +kernel | exact canIssue_of_canB (by decide +kernel) | exact mapped_of (by decide +kernel) (by decide +kernel) | (apply soleHome_of; rfl) | rfl

/-- A command that core 3's thread has pushed and that waits to be accepted. -/
def pushed : EngineCmd := ⟨.copy, 96, 60, 3, 5, 0x2000, 6, 0, 0, Vector.replicate 8 0, 0, 0, 0, 0, 0, 0, .device, [], false, false, 0, 0, 0, 0, none, none, 0, [], [], 0, .zero false, none, false, false, false, []⟩

theorem witness_CacheAndFences : contextSys sysState 0 5 = true ∧ contextSys core3 0 5 = false ∧ CanIssue sysState thread g0 (touches [touchS 6, touchS 7]) ∧ (thread.readS 6).toNat < 2 ^ 56 ∧ CanIssue core3 thread g0 (touches [touchS 6, touchS 7])
    ∧ CanIssue core3 thread g0 (touchS 7) ∧ CanIssue core3 thread g0 {} ∧ unfused core3 ∧ fenceReady core3 thread ∧ CanIssue { core3 with reqs := [(51, loadReq)] } thread g0 {} ∧ fenceHeld { core3 with reqs := [(51, loadReq)] }
    ∧ CanIssue { core3 with tiles := [(0, { copyQ := [pushed] })] } thread g0 {} ∧ fenceHeld { core3 with tiles := [(0, { copyQ := [pushed] })] }
    ∧ after (exec (.fenceRel g0 3) { core3 with reqs := [(51, loadReq)] }) (fun u => threadIs u 96 (fun t => t.status == .waiting .earlier)) = true
    ∧ after (exec (.fenceI g0) { core3 with tiles := [(0, { copyQ := [pushed] })] }) (fun u => threadIs u 96 (fun t => t.status == .waiting .earlier)) = true
    ∧ after (exec (.fence g0 3) core3) (fun u => threadIs u 96 (fun t => t.pc == 0x2004)) = true ∧ trapsB core3 thread (.cctlTinvc g0 7 0) .protection 0 = true
    ∧ after (exec (.cctlTinvc g0 7 0) sysState) (fun u => (u.reqs.map (·.2.ask)) == [.tinv 7 none]) = true := by
  and_intros <;> first | decide +kernel | exact canIssue_of_canB (by decide +kernel) | (apply Or.inl; decide +kernel) | (apply Or.inr; decide +kernel) | rfl

/-! ### Witnesses: threads and barriers -/

theorem witness_YieldAndQuit : yields .yield = some (g0, 4) ∧ yields (.yieldUnless5) = some (⟨5, true⟩, 4) ∧ CanIssue core3 thread g0 {} ∧ CanIssue (one 112 thread) thread g0 {}
    ∧ after (exec .yield core3) (fun u => threadIs u 96 (fun t => t.status == .waiting .yield && t.pc == 0x2004)) = true ∧ after (exec .cQuit core3) (fun u => threadIs u 96 (fun t => t.status == .waiting .quit)) = true := by
  and_intros <;> first | decide +kernel | exact canIssue_of_canB (by decide +kernel)

theorem witness_ParkAndWake : CanIssue core3 thread g0 {} ∧ isRunner core3.cur = false ∧ thread.wake = false ∧ CanIssue (one 96 { thread with wake := true }) { thread with wake := true } g0 {} ∧ unfused (one 96 { thread with wake := true })
    ∧ CanIssue core3 thread g0 (touchS 4) ∧ (thread.readS 4).toNat < 2 ^ 26 ∧ (thread.readS 4).toNat % 32 < 16 ∧ CanIssue core3 thread g0 (touchS 6) ∧ 2 ^ 26 ≤ (thread.readS 6).toNat
    ∧ after (exec (.wake g0 4) core3) (fun u => u.wakes == [⟨50, 64, [], 0⟩]) = true
    ∧ CanIssue (one 112 thread) thread g0 {} ∧ trapsB (one 112 thread) thread (.park g0) .runnerWait 0 = true := by
  and_intros <;> first | decide +kernel | exact canIssue_of_canB (by decide +kernel) | rfl

/-- A packet of job 9, of one flask with one crew of two threads. -/
def packet : Packet := ⟨0x3000, [11, 12, 13, 14], 0, false, 0, 0, false, false, false, .flask, 1, 1, 2, 1, 0, 9⟩
/-- The grid of that packet on die 0, with its flask placed. -/
def grid : Grid := { packet := packet, ctx := 5, die := 0, source := 3, parent := none, children := 0, placed := 1, done := 0, fmts := [0, 0, 0], counters := [⟨4, 6, false, []⟩], list := [], det := [] }
/-- A member of crew 21 of flask 20 of that grid; the other member runs on core 0. -/
def member : Thread := { thread with detached := false, crew := 21, flask := 20, index := 1 }
def crew : Crew := { flask := 20, tile := 0, index := 2, members := [0, 96], reserved := [], phase := 7, rel := [], prev := [] }
def crewState : State := { one 96 member with
  threads := [(0, { member with index := 0 }), (96, member)]
  crews := [(21, crew)], flasks := [(20, { grid := 19, index := 0, cluster := 0, crews := [21], phase := 8, rel := [], prev := [], idle := 0 })], grids := [(19, grid)], jobs := [(9, ⟨1, false, [], []⟩)] }

theorem witness_SelfReads : CanIssue crewState member g0 (touchS 3) ∧ isRunner crewState.cur = false ∧ member.detached = false ∧ mapGet 21 crewState.crews = some crew ∧ (mapGet 20 crewState.flasks).isSome = true ∧ mapGet 19 crewState.grids = some grid
    ∧ after (exec (.self g0 3 1) crewState) (fun u => threadIs u 96 (fun t => t.readS 3 == 129)) = true ∧ after (exec (.self g0 3 3) crewState) (fun u => threadIs u 96 (fun t => t.readS 3 == 9)) = true := by
  and_intros <;> first | decide +kernel | exact canIssue_of_canB (by decide +kernel)

theorem witness_SpawnStarts : CanIssue crewState member g0 (touches [touchP 3, touchS 11, touchS 9, touchS 1, touchS 2, touchS 3, touchS 4]) ∧ (crewMembers crewState 21).length < 64 ∧ (member.readS 11).toNat ≤ 3
    ∧ spawnSlot crewState (crewOf member) (3 / 4 * 4 + 3) = some 97 ∧ CanIssue crewState member g0 (touches [touchP 3, touchS 9, touchS 1, touchS 2, touchS 3, touchS 4])
    ∧ ([1, 2, 3, 4].map (fun i => 3 / 4 * 4 + (3 + i) % 4)).findSome? (spawnSlot crewState (crewOf member)) = some 1
    ∧ after (exec (.spawn g0 3 11 9) crewState) (fun u => threadIs u 97 (fun t => t.status == .active && t.pc == 0xFFFFFFFFF00200 && t.readS 1 == 5 && t.readS 6 == 0) && threadIs u 96 (fun t => t.readP 3 == false && t.pc == 0x2004)) = true := by
  and_intros <;> first | decide +kernel | exact canIssue_of_canB (by decide +kernel)

/-- In a handler with a held trap; on core 0's own home; and tiles in fixed timing for elastic threads. -/
def held : Thread := { thread with intrap := true, heldTraps := [⟨.protection, 0x2000, none, 0, 0, true, 0, true, true⟩] }
def trapping : State := one 96 held
def nearby : Thread := { thread with s := thread.s.set 8 0x8 }
def fixedTile : State := { core3 with tiles := [(tileOfCore 64, { fixed := true, owner := some 5 }), (tileOfCore (nearCore 96 0x40490FDB), { fixed := true, owner := some 5 })] }

theorem witness_Migrations : isRunner core3.cur = false ∧ CanIssue core3 thread g0 (touches [touchP 3, touchS 4]) ∧ CanIssue core3 thread g0 (touches [touchP 3, touchS 8]) ∧ ¬(thread.intrap = true ∧ thread.heldTraps ≠ []) ∧ canonical (thread.readS 8).toNat = true ∧ inWindow (thread.readS 8).toNat = false
    ∧ nearCore 96 (thread.readS 8).toNat ≠ coreOf 96 ∧ suits core3 thread (tileOfCore (nearCore 96 (thread.readS 8).toNat)) = true ∧ CanIssue core3 thread g0 (touches [touchP 3, touchS 9]) ∧ inWindow (thread.readS 9).toNat = true
    ∧ (thread.readS 4).toNat < 8192 ∧ (thread.readS 4).toNat ≠ coreOf 96 ∧ suits core3 thread (tileOfCore (thread.readS 4).toNat) = true ∧ (thread.readS 11).toNat = coreOf 96 ∧ CanIssue trapping held g0 (touches [touchP 3, touchS 8]) ∧ (held.intrap = true ∧ held.heldTraps ≠ []) ∧ suits fixedTile thread (tileOfCore (thread.readS 4).toNat) = false ∧ suits fixedTile thread (tileOfCore (nearCore 96 (thread.readS 8).toNat)) = false
    ∧ nearCore 96 (nearby.readS 8).toNat = coreOf 96 ∧ after (exec (.migrA g0 3 8) (one 96 nearby)) (fun u => threadIs u 96 (fun t => t.readP 3 && t.status == .active)) = true
    ∧ after (exec (.migrA g0 3 8) trapping) (fun u => threadIs u 96 (fun t => t.readP 3 && t.status == .active)) = true ∧ after (exec (.migrC g0 3 4) fixedTile) (fun u => threadIs u 96 (fun t => t.readP 3 && t.status == .active)) = true
    ∧ after (exec (.migrC g0 3 4) core3) (fun u => threadIs u 96 (fun t => t.status == .leaving ⟨64, false, 0x2000, 0x12345679, 0, none, some (3, true)⟩)) = true := by
  and_intros <;> first | decide +kernel | exact canIssue_of_canB (by decide +kernel) | (intro h; exact absurd h.1 (by decide))

theorem all_free (t : Thread) (h : t.ops = []) (h2 : t.windows = []) (x : Touch) : t.free x := by
  refine ⟨by simp [Thread.violated, h2], ?_⟩
  simp [Thread.pending, h, Touch.meets, touches]

/-- Every instruction of core 3's units. -/
def away : List Instr := [.rlinit g0 1 2 0, .rlins g0 3 1 2 0, .rlget g0 3 1 2 0, .rlstat g0 3 1 2 0, .rlfin g0 3 1 0, .trvgo g0 3 1 2 0, .trvbud g0 1 2 0, .tri g0 3 1 2 4, .splat g0 3 1 2 4, .volseg g0 3 1 2 4, .dkl g0 3 1 2 4,
  .gctx g0 1 2 0, .rastri g0 2 0, .rasfrag g0 3 2 0, .blend g0 1 2 0, .texs g0 3 1 2 0, .texl g0 3 1 2 0, .surfrel g0 1 0, .surfacq g0 1 0]

theorem witness_Migrations_core3 : onCore3 (.trvbud g0 1 2 0) = true ∧ guardOf (.trvbud g0 1 2 0) = some g0 ∧ HasTurn core0 thread ∧ HasTurn (one 16 thread) thread ∧ (∀ x, thread.free x) ∧ guardHolds g0 thread = true ∧ roleOf core0.cur ≠ 3
    ∧ shortFields (.tri g0 3 1 2 4) = some [3, 2] ∧ isRunner core0.cur = false ∧ isRunner 16 = true
    ∧ away.all (fun i => gives (exec i core0) (core0.withCurrent { thread with status := .leaving ⟨3, true, 0x2000, 0x12345679, 0, none, none⟩, lastIssue := 1000 })) = true
    ∧ gives (exec (.trvbud g0 1 2 0) (one 0 longThread)) (core0.withCurrent { longThread with status := .leaving ⟨3, true, 0x2000, 0x12345679, 0, none, none⟩, lastIssue := 1000 }) = true
    ∧ HasTurn (one 0 longThread) longThread ∧ (∀ x, longThread.free x) ∧ guardHolds g0 longThread = true ∧ longThread.long = true
    ∧ away.all (fun i => (shortFields i).isNone || trapsB (one 0 longThread) longThread i .illegal 0) = true
    ∧ away.all (fun i => trapsB (one 16 thread) thread i .runnerWait 0) = true := by
  and_intros <;> first | decide +kernel | exact all_free _ rfl rfl | exact turn_of rfl (by decide +kernel)

/-- The other member of the crew has arrived at the crew's barrier, where it waits, and at the flask's. -/
def waiter : Thread := { member with index := 0, status := .parked (.barrier false 7 true), barCrew := ⟨true, 7, false, []⟩, barFlask := ⟨true, 8, false, []⟩ }
def lastState : State := { crewState with threads := [(0, waiter), (96, member)] }
/-- A member whose own arrival at phase 7, or at phase 6, is outstanding. -/
def outstandingAt (p : BitVec 32) : Thread := { member with barCrew := ⟨false, p, true, []⟩ }
def outstandingState (p : BitVec 32) : State := { crewState with threads := [(96, outstandingAt p)] }

theorem someone_missing (flask : Bool) : someoneMissing crewState flask member := by
  refine ⟨0, by cases flask <;> decide +kernel, by decide +kernel, fun u h => ?_⟩
  rw [show memberThread crewState 0 = some { member with index := 0 } from rfl] at h
  cases h
  cases flask <;> rfl

theorem last_to_arrive (flask : Bool) : lastToArrive lastState flask member := by
  refine ⟨by cases flask <;> decide +kernel, fun m hm h => ⟨waiter, ?_, by cases flask <;> rfl⟩⟩
  have : unitMembers lastState flask member = [0, 96] := by cases flask <;> decide +kernel
  rw [this] at hm
  simp at hm
  rcases hm with rfl | rfl
  · rfl
  · exact absurd rfl h

theorem witness_Barriers : barriers (.barc g0) = some (g0, false, .wait) ∧ barriers (.baraFlask g0 3) = some (g0, true, .arrive 3) ∧ barriers (.barwCrew g0 7) = some (g0, false, .phase 7) ∧ unitPhase crewState false member = some 7
    ∧ unitPhase crewState true member = some 8 ∧ (memberFlags false member).arrived = false ∧ (memberFlags true member).outstanding = false ∧ someoneMissing crewState false member ∧ someoneMissing crewState true member
    ∧ CanIssue crewState member g0 {} ∧ CanIssue crewState member g0 (touchS 3) ∧ CanIssue crewState member g0 (touchS 7) ∧ (member.readS 7).extractLsb' 0 32 = 7 ∧ ¬ isOver 7 7 ∧ isOver 7 ((member.readS 1).extractLsb' 0 32) ∧ unfused crewState
    ∧ CanIssue (outstandingState 6) (outstandingAt 6) g0 {} ∧ (memberFlags false (outstandingAt 6)).outstanding = true ∧ isOver 7 6 ∧ lastToArrive lastState false member ∧ lastToArrive lastState true member ∧ lastState.canonical
    ∧ thread.detached = true ∧ (memberFlags true thread).outstanding = false ∧ isRunner (one 112 thread).cur = true ∧ CanIssue (one 112 thread) thread g0 {}
    ∧ after (exec (.barc g0) crewState) (fun u => threadIs u 96 (fun t => t.status == .parked (.barrier false 7 true) && t.pc == 0x2000 && t.barCrew.arrived)) = true
    ∧ after (exec (.baraFlask g0 3) crewState) (fun u => threadIs u 96 (fun t => t.readS 3 == 8 && t.barFlask.arrived)) = true
    ∧ after (exec (.barwCrew g0 1) crewState) (fun u => threadIs u 96 (fun t => t.status == .active && t.pc == 0x2004)) = true
    ∧ after (exec (.barc g0) (outstandingState 7)) (fun u => threadIs u 96 (fun t => t.status == .parked (.barrier false 7 true) && !t.barCrew.outstanding)) = true
    ∧ after (exec (.barc g0) (outstandingState 6)) (fun u => threadIs u 96 (fun t => t.status == .active && t.pc == 0x2004 && !t.barCrew.outstanding)) = true := by
  and_intros <;> first | decide +kernel | exact canIssue_of_canB (by decide +kernel) | rfl | apply someone_missing | apply last_to_arrive | (unfold isOver; decide)

/-- A detached thread's earlier accesses come before its later ones at its own barrier (R52, R67). -/
theorem witness_Barriers_detached : after (exec (.barc g0) { one 96 thread with reqs := [(51, newReq core3 96 thread 51 50 .store [(0x2048, 8)])] }) (fun u => threadIs u 96 (fun t => t.pc == 0x2004 && t.after == [51] && t.barCrew.prev == [51])) = true := by
  decide +kernel

/-- The last arrival at the crew's barrier: the phase becomes 8, the waiter goes on past its `BAR`, and nobody has arrived at the next phase (R67). -/
theorem witness_Barriers_last : after (exec (.barc g0) lastState) (fun u => (mapGet 21 u.crews).map (·.phase) == some 8 && threadIs u 0 (fun t => t.status == .active && t.pc == 0x2004 && !t.barCrew.arrived)
    && threadIs u 96 (fun t => t.status == .active && t.pc == 0x2004 && !t.barCrew.arrived)) = true
    ∧ after (exec (.baraFlask g0 3) lastState) (fun u => (mapGet 20 u.flasks).map (·.phase) == some 9 && threadIs u 96 (fun t => t.readS 3 == 8 && !t.barFlask.arrived)) = true := by
  and_intros <;> decide +kernel

/-! ### Witnesses: what the threads of a tile share -/

/-- Tile 0 with two units in semaphore 3 and an entry in queue 2. -/
def sharing : State := { core3 with tiles := [(0, { sems := (Vector.replicate 16 {}).set 3 { count := 2, owner := some 5 }, queues := (Vector.replicate 4 {}).set 2 { owner := some 5, entries := [(77, [])] } })] }

theorem witness_SemaphoresAndQueues : mayOwn ((core3.tile 0).sem 3).owner thread.ctx ∧ CanIssue core3 thread g0 (touchS 4) ∧ ((core3.tile 0).sem 3).waiters = [] ∧ (thread.readS 4).toNat % 2 ^ 32 ≠ 0 ∧ CanIssue sharing thread g0 (touchP 4)
    ∧ 0 < ((sharing.tile 0).sem 3).count ∧ unfused sharing ∧ CanIssue core3 thread g0 (touchP 4) ∧ ((core3.tile 0).sem 3).count = 0 ∧ CanIssue core3 thread g0 {} ∧ isRunner core3.cur = false
    ∧ mayOwn ((sharing.tile 0).queue 2).owner thread.ctx ∧ CanIssue sharing thread g0 (touches [touchP 4, touchS 7]) ∧ CanIssue sharing thread g0 (touches [touchS 3, touchP 4]) ∧ ((sharing.tile 0).queue 2).entries = [(77, [])]
    ∧ ((core3.tile 0).queue 2).entries = []
    ∧ after (exec (.semdn g0 4 3) sharing) (fun u => ((u.tile 0).sem 3).count == 1 && threadIs u 96 (fun t => !t.readP 4)) = true
    ∧ after (exec (.qpop g0 3 4 2) sharing) (fun u => ((u.tile 0).queue 2).entries.isEmpty && threadIs u 96 (fun t => t.readS 3 == 77 && !t.readP 4)) = true
    ∧ after (exec (.qpush g0 4 7 2) sharing) (fun u => ((u.tile 0).queue 2).entries == [(77, []), (7, [])]) = true ∧ after (exec (.semw g0 3) core3) (fun u => ((u.tile 0).sem 3).waiters == [96]) = true := by
  and_intros <;> first | decide +kernel | exact canIssue_of_canB (by decide +kernel) | exact Or.inl rfl | exact Or.inr rfl | rfl

/-- Slots 0 and 32 of tile 0 wait at semaphore 3, which has no units. -/
def queueing : State := { core3 with
  threads := [(0, { thread with status := .parked (.sem 0 3), waitSince := some (.parked (.sem 0 3), 900) }), (32, { thread with status := .parked (.sem 0 3), waitSince := some (.parked (.sem 0 3), 900) }), (96, thread)]
  tiles := [(0, { sems := (Vector.replicate 16 {}).set 3 { count := 0, owner := some 5, waiters := [32, 0] } })] }

/-- Of the 3 units of s11 two go to the waiters; 0 units do nothing (R250). -/
theorem witness_SemaphoresAndQueues_waiters : mayOwn ((queueing.tile 0).sem 3).owner thread.ctx ∧ CanIssue queueing thread g0 (touchS 11) ∧ ((queueing.tile 0).sem 3).waiters.Nodup ∧ queueing.cur ∉ ((queueing.tile 0).sem 3).waiters
    ∧ (thread.readS 11).toNat % 2 ^ 32 ≠ 0 ∧ (thread.readS 0).toNat % 2 ^ 32 = 0 ∧ CanIssue core3 thread g0 (touchS 0) ∧ CanIssue (one 112 thread) thread g0 {}
    ∧ after (exec (.semup g0 11 3) queueing) (fun u => (u.tile 0).sem 3 == { count := 1, owner := some 5, waiters := [] } && threadIs u 32 (fun t => t.status == .active && t.pc == 0x2004) && threadIs u 0 (fun t => t.status == .active && t.pc == 0x2004)) = true
    ∧ gives (exec (.semup g0 0 3) core3) (core3.ran thread 4 id) = true
    ∧ trapsB (one 112 thread) thread (.semw g0 3) .runnerWait 0 = true := by
  and_intros <;> first | decide +kernel | exact canIssue_of_canB (by decide +kernel) | exact Or.inr rfl

/-- 1000 / 3 = 333, 1000 mod 64 = 40. -/
theorem witness_Counting : CanIssue core3 thread g0 (touchS 3) ∧ (∀ o ∈ thread.ops, o.token = true) ∧ CanIssue core3 thread g0 {} ∧ CanIssue core3 thread g0 (touchP 3)
    ∧ after (exec (.cyc g0 3 1) core3) (fun u => threadIs u 96 (fun t => t.readS 3 == 333)) = true ∧ after (exec (.cyc g0 3 0) { core3 with tiles := [(0, { ahead := 5 })] }) (fun u => threadIs u 96 (fun t => t.readS 3 == 1005)) = true ∧ after (exec (.cyc g0 3 2) core3) (fun u => threadIs u 96 (fun t => t.readS 3 == 40)) = true
    ∧ after (exec (.tfenceClose g0 3) core3) (fun u => threadIs u 96 (fun t => t.readP 3 && !t.inreg)) = true := by
  and_intros <;> first | decide +kernel | exact canIssue_of_canB (by decide +kernel) | exact fun _ h => (nomatch h)

/-! ### Witnesses: engines, lists, scenes, pixels -/

/-- On core 2 with an address of the window in s1 and the shape of 2 rows 512 bytes apart in s2, and a scan of 16 steps in chunks of 8 in s3 and s4. -/
def engineThread : Thread := { thread with
  s := #v[0, 0xFFFFFFFFF02000, 0x2000002, 0xFFFFFFFFF10000, 0x80010, 0, 0, 0, 0, 0, 0, 0, 0, 0, 0, 0]
  e := #v[0xFFFFFFFFF20000, 0xFFFFFFFFF30000, 0xFFFFFFFFF40000, 0xFFFFFFFFF50000, 0xFFFFFFFFF60000, 0, 0, 0], fmta := 0xFFFFFFFFF00000, fmtb := 0xFFFFFFFFF00000, fmts := 0xFFFFFFFFF00000 }

/-- The descriptor of a copy of two rows of 8 bytes. -/
def copyThread : Thread := { thread with e := #v[0xFFFFFFFFF02000, 0xFFFFFFFFF03000, 0x200000008, 0x1000000010, 0, 0, 0, 0] }

theorem witness_EngineCommandsIssue : (command core2 engineThread (.mma g0 6 1 2 0)).isSome = true ∧ (Instr.mma g0 6 1 2 0).wf = true ∧ CanIssue (one 64 engineThread) engineThread g0 (touches [touchS 6, touchS 1, touchS 2, touchFlags])
    ∧ roleOf 64 = 2 ∧ isRunner 64 = false ∧ arrayOpen (one 64 engineThread) 5 ∧ (engineQ ((one 64 engineThread).tile 0) 2).length < 16 ∧ rowsOk (engineThread.readS 1) (engineThread.readS 2) 1 true
    ∧ CanIssue (one 0 copyThread) copyThread g0 (touchS 6) ∧ roleOf 0 = 0 ∧ copyOk copyThread false
    ∧ CanIssue (coefState engineThread 64) engineThread g0 (touches [touchS 6, touchS 3, touchS 4, touchCoef]) ∧ ((coefState engineThread 64).tile 0).coefOwner = some 5
    ∧ after (exec (.mma g0 6 1 2 0) (one 64 engineThread)) (fun u => (engineQ (u.tile 0) 2).map (fun c => (c.work, c.token, c.a, c.b)) == [(.stream false false, 6, 0xFFFFFFFFF02000, 0x2000002)] && (u.tile 0).array.holder == some 5) = true
    ∧ after (exec (.cpy g0 6 2) (one 0 copyThread)) (fun u => (engineQ (u.tile 0) 0).map (fun c => (c.work, c.token)) == [(.copy, 6)] && threadIs u 0 (fun t => t.ops.map (·.dest) == [touchS 6] && t.windows.map (·.dest) == [{}])) = true
    ∧ after (exec (.sscan g0 6 3 4 0) (coefState engineThread 64)) (fun u => (engineQ (u.tile 0) 2).map (·.work) == [.scan]) = true := by
  and_intros <;> first | decide +kernel | exact canIssue_of_canB (by decide +kernel) | exact Or.inl rfl

/-- Another context holds the array; and a full FIFO. -/
def heldArray : State := { one 64 engineThread with tiles := [(0, { array := { holder := some 6 } })] }
def fullFifo : State := { one 0 copyThread with tiles := [(0, { copyQ := List.replicate 16 pushed })] }

theorem witness_EngineCommandsIssue_refused : (command core3 engineThread (.mma g0 6 1 2 0)).isSome = true ∧ CanIssue (one 96 engineThread) engineThread g0 (touches [touchS 6, touchS 1, touchS 2, touchFlags]) ∧ rowsOk (engineThread.readS 1) (engineThread.readS 2) 1 true
    ∧ roleOf 96 ≠ 2 ∧ isRunner 80 = true ∧ ¬ arrayOpen heldArray 5 ∧ CanIssue fullFifo copyThread g0 (touchS 6) ∧ copyOk copyThread false ∧ 16 ≤ (engineQ (fullFifo.tile 0) 0).length
    ∧ trapsB (one 96 engineThread) engineThread (.mma g0 6 1 2 0) .protection 0 = true ∧ trapsB (one 80 engineThread) engineThread (.mma g0 6 1 2 0) .protection 0 = true ∧ trapsB heldArray engineThread (.mma g0 6 1 2 0) .protection 0 = true
    ∧ trapsB (one 64 copyThread) copyThread (.cpy g0 6 2) .protection 0 = true
    ∧ gives (exec (.cpy g0 6 2) fullFifo) (fullFifo.withCurrent { copyThread with status := .waiting .room, waitSince := some (.waiting .room, 1000), word := 0x12345679 }) = true := by
  and_intros <;> first | decide +kernel | exact canIssue_of_canB (by decide +kernel) | (intro h; rcases h with h | h <;> exact absurd h (by decide))

/-- On core 3 of tile 0, with a list of no records in s1, a setting in s2, an address in s3 of 64-byte alignment; e holds a structure of 256 bytes and a ring of 2 entries. -/
def listThread : Thread := { thread with
  detached := false, s := #v[0, 0xFFFFFFFFF02000, 1, 0xFFFFFFFFF00040, 8, 0, 0, 0, 0, 0, 0, 0, 0, 0, 0, 0], e := #v[0x2000, 0x100, 0x00011, 0, 0, 0, 0, 0] }
def listState : State := coefState listThread 96

theorem witness_RequestsIssue : (Instr.rlinit g0 1 2 0).wf = true ∧ vectorsOk (.rlinit g0 1 2 0) listThread ∧ CanIssue listState listThread g0 (touches [touchS 2, touchS 1, touchCoef]) ∧ roleOf 96 = 3 ∧ listOk (listThread.readS 1) 1
    ∧ mayOwn (listState.tile 0).coefOwner 5 ∧ ((coefsOf listState 96 listThread).entry .exp2).isSome = true ∧ ((coefsOf listState 96 listThread).entry .log2).isSome = true
    ∧ inGrid listState listThread ∧ addressOk (listThread.readS 3) 64 ∧ CanIssue listState listThread g0 (touches [touchS 3, touchS 2]) ∧ listRead listState (listThread.readS 1)
    ∧ vectorsOk (.tri g0 2 3 1 4) listThread ∧ CanIssue listState listThread g0 (touches [touchV 2, touchP 4, touchS 3, touchV 1, touchCoef])
    ∧ after (exec (.rlinit g0 1 2 0) listState) (fun u => u.reqs.map (fun r => r.2.ask) == [.list (.init 1)]) = true ∧ after (exec (.launch g0 3 2 0) listState) (fun u => u.reqs.map (fun r => r.2.ask) == [.launch 1 none]) = true
    ∧ after (exec (.tri g0 2 3 1 4) listState) (fun u => u.reqs.map (fun r => r.2.spans) == [[(0xFFFFFFFFF00040, 64)]] && threadIs u 96 (fun t => t.windows.isEmpty)) = true := by
  and_intros <;> first | decide +kernel | exact canIssue_of_canB (by decide +kernel) | exact Or.inr rfl

theorem witness_TraversalStarts : CanIssue listState listThread g0 (touches [touchS 6, touchS 1, touchV 1, touchCoef]) ∧ (listThread.readS 1).toNat < 2 ^ 56 ∧ listRead listState (listThread.readS 1) ∧ coefOk listState listThread [.exp2, .log2]
    ∧ (listThread.readE 0).toNat % 128 = 0 ∧ (listThread.readE 1).toNat = 256 ∧ bits (listThread.readE 2).toNat 19 4 * 16 + 16 * 2 ^ bits (listThread.readE 2).toNat 3 0 ≤ 2 ^ 20 ∧ bits (listThread.readE 2).toNat 3 0 = 1
    ∧ (listState.tile 0).rays.length < 128
    ∧ after (exec (.trvgo g0 6 1 1 0) listState) (fun u => (u.tile 0).rays.map (fun r => (r.list, r.base, r.size)) == [(0xFFFFFFFFF02000, 0x2000, 256)] && threadIs u 96 (fun t => t.ops.map (·.token) == [true])) = true := by
  and_intros <;> first | decide +kernel | exact canIssue_of_canB (by decide +kernel) | exact Or.inr rfl

/-- A graphics context descriptor at window offset 0: one surface slot, valid, of R8G8B8A8, 16 × 16 at 0x200, REPLACE, with the scissor of 16 × 16 pixels. -/
def descriptor : List Host.Cell := [(localKey 0 1, 2#8), (localKey 0 8, 16#8), (localKey 0 10, 16#8), (localKey 0 13, 1#8), (localKey 0 15, 1#8), (localKey 0 548, 16#8), (localKey 0 550, 16#8)]
/-- A resident context whose draw is 1 and a group of it, with a fragment to pop. -/
def resident : GraphicsContext := ⟨5, 0xFFFFFFFFF00000, some 0, peek descriptor (localKey 0 0) 1024, some 1, 30, 0, [0], [1], [96], 10⟩
def openGroup : Group := ⟨7, 30, 0, 1, [], none, [⟨3, 4, 0, 0, 0⟩], []⟩
def pixelThread : Thread := { thread with s := #v[0, 0xFFFFFFFFF00000, 0x100000002, 0, 0, 0, 0, 0, 0, 0, 0, 0, 0, 0, 0, 0], group := some openGroup }
def pixelState : State := { one 96 pixelThread with mem := descriptor, gctxs := [(7, resident)] }
def freshPixel : Thread := { pixelThread with group := none }

theorem witness_GroupsAndFragments : CanIssue pixelState pixelThread g0 (touches [touchS 0, touchS 2]) ∧ addressOk (pixelThread.readS 0) 1024 ∧ mapGet 7 pixelState.gctxs = some resident ∧ resident.serial = openGroup.draw ∧ ownReqs pixelState 96 = []
    ∧ CanIssue (one 96 freshPixel) freshPixel g0 (touches [touchS 1, touchS 2]) ∧ addressOk (freshPixel.readS 1) 1024 ∧ freshPixel.readS 1 ≠ 0 ∧ inWindow (freshPixel.readS 1).toNat = true
    ∧ contextFault (peek descriptor (localKey 0 0) 1024) = none ∧ bits (freshPixel.readS 2).toNat 47 32 = 1 ∧ bits (freshPixel.readS 2).toNat 31 0 = 2
    ∧ mapGet (gctxKey 5 0 0xFFFFFFFFF00000) [(gctxKey 5 0 0xFFFFFFFFF00000, resident)] = some resident
    ∧ CanIssue pixelState pixelThread g0 (touchV 1) ∧ CanIssue pixelState pixelThread g0 (touches [touchV 1, touchP 3]) ∧ CanIssue pixelState pixelThread g0 (touches [touchS 0, touchV 1]) ∧ slotValid resident.bytes 0 = true
    ∧ CanIssue (one 96 freshPixel) freshPixel g0 (touchV 1)
    ∧ after (exec (.gctx g0 0 2 0) pixelState) (fun u => (mapGet 7 u.gctxs).map (fun c => (c.lwm, c.ended, c.bound)) == some (2, [], []) && threadIs u 96 (fun t => t.group.isNone)) = true
    ∧ after (exec (.gctx g0 1 2 0) { one 96 freshPixel with mem := descriptor }) (fun u => threadIs u 96 (fun t => t.group.map (fun g => (g.index, g.draw)) == some (2, 50)) && u.gctxs.map (fun c => (c.2.draw, c.2.begun)) == [(some 1, [2])]) = true
    ∧ after (exec (.rasfrag g0 1 3 0) pixelState) (fun u => threadIs u 96 (fun t => t.ops.map (·.result) == [some { writes := [.v 1 0x40003, .p 3 false] }])) = true
    ∧ after (exec (.blend g0 0 1 0) pixelState) (fun u => u.reqs.map (fun r => (r.2.data, r.2.cmp, r.2.seq)) == [(7, 0, 30)]) = true := by
  and_intros <;> first | decide +kernel | exact canIssue_of_canB (by decide +kernel)

/-! ### Witnesses: requests at their homes, and writebacks -/

/-- An operation in flight with s3 as its destination, whose window is open. -/
def op50 : PendOp := ⟨50, 0x1FFC, 0x12345679, true, touchS 3, false, true, 0, false, 990, none⟩
def flying : Thread := { thread with status := .waiting .scoreboard, ops := [op50], windows := [⟨50, 0x1FFC, 3, touchS 3⟩] }
/-- A request of slot 0 of core 3 for the word or part of a word at offset 0x100 of the local store of tile 0, whose word is 0x8081828384858687. -/
def asking (a : Ask) (n : Nat) : Req := { newReq core3 96 thread 51 50 a [(0xFFFFFFFFF00100, n)] with d := 3, pf := 4, data := 0x0102030405060708, issued := 990 }
def wordCells : List Host.Cell := [(localKey 0 0x100, 0x87#8), (localKey 0 0x101, 0x86#8), (localKey 0 0x102, 0x85#8), (localKey 0 0x103, 0x84#8), (localKey 0 0x104, 0x83#8), (localKey 0 0x105, 0x82#8), (localKey 0 0x106, 0x81#8), (localKey 0 0x107, 0x80#8)]
def arriving (r : Req) : State := { one 96 flying with reqs := [(51, r)], mem := wordCells, input := .one 51 }

theorem ready_of (s : State) (r : Req) (h : s.threads = [(96, flying)] ∧ r.id = 51 ∧ r.who = .thread 96 ∧ r.core < 8192) (h1 : mapGet 51 s.reqs = some r) (h2 : outstanding s r.after = []) : Ready s 51 r 96 flying :=
  ⟨h1, h.2.1, h.2.2.1, h2, h.2.2.2, by simp [State.thread?, h.1, mapGet], rfl⟩

theorem arriving_of (s : State) (r : Req) (h : (s.threads = [(96, flying)] ∧ r.id = 51 ∧ r.who = .thread 96 ∧ r.core < 8192) ∧ s.input = .one 51 ∧ r.parts = [] ∧ r.reached = [] ∧ r.stage = .sent) (h1 : mapGet 51 s.reqs = some r)
    (h2 : outstanding s r.after = []) (h3 : ownEarlier s r r.spans = false) : Arriving s 51 r 96 flying :=
  ⟨⟨ready_of s r h.1 h1 h2, h.2.1, h.2.2.1, h.2.2.2.1⟩, h.2.2.2.2, h3⟩

theorem witness_LoadsAndStoresArrive : (arriving (asking (.load true) 2)).canonical ∧ Arriving (arriving (asking (.load true) 2)) 51 (asking (.load true) 2) 96 flying ∧ Arriving (arriving (asking .store 4)) 51 (asking .store 4) 96 flying
    ∧ (arriving (asking .store 4)).canonical ∧ (asking .store 4).acq = false ∧ (asking .store 4).spans = [(0xFFFFFFFFF00100, 4)] ∧ inWindow 0xFFFFFFFFF00100 = true ∧ ((arriving (asking .store 4)).hold (localKey 0 0x100)).resv = none ∧ (arriving (asking .store 4)).bad = []
    ∧ after (exec .requestArrival (arriving (asking (.load true) 2))) (fun u => threadIs u 96 (fun t => t.status == .active && t.ops.map (·.result) == [some { writes := [.s 3 0xFFFFFFFFFFFF8687] }]) && u.reqs.isEmpty) = true
    ∧ after (exec .requestArrival (arriving (asking .store 4))) (fun u => peek u.mem (localKey 0 0x100) 8 == 0x8081828305060708) = true := by
  and_intros <;> first | decide +kernel | exact canIssue_of_canB (by decide +kernel) | exact arriving_of _ _ (by decide +kernel) (by decide +kernel) (by decide +kernel) (by decide +kernel) | exact canonical_of_canonicalB (by decide +kernel)

/-- The same thread's access of `n` bytes at 0x2048, whose page `g` maps onto itself, or with `mt` 2 onto the host's memory, where 0x2040 holds 42 and 0x2048 holds 7. -/
def sharedAt (a : Ask) (n : Nat) : Req := { asking a n with spans := [(0x2048, n)] }
def reaching (mt : Nat) (r : Req) : State := { mapped 1 flying with
  mem := [(0x2040, 42#8), (0x2048, 7#8), (0x10052, 2#8), (0x10058, 3#8), (0x20000, 1#8), (0x20002, 3#8), (0x30000, 1#8), (0x30002, 4#8), (0x40000, BitVec.ofNat 8 (0x1D + 32 * mt)), (0x40008, 1#8), (hostKey 0x2040, 42#8), (hostKey 0x2048, 7#8)]
  reqs := [(51, r)], input := .one 51 }
def hostPage : CachedLeaf := { page 1 with mt := 2 }
/-- With the line of 0x2048 in the L1, which holds 9 there. -/
def lined (r : Req) : State := { reaching 0 r with cores := [(3, { l1 := [⟨5, 0x102, 9 * 2 ^ 64, true, true, false, false, 0, 2 ^ 30⟩] })] }
def pairReq (va : Nat) (st : Stage) : Req := { asking .loadPair 16 with spans := [(va, 16)], d := 4, stage := st }
def laneReq (a : Ask) : Req := { asking a 2 with spans := [0xFFFFFFFFF00106, 0xFFFFFFFFF00100, 0xFFFFFFFFF00106].map (fun a => (a, 2)), data := 0x3333_2222_1111 }
/-- An acquire by core 3, which has a line and a node to drop. -/
def acquiring : Req := { asking (.load false) 8 with acq := true, scope := .device }
def acquireState : State := { arriving acquiring with cores := [(3, { l1 := [⟨5, 0x102, 9, true, true, false, false, 0, 65536⟩] })], tiles := [(0, { nodes := [⟨5, 0x2000, 0⟩] })] }

theorem witness_LoadsAndStoresArrive_shared : (reaching 0 (sharedAt (.load true) 2)).canonical ∧ Arriving (reaching 0 (sharedAt (.load true) 2)) 51 (sharedAt (.load true) 2) 96 flying ∧ Mapped (reaching 0 (sharedAt (.load true) 2)) 5 0x2048 (page 1)
    ∧ SoleHome (reaching 0 (sharedAt (.load true) 2)) 0x2048 (page 1) ∧ permits (page 1) (some (clusterOfTile 0)) { write := true } = true ∧ permits (page 0) (some (clusterOfTile 0)) {} = false ∧ l1Find (reaching 0 (sharedAt (.load true) 2)) 3 5 0x2048 = none
    ∧ Mapped (reaching 2 (sharedAt (.load true) 2)) 5 0x2048 hostPage ∧ (l1Find (lined (sharedAt .store 2)) 3 5 0x2048).isSome = true ∧ Arriving (lined (sharedAt .store 2)) 51 (sharedAt .store 2) 96 flying ∧ ((reaching 0 (sharedAt .store 2)).hold (holdKey 0x2048 0x2048)).resv = none
    ∧ gives (exec .requestArrival (lined (sharedAt (.load true) 2))) (performedWith (lined (sharedAt (.load true) 2)) 51 96 flying 50 [.s 3 9]) = true
    ∧ after (exec .requestArrival (reaching 0 (sharedAt (.load true) 2))) (fun u => threadIs u 96 (fun t => t.ops.map (·.result) == [some { writes := [.s 3 7] }]) && (u.core 3).l1 == [⟨5, 0x102, 42 + 7 * 2 ^ 64, true, true, false, false, 0, 2 ^ 30⟩]) = true
    ∧ after (exec .requestArrival (reaching 2 (sharedAt (.load true) 2))) (fun u => threadIs u 96 (fun t => t.ops.map (·.result) == [some { writes := [.s 3 7] }]) && u.cores.isEmpty) = true
    ∧ after (exec .requestArrival (lined (sharedAt .store 2))) (fun u => peek u.mem 0x2048 8 == 0x708 && (u.core 3).l1.map (·.bytes) == [0x708 * 2 ^ 64] && u.reqs.isEmpty) = true
    ∧ after (exec .requestArrival { reaching 0 (sharedAt .store 2) with mem := (reaching 0 (sharedAt .store 2)).mem.filter (fun c => c.1 ≠ 0x40008) }) (fun u =>
        threadIs u 96 (fun t => t.ops.map (·.result) == [some { trap := some ⟨.protection, 0x1FFC, none, 0x2048, 0, true, 0x12345679, true, false⟩ }])) = true := by
  and_intros <;> first | decide +kernel | exact canonical_of_canonicalB (by decide +kernel) | exact arriving_of _ _ (by decide +kernel) (by decide +kernel) (by decide +kernel) (by decide +kernel) | exact mapped_of (by decide +kernel) (by decide +kernel) | (apply soleHome_of; rfl)

theorem witness_LoadsAndStoresArrive_pairs : Arriving (arriving (pairReq 0xFFFFFFFFF00100 .sent)) 51 (pairReq 0xFFFFFFFFF00100 .sent) 96 flying ∧ Arriving (reaching 0 (pairReq 0x2040 .sent)) 51 (pairReq 0x2040 .sent) 96 flying
    ∧ Due (reaching 2 (pairReq 0x2040 (.half 42))) 51 (pairReq 0x2040 (.half 42)) 96 flying ∧ Mapped (reaching 2 (pairReq 0x2040 (.half 42))) 5 (0x2040 + 8) hostPage ∧ Mapped (reaching 0 (pairReq 0x2040 .sent)) 5 0x2040 (page 1) ∧ permits hostPage (some (clusterOfTile 0)) {} = true
    ∧ gives (exec .requestArrival (arriving (pairReq 0xFFFFFFFFF00100 .sent))) (performedWith (arriving (pairReq 0xFFFFFFFFF00100 .sent)) 51 96 flying 50 [.s 4 0x8081828384858687, .s 5 0]) = true
    ∧ after (exec .requestArrival (reaching 0 (pairReq 0x2040 .sent))) (fun u => threadIs u 96 (fun t => t.ops.map (·.result) == [some { writes := [.s 4 42, .s 5 7] }])) = true
    ∧ after (exec .requestArrival (reaching 2 (pairReq 0x2040 .sent))) (fun u => u.reqs.map (·.2.stage) == [.half 42] && u.threads == [(96, flying)]) = true
    ∧ after (exec .requestArrival (reaching 2 (pairReq 0x2040 (.half 41)))) (fun u => threadIs u 96 (fun t => t.ops.map (·.result) == [some { writes := [.s 4 41, .s 5 7] }])) = true := by
  and_intros <;> first | decide +kernel | exact arriving_of _ _ (by decide +kernel) (by decide +kernel) (by decide +kernel) (by decide +kernel) | exact ⟨⟨by decide +kernel, rfl, rfl, by decide +kernel, by decide +kernel, rfl, rfl⟩, rfl, rfl, rfl⟩ | exact mapped_of (by decide +kernel) (by decide +kernel)

/-- Lane 1 is word 0x100's first halfword, lanes 0 and 2 its last; the later of two lanes at one address is what a scatter leaves there (R121). -/
theorem witness_LoadsAndStoresArrive_lanes : Arriving (arriving (laneReq (.gather 16))) 51 (laneReq (.gather 16)) 96 flying ∧ (arriving (laneReq (.gather 16))).canonical ∧ (laneReq (.gather 16)).acq = false ∧ (arriving (laneReq (.scatter 16))).holds = []
    ∧ (∀ a ∈ [0xFFFFFFFFF00106, 0xFFFFFFFFF00100], inWindow a = true ∧ inWindow (a + 2 - 1) = true ∧ a % min 2 32 = 0)
    ∧ gives (exec .requestArrival (arriving (laneReq (.gather 16)))) (performedWith (arriving (laneReq (.gather 16))) 51 96 flying 50 [.v 3 0x8081_8687_8081]) = true
    ∧ after (exec .requestArrival (arriving (laneReq (.scatter 16)))) (fun u => peek u.mem (localKey 0 0x100) 8 == 0x3333828384852222) = true
    ∧ Arriving acquireState 51 acquiring 96 flying ∧ (acquireState.cluster (clusterOfTile acquiring.tile)).fused = false
    ∧ gives (exec .requestArrival acquireState) (discarded acquireState acquiring (performedWith acquireState 51 96 flying 50 [.s 3 0x8081828384858687])) = true := by
  and_intros <;> first | decide +kernel | exact canonical_of_canonicalB (by decide +kernel) | exact arriving_of _ _ (by decide +kernel) (by decide +kernel) (by decide +kernel) (by decide +kernel)

/-- An access made lane by lane: what lane 1 has read or stored, and where the lanes of a scatter go. -/
def partOf (j x : Nat) : Part := ⟨j, x, 0xFFFFFFFFF00100 + (if j = 1 then 0 else 6), localKey 0 (0x100 + (if j = 1 then 0 else 6)), (0, 0)⟩
def partState (r : Req) (a : EventArg) : State := { arriving r with input := a }
def halfGathered : Req := { laneReq (.gather 16) with parts := [partOf 1 0x1234] }
def halfScattered : Req := { laneReq (.scatter 16) with parts := [partOf 1 0x2222], reached := [partOf 0 0x1111, partOf 1 0x2222, partOf 2 0x3333] }
/-- `COEFLD` of 8 bytes to offset 16, before and after it has read its source. -/
def coefReq (st : Stage) : Req := { asking (.coef 16) 8 with stage := st }

/-- Lane 1 is read or stored apart, and the rest later; lane 2 of a scatter waits for lane 0, which stores to the same place (R123). -/
theorem witness_LoadsAndStoresArrive_parts : Ready (partState (laneReq (.gather 16)) (.two 51 1)) 51 (laneReq (.gather 16)) 96 flying ∧ (partState (laneReq (.gather 16)) (.two 51 1)).canonical
    ∧ (laneReq (.gather 16)).reads = [0xFFFFFFFFF00106, 0xFFFFFFFFF00100, 0xFFFFFFFFF00106].map (fun a => (a, 2)) ∧ ownEarlier (partState (laneReq (.gather 16)) (.two 51 1)) (laneReq (.gather 16)) [(0xFFFFFFFFF00100, 2)] = false
    ∧ Ready (partState halfGathered (.one 51)) 51 halfGathered 96 flying ∧ ownEarlier (partState halfGathered (.one 51)) halfGathered halfGathered.left = false ∧ halfGathered.left = [(0xFFFFFFFFF00106, 2), (0xFFFFFFFFF00106, 2)]
    ∧ Ready (partState halfScattered (.one 51)) 51 halfScattered 96 flying ∧ Ready (partState halfScattered (.two 51 0)) 51 halfScattered 96 flying
    ∧ gives (exec .requestArrival (partState (laneReq (.gather 16)) (.two 51 1))) { partState (laneReq (.gather 16)) (.two 51 1) with reqs := [(51, { laneReq (.gather 16) with parts := [partOf 1 0x8687] })] } = true
    ∧ gives (exec .requestArrival (partState halfGathered (.one 51))) (performedWith (partState halfGathered (.one 51)) 51 96 flying 50 [.v 3 0x8081_1234_8081]) = true
    ∧ after (exec .requestArrival (partState (laneReq (.scatter 16)) (.two 51 1))) (fun u => peek u.mem (localKey 0 0x100) 8 == 0x8081828384852222 && u.reqs == [(51, halfScattered)] && u.threads == [(96, flying)]) = true
    ∧ after (exec .requestArrival (partState halfScattered (.two 51 2))) (fun _ => true) = false
    ∧ after (exec .requestArrival (partState halfScattered (.two 51 0))) (fun u => peek u.mem (localKey 0 0x100) 8 == 0x1111828384858687 && u.reqs == [(51, { halfScattered with parts := [partOf 1 0x2222, partOf 0 0x1111] })]) = true
    ∧ after (exec .requestArrival (partState halfScattered (.one 51))) (fun u => peek u.mem (localKey 0 0x100) 8 == 0x3333828384858687 && u.reqs.isEmpty) = true := by
  and_intros <;> first | decide +kernel | exact canonical_of_canonicalB (by decide +kernel) | exact ready_of _ _ (by decide +kernel) (by decide +kernel) (by decide +kernel)

/-- The coefficients arrive together or, once all has been read, one by one; what the source holds by then is not read again (R127). -/
theorem witness_LoadsAndStoresArrive_coefs : Ready (partState (coefReq .sent) (.two 51 1)) 51 (coefReq .sent) 96 flying ∧ ownEarlier (partState (coefReq .sent) (.two 51 1)) (coefReq .sent) (coefReq .sent).spans = false
    ∧ Ready (partState (coefReq (.half 0xBBBBBBBBAAAAAAAA)) (.two 51 1)) 51 (coefReq (.half 0xBBBBBBBBAAAAAAAA)) 96 flying ∧ inWindow 0xFFFFFFFFF00107 = true
    ∧ after (exec .requestArrival (partState (coefReq .sent) (.one 51))) (fun u => peek u.mem (coefKey 0 16) 8 == 0x8081828384858687 && u.reqs.isEmpty) = true
    ∧ gives (exec .requestArrival (partState (coefReq .sent) (.two 51 1))) { partState (coefReq .sent) (.two 51 1) with reqs := [(51, coefReq (.half 0x8081828384858687))], threads := [(96, roused flying)] } = true
    ∧ after (exec .requestArrival (partState (coefReq (.half 0xBBBBBBBBAAAAAAAA)) (.two 51 1))) (fun u => peek u.mem (coefKey 0 16) 8 == 0xBBBBBBBB00000000 && u.reqs.map (fun r => r.2.parts) == [[⟨1, 0xBBBBBBBB, 20, coefKey 0 20, (0, 0)⟩]]) = true
    ∧ after (exec .requestArrival (partState (coefReq (.half 0xBBBBBBBBAAAAAAAA)) (.one 51))) (fun u => peek u.mem (coefKey 0 16) 8 == 0xBBBBBBBBAAAAAAAA && u.reqs.isEmpty) = true := by
  and_intros <;> first | decide +kernel | exact ready_of _ _ (by decide +kernel) (by decide +kernel) (by decide +kernel)

/-- The thread that goes on while its access is under way. -/
def awake : Thread := { flying with status := .active, fixed := true }
def missing (r : Req) : State := { one 96 awake with reqs := [(51, r)], input := .one 51 }

/-- No table is placed on the die: NO_CONTEXT, cause byte 2 (R146). -/
theorem witness_LoadsAndStoresArrive_faults : Due (missing (sharedAt .store 8)) 51 (sharedAt .store 8) 96 awake ∧ ownEarlier (missing (sharedAt .store 8)) (sharedAt .store 8) [(0x2048, 8)] = false ∧ walk (missing (sharedAt .store 8)) 5 0x2048 = .missing 2
    ∧ ((missing (sharedAt .store 8)).slice (homeHash 0x2048)).first ++ ((missing (sharedAt .store 8)).slice (lastSlice 0x2048)).last = [] ∧ ((missing (sharedAt .store 8)).die (homeDie 0x2048)).ring = none
    ∧ [(Ask.load false, 0), (.store, 1), (.fullEmpty .ldw, 3), (.atomic .add, 4)].all (fun x => gives (exec .requestArrival (missing (sharedAt x.1 8))) { missing (sharedAt x.1 8) with
        reqs := [(51, { sharedAt x.1 8 with stage := .faulted })], faults := [⟨homeDie 0x2048, 0x2048, 96, x.2, 2, 5, 0x2000, .request 51, 0⟩], threads := [(96, { awake with broken := true, status := .parked .fault, faultSince := some 1000 })]
        dies := [(homeDie 0x2048, { owed := [⟨homeDie 0x2048, 0x2048 + 96 * 2 ^ 64 + x.2 * 2 ^ 96 + 2 * 2 ^ 104 + 5 * 2 ^ 112 + 0x2000 * 2 ^ 128⟩] })] }) = true := by
  and_intros <;> first | decide +kernel | exact ⟨⟨by decide +kernel, rfl, rfl, by decide +kernel, by decide +kernel, rfl, rfl⟩, rfl, rfl, rfl⟩

/-- A die whose ring is placed takes the record of a fault (R147). -/
def missingPlaced : State := { missing (sharedAt .store 8) with dies := [(homeDie 0x2048, { ring := some 0x80000 })] }
theorem witness_LoadsAndStoresArrive_ring : missingPlaced.homes = [] ∧ missingPlaced.holds = [] ∧ (missingPlaced.die (homeDie 0x2048)).owed = [] ∧ walk missingPlaced 5 0x2048 = .missing 2
    ∧ after (exec .requestArrival missingPlaced) (fun u => u.faults.length == 1 && threadIs u 96 (fun t => t.status == .parked .fault) && (u.die (homeDie 0x2048)).prod == 1
      && peek u.mem (hbmKey 0x80000) 32 == 0x2048 + 96 * 2 ^ 64 + 2 ^ 96 + 2 * 2 ^ 104 + 5 * 2 ^ 112 + 0x2000 * 2 ^ 128 && peek u.mem (hbmKey 0x88000) 8 == 1) = true := by
  and_intros <;> decide +kernel

/-- `LDC` takes a FULL word and leaves it EMPTY, `LDW` waits for an EMPTY one, and `STFX` answers false and stores into one. -/
theorem witness_FullEmptyArrives : (arriving (asking (.fullEmpty .ldc) 8)).canonical ∧ Arriving (arriving (asking (.fullEmpty .ldc) 8)) 51 (asking (.fullEmpty .ldc) 8) 96 flying ∧ inWindow 0xFFFFFFFFF00100 = true
    ∧ (arriving (asking (.fullEmpty .ldc) 8)).home (asking (.fullEmpty .ldc) 8).homeKey = {} ∧ (arriving (asking (.fullEmpty .ldc) 8)).hold (localKey 0 0x100) = {}
    ∧ Arriving { arriving (asking (.fullEmpty .ldw) 8) with empties := [(localKey 0 0x100, ())] } 51 (asking (.fullEmpty .ldw) 8) 96 flying
    ∧ (listedAt (arriving (asking (.fullEmpty .ldw) 8)) (asking (.fullEmpty .ldw) 8).slice false).length < homeEntries (asking (.fullEmpty .ldw) 8).slice
    ∧ after (exec .requestArrival (arriving (asking (.fullEmpty .ldc) 8))) (fun u => isEmptyWord u (localKey 0 0x100) && threadIs u 96 (fun t => t.ops.map (·.result) == [some { writes := [.s 3 0x8081828384858687] }])) = true
    ∧ after (exec .requestArrival { arriving (asking (.fullEmpty .ldw) 8) with empties := [(localKey 0 0x100, ())] }) (fun u => u.reqs.map (·.2.stage) == [.listed none] && u.homes.map (·.2.list) == [[51]]) = true
    ∧ after (exec .requestArrival { arriving (asking (.fullEmpty .stfx) 8) with empties := [(localKey 0 0x100, ())] }) (fun u => peek u.mem (localKey 0 0x100) 8 == 0x0102030405060708 && u.empties.isEmpty
      && threadIs u 96 (fun t => t.ops.map (·.result) == [some { writes := [.p 4 false] }])) = true := by
  and_intros <;> first | decide +kernel | exact canIssue_of_canB (by decide +kernel) | exact arriving_of _ _ (by decide +kernel) (by decide +kernel) (by decide +kernel) (by decide +kernel) | exact ⟨⟨⟨by decide +kernel, rfl, rfl, by decide +kernel, by decide +kernel, rfl, rfl⟩, rfl, rfl, rfl⟩, rfl, by decide +kernel⟩ | exact canonical_of_canonicalB (by decide +kernel)

/-- A waiter of slot 1 of core 3 on the word of the request, and what arrives for it. -/
def listedBy (op : FeOp) : Req := { asking (.fullEmpty op) 8 with id := 40, who := .thread 97, stage := .listed none, d := 6, data := 0x99 }
def serving (op mine : FeOp) (empty : Bool) : State := { arriving (asking (.fullEmpty mine) 8) with
  threads := [(96, flying), (97, flying)], reqs := [(40, listedBy op), (51, asking (.fullEmpty mine) 8)], homes := [((listedBy op).homeKey, { list := [40] })], empties := if empty then [(localKey 0 0x100, ())] else [] }
/-- Both operations are finished, and the word is left with its data and state. -/
def bothEnd (o : Step) (mine its : List RegWrite) (data : Nat) (empty : Bool) : Bool := after o (fun u => u.reqs.isEmpty && u.homes.isEmpty && peek u.mem (localKey 0 0x100) 8 == data && isEmptyWord u (localKey 0 0x100) == empty
  && threadIs u 96 (fun t => t.ops.map (·.result) == [some { writes := mine }] && t.status == .active) && threadIs u 97 (fun t => t.ops.map (·.result) == [some { writes := its }] && t.status == .active))

theorem witness_FullEmptyArrives_serves : (serving .ldw .stf true).canonical ∧ (serving .stf .ldc false).canonical ∧ Due (serving .ldw .stf true) 51 (asking (.fullEmpty .stf) 8) 96 flying ∧ ownEarlier (serving .ldw .stf true) (asking (.fullEmpty .stf) 8) [(0xFFFFFFFFF00100, 8)] = false
    ∧ (serving .ldw .stf true).home (asking (.fullEmpty .stf) 8).homeKey = { list := [40] } ∧ mapGet 40 (serving .ldw .stf true).reqs = some (listedBy .ldw) ∧ (listedBy .ldw).spans = (asking (.fullEmpty .stf) 8).spans
    ∧ listedAt (serving .ldw .stf true) (asking (.fullEmpty .stf) 8).slice true = [] ∧ isEmptyWord (serving .ldw .stf true) (localKey 0 0x100) = true ∧ (serving .ldw .stf true).hold (localKey 0 0x100) = {}
    ∧ bothEnd (exec .requestArrival (serving .ldw .stf true)) [] [.s 6 0x0102030405060708] 0x0102030405060708 false = true
    ∧ bothEnd (exec .requestArrival (serving .ldc .stf true)) [] [.s 6 0x0102030405060708] 0x0102030405060708 true = true
    ∧ bothEnd (exec .requestArrival (serving .stf .ldc false)) [.s 3 0x8081828384858687] [] 0x99 false = true := by
  and_intros <;> first | decide +kernel | exact canonical_of_canonicalB (by decide +kernel) | exact ⟨⟨by decide +kernel, rfl, rfl, by decide +kernel, by decide +kernel, rfl, rfl⟩, rfl, rfl, rfl⟩

/-- An atomic addition after its take. -/
def takenReq : Req := { asking (.atomic .add) 8 with stage := .taken 0x8081828384858687 (localKey 0 0x100) }
def takenState : State := { arriving takenReq with holds := [(localKey 0 0x100, { resv := some 51 })] }

theorem witness_AtomicsTakeAndPut : (arriving (asking (.atomic .add) 8)).canonical ∧ unordered .add ∧ outstanding (arriving (asking (.atomic .add) 8)) (asking (.atomic .add) 8).after = []
    ∧ (arriving (asking (.atomic .add) 8)).hold (localKey 0 0x100) = {} ∧ (asking (.atomic .add) 8).core < 8192 ∧ isEmptyWord (arriving (asking (.atomic .add) 8)) (storeKey (asking (.atomic .add) 8) 0xFFFFFFFFF00100) = false
    ∧ takenState.canonical ∧ takenState.home takenReq.homeKey = {} ∧ takenState.hold (localKey 0 0x100) = { resv := some 51 } ∧ bufferedAt takenState takenReq.slice = [] ∧ (∀ d ∈ takenState.dies, d.2.owed = []) ∧ (putWord .add 0x8081828384858687 (mod64 takenReq.data) takenReq.cmp).isSome = true ∧ storeKey takenReq 0xFFFFFFFFF00100 = localKey 0 0x100
    ∧ after (exec .requestArrival (arriving (asking (.atomic .add) 8))) (fun u => u.reqs.map (·.2.stage) == [takenReq.stage] && u.holds == [(localKey 0 0x100, { resv := some 51 })]) = true
    ∧ after (exec .put takenState) (fun u => peek u.mem (localKey 0 0x100) 8 == 0x81838587898B8D8F && u.holds.isEmpty && threadIs u 96 (fun t => t.ops.map (·.result) == [some { writes := [.s 3 0x8081828384858687] }])) = true := by
  and_intros <;> first | decide +kernel | exact canIssue_of_canB (by decide +kernel)

/-- A finished operation; a request that was refused until cycle 900; one that has waited on a list since cycle 990, within WAITLIM and beyond it. -/
def finishedOp : PendOp := { op50 with result := some { writes := [.s 3 7, .p 4 true], trap := none } }
def refusedReq : Req := { asking .store 8 with stage := .refused 900 }
def trappedOp : PendOp := { op50 with result := some { trap := some ⟨.parkExhausted, 0x1FFC, none, 0xFFFFFFFFF00100, 0, true, 0x12345679, true, false⟩, exact := true } }
def listedReq : Req := { asking (.fullEmpty .ldw) 8 with stage := .listed none, waitlim := 10 }
def listedState (r : Req) (a : EventArg) : State := { arriving r with input := a, homes := [(r.homeKey, { list := [51] })] }

theorem witness_OperationsEnd :
    ({ one 96 { flying with ops := [finishedOp] } with input := .two 96 50 } : State).canonical ∧ ({ flying with ops := [finishedOp] } : Thread).ops.find? (·.id = finishedOp.id) = some finishedOp ∧ flying.status ≠ .spilled ∧ (∀ w x, RegWrite.w w x ∉ [RegWrite.s 3 7, .p 4 true])
    ∧ ({ flying with ops := [trappedOp] } : Thread).ops.find? (·.id = trappedOp.id) = some trappedOp
    ∧ (arriving refusedReq).canonical ∧ refusedReq.stage = .refused 900 ∧ passed (arriving refusedReq) refusedReq.tile 900 100
    ∧ (listedState listedReq (.two 96 50)).canonical ∧ (ownReqs (listedState listedReq (.two 96 50)) 96).find? (·.op = listedReq.op) = some listedReq ∧ listedReq.waitlim ≠ 0 ∧ passed (listedState listedReq (.two 96 50)) listedReq.tile listedReq.issued 10 ∧ listedReq.waitlim ≤ 10 ∧ faultOf (listedState listedReq (.two 96 50)) 96 = none
    ∧ (listedState { listedReq with expiring := true } (.one 51)).canonical ∧ listedAt (listedState { listedReq with expiring := true } (.one 51)) listedReq.slice true = [] ∧ flying.ops.find? (·.id = listedReq.op) = some op50
    ∧ after (exec .writeback { one 96 { flying with ops := [finishedOp] } with input := .two 96 50 }) (fun u => threadIs u 96 (fun t => t.status == .active && t.readS 3 == 7 && t.readP 4 && t.ops.isEmpty && t.windows.isEmpty)) = true
    ∧ after (exec .writeback { one 96 { flying with ops := [trappedOp] } with input := .two 96 50 }) (fun u => threadIs u 96 (fun t => t.ops.isEmpty && t.due.map (fun d => (d.1, d.2.cause, d.2.deferred, d.2.resume)) == [(50, .parkExhausted, false, some 0x1FFC)])) = true
    ∧ after (exec .resend (arriving refusedReq)) (fun u => u.reqs.map (fun r => (r.2.stage, r.2.resends)) == [(.sent, 1)]) = true
    ∧ after (exec .waitlimExpiry (listedState listedReq (.two 96 50))) (fun u => u.reqs.map (·.2.expiring) == [true]) = true
    ∧ after (exec .withdraw (listedState { listedReq with expiring := true } (.one 51))) (fun u => u.reqs.isEmpty && u.homes.isEmpty
      && threadIs u 96 (fun t => t.ops.map (fun o => o.result.map (fun x => x.trap.map (fun y => (y.cause, y.addr, y.deferred)))) == [some (some (.waitExpired, 0xFFFFFFFFF00100, false))])) = true := by
  and_intros <;> first | exact canonical_of_canonicalB (by decide +kernel) | decide +kernel | simp

/-! ### Witnesses: exceptions -/

/-- The trap of a `TRAP s5` of the thread on core 3, whose record stands at offset 0xA000. -/
def softTrap : TrapReq := trapAfter thread 0x12345679 .soft (thread.readS 5)

theorem ready (s : State) (k : Nat) (t : Thread) (r : TrapReq) (key : Nat) (h : canonicalB s = true) (ht : s.thread? k = some t) (hi : t.intrap = false)
    (hb : t.pending.meets { s := 0x2000, p := 0xFFFF } = false ∧ t.trapvec ≠ 0 ∧ t.traprec.toNat < 2 ^ 56 ∧ t.traprec.toNat % 64 = 0 ∧ barred s k t [(t.traprec.toNat, 64)] = false ∧ k < 2 ^ 18
      ∧ (∀ i < 8, (s.hold (key + 8 * i)).resv = none) ∧ spoiled s key 64 = false ∧ inWindow t.traprec.toNat = true ∧ key = localKey (tileOf k) (t.traprec.toNat - windowBase)) : TrapReady s k t r key := by
  obtain ⟨h1, h2, h3, h4, h5, h6, h7, h8, h9⟩ := hb
  exact ⟨canonical_of_canonicalB h, ht, h1, h2, fun h => absurd h (by rw [hi]; decide), h3, h4, h5, h6, h7, h8, h9⟩

/-- A thread with a deferred trap that is due. -/
def dueTrap : TrapReq := ⟨.protection, 0x1000, none, 0x77, 0, true, 0, true, false⟩
def dueThread : Thread := { thread with due := [(50, dueTrap)] }
def dueState : State := { one 96 dueThread with input := .one 96 }

theorem witness_TrapsAreTaken : CanIssue core3 thread g0 (touchS 5) ∧ TrapReady core3 96 thread softTrap (localKey 0 0xA000) ∧ CanIssue core3 thread g0 {} ∧ TrapReady core3 96 thread (trapAfter thread 0x12345679 .brk 0) (localKey 0 0xA000)
    ∧ softTrap.deferred = false ∧ dueThread.status = .active ∧ dueThread.forfeits = 0 ∧ dueThread.blocked = false ∧ dueTrap.deferred = true
    ∧ TrapReady { dueState with threads := mapPut 96 { dueThread with due := [] } dueState.threads } 96 { dueThread with due := [] } dueTrap (localKey 0 0xA000)
    ∧ after (exec (.trap g0 5) core3) (fun u => threadIs u 96 (fun t => t.intrap && t.pc == 0x9000 && t.readS 13 == 0xFFFFFFFFF0A000) && (List.range 8).map (fun i => peek u.mem (localKey 0 0xA000 + 8 * i) 8)
      == [0x2000, 0x2004, 0x8000000000000000, 0, 0x5A5B + 0x0D * 2 ^ 16 + 2 * 2 ^ 24 + 0x12345679 * 2 ^ 32, 0, 1000, 0]) = true
    ∧ after (exec .trapEntry dueState) (fun u => threadIs u 96 (fun t => t.intrap && t.due.isEmpty) && peek u.mem (localKey 0 0xA000) 8 == 0x1000 && peek u.mem (localKey 0 0xA008) 8 == 0x2000 && peek u.mem (localKey 0 0xA023) 1 == 3) = true := by
  and_intros <;> first | decide +kernel | exact canIssue_of_canB (by decide +kernel) | exact ready _ _ _ _ _ (by decide +kernel) rfl rfl (by decide +kernel)

/-- A handler whose record has 0x3005 as RESUME, 9 as S13 and 0x8000 as PRED. -/
def handler : Thread := { thread with intrap := true }
def handlerState : State := { one 96 handler with mem := [(localKey 0 0xA008, 0x05#8), (localKey 0 0xA009, 0x30#8), (localKey 0 0xA018, 9#8), (localKey 0 0xA021, 0x80#8)] }

theorem witness_ReturnFromTrap : CanIssue core3 thread g0 { s := 0x2000, p := 0xFFFF } ∧ thread.intrap = false ∧ CanIssue handlerState handler g0 { s := 0x2000, p := 0xFFFF } ∧ handler.owed = none ∧ handlerState.bad = [] ∧ inWindow handler.traprec.toNat = true ∧ handler.traprec.toNat % 64 = 0
    ∧ barring handlerState 96 handler [(handler.traprec.toNat, 64)] false = []
    ∧ after (exec (.eret g0) handlerState) (fun u => threadIs u 96 (fun t => !t.intrap && t.pc == 0x3004 && t.readS 13 == 9 && t.p == 0x8001)) = true
    ∧ after (exec (.eret g0) core3) (fun u => threadIs u 96 (fun t => t.intrap && t.pc == 0x9000) && peek u.mem (localKey 0 0xA022) 1 == 3) = true := by
  and_intros <;> first | decide +kernel | exact canIssue_of_canB (by decide +kernel)

/-- A die with its tables placed, so that work may run there; its fault ring is at 0x80000, its save areas at 0x100000 and its queue table at 0x200000. -/
def readyDie : Die := { contextTable := some 0x10000, ring := some 0x80000, parking := some (0x90000, 4096), saveAreas := some 0x100000, queueTable := some 0x200000 }

/-- A thread on that die; a TRAPREC that is not aligned. -/
def savingState (t : Thread) (a : EventArg) : State := { one 96 t with dies := [(0, readyDie)], input := a }
def badRecord : Thread := { thread with traprec := 0x11 }

theorem stoppable_of {s : State} {k : Nat} {t : Thread} (h : canonicalB s = true) (ht : s.thread? k = some t) (hb : t.status = .active ∧ isRunner k = false ∧ ownReqs s k = [] ∧ t.entering = none ∧ (s.die (dieOf k)).ring = some 0x80000 ∧ saveArea s k = some 0x106000 ∧ s.homes = []) : Stoppable s k t := by
  obtain ⟨h1, h2, h3, h4, h5, h6, h7⟩ := hb
  refine ⟨canonical_of_canonicalB h, ht, h1, h2, h3, h4, ?_, by rw [unwatched, h7]; nofun⟩
  intro A R ha hr
  rw [h6] at ha; rw [h5] at hr
  cases ha; cases hr
  decide

/-- The first entry of the ring is a notice, and PROD is 1. -/
def noticed (u : State) (t : Thread) (reason : Nat) (pc : Word) : Bool := peek u.mem (hbmKey 0x80000) 32 == noticeOf 0x106000 96 t reason pc && peek u.mem (hbmKey 0x88000) 8 == 1 && (u.die 0).owed.isEmpty

theorem roomy_of {s : State} {d R : Nat} (h : decide (((s.die d).prod + 2 ^ 32 - peek s.mem (hbmKey (R + 32776)) 4) % 2 ^ 32 < 1024) = true ∧ s.holds = []) : ringRoom s d R :=
  ⟨of_decide_eq_true h.1, by rw [h.2]; nofun⟩

theorem witness_ThreadsStop : Stoppable (savingState thread .none) 96 thread ∧ CanIssue (savingState thread .none) thread g0 {} ∧ badRecord.pending.meets { s := 0x2000, p := 0xFFFF } = false ∧ badRecord.traprec.toNat % 64 ≠ 0
    ∧ Stoppable (savingState badRecord .none) 96 badRecord ∧ saveArea (savingState thread .none) 96 = some 0x106000 ∧ ringRoom (savingState thread .none) 0 0x80000
    ∧ after (exec (.halt g0) (savingState thread .none)) (fun u => threadIs u 96 (fun t => t.status == .spilled && t.spill == some ⟨1, none⟩ && t.pc == 0x2004) && peek u.mem (hbmKey 0x106000) 8 == 0x2004 && peek u.mem (hbmKey 0x106008) 8 == 5 && noticed u thread 1 0x2004) = true
    ∧ after (exec (.brk g0) (savingState badRecord .none)) (fun u => threadIs u 96 (fun t => t.status == .spilled && t.spill == some ⟨4, none⟩ && t.pc == 0x2000) && noticed u badRecord 4 0x2000) = true := by
  and_intros <;> first | decide +kernel | exact canIssue_of_canB (by decide +kernel) | exact stoppable_of (by decide +kernel) rfl (by decide +kernel) | exact roomy_of (by decide +kernel)

/-! ### Witnesses: events of threads and the Fettler -/

/-- Core 3 with a thread and an operand for an event. -/
def withArg (t : Thread) (a : EventArg) : State := { one 96 t with input := a }
def goingTo : Leaving := ⟨8, true, 0x2000, 0x12345679, 0, none, none⟩
def leaver : Thread := { thread with status := .leaving goingTo }
/-- A context that waits in the run queue of core 3, where slot 1 is free. -/
def arrived : Migrant := ⟨{ thread with detached := false }, 0, 3, true, none, some 7⟩
def quitting : Thread := { thread with status := .waiting .quit }
def sleeper : Thread := { thread with status := .parked .wake }
def restarted : Thread := { thread with inc := 1 }
/-- A member of the crew at its end: the other member may have arrived at the crew's barrier, or have ended. -/
def leaving (other : List (Nat × Thread)) : State := { crewState with
  threads := other ++ [(96, { member with status := .waiting .quit })], crews := [(21, { crew with members := other.map (·.1) ++ [96] })], input := .one 96 }
def others : List (Nat × Thread) := [(0, { member with index := 0 })]
def waiters : List (Nat × Thread) := [(0, waiter)]
/-- A message of the thread on core 3 for core 9. -/
def messageAsk : Req := { newReq core3 96 thread 51 50 (.message 9 0 0x4001 [1, 2, 3, 4] none) [] with issued := 990 }
def queued : Message := ⟨0x4001, [1, 2, 3, 4], none, 5, 3, 0, [], none, .device⟩

theorem witness_ThreadEvents :
    (withArg quitting (.one 96)).canonical ∧ quitting.ops = [] ∧ quitting.detached = true
    ∧ ({ withArg thread (.one 50) with wakes := [⟨50, 96, [], 0⟩] } : State).canonical ∧ thread.inc.toNat * 2 ^ 18 + 96 = 96 ∧ ({ withArg sleeper (.one 50) with wakes := [⟨50, 96, [], 0⟩] } : State).canonical
    ∧ ({ withArg thread (.one 50) with wakes := [⟨50, 200, [], 0⟩] } : State).thread? (200 % 2 ^ 18) = none
    ∧ (withArg leaver (.one 96)).canonical ∧ hardwarePlaces (withArg leaver (.one 96)) goingTo.target < 4 ∧ leaver.group = none
    ∧ ({ withArg thread (.one 30) with migrants := [(30, { arrived with arrived := none })] } : State).canonical ∧ arrived.thread.fixed = false
    ∧ ({ withArg thread (.one 3) with migrants := [(30, arrived)] } : State).canonical
    ∧ Arriving ({ withArg { flying with detached := true } (.one 51) with reqs := [(51, messageAsk)] }) 51 messageAsk 96 { flying with detached := true } ∧ runnerPlaces (core3.core 9) < 8
    ∧ ({ withArg thread (.one 3) with dies := [(0, readyDie)], cores := [(3, { runnerQ := [queued] })] } : State).canonical
    ∧ after (exec .quitSlotEmpty (withArg quitting (.one 96))) (fun u => u.threads.isEmpty) = true
    ∧ after (exec .wakeArrival { withArg thread (.one 50) with wakes := [⟨50, 96, [], 0⟩] }) (fun u => u.wakes.isEmpty && threadIs u 96 (fun t => t.wake)) = true
    ∧ after (exec .wakeArrival { withArg sleeper (.one 50) with wakes := [⟨50, 96, [], 0⟩] }) (fun u => threadIs u 96 (fun t => t.status == .active && t.pc == 0x2004 && !t.wake)) = true
    ∧ after (exec .wakeArrival { withArg thread (.one 50) with wakes := [⟨50, 200, [], 0⟩] }) (fun u => u.wakes.isEmpty && threadIs u 96 (fun t => !t.wake)) = true
    ∧ after (exec .migrationDeparture (withArg leaver (.one 96))) (fun u => u.threads.isEmpty && u.migrants.map (fun m => (m.2.target, m.2.hardware, m.2.thread.status)) == [(8, true, .active)]) = true
    ∧ after (exec .runQueueArrival { withArg thread (.one 30) with migrants := [(30, { arrived with arrived := none })] }) (fun u => u.migrants.map (·.2.arrived) == [some 50]) = true := by
  and_intros <;> first | exact canonical_of_canonicalB (by decide +kernel) | decide +kernel | exact ⟨⟨⟨by decide +kernel, rfl, rfl, by decide +kernel, by decide +kernel, rfl, rfl⟩, rfl, rfl, rfl⟩, rfl, by decide +kernel⟩

def migrated : State := { withArg thread (.one 3) with dies := [(0, readyDie)], threads := (List.range 15).map (fun i => (96 + (if i = 0 then 0 else i + 1), thread)), migrants := [(30, { arrived with hardware := false })] }

/-- The last two clauses but one: a run-queue entry, where slot 97 is the only one that a context waits for, a message that joins the queue of its core, and a handler that starts. -/
theorem witness_ThreadEvents_queues :
    (generalSlots 3).filterMap (fun j => (queuedFor { withArg thread (.one 3) with dies := [(0, readyDie)], threads := (List.range 15).map (fun i => (96 + (if i = 0 then 0 else i + 1), thread)), migrants := [(30, arrived)] } j).map (fun x => (j, x))) = [(97, 30, arrived)]
    ∧ after (exec .runQueueEntry { withArg thread (.one 3) with dies := [(0, readyDie)], threads := (List.range 15).map (fun i => (96 + (if i = 0 then 0 else i + 1), thread)), migrants := [(30, arrived)] }) (fun u =>
        u.migrants.isEmpty && threadIs u 97 (fun t => t.inc == 0 && t.pc == 0x2000) && u.starts == [(97, 1)]) = true
    ∧ after (exec .messageArrival { withArg { flying with detached := true } (.one 51) with reqs := [(51, messageAsk)] }) (fun u =>
        u.reqs.isEmpty && (u.core 9).runnerQ == [queued] && threadIs u 96 (fun t => t.ops.map (·.result) == [some {}])) = true
    ∧ after (exec .handlerStart { withArg thread (.one 3) with dies := [(0, readyDie)], cores := [(3, { runnerQ := [queued] })] }) (fun u => (u.core 3).runnerQ.isEmpty && threadIs u 112 (fun t => t.pc == 0x4000 && t.readS 1 == 1 && t.readS 4 == 4 && t.readS 5 == 0 && t.detached)) = true := by
  and_intros <;> decide +kernel

/-- A member leaves its crew: alone, completing the phase for the one that has arrived, or as the last member of the flask's last crew (R56, R67, R68). -/
theorem witness_ThreadEvents_crews : (leaving others).canonical ∧ (leaving waiters).canonical ∧ (leaving []).canonical ∧ mapGet 21 (leaving others).crews = some crew ∧ (mapGet 20 (leaving others).flasks).map (·.crews) = some [21]
    ∧ memberThread (leaving others) 0 = some { member with index := 0 } ∧ memberThread (leaving waiters) 0 = some waiter ∧ crew.members.filter (· ≠ 96) = [0]
    ∧ after (exec .quitSlotEmpty (leaving others)) (fun u => (mapGet 21 u.crews).map (fun c => (c.members, c.phase)) == some ([0], 7)) = true
    ∧ after (exec .quitSlotEmpty (leaving waiters)) (fun u => (mapGet 21 u.crews).map (fun c => (c.members, c.phase)) == some ([0], 8)) = true
    ∧ after (exec .quitSlotEmpty (leaving [])) (fun u => u.crews.isEmpty && u.flasks.isEmpty && u.grids.map (·.2.done) == [1]) = true := by
  and_intros <;> first | exact canonical_of_canonicalB (by decide +kernel) | decide +kernel

/-- Arrival after an explicit `MIGR`, where e0-e7 and v0-v7 are zero and BROKEN is set (R60), and a wake for another incarnation of the slot. -/
theorem witness_ThreadEvents_others : (generalSlots 3).filterMap (fun j => (queuedFor migrated j).map (fun x => (j, x))) = [(97, 30, { arrived with hardware := false })] ∧ dieReady migrated 0 = true ∧ migrated.canonical
    ∧ after (exec .runQueueEntry migrated) (fun u => threadIs u 97 (fun t => t.broken && t.v == Vector.replicate 8 0 && t.e == Vector.replicate 8 0 && t.s == thread.s)) = true
    ∧ ({ withArg restarted (.one 50) with wakes := [⟨50, 96, [], 0⟩] } : State).canonical ∧ restarted.inc.toNat ≠ 96 / 2 ^ 18
    ∧ after (exec .wakeArrival { withArg restarted (.one 50) with wakes := [⟨50, 96, [], 0⟩] }) (fun u => u.wakes.isEmpty && threadIs u 96 (fun t => !t.wake)) = true := by
  and_intros <;> first | exact canonical_of_canonicalB (by decide +kernel) | decide +kernel

/-- A thread that is spilled with its save area at 0x106000, which names PC 0x3000. -/
def spilled : Thread := { thread with status := .spilled, spill := some ⟨0, none⟩ }
def spilledState : State := { savingState spilled (.two 0 96) with mem := [(hbmKey 0x106001, 0x30#8), (hbmKey 0x106008, 9#8)] }
/-- The flask of the crew of two on core 3 alone, which has idled for 40 cycles of a limit of 30. -/
def idleState : State := { one 96 member with
  input := .one 20, crews := [(21, { crew with members := [96] })], flasks := [(20, ⟨19, 0, 0, [21], 8, [], [], 40, none⟩)], grids := [(19, grid)], dies := [(0, readyDie)], contexts := [(5, { wdlim := 30 })] }
/-- A detached thread that has idled for 40 cycles of a limit of 30. -/
def loner : Thread := { thread with idle := 40 }
def lonely : State := { withArg loner (.two 96 0) with dies := [(0, readyDie)], contexts := [(5, { wdlim := 30 })] }
/-- A load on an absent page: its fault waits for its answer. -/
def faulting : Thread := { flying with status := .parked .fault, faultSince := some 980 }
def faultOf : PageFault := ⟨0, 0x5000, 96, 0, 0, 5, 0x1FFC, .request 51, 0⟩
def faultState : State := { withArg faulting (.answer 0 96 5 0 0x5000) with dies := [(0, readyDie)], reqs := [(51, { asking (.load false) 8 with spans := [(0x5000, 8)], stage := .faulted })], faults := [faultOf] }

theorem witness_FettlerEvents :
    (savingState thread (.two 0 96)).canonical ∧ (savingState thread (.two 0 96)).mgmt.boot = .running ∧ isRunner 96 = false ∧ dieReady (savingState thread (.two 0 96)) 0 = true ∧ ringRoom (savingState thread (.two 0 96)) 0 0x80000 ∧ Stoppable (savingState thread (.two 0 96)) 96 thread
    ∧ spilledState.canonical ∧ spilled.spill = some ⟨0, none⟩ ∧ spilled.entering = none ∧ saveArea spilledState 96 = some 0x106000 ∧ ownReqs spilledState 96 = [] ∧ spilledState.faults = [] ∧ spilledState.homes = [] ∧ ringRoom spilledState 0 0x80000 ∧ (faultState.die 0).owed = []
    ∧ (savingState thread (.two 0 96)).thread? 96 = some thread ∧ thread.status = .active
    ∧ idleState.canonical ∧ mapGet 20 idleState.flasks = some ⟨19, 0, 0, [21], 8, [], [], 40, none⟩ ∧ flaskMembers idleState 20 = [96] ∧ Stoppable idleState 96 member ∧ (idleState.settings 0 5).wdlim = 30
    ∧ lonely.canonical ∧ loner.detached = true ∧ Stoppable lonely 96 loner ∧ (lonely.settings (dieOf 96) 5).wdlim = 30 ∧ loner.idle = 40 ∧ ((savingState thread (.one 5)).tile 5).array.fifo = []
    ∧ (savingState thread (.one 5)).canonical ∧ (∀ x ∈ (savingState thread (.one 5)).threads, tileOf x.1 ≠ 5)
    ∧ faultState.canonical ∧ (ownReqs faultState 96).length = 1 ∧ faultState.faults = [faultOf] ∧ mapGet 51 faultState.reqs = some { asking (.load false) 8 with spans := [(0x5000, 8)], stage := .faulted } ∧ faulting.ops.find? (·.id = 50) = some op50
    ∧ after (exec .spill (savingState thread (.two 0 96))) (fun u => threadIs u 96 (fun t => t.status == .spilled && t.spill == some ⟨0, none⟩) && peek u.mem (hbmKey 0x106000) 8 == 0x2000 && noticed u thread 0 0x2000) = true
    ∧ after (exec .restore spilledState) (fun u => threadIs u 96 (fun t => t.status == .active && t.pc == 0x3000 && t.readS 1 == 9) && noticed u spilled 7 0x3000) = true
    ∧ after (exec .discard spilledState) (fun u => threadIs u 96 (fun t => t.status == .waiting .quit)) = true
    ∧ after (exec .watchdogExpiry idleState) (fun u => threadIs u 96 (fun t => t.spill == some ⟨5, none⟩) && noticed u member 5 member.pc) = true
    ∧ after (exec .watchdogExpiry lonely) (fun u => threadIs u 96 (fun t => t.spill == some ⟨5, none⟩) && noticed u loner 5 0x2000) = true
    ∧ after (exec .resumeReissue faultState) (fun u => u.faults.isEmpty && u.reqs.map (fun r => (r.2.stage, r.2.issued)) == [(.sent, 1000)] && threadIs u 96 (fun t => t.status == .active && t.faultSince == none)) = true
    ∧ after (exec .resumeConvert faultState) (fun u => u.faults.isEmpty && u.reqs.isEmpty && threadIs u 96 (fun t => t.ops.map (fun o => o.result.map (fun x => x.trap.map (fun y => (y.cause, y.addr)))) == [some (some (.protection, 0x5000))])) = true := by
  and_intros <;> first | decide +kernel | exact stoppable_of (by decide +kernel) rfl (by decide +kernel) | exact canonical_of_canonicalB (by decide +kernel) | exact roomy_of (by decide +kernel)

/-- The same die owes an entry. -/
def owing : State := { savingState thread (.one 0) with dies := [(0, { readyDie with owed := [⟨0, 77⟩] })] }

theorem witness_FettlerEvents_others : Stoppable (savingState thread (.one 96)) 96 thread ∧ after (exec .slotStateError { savingState thread (.one 96) with dies := [(0, { saveAreas := some 0x100000 })] }) (fun u => threadIs u 96 (fun t => t.spill == some ⟨6, none⟩)) = true
    ∧ ((savingState thread (.one 0)).die 0).owed = [] ∧ gives (exec .resumeNone (savingState thread (.one 0))) (savingState thread (.one 0)) = true
    ∧ owing.canonical ∧ (owing.die 0).owed = [⟨0, 77⟩] ∧ owing.homes = [] ∧ ringRoom owing 0 0x80000
    ∧ after (exec .resumeNone owing) (fun u => peek u.mem (hbmKey 0x80000) 32 == 77 && peek u.mem (hbmKey 0x88000) 8 == 1 && (u.die 0).prod == 1 && (u.die 0).owed.isEmpty) = true
    ∧ after (exec .restore (savingState thread (.two 0 96))) (fun u => decide (u.threads = (savingState thread .none).threads) && (u.die 0).prod == 1) = true
    ∧ gives (exec .registerWrite core3) { core3 with sent := [.completion false 0] } = true := by
  and_intros <;> first | decide +kernel | exact stoppable_of (by decide +kernel) rfl (by decide +kernel) | exact canonical_of_canonicalB (by decide +kernel) | exact roomy_of (by decide +kernel)

/-! ### Witnesses: engines at work -/

/-- An accepted command of the thread in slot 0 of core 2, and the state in which it is the oldest of its engine; e4 is 0xFFFFFFFFF60000. -/
def cmdOf (w : EngineWork) (a b : Word) (e : Vector Word 8) : EngineCmd := ⟨w, 64, 50, 2, 5, 0x1FFC, 6, a, b, e, 0, 0, 0, 0, 0, 0, .flask, [], false, true, 0, 0, 0, 0, none, none, 0, [], [], 0, .zero false, none, false, false, false, []⟩
def worker : Thread := { engineThread with ops := [{ op50 with dest := touchS 6 }] }
/-- A plate whose columns all have 1.0 as element 0. -/
def onesPlate : Plate := ⟨0, 0, false, List.replicate 64 ([0x00#8, 0x00#8, 0x80#8, 0x3F#8] ++ List.replicate 60 0#8), [], []⟩
/-- Accumulator row 1, column 2 holds 3.0; offset 0x2000 of the store begins with 2.0. -/
def arrayOf (q : List EngineCmd) : MatrixArray := { holder := some 5, active := some onesPlate, shadow := none, monitor := { samp := 9 }, fifo := q }
def working (e : Nat) (c : EngineCmd) : State := { one 64 worker with
  mem := coefBytes, input := .one 0, accs := [(66, 0x40400000)]
  tiles := [(0, { coefOwner := some 5, copyQ := if e = 0 then [c] else [], convQ := if e = 1 then [c] else [], array := arrayOf (if e = 2 then [c] else []) })] }
def roomy (e : Nat) (c : EngineCmd) : State := { working e c with mem := [(localKey 0 0x2003, 0x40#8)] }

theorem performing (e : Nat) (c : EngineCmd) (s : State) (hi : s.input = .one 0) (hq : engineQ (s.tile 0) e = [c]) (ht : s.threads = [(64, worker)])
    (hb : c.accepted = true ∧ c.stopped = false ∧ c.refused = none ∧ c.update = none ∧ c.done = 0 ∧ c.row = [] ∧ c.got = [] ∧ c.absent = none ∧ c.flags = 0 ∧ c.failed = false ∧ c.key = 64)
    (hh : (s.tile 0).array.holder = some 5) (hc : (s.tile 0).coefOwner = some 5) (ho : contextOn s 0 5 = true) : Performing s 0 e c 64 worker := by
  obtain ⟨h1, h2, h3, hu, h4, h5, h6, h7, h9, h10, h8⟩ := hb
  refine ⟨hi, by rw [hq]; rfl, by simp [hq, h2], h1, ⟨h3, hu, h4, h5, h6, h7, h9, h10⟩, ⟨h8, by simp [State.thread?, ht, mapGet]⟩, ?_, ?_, ?_⟩
  · intro x hx _
    rw [ht] at hx
    rcases List.mem_singleton.mp hx with rfl
    exact fun h => nomatch h
  · intro x hx
    rw [hh] at hx
    cases hx
    exact ho
  · intro x hx
    rw [hc] at hx
    cases hx
    exact ho

def e0 : Vector Word 8 := engineThread.e
/-- The descriptor of a copy of one row of one word, and of none, from offset 0x2000 to 0x3000. -/
def rowE : Vector Word 8 := #v[0xFFFFFFFFF02000, 0xFFFFFFFFF03000, 0x100000008, 0x1000000010, 0, 0, 0, 0]
def noRowE : Vector Word 8 := #v[0xFFFFFFFFF02000, 0xFFFFFFFFF03000, 0x8, 0x1000000010, 0, 0, 0, 0]
/-- Of 1 row of 0x100 bytes from row 1 on for `MRD`; columns 64 bytes apart for `MLS`; 1 row for a stream; a scan of one step in a chunk of one. -/
def mrdCmd : EngineCmd := cmdOf (.read true) 0xFFFFFFFFF02000 0x1000101 e0
def mlsCmd : EngineCmd := cmdOf (.plate false) 0xFFFFFFFFF02000 64 e0
def streamCmd : EngineCmd := cmdOf (.stream false true) 0xFFFFFFFFF02000 0x400101 e0
def scanCmd : EngineCmd := cmdOf .scan 0xFFFFFFFFF10000 0x10001 e0

theorem witness_EngineEvents :
    (roomy 2 (cmdOf .swap 0 0 e0)).canonical ∧ Performing (roomy 2 (cmdOf .swap 0 0 e0)) 0 2 (cmdOf .swap 0 0 e0) 64 worker ∧ Performing (roomy 2 (cmdOf .cfg 0x10300070000 0 e0)) 0 2 (cmdOf .cfg 0x10300070000 0 e0) 64 worker
    ∧ (roomy 2 mrdCmd).bad = [] ∧ reservedRange (working 2 scanCmd) 5 0 scanCmd.a.toNat 4096 = false ∧ reservedRange (working 2 scanCmd) 5 0 (scanCmd.e[4]).toNat (256 * bits scanCmd.b.toNat 15 0) = false
    ∧ (roomy 0 (cmdOf .copy 0 0 rowE)).home (homeKey 5 0 (rowE[1]).toNat) = {} ∧ bits (rowE[5]).toNat 15 15 = 0
    ∧ Performing (roomy 2 mrdCmd) 0 2 mrdCmd 64 worker ∧ rowsOk mrdCmd.a mrdCmd.b 256 true ∧ (∀ i, i < bits mrdCmd.b.toNat 7 0 → reservedRange (roomy 2 mrdCmd) 5 0 (mrdCmd.a.toNat + i * bits mrdCmd.b.toNat 47 16) 256 = false)
    ∧ 256 ≤ bits mrdCmd.b.toNat 47 16
    ∧ Performing (roomy 2 mlsCmd) 0 2 mlsCmd 64 worker ∧ formatOf mlsCmd.descB = some ⟨0, 0, 0⟩ ∧ (∀ i, i < 64 → leavesWindow (mlsCmd.a.toNat + i * bits mlsCmd.b.toNat 20 0) (columnBytes 0 false) = false)
    ∧ Performing (roomy 2 streamCmd) 0 2 streamCmd 64 worker ∧ formatOf streamCmd.descA = some ⟨0, 0, 0⟩ ∧ ((roomy 2 streamCmd).tile 0).array.active = some onesPlate
    ∧ (∀ i, i < bits streamCmd.b.toNat 7 0 → leavesWindow (streamCmd.a.toNat + i * bits streamCmd.b.toNat 47 16) (rowBytes 0 (depthOf onesPlate.fmt onesPlate.sparse)) = false)
    ∧ Performing (working 2 scanCmd) 0 2 scanCmd 64 worker ∧ 1 ≤ bits scanCmd.b.toNat 23 16 ∧ leavesWindow scanCmd.a.toNat 4096 = false ∧ leavesWindow (scanCmd.e[4]).toNat (256 * bits scanCmd.b.toNat 15 0) = false
    ∧ Performing (roomy 0 (cmdOf .copy 0 0 rowE)) 0 0 (cmdOf .copy 0 0 rowE) 64 worker ∧ bits (rowE[2]).toNat 55 32 = 1 ∧ bits (rowE[2]).toNat 31 0 = 8 ∧ inWindow (rowE[1]).toNat = true ∧ reservedRange (roomy 0 (cmdOf .copy 0 0 rowE)) 5 0 (rowE[1]).toNat 8 = false
    ∧ Performing (roomy 0 (cmdOf .copy 0 0 noRowE)) 0 0 (cmdOf .copy 0 0 noRowE) 64 worker ∧ bits (noRowE[2]).toNat 55 32 = 0 ∧ Performing (roomy 1 (cmdOf .convert 0 0 noRowE)) 0 1 (cmdOf .convert 0 0 noRowE) 64 worker := by
  and_intros <;> first | exact canonical_of_canonicalB (by decide +kernel) | decide +kernel | (apply performing <;> first | rfl | decide +kernel)

/-- The result of the command's operation. -/
def ended (u : State) (r : Result) : Bool := threadIs u 64 (fun t => t.ops.map (·.result) == [some r])

/-- What the commands do: the planes exchange; sampling goes on every 2^3 with seed 7; row 1 goes to memory and is cleared; 2.0 times 1.0 goes to row 1 from zero; a word is copied; a command with no rows ends. -/
theorem witness_EngineEvents_ends :
    after (exec .arrayCommand (roomy 2 (cmdOf .swap 0 0 e0))) (fun u => (u.tile 0).array.shadow == some onesPlate && (u.tile 0).array.active.isNone && (u.tile 0).array.fifo.isEmpty) = true
    ∧ after (exec .arrayCommand (roomy 2 (cmdOf .cfg 0x10300070000 0 e0))) (fun u => (u.tile 0).array.monitor == ⟨true, 3, 7, 9, 0, 0, 0⟩) = true
    ∧ after (exec .arrayCommand (roomy 2 (cmdOf .pop 0x201 0 e0))) (fun u => ended u { writes := [.s 6 0x40400000] }) = true
    ∧ after (exec .arrayCommand (roomy 2 (cmdOf .drain 0 0 e0))) (fun u => ended u { acquire := some .thread }) = true
    ∧ after (exec .arrayCommand (roomy 2 (cmdOf (.mon 0) 0 0 e0))) (fun u => ended u { writes := [.s 6 9] }) = true
    ∧ after (exec .arrayCommand (roomy 2 mrdCmd)) (fun u => ended u { writes := [.s 6 0, .flags 0], acquire := some .device } && peek u.mem (localKey 0 0x2008) 4 == 0x40400000 && peek u.mem (localKey 0 0x2000) 8 == 0 && u.accs.isEmpty) = true
    ∧ after (exec .arrayCommand (roomy 2 mlsCmd)) (fun u => ended u { writes := [.s 6 0, .flags 0] } && (u.tile 0).array.shadow.map (fun p => (p.fmt, (p.columns.getD 0 []).getD 3 0, (p.columns.getD 1 []).getD 3 0)) == some (0, 0x40, 0)) = true
    ∧ after (exec .deckleRowCommand { roomy 2 (cmdOf (.row []) 0 0 e0) with tiles := [(0, { array := { arrayOf [cmdOf (.row []) 0 0 e0] with active := none } })] }) (fun u =>
        threadIs u 64 (fun t => t.ops.map (fun o => o.result.map (fun x => x.trap.map (·.cause))) == [some (some .malformedMetadata)])) = true
    ∧ after (exec .copyExecution (roomy 0 (cmdOf .copy 0 0 rowE))) (fun u => ended u { writes := [.s 6 0, .flags 0], acquire := some .device } && peek u.mem (localKey 0 0x3000) 8 == 0x40000000) = true
    ∧ after (exec .copyExecution (roomy 0 (cmdOf .copy 0 0 noRowE))) (fun u => ended u { writes := [.s 6 0, .flags 0] }) = true
    ∧ after (exec .conversionExecution (roomy 1 (cmdOf .convert 0 0 noRowE))) (fun u => ended u { writes := [.s 6 0, .flags 0] }) = true := by
  and_intros <;> first | exact canonical_of_canonicalB (by decide +kernel) | decide +kernel

theorem witness_EngineEvents_stream : after (exec .arrayCommand (roomy 2 streamCmd)) (fun u => ended u { writes := [.s 6 0, .flags 0] } && u.acc 0 1 0 == 0x40000000 && u.acc 0 1 2 == 0x40000000) = true := by
  decide +kernel

theorem witness_EngineEvents_scan : after (exec .sscanExecution (working 2 scanCmd)) (fun u => threadIs u 64 (fun t => t.ops.map (fun o => o.result.map (fun r => (r.acquire, r.writes.length))) == [some (some .device, 2)])) = true := by
  decide +kernel

/-- A command that is not accepted yet. -/
def newCmd : EngineCmd := { cmdOf .drain 0 0 e0 with accepted := false }
/-- A plate whose descriptor address is not aligned. -/
def oddCmd : EngineCmd := { cmdOf (.plate false) 0xFFFFFFFFF02000 64 e0 with accepted := false, fmtb := 3 }

theorem witness_EngineEvents_acceptance : ({ roomy 2 newCmd with input := .two 64 50 } : State).canonical ∧ waitingCmd (({ roomy 2 newCmd with input := .two 64 50 } : State).tile 0) 50 = some (2, newCmd) ∧ acceptReads newCmd = []
    ∧ outstanding (roomy 2 newCmd) newCmd.after = [] ∧ absentOf (roomy 2 newCmd) 0 newCmd = none ∧ newCmd.work.readsA = false
    ∧ acceptReads oddCmd = [] ∧ absentOf (roomy 2 oddCmd) 0 oddCmd = none ∧ [oddCmd.fmtb, oddCmd.fmts].find? (fun y => decide (y.toNat % 8 ≠ 0)) = some 3 ∧ worker.ops.find? (·.id = oddCmd.op) = some { op50 with dest := touchS 6 }
    ∧ after (exec .engineAcceptance { roomy 2 oddCmd with input := .two 64 50 }) (fun u => (u.tile 0).array.fifo.map (fun c => (c.accepted, c.failed)) == [(true, true)] && threadIs u 64 (fun t => t.ops.map (fun o => o.result.map (fun r => r.trap.map (fun x => (x.cause, x.addr)))) == [some (some (.align, 3))])) = true
    ∧ after (exec .engineAcceptance { roomy 2 newCmd with input := .two 64 50 }) (fun u => (u.tile 0).array.fifo.map (·.accepted) == [true] && threadIs u 64 (fun t => t.ops.map (fun o => (o.token, o.result)) == [(false, none)])) = true := by
  and_intros <;> first | exact canonical_of_canonicalB (by decide +kernel) | decide +kernel

/-- The bytes of a number from a key on, least significant first. -/
def bytesFrom (key n x : Nat) : List Host.Cell := ((List.range n).map (fun i => (key + i, BitVec.ofNat 8 (x / 256 ^ i)))).filter (fun c => c.2 ≠ 0)
/-- Words of 32 bits side by side. -/
def wordsOf (l : List Nat) : Nat := l.foldr (fun x r => x + 2 ^ 32 * r) 0

/-- A scan of one step with a = 0, x = 2.0, B = C = 1.0 in element 0 and H = 3.0 there, all for d = 0. -/
def scanning (chunk : Nat) : State := { working 2 (cmdOf .scan 0xFFFFFFFFF10000 (chunk * 65536 + 1) e0) with
  mem := bytesFrom (localKey 0 0x10000) 4 0x40400000 ++ bytesFrom (localKey 0 0x20000) 4 0x40000000 ++ bytesFrom (localKey 0 0x40000) 4 0x3F800000 ++ bytesFrom (localKey 0 0x50000) 4 0x3F800000 ++ coefBytes }
/-- A row of element 0 against a plate of BF16 whose column 0 has 1.0 as element 0; the head is at offset 0x10000, the interval from 0 to 1.0. -/
def rowCmd : EngineCmd := cmdOf (.row [0x3F80, 0x3C00, 0, 0x3F800000, 0xFFFFFFFFF10000, 9, 77, 4]) 0 0 e0
def rowPlate : Plate := ⟨1, 0, false, (List.range 64).map (fun i => [if i = 0 then 0x80#8 else 0#8, if i = 0 then 0x3F#8 else 0#8] ++ List.replicate 126 0#8), [], []⟩
def rowState (head : Nat) : State := { working 2 rowCmd with
  mem := bytesFrom (localKey 0 0x10000) 1024 head ++ coefBytes, tiles := [(0, { coefOwner := some 5, array := { arrayOf [rowCmd] with active := some rowPlate } })] }
/-- One row of 32 elements of F32 whose first is 3.0, to the format of descriptor `b`; its scales go to offset 0x4000. -/
def conversion (b : Nat) : EngineCmd := { cmdOf .convert 0 0 #v[0xFFFFFFFFF02000, 0xFFFFFFFFF03000, 0x100000020, 0, 0, 0, 0, 0] with descB := b, bases := 0xFFFFFFFFF04000 * 2 ^ 64 }
def converting (b : Nat) : State := { working 1 (conversion b) with mem := bytesFrom (localKey 0 0x2000) 4 0x40400000 ++ coefBytes }

theorem witness_EngineValues : (roomy 2 streamCmd).canonical ∧ (roomy 2 streamCmd).bad = [] ∧ onesPlate.skind = 0 ∧ onesPlate.sparse = false ∧ streamCmd.approx.getLsbD 8 = false ∧ ((roomy 2 streamCmd).tile 0).array.monitor.on = false
    ∧ (scanning 1).canonical ∧ (scanning 16).canonical ∧ Performing (scanning 1) 0 2 (cmdOf .scan 0xFFFFFFFFF10000 0x10001 e0) 64 worker ∧ (∀ i, i < 5 → windowBase ≤ (e0.toList.getD i 0).toNat)
    ∧ (rowState 0).canonical ∧ Performing (rowState 0) 0 2 rowCmd 64 worker ∧ classNum rowPlate.fmt = 1 ∧ leavesWindow 0xFFFFFFFFF10000 1024 = false
    ∧ (converting 0).canonical ∧ Performing (converting 0) 0 1 (conversion 0) 64 worker ∧ (formatOf 0).map (·.skind) = some 0 ∧ (formatOf 4).map (fun f => (f.fmt, f.skind)) = some (4, 0) ∧ (formatOf 20).map (fun f => (f.fmt, f.skind)) = some (4, 1)
    ∧ leavesWindow 0xFFFFFFFFF02000 128 = false ∧ reservedRange (converting 20) 5 0 0xFFFFFFFFF03000 32 = false ∧ reservedRange (converting 20) 5 0 0xFFFFFFFFF04000 1 = false := by
  and_intros <;> first | exact canonical_of_canonicalB (by decide +kernel) | (apply performing <;> first | rfl | decide +kernel) | decide +kernel

/-- 3.0 is 0x4040 in BF16, 0x42 in E5M2, and 1.5 × 2^15 under a scale of 2^-14 (R238, R239). -/
theorem witness_EngineValues_results : after (exec .conversionExecution (converting 1)) (fun u => peek u.mem (localKey 0 0x3000) 4 == 0x4040) = true ∧ after (exec .conversionExecution (converting 4)) (fun u => peek u.mem (localKey 0 0x3000) 2 == 0x42) = true
    ∧ after (exec .conversionExecution (converting 20)) (fun u => peek u.mem (localKey 0 0x3000) 2 == 0x7A && peek u.mem (localKey 0 0x4000) 1 == 113) = true := by
  and_intros <;> decide +kernel

/-- A row whose head is 1.0 answers a record of kind 3 with tau of 1.0 (R349). -/
theorem witness_EngineValues_rows : after (exec .deckleRowCommand (rowState 0x3F800000)) (fun u => ended u { writes := hit 6 4 (recordBytes 0 0x3F800000 0x3F800000 (fun _ => 0) 9 77 3) }) = true := by
  decide +kernel

/-! ### Witnesses: work -/

/-- Row 3 of the queue table: a ring of 2^2 packets at 0x400040, RIDX 7, its notify word at 0x300008, context 5, valid or not. -/
def queueRow (valid : Bool) : List Host.Cell :=
  [(0x200060, 0x40#8), (0x200062, 0x40#8), (0x200068, 2#8), (0x20006C, 7#8), (0x200070, 8#8), (0x200072, 0x30#8), (0x200078, 5#8)] ++ if valid then [(0x20007A, 1#8)] else []
def workState (d : Die) (a : EventArg) : State := { State.reset with nextId := 50, cycle := 1000, input := a, dies := [(0, d)], mem := queueRow true }
def arrival (p : Packet) : Arrival := ⟨p, 5, 3, none, none, none⟩
def packets (p : Packet) (jobs : NatMap Job) : State := { workState { readyDie with arrivals := [arrival p] } (.one 0) with jobs := jobs }
/-- A grid that has a flask to place, one that has ended, and one that runs with a counter. -/
def waitingGrid : Grid := { grid with placed := 0, counters := [] }
def placingState : State := { workState readyDie (.three 0 19 0) with queueSlots := [(3, ⟨9, 0, none, false, false⟩)], grids := [(19, waitingGrid)] }
def doneGrid : Grid := { grid with done := 1, counters := [] }
def ending (j : Job) : State := { workState readyDie (.one 19) with grids := [(19, doneGrid)], jobs := [(9, j)] }
/-- The running member of the crew asks counter w of its grid, or puts 3 more items into it. -/
def counting (a : Ask) (c : Counter) : State := { crewState with
  dies := [(0, readyDie)], grids := [(19, { grid with counters := [c] })], input := .one 51
  reqs := [(51, { newReq crewState 96 member 51 50 a [(0xFFFFFFFFF00100, 8)] with issued := 990 })] }
def slotState (q : QueueSlot) (a : EventArg) : State := { workState readyDie a with queueSlots := [(6, q)] }

/-- A queue table whose only byte is the valid bit of row 3. -/
def oneRow : State := { workState readyDie (.one 0) with mem := [(0x20007A, 1#8)] }

theorem peek_zero (m : List Host.Cell) (n a : Nat) (h : ∀ i < n, Memory.read m (a + i) = 0) : peek m a n = 0 := by
  induction n generalizing a with
  | zero => rfl
  | succ n ih =>
    have h0 : Memory.read m a = 0 := h 0 (by omega)
    simp [peek, h0, ih (a + 1) (fun i hi => by rw [Nat.add_assoc, Nat.add_comm 1 i]; exact h (i + 1) (by omega))]

theorem other_row (q : Nat) (hq : q ≠ 3) : userQueue oneRow 0 q = some ⟨0, 0, 0, 0, 0, false, false⟩ := by
  have hp : peek oneRow.mem (0x200000 + 32 * q) 32 = 0 := peek_zero _ _ _ (fun i hi => by
    have hne : (0x20007A : Nat) ≠ 0x200000 + 32 * q + i := by omega
    simp only [oneRow, Memory.read, mapGet]
    split
    · exact absurd ‹_› (by omega)
    · split <;> rfl)
  have : userQueue oneRow 0 q = (some 0x200000).map (fun base => (fun x : Nat => ({ ring := bits x 55 6 * 64, size := bits x 68 64, ridx := bits x 127 96, notify := bits x 191 131 * 8, ctx := bits x 203 192, errq := bits x 209 209 = 1, valid := bits x 208 208 = 1 } : UserQueue)) (peek oneRow.mem (base + 32 * q) 32)) := rfl
  rw [this, Option.map_some, hp]
  rfl

/-- Row 3 is the only one that a time slice can map: the hypothesis of that clause of `Obligations.WorkEvents`. -/
theorem mappable_oneRow : mappable oneRow 0 = [3] := by
  have h : mappable oneRow 0 = ((List.range 4096).map (fun i => (0 + i) % 4096)).filter (fun q => q == 3) := by
    refine List.filter_congr (fun q _ => ?_)
    by_cases hq : q = 3
    · subst hq; decide +kernel
    · rw [other_row q hq]; simp [hq]
  rw [h]
  decide +kernel

theorem witness_WorkEvents :
    (packets packet []).canonical ∧ dieReady (packets packet []) 0 = true ∧ ((packets packet []).die 0).arrivals = [arrival packet] ∧ (packet.crewSize + 3) / 4 ≤ packet.slots ∧ packet.timing = false ∧ packet.job ≠ 0 ∧ packet.flasks ≠ 0
    ∧ ({ packet with job := 0 } : Packet).job = 0 ∧ (packets { packet with wqn := 5 } [(9, ⟨2, false, [], []⟩)]).canonical ∧ signalsWait (packets { packet with wqn := 5 } [(9, ⟨2, false, [], []⟩)]) 9 = false
    ∧ placingState.canonical ∧ nextPlacement placingState 0 = some (3, 19, 0)
    ∧ fitOn placingState 19 waitingGrid 0 = some (0, none, [(0, [[0], [32], [64], [96]])])
    ∧ (ending ⟨2, false, [], []⟩).canonical ∧ (ending ⟨1, false, [], []⟩).canonical ∧ (ending ⟨1, true, [⟨5, 0xFFFFFFFFF00100, 0⟩], []⟩).canonical ∧ doneGrid.placed = doneGrid.packet.flasks ∧ doneGrid.done = doneGrid.packet.flasks
    ∧ (counting (.wqask 0) ⟨4, 6, false, []⟩).canonical ∧ (mapGet 51 (counting (.wqask 0) ⟨4, 6, false, []⟩).reqs).isSome = true ∧ gridOf (counting (.wqask 0) ⟨4, 6, false, []⟩) 96 = some (19, { grid with counters := [⟨4, 6, false, []⟩] })
    ∧ pendingAsks (counting (.wqask 0) ⟨6, 6, false, []⟩) 0 < 1024
    ∧ (slotState ⟨3, 0, some 7, false, false⟩ (.two 0 6)).canonical ∧ (userQueue (slotState ⟨3, 0, some 7, false, false⟩ (.two 0 6)) 0 3).map (fun x => (x.ring, x.size, x.ridx, x.notify, x.ctx, x.valid)) = some (0x400040, 2, 7, 0x300008, 5, true)
    ∧ oneRow.canonical ∧ (userQueue oneRow 0 3).isSome = true ∧ (workState readyDie (.three 0x18 8 1)).mgmt.boot = .running ∧ (userQueue { workState readyDie (.three 0x18 8 1) with mem := queueRow false } 0 3).map (·.valid) = some false := by
  and_intros <;> first | exact canonical_of_canonicalB (by decide +kernel) | decide +kernel

/-- Die 0 with the page tables of `mapped` beside its queue table, and the packet of job 9 at the head of the ring at 0x400040: 1 flask of one crew of two, with its entry at 0x3000; its notify word is at 0x300008. -/
def ringState (a : EventArg) (q : NatMap QueueSlot) : State := { workState readyDie a with
  queueSlots := q
  mem := [(0x10052, 2#8), (0x10058, 3#8), (0x20000, 1#8), (0x20002, 3#8), (0x30000, 1#8), (0x30002, 4#8), (0x40000, 0x1D#8), (0x40008, 1#8)] ++ queueRow true
    ++ [(0x400101, 0x30#8), (0x400130, 1#8), (0x400133, 1#8), (0x400138, 9#8)] }
def taking : State := ringState (.two 0 6) [(6, ⟨3, 0, some 8, false, false⟩)]
def notified : State := ringState (.three 0x18 8 0xABCD) []

theorem witness_WorkEvents_rings : taking.canonical ∧ dieReady taking 0 = true ∧ (userQueue taking 0 3).map (fun x => (x.ring + 64 * (x.ridx % 2 ^ x.size), x.ridx)) = some (0x400100, 7) ∧ Mapped taking 5 0x400100 (page 1) ∧ SoleHome taking 0x400100 (page 1)
    ∧ permits (page 1) none {} = true ∧ jobRoom taking 9 = true
    ∧ notified.canonical ∧ (userQueue notified 0 3).map (fun x => (x.notify, x.valid)) = some (0x300008, true) ∧ Mapped notified 5 0x300008 (page 1) ∧ SoleHome notified 0x300008 (page 1) ∧ permits (page 1) none { write := true, fe := true } = true
    ∧ notified.home (homeKey 5 0 0x300008) = {} ∧ (notified.hold (holdKey 0x300008 ((page 1).key 0x300008))).resv = none
    ∧ after (exec .packetTake taking) (fun u => (u.die 0).arrivals.map (fun a => (a.packet.entry, a.packet.crewSize, a.packet.flasks, a.packet.job, a.ctx, a.source)) == [(0x3000, 2, 1, 9, 5, 6)] && u.jobs.map (fun j => (j.1, j.2.count)) == [(9, 1)]
      && peek u.mem 0x20006C 4 == 8) = true
    ∧ after (exec .notifyWrite notified) (fun u => peek u.mem 0x300008 8 == 0xABCD && u.empties.isEmpty) = true := by
  and_intros <;> first | exact canonical_of_canonicalB (by decide +kernel) | exact mapped_of (by decide +kernel) (by decide +kernel) | (apply soleHome_of; rfl) | decide +kernel

theorem witness_WorkEvents_ends :
    after (exec .packetAcceptance (packets packet [])) (fun u => u.grids.map (fun g => (g.1, g.2.packet, g.2.source, g.2.placed)) == [(50, packet, 3, 0)]) = true
    ∧ after (exec .packetAcceptance (packets { packet with job := 0 } [])) (fun u => u.grids.isEmpty && u.sent == [.report "packet rejected" 0 5]) = true
    ∧ after (exec .packetAcceptance (packets { packet with wqn := 5 } [(9, ⟨2, false, [], []⟩)])) (fun u => u.grids.isEmpty && u.jobs == [(9, ⟨1, true, [], []⟩)]) = true
    ∧ after (exec .flaskPlacement placingState) (fun u => u.threads.map (·.1) == [0, 32] && threadIs u 32 (fun t => t.pc == 0x3000 && t.readS 1 == 11 && t.index == 1 && t.crew == 51)
        && u.flasks.map (·.1) == [50] && u.grids.map (·.2.placed) == [1]) = true
    ∧ after (exec .gridCompletion (ending ⟨2, false, [], []⟩)) (fun u => u.grids.isEmpty && u.jobs == [(9, ⟨1, false, [], []⟩)]) = true
    ∧ after (exec .gridCompletion (ending ⟨1, false, [], []⟩)) (fun u => u.grids.isEmpty && u.jobs.isEmpty) = true
    ∧ after (exec .gridCompletion (ending ⟨1, true, [⟨5, 0xFFFFFFFFF00100, 0⟩], []⟩)) (fun u => u.jobs.isEmpty && peek u.mem (localKey 0 0x100) 8 == 0x8000000000000009) = true
    ∧ after (exec .wqaskArrival (counting (.wqask 0) ⟨4, 6, false, []⟩)) (fun u => peek u.mem (localKey 0 0x100) 8 == 4 && u.grids.map (fun g => g.2.counters.map (·.next)) == [[5]]) = true
    ∧ after (exec .wqaskArrival (counting (.wqask 0) ⟨6, 6, true, []⟩)) (fun u => peek u.mem (localKey 0 0x100) 8 == 2 ^ 64 - 1) = true
    ∧ after (exec .wqaskArrival (counting (.wqask 1) ⟨6, 6, true, []⟩)) (fun u => peek u.mem (localKey 0 0x100) 8 == 2 ^ 64 - 2) = true
    ∧ after (exec .wqaskArrival (counting (.wqask 0) ⟨6, 6, false, []⟩)) (fun u => peek u.mem (localKey 0 0x100) 8 == 0 && u.grids.map (fun g => g.2.counters.map (·.asks)) == [[[(0, 0x100)]]] && u.reqs.isEmpty) = true
    ∧ after (exec .wqputArrival (counting (.wqput 0 3 true) ⟨6, 6, false, []⟩)) (fun u => u.grids.map (fun g => g.2.counters) == [[⟨6, 9, true, []⟩]]) = true
    ∧ after (exec .packetTake (slotState ⟨3, 0, some 7, false, false⟩ (.two 0 6))) (fun u => u.queueSlots.map (·.2.windex) == [none] && u.reqs.map (fun r => r.2.spans) == [[(0x300008, 8)]]) = true
    ∧ gives (exec .notifyWrite (workState readyDie (.three 0x18 4 1))) { workState readyDie (.three 0x18 4 1) with sent := [.completion false 0] } = true
    ∧ gives (exec .notifyWrite { workState readyDie (.three 0x18 8 1) with mem := queueRow false }) { workState readyDie (.three 0x18 8 1) with mem := queueRow false } = true := by
  and_intros <;> first | exact canonical_of_canonicalB (by decide +kernel) | decide +kernel

/-! ### Witnesses: lists, traversals and pixels -/

/-- A list at offset 0x2000 of tile 0 with one record, K = 16, BUDGET 5 and T_O 4.0. -/
def listCells : List Host.Cell := [(localKey 0 0x2000, 1#8), (localKey 0 0x2002, 2#8), (localKey 0 0x2006, 5#8), (localKey 0 0x200A, 0x80#8), (localKey 0 0x200B, 0x40#8), (localKey 0 0x2022, 0x80#8), (localKey 0 0x2023, 0x3F#8)]
def listReq (c : ListCmd) : Req := { newReq core3 96 thread 51 50 (.list c) [(0xFFFFFFFFF02000, 32)] with d := 3, issued := 990 }
def couchState (c : ListCmd) (m : List Host.Cell) : State := { one 96 flying with mem := m, input := .two 0 0, reqs := [(51, listReq c)], tiles := [(0, { couch := [51], coefOwner := some 5 })] }
/-- An answer with t0 and t1 of 2.0. -/
def answer : Quad := 0x0000000000000000000000000000000000000000000000004000000040000000
/-- A ray along z from the origin with t from 1.0 to 8.0, and its traversal of a structure at 0x2000 with a ring of two entries at offset 0x10. -/
def rayZ : Quad := 0x41000000_3F800000_3F800000_00000000_00000000_00000000_00000000_00000000
def traversal : Traversal := ⟨96, 50, 5, 0x1FFC, 6, 0xFFFFFFFFF02000, rayZ, 0x2000, 256, 0x00011, 16, .accepted, [], 0, 0, 0, none, [], [], [], false, false, none, none⟩
def rayState (x : Traversal) (empties : NatMap Unit) : State := { one 96 flying with mem := listCells, input := .two 0 0, empties := empties, tiles := [(0, { rays := [x], coefOwner := some 5 })] }
def running : Traversal := { traversal with stage := .running, budget := 5 }
def endingRay : Traversal := { traversal with stage := .ending 0 0, out := some (0xFF * 2 ^ 56) }

/-- The register writes of the operation in flight. -/
def answered (u : State) (ws : List RegWrite) : Bool := threadIs u 96 (fun t => t.ops.map (fun o => o.result.map (·.writes)) == [some ws])

theorem witness_ListEvents : (couchState (.init 1) listCells).canonical ∧ mapGet 51 (couchState (.init 1) listCells).reqs = some (listReq (.init 1)) ∧ (couchState (.init 1) listCells).thread? 96 = some flying ∧ (listReq (.init 1)).tile = 0
    ∧ listReserved (couchState (.init 1) listCells) 0 (listReq (.init 1)).va = false ∧ windowBase ≤ (listReq (.init 1)).va ∧ traversal.converted = none ∧ traversal.reading = false
    ∧ (couchState (.stat 0) [(localKey 0 0x2003, 0xF0#8)]).canonical ∧ (headerAt (couchState (.stat 0) [(localKey 0 0x2003, 0xF0#8)]) 0 (listReq (.stat 0)).va).bad = true ∧ flying.ops.find? (·.id = (listReq (.stat 0)).op) = some op50
    ∧ (headerAt (couchState (.stat 0) listCells) 0 (listReq (.stat 0)).va).bad = false ∧ (answerOf answer.toNat).isSome = true
    ∧ (rayState traversal []).canonical ∧ ((rayState traversal []).tile 0).rays = [traversal] ∧ ringWaits (rayState traversal []) 0 traversal = false ∧ outstanding (rayState traversal []) traversal.after = []
    ∧ (∀ y ∈ (rayState traversal []).threads, tileOf y.1 = 0 → y.2.status ≠ .waiting .room) ∧ (rayOf running.ray.toNat).isSome = true
    ∧ geX (f32v 0x41000000) (f32v (peek listCells (localKey 0 0x2008) 4)) = true ∧ geX (f32v 0x3F800000) (f32v (peek listCells (localKey 0 0x2008) 4)) = false
    ∧ (rayState endingRay [(localKey 0 0x10, ())]).canonical ∧ isEmptyWord (rayState endingRay [(localKey 0 0x10, ())]) (localKey 0 0x10) = true ∧ (rayState endingRay [(localKey 0 0x10, ())]).home (homeKey 0 0 (windowBase + endingRay.ringAt)) = {} := by
  and_intros <;> first | exact canonical_of_canonicalB (by decide +kernel) | decide +kernel

/-- A list with one record from 1.0 to 2.0, and one with none; T_O is 4.0. -/
def oneRecord : List Host.Cell := [(localKey 0 0x2000, 1#8), (localKey 0 0x2002, 2#8), (localKey 0 0x200A, 0x80#8), (localKey 0 0x200B, 0x40#8), (localKey 0 0x2022, 0x80#8), (localKey 0 0x2023, 0x3F#8), (localKey 0 0x2027, 0x40#8)]
def noRecord : List Host.Cell := [(localKey 0 0x2002, 2#8), (localKey 0 0x200A, 0x80#8), (localKey 0 0x200B, 0x40#8)]
/-- An answer from `a` to `b`, by their F32 codes. -/
def interval (a b : Quad) : Quad := a + b * 2 ^ 32

/-- What an insertion into a list of that memory answers, and where the records then lie. -/
def inserted (m : List Host.Cell) (x : Quad) (w : Word) (l : List (Nat × Nat)) : Bool :=
  after (exec .couchPerform (couchState (.ins x) m)) (fun u => answered u [.s 3 w] && (recordsAt u 0 (listReq (.ins x)).va (peek u.mem (localKey 0 0x2000) 2)).map (fun r => (r.t0, r.t1)) == l)

/-- An answer beyond T_O is counted and dropped; others are kept in order, and one with a record's own interval joins it (R316-R318, R321). -/
theorem witness_ListEvents_insertions : [interval 0x40800000 0x40800000, interval 0x3F000000 0x3F000000, interval 0x40000000 0x40400000, interval 0x3F800000 0x40000000].all (fun x => (answerOf x.toNat).isSome) = true
    ∧ inserted oneRecord (interval 0x40800000 0x40800000) 65537 [(0x3F800000, 0x40000000)] = true ∧ inserted noRecord (interval 0x3F000000 0x3F000000) 65536 [(0x3F000000, 0x3F000000)] = true
    ∧ inserted oneRecord (interval 0x40000000 0x40400000) 131072 [(0x3F800000, 0x40000000), (0x40000000, 0x40400000)] = true
    ∧ inserted oneRecord (interval 0x3F000000 0x3F800000) 131072 [(0x3F000000, 0x3F800000), (0x3F800000, 0x40000000)] = true
    ∧ inserted oneRecord (interval 0x3F800000 0x40000000) 65536 [(0x3F800000, 0x40000000)] = true := by
  and_intros <;> decide +kernel

theorem witness_ListEvents_ends :
    after (exec .couchPerform (couchState (.init 1) listCells)) (fun u => answered u [] && peek u.mem (localKey 0 0x2000) 4 == 0x10000 && (u.tile 0).couch.isEmpty) = true
    ∧ after (exec .couchPerform (couchState (.stat 0) [(localKey 0 0x2003, 0xF0#8)])) (fun u => threadIs u 96 (fun t => t.ops.map (fun o => o.result.map (fun x => x.trap.map (fun y => (y.cause, y.addr)))) == [some (some (.malformedMetadata, 0xFFFFFFFFF02000))])) = true
    ∧ after (exec .couchPerform (couchState (.stat 0) listCells)) (fun u => answered u [.s 3 0x0005000000020001]) = true
    ∧ after (exec .couchPerform (couchState (.stat 1) listCells)) (fun u => answered u [.s 3 0x40800000]) = true
    ∧ after (exec .couchPerform (couchState (.get 0) listCells)) (fun u => answered u [.v 3 0x3F800000]) = true
    ∧ after (exec .couchPerform (couchState (.get 1) listCells)) (fun u => answered u [.v 3 0]) = true
    ∧ after (exec .couchPerform (couchState (.budget 9) listCells)) (fun u => answered u [] && peek u.mem (localKey 0 0x2006) 2 == 9 && peek u.mem (localKey 0 0x2000) 2 == 1) = true
    ∧ after (exec .couchPerform (couchState .fin listCells)) (fun u => bits (peek u.mem (localKey 0 0x2000) 4) 27 27 == 1 && peek u.mem (localKey 0 0x2000) 2 == 1) = true
    ∧ after (exec .couchPerform (couchState (.ins answer) listCells)) (fun u => (u.tile 0).couch.isEmpty && threadIs u 96 (fun t => t.ops.all (·.result.isSome))) = true
    ∧ after (exec .traversalBegin (rayState traversal [])) (fun u => (u.tile 0).rays == [{ running with stack := [(0x2000, 0x3F800000)] }] && bits (peek u.mem (localKey 0 0x2000) 4) 26 26 == 1) = true
    ∧ after (exec .nodeVisit (rayState { running with visits := 7 } [])) (fun u => (u.tile 0).rays == [{ running with visits := 7, stage := .ending 0 0, out := some (0xFF * 2 ^ 56) }] && peek u.mem (localKey 0 0x2014) 4 == 7) = true
    ∧ after (exec .nodeVisit (rayState { running with stack := [(0x2000, 0x41000000)] } [])) (fun u => (u.tile 0).rays == [running]) = true
    ∧ after (exec .nodeVisit (rayState { running with stack := [(0x2000, 0x3F800000)], visits := 5 } [])) (fun u => (u.tile 0).rays.map (fun y => (y.stage, y.out)) == [(.ending 6 0x2000, some (0xFF * 2 ^ 56))]) = true
    -- a stopped ray writes its end entry where its ring word is EMPTY, and ends at once where it is FULL (R334)
    ∧ after (exec .nodeVisit (rayState { running with stack := [(0x2000, 0x3F800000)], stopAsked := some 1 } [(localKey 0 0x10, ())])) (fun u => (u.tile 0).rays.map (fun y => (y.stage, y.out)) == [(.ending 7 0, some (0xFF * 2 ^ 56))]) = true
    ∧ after (exec .nodeVisit (rayState { running with stack := [(0x2000, 0x3F800000)], stopAsked := some 1 } [])) (fun u => (u.tile 0).rays.isEmpty && answered u [.s 6 (7 * 2 ^ 56)]) = true
    ∧ after (exec .ringEntryWrite (rayState endingRay [(localKey 0 0x10, ())])) (fun u => (u.tile 0).rays.isEmpty && peek u.mem (localKey 0 0x10) 8 == 0xFF * 2 ^ 56 && u.empties.isEmpty && answered u [.s 6 0]) = true := by
  and_intros <;> first | exact canonical_of_canonicalB (by decide +kernel) | decide +kernel

/-- A triangle without area, and a pop that waits, in a group. -/
def flat : Nat × Quad := (0, 0)
def rasterThread (g : Group) : Thread := { flying with group := some g }
def triangleGroup : Group := { openGroup with triangles := [flat], fragments := [] }
def popGroup (f : List Fragment) : Group := { openGroup with fragments := f, pops := [(50, 1, 3)] }
/-- A blend of (1.0, 0, 0, 1.0) onto R8G8B8A8 under REPLACE at 0x300000. -/
def blend1 : Blend := ⟨60, 50, 7, 5, 30, 1, 96, 96, 0x1FFC, 0, 0, 0, 0x300000, 0x300000, 0x300000, 0, 0, 0x3F800000_00000000_00000000_3F800000, (0, 0)⟩
def blendState (b : Blend) : State := { State.reset with nextId := 70, input := .one 60, blends := [b], gctxs := [(7, { resident with lwm := 1 })] }

theorem group_ready : ∀ c, mapGet blend1.gctx (blendState blend1).gctxs = some c → c.serial = blend1.draw → blend1.group ≤ c.lwm := by
  intro c h _
  have h' : some ({ resident with lwm := 1 } : GraphicsContext) = some c := h
  cases h'
  decide

theorem witness_PixelEvents : (withArg (rasterThread triangleGroup) (.one 96)).canonical ∧ (rasterThread triangleGroup).group = some triangleGroup ∧ triangleGroup.fragments.length < 256 ∧ triangleGroup.pops = []
    ∧ (withArg (rasterThread (popGroup [])) (.one 96)).canonical ∧ (popGroup []).triangles = [] ∧ (blendState blend1).canonical ∧ (blendState blend1).blends = [blend1] ∧ (∀ c, mapGet blend1.gctx (blendState blend1).gctxs = some c → c.serial = blend1.draw → blend1.group ≤ c.lwm)
    ∧ reservedRange (blendState blend1) 5 0 0x300000 4 = false
    ∧ after (exec .rasterize (withArg (rasterThread triangleGroup) (.one 96))) (fun u => threadIs u 96 (fun t => t.group.map (·.triangles) == some [])) = true
    ∧ after (exec .rasterize (withArg (rasterThread (popGroup [])) (.one 96))) (fun u => answered u [.v 1 0, .p 3 true]) = true
    ∧ after (exec .rasterize (withArg (rasterThread (popGroup openGroup.fragments)) (.one 96))) (fun u => answered u [.v 1 0x40003, .p 3 false]) = true
    ∧ after (exec .blendPerform (blendState blend1)) (fun u => u.blends.isEmpty && peek u.mem 0x300000 4 == 0xFF0000FF) = true := by
  and_intros <;> first | exact canonical_of_canonicalB (by decide +kernel) | decide +kernel | exact group_ready

/-- A triangle with corners (0, 0), (2, 0) and (0, 2), facing either way. -/
def wedge : Nat × Quad := (6, 0x40000000_00000000_00000000_40000000_00000000_00000000)
def wedgeState : State := { withArg (rasterThread { triangleGroup with triangles := [wedge] }) (.one 96) with gctxs := [(7, resident)] }

/-- Both of its shorter sides cover; the fragment at (0, 0) has weights 1/4 and 1/4 of corners 1 and 2, and the centre (1.5, 0.5) lies on the longest side, which does not cover (R362). -/
theorem witness_PixelEvents_covering : wedgeState.canonical ∧ drawn wedge.2.toNat ∧ scissored resident.bytes 0 0 ∧ covers wedge.2.toNat 0 0 ∧ weight wedge.2.toNat 0 0 1 = 1 / 4
    ∧ after (exec .rasterize wedgeState) (fun u => threadIs u 96 (fun t => t.group.map (fun g => g.fragments.map (fun f => (f.x, f.y, f.prim, f.b1, f.b2))) == some [(0, 0, 6, 0x3E800000, 0x3E800000)])) = true := by
  and_intros <;> first | exact canonical_of_canonicalB (by decide +kernel) | decide +kernel | (unfold covers; decide +kernel)

theorem witness_PixelEvents_culled : screenTriangle flat.2 = none := by
  have h : (screenTriangle flat.2).isNone = true := by decide +kernel
  exact Option.isNone_iff_eq_none.mp h

/-! ### Witnesses: scenes and textures -/

def sceneReq (form : SceneForm) : Req := { asking (.scene form rayZ []) form.size with d := 3, pf := 4, data := 0 }
/-- The record of a primitive of the scene at offset 0x100 of the store, and more of it. -/
def sceneState (form : SceneForm) (b : Nat) (more : List Host.Cell) : State := { arriving (sceneReq form) with
  mem := bytesFrom (localKey 0 0x100) form.size b ++ more ++ coefBytes, tiles := [(0, { coefOwner := some 5, array := { holder := some 5 } })] }
/-- A triangle in the plane z = 4, opaque, or drawn from one side alone. -/
def triangle (oneSided : Nat) : Nat := wordsOf [0xBF800000, 0xBF800000, 0x40800000, 0x40400000, 0xBF800000, 0x40800000, 0xBF800000, 0x40400000, 0x40800000, 77] + (0xFFFF + 9 * 2 ^ 16 + 0x3C00 * 2 ^ 32 + 0xBC00 * 2 ^ 48 + 0x4000 * 2 ^ 64 + oneSided * 2 ^ 80) * 2 ^ 320
/-- A round splat at (0, 0, 4) of zero opacity. -/
def faint : Nat := wordsOf [0, 0, 0x40800000, 0x3F800000, 0x3F800000, 0x3F800000, 0, 0, 0, 77]
/-- A volume of voxels of side 1.0 from (-4, -4, 2) on, all of them empty. -/
def volume : Nat := wordsOf [0xC0800000, 0xC0800000, 0x40000000, 0x3F800000, 0x41200000, 77, 9]
/-- A field leaf of one level of one cell around (0, 0, 4), its table at offset 0x10000. -/
def field : Nat := wordsOf [0xC0000000, 0xC0000000, 0x40000000, 0x40000000, 0x40000000, 0x40C00000] + 0xFFFFFFFFF10000 * 2 ^ 192 + 0xFFFFFFFFF20000 * 2 ^ 256 + (1 + 10 * 2 ^ 8 + 77 * 2 ^ 32 + 9 * 2 ^ 64 + 2 ^ 192) * 2 ^ 320
def table : List Host.Cell := bytesFrom (localKey 0 0x10000) 32 (wordsOf [0x40003C00, 0x3C003C00, 0x3C000000, 0x42004000, 0x3C00, 0x3C003C00, 0, 0x44004500])
/-- A surface of 4 × 4 of R8G8B8A8 at 0x200, whose texels all are (0xFF, 0, 0, 0xFF), sampled at (0.5, 0.375). -/
def surface : Nat := 0x200 + (4 + 4 * 2 ^ 16 + 2 ^ 40 + 2 ^ 56) * 2 ^ 64
def redLine (n : Nat) : L1Line := ⟨5, n, 0xFF0000FF_FF0000FF_FF0000FF_FF0000FF_FF0000FF_FF0000FF_FF0000FF_FF0000FF, true, true, false, false, 0, 65536⟩
def texturing (linear : Bool) (q : Quad) : State := { arriving { asking (.texture linear q) 64 with data := 0x3F00000000000000_00000000 } with
  mem := bytesFrom (localKey 0 0x100) 64 surface, cores := [(3, { l1 := [redLine 0x10, redLine 0x11, redLine 0x12, redLine 0x13] })] }

theorem witness_SceneAndTextureAnswers : (sceneState .tri (triangle 0) []).canonical ∧ Arriving (sceneState .tri (triangle 0) []) 51 (sceneReq .tri) 96 flying ∧ (sceneReq .tri).acq = false ∧ (sceneState .tri (triangle 0) []).bad = []
    ∧ (sceneReq .dkl).va % 64 = 0 ∧ inWindow ((sceneReq .volseg).va + SceneForm.volseg.size - 1) = true ∧ (rayOf rayZ.toNat).isSome = true ∧ tileOf 96 = (sceneReq .tri).tile
    ∧ (sceneState .dkl field table).canonical ∧ (fieldLeaf field).map (fun f => (f.table, f.log, f.res, f.levels)) = some (0xFFFFFFFFF10000, 10, [1], 1) ∧ rowMayPush (sceneState .dkl field table) (sceneReq .dkl) = true
    ∧ (texturing true 0x3EC00000_3F000000).canonical ∧ (surfaceOf surface).map (fun f => (f.levels, f.fmt)) = some (1, 0) := by
  and_intros <;> first | exact canonical_of_canonicalB (by decide +kernel) | exact ⟨⟨⟨by decide +kernel, rfl, rfl, by decide +kernel, by decide +kernel, rfl, rfl⟩, rfl, rfl, rfl⟩, rfl, by decide +kernel⟩ | decide +kernel

/-- The ray along z meets the triangle at t = 4.0, its weights all positive; from behind a one-sided triangle it is lost; a splat of no opacity and an empty volume are missed (R345-R347). -/
theorem witness_SceneAndTextureAnswers_scenes :
    after (exec .requestArrival (sceneState .tri (triangle 0) [])) (fun u => answered u (hit 3 4 (recordBytes 0x40800000 0x40800000 0x7F800000 (fun i => [0x3C00, 0, 0x4000].getD i 0) 9 77 0))) = true
    ∧ after (exec .requestArrival (sceneState .tri (triangle 1) [])) (fun u => answered u (miss 3 4)) = true
    ∧ after (exec .requestArrival (sceneState .splat faint [])) (fun u => answered u (miss 3 4)) = true
    ∧ after (exec .requestArrival (sceneState .volseg volume [])) (fun u => answered u (miss 3 4)) = true
    ∧ after (exec .requestArrival (sceneState .dkl 0 [])) (fun u => threadIs u 96 (fun t => t.ops.map (fun o => o.result.map (fun x => x.trap.map (·.cause))) == [some (some .malformedMetadata)])) = true := by
  and_intros <;> decide +kernel

/-- Two arrivals of a request: its first read, and the reads whose addresses that gives (R348, R370). -/
def twice (s : State) : Step :=
  match exec .requestArrival s with
  | .next u => exec .requestArrival u
  | o => o

/-- The mean of the eight corners, 1.375 and 1.5, goes to the row as BF16 and as F16 (R348); a texture of one colour gives that colour, and an infinite u the canonical NaN (R370). -/
theorem witness_SceneAndTextureAnswers_fields :
    after (twice (sceneState .dkl field table)) (fun u => (u.tile 0).array.fifo.map (fun (c : EngineCmd) => (c.work, c.accepted)) == [(.row [0x3FC03FB0, 0x3E003D80, 0x40000000, 0x40C00000, 0xFFFFFFFFF20000, 9, 77, 4], false)]) = true
    ∧ after (twice (texturing true 0x3EC00000_3F000000)) (fun u => answered u [.v 3 (BitVec.ofNat 256 (colourOf (fun c => if c % 3 = 0 then 0x3F800000 else 0) 0 1))]) = true
    ∧ after (twice (texturing false 0x3F000000_3F800000_00000000_00000000_00000000_3F800000_3EC00000_3F000000)) (fun u => answered u [.v 3 (BitVec.ofNat 256 (colourOf (fun c => if c % 3 = 0 then 0x3F800000 else 0) 0 1))]) = true
    ∧ after (exec .requestArrival (texturing true 0x7F800000)) (fun u => answered u [.v 3 (BitVec.ofNat 256 (colourOf (fun _ => 0x7FC00000) 0 1))]) = true := by
  and_intros <;> decide +kernel

/-! ### Witnesses: the module and its surroundings -/

def idle (a : EventArg) : State := { State.reset with input := a, cycle := 1000, nextId := 50 }
def regs : ControlDefaults := ⟨1, 2, 3, 1, 4, true, 5, 0x9000, 0xA000, 0, 8, 16⟩
/-- The mailbox commands of the table with operands that it admits. -/
def mails : List (Instr × EventArg) := [
  (.placeContextTable, .two 0 0x10000), (.placeSaveAreas, .two 3 0x100000), (.setTimeSlice, .two 0 500), (.reserveFrameSlots, .slots 1 5 0xF), (.setWdlim, .three 0 5 100), (.setContextDefaults, .defaults 0 (some 5) regs),
  (.setPlacementList, .places 1 5 [64, 70] false), (.setRunnerDefaults, .defaults 0 (some 9) regs), (.formReplicaGroup, .places 9 100 [0, 4] false), (.setPeerTable, .peer 4 ⟨7, [1], [(5, 6)]⟩), (.fatalTrapReport, .two 9 1),
  (.setPowerCap, .one 2500), (.setPowerCap, .one 3001), (.assignFixedTimingTiles, .places 0 5 [7] false), (.assignFixedTimingTiles, .places 0 5 [7] true)]

/-- A decode table at 0x8000 whose entry 3 describes 16 × 16 pixels of BC format 2 in blocks of 4 × 4, from 0x10 to 0x200, in one level. -/
def decoding : State := { idle (.two 0 0x8000) with
  mem := [(0x8060, 0x10#8), (0x8069, 2#8), (0x8070, 16#8), (0x8072, 16#8), (0x8074, 2#8), (0x8075, 0x44#8), (0x8076, 1#8), (0x8077, 1#8)] }

theorem witness_MailboxCommands : mails.all (fun m => (match mailbox (idle m.2) m.1 with | some u => gives (exec m.1 (idle m.2)) u | none => false)) = true
    ∧ mails.all (fun m => let s : State := { idle m.2 with mgmt := { Management.reset with boot := .recovery } }; (mailbox s m.1).isSome && gives (exec m.1 s) { s with sent := [.report "REFUSED" 0 0] }) = true
    ∧ (idle .none).canonical ∧ (idle .none).threads = [] ∧ (idle .none).migrants = [] ∧ (idle .none).reqs = [] ∧ (∀ d, dieInUse (idle .none) d = false) ∧ (idle .none).mgmt.boot = .running ∧ ((idle (.two 0 0x8000)).die 0).owed = []
    ∧ after (exec .placeFaultRing { idle (.two 0 0x8000) with mem := [(0x10005, 7#8)], empties := [(0x10000, ())] }) (fun u => (u.die 0).ring == some 0x8000 && u.mem.isEmpty && u.empties.isEmpty) = true
    ∧ after (exec .placeParkingArea (idle (.three 1 0x10000 4096))) (fun u => (u.die 1).parking == some (0x10000, 4096) && peek u.mem 0x10000 8 == 0xFFFFFFFF) = true
    ∧ after (exec .placeQueueTable (idle (.queues 0 0x200000 [⟨3, 0x400040, 2, 0x300008, 5, true⟩]))) (fun u => (u.die 0).queueTable == some 0x200000 && (userQueue u 0 3).map (fun x => (x.ring, x.size, x.ridx, x.notify, x.ctx, x.valid)) == some (0x400040, 2, 0, 0x300008, 5, true)) = true
    ∧ after (exec .placeDecodeTable decoding) (fun u => (u.die 0).views.map (fun v => (v.cbase, v.dbase, v.w, v.h, v.fmt, v.bw, v.bh, v.levels)) == [(0x10, 0x200, 16, 16, 2, 4, 4, 1)] && (u.die 0).decodeTable == some 0x8000) = true
    ∧ after (exec .setPortMode (idle (.mode 3 .qorger))) (fun u => (u.port 3).mode == .qorger && (u.port 4).mode == .off) = true := by
  and_intros <;> first | exact canonical_of_canonicalB (by decide +kernel) | decide +kernel | exact fun _ => rfl

/-- Context 5 has frame slots on die 0, so that it can be given a tile in fixed timing; whether the power cap admits it is open. -/
theorem witness_MailboxCommands_fixed : (mailbox { idle (.places 0 5 [7] true) with contexts := [(5, { frameSlots := 0xF })] } .assignFixedTimingTiles).isSome = true := by
  simp [mailbox, idle, State.settings, mapGet]
  split <;> rfl

/-- A replica group of two of job 9 whose own digest is 77, with the `STEPB` of the thread on core 3. -/
def replica : Replica := ⟨[0, 4], 100, 6, some 51, [(0, 77)], false, 900⟩
def stepping : Thread := { flying with status := .parked .step }
def stepState (a : EventArg) (g : Replica) : State := { withArg stepping a with reqs := [(51, { asking (.step 6) 8 with stage := .accepted })], replicas := [(9, g)] }

theorem witness_TimingAndReplicaEvents : (idle (.one 7)).canonical ∧ ((idle (.one 7)).tile 7).fixed = false ∧ ({ withArg thread (.one 0) with tiles := [(0, { fixed := true, owner := some 5 })] } : State).canonical
    ∧ (stepState (.three 9 4 77) replica).canonical ∧ mapGet 9 (stepState (.three 9 4 77) replica).replicas = some replica ∧ signalsWait (stepState (.three 9 4 77) replica) 9 = false
    ∧ (stepState (.two 9 7) ⟨[0, 4, 7], 100, 6, none, [], false, 900⟩).canonical ∧ (stepState (.two 9 7) replica).cycle - 900 = 100
    ∧ after (exec .droopStretch (idle (.one 7))) (fun u => (u.tile 7).stretched == 1) = true
    ∧ after (exec .detectorTrip { withArg thread (.one 0) with tiles := [(0, { fixed := true, owner := some 5 })] }) (fun u => (u.tile 0).stretched == 1 && threadIs u 96 (fun t => t.broken) && u.sent == [.report "detector trip" 0 0]) = true
    ∧ after (exec .peerDigestArrival (stepState (.three 9 4 77) replica)) (fun u => answered u [.s 3 0] && threadIs u 96 (fun t => t.status == .active) && u.replicas == [(9, { replica with expected := 7, pending := none, digests := [], since := 1000 })]) = true
    ∧ after (exec .peerDigestArrival (stepState (.three 9 4 78) replica)) (fun u => answered u [.s 3 1] && u.replicas == [(9, { replica with pending := none, digests := [], disagreed := true, since := 1000 })]) = true
    ∧ after (exec .peerDigestArrival (stepState (.three 9 4 78) { replica with pending := none, digests := [] })) (fun u => u.replicas == [(9, { replica with pending := none, digests := [(4, 78)] })]) = true
    ∧ after (exec .memberTimeout (stepState (.two 9 7) ⟨[0, 4, 7], 100, 6, none, [], false, 900⟩)) (fun u => u.replicas == [(9, ⟨[0, 4], 100, 6, none, [], false, 900⟩)]) = true := by
  and_intros <;> first | exact canonical_of_canonicalB (by decide +kernel) | decide +kernel

def managed (m : Management) (a : EventArg) : State := { idle a with mgmt := m }
def trained : BringUp := ⟨6, 16, 31, [(3, .qorger, true)], [9], [12]⟩
def goodImage : SignedImage := ⟨[1#8], true, 0, 4⟩
/-- The host writes two bytes of HBM, reads them, and reaches beyond HBM; one image does not verify. -/
theorem witness_ManagementEvents :
    (idle (.access true 0x1000 2 0xABCD)).canonical ∧ reservedBytes (idle (.access true 0x1000 2 0xABCD)) 0x1000 2 = false ∧ ({ Management.reset with trained := true, cxl := 31 } : Management).cxl ≠ 0
    ∧ (managed { Management.reset with ports := Management.reset.ports.set 3 { mode := .qorger } } (.one 3)).canonical ∧ ((managed { Management.reset with ports := Management.reset.ports.set 3 { mode := .qorger } } (.one 3)).port 3).live = true
    ∧ (managed { Management.reset with boot := .off } (.images goodImage goodImage trained)).canonical ∧ (managed { Management.reset with boot := .recovery } (.image goodImage)).canonical ∧ goodImage.signed = true ∧ goodImage.keyHash = Management.reset.rootKeyHash
    ∧ Management.reset.rollback ≤ goodImage.version ∧ Management.reset.cap < 3200
    ∧ after (exec .hostApertureAccess (idle (.access true 0x1000 2 0xABCD))) (fun u => peek u.mem 0x1000 2 == 0xABCD && u.sent == [.completion true 0]) = true
    ∧ after (exec .hostApertureAccess { idle (.access false 0x1000 2 0) with mem := [(0x1001, 5#8)] }) (fun u => u.sent == [.completion true 0x500]) = true
    ∧ after (exec .hostApertureAccess (idle (.access false 0xBFFFFFFFFF 2 0))) (fun u => u.sent == [.completion false 0]) = true
    ∧ after (exec .cxlMemAccess { managed { Management.reset with trained := true, cxl := 31 } (.access false 0x1000 2 0) with mem := [(0x1001, 5#8)] }) (fun u => u.sent == [.completion true 0x500]) = true
    ∧ after (exec .notifyWindowRead (idle .none)) (fun u => u.sent == [.completion false 0]) = true
    ∧ after (exec .linkTraining (idle (.three 6 16 31))) (fun u => u.mgmt.trained && u.mgmt.pcieGen == 6 && u.mgmt.width == 16 && u.mgmt.cxl == 31) = true
    ∧ after (exec .linkTraining { idle (.three 5 8 0) with cores := [(3, { l1 := [⟨5, 0x100, 0, true, true, true, false, 0, 65536⟩] })] }) (fun u => u.mgmt.trained && (u.core 3).l1.isEmpty) = true
    ∧ after (exec .attestationRequest (managed { Management.reset with boot := .recovery } (.one 7))) (fun u => u.sent == [.report "REFUSED" 0 0]) = true
    ∧ after (exec .attestationRequest (managed { Management.reset with boot := .recovery } (.two 7 1))) (fun u => u.sent.length == 1) = true
    ∧ bringUpOk trained = true
    ∧ after (exec .portFailure (managed { Management.reset with ports := Management.reset.ports.set 3 { mode := .qorger } } (.one 3))) (fun u => !(u.port 3).live && u.sent == [.report "port failed" 3 0]) = true
    ∧ after (exec .laneSparing (managed { Management.reset with ports := Management.reset.ports.set 3 { mode := .qorger } } (.one 3))) (fun u => (u.port 3).spared == 1) = true
    ∧ after (exec .powerOn { managed { Management.reset with boot := .off } (.images goodImage goodImage trained) with mem := [(0x1001, 5#8), (hostKey 1, 6#8)] }) (fun u => u.mgmt.boot == .running && u.mem == [(hostKey 1, 6#8)] && u.mgmt.pcieGen == 6 && (u.port 3).mode == .qorger && (u.cluster 1).spareFor == some 9 && u.sent.contains (.report "unit failed" 12 0)) = true
    ∧ after (exec .powerOn (managed { Management.reset with boot := .off } (.images goodImage { goodImage with signed := false } trained))) (fun u => u.mgmt.boot == .recovery) = true
    ∧ after (exec .signedImage (managed { Management.reset with boot := .recovery } (.image goodImage))) (fun u => u.mgmt.stage == some goodImage) = true
    ∧ after (exec .signedImage (managed { Management.reset with boot := .recovery } (.image { goodImage with signed := false }))) (fun u => u.mgmt.stage.isNone && u.sent == [.report "REFUSED" 0 0]) = true
    ∧ after (exec .powerLimitExceeded (idle (.one 3200))) (fun u => u.mgmt.clockSteps == 1) = true
    ∧ after (exec .powerLimitExceeded (managed { Management.reset with clockSteps := 7 } (.one 2000))) (fun u => u.mgmt.clockSteps == 0) = true
    ∧ after (exec .temperatureExcursion (idle (.two 1 96))) (fun u => u.mgmt.throttled && u.sent == [.report "HBM temperature" 96 0]) = true
    ∧ after (exec .temperatureExcursion (idle (.two 0 105))) (fun u => !(u.die 2).placementStopped) = true
    ∧ after (exec .temperatureExcursion (idle (.two 0 106))) (fun u => (u.die 2).placementStopped && u.mgmt.boot == .running) = true
    ∧ after (exec .temperatureExcursion { core3 with input := .two 0 116 }) (fun u => u.mgmt.boot == .off && u.threads.isEmpty) = true
    ∧ after (exec .trayExcursion (idle (.tray .supply))) (fun u => u.sent.length == 1) = true := by
  and_intros <;> first | exact canonical_of_canonicalB (by decide +kernel) | decide +kernel

/-! ### Witnesses: a step of the machine -/

/-- The page at 0x2000 begins with `ADD s3, s4, s5` and `C.LDI s3, 0`, and the L1 of core 3 holds its first line; or it begins with a word that is no instruction. -/
def line : L1Line := ⟨5, 0x100, 0x006800502181, true, true, false, true, 0, 65536⟩
def cached : State := { mapped 1 thread with
  mem := [(0x2000, 0x81#8), (0x2001, 0x21#8), (0x2002, 0x50#8), (0x2004, 0x68#8), (0x10052, 2#8), (0x10058, 3#8), (0x20000, 1#8), (0x20002, 3#8), (0x30000, 1#8), (0x30002, 4#8), (0x40000, 0x1D#8), (0x40008, 1#8)]
  agenda := [.issue 96], cores := [(3, { l1 := [line] })] }
def illegal : State := { cached with mem := [(0x2000, 0xFF#8), (0x2001, 0xFF#8)] ++ cached.mem.drop 4, cores := [] }

theorem witness_StepRunsDecoded : cached.agenda = [.issue 96] ∧ cached.thread? 96 = some thread ∧ thread.due = [] ∧ thread.owed = none ∧ thread.heldTraps = [] ∧ cached.old = [] ∧ Mapped cached 5 thread.pc.toNat (page 1) ∧ Mapped cached 5 (thread.pc.toNat + 2) (page 1)
    ∧ SoleHome cached thread.pc.toNat (page 1) ∧ l1Find cached (coreOf 96) thread.ctx thread.pc.toNat = some line ∧ l1Find cached (coreOf 96) thread.ctx (thread.pc.toNat + 2) = some line
    ∧ peek cached.mem ((page 1).key thread.pc.toNat) 2 = line.read thread.pc.toNat 2 ∧ peek cached.mem ((page 1).key (thread.pc.toNat + 2)) 2 = line.read (thread.pc.toNat + 2) 2
    ∧ BitVec.ofNat 32 (line.read thread.pc.toNat 2 + 65536 * line.read (thread.pc.toNat + 2) 2) = 0x00502181#32 ∧ decode (insnBytes 0x00502181) = .ok (.add g0 3 4 5, [])
    ∧ (match (fetchFor 96).from { cached with agenda := [] } with | .ok (.ready x, _) => x == 0x00502181 | _ => false) = true
    ∧ (match (fetchFor 96).from { illegal with agenda := [] } with | .ok (.ready x, _) => (match decode (insnBytes x) with | .ok _ => false | .error _ => true) | _ => false) = true
    ∧ ({ cached with threads := [(96, sleeper)] } : State).thread? 96 = some sleeper ∧ sleeper.status ≠ .active ∧ ({ loading with windows := [⟨3, 0x1FFC, 0, touchS 3⟩] } : Thread).blocked = true
    ∧ after (step cached) (fun u => threadIs u 96 (fun t => t.readS 3 == 0x8000000000000040 && t.pc == 0x2004) && u.agenda.isEmpty) = true
    ∧ after (step illegal) (fun u => threadIs u 96 (fun t => t.intrap && t.pc == 0x9000) && peek u.mem (localKey 0 0xA022) 1 == 1) = true
    ∧ gives (step { cached with threads := [(96, sleeper)] }) { cached with threads := [(96, sleeper)], agenda := [] } = true
    ∧ agree (step { core3 with agenda := [.event .notifyWindowRead .none] }) (exec .notifyWindowRead { core3 with agenda := [], input := .none, cur := 2 ^ 40, insn := 0 }) = true
    ∧ after (step { core3 with agenda := [.world (.drift 0 3)] }) (fun u => (u.tile 0).ahead == 3 && u.agenda.isEmpty) = true := by
  and_intros <;> first | decide +kernel | exact mapped_of (by decide +kernel) (by decide +kernel) | (apply soleHome_of; rfl)

/-- A step from a state in canonical form; every state is one of `StepKeepsSent`. -/
theorem witness_StepKeepsCanonical : cached.canonical ∧ after (step cached) canonicalB = true := ⟨canonical_of_canonicalB (by decide +kernel), by decide +kernel⟩

theorem witness_StepKeepsSent : after (step { core3 with sent := [.msix 0], agenda := [.event .notifyWindowRead .none] }) (fun u => u.sent == [.completion false 0, .msix 0]) = true := by decide +kernel

/-! ### Compressed texels (R368) -/

/-- By hand: an ETC2 block of zeros is black plus the small modifier 2 of table 0; with 0xF as the red of its left half that is clamped; alpha of base 128, multiplier 1 and the modifier -3 of EAC's table 0. -/
theorem test_etc2_texels : decodeTexel 2 4 4 0 3 1 = 0xFF020202 ∧ decodeTexel 2 4 4 0xF0 1 3 = 0xFF0202FF ∧ decodeTexel 2 4 4 0xF0 2 3 = 0xFF020202 ∧ decodeTexel 4 4 4 0x1080 0 0 = 0x7D020202 := by
  and_intros <;> decide +kernel

/-- By hand: void-extent blocks of one colour; a 4 × 4 grid of 2-bit weights, all zero, between the greys 0x10 and 0xF0, whose .f16 code of 0x1010 / 65536 is 0x2C04; the modes 0x42 and 0 (reserved). -/
theorem test_astc_texels : decodeTexel 0 6 5 (0xFFFFFFFFFFFFFDFC + 0x44003300220011FF * 2 ^ 64) 5 4 = 0x44332211 ∧ decodeTexel 1 4 4 (0xFFFFFFFFFFFFFFFC + 0x3C00380034003000 * 2 ^ 64) 0 0 = 0x3C00380034003000
    ∧ decodeTexel 1 4 4 (0x42 + 0xF010 * 2 ^ 17) 2 1 = 0x3C002C042C042C04 ∧ blockMode 0x42 = some (4, 4, (0, 2), false) ∧ decodeTexel 0 4 4 0 0 0 = 0xFFFF00FF := by
  and_intros <;> decide +kernel

/-- The statement about reset has no hypothesis; the reset state is canonical. -/
theorem witness_ResetState : State.reset.canonical := canonical_of_canonicalB (by decide +kernel)

end Sys2Proof.Tests
end

/-!
SUPPORT. A step is a log of updates: every outcome that is a next state is reached from the state before by `replay`. Each meaning of `exec` is of one of three forms, and each form logs its
updates; so whatever every update keeps, every step keeps.
-/

namespace Sys2Proof.Machine

/-- Where the outcome is a next state, a log of updates leads to it from `s`. -/
def LogsUpdates (s : State) (o : Step) : Prop := ∀ t, o = .next t → ∃ l, t = replay l s

/-! ### The outcomes a meaning is made of -/

theorem logsUpdates_commit (name : String) (a : Act Unit) (s : State) : LogsUpdates s (commit name a s) := by
  intro t h
  exact commit_replay h

theorem logsUpdates_issue (f : Form) (body : Nat → Thread → Act Flow) (s : State) : LogsUpdates s (issue f body s) := by
  intro t h
  exact issue_replay h

theorem logsUpdates_replay (l : List Effect) (s : State) : LogsUpdates s (.next (replay l s)) := by
  rintro _ ⟨⟩
  exact ⟨l, rfl⟩

theorem logsUpdates_refused (r : Refusal) (s : State) : LogsUpdates s (.refused r) := by rintro _ ⟨⟩

theorem logsUpdates_fault (f : Fault) (s : State) : LogsUpdates s (.fault f) := by rintro _ ⟨⟩

/-- What goes on from a state that a log has reached logs from where that log began. -/
theorem LogsUpdates.after_replay {l : List Effect} {s : State} {o : Step} (h : LogsUpdates (replay l s) o) : LogsUpdates s o := by
  intro t ht
  obtain ⟨m, rfl⟩ := h t ht
  exact ⟨m ++ l, (replay_append m l s).symm⟩

/-! ### Instructions and events -/

/-- Every meaning logs its updates: a mailbox command refuses or commits, by what the event acts on; any other event row commits; an instruction issues. -/
theorem logsUpdates_exec (i : Instr) (s : State) : LogsUpdates s (exec i s) := by
  cases i with
  | placeContextTable | placeFaultRing | placeParkingArea | placeQueueTable | setTimeSlice | placeSaveAreas | placeDecodeTable | assignFixedTimingTiles
    | reserveFrameSlots | setWdlim | formReplicaGroup | setPeerTable | setContextDefaults | setRunnerDefaults | setPlacementList | fatalTrapReport | setPortMode
    | setPowerCap =>
    -- down to the `match` on the input in which each of these rows begins
    conv => arg 2; whnf
    split
    · exact logsUpdates_commit _ _ _
    · exact logsUpdates_refused _ _
  | requestArrival | put | writeback | waitlimExpiry | withdraw | resend | trapEntry | wakeArrival | migrationDeparture | runQueueArrival | runQueueEntry
    | quitSlotEmpty | messageArrival | handlerStart | resumeNone | resumeReissue | resumeConvert | registerWrite | engineAcceptance | copyExecution
    | conversionExecution | sscanExecution | arrayCommand | deckleRowCommand | packetTake | packetAcceptance | flaskPlacement | gridCompletion | wqaskArrival
    | wqputArrival | timeSliceExpiry | notifyWrite | hostApertureAccess | droopStretch | detectorTrip | peerDigestArrival | memberTimeout | spill | restore | discard
    | watchdogExpiry | tileSparing | couchPerform | traversalBegin | nodeVisit | ringEntryWrite | rasterize | blendPerform | linkTraining | portFailure | powerOn
    | signedImage | attestationRequest | powerLimitExceeded | temperatureExcursion | laneSparing | slotStateError | cxlMemAccess | notifyWindowRead | trayExcursion =>
    exact logsUpdates_commit _ _ _
  | _ => exact logsUpdates_issue _ _ _

theorem logsUpdates_runEvent (row : Instr) (arg : EventArg) (s : State) : LogsUpdates s (runEvent row arg s) := (logsUpdates_exec row _).after_replay

/-- The first event that is due is the outcome of running its row. -/
theorem logsUpdates_firstDue {s : State} {l : List (Instr × EventArg)} {o : Step} (h : firstDue s l = some o) : LogsUpdates s o := by
  induction l with
  | nil => cases h
  | cons e rest ih =>
    unfold firstDue at h
    split at h
    · exact ih h
    · cases h
      exact logsUpdates_runEvent _ _ _

/-! ### Turns and steps -/

/-- A slot's turn logs what its fetch did, and then what the trap or the instruction found there does. -/
theorem logsUpdates_runTurn (k : Nat) (s : State) : LogsUpdates s (runTurn k s) := by
  unfold runTurn
  split
  case h_1 insn x _ =>
    refine LogsUpdates.after_replay (l := .cur k insn :: x.log) ?_
    dsimp only
    split
    · exact logsUpdates_exec _ _
    · exact logsUpdates_commit _ _ _
  case h_2 => exact (logsUpdates_commit _ _ _).after_replay
  case h_3 => exact logsUpdates_replay _ _
  case h_4 => exact logsUpdates_fault _ _
  case h_5 => exact logsUpdates_replay [] s

/-- A core's turn logs the thread's turn, if there is one, and the passing of the turn. -/
theorem logsUpdates_coreTurn (c : Nat) (s : State) : LogsUpdates s (coreTurn c s) := by
  unfold coreTurn
  split
  · exact logsUpdates_replay _ _
  · next k _ =>
    have hturn : LogsUpdates s (runTurn k (replay (takeTurnLog s k) s)) := (logsUpdates_runTurn k _).after_replay
    split
    · next s1 hrun =>
      obtain ⟨l, rfl⟩ := hturn s1 hrun
      split
      · exact logsUpdates_replay _ _
      · exact (logsUpdates_replay _ _).after_replay
    · exact hturn

/-- Every step is a log of updates. -/
theorem logsUpdates_step (s : State) : LogsUpdates s (step s) := by
  unfold step
  split
  case h_1 k rest _ =>
    refine LogsUpdates.after_replay (l := [.agenda rest]) ?_
    dsimp only
    split
    · split
      · exact logsUpdates_runTurn _ _
      · exact logsUpdates_replay [] _
    · exact logsUpdates_replay [] _
  case h_2 => exact (logsUpdates_runEvent _ _ _).after_replay
  case h_3 => exact (logsUpdates_commit _ _ _).after_replay
  case h_4 =>
    split
    · next hdue => exact logsUpdates_firstDue hdue
    · split
      · exact logsUpdates_coreTurn _ _
      · exact logsUpdates_replay _ _

end Sys2Proof.Machine

/-!
CERTIFICATE. The statement about the form of the state that every step keeps.
-/

namespace Sys2Proof.Claims

open Sys2Proof.Machine

/-- Settles O5: a step is a log of updates, each of which keeps the canonical form of the state. -/
theorem stepKeepsCanonical : Obligations.StepKeepsCanonical := by
  intro s t hs hstep
  obtain ⟨l, rfl⟩ := logsUpdates_step s t hstep
  exact replay_canonical l s hs

end Sys2Proof.Claims

/-!
SUPPORT. Further rules for the issue of an instruction: what keeps it from issuing stops its plan, and the outcome is then the trap or the wait that the stop names.
-/

namespace Sys2Proof.Machine
open Sys2Proof.Claims (waiting)

theorem stops_raise {α : Type} {c : Cause} {a : Word} {s : State} {t : Thread} (ht : s.thread? s.cur = some t) :
    StopsWith (raise c a : Act α) s (.trap (preciseTrap t s.insn c a)) :=
  stops_after (ends_current ht (stops_after (ends_look stops_stop)))

/-- An instruction whose plan stops with a precise trap enters the trap. -/
theorem issue_of_stops_trap {f : Form} {body : Nat → Thread → Act Flow} {s : State} {r : TrapReq} (h : StopsWith (plan f body) s (.trap r)) :
    issue f body s = commit "TRAP_ENTRY" (enterTrap s.cur r false) s := by
  simp only [issue, Act.from, h []]

theorem stallThread_next {s : State} {t : Thread} (w : Wait) (ht : s.thread? s.cur = some t) :
    commit "WRITEBACK" (stallThread w) s = .next (s.withCurrent (waiting s t w)) := by
  refine commit_eq (ends_look_bind (ends_modThread ht ?_))
  simp only [apply_thread_current, waiting, Thread.waitFrom]
  congr 2
  cases t.waitSince with
  | none => rfl
  | some v => by_cases hv : v.1 = .waiting w <;> simp [hv]

/-- An instruction whose plan stalls leaves its thread WAITING (R44, R47). -/
theorem issue_of_stops_stall {f : Form} {body : Nat → Thread → Act Flow} {s : State} {t : Thread} {w : Wait} (ht : s.thread? s.cur = some t)
    (h : StopsWith (plan f body) s (.stall w)) : issue f body s = .next (s.withCurrent (waiting s t w)) := by
  simp only [issue, Act.from, h []]
  exact stallThread_next w ht

/-- A thread out of rotation waits for its window (R24). -/
theorem stops_plan_blocked {f : Form} {body : Nat → Thread → Act Flow} {s : State} {t : Thread} (ht : s.thread? s.cur = some t) (ha : t.status = .active)
    (hf : t.forfeits = 0) (hb : t.blocked = true) : StopsWith (plan f body) s (.stall .scoreboard) := by
  unfold plan
  refine stops_after (ends_look (stops_after (ends_current ht ?_)))
  simp only [ha, hf, hb, ne_eq, not_true_eq_false]
  exact stops_bind stops_stop

/-- A vector field that the thread's mode does not have is ILLEGAL before anything else is looked at (R36, R113). -/
theorem stops_plan_illegal {f : Form} {body : Nat → Thread → Act Flow} {s : State} {t : Thread} (h : HasTurn s t) (hv : ¬ vectorsLegal f t) :
    StopsWith (plan f body) s (.trap (preciseTrap t s.insn .illegal 0)) := by
  unfold plan
  refine stops_after (ends_look (stops_after (ends_current h.thread ?_)))
  rw [vectorsLegal, Bool.not_eq_false] at hv
  simp only [h.active, h.turn, h.inRotation, hv, ne_eq, not_true_eq_false]
  exact stops_bind (stops_raise h.thread)

/-- What stops the check of an instruction's registers stops the instruction: its guard predicate first, and where the guard holds what it reads and writes (R25-R28, R73). -/
theorem stops_plan_registers {f : Form} {body : Nat → Thread → Act Flow} {s : State} {t : Thread} {x : Touch} {w : Stop} (h : HasTurn s t) (hv : vectorsLegal f t)
    (hx : x = touchP f.guard.p ∨ (x = f.uses t ∧ t.free (touchP f.guard.p) ∧ guardHolds f.guard t = true)) (hw : StopsWith (clear t x) s w) :
    StopsWith (plan f body) s w := by
  unfold plan
  refine stops_after (ends_look (stops_after (ends_current h.thread ?_)))
  rw [vectorsLegal] at hv
  simp only [h.active, h.turn, h.inRotation, hv, ne_eq, not_true_eq_false, Bool.false_eq_true, if_false]
  obtain rfl | ⟨rfl, hfree, hg⟩ := hx
  · exact stops_bind hw
  · refine stops_after (ends_clear hfree ?_)
    simp only [hg, Bool.not_true, Bool.false_eq_true, if_false]
    exact stops_bind hw

/-- A register that an operation in flight will write makes the instruction wait (R73). -/
theorem stops_clear_pending {s : State} {t : Thread} {x : Touch} (hn : t.violated x = none) (hp : t.pending.meets x = true) :
    StopsWith (clear t x) s (.stall .scoreboard) := by
  unfold clear
  simp only [hn, hp, if_true]
  exact stops_stop

/-- A register that an open window holds traps LOOKAHEAD in a fixed-timing thread (R26). -/
theorem stops_clear_lookahead {s : State} {t : Thread} {x : Touch} {w : Window} (ht : s.thread? s.cur = some t) (hw : t.violated x = some w) (hf : t.fixed = true) :
    StopsWith (clear t x) s (.trap (preciseTrap t s.insn .lookahead w.pc)) := by
  unfold clear
  simp only [hw, hf, if_true]
  exact stops_raise ht

/-- A register that an open window holds makes any other thread wait (R25). -/
theorem stops_clear_window {s : State} {t : Thread} {x : Touch} {w : Window} (hw : t.violated x = some w) (hf : t.fixed = false) :
    StopsWith (clear t x) s (.stall .scoreboard) := by
  unfold clear
  simp only [hw, hf]
  exact stops_stop

/-! ### Leaving for core 3 -/

/-- On a core other than core 3 of its tile, an instruction of core 3 that nothing keeps from issuing sends its thread away from a general slot (R62). -/
theorem issue_away {f : Form} {body : Nat → Thread → Act Flow} {s : State} {t : Thread} (h : CanIssue s t f.guard (f.uses t)) (hv : vectorsLegal f t)
    (h3 : f.core3 = true) (hr : roleOf s.cur ≠ 3) (hg : isRunner s.cur = false) :
    issue f body s = .next (s.withCurrent { t with status := .leaving ⟨coreOf s.cur / 4 * 4 + 3, true, t.pc, s.insn, 0, none, none⟩, lastIssue := s.cycle }) := by
  generalize hx : s.withCurrent { t with status := .leaving ⟨coreOf s.cur / 4 * 4 + 3, true, t.pc, s.insn, 0, none, none⟩, lastIssue := s.cycle } = x
  have hp : Ends (plan f body) s (fun _ v => v = x) := by
    unfold plan
    refine ends_look_bind (ends_bind (ends_current h.thread ?_))
    rw [vectorsLegal] at hv
    simp only [h.active, h.turn, h.inRotation, hv, ne_eq, not_true_eq_false, Bool.false_eq_true, if_false]
    refine ends_bind (ends_clear h.guardFree ?_)
    simp only [h.guardTrue, Bool.not_true, Bool.false_eq_true, if_false]
    refine ends_bind (ends_clear h.usesFree ?_)
    simp only [h3, hr, hg, not_false_eq_true, decide_true, Bool.and_true, if_true, Bool.false_eq_true, if_false]
    exact ends_look_bind (ends_emit hx)
  obtain ⟨r, m, h1, h2⟩ := hp []
  rw [List.append_nil] at h1
  simp only [issue, Act.from, h1, h2]

/-- From the runner slot it traps RUNNER_WAIT (R65). -/
theorem stops_plan_runner {f : Form} {body : Nat → Thread → Act Flow} {s : State} {t : Thread} (h : CanIssue s t f.guard (f.uses t)) (hv : vectorsLegal f t)
    (h3 : f.core3 = true) (hr : roleOf s.cur ≠ 3) (hg : isRunner s.cur = true) : StopsWith (plan f body) s (.trap (preciseTrap t s.insn .runnerWait 0)) := by
  unfold plan
  refine stops_after (ends_look (stops_after (ends_current h.thread ?_)))
  rw [vectorsLegal] at hv
  simp only [h.active, h.turn, h.inRotation, hv, ne_eq, not_true_eq_false, Bool.false_eq_true, if_false]
  refine stops_after (ends_clear h.guardFree ?_)
  simp only [h.guardTrue, Bool.not_true, Bool.false_eq_true, if_false]
  refine stops_after (ends_clear h.usesFree ?_)
  simp only [h3, hr, hg, not_false_eq_true, decide_true, Bool.and_true, if_true]
  exact stops_raise h.thread

end Sys2Proof.Machine

/-!
SUPPORT. The form in which each guarded instruction issues: its guard, its length, its vector fields, and whether core 3 executes it, as the tables of the statements have them.
-/

namespace Sys2Proof.Claims
open Sys2Proof.Machine

/-- The instruction issues in a form with the guard `g` and with the length, the vector fields and the core that the tables give it. -/
structure IssuesAs (i : Instr) (g : Guard) (f : Form) (body : State → Nat → Thread → Act Flow) : Prop where
  exec_eq : ∀ s, exec i s = issue f (body s) s
  guard : f.guard = g
  len : f.len = lengthOf i
  core3 : f.core3 = onCore3 i
  short : f.short = (shortFields i).isSome
  vectors : ∀ v, v ∈ f.vectors ↔ v ∈ (shortFields i).getD (vectorFields i)

/-- Every guarded instruction issues in such a form. -/
theorem exec_issuesAs {i : Instr} {g : Guard} (h : guardOf i = some g) : ∃ f body, IssuesAs i g f body := by
  cases i with
  | vfsqrt gd d a t =>
    -- the form shares the two-operand one, and names its operand twice
    cases h
    exact ⟨_, _, fun s => rfl, rfl, rfl, rfl, rfl, fun v => by simp [shortFields, vectorFields]⟩
  | exti | exts | extsh | move | jal | jalr | yield | cMov | cAdd | cSub | cAddi | cLdi | cLd | cSt | cJ | cCmp | cShli | cNop | cYield | cQuit | cPush | cPop
    | requestArrival | put | writeback | waitlimExpiry | withdraw | resend | trapEntry | wakeArrival | migrationDeparture | runQueueArrival | runQueueEntry
    | quitSlotEmpty | messageArrival | handlerStart | resumeNone | resumeReissue | resumeConvert | registerWrite | engineAcceptance | copyExecution
    | conversionExecution | sscanExecution | arrayCommand | deckleRowCommand | packetTake | packetAcceptance | flaskPlacement | gridCompletion | wqaskArrival
    | wqputArrival | timeSliceExpiry | notifyWrite | hostApertureAccess | droopStretch | detectorTrip | peerDigestArrival | memberTimeout | spill | restore | discard
    | watchdogExpiry | tileSparing | couchPerform | traversalBegin | nodeVisit | ringEntryWrite | rasterize | blendPerform | linkTraining | portFailure | powerOn
    | signedImage | attestationRequest | placeContextTable | placeFaultRing | placeParkingArea | placeQueueTable | setTimeSlice | placeSaveAreas
    | placeDecodeTable | assignFixedTimingTiles | reserveFrameSlots | setWdlim | formReplicaGroup | setPeerTable | setContextDefaults | setRunnerDefaults
    | setPlacementList | fatalTrapReport | setPortMode | setPowerCap | powerLimitExceeded | temperatureExcursion | laneSparing | slotStateError | cxlMemAccess
    | notifyWindowRead | trayExcursion => cases h
  | _ =>
    cases h
    exact ⟨_, _, fun s => rfl, rfl, rfl, rfl, rfl, fun v => Iff.rfl⟩

/-- A form for v0-v7 alone names no vector register of the thread's mode. -/
theorem vectorFields_of_shortFields {i : Instr} {l : List (BitVec 4)} (h : shortFields i = some l) : vectorFields i = [] := by
  cases i with
  | vprune48 | vsdot48 | rlinit | rlins | rlget | rlstat | rlfin | trvgo | tri | splat | volseg | dkl | gctx | rastri | rasfrag | blend | texs | texl | surfrel
    | surfacq => rfl
  | _ => cases h

/-- The vector fields that the tables give are legal exactly where those of the form are. -/
theorem IssuesAs.vectorsLegal_iff {i : Instr} {g : Guard} {f : Form} {body : State → Nat → Thread → Act Flow} (h : IssuesAs i g f body) (t : Thread) :
    vectorsLegal f t ↔ vectorsOk i t := by
  have hv := h.vectors
  cases hs : shortFields i with
  | none =>
    simp only [hs, Option.getD_none] at hv
    simp [vectorsLegal, vectorsOk, h.short, hs, hv]
  | some l =>
    simp only [hs, Option.getD_some] at hv
    simp [vectorsLegal, vectorsOk, h.short, hs, hv, vectorFields_of_shortFields hs]

/-- s0 adds nothing to a set: no instruction writes it (R71). -/
@[simp] theorem union_touchS_zero (x : Touch) : x.union (touchS 0#4) = x := by simp [Touch.union, touchS]

@[simp] theorem union_self (x : Touch) : x.union x = x := by simp [Touch.union]

theorem empty_union (x : Touch) : Touch.union {} x = x := by simp [Touch.union]

@[simp] theorem touches_one (x : Touch) : touches [x] = x := empty_union x
@[simp] theorem touches_two (x y : Touch) : touches [x, y] = x.union y := congrArg (·.union y) (empty_union x)
@[simp] theorem touches_three (x y z : Touch) : touches [x, y, z] = (x.union y).union z := congrArg (fun u => (u.union y).union z) (empty_union x)

/-- The scalar instructions of R78, R80 and R81 issue with the registers that their tables give, and name no vector register. -/
theorem exec_computes {t : Thread} {i : Instr} {c : Computes} (h : arithmetic t i = some c ∨ shifts t i = some c ∨ immediates t i = some c) :
    ∃ f body, (∀ s, exec i s = issue f body s) ∧ f.guard = c.guard ∧ f.uses t = c.uses ∧ vectorsLegal f t := by
  obtain h | h | h := h
  · cases i with
    | clz | ctz | pop | brev | bswap =>
      cases h
      exact ⟨_, _, fun s => rfl, rfl, by simp, vectorsLegal_none rfl rfl⟩
    | add | sub | mul | mulh | mulhn | and | or | xor | andn | min | max | minn | maxn | sel =>
      cases h
      exact ⟨_, _, fun s => rfl, rfl, rfl, vectorsLegal_none rfl rfl⟩
    | _ => cases h
  · cases i with
    | shl | shr | sar | rol =>
      cases h
      exact ⟨_, _, fun s => rfl, rfl, rfl, vectorsLegal_none rfl rfl⟩
    | _ => cases h
  · cases i with
    | cNop =>
      cases h
      exact ⟨_, _, fun s => rfl, rfl, rfl, vectorsLegal_none rfl rfl⟩
    | addi | andi | ori | xori | shli | shri | sari | roli | cMov | cAdd | cSub | cAddi | cLdi | cShli =>
      cases h
      exact ⟨_, _, fun s => rfl, rfl, by simp, vectorsLegal_none rfl rfl⟩
    | _ => cases h

end Sys2Proof.Claims

/-!
CERTIFICATES. What stands in front of an instruction's own rule: a false guard, registers that are not free, and a core that does not execute it; and the E-format.
-/

namespace Sys2Proof.Claims
open Sys2Proof.Machine

/-- Settles O7: every guarded instruction issues in a form whose false guard only moves the PC. -/
theorem guardFalse : Obligations.GuardFalse := by
  intro i g s t hi hturn hv hfree hg
  obtain ⟨f, body, h⟩ := exec_issuesAs hi
  rw [h.exec_eq, ← h.len]
  exact issue_skipped hturn ((h.vectorsLegal_iff t).mpr hv) (h.guard ▸ hfree) (h.guard ▸ hg)

theorem mul_pow20_add_eq (x : Word) (imm : BitVec 20) : x <<< 20 + imm.zeroExtend 64 = mod64 (x.toNat * 2 ^ 20 % 2 ^ 64 + imm.toNat) := by
  apply BitVec.eq_of_toNat_eq
  simp only [mod64, BitVec.toNat_add, BitVec.toNat_shiftLeft, BitVec.toNat_setWidth, BitVec.toNat_ofNat, Nat.shiftLeft_eq]
  omega

theorem add_signExtend_eq {n : Nat} (x : Word) (imm : BitVec n) : x + imm.signExtend 64 = intMod64 (x.toNat + imm.toInt) := by
  rw [BitVec.signExtend, intMod64, BitVec.ofInt_add]
  simp

theorem writeS_eq_ite (u : Thread) (d : BitVec 4) (x : Word) : u.writeS d x = if d = 0 then u else u.writeS d x := by
  split
  · next h => exact if_pos h
  · rfl

/-- Settles O8. -/
theorem extensionRegisters : Obligations.ExtensionRegisters := by
  intro s t x
  refine ⟨fun imm h => ?_, fun a imm h => ?_, fun imm h => ?_, fun d h => ?_⟩
  · exact issue_ran h (vectorsLegal_none rfl rfl) nofun rfl
  · rw [← add_signExtend_eq]
    exact issue_ran h (vectorsLegal_none rfl rfl) nofun rfl
  · rw [← mul_pow20_add_eq]
    exact issue_ran h (vectorsLegal_none rfl rfl) nofun rfl
  · simp only [← writeS_eq_ite]
    exact issue_ran h (vectorsLegal_none rfl rfl) nofun rfl

/-- Settles O58. -/
theorem registersGateIssue : Obligations.RegistersGateIssue := by
  intro s t
  dsimp only
  refine ⟨fun i c hc ht ha hf => ?_, fun i g hg hturn h3 hv => ?_⟩
  · obtain ⟨f, body, hexec, hguard, huses, hv⟩ := exec_computes hc
    rw [hexec]
    refine ⟨fun hb => issue_of_stops_stall ht (stops_plan_blocked ht ha hf hb), fun hb x hx => ?_⟩
    rw [← hguard, ← huses] at hx
    have stops {w : Stop} : StopsWith (clear t x) s w → StopsWith (plan f body) s w := stops_plan_registers ⟨ht, ha, hf, hb⟩ hv hx
    refine ⟨fun hn hp => issue_of_stops_stall ht (stops (stops_clear_pending hn hp)), fun w hw => ?_⟩
    split
    · next hfix => exact issue_of_stops_trap (stops (stops_clear_lookahead ht hw hfix))
    · next hfix => exact issue_of_stops_stall ht (stops (stops_clear_window hw (Bool.eq_false_iff.mpr hfix)))
  · obtain ⟨f, body, h⟩ := exec_issuesAs hg
    rw [h.exec_eq]
    exact issue_of_stops_trap (stops_plan_illegal hturn (mt (h.vectorsLegal_iff t).mp hv))

/-- An instruction of core 3 names vector registers only as a form for v0-v7 does. -/
theorem vectorFields_of_onCore3 {i : Instr} (h : onCore3 i = true) : vectorFields i = [] := by
  cases i with
  | rlinit | rlins | rlget | rlstat | rlfin | trvgo | trvbud | tri | splat | volseg | dkl | gctx | rastri | rasfrag | blend | texs | texl | surfrel | surfacq => rfl
  | _ => cases h

/-- What an instruction of core 3 does on another core of its tile, where no register keeps it from issuing (R37, R62, R65). -/
theorem exec_away {i : Instr} {s : State} {t : Thread} {gd : Guard} (h3 : onCore3 i = true) (hgd : guardOf i = some gd) (hturn : HasTurn s t) (hfree : ∀ x, t.free x)
    (hg : guardHolds gd t = true) (hrole : roleOf s.cur ≠ 3) (hv : ∀ l, shortFields i = some l → ∀ v ∈ l, v.toNat < 8) :
    (t.long = true → (shortFields i).isSome = true → exec i s = commit "TRAP_ENTRY" (enterTrap s.cur (preciseTrap t s.insn .illegal 0) false) s)
    ∧ ((∀ l, shortFields i = some l → t.long = false) →
      (isRunner s.cur = false → exec i s = .next (s.withCurrent { t with status := .leaving ⟨coreOf s.cur / 4 * 4 + 3, true, t.pc, s.insn, 0, none, none⟩, lastIssue := s.cycle }))
      ∧ (isRunner s.cur = true → exec i s = commit "TRAP_ENTRY" (enterTrap s.cur (preciseTrap t s.insn .runnerWait 0) false) s)) := by
  obtain ⟨f, body, h⟩ := exec_issuesAs hgd
  rw [h.exec_eq]
  constructor
  · intro hlong hshort
    obtain ⟨l, hl⟩ := Option.isSome_iff_exists.mp hshort
    refine issue_of_stops_trap (stops_plan_illegal hturn (mt (h.vectorsLegal_iff t).mp ?_))
    exact fun hok => absurd (hok.2 l hl).1 (by simp [hlong])
  · intro hlong
    have hlegal : vectorsLegal f t := (h.vectorsLegal_iff t).mpr ⟨fun _ => by simp [vectorFields_of_onCore3 h3], fun l hl => ⟨hlong l hl, hv l hl⟩⟩
    have hcan : CanIssue s t f.guard (f.uses t) := ⟨hturn, hfree _, h.guard ▸ hg, hfree _⟩
    have hcore : f.core3 = true := h.core3.trans h3
    exact ⟨issue_away hcan hlegal hcore hrole, fun hrun => issue_of_stops_trap (stops_plan_runner hcan hlegal hcore hrole hrun)⟩

@[simp] theorem issuing_readS (t : Thread) (s : State) (a : BitVec 4) : (t.issuing s).readS a = t.readS a := rfl

/-- Where a `MIGR` names no core that takes its thread, it sets p[D] and does nothing else (R60). -/
theorem migrateOp_stays {s : State} {t : Thread} {gd : Guard} {d a : BitVec 4} {target : Nat → Thread → Option Nat} (hrun : isRunner s.cur = false)
    (h : CanIssue s t gd (touches [touchP d, touchS a]))
    (hc : ∀ c, target s.cur (t.issuing s) = some c → c = coreOf s.cur ∨ suits s t (tileOfCore c) = false ∨ (t.intrap = true ∧ t.heldTraps ≠ [])) :
    migrateOp gd d a target s = .next (s.ran t 4 (fun u => u.writeP d true)) := by
  refine issue_eq h (vectorsLegal_none rfl rfl) nofun ?_
  refine ends_bind (ends_require (by simp [hrun]) (ends_look_bind ?_))
  cases htar : target s.cur (t.issuing s) with
  | none => exact ends_bind (ends_modCur (ends_pure (afterFlow_seq ..)))
  | some c =>
    have hno : (decide (c ≠ coreOf s.cur) && suits (s.withCurrent (t.issuing s)) (t.issuing s) (tileOfCore c)
        && !((t.issuing s).intrap && !(t.issuing s).heldTraps.isEmpty)) = false := by
      change (decide (c ≠ coreOf s.cur) && suits s t (tileOfCore c) && !(t.intrap && !t.heldTraps.isEmpty)) = false
      obtain h | h | ⟨h1, h2⟩ := hc c htar
      · simp [h]
      · simp [h]
      · simp [h1, h2]
    simp only [hno, Bool.false_eq_true, if_false]
    exact ends_bind (ends_modCur (ends_pure (afterFlow_seq ..)))

/-- Where it names another core whose tile suits its thread, the thread begins its move (R60). -/
theorem migrateOp_moves {s : State} {t : Thread} {gd : Guard} {d a : BitVec 4} {target : Nat → Thread → Option Nat} {c : Nat} (hrun : isRunner s.cur = false)
    (h : CanIssue s t gd (touches [touchP d, touchS a])) (hc : target s.cur (t.issuing s) = some c) (hother : c ≠ coreOf s.cur)
    (hsuits : suits s t (tileOfCore c) = true) (hheld : ¬ (t.intrap = true ∧ t.heldTraps ≠ [])) :
    migrateOp gd d a target s =
      .next (s.ran t 4 (fun u => { u.writeP d false with status := .leaving ⟨c, false, t.pc, s.insn, 0, none, some (d, t.readP d)⟩ })) := by
  refine issue_eq h (vectorsLegal_none rfl rfl) nofun ?_
  refine ends_bind (ends_require (by simp [hrun]) (ends_look_bind ?_))
  have hyes : (decide (c ≠ coreOf s.cur) && suits (s.withCurrent (t.issuing s)) (t.issuing s) (tileOfCore c)
      && !((t.issuing s).intrap && !(t.issuing s).heldTraps.isEmpty)) = true := by
    change (decide (c ≠ coreOf s.cur) && suits s t (tileOfCore c) && !(t.intrap && !t.heldTraps.isEmpty)) = true
    simp only [hother, hsuits, ne_eq, not_false_eq_true, decide_true, Bool.true_and, Bool.not_eq_true', Bool.and_eq_false_iff]
    cases hin : t.intrap <;> simp_all
  simp only [hc, hyes, if_true]
  exact ends_bind (ends_modCur (ends_pure (afterFlow_seq ..)))

/-- Settles O33: the instructions of core 3 by their forms, and the two forms of `MIGR` by the core that each names. -/
theorem migrations : Obligations.Migrations := by
  refine ⟨fun i s t gd h3 hgd hturn hfree hg hrole hv => exec_away h3 hgd hturn hfree hg hrole hv, fun s t gd d a _ hrun h => ?_⟩
  dsimp only
  refine ⟨fun hcan hwin => ⟨fun hne hsuits hheld => ?_, fun hno => ?_⟩, fun hno => ?_, fun hlt hne hsuits hheld => ?_, fun hno => ?_⟩
  · exact migrateOp_moves hrun h (by simp [hcan, hwin]) hne hsuits hheld
  · refine migrateOp_stays hrun h fun c hc => ?_
    obtain rfl : nearCore s.cur (t.readS a).toNat = c := by simpa [hcan, hwin] using hc
    exact hno
  · refine migrateOp_stays hrun h fun c hc => Or.inl ?_
    -- an address that is not canonical names no core, and one of a window the own core
    obtain hcan | hwin := hno
    · simp [hcan] at hc
    · exact (by simpa [hwin] using hc : _ ∧ coreOf s.cur = c).2.symm
  · exact migrateOp_moves hrun h (if_pos hlt) hne hsuits hheld
  · refine migrateOp_stays hrun h fun c hc => ?_
    obtain ⟨hlt, hc⟩ := Option.ite_none_right_eq_some.mp hc
    rw [← Option.some.inj hc]
    exact hno.resolve_left (Nat.not_le_of_lt hlt)

end Sys2Proof.Claims

/-!
CERTIFICATE. The worked encodings.
-/

namespace Sys2Proof.Claims

/-- Settles O3: each word is decoded. -/
theorem decodeWords : Obligations.DecodeWords := by
  unfold Obligations.DecodeWords
  decide

end Sys2Proof.Claims

/-!
SUPPORT. Words as rows of fields (R17, R18): for each row of pieces that the encoder writes, what it is for a word to be that row, in the terms of the decoder's readers. Where the decoder
reads several pieces as one field, the row says so.
-/

namespace Sys2Proof

/-! ### Pieces -/

theorem extract_extract {w s l s' l' : Nat} (x : BitVec w) (h : s' + l' ≤ l) : (x.extractLsb' s l).extractLsb' s' l' = x.extractLsb' (s + s') l' := by
  ext i hi
  simp only [BitVec.getElem_extractLsb', BitVec.getLsbD_extractLsb']
  rw [decide_eq_true (by omega), Bool.true_and, Nat.add_assoc]

/-- Two pieces are a field of a word exactly where each is its part of the field. -/
theorem append_eq_extract_iff {n m w s : Nat} (hi : BitVec n) (lo : BitVec m) (x : BitVec w) :
    hi ++ lo = x.extractLsb' s (n + m) ↔ hi = x.extractLsb' (s + m) n ∧ lo = x.extractLsb' s m := by
  constructor
  · intro h
    constructor
    · rw [← BitVec.extractLsb'_append_eq_left (a := hi) (b := lo), h, extract_extract _ (by omega)]
    · rw [← BitVec.extractLsb'_append_eq_right (a := hi) (b := lo), h, extract_extract _ (by omega), Nat.add_zero]
  · rintro ⟨rfl, rfl⟩
    exact BitVec.extractLsb'_append_extractLsb'_eq_extractLsb' rfl

theorem extract_eq_append_iff {w : Nat} (s n m : Nat) (x : BitVec w) (hi : BitVec n) (lo : BitVec m) :
    x.extractLsb' s (n + m) = hi ++ lo ↔ x.extractLsb' (s + m) n = hi ∧ x.extractLsb' s m = lo := by
  rw [eq_comm, append_eq_extract_iff, eq_comm, @eq_comm _ lo]

theorem eq_iff_eq_extract {w : Nat} (y x : BitVec w) : y = x ↔ y = x.extractLsb' 0 w := by rw [BitVec.extractLsb'_eq_self]

theorem eq_extract_comm {n w s : Nat} (c : BitVec n) (x : BitVec w) : c = x.extractLsb' s n ↔ x.extractLsb' s n = c := eq_comm

theorem extract_one {w : Nat} (s : Nat) (x : BitVec w) : x.extractLsb' s 1 = BitVec.ofBool (x.getLsbD s) := by
  ext i hi
  obtain rfl : i = 0 := by omega
  simp

theorem extract_eq_ofBool_iff {w s : Nat} (x : BitVec w) (b : Bool) : x.extractLsb' s 1 = BitVec.ofBool b ↔ x.getLsbD s = b := by
  rw [extract_one]
  exact ⟨fun h => by simpa using congrArg (·.getLsbD 0) h, congrArg _⟩

/-- A field is `y` exactly where its upper and its lower part are those of `y`. -/
theorem extract_eq_iff_parts {w : Nat} (s n m : Nat) (x : BitVec w) (y : BitVec (n + m)) :
    x.extractLsb' s (n + m) = y ↔ x.extractLsb' (s + m) n = y.extractLsb' m n ∧ x.extractLsb' s m = y.extractLsb' 0 m := by
  rw [← extract_eq_append_iff, BitVec.extractLsb'_append_extractLsb']

/-- What the decoder reads as the major (R17). -/
theorem major_eq {x : BitVec 32} {m : BitVec 7} (h : x.extractLsb' 0 7 = m) : x.extractLsb' 1 6 = m.extractLsb' 1 6 := by
  rw [← h, extract_extract _ (by omega)]

/-- A and D are zero together. -/
theorem zeros_iff {x : BitVec 32} : x.extractLsb' 7 8 = 0 ↔ fA x = 0 ∧ fD x = 0 := extract_eq_append_iff 7 4 4 x 0 0

/-! ### Rows -/

theorem guard_eq_iff (x : BitVec 32) (gd : Guard) : fGuard x = gd ↔ x.getLsbD 19 = gd.neg ∧ x.extractLsb' 15 4 = gd.p := by
  cases gd
  simp [fGuard, and_comm]

theorem branch_eq_iff (x : BitVec 32) (gd : Guard) : fBranch x = gd ↔ x.getLsbD 11 = gd.neg ∧ x.extractLsb' 7 4 = gd.p := by
  cases gd
  simp [fBranch, and_comm]

theorem some_word_iff (y x : BitVec 32) : some (Encoding.word y) = some (Encoding.word x) ↔ y = x := by simp

section
variable {x : BitVec 32} {gd : Guard} {a d : BitVec 4} {m : BitVec 7}

/-- A guarded word: twelve bits of its own, the guard, A, D and the major. -/
theorem guarded_iff {top : BitVec 12} : some (Encoding.word (top ++ BitVec.ofBool gd.neg ++ gd.p ++ a ++ d ++ m)) = some (.word x) ↔
    x.extractLsb' 0 7 = m ∧ top = x.extractLsb' 20 12 ∧ fGuard x = gd ∧ fA x = a ∧ fD x = d := by
  rw [some_word_iff, eq_iff_eq_extract]
  simp only [append_eq_extract_iff]
  simp only [eq_extract_comm, extract_eq_ofBool_iff, guard_eq_iff, fA, fD]
  tauto

/-- A guarded word that has a function, or nothing, where A stands. -/
theorem guarded_code_iff {top : BitVec 12} {c : BitVec 1} : some (Encoding.word (top ++ BitVec.ofBool gd.neg ++ gd.p ++ 0#3 ++ c ++ d ++ m)) = some (.word x) ↔
    x.extractLsb' 0 7 = m ∧ top = x.extractLsb' 20 12 ∧ fGuard x = gd ∧ fA x = 0#3 ++ c ∧ fD x = d := by
  rw [← guarded_iff, BitVec.append_assoc (x₂ := 0#3)]
  rfl

/-- The B format: an offset, its condition and the major. -/
theorem branch_iff {o : BitVec 20} : some (Encoding.word (o ++ BitVec.ofBool gd.neg ++ gd.p ++ m)) = some (.word x) ↔
    x.extractLsb' 0 7 = m ∧ x.extractLsb' 12 20 = o ∧ fBranch x = gd := by
  rw [some_word_iff, eq_iff_eq_extract]
  simp only [append_eq_extract_iff]
  simp only [eq_extract_comm, extract_eq_ofBool_iff, branch_eq_iff]
  tauto

/-- A jump: twenty bits of its own, its function, D and the major. -/
theorem jump_iff {o : BitVec 20} {c : BitVec 1} : some (Encoding.word (o ++ c ++ d ++ m)) = some (.word x) ↔
    x.extractLsb' 0 7 = m ∧ o = x.extractLsb' 12 20 ∧ x.extractLsb' 11 1 = c ∧ fD x = d := by
  rw [some_word_iff, eq_iff_eq_extract]
  simp only [append_eq_extract_iff]
  simp only [eq_extract_comm, fD]
  tauto

/-- The E format: twenty bits of its own, its function in two pieces, X and the major. -/
theorem extension_iff {o : BitVec 20} {c c' : BitVec 1} {e : BitVec 3} : some (Encoding.word (o ++ c ++ c' ++ e ++ m)) = some (.word x) ↔
    x.extractLsb' 0 7 = m ∧ o = x.extractLsb' 12 20 ∧ x.extractLsb' 10 2 = c ++ c' ∧ x.extractLsb' 7 3 = e := by
  rw [some_word_iff, eq_iff_eq_extract, show _ ↔ _ from extract_eq_append_iff 10 1 1 x c c']
  simp only [append_eq_extract_iff]
  simp only [eq_extract_comm]
  tauto

end

/-! ### The upper bits -/

section
variable {x : BitVec 32}

/-- An immediate and a scalar, in the twenty upper bits. -/
theorem immediate_iff {o : BitVec 16} {a : BitVec 4} : o ++ a = x.extractLsb' 12 (16 + 4) ↔ x.extractLsb' 16 16 = o ∧ x.extractLsb' 12 4 = a := by
  rw [append_eq_extract_iff, eq_extract_comm, eq_extract_comm]

/-- A function of one nibble, another one or LA, and B. -/
theorem nibbles_iff {f g b : BitVec 4} : f ++ g ++ b = x.extractLsb' 20 (4 + 4 + 4) ↔ x.extractLsb' 28 4 = f ∧ x.extractLsb' 24 4 = g ∧ x.extractLsb' 20 4 = b := by
  simp only [append_eq_extract_iff]
  simp only [eq_extract_comm, and_assoc]

/-- FN8 and B. -/
theorem fn8_iff {c : BitVec 8} {b : BitVec 4} : c ++ b = x.extractLsb' 20 (8 + 4) ↔ x.extractLsb' 24 8 = c ∧ x.extractLsb' 20 4 = b := by
  simp only [append_eq_extract_iff]
  simp only [eq_extract_comm]

/-- A shift by an immediate: two zero bits above the function, and the amount. -/
theorem shift_iff {f : BitVec 4} {c : BitVec 8} : f ++ c = x.extractLsb' 20 (4 + 8) ↔ x.extractLsb' 30 2 = f.extractLsb' 2 2 ∧ x.extractLsb' 28 2 = f.extractLsb' 0 2 ∧ x.extractLsb' 20 8 = c := by
  rw [append_eq_extract_iff, eq_extract_comm, eq_extract_comm, ← and_assoc]
  exact and_congr_left' (extract_eq_iff_parts 28 2 2 x f)

/-- A lane width, two bits, the function and B. -/
theorem lanes_iff {w c : BitVec 2} {g b : BitVec 4} : w ++ c ++ g ++ b = x.extractLsb' 20 (2 + 2 + 4 + 4) ↔ x.extractLsb' 30 2 = w ∧ x.extractLsb' 28 2 = c ∧ x.extractLsb' 24 4 = g ∧ x.extractLsb' 20 4 = b := by
  simp only [append_eq_extract_iff]
  simp only [eq_extract_comm, and_assoc]

/-- The same with the two bits apart. -/
theorem lanes_bits_iff {w : BitVec 2} {c c' : BitVec 1} {g b : BitVec 4} : w ++ c ++ c' ++ g ++ b = x.extractLsb' 20 (2 + 1 + 1 + 4 + 4) ↔ x.extractLsb' 30 2 = w ∧ x.extractLsb' 29 1 = c ∧ x.extractLsb' 28 1 = c' ∧ x.extractLsb' 24 4 = g ∧ x.extractLsb' 20 4 = b := by
  simp only [append_eq_extract_iff]
  simp only [eq_extract_comm, and_assoc]

/-- A nibble, two fields of two bits, and B. -/
theorem format_iff {f b : BitVec 4} {c c' : BitVec 2} : f ++ c ++ c' ++ b = x.extractLsb' 20 (4 + 2 + 2 + 4) ↔ x.extractLsb' 28 4 = f ∧ x.extractLsb' 26 2 = c ∧ x.extractLsb' 24 2 = c' ∧ x.extractLsb' 20 4 = b := by
  simp only [append_eq_extract_iff]
  simp only [eq_extract_comm, and_assoc]

/-- The same, with the second field and B read as one. -/
theorem format_unary_iff {f b : BitVec 4} {c c' : BitVec 2} : f ++ c ++ c' ++ b = x.extractLsb' 20 (4 + 2 + 2 + 4) ↔ x.extractLsb' 28 4 = f ∧ x.extractLsb' 26 2 = c ∧ x.extractLsb' 20 6 = c' ++ b := by
  rw [format_iff]
  exact and_congr_right' (and_congr_right' (extract_eq_append_iff 20 2 4 x c' b).symm)

/-- An offset, two single bits, the size, and LA. -/
theorem load_iff {f b : BitVec 4} {c o : BitVec 1} {z : BitVec 2} : f ++ c ++ o ++ z ++ b = x.extractLsb' 20 (4 + 1 + 1 + 2 + 4) ↔ x.extractLsb' 28 4 = f ∧ x.extractLsb' 27 1 = c ∧ x.extractLsb' 26 1 = o ∧ x.extractLsb' 24 2 = z ∧ x.extractLsb' 20 4 = b := by
  simp only [append_eq_extract_iff]
  simp only [eq_extract_comm, and_assoc]

/-- Four fields of two bits, and B. -/
theorem vector_compare_iff {w c c' c'' : BitVec 2} {b : BitVec 4} : w ++ c ++ c' ++ c'' ++ b = x.extractLsb' 20 (2 + 2 + 2 + 2 + 4) ↔ x.extractLsb' 30 2 = w ∧ x.extractLsb' 28 2 = c ∧ x.extractLsb' 26 2 = c' ∧ x.extractLsb' 24 2 = c'' ∧ x.extractLsb' 20 4 = b := by
  simp only [append_eq_extract_iff]
  simp only [eq_extract_comm, and_assoc]

/-- A lane width, six bits of function in two pieces, and B. -/
theorem permute_iff {w c : BitVec 2} {g b : BitVec 4} : w ++ c ++ g ++ b = x.extractLsb' 20 (2 + 2 + 4 + 4) ↔
    x.extractLsb' 30 2 = w ∧ x.extractLsb' 24 6 = c ++ g ∧ x.extractLsb' 20 4 = b := by
  rw [lanes_iff, ← and_assoc (b := _ = g)]
  exact and_congr_right' (and_congr_left' (extract_eq_append_iff 24 2 4 x c g).symm)

/-- Six bits of function, the type, and B. -/
theorem sparse_iff {c : BitVec 6} {w : BitVec 2} {b : BitVec 4} : c ++ w ++ b = x.extractLsb' 20 (6 + 2 + 4) ↔ x.extractLsb' 26 6 = c ∧ x.extractLsb' 24 2 = w ∧ x.extractLsb' 20 4 = b := by
  simp only [append_eq_extract_iff]
  simp only [eq_extract_comm, and_assoc]

/-- A fence: five bits of function, the scope, and B. -/
theorem fence_iff {c : BitVec 5} {z : BitVec 3} {b : BitVec 4} : c ++ z ++ b = x.extractLsb' 20 (5 + 3 + 4) ↔ x.extractLsb' 29 3 = c.extractLsb' 2 3 ∧ x.extractLsb' 27 2 = c.extractLsb' 0 2 ∧ x.extractLsb' 24 3 = z ∧ x.extractLsb' 20 4 = b := by
  rw [append_eq_extract_iff, append_eq_extract_iff, eq_extract_comm c, eq_extract_comm z, eq_extract_comm b, and_assoc]
  exact (and_congr_left' (extract_eq_iff_parts 27 3 2 x c)).trans and_assoc

/-- The other system forms: three bits and five of function, and B. -/
theorem system_iff {c : BitVec 8} {b : BitVec 4} : c ++ b = x.extractLsb' 20 (8 + 4) ↔ x.extractLsb' 29 3 = c.extractLsb' 5 3 ∧ x.extractLsb' 24 5 = c.extractLsb' 0 5 ∧ x.extractLsb' 20 4 = b := by
  rw [append_eq_extract_iff, eq_extract_comm, eq_extract_comm, ← and_assoc]
  exact and_congr_left' (extract_eq_iff_parts 24 3 5 x c)

/-- `FENCE.I`: its scope and B are read as one. -/
theorem fenceI_iff {c : BitVec 12} : c = x.extractLsb' 20 (3 + 2 + 7) ↔ x.extractLsb' 29 3 = c.extractLsb' 9 3 ∧ x.extractLsb' 27 2 = c.extractLsb' 7 2 ∧ x.extractLsb' 20 7 = c.extractLsb' 0 7 := by
  rw [eq_extract_comm, extract_eq_iff_parts 20 5 7 x c, extract_eq_iff_parts 27 3 2 x (c.extractLsb' 7 5)]
  rw [extract_extract _ (by omega), extract_extract _ (by omega), and_assoc]

end

end Sys2Proof

/-!
SUPPORT. The decoder reads back the word of every well-formed instruction.
-/

namespace Sys2Proof

/-- A `CVT` names two codes (R106). -/
theorem ne_of_convertible {gd : Guard} {d a b dst src : BitVec 4} (h : (Instr.cvt gd d a b dst src).wf = true) : dst ≠ src := by
  rintro rfl
  simp [Instr.wf, convertible] at h

/-- An `FCLASS` names one code twice (R106). -/
theorem eq_of_classCode {gd : Guard} {d a : BitVec 4} {x : BitVec 32} (h : (Instr.fclass gd d a (x.extractLsb' 24 8)).wf = true) :
    x.extractLsb' 28 4 = x.extractLsb' 24 4 := by
  simp only [Instr.wf, classCode, Bool.and_eq_true, beq_iff_eq] at h
  rw [extract_extract _ (by omega), extract_extract _ (by omega)] at h
  exact h.2.1

/-- The word of a well-formed instruction decodes to it (R17, R18, R34-R36). -/
theorem decodeWord_encode {i : Instr} {x : BitVec 32} (hwf : i.wf = true) (h : encode i = some (.word x)) : decodeWord x = some i := by
  cases i with
  | exti | extsh =>
    obtain ⟨hm, rfl, hf, rfl⟩ := extension_iff.mp h
    rw [decodeWord, major_eq hm]; change decExtension x = _; rw [decExtension, hf]; rfl
  | exts =>
    obtain ⟨hm, ht, hf, rfl⟩ := extension_iff.mp h
    obtain ⟨rfl, rfl⟩ := immediate_iff.mp ht
    rw [decodeWord, major_eq hm]; change decExtension x = _; rw [decExtension, hf]; rfl
  | move =>
    obtain ⟨hm, ht, hf, rfl⟩ := extension_iff.mp h
    obtain ⟨h16, rfl⟩ := immediate_iff.mp ht
    rw [decodeWord, major_eq hm]; change decExtension x = _; rw [decExtension, hf]; exact if_pos h16
  | add | sub | mul | mulh | mulhn | div | divn | rem | remn | and | or | xor | andn | shl | shr | sar | rol | min | max | minn | maxn =>
    obtain ⟨hm, ht, rfl, rfl, rfl⟩ := guarded_iff.mp h
    obtain ⟨h28, h24, rfl⟩ := nibbles_iff.mp ht
    rw [decodeWord, major_eq hm]; change decInteger x = _; rw [decInteger, h28, h24]; rfl
  | clz | ctz | pop | brev | bswap =>
    obtain ⟨hm, ht, rfl, rfl, rfl⟩ := guarded_iff.mp h
    obtain ⟨h28, h24, hB⟩ := nibbles_iff.mp ht
    rw [decodeWord, major_eq hm]; change decInteger x = _; rw [decInteger, h28, h24]; exact if_pos hB
  | sel =>
    obtain ⟨hm, ht, rfl, rfl, rfl⟩ := guarded_iff.mp h
    obtain ⟨h28, rfl, rfl⟩ := nibbles_iff.mp ht
    rw [decodeWord, major_eq hm]; change decInteger x = _; rw [decInteger, h28]; rfl
  | addi =>
    obtain ⟨hm, rfl, rfl, rfl, rfl⟩ := guarded_iff.mp h
    rw [decodeWord, major_eq hm]; change decAddi x = _; rfl
  | andi =>
    obtain ⟨hm, rfl, rfl, rfl, rfl⟩ := guarded_iff.mp h
    rw [decodeWord, major_eq hm]; change decAndi x = _; rfl
  | ori =>
    obtain ⟨hm, rfl, rfl, rfl, rfl⟩ := guarded_iff.mp h
    rw [decodeWord, major_eq hm]; change decOri x = _; rfl
  | xori =>
    obtain ⟨hm, rfl, rfl, rfl, rfl⟩ := guarded_iff.mp h
    rw [decodeWord, major_eq hm]; change decXori x = _; rfl
  | shli | shri | sari | roli =>
    obtain ⟨hm, ht, rfl, rfl, rfl⟩ := guarded_iff.mp h
    obtain ⟨h30, h28, rfl⟩ := shift_iff.mp ht
    rw [decodeWord, major_eq hm]; change decShiftImmediate x = _; rw [decShiftImmediate, h28]; exact if_pos h30
  | cmpi =>
    obtain ⟨hm, ht, rfl, rfl, rfl⟩ := guarded_iff.mp h
    obtain ⟨rfl, rfl⟩ := fn8_iff.mp ht
    rw [decodeWord, major_eq hm]; change decCmpi x = _; rfl
  | padd | psub | pmul =>
    obtain ⟨hm, ht, rfl, rfl, rfl⟩ := guarded_iff.mp h
    obtain ⟨rfl, h28, h24, rfl⟩ := lanes_iff.mp ht
    rw [decodeWord, major_eq hm]; change decPacked x = _; rw [decPacked, h24]; exact if_pos h28
  | pmin | pmax =>
    obtain ⟨hm, ht, rfl, rfl, rfl⟩ := guarded_iff.mp h
    obtain ⟨rfl, rfl, h28, h24, rfl⟩ := lanes_bits_iff.mp ht
    rw [decodeWord, major_eq hm]; change decPacked x = _; rw [decPacked, h24]; exact if_pos h28
  | pshl | pshr | psar =>
    obtain ⟨hm, ht, rfl, rfl, rfl⟩ := guarded_iff.mp h
    obtain ⟨rfl, h29, rfl, h24, rfl⟩ := lanes_bits_iff.mp ht
    rw [decodeWord, major_eq hm]; change decPacked x = _; rw [decPacked, h24]; exact if_pos h29
  | cmp =>
    obtain ⟨hm, ht, rfl, rfl, rfl⟩ := guarded_iff.mp h
    obtain ⟨h28, rfl, rfl⟩ := nibbles_iff.mp ht
    rw [decodeWord, major_eq hm]; change decCompare x = _; exact if_pos h28
  | pand | por | pxor =>
    obtain ⟨hm, ht, rfl, rfl, rfl⟩ := guarded_iff.mp h
    obtain ⟨hf, rfl⟩ := fn8_iff.mp ht
    rw [decodeWord, major_eq hm]; change decPredicate x = _; rw [decPredicate, hf]; rfl
  | pnot =>
    obtain ⟨hm, ht, rfl, rfl, rfl⟩ := guarded_iff.mp h
    obtain ⟨hf, hB⟩ := fn8_iff.mp ht
    rw [decodeWord, major_eq hm]; change decPredicate x = _; rw [decPredicate, hf]; exact if_pos hB
  | br =>
    obtain ⟨hm, rfl, rfl⟩ := branch_iff.mp h
    rw [decodeWord, major_eq hm]; change decBranch x = _; rfl
  | jal =>
    obtain ⟨hm, rfl, hf, rfl⟩ := jump_iff.mp h
    rw [decodeWord, major_eq hm]; change decJump x = _; rw [decJump, hf]; rfl
  | jalr =>
    obtain ⟨hm, ht, hf, rfl⟩ := jump_iff.mp h
    obtain ⟨rfl, rfl⟩ := immediate_iff.mp ht
    rw [decodeWord, major_eq hm]; change decJump x = _; rw [decJump, hf]; rfl
  | getc | setc =>
    obtain ⟨hm, rfl, rfl, hA, rfl⟩ := guarded_code_iff.mp h
    rw [decodeWord, major_eq hm]; change decControl x = _; rw [decControl, show x.extractLsb' 11 4 = _ from hA]; rfl
  | fence | fenceAcq | fenceRel =>
    obtain ⟨hm, ht, rfl, hA, hD⟩ := guarded_code_iff.mp h
    obtain ⟨h29, h27, rfl, hB⟩ := fence_iff.mp ht
    rw [decodeWord, major_eq hm]; change decSystem x = _; rw [decSystem, h29, h27]; exact if_pos ⟨hB, zeros_iff.mpr ⟨hA, hD⟩⟩
  | fenceI =>
    obtain ⟨hm, ht, rfl, hA, hD⟩ := guarded_code_iff.mp h
    obtain ⟨h29, h27, h20⟩ := fenceI_iff.mp ht
    rw [decodeWord, major_eq hm]; change decSystem x = _; rw [decSystem, h29, h27]; exact if_pos ⟨h20, zeros_iff.mpr ⟨hA, hD⟩⟩
  | brk | eret | halt =>
    obtain ⟨hm, ht, rfl, hA, hD⟩ := guarded_code_iff.mp h
    obtain ⟨h29, h24, hB⟩ := system_iff.mp ht
    rw [decodeWord, major_eq hm]; change decSystem x = _; rw [decSystem, h29, h24]; exact if_pos ⟨hB, zeros_iff.mpr ⟨hA, hD⟩⟩
  | trap =>
    obtain ⟨hm, ht, rfl, rfl, hD⟩ := guarded_iff.mp h
    obtain ⟨h29, h24, hB⟩ := system_iff.mp ht
    rw [decodeWord, major_eq hm]; change decSystem x = _; rw [decSystem, h29, h24]; exact if_pos ⟨hB, hD⟩
  | spawn =>
    obtain ⟨hm, ht, rfl, rfl, rfl⟩ := guarded_iff.mp h
    obtain ⟨hf, rfl⟩ := fn8_iff.mp ht
    rw [decodeWord, major_eq hm]; change decThread x = _; rw [decThread, hf]; rfl
  | spawnr =>
    obtain ⟨hm, ht, rfl, hA, rfl⟩ := guarded_code_iff.mp h
    obtain ⟨hf, rfl⟩ := fn8_iff.mp ht
    rw [decodeWord, major_eq hm]; change decThread x = _; rw [decThread, hf]; exact if_pos hA
  | quit | park =>
    obtain ⟨hm, ht, rfl, hA, hD⟩ := guarded_code_iff.mp h
    obtain ⟨hf, hB⟩ := fn8_iff.mp ht
    rw [decodeWord, major_eq hm]; change decThread x = _; rw [decThread, hf]; exact if_pos ⟨hB, zeros_iff.mpr ⟨hA, hD⟩⟩
  | wake | prio =>
    obtain ⟨hm, ht, rfl, rfl, hD⟩ := guarded_iff.mp h
    obtain ⟨hf, hB⟩ := fn8_iff.mp ht
    rw [decodeWord, major_eq hm]; change decThread x = _; rw [decThread, hf]; exact if_pos ⟨hB, hD⟩
  | migrA | migrC =>
    obtain ⟨hm, ht, rfl, rfl, rfl⟩ := guarded_iff.mp h
    obtain ⟨hf, hB⟩ := fn8_iff.mp ht
    rw [decodeWord, major_eq hm]; change decThread x = _; rw [decThread, hf]; exact if_pos hB
  | self =>
    obtain ⟨hm, ht, rfl, hA, rfl⟩ := guarded_code_iff.mp h
    obtain ⟨hf, rfl⟩ := fn8_iff.mp ht
    rw [decodeWord, major_eq hm]; change decThread x = _; rw [decThread, hf]; exact if_pos hA
  | barc | barf =>
    obtain ⟨hm, ht, rfl, hA, hD⟩ := guarded_code_iff.mp h
    obtain ⟨hf, hB⟩ := fn8_iff.mp ht
    rw [decodeWord, major_eq hm]; change decBarrier x = _; rw [decBarrier, hf]; exact if_pos ⟨hB, zeros_iff.mpr ⟨hA, hD⟩⟩
  | baraCrew | baraFlask =>
    obtain ⟨hm, ht, rfl, hA, rfl⟩ := guarded_code_iff.mp h
    obtain ⟨hf, hB⟩ := fn8_iff.mp ht
    rw [decodeWord, major_eq hm]; change decBarrier x = _; rw [decBarrier, hf]; exact if_pos ⟨hB, hA⟩
  | barwCrew | barwFlask =>
    obtain ⟨hm, ht, rfl, rfl, hD⟩ := guarded_iff.mp h
    obtain ⟨hf, hB⟩ := fn8_iff.mp ht
    rw [decodeWord, major_eq hm]; change decBarrier x = _; rw [decBarrier, hf]; exact if_pos ⟨hB, hD⟩
  | fadd | fsub | fmul | ffma | fdiv | fmin | fmax =>
    obtain ⟨hm, ht, rfl, rfl, rfl⟩ := guarded_iff.mp h
    obtain ⟨h28, rfl, h24, rfl⟩ := format_iff.mp ht
    rw [decodeWord, major_eq hm]; change decFloat x = _; rw [decFloat, h28]; exact if_pos h24
  | fsqrt =>
    obtain ⟨hm, ht, rfl, rfl, rfl⟩ := guarded_iff.mp h
    obtain ⟨h28, rfl, h20⟩ := format_unary_iff.mp ht
    rw [decodeWord, major_eq hm]; change decFloat x = _; rw [decFloat, h28]; exact if_pos h20
  | fcmp =>
    obtain ⟨hm, ht, rfl, rfl, rfl⟩ := guarded_iff.mp h
    obtain ⟨h28, rfl, rfl, rfl⟩ := format_iff.mp ht
    rw [decodeWord, major_eq hm]; change decFloat x = _; rw [decFloat, h28]; rfl
  | cvt =>
    obtain ⟨hm, ht, rfl, rfl, rfl⟩ := guarded_iff.mp h
    obtain ⟨rfl, rfl, rfl⟩ := nibbles_iff.mp ht
    rw [decodeWord, major_eq hm]; change decConvert x = _; rw [decConvert, if_neg (ne_of_convertible hwf)]; rfl
  | fclass =>
    obtain ⟨hm, ht, rfl, rfl, rfl⟩ := guarded_iff.mp h
    obtain ⟨rfl, hB⟩ := fn8_iff.mp ht
    rw [decodeWord, major_eq hm]; change decConvert x = _; rw [decConvert, if_pos (eq_of_classCode hwf)]; exact if_pos hB
  | ld =>
    obtain ⟨hm, ht, rfl, rfl, rfl⟩ := guarded_iff.mp h
    obtain ⟨rfl, h27, rfl, rfl, rfl⟩ := load_iff.mp ht
    rw [decodeWord, major_eq hm]; change decLoad x = _; exact if_pos h27
  | ldSigned =>
    obtain ⟨hm, ht, rfl, rfl, rfl⟩ := guarded_iff.mp h
    obtain ⟨rfl, h27, rfl, rfl, rfl⟩ := load_iff.mp ht
    have hz : x.extractLsb' 24 2 ≠ 3 := by simpa [Instr.wf] using (Bool.and_eq_true_iff.mp hwf).2
    rw [decodeWord, major_eq hm]; change decLoad x = _; rw [decLoad, h27]; exact if_neg hz
  | ldp =>
    obtain ⟨hm, ht, rfl, rfl, rfl⟩ := guarded_iff.mp h
    obtain ⟨rfl, h27, rfl, h24, rfl⟩ := load_iff.mp ht
    rw [decodeWord, major_eq hm]; change decLoad x = _; rw [decLoad, h27, h24]; rfl
  | st =>
    obtain ⟨hm, ht, rfl, rfl, rfl⟩ := guarded_iff.mp h
    obtain ⟨rfl, h27, rfl, rfl, rfl⟩ := load_iff.mp ht
    rw [decodeWord, major_eq hm]; change decStore x = _; exact if_pos h27
  | ldw | ldc =>
    obtain ⟨hm, ht, rfl, rfl, rfl⟩ := guarded_iff.mp h
    obtain ⟨rfl, rfl, h24, rfl⟩ := format_iff.mp ht
    rw [decodeWord, major_eq hm]; change decFullLoad x = _; rw [decFullLoad, h24]; rfl
  | ldxW | ldxC =>
    obtain ⟨hm, ht, rfl, rfl, rfl⟩ := guarded_iff.mp h
    obtain ⟨rfl, rfl, h24, rfl⟩ := format_iff.mp ht
    rw [decodeWord, major_eq hm]; change decFullLoad x = _; rw [decFullLoad, h24]; rfl
  | stf | stff =>
    obtain ⟨hm, ht, rfl, rfl, rfl⟩ := guarded_iff.mp h
    obtain ⟨rfl, rfl, h24, rfl⟩ := format_iff.mp ht
    rw [decodeWord, major_eq hm]; change decFullStore x = _; rw [decFullStore, h24]; rfl
  | stfx =>
    obtain ⟨hm, ht, rfl, rfl, rfl⟩ := guarded_iff.mp h
    obtain ⟨rfl, rfl, h24, rfl⟩ := format_iff.mp ht
    rw [decodeWord, major_eq hm]; change decFullStore x = _; rw [decFullStore, h24]; rfl
  | amoAdd | amoAnd | amoOr | amoXor | amoMin | amoMax | amoMinn | amoMaxn | amoSwap | amoCas | amoFaddF32 | amoFaddBf16 | amoOrdAdd | amoOrdFadd =>
    obtain ⟨hm, ht, rfl, rfl, rfl⟩ := guarded_iff.mp h
    obtain ⟨h28, rfl, rfl⟩ := nibbles_iff.mp ht
    rw [decodeWord, major_eq hm]; change decAmo x = _; rw [decAmo, h28]; rfl
  | cctlPf | cctlPfs | cctlInv =>
    obtain ⟨hm, ht, rfl, rfl, hD⟩ := guarded_iff.mp h
    obtain ⟨h28, rfl, hB⟩ := nibbles_iff.mp ht
    rw [decodeWord, major_eq hm]; change decCache x = _; rw [decCache, h28]; exact if_pos ⟨hB, hD⟩
  | cctlInva =>
    obtain ⟨hm, ht, rfl, hA, hD⟩ := guarded_code_iff.mp h
    obtain ⟨h28, rfl, hB⟩ := nibbles_iff.mp ht
    rw [decodeWord, major_eq hm]; change decCache x = _; rw [decCache, h28]; exact if_pos ⟨hB, zeros_iff.mpr ⟨hA, hD⟩⟩
  | cctlTinv =>
    obtain ⟨hm, ht, rfl, rfl, hD⟩ := guarded_iff.mp h
    obtain ⟨h28, rfl, rfl⟩ := nibbles_iff.mp ht
    rw [decodeWord, major_eq hm]; change decCache x = _; rw [decCache, h28]; exact if_pos hD
  | cctlTinvc =>
    obtain ⟨hm, ht, rfl, hA, hD⟩ := guarded_code_iff.mp h
    obtain ⟨h28, rfl, rfl⟩ := nibbles_iff.mp ht
    rw [decodeWord, major_eq hm]; change decCache x = _; rw [decCache, h28]; exact if_pos (zeros_iff.mpr ⟨hA, hD⟩)
  | feset | feclr =>
    obtain ⟨hm, ht, rfl, rfl, hD⟩ := guarded_iff.mp h
    obtain ⟨h28, rfl, hB⟩ := nibbles_iff.mp ht
    rw [decodeWord, major_eq hm]; change decFullState x = _; rw [decFullState, h28]; exact if_pos ⟨hB, hD⟩
  | fetest =>
    obtain ⟨hm, ht, rfl, rfl, rfl⟩ := guarded_iff.mp h
    obtain ⟨h28, rfl, hB⟩ := nibbles_iff.mp ht
    rw [decodeWord, major_eq hm]; change decFullState x = _; rw [decFullState, h28]; exact if_pos hB
  | rmsg | rmsgSeq =>
    obtain ⟨hm, ht, rfl, rfl, hD⟩ := guarded_iff.mp h
    obtain ⟨h28, rfl, rfl⟩ := nibbles_iff.mp ht
    rw [decodeWord, major_eq hm]; change decMessage x = _; rw [decMessage, h28]; exact if_pos hD
  | vadd | vsub | vmul | vminI | vmaxI | vminN | vmaxN | vand | vor | vxor | vshl | vshr | vsar | vsel =>
    obtain ⟨hm, ht, rfl, rfl, rfl⟩ := guarded_iff.mp h
    obtain ⟨rfl, h28, h24, rfl⟩ := lanes_iff.mp ht
    rw [decodeWord, major_eq hm]; change decVecInteger x = _; rw [decVecInteger, h28, h24]; rfl
  | vcmp =>
    obtain ⟨hm, ht, rfl, rfl, rfl⟩ := guarded_iff.mp h
    obtain ⟨rfl, h28, rfl, rfl⟩ := lanes_iff.mp ht
    rw [decodeWord, major_eq hm]; change decVecInteger x = _; rw [decVecInteger, h28]; rfl
  | vfadd | vfsub | vfmul | vffma | vfdiv | vfmin | vfmax =>
    obtain ⟨hm, ht, rfl, rfl, rfl⟩ := guarded_iff.mp h
    obtain ⟨rfl, h28, h24, rfl⟩ := lanes_iff.mp ht
    rw [decodeWord, major_eq hm]; change decVecFloat x = _; rw [decVecFloat, h28, h24]; rfl
  | vfsqrt =>
    obtain ⟨hm, ht, rfl, rfl, rfl⟩ := guarded_iff.mp h
    obtain ⟨rfl, h28, h24, hB⟩ := lanes_iff.mp ht
    rw [decodeWord, major_eq hm]; change decVecFloat x = _; rw [decVecFloat, h28, h24]; exact if_pos hB
  | vfcmp =>
    obtain ⟨hm, ht, rfl, rfl, rfl⟩ := guarded_iff.mp h
    obtain ⟨rfl, h28, h26, rfl, rfl⟩ := vector_compare_iff.mp ht
    rw [decodeWord, major_eq hm]; change decVecFloat x = _; rw [decVecFloat, h28]; exact if_pos h26
  | vld | vst =>
    obtain ⟨hm, ht, rfl, rfl, rfl⟩ := guarded_iff.mp h
    obtain ⟨h28, rfl, hB⟩ := nibbles_iff.mp ht
    rw [decodeWord, major_eq hm]; change decVecMemory x = _; rw [decVecMemory, show fFN4 x = _ from h28]; exact if_pos hB
  | vlds =>
    obtain ⟨hm, ht, rfl, rfl, rfl⟩ := guarded_iff.mp h
    obtain ⟨rfl, rfl, rfl⟩ := nibbles_iff.mp ht
    simp only [Instr.wf, Bool.and_eq_true, decide_eq_true_eq] at hwf
    have hf : (fFN4 x).toNat = 2 ∨ (fFN4 x).toNat = 3 ∨ (fFN4 x).toNat = 4 ∨ (fFN4 x).toNat = 5 := by rw [fFN4]; omega
    rw [decodeWord, major_eq hm]; change decVecMemory x = _
    obtain hf | hf | hf | hf := hf <;> rw [decVecMemory, hf] <;> rfl
  | vgath =>
    obtain ⟨hm, ht, rfl, rfl, rfl⟩ := guarded_iff.mp h
    obtain ⟨rfl, rfl, rfl⟩ := nibbles_iff.mp ht
    simp only [Instr.wf, Bool.and_eq_true, decide_eq_true_eq] at hwf
    have hf : (fFN4 x).toNat = 6 ∨ (fFN4 x).toNat = 7 ∨ (fFN4 x).toNat = 8 ∨ (fFN4 x).toNat = 9 := by rw [fFN4]; omega
    rw [decodeWord, major_eq hm]; change decVecMemory x = _
    obtain hf | hf | hf | hf := hf <;> rw [decVecMemory, hf] <;> rfl
  | vscat =>
    obtain ⟨hm, ht, rfl, rfl, rfl⟩ := guarded_iff.mp h
    obtain ⟨rfl, rfl, rfl⟩ := nibbles_iff.mp ht
    simp only [Instr.wf, Bool.and_eq_true, decide_eq_true_eq] at hwf
    have hf : (fFN4 x).toNat = 10 ∨ (fFN4 x).toNat = 11 ∨ (fFN4 x).toNat = 12 ∨ (fFN4 x).toNat = 13 := by rw [fFN4]; omega
    rw [decodeWord, major_eq hm]; change decVecMemory x = _
    obtain hf | hf | hf | hf := hf <;> rw [decVecMemory, hf] <;> rfl
  | vlong =>
    obtain ⟨hm, ht, rfl, hA, rfl⟩ := guarded_code_iff.mp h
    obtain ⟨hf, hB⟩ := fn8_iff.mp ht
    rw [decodeWord, major_eq hm]; change decVecMode x = _; rw [decVecMode, hf]; exact if_pos ⟨hB, hA⟩
  | vshort =>
    obtain ⟨hm, ht, rfl, hA, hD⟩ := guarded_code_iff.mp h
    obtain ⟨hf, hB⟩ := fn8_iff.mp ht
    rw [decodeWord, major_eq hm]; change decVecMode x = _; rw [decVecMode, hf]; exact if_pos ⟨hB, zeros_iff.mpr ⟨hA, hD⟩⟩
  | vfnExp2 | vfnLog2 | vfnRcp | vfnRsq | vfnSin | vfnCos =>
    obtain ⟨hm, ht, rfl, rfl, rfl⟩ := guarded_iff.mp h
    obtain ⟨rfl, h24, hB⟩ := nibbles_iff.mp ht
    have hne : fFN4 x ≠ 0xF := fun hf => by simp [Instr.wf, show x.extractLsb' 28 4 = 0xF from hf] at hwf
    rw [decodeWord, major_eq hm]; change decVecFunction x = _; rw [decVecFunction, if_neg hne, show fLA x = _ from h24]; exact if_pos hB
  | coefld =>
    obtain ⟨hm, ht, rfl, rfl, hD⟩ := guarded_iff.mp h
    obtain ⟨h28, rfl, rfl⟩ := nibbles_iff.mp ht
    rw [decodeWord, major_eq hm]; change decVecFunction x = _; rw [decVecFunction, if_pos (show fFN4 x = 0xF from h28)]; exact if_pos hD
  | vredAdd | vredMinI | vredMaxI | vredMinN | vredMaxN | vredFadd | vredFmin | vredFmax =>
    obtain ⟨hm, ht, rfl, rfl, rfl⟩ := guarded_iff.mp h
    obtain ⟨h28, rfl, hB⟩ := nibbles_iff.mp ht
    rw [decodeWord, major_eq hm]; change decReduction x = _; rw [decReduction, h28]; exact if_pos hB
  | vbcast =>
    obtain ⟨hm, ht, rfl, rfl, rfl⟩ := guarded_iff.mp h
    obtain ⟨rfl, h24, hB⟩ := permute_iff.mp ht
    rw [decodeWord, major_eq hm]; change decPermute x = _; rw [decPermute, h24]; exact if_pos hB
  | vperm =>
    obtain ⟨hm, ht, rfl, rfl, rfl⟩ := guarded_iff.mp h
    obtain ⟨rfl, h24, rfl⟩ := permute_iff.mp ht
    rw [decodeWord, major_eq hm]; change decPermute x = _; rw [decPermute, h24]; rfl
  | mls | mlss =>
    obtain ⟨hm, ht, rfl, rfl, rfl⟩ := guarded_iff.mp h
    obtain ⟨h28, rfl, rfl⟩ := nibbles_iff.mp ht
    rw [decodeWord, major_eq hm]; change decPlate x = _; rw [decPlate, h28]; rfl
  | mma | mmaM | mmaz | mmazM =>
    obtain ⟨hm, ht, rfl, rfl, rfl⟩ := guarded_iff.mp h
    obtain ⟨h28, rfl, rfl⟩ := nibbles_iff.mp ht
    rw [decodeWord, major_eq hm]; change decStream x = _; rw [decStream, h28]; rfl
  | vprune48 | vsdot48 =>
    obtain ⟨hm, ht, rfl, rfl, rfl⟩ := guarded_iff.mp h
    obtain ⟨h26, rfl, rfl⟩ := sparse_iff.mp ht
    rw [decodeWord, major_eq hm]; change decSparse x = _; rw [decSparse, h26]; rfl
  | mswap | mdrain =>
    obtain ⟨hm, ht, rfl, hA, hD⟩ := guarded_code_iff.mp h
    obtain ⟨h28, rfl, hB⟩ := nibbles_iff.mp ht
    rw [decodeWord, major_eq hm]; change decMatrix x = _; rw [decMatrix, h28]; exact if_pos ⟨hB, zeros_iff.mpr ⟨hA, hD⟩⟩
  | mcfg =>
    obtain ⟨hm, ht, rfl, rfl, hD⟩ := guarded_iff.mp h
    obtain ⟨h28, rfl, hB⟩ := nibbles_iff.mp ht
    rw [decodeWord, major_eq hm]; change decMatrix x = _; rw [decMatrix, h28]; exact if_pos ⟨hB, hD⟩
  | mrd | mrdZ =>
    obtain ⟨hm, ht, rfl, rfl, rfl⟩ := guarded_iff.mp h
    obtain ⟨h28, rfl, rfl⟩ := nibbles_iff.mp ht
    rw [decodeWord, major_eq hm]; change decMatrix x = _; rw [decMatrix, h28]; rfl
  | mpop =>
    obtain ⟨hm, ht, rfl, rfl, rfl⟩ := guarded_iff.mp h
    obtain ⟨h28, rfl, hB⟩ := nibbles_iff.mp ht
    rw [decodeWord, major_eq hm]; change decMatrix x = _; rw [decMatrix, h28]; exact if_pos hB
  | mmon =>
    obtain ⟨hm, ht, rfl, hA, rfl⟩ := guarded_code_iff.mp h
    obtain ⟨h28, rfl, rfl⟩ := nibbles_iff.mp ht
    rw [decodeWord, major_eq hm]; change decMatrix x = _; rw [decMatrix, h28]; exact if_pos hA
  | cpy =>
    obtain ⟨hm, ht, rfl, hA, rfl⟩ := guarded_code_iff.mp h
    obtain ⟨h28, rfl, hB⟩ := nibbles_iff.mp ht
    rw [decodeWord, major_eq hm]; change decCopy x = _; rw [decCopy, h28]; exact if_pos ⟨hB, hA⟩
  | cpym =>
    obtain ⟨hm, ht, rfl, hA, rfl⟩ := guarded_code_iff.mp h
    obtain ⟨h28, rfl, rfl⟩ := nibbles_iff.mp ht
    rw [decodeWord, major_eq hm]; change decCopy x = _; rw [decCopy, h28]; exact if_pos hA
  | cpyr =>
    obtain ⟨hm, ht, rfl, rfl, rfl⟩ := guarded_iff.mp h
    obtain ⟨h28, rfl, hB⟩ := nibbles_iff.mp ht
    rw [decodeWord, major_eq hm]; change decCopy x = _; rw [decCopy, h28]; exact if_pos hB
  | cnv =>
    obtain ⟨hm, ht, rfl, hA, rfl⟩ := guarded_code_iff.mp h
    obtain ⟨h28, rfl, hB⟩ := nibbles_iff.mp ht
    rw [decodeWord, major_eq hm]; change decConversion x = _; rw [decConversion, h28]; exact if_pos ⟨hB, hA⟩
  | amaxrs =>
    obtain ⟨hm, ht, rfl, rfl, rfl⟩ := guarded_iff.mp h
    obtain ⟨h28, rfl, hB⟩ := nibbles_iff.mp ht
    rw [decodeWord, major_eq hm]; change decConversion x = _; rw [decConversion, h28]; exact if_pos hB
  | sscan =>
    obtain ⟨hm, ht, rfl, rfl, rfl⟩ := guarded_iff.mp h
    obtain ⟨h28, rfl, rfl⟩ := nibbles_iff.mp ht
    rw [decodeWord, major_eq hm]; change decScan x = _; rw [decScan, h28]; rfl
  | semup =>
    obtain ⟨hm, ht, rfl, rfl, hD⟩ := guarded_iff.mp h
    obtain ⟨hf, rfl⟩ := fn8_iff.mp ht
    rw [decodeWord, major_eq hm]; change decSemaphore x = _; rw [decSemaphore, hf]; exact if_pos hD
  | semdn =>
    obtain ⟨hm, ht, rfl, rfl, rfl⟩ := guarded_iff.mp h
    obtain ⟨hf, hB⟩ := fn8_iff.mp ht
    rw [decodeWord, major_eq hm]; change decSemaphore x = _; rw [decSemaphore, hf]; exact if_pos hB
  | semw =>
    obtain ⟨hm, ht, rfl, rfl, hD⟩ := guarded_iff.mp h
    obtain ⟨hf, hB⟩ := fn8_iff.mp ht
    rw [decodeWord, major_eq hm]; change decSemaphore x = _; rw [decSemaphore, hf]; exact if_pos ⟨hB, hD⟩
  | qpush | qpop | qpeek =>
    obtain ⟨hm, ht, rfl, rfl, rfl⟩ := guarded_iff.mp h
    obtain ⟨hf, rfl⟩ := fn8_iff.mp ht
    rw [decodeWord, major_eq hm]; change decQueue x = _; rw [decQueue, hf]; rfl
  | wqask | wqput =>
    obtain ⟨hm, ht, rfl, rfl, hD⟩ := guarded_iff.mp h
    obtain ⟨h28, rfl, rfl⟩ := nibbles_iff.mp ht
    rw [decodeWord, major_eq hm]; change decWork x = _; rw [decWork, h28]; exact if_pos hD
  | launch =>
    obtain ⟨hm, ht, rfl, rfl, hD⟩ := guarded_iff.mp h
    obtain ⟨h28, rfl, rfl⟩ := nibbles_iff.mp ht
    rw [decodeWord, major_eq hm]; change decLaunch x = _; rw [decLaunch, h28]; exact if_pos hD
  | jobsig =>
    obtain ⟨hm, ht, rfl, rfl, rfl⟩ := guarded_iff.mp h
    obtain ⟨h28, rfl, rfl⟩ := nibbles_iff.mp ht
    rw [decodeWord, major_eq hm]; change decLaunch x = _; rw [decLaunch, h28]; rfl
  | cyc =>
    obtain ⟨hm, ht, rfl, hA, rfl⟩ := guarded_code_iff.mp h
    obtain ⟨h28, h24, rfl⟩ := nibbles_iff.mp ht
    rw [decodeWord, major_eq hm]; change decTiming x = _; rw [decTiming, show fFN4 x = _ from h28]; exact if_pos ⟨h24, hA⟩
  | tfenceOpen =>
    obtain ⟨hm, ht, rfl, hA, hD⟩ := guarded_code_iff.mp h
    obtain ⟨h28, h24, hB⟩ := nibbles_iff.mp ht
    rw [decodeWord, major_eq hm]; change decTiming x = _; rw [decTiming, show fFN4 x = _ from h28, show fB x = _ from hB]; exact if_pos ⟨h24, zeros_iff.mpr ⟨hA, hD⟩⟩
  | tfenceClose =>
    obtain ⟨hm, ht, rfl, hA, rfl⟩ := guarded_code_iff.mp h
    obtain ⟨h28, h24, hB⟩ := nibbles_iff.mp ht
    rw [decodeWord, major_eq hm]; change decTiming x = _; rw [decTiming, show fFN4 x = _ from h28, show fB x = _ from hB]; exact if_pos ⟨h24, hA⟩
  | digest | stepb =>
    obtain ⟨hm, ht, rfl, rfl, rfl⟩ := guarded_iff.mp h
    obtain ⟨h28, rfl, rfl⟩ := nibbles_iff.mp ht
    rw [decodeWord, major_eq hm]; change decTiming x = _; rw [decTiming, show fFN4 x = _ from h28]; rfl
  | rlinit =>
    obtain ⟨hm, ht, rfl, rfl, hD⟩ := guarded_iff.mp h
    obtain ⟨h28, rfl, rfl⟩ := nibbles_iff.mp ht
    rw [decodeWord, major_eq hm]; change decList x = _; rw [decList, h28]; exact if_pos hD
  | rlins | rlget =>
    obtain ⟨hm, ht, rfl, rfl, rfl⟩ := guarded_iff.mp h
    obtain ⟨h28, rfl, rfl⟩ := nibbles_iff.mp ht
    rw [decodeWord, major_eq hm]; change decList x = _; rw [decList, h28]; rfl
  | rlstat =>
    obtain ⟨hm, ht, rfl, rfl, rfl⟩ := guarded_iff.mp h
    obtain ⟨h28, rfl, rfl⟩ := nibbles_iff.mp ht
    rw [decodeWord, major_eq hm]; change decList x = _; rw [decList, h28]; rfl
  | rlfin =>
    obtain ⟨hm, ht, rfl, rfl, rfl⟩ := guarded_iff.mp h
    obtain ⟨h28, rfl, hB⟩ := nibbles_iff.mp ht
    rw [decodeWord, major_eq hm]; change decList x = _; rw [decList, h28]; exact if_pos hB
  | trvgo =>
    obtain ⟨hm, ht, rfl, rfl, rfl⟩ := guarded_iff.mp h
    obtain ⟨h28, rfl, rfl⟩ := nibbles_iff.mp ht
    rw [decodeWord, major_eq hm]; change decTraversal x = _; rw [decTraversal, h28]; rfl
  | trvbud =>
    obtain ⟨hm, ht, rfl, rfl, hD⟩ := guarded_iff.mp h
    obtain ⟨h28, rfl, rfl⟩ := nibbles_iff.mp ht
    rw [decodeWord, major_eq hm]; change decTraversal x = _; rw [decTraversal, h28]; exact if_pos hD
  | tri | splat | volseg | dkl =>
    obtain ⟨hm, ht, rfl, rfl, rfl⟩ := guarded_iff.mp h
    obtain ⟨h28, rfl, rfl⟩ := nibbles_iff.mp ht
    rw [decodeWord, major_eq hm]; change decScene x = _; rw [decScene, h28]; rfl
  | gctx | blend =>
    obtain ⟨hm, ht, rfl, rfl, hD⟩ := guarded_iff.mp h
    obtain ⟨h28, rfl, rfl⟩ := nibbles_iff.mp ht
    rw [decodeWord, major_eq hm]; change decRaster x = _; rw [decRaster, h28]; exact if_pos hD
  | rastri =>
    obtain ⟨hm, ht, rfl, hA, hD⟩ := guarded_code_iff.mp h
    obtain ⟨h28, rfl, rfl⟩ := nibbles_iff.mp ht
    rw [decodeWord, major_eq hm]; change decRaster x = _; rw [decRaster, h28]; exact if_pos (zeros_iff.mpr ⟨hA, hD⟩)
  | rasfrag =>
    obtain ⟨hm, ht, rfl, hA, rfl⟩ := guarded_code_iff.mp h
    obtain ⟨h28, rfl, rfl⟩ := nibbles_iff.mp ht
    rw [decodeWord, major_eq hm]; change decRaster x = _; rw [decRaster, h28]; exact if_pos hA
  | texs | texl =>
    obtain ⟨hm, ht, rfl, rfl, rfl⟩ := guarded_iff.mp h
    obtain ⟨h28, rfl, rfl⟩ := nibbles_iff.mp ht
    rw [decodeWord, major_eq hm]; change decTexture x = _; rw [decTexture, h28]; rfl
  | surfrel | surfacq =>
    obtain ⟨hm, ht, rfl, rfl, hD⟩ := guarded_iff.mp h
    obtain ⟨h28, rfl, hB⟩ := nibbles_iff.mp ht
    rw [decodeWord, major_eq hm]; change decSurface x = _; rw [decSurface, h28]; exact if_pos ⟨hB, hD⟩
  | yield | yieldIf1 | yieldIf2 | yieldIf3 | yieldIf4 | yieldIf5 | yieldIf6 | yieldIf7 | yieldIf8 | yieldIf9 | yieldIf10 | yieldIf11 | yieldIf12 | yieldIf13
    | yieldIf14 | yieldIf15 | yieldUnless1 | yieldUnless2 | yieldUnless3 | yieldUnless4 | yieldUnless5 | yieldUnless6 | yieldUnless7 | yieldUnless8
    | yieldUnless9 | yieldUnless10 | yieldUnless11 | yieldUnless12 | yieldUnless13 | yieldUnless14 | yieldUnless15 =>
    cases h
    rfl
  | _ => cases h

end Sys2Proof

/-!
SUPPORT. Every word that decodes is the word of what it decodes to, major by major.
-/

namespace Sys2Proof

theorem encode_decExtension {x : BitVec 32} {i : Instr} (hm : x.extractLsb' 0 7 = 25#7) (h : decExtension x = some i) : encode i = some (.word x) := by
  unfold decExtension at h
  split at h
  case h_1 hf | h_3 hf =>
    cases h
    exact extension_iff.mpr ⟨hm, rfl, BitVec.eq_of_toNat_eq hf, rfl⟩
  case h_2 hf =>
    cases h
    exact extension_iff.mpr ⟨hm, immediate_iff.mpr ⟨rfl, rfl⟩, BitVec.eq_of_toNat_eq hf, rfl⟩
  case h_4 hf =>
    obtain ⟨h16, h⟩ := Option.ite_none_right_eq_some.mp h
    cases h
    exact extension_iff.mpr ⟨hm, immediate_iff.mpr ⟨h16, rfl⟩, BitVec.eq_of_toNat_eq hf, rfl⟩
  case h_5 => cases h

theorem encode_decInteger {x : BitVec 32} {i : Instr} (hm : x.extractLsb' 0 7 = 1#7) (h : decInteger x = some i) : encode i = some (.word x) := by
  unfold decInteger at h
  split at h
  case h_1 hf | h_2 hf | h_3 hf =>
    split at h <;> cases h
    all_goals
      rename_i hg
      exact guarded_iff.mpr ⟨hm, nibbles_iff.mpr ⟨BitVec.eq_of_toNat_eq hf, BitVec.eq_of_toNat_eq hg, rfl⟩, rfl, rfl, rfl⟩
  case h_4 hf =>
    split at h
    case h_6 => cases h
    all_goals
      rename_i hg
      obtain ⟨hB, h⟩ := Option.ite_none_right_eq_some.mp h
      cases h
      exact guarded_iff.mpr ⟨hm, nibbles_iff.mpr ⟨BitVec.eq_of_toNat_eq hf, BitVec.eq_of_toNat_eq hg, hB⟩, rfl, rfl, rfl⟩
  case h_5 hf =>
    cases h
    exact guarded_iff.mpr ⟨hm, nibbles_iff.mpr ⟨BitVec.eq_of_toNat_eq hf, rfl, rfl⟩, rfl, rfl, rfl⟩
  case h_6 => cases h

theorem encode_decAddi {x : BitVec 32} {i : Instr} (hm : x.extractLsb' 0 7 = 3#7) (h : decAddi x = some i) : encode i = some (.word x) := by
  cases h
  exact guarded_iff.mpr ⟨hm, rfl, rfl, rfl, rfl⟩

theorem encode_decAndi {x : BitVec 32} {i : Instr} (hm : x.extractLsb' 0 7 = 5#7) (h : decAndi x = some i) : encode i = some (.word x) := by
  cases h
  exact guarded_iff.mpr ⟨hm, rfl, rfl, rfl, rfl⟩

theorem encode_decOri {x : BitVec 32} {i : Instr} (hm : x.extractLsb' 0 7 = 7#7) (h : decOri x = some i) : encode i = some (.word x) := by
  cases h
  exact guarded_iff.mpr ⟨hm, rfl, rfl, rfl, rfl⟩

theorem encode_decXori {x : BitVec 32} {i : Instr} (hm : x.extractLsb' 0 7 = 9#7) (h : decXori x = some i) : encode i = some (.word x) := by
  cases h
  exact guarded_iff.mpr ⟨hm, rfl, rfl, rfl, rfl⟩

theorem encode_decShiftImmediate {x : BitVec 32} {i : Instr} (hm : x.extractLsb' 0 7 = 11#7) (h : decShiftImmediate x = some i) : encode i = some (.word x) := by
  unfold decShiftImmediate at h
  split at h
  case h_5 => cases h
  all_goals
    rename_i hf
    obtain ⟨h30, h⟩ := Option.ite_none_right_eq_some.mp h
    cases h
    exact guarded_iff.mpr ⟨hm, shift_iff.mpr ⟨h30, BitVec.eq_of_toNat_eq hf, rfl⟩, rfl, rfl, rfl⟩

theorem encode_decCmpi {x : BitVec 32} {i : Instr} (hm : x.extractLsb' 0 7 = 13#7) (h : decCmpi x = some i) : encode i = some (.word x) := by
  cases h
  exact guarded_iff.mpr ⟨hm, fn8_iff.mpr ⟨rfl, rfl⟩, rfl, rfl, rfl⟩

theorem encode_decPacked {x : BitVec 32} {i : Instr} (hm : x.extractLsb' 0 7 = 15#7) (h : decPacked x = some i) : encode i = some (.word x) := by
  unfold decPacked at h
  split at h
  case h_1 hf | h_2 hf | h_3 hf =>
    obtain ⟨h28, h⟩ := Option.ite_none_right_eq_some.mp h
    cases h
    exact guarded_iff.mpr ⟨hm, lanes_iff.mpr ⟨rfl, h28, BitVec.eq_of_toNat_eq hf, rfl⟩, rfl, rfl, rfl⟩
  case h_4 hf | h_5 hf =>
    obtain ⟨h28, h⟩ := Option.ite_none_right_eq_some.mp h
    cases h
    exact guarded_iff.mpr ⟨hm, lanes_bits_iff.mpr ⟨rfl, rfl, h28, BitVec.eq_of_toNat_eq hf, rfl⟩, rfl, rfl, rfl⟩
  case h_6 hf | h_7 hf | h_8 hf =>
    obtain ⟨h29, h⟩ := Option.ite_none_right_eq_some.mp h
    cases h
    exact guarded_iff.mpr ⟨hm, lanes_bits_iff.mpr ⟨rfl, h29, rfl, BitVec.eq_of_toNat_eq hf, rfl⟩, rfl, rfl, rfl⟩
  case h_9 => cases h

theorem encode_decCompare {x : BitVec 32} {i : Instr} (hm : x.extractLsb' 0 7 = 17#7) (h : decCompare x = some i) : encode i = some (.word x) := by
  obtain ⟨h28, h⟩ := Option.ite_none_right_eq_some.mp h
  cases h
  exact guarded_iff.mpr ⟨hm, nibbles_iff.mpr ⟨h28, rfl, rfl⟩, rfl, rfl, rfl⟩

theorem encode_decBranch {x : BitVec 32} {i : Instr} (hm : x.extractLsb' 0 7 = 21#7) (h : decBranch x = some i) : encode i = some (.word x) := by
  cases h
  exact branch_iff.mpr ⟨hm, rfl, rfl⟩

theorem encode_decJump {x : BitVec 32} {i : Instr} (hm : x.extractLsb' 0 7 = 23#7) (h : decJump x = some i) : encode i = some (.word x) := by
  unfold decJump at h
  split at h <;> cases h
  case h_1 hf => exact jump_iff.mpr ⟨hm, rfl, BitVec.eq_of_toNat_eq hf, rfl⟩
  case h_2 hf => exact jump_iff.mpr ⟨hm, immediate_iff.mpr ⟨rfl, rfl⟩, BitVec.eq_of_toNat_eq hf, rfl⟩

theorem encode_decControl {x : BitVec 32} {i : Instr} (hm : x.extractLsb' 0 7 = 27#7) (h : decControl x = some i) : encode i = some (.word x) := by
  unfold decControl at h
  split at h <;> cases h
  all_goals
    rename_i hf
    exact guarded_code_iff.mpr ⟨hm, rfl, rfl, BitVec.eq_of_toNat_eq hf, rfl⟩

/-- Two bits that are not 0, 1 or 2 are 3. -/
theorem eq_three_of_ne : ∀ c : BitVec 2, c.toNat ≠ 0 → c.toNat ≠ 1 → c.toNat ≠ 2 → c = 3 := by decide

theorem encode_decSystem {x : BitVec 32} {i : Instr} (hm : x.extractLsb' 0 7 = 29#7) (h : decSystem x = some i) : encode i = some (.word x) := by
  unfold decSystem at h
  split at h
  case h_1 hf =>
    split at h
    case h_1 hg | h_2 hg | h_3 hg =>
      obtain ⟨⟨hB, hAD⟩, h⟩ := Option.ite_none_right_eq_some.mp h
      cases h
      exact guarded_code_iff.mpr
        ⟨hm, fence_iff.mpr ⟨BitVec.eq_of_toNat_eq hf, BitVec.eq_of_toNat_eq hg, rfl, hB⟩, rfl, (zeros_iff.mp hAD).1, (zeros_iff.mp hAD).2⟩
    case h_4 _ h0 h1 h2 =>
      obtain ⟨⟨h20, hAD⟩, h⟩ := Option.ite_none_right_eq_some.mp h
      cases h
      exact guarded_code_iff.mpr
        ⟨hm, fenceI_iff.mpr ⟨BitVec.eq_of_toNat_eq hf, eq_three_of_ne _ h0 h1 h2, h20⟩, rfl, (zeros_iff.mp hAD).1, (zeros_iff.mp hAD).2⟩
  case h_2 hf =>
    split at h
    case h_1 hg =>
      obtain ⟨⟨hB, hD⟩, h⟩ := Option.ite_none_right_eq_some.mp h
      cases h
      exact guarded_iff.mpr ⟨hm, system_iff.mpr ⟨BitVec.eq_of_toNat_eq hf, BitVec.eq_of_toNat_eq hg, hB⟩, rfl, rfl, hD⟩
    case h_2 hg | h_3 hg | h_4 hg =>
      obtain ⟨⟨hB, hAD⟩, h⟩ := Option.ite_none_right_eq_some.mp h
      cases h
      exact guarded_code_iff.mpr
        ⟨hm, system_iff.mpr ⟨BitVec.eq_of_toNat_eq hf, BitVec.eq_of_toNat_eq hg, hB⟩, rfl, (zeros_iff.mp hAD).1, (zeros_iff.mp hAD).2⟩
    case h_5 => cases h
  case h_3 => cases h

/-- The word of a `YIELD` (R54). -/
theorem encode_yieldOf : ∀ gd : Guard, gd.ok = true →
    encode (.yieldOf gd) = some (.word (3#8 ++ 0#4 ++ BitVec.ofBool gd.neg ++ gd.p ++ 0#4 ++ 0#4 ++ 33#7)) := by
  rintro ⟨p, neg⟩
  revert p neg
  decide

theorem encode_decThread {x : BitVec 32} {i : Instr} (hm : x.extractLsb' 0 7 = 33#7) (h : decThread x = some i) : encode i = some (.word x) := by
  unfold decThread at h
  split at h
  case h_1 hf =>
    cases h
    exact guarded_iff.mpr ⟨hm, fn8_iff.mpr ⟨BitVec.eq_of_toNat_eq hf, rfl⟩, rfl, rfl, rfl⟩
  case h_2 hf | h_9 hf =>
    obtain ⟨hA, h⟩ := Option.ite_none_right_eq_some.mp h
    cases h
    exact guarded_code_iff.mpr ⟨hm, fn8_iff.mpr ⟨BitVec.eq_of_toNat_eq hf, rfl⟩, rfl, hA, rfl⟩
  case h_3 hf | h_5 hf =>
    obtain ⟨⟨hB, hAD⟩, h⟩ := Option.ite_none_right_eq_some.mp h
    cases h
    exact guarded_code_iff.mpr ⟨hm, fn8_iff.mpr ⟨BitVec.eq_of_toNat_eq hf, hB⟩, rfl, (zeros_iff.mp hAD).1, (zeros_iff.mp hAD).2⟩
  case h_4 hf =>
    obtain ⟨⟨hB, hAD, hok⟩, h⟩ := Option.ite_none_right_eq_some.mp h
    cases h
    rw [encode_yieldOf _ hok]
    exact guarded_iff.mpr ⟨hm, fn8_iff.mpr ⟨BitVec.eq_of_toNat_eq hf, hB⟩, rfl, (zeros_iff.mp hAD).1, (zeros_iff.mp hAD).2⟩
  case h_6 hf | h_10 hf =>
    obtain ⟨⟨hB, hD⟩, h⟩ := Option.ite_none_right_eq_some.mp h
    cases h
    exact guarded_iff.mpr ⟨hm, fn8_iff.mpr ⟨BitVec.eq_of_toNat_eq hf, hB⟩, rfl, rfl, hD⟩
  case h_7 hf | h_8 hf =>
    obtain ⟨hB, h⟩ := Option.ite_none_right_eq_some.mp h
    cases h
    exact guarded_iff.mpr ⟨hm, fn8_iff.mpr ⟨BitVec.eq_of_toNat_eq hf, hB⟩, rfl, rfl, rfl⟩
  case h_11 => cases h

theorem encode_decFloat {x : BitVec 32} {i : Instr} (hm : x.extractLsb' 0 7 = 41#7) (h : decFloat x = some i) : encode i = some (.word x) := by
  unfold decFloat at h
  split at h
  case h_6 hf =>
    obtain ⟨h20, h⟩ := Option.ite_none_right_eq_some.mp h
    cases h
    exact guarded_iff.mpr ⟨hm, format_unary_iff.mpr ⟨BitVec.eq_of_toNat_eq hf, rfl, h20⟩, rfl, rfl, rfl⟩
  case h_9 hf =>
    cases h
    exact guarded_iff.mpr ⟨hm, format_iff.mpr ⟨BitVec.eq_of_toNat_eq hf, rfl, rfl, rfl⟩, rfl, rfl, rfl⟩
  case h_10 => cases h
  all_goals
    rename_i hf
    obtain ⟨h24, h⟩ := Option.ite_none_right_eq_some.mp h
    cases h
    exact guarded_iff.mpr ⟨hm, format_iff.mpr ⟨BitVec.eq_of_toNat_eq hf, rfl, h24, rfl⟩, rfl, rfl, rfl⟩

theorem encode_decConvert {x : BitVec 32} {i : Instr} (hm : x.extractLsb' 0 7 = 43#7) (h : decConvert x = some i) : encode i = some (.word x) := by
  unfold decConvert at h
  split at h
  · obtain ⟨hB, h⟩ := Option.ite_none_right_eq_some.mp h
    cases h
    exact guarded_iff.mpr ⟨hm, fn8_iff.mpr ⟨rfl, hB⟩, rfl, rfl, rfl⟩
  · cases h
    exact guarded_iff.mpr ⟨hm, nibbles_iff.mpr ⟨rfl, rfl, rfl⟩, rfl, rfl, rfl⟩

/-- A single bit that is not 0 is 1. -/
theorem eq_one_of_ne_zero : ∀ c : BitVec 1, c ≠ 0 → c = 1 := by decide

theorem encode_decLoad {x : BitVec 32} {i : Instr} (hm : x.extractLsb' 0 7 = 49#7) (h : decLoad x = some i) : encode i = some (.word x) := by
  unfold decLoad at h
  split at h
  · next h27 =>
    cases h
    exact guarded_iff.mpr ⟨hm, load_iff.mpr ⟨rfl, h27, rfl, rfl, rfl⟩, rfl, rfl, rfl⟩
  · next h27 =>
    split at h <;> cases h
    · next h24 => exact guarded_iff.mpr ⟨hm, load_iff.mpr ⟨rfl, eq_one_of_ne_zero _ h27, rfl, h24, rfl⟩, rfl, rfl, rfl⟩
    · exact guarded_iff.mpr ⟨hm, load_iff.mpr ⟨rfl, eq_one_of_ne_zero _ h27, rfl, rfl, rfl⟩, rfl, rfl, rfl⟩

theorem encode_decStore {x : BitVec 32} {i : Instr} (hm : x.extractLsb' 0 7 = 51#7) (h : decStore x = some i) : encode i = some (.word x) := by
  obtain ⟨h27, h⟩ := Option.ite_none_right_eq_some.mp h
  cases h
  exact guarded_iff.mpr ⟨hm, load_iff.mpr ⟨rfl, h27, rfl, rfl, rfl⟩, rfl, rfl, rfl⟩

theorem encode_decFullLoad {x : BitVec 32} {i : Instr} (hm : x.extractLsb' 0 7 = 53#7) (h : decFullLoad x = some i) : encode i = some (.word x) := by
  unfold decFullLoad at h
  split at h <;> cases h
  all_goals
    rename_i hf
    exact guarded_iff.mpr ⟨hm, format_iff.mpr ⟨rfl, rfl, BitVec.eq_of_toNat_eq hf, rfl⟩, rfl, rfl, rfl⟩

theorem encode_decFullStore {x : BitVec 32} {i : Instr} (hm : x.extractLsb' 0 7 = 55#7) (h : decFullStore x = some i) : encode i = some (.word x) := by
  unfold decFullStore at h
  split at h <;> cases h
  all_goals
    rename_i hf
    exact guarded_iff.mpr ⟨hm, format_iff.mpr ⟨rfl, rfl, BitVec.eq_of_toNat_eq hf, rfl⟩, rfl, rfl, rfl⟩

theorem encode_decVecInteger {x : BitVec 32} {i : Instr} (hm : x.extractLsb' 0 7 = 65#7) (h : decVecInteger x = some i) : encode i = some (.word x) := by
  unfold decVecInteger at h
  split at h
  case h_1 hf =>
    split at h <;> cases h
    all_goals
      rename_i hg
      exact guarded_iff.mpr ⟨hm, lanes_iff.mpr ⟨rfl, BitVec.eq_of_toNat_eq hf, BitVec.eq_of_toNat_eq hg, rfl⟩, rfl, rfl, rfl⟩
  case h_2 hf =>
    cases h
    exact guarded_iff.mpr ⟨hm, lanes_iff.mpr ⟨rfl, BitVec.eq_of_toNat_eq hf, rfl, rfl⟩, rfl, rfl, rfl⟩
  case h_3 => cases h

theorem encode_decVecFloat {x : BitVec 32} {i : Instr} (hm : x.extractLsb' 0 7 = 67#7) (h : decVecFloat x = some i) : encode i = some (.word x) := by
  unfold decVecFloat at h
  split at h
  case h_1 hf =>
    split at h
    case h_6 hg =>
      obtain ⟨hB, h⟩ := Option.ite_none_right_eq_some.mp h
      cases h
      exact guarded_iff.mpr ⟨hm, lanes_iff.mpr ⟨rfl, BitVec.eq_of_toNat_eq hf, BitVec.eq_of_toNat_eq hg, hB⟩, rfl, rfl, rfl⟩
    case h_9 => cases h
    all_goals
      rename_i hg
      cases h
      exact guarded_iff.mpr ⟨hm, lanes_iff.mpr ⟨rfl, BitVec.eq_of_toNat_eq hf, BitVec.eq_of_toNat_eq hg, rfl⟩, rfl, rfl, rfl⟩
  case h_2 hf =>
    obtain ⟨h26, h⟩ := Option.ite_none_right_eq_some.mp h
    cases h
    exact guarded_iff.mpr ⟨hm, vector_compare_iff.mpr ⟨rfl, BitVec.eq_of_toNat_eq hf, h26, rfl, rfl⟩, rfl, rfl, rfl⟩
  case h_3 => cases h

theorem encode_decVecMemory {x : BitVec 32} {i : Instr} (hm : x.extractLsb' 0 7 = 69#7) (h : decVecMemory x = some i) : encode i = some (.word x) := by
  unfold decVecMemory at h
  split at h
  case h_1 hf | h_2 hf =>
    obtain ⟨hB, h⟩ := Option.ite_none_right_eq_some.mp h
    cases h
    exact guarded_iff.mpr ⟨hm, nibbles_iff.mpr ⟨BitVec.eq_of_toNat_eq hf, rfl, hB⟩, rfl, rfl, rfl⟩
  case h_15 => cases h
  all_goals
    cases h
    exact guarded_iff.mpr ⟨hm, nibbles_iff.mpr ⟨rfl, rfl, rfl⟩, rfl, rfl, rfl⟩

theorem encode_decVecFunction {x : BitVec 32} {i : Instr} (hm : x.extractLsb' 0 7 = 73#7) (h : decVecFunction x = some i) : encode i = some (.word x) := by
  unfold decVecFunction at h
  split at h
  · next hf =>
    obtain ⟨hD, h⟩ := Option.ite_none_right_eq_some.mp h
    cases h
    exact guarded_iff.mpr ⟨hm, nibbles_iff.mpr ⟨hf, rfl, rfl⟩, rfl, rfl, hD⟩
  · split at h
    case h_7 => cases h
    all_goals
      rename_i hg
      obtain ⟨hB, h⟩ := Option.ite_none_right_eq_some.mp h
      cases h
      exact guarded_iff.mpr ⟨hm, nibbles_iff.mpr ⟨rfl, BitVec.eq_of_toNat_eq hg, hB⟩, rfl, rfl, rfl⟩

theorem encode_decPermute {x : BitVec 32} {i : Instr} (hm : x.extractLsb' 0 7 = 77#7) (h : decPermute x = some i) : encode i = some (.word x) := by
  unfold decPermute at h
  split at h
  case h_1 hf =>
    obtain ⟨hB, h⟩ := Option.ite_none_right_eq_some.mp h
    cases h
    exact guarded_iff.mpr ⟨hm, permute_iff.mpr ⟨rfl, BitVec.eq_of_toNat_eq hf, hB⟩, rfl, rfl, rfl⟩
  case h_2 hf =>
    cases h
    exact guarded_iff.mpr ⟨hm, permute_iff.mpr ⟨rfl, BitVec.eq_of_toNat_eq hf, rfl⟩, rfl, rfl, rfl⟩
  case h_3 => cases h

theorem encode_decSparse {x : BitVec 32} {i : Instr} (hm : x.extractLsb' 0 7 = 85#7) (h : decSparse x = some i) : encode i = some (.word x) := by
  unfold decSparse at h
  split at h <;> cases h
  all_goals
    rename_i hf
    exact guarded_iff.mpr ⟨hm, sparse_iff.mpr ⟨BitVec.eq_of_toNat_eq hf, rfl, rfl⟩, rfl, rfl, rfl⟩

theorem encode_decTiming {x : BitVec 32} {i : Instr} (hm : x.extractLsb' 0 7 = 105#7) (h : decTiming x = some i) : encode i = some (.word x) := by
  unfold decTiming at h
  split at h
  case h_1 hf =>
    obtain ⟨⟨h24, hA⟩, h⟩ := Option.ite_none_right_eq_some.mp h
    cases h
    exact guarded_code_iff.mpr ⟨hm, nibbles_iff.mpr ⟨BitVec.eq_of_toNat_eq hf, h24, rfl⟩, rfl, hA, rfl⟩
  case h_2 hf =>
    split at h
    case h_1 hB =>
      obtain ⟨⟨h24, hAD⟩, h⟩ := Option.ite_none_right_eq_some.mp h
      cases h
      exact guarded_code_iff.mpr
        ⟨hm, nibbles_iff.mpr ⟨BitVec.eq_of_toNat_eq hf, h24, BitVec.eq_of_toNat_eq hB⟩, rfl, (zeros_iff.mp hAD).1, (zeros_iff.mp hAD).2⟩
    case h_2 hB =>
      obtain ⟨⟨h24, hA⟩, h⟩ := Option.ite_none_right_eq_some.mp h
      cases h
      exact guarded_code_iff.mpr ⟨hm, nibbles_iff.mpr ⟨BitVec.eq_of_toNat_eq hf, h24, BitVec.eq_of_toNat_eq hB⟩, rfl, hA, rfl⟩
    case h_3 => cases h
  case h_3 hf | h_4 hf =>
    cases h
    exact guarded_iff.mpr ⟨hm, nibbles_iff.mpr ⟨BitVec.eq_of_toNat_eq hf, rfl, rfl⟩, rfl, rfl, rfl⟩
  case h_5 => cases h

theorem encode_decPredicate {x : BitVec 32} {i : Instr} (hm : x.extractLsb' 0 7 = 19#7) (h : decPredicate x = some i) : encode i = some (.word x) := by
  unfold decPredicate at h
  split at h
  case h_1 hf | h_2 hf | h_3 hf =>
    cases h
    exact guarded_iff.mpr ⟨hm, fn8_iff.mpr ⟨BitVec.eq_of_toNat_eq hf, rfl⟩, rfl, rfl, rfl⟩
  case h_4 hf =>
    obtain ⟨hB, h⟩ := Option.ite_none_right_eq_some.mp h
    cases h
    exact guarded_iff.mpr ⟨hm, fn8_iff.mpr ⟨BitVec.eq_of_toNat_eq hf, hB⟩, rfl, rfl, rfl⟩
  case h_5 => cases h

theorem encode_decBarrier {x : BitVec 32} {i : Instr} (hm : x.extractLsb' 0 7 = 35#7) (h : decBarrier x = some i) : encode i = some (.word x) := by
  unfold decBarrier at h
  split at h
  case h_1 hf | h_2 hf =>
    obtain ⟨⟨hB, hAD⟩, h⟩ := Option.ite_none_right_eq_some.mp h
    cases h
    exact guarded_code_iff.mpr ⟨hm, fn8_iff.mpr ⟨BitVec.eq_of_toNat_eq hf, hB⟩, rfl, (zeros_iff.mp hAD).1, (zeros_iff.mp hAD).2⟩
  case h_3 hf | h_4 hf =>
    obtain ⟨⟨hB, hA⟩, h⟩ := Option.ite_none_right_eq_some.mp h
    cases h
    exact guarded_code_iff.mpr ⟨hm, fn8_iff.mpr ⟨BitVec.eq_of_toNat_eq hf, hB⟩, rfl, hA, rfl⟩
  case h_5 hf | h_6 hf =>
    obtain ⟨⟨hB, hD⟩, h⟩ := Option.ite_none_right_eq_some.mp h
    cases h
    exact guarded_iff.mpr ⟨hm, fn8_iff.mpr ⟨BitVec.eq_of_toNat_eq hf, hB⟩, rfl, rfl, hD⟩
  case h_7 => cases h

theorem encode_decAmo {x : BitVec 32} {i : Instr} (hm : x.extractLsb' 0 7 = 57#7) (h : decAmo x = some i) : encode i = some (.word x) := by
  unfold decAmo at h
  split at h
  case h_1 hf | h_2 hf | h_3 hf | h_4 hf | h_5 hf | h_6 hf | h_7 hf | h_8 hf | h_9 hf | h_10 hf | h_11 hf | h_12 hf | h_13 hf | h_14 hf =>
    cases h
    exact guarded_iff.mpr ⟨hm, nibbles_iff.mpr ⟨BitVec.eq_of_toNat_eq hf, rfl, rfl⟩, rfl, rfl, rfl⟩
  case h_15 => cases h

theorem encode_decCache {x : BitVec 32} {i : Instr} (hm : x.extractLsb' 0 7 = 59#7) (h : decCache x = some i) : encode i = some (.word x) := by
  unfold decCache at h
  split at h
  case h_1 hf | h_2 hf | h_3 hf =>
    obtain ⟨⟨hB, hD⟩, h⟩ := Option.ite_none_right_eq_some.mp h
    cases h
    exact guarded_iff.mpr ⟨hm, nibbles_iff.mpr ⟨BitVec.eq_of_toNat_eq hf, rfl, hB⟩, rfl, rfl, hD⟩
  case h_4 hf =>
    obtain ⟨⟨hB, hAD⟩, h⟩ := Option.ite_none_right_eq_some.mp h
    cases h
    exact guarded_code_iff.mpr ⟨hm, nibbles_iff.mpr ⟨BitVec.eq_of_toNat_eq hf, rfl, hB⟩, rfl, (zeros_iff.mp hAD).1, (zeros_iff.mp hAD).2⟩
  case h_5 hf =>
    obtain ⟨hD, h⟩ := Option.ite_none_right_eq_some.mp h
    cases h
    exact guarded_iff.mpr ⟨hm, nibbles_iff.mpr ⟨BitVec.eq_of_toNat_eq hf, rfl, rfl⟩, rfl, rfl, hD⟩
  case h_6 hf =>
    obtain ⟨hAD, h⟩ := Option.ite_none_right_eq_some.mp h
    cases h
    exact guarded_code_iff.mpr ⟨hm, nibbles_iff.mpr ⟨BitVec.eq_of_toNat_eq hf, rfl, rfl⟩, rfl, (zeros_iff.mp hAD).1, (zeros_iff.mp hAD).2⟩
  case h_7 => cases h

theorem encode_decFullState {x : BitVec 32} {i : Instr} (hm : x.extractLsb' 0 7 = 61#7) (h : decFullState x = some i) : encode i = some (.word x) := by
  unfold decFullState at h
  split at h
  case h_1 hf | h_2 hf =>
    obtain ⟨⟨hB, hD⟩, h⟩ := Option.ite_none_right_eq_some.mp h
    cases h
    exact guarded_iff.mpr ⟨hm, nibbles_iff.mpr ⟨BitVec.eq_of_toNat_eq hf, rfl, hB⟩, rfl, rfl, hD⟩
  case h_3 hf =>
    obtain ⟨hB, h⟩ := Option.ite_none_right_eq_some.mp h
    cases h
    exact guarded_iff.mpr ⟨hm, nibbles_iff.mpr ⟨BitVec.eq_of_toNat_eq hf, rfl, hB⟩, rfl, rfl, rfl⟩
  case h_4 => cases h

theorem encode_decMessage {x : BitVec 32} {i : Instr} (hm : x.extractLsb' 0 7 = 63#7) (h : decMessage x = some i) : encode i = some (.word x) := by
  unfold decMessage at h
  split at h
  case h_1 hf | h_2 hf =>
    obtain ⟨hD, h⟩ := Option.ite_none_right_eq_some.mp h
    cases h
    exact guarded_iff.mpr ⟨hm, nibbles_iff.mpr ⟨BitVec.eq_of_toNat_eq hf, rfl, rfl⟩, rfl, rfl, hD⟩
  case h_3 => cases h

theorem encode_decVecMode {x : BitVec 32} {i : Instr} (hm : x.extractLsb' 0 7 = 71#7) (h : decVecMode x = some i) : encode i = some (.word x) := by
  unfold decVecMode at h
  split at h
  case h_1 hf =>
    obtain ⟨⟨hB, hA⟩, h⟩ := Option.ite_none_right_eq_some.mp h
    cases h
    exact guarded_code_iff.mpr ⟨hm, fn8_iff.mpr ⟨BitVec.eq_of_toNat_eq hf, hB⟩, rfl, hA, rfl⟩
  case h_2 hf =>
    obtain ⟨⟨hB, hAD⟩, h⟩ := Option.ite_none_right_eq_some.mp h
    cases h
    exact guarded_code_iff.mpr ⟨hm, fn8_iff.mpr ⟨BitVec.eq_of_toNat_eq hf, hB⟩, rfl, (zeros_iff.mp hAD).1, (zeros_iff.mp hAD).2⟩
  case h_3 => cases h

theorem encode_decReduction {x : BitVec 32} {i : Instr} (hm : x.extractLsb' 0 7 = 75#7) (h : decReduction x = some i) : encode i = some (.word x) := by
  unfold decReduction at h
  split at h
  case h_1 hf | h_2 hf | h_3 hf | h_4 hf | h_5 hf | h_6 hf | h_7 hf | h_8 hf =>
    obtain ⟨hB, h⟩ := Option.ite_none_right_eq_some.mp h
    cases h
    exact guarded_iff.mpr ⟨hm, nibbles_iff.mpr ⟨BitVec.eq_of_toNat_eq hf, rfl, hB⟩, rfl, rfl, rfl⟩
  case h_9 => cases h

theorem encode_decPlate {x : BitVec 32} {i : Instr} (hm : x.extractLsb' 0 7 = 81#7) (h : decPlate x = some i) : encode i = some (.word x) := by
  unfold decPlate at h
  split at h
  case h_1 hf | h_2 hf =>
    cases h
    exact guarded_iff.mpr ⟨hm, nibbles_iff.mpr ⟨BitVec.eq_of_toNat_eq hf, rfl, rfl⟩, rfl, rfl, rfl⟩
  case h_3 => cases h

theorem encode_decStream {x : BitVec 32} {i : Instr} (hm : x.extractLsb' 0 7 = 83#7) (h : decStream x = some i) : encode i = some (.word x) := by
  unfold decStream at h
  split at h
  case h_1 hf | h_2 hf | h_3 hf | h_4 hf =>
    cases h
    exact guarded_iff.mpr ⟨hm, nibbles_iff.mpr ⟨BitVec.eq_of_toNat_eq hf, rfl, rfl⟩, rfl, rfl, rfl⟩
  case h_5 => cases h

theorem encode_decMatrix {x : BitVec 32} {i : Instr} (hm : x.extractLsb' 0 7 = 87#7) (h : decMatrix x = some i) : encode i = some (.word x) := by
  unfold decMatrix at h
  split at h
  case h_1 hf =>
    obtain ⟨⟨hB, hAD⟩, h⟩ := Option.ite_none_right_eq_some.mp h
    cases h
    exact guarded_code_iff.mpr ⟨hm, nibbles_iff.mpr ⟨BitVec.eq_of_toNat_eq hf, rfl, hB⟩, rfl, (zeros_iff.mp hAD).1, (zeros_iff.mp hAD).2⟩
  case h_2 hf =>
    obtain ⟨⟨hB, hD⟩, h⟩ := Option.ite_none_right_eq_some.mp h
    cases h
    exact guarded_iff.mpr ⟨hm, nibbles_iff.mpr ⟨BitVec.eq_of_toNat_eq hf, rfl, hB⟩, rfl, rfl, hD⟩
  case h_3 hf | h_4 hf =>
    cases h
    exact guarded_iff.mpr ⟨hm, nibbles_iff.mpr ⟨BitVec.eq_of_toNat_eq hf, rfl, rfl⟩, rfl, rfl, rfl⟩
  case h_5 hf =>
    obtain ⟨hB, h⟩ := Option.ite_none_right_eq_some.mp h
    cases h
    exact guarded_iff.mpr ⟨hm, nibbles_iff.mpr ⟨BitVec.eq_of_toNat_eq hf, rfl, hB⟩, rfl, rfl, rfl⟩
  case h_6 hf =>
    obtain ⟨⟨hB, hAD⟩, h⟩ := Option.ite_none_right_eq_some.mp h
    cases h
    exact guarded_code_iff.mpr ⟨hm, nibbles_iff.mpr ⟨BitVec.eq_of_toNat_eq hf, rfl, hB⟩, rfl, (zeros_iff.mp hAD).1, (zeros_iff.mp hAD).2⟩
  case h_7 hf =>
    obtain ⟨hA, h⟩ := Option.ite_none_right_eq_some.mp h
    cases h
    exact guarded_code_iff.mpr ⟨hm, nibbles_iff.mpr ⟨BitVec.eq_of_toNat_eq hf, rfl, rfl⟩, rfl, hA, rfl⟩
  case h_8 => cases h

theorem encode_decCopy {x : BitVec 32} {i : Instr} (hm : x.extractLsb' 0 7 = 89#7) (h : decCopy x = some i) : encode i = some (.word x) := by
  unfold decCopy at h
  split at h
  case h_1 hf =>
    obtain ⟨⟨hB, hA⟩, h⟩ := Option.ite_none_right_eq_some.mp h
    cases h
    exact guarded_code_iff.mpr ⟨hm, nibbles_iff.mpr ⟨BitVec.eq_of_toNat_eq hf, rfl, hB⟩, rfl, hA, rfl⟩
  case h_2 hf =>
    obtain ⟨hA, h⟩ := Option.ite_none_right_eq_some.mp h
    cases h
    exact guarded_code_iff.mpr ⟨hm, nibbles_iff.mpr ⟨BitVec.eq_of_toNat_eq hf, rfl, rfl⟩, rfl, hA, rfl⟩
  case h_3 hf =>
    obtain ⟨hB, h⟩ := Option.ite_none_right_eq_some.mp h
    cases h
    exact guarded_iff.mpr ⟨hm, nibbles_iff.mpr ⟨BitVec.eq_of_toNat_eq hf, rfl, hB⟩, rfl, rfl, rfl⟩
  case h_4 => cases h

theorem encode_decConversion {x : BitVec 32} {i : Instr} (hm : x.extractLsb' 0 7 = 91#7) (h : decConversion x = some i) : encode i = some (.word x) := by
  unfold decConversion at h
  split at h
  case h_1 hf =>
    obtain ⟨⟨hB, hA⟩, h⟩ := Option.ite_none_right_eq_some.mp h
    cases h
    exact guarded_code_iff.mpr ⟨hm, nibbles_iff.mpr ⟨BitVec.eq_of_toNat_eq hf, rfl, hB⟩, rfl, hA, rfl⟩
  case h_2 hf =>
    obtain ⟨hB, h⟩ := Option.ite_none_right_eq_some.mp h
    cases h
    exact guarded_iff.mpr ⟨hm, nibbles_iff.mpr ⟨BitVec.eq_of_toNat_eq hf, rfl, hB⟩, rfl, rfl, rfl⟩
  case h_3 => cases h

theorem encode_decScan {x : BitVec 32} {i : Instr} (hm : x.extractLsb' 0 7 = 93#7) (h : decScan x = some i) : encode i = some (.word x) := by
  unfold decScan at h
  split at h
  case h_1 hf =>
    cases h
    exact guarded_iff.mpr ⟨hm, nibbles_iff.mpr ⟨BitVec.eq_of_toNat_eq hf, rfl, rfl⟩, rfl, rfl, rfl⟩
  case h_2 => cases h

theorem encode_decSemaphore {x : BitVec 32} {i : Instr} (hm : x.extractLsb' 0 7 = 95#7) (h : decSemaphore x = some i) : encode i = some (.word x) := by
  unfold decSemaphore at h
  split at h
  case h_1 hf =>
    obtain ⟨hD, h⟩ := Option.ite_none_right_eq_some.mp h
    cases h
    exact guarded_iff.mpr ⟨hm, fn8_iff.mpr ⟨BitVec.eq_of_toNat_eq hf, rfl⟩, rfl, rfl, hD⟩
  case h_2 hf =>
    obtain ⟨hB, h⟩ := Option.ite_none_right_eq_some.mp h
    cases h
    exact guarded_iff.mpr ⟨hm, fn8_iff.mpr ⟨BitVec.eq_of_toNat_eq hf, hB⟩, rfl, rfl, rfl⟩
  case h_3 hf =>
    obtain ⟨⟨hB, hD⟩, h⟩ := Option.ite_none_right_eq_some.mp h
    cases h
    exact guarded_iff.mpr ⟨hm, fn8_iff.mpr ⟨BitVec.eq_of_toNat_eq hf, hB⟩, rfl, rfl, hD⟩
  case h_4 => cases h

theorem encode_decQueue {x : BitVec 32} {i : Instr} (hm : x.extractLsb' 0 7 = 97#7) (h : decQueue x = some i) : encode i = some (.word x) := by
  unfold decQueue at h
  split at h
  case h_1 hf | h_2 hf | h_3 hf =>
    cases h
    exact guarded_iff.mpr ⟨hm, fn8_iff.mpr ⟨BitVec.eq_of_toNat_eq hf, rfl⟩, rfl, rfl, rfl⟩
  case h_4 => cases h

theorem encode_decWork {x : BitVec 32} {i : Instr} (hm : x.extractLsb' 0 7 = 99#7) (h : decWork x = some i) : encode i = some (.word x) := by
  unfold decWork at h
  split at h
  case h_1 hf | h_2 hf =>
    obtain ⟨hD, h⟩ := Option.ite_none_right_eq_some.mp h
    cases h
    exact guarded_iff.mpr ⟨hm, nibbles_iff.mpr ⟨BitVec.eq_of_toNat_eq hf, rfl, rfl⟩, rfl, rfl, hD⟩
  case h_3 => cases h

theorem encode_decLaunch {x : BitVec 32} {i : Instr} (hm : x.extractLsb' 0 7 = 101#7) (h : decLaunch x = some i) : encode i = some (.word x) := by
  unfold decLaunch at h
  split at h
  case h_1 hf =>
    obtain ⟨hD, h⟩ := Option.ite_none_right_eq_some.mp h
    cases h
    exact guarded_iff.mpr ⟨hm, nibbles_iff.mpr ⟨BitVec.eq_of_toNat_eq hf, rfl, rfl⟩, rfl, rfl, hD⟩
  case h_2 hf =>
    cases h
    exact guarded_iff.mpr ⟨hm, nibbles_iff.mpr ⟨BitVec.eq_of_toNat_eq hf, rfl, rfl⟩, rfl, rfl, rfl⟩
  case h_3 => cases h

theorem encode_decList {x : BitVec 32} {i : Instr} (hm : x.extractLsb' 0 7 = 113#7) (h : decList x = some i) : encode i = some (.word x) := by
  unfold decList at h
  split at h
  case h_1 hf =>
    obtain ⟨hD, h⟩ := Option.ite_none_right_eq_some.mp h
    cases h
    exact guarded_iff.mpr ⟨hm, nibbles_iff.mpr ⟨BitVec.eq_of_toNat_eq hf, rfl, rfl⟩, rfl, rfl, hD⟩
  case h_2 hf | h_3 hf | h_4 hf =>
    cases h
    exact guarded_iff.mpr ⟨hm, nibbles_iff.mpr ⟨BitVec.eq_of_toNat_eq hf, rfl, rfl⟩, rfl, rfl, rfl⟩
  case h_5 hf =>
    obtain ⟨hB, h⟩ := Option.ite_none_right_eq_some.mp h
    cases h
    exact guarded_iff.mpr ⟨hm, nibbles_iff.mpr ⟨BitVec.eq_of_toNat_eq hf, rfl, hB⟩, rfl, rfl, rfl⟩
  case h_6 => cases h

theorem encode_decTraversal {x : BitVec 32} {i : Instr} (hm : x.extractLsb' 0 7 = 115#7) (h : decTraversal x = some i) : encode i = some (.word x) := by
  unfold decTraversal at h
  split at h
  case h_1 hf =>
    cases h
    exact guarded_iff.mpr ⟨hm, nibbles_iff.mpr ⟨BitVec.eq_of_toNat_eq hf, rfl, rfl⟩, rfl, rfl, rfl⟩
  case h_2 hf =>
    obtain ⟨hD, h⟩ := Option.ite_none_right_eq_some.mp h
    cases h
    exact guarded_iff.mpr ⟨hm, nibbles_iff.mpr ⟨BitVec.eq_of_toNat_eq hf, rfl, rfl⟩, rfl, rfl, hD⟩
  case h_3 => cases h

theorem encode_decScene {x : BitVec 32} {i : Instr} (hm : x.extractLsb' 0 7 = 117#7) (h : decScene x = some i) : encode i = some (.word x) := by
  unfold decScene at h
  split at h
  case h_1 hf | h_2 hf | h_3 hf | h_4 hf =>
    cases h
    exact guarded_iff.mpr ⟨hm, nibbles_iff.mpr ⟨BitVec.eq_of_toNat_eq hf, rfl, rfl⟩, rfl, rfl, rfl⟩
  case h_5 => cases h

theorem encode_decRaster {x : BitVec 32} {i : Instr} (hm : x.extractLsb' 0 7 = 121#7) (h : decRaster x = some i) : encode i = some (.word x) := by
  unfold decRaster at h
  split at h
  case h_1 hf =>
    obtain ⟨hD, h⟩ := Option.ite_none_right_eq_some.mp h
    cases h
    exact guarded_iff.mpr ⟨hm, nibbles_iff.mpr ⟨BitVec.eq_of_toNat_eq hf, rfl, rfl⟩, rfl, rfl, hD⟩
  case h_2 hf =>
    obtain ⟨hAD, h⟩ := Option.ite_none_right_eq_some.mp h
    cases h
    exact guarded_code_iff.mpr ⟨hm, nibbles_iff.mpr ⟨BitVec.eq_of_toNat_eq hf, rfl, rfl⟩, rfl, (zeros_iff.mp hAD).1, (zeros_iff.mp hAD).2⟩
  case h_3 hf =>
    obtain ⟨hA, h⟩ := Option.ite_none_right_eq_some.mp h
    cases h
    exact guarded_code_iff.mpr ⟨hm, nibbles_iff.mpr ⟨BitVec.eq_of_toNat_eq hf, rfl, rfl⟩, rfl, hA, rfl⟩
  case h_4 hf =>
    obtain ⟨hD, h⟩ := Option.ite_none_right_eq_some.mp h
    cases h
    exact guarded_iff.mpr ⟨hm, nibbles_iff.mpr ⟨BitVec.eq_of_toNat_eq hf, rfl, rfl⟩, rfl, rfl, hD⟩
  case h_5 => cases h

theorem encode_decTexture {x : BitVec 32} {i : Instr} (hm : x.extractLsb' 0 7 = 123#7) (h : decTexture x = some i) : encode i = some (.word x) := by
  unfold decTexture at h
  split at h
  case h_1 hf | h_2 hf =>
    cases h
    exact guarded_iff.mpr ⟨hm, nibbles_iff.mpr ⟨BitVec.eq_of_toNat_eq hf, rfl, rfl⟩, rfl, rfl, rfl⟩
  case h_3 => cases h

theorem encode_decSurface {x : BitVec 32} {i : Instr} (hm : x.extractLsb' 0 7 = 125#7) (h : decSurface x = some i) : encode i = some (.word x) := by
  unfold decSurface at h
  split at h
  case h_1 hf | h_2 hf =>
    obtain ⟨⟨hB, hD⟩, h⟩ := Option.ite_none_right_eq_some.mp h
    cases h
    exact guarded_iff.mpr ⟨hm, nibbles_iff.mpr ⟨BitVec.eq_of_toNat_eq hf, rfl, hB⟩, rfl, rfl, hD⟩
  case h_3 => cases h

/-- The seven low bits of a word, from its major and its bit 0 (R17). -/
theorem low_eq {x : BitVec 32} {n : Nat} (hm : (x.extractLsb' 1 6).toNat = n) (h0 : x.getLsbD 0 = true) : x.extractLsb' 0 7 = BitVec.ofNat 6 n ++ 1#1 := by
  refine (extract_eq_append_iff 0 6 1 x _ _).mpr ⟨?_, (extract_eq_ofBool_iff x true).mpr h0⟩
  rw [← hm, BitVec.ofNat_toNat, BitVec.setWidth_eq]

/-- A word that decodes is the word of what it decodes to (R17, R18, R34-R36). -/
theorem encode_decodeWord {x : BitVec 32} {i : Instr} (h0 : x.getLsbD 0 = true) (h : decodeWord x = some i) : encode i = some (.word x) := by
  unfold decodeWord at h
  split at h
  case h_1 hm => exact encode_decExtension (low_eq hm h0) h
  case h_2 hm => exact encode_decInteger (low_eq hm h0) h
  case h_3 hm => exact encode_decAddi (low_eq hm h0) h
  case h_4 hm => exact encode_decAndi (low_eq hm h0) h
  case h_5 hm => exact encode_decOri (low_eq hm h0) h
  case h_6 hm => exact encode_decXori (low_eq hm h0) h
  case h_7 hm => exact encode_decShiftImmediate (low_eq hm h0) h
  case h_8 hm => exact encode_decCmpi (low_eq hm h0) h
  case h_9 hm => exact encode_decPacked (low_eq hm h0) h
  case h_10 hm => exact encode_decCompare (low_eq hm h0) h
  case h_11 hm => exact encode_decPredicate (low_eq hm h0) h
  case h_12 hm => exact encode_decBranch (low_eq hm h0) h
  case h_13 hm => exact encode_decJump (low_eq hm h0) h
  case h_14 hm => exact encode_decControl (low_eq hm h0) h
  case h_15 hm => exact encode_decSystem (low_eq hm h0) h
  case h_16 hm => exact encode_decThread (low_eq hm h0) h
  case h_17 hm => exact encode_decBarrier (low_eq hm h0) h
  case h_18 hm => exact encode_decFloat (low_eq hm h0) h
  case h_19 hm => exact encode_decConvert (low_eq hm h0) h
  case h_20 hm => exact encode_decLoad (low_eq hm h0) h
  case h_21 hm => exact encode_decStore (low_eq hm h0) h
  case h_22 hm => exact encode_decFullLoad (low_eq hm h0) h
  case h_23 hm => exact encode_decFullStore (low_eq hm h0) h
  case h_24 hm => exact encode_decAmo (low_eq hm h0) h
  case h_25 hm => exact encode_decCache (low_eq hm h0) h
  case h_26 hm => exact encode_decFullState (low_eq hm h0) h
  case h_27 hm => exact encode_decMessage (low_eq hm h0) h
  case h_28 hm => exact encode_decVecInteger (low_eq hm h0) h
  case h_29 hm => exact encode_decVecFloat (low_eq hm h0) h
  case h_30 hm => exact encode_decVecMemory (low_eq hm h0) h
  case h_31 hm => exact encode_decVecMode (low_eq hm h0) h
  case h_32 hm => exact encode_decVecFunction (low_eq hm h0) h
  case h_33 hm => exact encode_decReduction (low_eq hm h0) h
  case h_34 hm => exact encode_decPermute (low_eq hm h0) h
  case h_35 hm => exact encode_decPlate (low_eq hm h0) h
  case h_36 hm => exact encode_decStream (low_eq hm h0) h
  case h_37 hm => exact encode_decSparse (low_eq hm h0) h
  case h_38 hm => exact encode_decMatrix (low_eq hm h0) h
  case h_39 hm => exact encode_decCopy (low_eq hm h0) h
  case h_40 hm => exact encode_decConversion (low_eq hm h0) h
  case h_41 hm => exact encode_decScan (low_eq hm h0) h
  case h_42 hm => exact encode_decSemaphore (low_eq hm h0) h
  case h_43 hm => exact encode_decQueue (low_eq hm h0) h
  case h_44 hm => exact encode_decWork (low_eq hm h0) h
  case h_45 hm => exact encode_decLaunch (low_eq hm h0) h
  case h_46 hm => exact encode_decTiming (low_eq hm h0) h
  case h_47 hm => exact encode_decList (low_eq hm h0) h
  case h_48 hm => exact encode_decTraversal (low_eq hm h0) h
  case h_49 hm => exact encode_decScene (low_eq hm h0) h
  case h_50 hm => exact encode_decRaster (low_eq hm h0) h
  case h_51 hm => exact encode_decTexture (low_eq hm h0) h
  case h_52 hm => exact encode_decSurface (low_eq hm h0) h
  case h_53 => cases h

end Sys2Proof

/-!
SUPPORT. Halfwords as rows of fields (R31), and the decoder of the 16-bit forms against the encoder.
-/

namespace Sys2Proof

/-! ### Rows -/

section
variable {x : BitVec 16} {d m : BitVec 4}

theorem some_half_iff (y x : BitVec 16) : some (Encoding.half y) = some (Encoding.half x) ↔ y = x := by simp

/-- A halfword: seven bits of its own, D, MAJ16 and bit 0. -/
theorem half_iff {top : BitVec 7} : some (Encoding.half (top ++ d ++ m ++ 0#1)) = some (.half x) ↔
    (x.getLsbD 0 = false ∧ x.extractLsb' 1 4 = m) ∧ top = x.extractLsb' 9 7 ∧ x.extractLsb' 5 4 = d := by
  rw [some_half_iff, eq_iff_eq_extract]
  simp only [append_eq_extract_iff]
  rw [show (0#1 : BitVec 1) = BitVec.ofBool false from rfl]
  simp only [eq_extract_comm, extract_eq_ofBool_iff]
  tauto

/-- A compressed jump: its offset stands where D and the seven bits do. -/
theorem half_jump_iff {o : BitVec 11} : some (Encoding.half (o ++ m ++ 0#1)) = some (.half x) ↔
    (x.getLsbD 0 = false ∧ x.extractLsb' 1 4 = m) ∧ x.extractLsb' 5 11 = o := by
  rw [some_half_iff, eq_iff_eq_extract]
  simp only [append_eq_extract_iff]
  rw [show (0#1 : BitVec 1) = BitVec.ofBool false from rfl]
  simp only [eq_extract_comm, extract_eq_ofBool_iff]
  tauto

/-- The seven bits of a form with two registers. -/
theorem half_pair_iff {c : BitVec 3} {a : BitVec 4} : c ++ a = x.extractLsb' 9 (3 + 4) ↔ x.extractLsb' 13 3 = c ∧ x.extractLsb' 9 4 = a := by
  rw [append_eq_extract_iff, eq_extract_comm, eq_extract_comm]

/-- The seven bits of a compressed load or store: a zero bit, the offset and the base. -/
theorem half_access_iff {c : BitVec 1} {o a : BitVec 3} : c ++ o ++ a = x.extractLsb' 9 (1 + 3 + 3) ↔ x.extractLsb' 15 1 = c ∧ x.extractLsb' 12 3 = o ∧ x.extractLsb' 9 3 = a := by
  simp only [append_eq_extract_iff]
  simp only [eq_extract_comm, and_assoc]

end

/-! ### The decoder of the 16-bit forms -/

/-- The halfword of an instruction decodes to it. -/
theorem decodeHalf_encode {i : Instr} {x : BitVec 16} (h : encode i = some (.half x)) : decodeHalf x = some i := by
  cases i with
  | cMov | cAdd | cSub =>
    obtain ⟨⟨-, hm⟩, ht, rfl⟩ := half_iff.mp h
    obtain ⟨h13, rfl⟩ := half_pair_iff.mp ht
    rw [decodeHalf, hm]; exact if_pos h13
  | cAddi | cLdi | cBr | cShli | cPush | cPop =>
    obtain ⟨⟨-, hm⟩, rfl, rfl⟩ := half_iff.mp h
    rw [decodeHalf, hm]; rfl
  | cLd | cSt =>
    obtain ⟨⟨-, hm⟩, ht, rfl⟩ := half_iff.mp h
    obtain ⟨h15, rfl, rfl⟩ := half_access_iff.mp ht
    rw [decodeHalf, hm]; exact if_pos h15
  | cJ =>
    obtain ⟨⟨-, hm⟩, rfl⟩ := half_jump_iff.mp h
    rw [decodeHalf, hm]; rfl
  | cCmp =>
    obtain ⟨⟨-, hm⟩, ht, rfl⟩ := half_iff.mp h
    obtain ⟨rfl, rfl⟩ := half_pair_iff.mp ht
    rw [decodeHalf, hm]; rfl
  | cNop | cYield | cQuit =>
    obtain ⟨⟨-, hm⟩, ht, hd⟩ := half_iff.mp h
    rw [decodeHalf, hm, ← ht]; exact if_pos hd
  | _ => cases h

/-- A halfword that decodes is the one of what it decodes to. -/
theorem encode_decodeHalf {i : Instr} {x : BitVec 16} (h0 : x.getLsbD 0 = false) (h : decodeHalf x = some i) : encode i = some (.half x) := by
  unfold decodeHalf at h
  split at h
  case h_1 hm | h_2 hm | h_3 hm =>
    obtain ⟨h13, h⟩ := Option.ite_none_right_eq_some.mp h
    cases h
    exact half_iff.mpr ⟨⟨h0, BitVec.eq_of_toNat_eq hm⟩, half_pair_iff.mpr ⟨h13, rfl⟩, rfl⟩
  case h_4 hm | h_5 hm | h_8 hm | h_11 hm | h_13 hm | h_14 hm =>
    cases h
    exact half_iff.mpr ⟨⟨h0, BitVec.eq_of_toNat_eq hm⟩, rfl, rfl⟩
  case h_6 hm | h_7 hm =>
    obtain ⟨h15, h⟩ := Option.ite_none_right_eq_some.mp h
    cases h
    exact half_iff.mpr ⟨⟨h0, BitVec.eq_of_toNat_eq hm⟩, half_access_iff.mpr ⟨h15, rfl, rfl⟩, rfl⟩
  case h_9 hm =>
    cases h
    exact half_jump_iff.mpr ⟨⟨h0, BitVec.eq_of_toNat_eq hm⟩, rfl⟩
  case h_10 hm =>
    cases h
    exact half_iff.mpr ⟨⟨h0, BitVec.eq_of_toNat_eq hm⟩, half_pair_iff.mpr ⟨rfl, rfl⟩, rfl⟩
  case h_12 hm =>
    split at h
    case h_4 => cases h
    all_goals
      rename_i hf
      obtain ⟨hd, h⟩ := Option.ite_none_right_eq_some.mp h
      cases h
      exact half_iff.mpr ⟨⟨h0, BitVec.eq_of_toNat_eq hm⟩, (BitVec.eq_of_toNat_eq hf).symm, hd⟩
  case h_15 => cases h

/-! ### The length bit (R14) -/

theorem bit_of_half {i : Instr} {x : BitVec 16} (h : encode i = some (.half x)) : x.getLsbD 0 = false := by
  cases i with
  | cMov | cAdd | cSub | cAddi | cLdi | cLd | cSt | cBr | cJ | cCmp | cShli | cNop | cYield | cQuit | cPush | cPop =>
    cases h
    exact Laws.Encodes.half_low _
  | _ => cases h

theorem bit_of_word {i : Instr} {x : BitVec 32} (h : encode i = some (.word x)) : x.getLsbD 0 = true := by
  cases i with
  | cMov | cAdd | cSub | cAddi | cLdi | cLd | cSt | cBr | cJ | cCmp | cShli | cNop | cYield | cQuit | cPush | cPop => cases h
  | yield | yieldIf1 | yieldIf2 | yieldIf3 | yieldIf4 | yieldIf5 | yieldIf6 | yieldIf7 | yieldIf8 | yieldIf9 | yieldIf10 | yieldIf11 | yieldIf12 | yieldIf13
    | yieldIf14 | yieldIf15 | yieldUnless1 | yieldUnless2 | yieldUnless3 | yieldUnless4 | yieldUnless5 | yieldUnless6 | yieldUnless7 | yieldUnless8
    | yieldUnless9 | yieldUnless10 | yieldUnless11 | yieldUnless12 | yieldUnless13 | yieldUnless14 | yieldUnless15 =>
    cases h
    rfl
  | _ =>
    cases h <;> exact Laws.Encodes.word_low _ _ rfl

/-! ### Bytes -/

theorem half_of_bytes (x : BitVec 16) : x.extractLsb' 8 8 ++ x.extractLsb' 0 8 = x :=
  (BitVec.extractLsb'_append_extractLsb'_eq_extractLsb' rfl).trans BitVec.extractLsb'_eq_self

theorem bytes_of_half (b1 b0 : Byte) : (Encoding.half (b1 ++ b0)).bytes = [b0, b1] := by
  rw [Encoding.bytes, BitVec.extractLsb'_append_eq_left, BitVec.extractLsb'_append_eq_right]

theorem word_of_bytes (x : BitVec 32) : x.extractLsb' 24 8 ++ x.extractLsb' 16 8 ++ x.extractLsb' 8 8 ++ x.extractLsb' 0 8 = x := by
  refine (?_ : _ = x.extractLsb' 0 (8 + 8 + 8 + 8)).trans BitVec.extractLsb'_eq_self
  simp only [append_eq_extract_iff, and_self]

theorem bytes_of_word (b3 b2 b1 b0 : Byte) : (Encoding.word (b3 ++ b2 ++ b1 ++ b0)).bytes = [b0, b1, b2, b3] := by
  generalize hx : b3 ++ b2 ++ b1 ++ b0 = x
  have h := (eq_iff_eq_extract _ x).mp hx
  simp only [append_eq_extract_iff] at h
  obtain ⟨⟨⟨rfl, rfl⟩, rfl⟩, rfl⟩ := h
  rfl

theorem isWide_bytes (b1 b0 : Byte) : isWide (b1 ++ b0) = b0.getLsbD 0 := by
  rw [isWide, BitVec.getLsbD_append]
  rfl

theorem accept_ok_iff {o : Option Instr} {i : Instr} : accept o = .ok i ↔ o = some i ∧ i.wf = true := by
  cases o with
  | none => simp [accept]
  | some j =>
    rw [accept, Option.some.injEq]
    split
    case isTrue hj => exact ⟨by rintro ⟨⟩; exact ⟨rfl, hj⟩, by rintro ⟨rfl, -⟩; rfl⟩
    case isFalse hj => exact ⟨by rintro ⟨⟩, by rintro ⟨rfl, h⟩; exact absurd h hj⟩

theorem decode32_ok_iff {x : BitVec 32} {i : Instr} : decode32 x = .ok i ↔ encode i = some (.word x) ∧ i.wf = true := by
  rw [decode32]
  split
  case isTrue h0 =>
    rw [accept_ok_iff]
    exact ⟨fun ⟨h, hw⟩ => ⟨encode_decodeWord h0 h, hw⟩, fun ⟨h, hw⟩ => ⟨decodeWord_encode hw h, hw⟩⟩
  case isFalse h0 => exact ⟨by rintro ⟨⟩, fun ⟨h, _⟩ => absurd (bit_of_word h) h0⟩

/-- The halfword 0x0000 would be `C.MOV r0, r0`, which is not well formed. -/
theorem half_ne_zero {x : BitVec 16} {i : Instr} (h : encode i = some (.half x)) (hw : i.wf = true) : x ≠ 0 := by
  rintro rfl
  cases (decodeHalf_encode h).symm.trans (show decodeHalf 0 = some (.cMov 0 0) from rfl)
  cases hw

theorem decode16_ok_iff {x : BitVec 16} {i : Instr} : decode16 x = .ok i ↔ encode i = some (.half x) ∧ i.wf = true := by
  rw [decode16]
  split
  case isTrue h0 => exact ⟨by rintro ⟨⟩, fun ⟨h, hw⟩ => absurd h0 (half_ne_zero h hw)⟩
  case isFalse =>
    split
    case isTrue h0 => exact ⟨by rintro ⟨⟩, fun ⟨h, _⟩ => absurd h0 (by rw [bit_of_half h]; decide)⟩
    case isFalse h0 =>
      rw [accept_ok_iff]
      exact ⟨fun ⟨h, hw⟩ => ⟨encode_decodeHalf (by simpa using h0) h, hw⟩, fun ⟨h, hw⟩ => ⟨decodeHalf_encode h, hw⟩⟩

theorem map_pair_eq_ok {r : Except Reject Instr} {l rest : List Byte} {i : Instr} : r.map (·, l) = .ok (i, rest) ↔ r = .ok i ∧ l = rest := by
  cases r with
  | error => simp [Except.map]
  | ok => simp [Except.map]

end Sys2Proof

namespace Sys2Proof.Claims

/-- Settles O1: the decoder reads each format's fields back, and the length bit tells a word from a halfword. -/
theorem decodeEncode : Obligations.DecodeEncode := by
  intro i w rest hwf h
  cases w with
  | half x =>
    have hn : isWide (x.extractLsb' 8 8 ++ x.extractLsb' 0 8) = false := by rw [half_of_bytes]; exact bit_of_half h
    simp only [Encoding.bytes, List.cons_append, List.nil_append, decode]
    rw [hn, if_neg Bool.false_ne_true, half_of_bytes, map_pair_eq_ok]
    exact ⟨decode16_ok_iff.mpr ⟨h, hwf⟩, rfl⟩
  | word x =>
    have hn : isWide (x.extractLsb' 8 8 ++ x.extractLsb' 0 8) = true := by
      rw [isWide_bytes, BitVec.getLsbD_extractLsb']; simpa using bit_of_word h
    simp only [Encoding.bytes, List.cons_append, List.nil_append, decode]
    rw [if_pos hn, word_of_bytes, map_pair_eq_ok]
    exact ⟨decode32_ok_iff.mpr ⟨h, hwf⟩, rfl⟩

/-- Settles O2: the encoder writes each format's fields back, so the bytes that were read are those of the encoding. -/
theorem encodeDecode : Obligations.EncodeDecode := by
  intro bytes rest i h
  unfold decode at h
  split at h
  case h_1 b0 b1 l =>
    split at h
    case isTrue =>
      split at h
      case h_1 b2 b3 l =>
        obtain ⟨hd, rfl⟩ := map_pair_eq_ok.mp h
        obtain ⟨he, hwf⟩ := decode32_ok_iff.mp hd
        exact ⟨hwf, _, he, by rw [bytes_of_word]; rfl⟩
      case h_2 => cases h
    case isFalse =>
      obtain ⟨hd, rfl⟩ := map_pair_eq_ok.mp h
      obtain ⟨he, hwf⟩ := decode16_ok_iff.mp hd
      exact ⟨hwf, _, he, by rw [bytes_of_half]; rfl⟩
  case h_2 => cases h

end Sys2Proof.Claims

/-!
SUPPORT. Operations and the requests that they wait for: what ends them, in the terms of the statements (R23, R164, R171-R173).
-/

namespace Sys2Proof.Machine

open Sys2Proof.Claims

/-! ### Maps -/

theorem mapPut_of_mapGet {α : Type} {k : Nat} {x : α} : ∀ {m : NatMap α}, mapGet k m = some x → mapPut k x m = m
  | (j, y) :: r, h => by
    unfold mapGet at h
    split at h
    case isTrue hj =>
      cases h
      simp [mapPut, hj]
    case isFalse hj =>
      split at h
      · cases h
      · rw [mapPut, if_neg ‹_›, if_neg (Ne.symm hj), mapPut_of_mapGet h]

theorem mapDel_mapPut {α : Type} (k : Nat) (x : α) : ∀ m : NatMap α, mapDel k (mapPut k x m) = mapDel k m
  | [] => by simp [mapPut, mapDel]
  | (j, y) :: r => by
    rcases lt_trichotomy k j with h | h | h
    · simp [mapPut, mapDel, h]
    · subst h
      simp [mapPut, mapDel]
    · simp [mapPut, mapDel, Nat.lt_asymm h, Nat.ne_of_gt h, mapDel_mapPut k x r]

/-- The state with a thread in its slot. -/
def State.withThread (s : State) (k : Nat) (t : Thread) : State := { s with threads := mapPut k t s.threads }

@[simp] theorem withThread_thread? (s : State) (k : Nat) (t : Thread) : (s.withThread k t).thread? k = some t := mapGet_mapPut_same _ _ _

@[simp] theorem withThread_withThread (s : State) (k : Nat) (t u : Thread) : (s.withThread k t).withThread k u = s.withThread k u := by
  simp only [State.withThread, mapPut_mapPut]

/-- Putting back the thread that a slot holds changes nothing. -/
theorem withThread_self {s : State} {k : Nat} {t : Thread} (ht : s.thread? k = some t) : s.withThread k t = s := by
  rw [State.withThread, mapPut_of_mapGet ht]

/-- The state with a request as it now stands, and without one that has been performed. -/
def State.withReq (s : State) (i : Nat) (r : Req) : State := { s with reqs := mapPut i r s.reqs }
def State.withoutReq (s : State) (i : Nat) : State := { s with reqs := mapDel i s.reqs }

/-! ### Threads -/

theorem roused_eq_self {t : Thread} (h : ∀ w, t.status = .waiting w → w = .yield ∨ w = .quit ∨ w = .trapEntry) : roused t = t := by
  unfold roused
  split
  case h_4 w hy hq he hs =>
    rcases h w hs with rfl | rfl | rfl
    · exact (hy rfl).elim
    · exact (hq rfl).elim
    · exact (he rfl).elim
  all_goals rfl

theorem roused_of_waiting {t : Thread} {w : Wait} (hs : t.status = .waiting w) (hy : w ≠ .yield) (hq : w ≠ .quit) (he : w ≠ .trapEntry) :
    roused t = { t with status := .active } := by
  unfold roused
  split
  case h_4 => rfl
  all_goals simp_all

@[simp] theorem roused_ops (t : Thread) : (roused t).ops = t.ops := by unfold roused; split <;> rfl

theorem ends_rouse {k : Nat} {s : State} {t : Thread} {P : Unit → State → Prop} (ht : s.thread? k = some t)
    (h : P () (s.withThread k (roused t))) : Ends (rouse k) s P := by
  refine ends_look_bind ?_
  simp only [ht]
  split
  case h_4 w hy hq he hs =>
    rw [roused_of_waiting hs hy hq he] at h
    exact ends_modThread ht h
  all_goals
    rw [roused_eq_self (by simp_all), withThread_self ht] at h
    exact ends_pure h

theorem ends_finish {k op : Nat} {r : Result} {s : State} {t : Thread} {P : Unit → State → Prop} (ht : s.thread? k = some t)
    (h : P () (s.withThread k (finished op r t))) : Ends (finish k op r) s P := ends_modThread ht h

/-! ### Requests -/

/-- A request of a thread has been performed, and discards nothing. -/
theorem ends_performed {r : Req} {k : Nat} {s : State} {t : Thread} {P : Unit → State → Prop} (hw : r.who = .thread k) (ha : r.acq = false) (ht : s.thread? k = some t)
    (h : P () ((s.withoutReq r.id).withThread k (roused t))) : Ends (performed r) s P := by
  refine ends_emit_bind ?_
  rw [hw]
  refine ends_look_bind ?_
  rw [show ((Effect.req r.id none).apply s).thread? k = some t from ht, ha]
  exact ends_pure_bind (ends_rouse (s := s.withoutReq r.id) ht h)

/-- The request ends with register writes of its operation. -/
theorem ends_complete {r : Req} {ws : List RegWrite} {k : Nat} {s : State} {t : Thread} {P : Unit → State → Prop} (hw : r.who = .thread k) (ha : r.acq = false) (ht : s.thread? k = some t)
    (h : P () (performedWith s r.id k t r.op ws)) : Ends (complete r ws) s P := by
  refine ends_bind (ends_performed hw ha ht ?_)
  rw [hw]
  refine ends_finish (withThread_thread? _ _ _) ?_
  rwa [withThread_withThread]

/-- The request ends with a trap of its operation. -/
theorem ends_fail {r : Req} {cause : Cause} {addr info : Nat} {precise : PendOp → Bool} {exact : Bool} {k : Nat} {s : State} {t : Thread} {o : PendOp} {P : Unit → State → Prop}
    (hw : r.who = .thread k) (ht : s.thread? k = some t) (ho : t.ops.find? (·.id = r.op) = some o)
    (h : P () ((s.withoutReq r.id).withThread k (finished r.op { trap := some (opTrap o cause addr info (precise o)), exact := exact } (roused t)))) :
    Ends (fail r cause addr info precise exact) s P := by
  refine ends_bind (ends_performed (r := { r with acq := false }) hw rfl ht ?_)
  rw [hw]
  refine ends_look_bind ?_
  rw [withThread_thread?]
  simp only [roused_ops, ho]
  refine ends_finish (withThread_thread? _ _ _) ?_
  rwa [withThread_withThread]

theorem ends_modReq {i : Nat} {f : Req → Req} {s : State} {r : Req} {P : Unit → State → Prop} (hr : mapGet i s.reqs = some r)
    (h : P () (s.withReq i (f r))) : Ends (modReq i f) s P := by
  refine ends_look_bind ?_
  simp only [hr]
  exact ends_emit h

/-- Where the tile's count has passed `d` cycles, a request of a thread has waited that long. -/
theorem cyclesFrom_clock {s : State} {r : Req} {k since d : Nat} (hw : r.who = .thread k) (h : passed s r.tile since d) : cyclesFrom since (r.clock s) = d := by
  have hc : r.clock s = coreCycle s r.tile := by rw [Req.clock, hw]
  rw [hc, h.1, cyclesFrom_add _ _ h.2]

end Sys2Proof.Machine

/-!
CERTIFICATES. The events that end operations: writebacks, resends, and waits that expire (R23, R24, R171-R173).
-/

namespace Sys2Proof.Machine

open Sys2Proof.Claims

/-! ### Writebacks (R23) -/

@[simp] theorem applyWrite_status (t : Thread) (w : RegWrite) : (applyWrite t w).status = t.status := by
  cases w with
  | s => simp only [applyWrite]; split <;> simp
  | p | v | flags => simp [applyWrite]
  | w => rfl

@[simp] theorem applyWrite_due (t : Thread) (w : RegWrite) : (applyWrite t w).due = t.due := by
  cases w with
  | s => simp only [applyWrite]; split <;> simp
  | p | v | flags => simp [applyWrite]
  | w => rfl

/-- Register writes leave a thread's status and its due traps. -/
theorem foldl_applyWrite_status (ws : List RegWrite) (t : Thread) : (ws.foldl applyWrite t).status = t.status := by
  induction ws generalizing t with
  | nil => rfl
  | cons w ws ih => rw [List.foldl_cons, ih, applyWrite_status]

theorem foldl_applyWrite_due (ws : List RegWrite) (t : Thread) : (ws.foldl applyWrite t).due = t.due := by
  induction ws generalizing t with
  | nil => rfl
  | cons w ws ih => rw [List.foldl_cons, ih, applyWrite_due]

/-- A register write is delivered to a thread in its slot; one of a w register would go to its tile. -/
theorem ends_deliver {k : Nat} {w : RegWrite} {s : State} {t : Thread} {P : Unit → State → Prop} (ht : s.thread? k = some t) (hs : t.status ≠ .spilled) (hw : ∀ i x, w ≠ .w i x)
    (h : P () (s.withThread k (applyWrite t w))) : Ends (deliver k w) s P := by
  refine ends_look_bind ?_
  simp only [ht, if_neg hs]
  cases w with
  | s i x =>
    refine ends_modThread ht ?_
    have he : applyWrite t (.s i x) = t.writeS i x := by
      simp only [applyWrite, Thread.writeS]
      split <;> rfl
    rwa [he] at h
  | p i b => exact ends_modThread ht h
  | v i x => exact ends_modThread ht h
  | w i x => exact absurd rfl (hw i x)
  | flags f => exact ends_modThread ht h

theorem ends_deliver_all {k : Nat} {ws : List RegWrite} {s : State} {t : Thread} {P : Unit → State → Prop} (ht : s.thread? k = some t) (hs : t.status ≠ .spilled)
    (hw : ∀ i x, RegWrite.w i x ∉ ws) (h : P () (s.withThread k (ws.foldl applyWrite t))) : Ends (forEach ws (deliver k)) s P := by
  induction ws generalizing s t with
  | nil => exact ends_forEach_nil (by rwa [List.foldl_nil, withThread_self ht] at h)
  | cons w ws ih =>
    refine ends_forEach_cons (ends_deliver ht hs (fun i x hx => hw i x (hx ▸ List.mem_cons_self)) ?_)
    refine ih (withThread_thread? ..) ((applyWrite_status t w).symm ▸ hs) (fun i x hx => hw i x (List.mem_cons_of_mem _ hx)) ?_
    rwa [withThread_withThread]

/-- The traps that are due once an operation has landed. -/
def dueAfter (o : PendOp) (r : Result) (t : Thread) : List (Nat × TrapReq) :=
  match dueTrap o r with
  | some x => if t.status = .waiting .quit then t.due else assocPut o.id x t.due
  | none => t.due

/-- A thread as the writeback of an operation leaves it, before it is roused. -/
def wroteBack (o : PendOp) (r : Result) (t : Thread) : Thread := { landed o.id t with due := dueAfter o r t }

theorem ends_writeback {k : Nat} {o : PendOp} {r : Result} {s : State} {t : Thread} {P : Unit → State → Prop}
    (ht : s.thread? k = some t) (hs : t.status ≠ .spilled) (hw : ∀ i x, RegWrite.w i x ∉ r.writes) (ha : r.acquire = none)
    (h : P () (s.withThread k (roused (wroteBack o r (r.writes.foldl applyWrite t))))) : Ends (writeback k o.id o r) s P := by
  refine ends_bind (ends_deliver_all ht hs hw ?_)
  replace hs : (r.writes.foldl applyWrite t).status ≠ .spilled := foldl_applyWrite_status r.writes t ▸ hs
  generalize r.writes.foldl applyWrite t = u at h hs
  refine ends_look_bind ?_
  simp only [withThread_thread?, ha, if_neg hs]
  refine ends_bind (ends_emit (show Ends _ ((s.withThread k u).withThread k (wroteBack o r u)) P from ?_))
  rw [withThread_withThread]
  refine ends_pure_bind (ends_pure_bind (ends_rouse (withThread_thread? ..) ?_))
  rwa [withThread_withThread]

theorem dueAfter_foldl (o : PendOp) (r : Result) (ws : List RegWrite) (t : Thread) : dueAfter o r (ws.foldl applyWrite t) = dueAfter o r t := by
  simp only [dueAfter, foldl_applyWrite_status, foldl_applyWrite_due]

/-! ### Waits that expire (R172, R173) -/

theorem mem_mapPut {α : Type} {k : Nat} {x : α} {e : Nat × α} : ∀ {m : NatMap α}, e ∈ mapPut k x m → e = (k, x) ∨ e ∈ m
  | [], h => by simpa [mapPut] using h
  | (j, y) :: r, h => by
    unfold mapPut at h
    split at h
    · simpa using h
    · split at h
      · rcases List.mem_cons.mp h with h | h
        · exact .inl h
        · exact .inr (List.mem_cons_of_mem _ h)
      · rcases List.mem_cons.mp h with h | h
        · exact .inr (List.mem_cons.mpr (.inl h))
        · exact (mem_mapPut h).imp_right (List.mem_cons_of_mem _)

/-- A request that is on no list adds none to those that are parked at a home. -/
theorem listedAt_withReq {s : State} {sl i : Nat} {r : Req} (hst : ∀ e, r.stage ≠ .listed e) (h : listedAt s sl true = []) : listedAt (s.withReq i r) sl true = [] := by
  simp only [listedAt, List.filter_eq_nil_iff, List.mem_map] at h ⊢
  rintro q ⟨e, he, rfl⟩
  rcases mem_mapPut he with rfl | he
  · intro hb
    obtain ⟨-, hl⟩ := Bool.and_eq_true_iff.mp hb
    split at hl
    case h_1 e he => exact hst e he
    case h_2 => cases hl
  · exact h _ ⟨e, he, rfl⟩

/-- A home with none parked has none to take back. -/
theorem ends_unpark {r : Req} {s : State} {P : Unit → State → Prop} (hp : listedAt s r.slice true = []) (h : P () s) : Ends (unpark r) s P := by
  refine ends_look_bind ?_
  rw [hp]
  split
  · exact ends_pure h
  · exact ends_pure h

/-- A request that alone waits on its word's list, at a home with none parked, leaves it. -/
theorem ends_unlist {r : Req} {i : Nat} {s : State} {P : Unit → State → Prop} (hr : mapGet i s.reqs = some r) (hi : r.id = i) (hst : r.stage = .listed none)
    (hl : s.home r.homeKey = { list := [i] }) (hp : listedAt s r.slice true = [])
    (h : P () { s with homes := mapDel r.homeKey s.homes, reqs := mapPut i { r with stage := .sent } s.reqs }) : Ends (unlist r) s P := by
  subst hi
  refine ends_look_bind ?_
  have hgone : ({ s.home r.homeKey with list := (s.home r.homeKey).list.filter (· ≠ r.id) } : Home) = {} := by simp [hl]
  simp only [hr, Option.getD_some, hst, hgone]
  refine ends_bind (ends_emit (ends_bind (ends_modReq (s := { s with homes := mapDel r.homeKey s.homes }) hr (ends_unpark (listedAt_withReq (by simp) hp) h))))

end Sys2Proof.Machine

namespace Sys2Proof.Claims
open Sys2Proof.Machine

/-- Settles O44: each event changes the thread or the request that it acts on, and its rows say how. -/
theorem operationsEnd : Obligations.OperationsEnd := by
  intro s k t hs ht
  refine ⟨?_, ?_, ?_⟩
  · intro o ws trap sure hin hst ho hr hw
    dsimp only
    refine commit_eq (t := s.withThread k (roused { landed o.id (ws.foldl applyWrite t) with due := _ })) ?_
    rw [hin]
    refine ends_bind (ends_needThread ht ?_)
    simp only [ho, hr, Option.bind_some, Option.map_some]
    refine ends_writeback ht hst hw rfl ?_
    rw [wroteBack, dueAfter_foldl, dueAfter, dueTrap]
    cases trap <;> simp
  · intro i r since d hin hr hi hwho hst hp hd
    refine commit_eq (t := s.withReq i { r with stage := .sent, resends := r.resends + 1 }) ?_
    rw [hin]
    refine ends_bind (ends_needReq hr ?_)
    simp only [hst]
    exact ends_bind (ends_due (by simpa [cyclesFrom_clock hwho hp, Config.resendCycles] using hd) (ends_modReq hr rfl))
  · intro i r e hr hi hwho hst
    refine ⟨?_, ?_⟩
    · intro hin hf hw he hnf d hp hd
      refine commit_eq (t := s.withReq i { r with expiring := true }) ?_
      simp only [hin, hf]
      refine ends_bind (ends_due ?_ (ends_modReq (hi ▸ hr) (by rw [hi])))
      simp [hw, he, hnf, cyclesFrom_clock hwho hp, hd, Req.timed, hst]
    · intro o hin he hn hl hp ha ho
      subst hn
      refine commit_next ?_
      rw [hin]
      refine ends_bind (ends_needReq hr (ends_bind (ends_due (by simp [he, Req.timed, hst]) ?_)))
      simp only [hst]
      refine ends_pure_bind (ends_bind (ends_unlist hr hi hst hl hp (ends_fail hwho ht ho ⟨?_, ?_, rfl, ?_⟩)))
      · obtain ⟨-, -, -, -, -, -, -, -, -, -, -, -, -, -, hh, -⟩ := hs
        simp only [State.home, State.withThread, State.withoutReq, mapGet_mapDel_same _ _ none hh, Option.getD_none]
      · simp only [State.withThread, State.withoutReq, hi, mapDel_mapPut]
      · rw [withThread_thread?, opTrap]
        by_cases hla : o.la = 0 <;> simp [hla, mod64, wordOf]

end Sys2Proof.Claims

/-!
CERTIFICATE. The statement about loads and stores at their homes, which fails for one state: an `LDP` between its two words, on a page of MT 2, whose lower word is held as a number (`Stage.half`)
that the statement does not keep below 2^64. An `LDP` that has read its lower word holds eight bytes there, but the statement speaks of every number; the model joins both words into one, so
what exceeds 64 bits is carried into the upper register.
-/

namespace Sys2Proof.Machine

open Sys2Proof.Claims

/-- The thread of the refutation, in slot 0 of core 3 of tile 0, with its `LDP` in flight. -/
def overflowThread : Thread := { freshThread 5 0 0 0x2000 with
  ops := [⟨50, 0x1FFC, 0x12345679, true, { s := 0x30 }, false, true, 0, false, 990, none⟩] }

/-- The `LDP` of the words at 0x2040 into s4 and s5, which has read 2^64 as its lower word. -/
def overflowReq : Req where
  id := 51
  who := .thread 96
  op := 50
  ctx := 5
  core := 3
  pc := 0x1FFC
  insn := 0x12345679
  wide := true
  ask := .loadPair
  spans := [(0x2040, 16)]
  data := 0
  cmp := 0
  d := 4
  pf := 0
  vlong := false
  scope := .thread
  form := 0
  acq := false
  rel := false
  rmode := 0
  seq := 0
  runner := false
  waitlim := 0
  retrylim := 0
  resends := 0
  issued := 990
  arrived := 0
  after := []
  stage := .half (2 ^ 64)
  expiring := false

/-- The host's page that holds its upper word: the tables of context 5 map the first GiB onto the host's memory. -/
def overflowPage : CachedLeaf := ⟨5, 0, 2 ^ 30, 0, 2, true, true, 1⟩

/-- The state: the tables of context 5 lie at 0x20000, and the host's memory holds 7 at 0x2048. -/
def overflowState : State := { State.reset with
  threads := [(96, overflowThread)]
  reqs := [(51, overflowReq)]
  input := .one 51
  mem := [(0x10052, 2#8), (0x10058, 3#8), (0x20000, 1#8), (0x20002, 3#8), (0x30000, 1#8), (0x30002, 4#8), (0x40000, 0x5D#8), (0x40008, 1#8), (hostKey 0x2048, 7#8)]
  dies := [(0, { contextTable := some 0x10000 })] }

theorem overflowState_canonical : overflowState.canonical := by
  unfold State.canonical
  decide +kernel

theorem overflowReq_due : Due overflowState 51 overflowReq 96 overflowThread where
  there := rfl
  self := rfl
  issuer := rfl
  ready := rfl
  place := by decide
  thread := rfl
  settled := rfl
  input := rfl
  whole := rfl
  unreached := rfl

theorem overflowPage_mapped : Mapped overflowState 5 (0x2040 + 8) overflowPage where
  canonical := by decide
  shared := by decide
  leaf := by decide +kernel
  known := by
    rw [show (overflowState.slice (homeHash (0x2040 + 8))).first ++ (overflowState.slice (lastSlice (0x2040 + 8))).last = [] from rfl]
    exact fun x hx => absurd hx List.not_mem_nil
  plain := by decide +kernel

theorem overflowPage_sole : SoleHome overflowState (0x2040 + 8) overflowPage :=
  ⟨fun _ hg => (nomatch hg), by decide⟩

/-- What the writebacks of the thread's operations will write, after an event. -/
def writesAfter (k : Nat) : Step → List (List RegWrite)
  | .next u => match u.thread? k with
    | some t => t.ops.map (fun o => ((o.result.map (·.writes)).getD []))
    | none => []
  | _ => []

/-- The model writes 8 to s5, where 7 is the word in memory. -/
theorem overflow_writes : writesAfter 96 (exec .requestArrival overflowState) = [[.s 4 0, .s 5 8]] := by decide +kernel

end Sys2Proof.Machine

namespace Sys2Proof.Claims
open Sys2Proof.Machine

/-- Refutes O41: between the two words of an `LDP`, a lower word held as 2^64 adds 1 to what s5 is given, which the statement says is the upper word. -/
theorem not_loadsAndStoresArrive : ¬ Obligations.LoadsAndStoresArrive := by
  intro h
  obtain ⟨-, hpair, -⟩ := h
  obtain ⟨-, -, hhalf⟩ := hpair overflowState 51 overflowReq 96 overflowThread 0x2040 overflowState_canonical rfl rfl (by decide) rfl rfl
  obtain ⟨u, hexec, -, hthread, -⟩ := hhalf overflowPage (2 ^ 64) overflowReq_due rfl overflowPage_mapped overflowPage_sole (by decide)
  have hw := overflow_writes
  rw [hexec, writesAfter, hthread] at hw
  exact absurd hw (by decide +kernel)

end Sys2Proof.Claims

/-!
SUPPORT. What a home does to reach a word of the shared space that `Mapped` and `SoleHome` describe: it uses the leaf, and changes nothing but what the translation caches and the homes hold
(R141, R142).
-/

namespace Sys2Proof.Machine

open Sys2Proof.Claims

/-! ### States that differ in caches -/

theorem caches_refl (s : State) : Caches s s := ⟨s.tlb, s.granules, s.freeCtr, [], rfl, fun _ => rfl⟩

theorem caches_trans {s t u : State} (h : Caches s t) (h' : Caches t u) : Caches s u := by
  obtain ⟨tlb, gs, n, r, rfl, hr⟩ := h
  obtain ⟨tlb', gs', n', r', rfl, hr'⟩ := h'
  exact ⟨tlb', gs', n', r' ++ r, by simp, fun hb => by rw [hr hb, hr' hb]; rfl⟩

theorem caches_freeCtr (s : State) (n : Nat) : Caches s ((Effect.freeCtr n).apply s) := ⟨s.tlb, s.granules, n, [], rfl, fun _ => rfl⟩
theorem caches_tlb (s : State) (n : Nat) (c : SliceCache) : Caches s ((Effect.tlb n c).apply s) := ⟨mapPut n c s.tlb, s.granules, s.freeCtr, [], rfl, fun _ => rfl⟩
theorem caches_granule (s : State) (n : Nat) (g : Granule) : Caches s ((Effect.granule n (some g)).apply s) := ⟨s.tlb, mapPut n g s.granules, s.freeCtr, [], rfl, fun _ => rfl⟩

/-- `u` differs from `s` in the translation caches, to which only translations of the leaf `l` have come, in the count of open choices, and in reports. -/
structure Translates (l : CachedLeaf) (s u : State) : Prop where
  caches : Caches s u
  granules : u.granules = s.granules
  first : ∀ n, ∀ x ∈ (u.slice n).first, x ∈ (s.slice n).first ∨ x.leaf = l
  last : ∀ n, ∀ x ∈ (u.slice n).last, x ∈ (s.slice n).last ∨ x.leaf = l

theorem Translates.refl (l : CachedLeaf) (s : State) : Translates l s s := ⟨caches_refl s, rfl, fun _ _ hx => .inl hx, fun _ _ hx => .inl hx⟩

theorem Translates.trans {l : CachedLeaf} {s t u : State} (h : Translates l s t) (h' : Translates l t u) : Translates l s u where
  caches := caches_trans h.caches h'.caches
  granules := h'.granules.trans h.granules
  first n x hx := (h'.first n x hx).elim (h.first n x) .inr
  last n x hx := (h'.last n x hx).elim (h.last n x) .inr

theorem translates_freeCtr (l : CachedLeaf) (s : State) (n : Nat) : Translates l s ((Effect.freeCtr n).apply s) :=
  ⟨caches_freeCtr s n, rfl, fun _ _ hx => .inl hx, fun _ _ hx => .inl hx⟩

theorem translates_reports {l : CachedLeaf} {s u : State} (h : Reported s u) : Translates l s u := by
  obtain ⟨r, rfl, hr⟩ := h
  exact ⟨⟨s.tlb, s.granules, s.freeCtr, r, rfl, hr⟩, rfl, fun _ _ hx => .inl hx, fun _ _ hx => .inl hx⟩

theorem slice_tlb (s : State) (n m : Nat) (c : SliceCache) : ((Effect.tlb n c).apply s).slice m = if m = n then c else s.slice m := by
  simp only [State.slice, Effect.apply]
  split
  case isTrue h => rw [h, mapGet_mapPut_same, Option.getD_some]
  case isFalse h => rw [mapGet_mapPut_other _ _ _ _ h]

theorem Translates.tlb {l : CachedLeaf} {s u : State} {n : Nat} {c : SliceCache} (h : Translates l s u) (hf : ∀ x ∈ c.first, x ∈ (s.slice n).first ∨ x.leaf = l)
    (hl : ∀ x ∈ c.last, x ∈ (s.slice n).last ∨ x.leaf = l) : Translates l s ((Effect.tlb n c).apply u) where
  caches := caches_trans h.caches (caches_tlb u n c)
  granules := h.granules
  first m x hx := by
    rw [slice_tlb] at hx
    split at hx
    case isTrue hm => exact hm ▸ hf x hx
    case isFalse => exact h.first m x hx
  last m x hx := by
    rw [slice_tlb] at hx
    split at hx
    case isTrue hm => exact hm ▸ hl x hx
    case isFalse => exact h.last m x hx

/-! ### Translation (R141) -/

theorem ends_keepTranslation (l : CachedLeaf) {entries va : Nat} {whole : Bool} {new : Translation} {old : List Translation} {s : State} :
    Ends (keepTranslation entries whole va new old) s (fun r u => (∀ x ∈ r, x = new ∨ x ∈ old) ∧ Translates l s u) := by
  have hothers : ∀ x ∈ new :: old.filter (fun t => !t.serves new.leaf.ctx va), x = new ∨ x ∈ old := fun x hx =>
    (List.mem_cons.mp hx).imp_right List.mem_of_mem_filter
  have hfree : Ends freshFree s (fun _ u => Translates l s u) := ends_look_bind (ends_emit_bind (ends_pure (translates_freeCtr l s _)))
  unfold keepTranslation
  dsimp only
  split
  · split
    · exact ends_pure ⟨hothers, .refl l s⟩
    · refine ends_bind (hfree.mono (fun _ u hu => ends_pure ⟨fun x hx => ?_, hu⟩))
      exact hothers x (List.mem_cons.mpr ((List.mem_cons.mp hx).imp_right List.mem_of_mem_filter))
  · split
    · exact ends_pure ⟨hothers, .refl l s⟩
    · refine ends_bind (hfree.mono (fun _ u hu => ends_pure ⟨fun x hx => ?_, hu⟩))
      exact hothers x (List.mem_cons.mpr ((List.mem_cons.mp hx).imp_right List.mem_of_mem_eraseIdx))

/-- A slice keeps a translation to `l`, and drops others. -/
theorem ends_keepLeaf {va : Nat} {l : CachedLeaf} {walked : Bool} {s : State} : Ends (keepLeaf va l walked) s (fun _ u => Translates l s u) := by
  have hkeep (t : State) (old : List Translation) (n : Nat) (whole : Bool) : Ends (keepTranslation n whole va ⟨l, regionOf va⟩ old) t
      (fun f u => (∀ x ∈ f, x ∈ old ∨ x.leaf = l) ∧ Translates l t u) :=
    (ends_keepTranslation l).mono (fun f u ⟨hf, hu⟩ => ⟨fun x hx => (hf x hx).symm.imp_right (fun h => by rw [h]), hu⟩)
  refine ends_look_bind ?_
  extract_lets c jp
  have hlast (t : State) (ht : Translates l s t) : Ends (jp ()) t (fun _ u => Translates l s u) := by
    refine ends_look_bind ?_
    dsimp only
    split
    · exact ends_pure ht
    · exact ends_bind ((hkeep t _ _ _).mono (fun f u ⟨hf, hu⟩ => ends_emit (ht.trans (hu.tlb (fun _ hx => .inl hx) hf))))
  split
  · exact hlast s (.refl l s)
  · exact ends_bind ((hkeep s _ _ _).mono (fun f u ⟨hf, hu⟩ => ends_bind (ends_emit (hlast _ (hu.tlb hf (fun _ hx => .inl hx))))))

/-- Reports of a walk change nothing else (R304). -/
theorem ends_reports (l : CachedLeaf) {ws : List Nat} {s : State} : Ends (forEach ws (fun w => reportErrors w 8)) s (fun _ u => Translates l s u) :=
  ends_forEach _ (.refl l s) (fun _ _ _ ht => ends_reportErrors.mono (fun _ _ hu => ht.trans (translates_reports hu)))

theorem ends_reportWalk {l : CachedLeaf} {ctx va : Nat} {s : State} : Ends (reportWalk ctx va) s (fun _ u => Translates l s u) := by
  refine ends_look_bind (ends_bind ((ends_look_bind (ends_reports l)).mono (fun _ t ht => ?_)))
  split
  · exact (ends_reports l).mono (fun _ u hu => ht.trans hu)
  · exact ends_pure ht

/-- The translation of an address that is mapped is the walk's, whatever the caches hold. -/
theorem ends_translate {ctx va : Nat} {l : CachedLeaf} {s : State} (hm : Mapped s ctx va l) : Ends (translate ctx va) s (fun w u => w = .leaf l ∧ Translates l s u) := by
  have holds : ((((s.slice (homeHash va)).first ++ (s.slice (lastSlice va)).last).filter (·.serves ctx va)).map (fun t => Walk.leaf t.leaf)).filter (· ≠ walk s ctx va) = [] := by
    rw [List.filter_eq_nil_iff]
    intro w hw
    obtain ⟨x, hx, rfl⟩ := List.mem_map.mp hw
    obtain ⟨hx, hserves⟩ := List.mem_filter.mp hx
    simp [hm.leaf, hm.known x hx hserves]
  refine ends_look_bind ?_
  dsimp only
  rw [holds, if_pos List.isEmpty_nil, hm.leaf]
  have hkeep (t : State) (ht : Translates l s t) : Ends (do keepLeaf va l (decide (Walk.leaf l = Walk.leaf l)); pure (Walk.leaf l)) t (fun w u => w = .leaf l ∧ Translates l s u) :=
    ends_bind (ends_keepLeaf.mono (fun _ _ hu => ends_pure ⟨rfl, ht.trans hu⟩))
  refine ends_pure_bind ?_
  split
  · exact hkeep s (.refl l s)
  · exact ends_bind (ends_reportWalk.mono (fun _ t ht => hkeep t ht))

/-! ### The home's copy (R142) -/

theorem homeHash_granule (va : Nat) : homeHash (va / 256 * 256) = homeHash va := by
  have h : bits (va / 256 * 256) 55 8 = bits va 55 8 := by
    simp only [bits]
    omega
  simp only [homeHash, h]

/-- The granule behind an address is reached through one home alone, and its slice takes another. -/
structure OneHome (s : State) (va : Nat) (l : CachedLeaf) : Prop where
  sole : ∀ g, mapGet (l.key va / 256) s.granules = some g → g.copies = [] ∧ g.holder.home = homeHash va
  room : (s.granules.filter (fun e => e.2.heldBy (homeHash va))).length < 4096

theorem oneHome_of_soleHome {s : State} {va : Nat} {l : CachedLeaf} (h : SoleHome s va l) : OneHome s va l := ⟨h.1, Nat.lt_of_succ_lt h.2⟩

/-- What a load through its one home leaves of the granules: those that were there, or beside them the one behind the address. -/
def Places (s : State) (va key : Nat) (u : State) : Prop :=
  u.granules = s.granules ∨ ∃ g : Granule, u.granules = mapPut (key / 256) g s.granules ∧ g.copies = [] ∧ g.holder.home = homeHash va

theorem ends_makeRoom {home : Nat} {s : State} {P : Unit → State → Prop} (h : (s.granules.filter (fun e => e.2.heldBy home)).length < 4096) (hP : P () s) : Ends (makeRoom home) s P := by
  refine ends_look_bind ?_
  simp only [Config.sliceGranules, h, if_true]
  exact ends_pure hP

theorem ends_hbmBefore {key : Nat} {g : Option GranuleImage} {s : State} {P : Option GranuleImage → State → Prop} (h : P g s) : Ends (hbmBefore key g false) s P :=
  ends_look_bind (ends_pure h)

/-- The home of an address finds the byte where memory has it. -/
theorem ends_atHome {ctx va : Nat} {l : CachedLeaf} {s : State} (ho : OneHome s va l) :
    Ends (atHome ctx va (l.key va) l false) s (fun k u => k = l.key va ∧ Caches s u ∧ u.tlb = s.tlb ∧ Places s va (l.key va) u) := by
  refine ends_look_bind ?_
  extract_lets me index first
  have hhome : me.home = homeHash va := homeHash_granule va
  split
  case h_1 hg =>
    refine ends_bind (ends_makeRoom (hhome ▸ ho.room) ?_)
    exact ends_bind (ends_hbmBefore (ends_emit_bind (ends_pure ⟨rfl, caches_granule .., rfl, .inr ⟨_, rfl, rfl, hhome⟩⟩)))
  case h_2 g hg =>
    obtain ⟨hcopies, hholder⟩ := ho.sole g hg
    have hone : (g.copies.isEmpty && (decide (g.holder.home = me.home) || !(g.writable || l.w))) = true := by simp [hcopies, hholder, hhome]
    dsimp only
    rw [if_pos hone]
    refine ends_bind (ends_hbmBefore ?_)
    split
    · exact ends_pure ⟨rfl, caches_refl s, rfl, .inl rfl⟩
    · exact ends_emit_bind (ends_pure ⟨rfl, caches_granule .., rfl, .inr ⟨_, rfl, hcopies, hholder⟩⟩)

/-! ### Reaching a byte (R139, R141, R142) -/

/-- `u` is what a load through the leaf `l` at its one home leaves of `s`. -/
structure Reached (s : State) (va : Nat) (l : CachedLeaf) (u : State) : Prop where
  caches : Caches s u
  first : ∀ n, ∀ x ∈ (u.slice n).first, x ∈ (s.slice n).first ∨ x.leaf = l
  last : ∀ n, ∀ x ∈ (u.slice n).last, x ∈ (s.slice n).last ∨ x.leaf = l
  places : Places s va (l.key va) u

theorem Translates.reached {s t : State} {l : CachedLeaf} (h : Translates l s t) (va : Nat) : Reached s va l t := ⟨h.caches, h.first, h.last, .inl h.granules⟩

/-- No view is decoded on the die of an address that is mapped. -/
theorem viewOf_eq_none {s u : State} {ctx va key : Nat} {l : CachedLeaf} (hm : Mapped s ctx va l) (h : Caches s u) : viewOf u va key = none := by
  obtain ⟨tlb, gs, n, r, rfl, -⟩ := h
  have hv := hm.plain
  simp only [viewOf, State.die] at hv ⊢
  rw [hv, List.find?_nil]

theorem oneHome_of_translates {s t : State} {va : Nat} {l : CachedLeaf} (h : Translates l s t) (ho : OneHome s va l) : OneHome t va l := by
  constructor
  · rw [h.granules]
    exact ho.sole
  · rw [h.granules]
    exact ho.room

theorem ends_placeOf {ctx va : Nat} {l : CachedLeaf} {s t : State} (ho : OneHome s va l) (h : Translates l s t) :
    Ends (placeOf ctx va l false) t (fun k u => k = l.key va ∧ Reached s va l u) := by
  unfold placeOf
  refine ends_look_bind ?_
  split
  · exact ends_pure ⟨rfl, h.reached va⟩
  · refine (ends_atHome (oneHome_of_translates h ho)).mono ?_
    rintro k u ⟨rfl, hc, htlb, hp⟩
    have hslice (n : Nat) : u.slice n = t.slice n := by rw [State.slice, htlb, State.slice]
    refine ⟨rfl, caches_trans h.caches hc, fun n => hslice n ▸ h.first n, fun n => hslice n ▸ h.last n, ?_⟩
    rwa [Places, h.granules] at hp

/-- Where the page allows it, a load reaches its byte where memory has it. -/
theorem ends_reach {ctx va : Nat} {tile : Option Nat} {m : AccessMode} {l : CachedLeaf} {s : State} (hm : Mapped s ctx va l) (ho : OneHome s va l) (hw : m.write = false) :
    Ends (reach ctx tile va m) s (fun r u => r = (if permits l (tile.map clusterOfTile) m then .ok (l.key va, l.mt) else .error .protection) ∧ Reached s va l u) := by
  unfold reach
  have hcan : canonical va = true := decide_eq_true hm.canonical
  rw [if_neg (by simp [hm.shared]), if_neg (by simp [hcan])]
  refine ends_bind ((ends_translate hm).mono ?_)
  rintro w t ⟨rfl, ht⟩
  dsimp only
  refine ends_look_bind ?_
  simp only [viewOf_eq_none hm ht.caches, Option.isSome_none, Bool.and_false, Bool.not_false, Bool.and_true]
  split
  · rw [hw]
    exact ends_bind ((ends_placeOf ho ht).mono (fun k u ⟨hk, hu⟩ => ends_pure ⟨by rw [hk], hu⟩))
  · exact ends_pure ⟨rfl, ht.reached va⟩

/-! ### A second byte of the same page -/

theorem mapped_of_reached {ctx va va' : Nat} {l : CachedLeaf} {s u : State} (h : Reached s va l u) (hm : Mapped s ctx va' l) : Mapped u ctx va' l where
  canonical := hm.canonical
  shared := hm.shared
  leaf := by
    obtain ⟨tlb, gs, n, r, rfl, -⟩ := h.caches
    exact hm.leaf
  known x hx hserves := by
    rcases List.mem_append.mp hx with hx | hx
    · exact (h.first _ x hx).elim (fun hx => hm.known x (List.mem_append_left _ hx) hserves) id
    · exact (h.last _ x hx).elim (fun hx => hm.known x (List.mem_append_right _ hx) hserves) id
  plain := by
    obtain ⟨tlb, gs, n, r, rfl, -⟩ := h.caches
    exact hm.plain

/-- A walk ends in a leaf of some size of the levels, which holds the address and begins where memory may (R136-R138). -/
theorem walkFrom_leaf {m : List Host.Cell} {ctx va : Nat} {l : CachedLeaf} : ∀ {ls : List Level} {table : Nat}, walkFrom m ctx va table ls = .leaf l →
    ∃ lv ∈ ls, ∃ size, lv.leaf = some size ∧ l.va = va / size * size ∧ size ∣ l.pa
  | lv :: rest, table, h => by
    have hrest (t : Nat) (h : walkFrom m ctx va t rest = .leaf l) : ∃ x ∈ lv :: rest, ∃ size, x.leaf = some size ∧ l.va = va / size * size ∧ size ∣ l.pa := by
      obtain ⟨x, hx, hl⟩ := walkFrom_leaf h
      exact ⟨x, List.mem_cons_of_mem _ hx, hl⟩
    unfold walkFrom at h
    dsimp only at h
    split at h
    · cases h
    · split at h
      · cases h
      · split at h
        · split at h
          · cases h
          next size hsize =>
            split at h
            · cases h
            next hok =>
              cases h
              exact ⟨lv, List.mem_cons_self, size, hsize, rfl, Nat.dvd_of_mod_eq_zero (not_not.mp (not_or.mp hok).1)⟩
        · split at h
          · cases h
          · split at h
            · cases h
            · exact hrest _ h

/-- The leaf of a mapped address begins, in both spaces, where a granule does. -/
theorem leaf_aligned {ctx va : Nat} {l : CachedLeaf} {s : State} (hm : Mapped s ctx va l) : ∃ a b, l.va = 256 * a ∧ l.pa = 256 * b ∧ l.va ≤ va := by
  have hw := hm.leaf
  unfold walk at hw
  split at hw
  · cases hw
  · split at hw
    case h_1 l' hl =>
      obtain ⟨lv, hlv, size, hsize, hva, hpa⟩ := walkFrom_leaf hl
      have hl' : l' = l := by
        split at hw <;> cases hw
        rfl
      subst hl'
      have hdvd : 256 ∣ size := by
        simp only [levels, List.mem_cons, List.not_mem_nil, or_false] at hlv
        rcases hlv with rfl | rfl | rfl | rfl | rfl <;> cases hsize <;> decide
      obtain ⟨a, ha⟩ := hdvd.trans (Dvd.intro_left (va / size) rfl)
      obtain ⟨b, hb⟩ := hdvd.trans hpa
      exact ⟨a, b, hva.trans ha, hb, hva ▸ Nat.div_mul_le_self va size⟩
    case h_2 h => exact (h _ hw).elim

/-- Bytes of one page that lie in one granule of memory lie in one granule of addresses. -/
theorem granule_of_key {ctx va va' : Nat} {l : CachedLeaf} {s : State} (hm : Mapped s ctx va l) (hm' : Mapped s ctx va' l) (h : l.key va' / 256 = l.key va / 256) : va' / 256 = va / 256 := by
  obtain ⟨a, b, ha, hb, hle⟩ := leaf_aligned hm
  obtain ⟨-, -, -, -, hle'⟩ := leaf_aligned hm'
  unfold CachedLeaf.key at h
  dsimp only at h
  split at h
  · simp only [hbmKey] at h
    omega
  · simp only [hostKey] at h
    omega

theorem homeHash_eq_of_granule {va va' : Nat} (h : va' / 256 = va / 256) : homeHash va' = homeHash va := by
  rw [← homeHash_granule va', h, homeHash_granule]

theorem countP_mapPut_le {α : Type} (p : Nat × α → Bool) (k : Nat) (x : α) : ∀ m : NatMap α, (mapPut k x m).countP p ≤ m.countP p + 1
  | [] => List.countP_le_length
  | (j, y) :: r => by
    have ih := countP_mapPut_le p k x r
    unfold mapPut
    split
    · rw [List.countP_cons]
      split <;> omega
    · split
      · simp only [List.countP_cons]
        split_ifs <;> omega
      · simp only [List.countP_cons]
        omega

/-- After a load from one byte of a page, the home of another finds it too. -/
theorem oneHome_of_reached {ctx va va' : Nat} {l : CachedLeaf} {s u : State} (h : Reached s va l u) (hm : Mapped s ctx va l) (hm' : Mapped s ctx va' l) (ho : SoleHome s va' l) :
    OneHome u va' l := by
  rcases h.places with hg | ⟨g, hg, hcopies, hholder⟩
  · exact ⟨by rw [hg]; exact ho.1, by rw [hg]; exact Nat.lt_of_succ_lt ho.2⟩
  · refine ⟨fun g' hg' => ?_, ?_⟩
    · rw [hg] at hg'
      by_cases hk : l.key va' / 256 = l.key va / 256
      · rw [hk, mapGet_mapPut_same] at hg'
        cases hg'
        exact ⟨hcopies, hholder.trans (homeHash_eq_of_granule (granule_of_key hm hm' hk)).symm⟩
      · rw [mapGet_mapPut_other _ _ _ _ hk] at hg'
        exact ho.1 g' hg'
    · rw [hg, ← List.countP_eq_length_filter]
      exact lt_of_le_of_lt (countP_mapPut_le _ _ _ _) (by simpa [List.countP_eq_length_filter] using ho.2)

end Sys2Proof.Machine

/-!
CERTIFICATE. A turn of the agenda: what its fetch finds, and what it runs (R14-R16, R36, R44).
-/

namespace Sys2Proof.Machine

open Sys2Proof.Claims

/-! ### Fetch from the L1 (R14-R16) -/

/-- A line that a fetch check has covered gives what it holds. -/
theorem ends_readCached_hit {ctx core va n : Nat} {a : L1Line} {s : State} {P : Except Denied (Nat × Bool) → State → Prop} (hw : inWindow va = false)
    (hl : l1Find s core ctx va = some a) (hx : a.x = true) (h : P (.ok (a.read va n, true)) s) : Ends (readCached ctx core va n true) s P := by
  refine ends_bind ?_
  unfold readLine
  rw [if_neg (by simp [hw])]
  refine ends_look_bind ?_
  simp only [hl, hx, Bool.not_true, Bool.false_or, if_true]
  exact ends_pure (ends_bind (ends_forEach_nil (ends_pure h)))

/-- Nothing but the caches differs. -/
theorem caches_same {s u : State} (h : Caches s u) : u.mem = s.mem ∧ u.old = s.old ∧ u.threads = s.threads ∧ (∀ n, u.die n = s.die n) ∧ ∀ core ctx va, l1Find u core ctx va = l1Find s core ctx va := by
  obtain ⟨tlb, gs, c, r, rfl, -⟩ := h
  exact ⟨rfl, rfl, rfl, fun _ => rfl, fun _ _ _ => rfl⟩

/-- On the die of a mapped address, a load reads memory. -/
theorem loadBytes_of_caches {s u : State} {ctx va key n : Nat} {l : CachedLeaf} (hm : Mapped s ctx va l) (h : Caches s u) : loadBytes u va key n = peek s.mem key n := by
  obtain ⟨hmem, -, -, hdie, -⟩ := caches_same h
  rw [loadBytes, if_pos (by rw [hdie, hm.plain]; simp), hmem]

/-- A halfword that the L1 and its home hold alike has no other value, where no store has replaced it. -/
theorem ends_fetchOlds {k va : Nat} {t : Thread} {x : BitVec 16} {l : CachedLeaf} {s : State} (hm : Mapped s t.ctx va l) (ho : OneHome s va l) (hold : s.old = [])
    (hx : BitVec.ofNat 16 (peek s.mem (l.key va) 2) = x) : Ends (fetchOlds k t va true x) s (fun r u => r = [] ∧ Reached s va l u) := by
  unfold fetchOlds
  refine ends_look_bind ?_
  rw [if_neg (by simp)]
  refine ends_bind ((ends_reach hm ho rfl).mono ?_)
  rintro r u ⟨hr, hu⟩
  obtain ⟨-, huold, -⟩ := caches_same hu.caches
  split at hr
  · subst hr
    refine ends_look_bind (ends_pure ⟨?_, hu⟩)
    rw [huold, hold, loadBytes_of_caches hm hu.caches, hx]
    split <;> simp
  · subst hr
    exact ends_pure ⟨rfl, hu⟩

/-- A halfword of an instruction is what the L1 holds, where that is what its home holds. -/
theorem ends_fetchHalf {k va : Nat} {t : Thread} {low : Option (BitVec 16)} {a : L1Line} {l : CachedLeaf} {s : State} (hm : Mapped s t.ctx va l) (ho : OneHome s va l) (hold : s.old = [])
    (hl : l1Find s (coreOf k) t.ctx va = some a) (hx : a.x = true) (hp : peek s.mem (l.key va) 2 = a.read va 2) :
    Ends (fetchHalf k t low va) s (fun r u => r = .ok (BitVec.ofNat 16 (a.read va 2)) ∧ Reached s va l u) := by
  refine ends_bind (ends_readCached_hit hm.shared hl hx ?_)
  refine ends_bind ((ends_fetchOlds hm ho hold (by rw [hp])).mono ?_)
  rintro r u ⟨rfl, hu⟩
  exact ends_pure ⟨rfl, hu⟩

/-! ### The fetch of a turn -/

/-- A thread with no trap due, and none held outside a handler, takes none. -/
theorem nextTrap_none {t : Thread} (hdue : t.due = []) (hheld : t.heldTraps = [] ∨ t.intrap = true) : (nextTrap t).1 = none := by
  unfold nextTrap
  simp only [hdue, byKey, List.foldr_nil, List.map_nil, List.filter_nil]
  split
  · rfl
  · rw [hheld.resolve_right ‹_›]

/-- The word of an instruction whose first halfword is `lo` and whose second, if it has one, is `hi` (R14). -/
def wordFrom (lo hi : Nat) : BitVec 32 := BitVec.ofNat 32 (if lo % 2 = 0 then lo else lo + 65536 * hi)

theorem low_bit_ofNat (n : Nat) : (BitVec.ofNat 16 n).getLsbD 0 = decide (n % 2 = 1) := by
  rw [BitVec.getLsbD_ofNat, Nat.testBit_zero]
  simp

theorem wordFrom_narrow {lo hi : Nat} (hlo : lo < 2 ^ 16) (h : (BitVec.ofNat 16 lo).getLsbD 0 = false) : (BitVec.ofNat 16 lo).zeroExtend 32 = wordFrom lo hi := by
  rw [low_bit_ofNat, decide_eq_false_iff_not] at h
  apply BitVec.eq_of_toNat_eq
  rw [wordFrom, if_pos (by omega)]
  simp only [BitVec.zeroExtend, BitVec.toNat_setWidth, BitVec.toNat_ofNat]
  omega

theorem wordFrom_wide {lo hi : Nat} (hlo : lo < 2 ^ 16) (hhi : hi < 2 ^ 16) (h : (BitVec.ofNat 16 lo).getLsbD 0 = true) : BitVec.ofNat 16 hi ++ BitVec.ofNat 16 lo = wordFrom lo hi := by
  rw [low_bit_ofNat, decide_eq_true_eq] at h
  apply BitVec.eq_of_toNat_eq
  rw [wordFrom, if_neg (by omega), BitVec.toNat_append, BitVec.toNat_ofNat, BitVec.toNat_ofNat, BitVec.toNat_ofNat, Nat.mod_eq_of_lt hlo, Nat.mod_eq_of_lt hhi,
    ← Nat.shiftLeft_add_eq_or_of_lt hlo, Nat.shiftLeft_eq]
  omega

theorem L1Line.read_lt (l : L1Line) (va : Nat) : l.read va 2 < 2 ^ 16 := Nat.mod_lt _ (by decide)

/-- The fetch gives the halfwords that the L1 holds as their homes do, and changes nothing but caches. -/
theorem ends_fetchFor {k : Nat} {t : Thread} {a b : L1Line} {l : CachedLeaf} {s : State} (ht : s.thread? k = some t) (hdue : t.due = []) (howed : t.owed = none)
    (hheld : t.heldTraps = [] ∨ t.intrap = true) (hold : s.old = []) (hm : Mapped s t.ctx t.pc.toNat l) (hm' : Mapped s t.ctx (t.pc.toNat + 2) l)
    (ho : SoleHome s t.pc.toNat l) (ho' : SoleHome s (t.pc.toNat + 2) l)
    (ha : l1Find s (coreOf k) t.ctx t.pc.toNat = some a) (hax : a.x = true) (hb : l1Find s (coreOf k) t.ctx (t.pc.toNat + 2) = some b) (hbx : b.x = true)
    (hlo : peek s.mem (l.key t.pc.toNat) 2 = a.read t.pc.toNat 2) (hhi : peek s.mem (l.key (t.pc.toNat + 2)) 2 = b.read (t.pc.toNat + 2) 2) :
    Ends (fetchFor k) s (fun r u => r = .ready (wordFrom (a.read t.pc.toNat 2) (b.read (t.pc.toNat + 2) 2)) ∧ Caches s u) := by
  have hsettle : Ends (settleOwed k) s (fun _ u => u = s) := by
    refine ends_look_bind ?_
    simp only [ht, howed]
    exact ends_pure rfl
  refine ends_bind (hsettle.mono ?_)
  rintro _ _ rfl
  refine ends_look_bind ?_
  simp only [ht]
  have hnone := nextTrap_none hdue hheld
  generalize nextTrap t = n at hnone
  obtain ⟨_, v⟩ := n
  subst hnone
  simp only [hdue, List.isEmpty_nil, if_true]
  refine ends_bind ((ends_fetchHalf hm (oneHome_of_soleHome ho) hold ha hax hlo).mono ?_)
  rintro r u ⟨rfl, hu⟩
  obtain ⟨hmem, huold, -, -, hl1⟩ := caches_same hu.caches
  dsimp only
  split
  case isTrue hbit => exact ends_pure ⟨by rw [wordFrom_narrow (a.read_lt _) (by simpa using hbit)], hu.caches⟩
  case isFalse hbit =>
    refine ends_bind ((ends_fetchHalf (mapped_of_reached hu hm') (oneHome_of_reached hu hm hm' ho') (huold.trans hold) ((hl1 ..).trans hb) hbx (by rw [hmem, hhi])).mono ?_)
    rintro r w ⟨rfl, hw⟩
    exact ends_pure ⟨by rw [wordFrom_wide (a.read_lt _) (b.read_lt _) (by simpa using hbit)], caches_trans hu.caches hw.caches⟩

/-! ### Turns (R36, R44) -/

/-- A turn runs the instruction that its fetch gives, and a word that does not decode traps. -/
theorem runTurn_decoded {k : Nat} {s : State} {insn : BitVec 32} {x : Tx} {i : Instr} {l : List Byte} (hf : (fetchFor k).from s = .ok (.ready insn, x)) (hd : decode (insnBytes insn) = .ok (i, l)) :
    runTurn k s = exec i { replay x.log s with cur := k, insn := insn } := by
  simp only [runTurn, hf, hd]
  rfl

/-- A word that does not decode raises ILLEGAL in the thread that fetched it. -/
theorem enterIllegal_from {k : Nat} {insn : BitVec 32} {s : State} {t : Thread} (ht : s.thread? k = some t) :
    (enterIllegal k insn).from s = (enterTrap k (preciseTrap t insn .illegal 0) false).from s := by
  change (match s.thread? k with
    | none => pure ()
    | some t => enterTrap k (preciseTrap t insn .illegal 0) false : Act Unit) ⟨s, []⟩ = _
  rw [ht]
  rfl

theorem runTurn_illegal {k : Nat} {s : State} {insn : BitVec 32} {x : Tx} {e : Reject} {t : Thread} (hf : (fetchFor k).from s = .ok (.ready insn, x)) (hd : decode (insnBytes insn) = .error e)
    (ht : ({ replay x.log s with cur := k, insn := insn } : State).thread? k = some t) :
    runTurn k s = commit "TRAP_ENTRY" (enterTrap k (preciseTrap t insn .illegal 0) false) { replay x.log s with cur := k, insn := insn } := by
  simp only [runTurn, hf, hd]
  change commit "TRAP_ENTRY" (enterIllegal k insn) { replay x.log s with cur := k, insn := insn } = _
  simp only [commit, enterIllegal_from ht]

/-- The slot of the turn takes it, where its thread can. -/
theorem step_issue {s : State} {k : Nat} {rest : List Turn} {t : Thread} (ha : s.agenda = .issue k :: rest) (ht : s.thread? k = some t) (hs : t.status = .active) (hf : t.forfeits = 0)
    (hb : t.blocked = false) : step s = runTurn k { s with agenda := rest } := by
  have hready : (decide (t.status = .active) && decide (t.forfeits = 0) && !t.blocked) = true := by simp [hs, hf, hb]
  unfold step
  simp only [ha]
  rw [show (replay [.agenda rest] s).thread? k = some t from ht]
  exact if_pos hready

/-- It lets the turn pass, where its thread cannot. -/
theorem step_passes {s : State} {k : Nat} {rest : List Turn} (ha : s.agenda = .issue k :: rest)
    (ht : ∀ t, s.thread? k = some t → t.status ≠ .active ∨ t.forfeits ≠ 0 ∨ t.blocked = true) : step s = .next { s with agenda := rest } := by
  unfold step
  simp only [ha]
  split
  case h_1 t hk =>
    refine if_neg ?_
    rcases ht t hk with h | h | h <;> simp [h]
  case h_2 => rfl

end Sys2Proof.Machine

namespace Sys2Proof.Claims
open Sys2Proof.Machine

/-- The agenda has no part in translation. -/
theorem mapped_withAgenda {s : State} {ctx va : Nat} {l : CachedLeaf} (hm : Mapped s ctx va l) (rest : List Turn) : Mapped { s with agenda := rest } ctx va l :=
  ⟨hm.canonical, hm.shared, hm.leaf, hm.known, hm.plain⟩

theorem caches_withTurn {s u : State} (h : Caches s u) (k : Nat) (insn : BitVec 32) : Caches { s with cur := k, insn := insn } { u with cur := k, insn := insn } := by
  obtain ⟨tlb, gs, n, r, rfl, hr⟩ := h
  exact ⟨tlb, gs, n, r, rfl, hr⟩

/-- Settles O57: each clause is a branch of `step`, and where the L1 holds the instruction its fetch changes nothing but caches. -/
theorem stepRunsDecoded : Obligations.StepRunsDecoded := by
  intro s k rest
  dsimp only
  refine ⟨step_passes, ?_, ?_, ?_⟩
  · intro t ha ht hs hf hb
    rw [step_issue ha ht hs hf hb]
    refine ⟨fun insn x hfetch => ⟨fun i l hd => runTurn_decoded hfetch hd, ?_⟩, ?_⟩
    · rintro e u hd rfl hu
      exact runTurn_illegal hfetch hd hu
    · intro a b leaf hdue howed hheld hold hm hm' ho ho' hla hax hlb hbx hlo hhi i l hd
      obtain ⟨_, m, hfetch, rfl, hc⟩ := ends_fetchFor (s := { s with agenda := rest }) ht hdue howed hheld hold (mapped_withAgenda hm rest) (mapped_withAgenda hm' rest) ho ho' hla hax hlb hbx hlo hhi []
      rw [List.append_nil] at hfetch
      rw [← wordFrom] at hd ⊢
      generalize wordFrom (a.read t.pc.toNat 2) (b.read (t.pc.toNat + 2) 2) = insn at hd hfetch ⊢
      change (fetchFor k).from _ = _ at hfetch
      rw [runTurn_decoded hfetch hd]
      exact ⟨_, caches_withTurn hc k insn, rfl⟩
  · intro row arg ha
    rw [step, ha]
    rfl
  · intro h ha
    rw [step, ha]
    rfl

end Sys2Proof.Claims

/-!
SUPPORT. An acquire of the current thread, and its discards, in the terms of the statements (R155, R333, R394).
-/

namespace Sys2Proof.Machine
open Sys2Proof.Claims

/-! ### Branches of a rule -/

theorem ends_if_pos {α : Type} {c : Prop} [Decidable c] {a b : Act α} {s : State} {P : α → State → Prop} (hc : c) (h : Ends a s P) : Ends (if c then a else b) s P := by
  rwa [if_pos hc]

theorem ends_if_neg {α : Type} {c : Prop} [Decidable c] {a b : Act α} {s : State} {P : α → State → Prop} (hc : ¬ c) (h : Ends b s P) : Ends (if c then a else b) s P := by
  rwa [if_neg hc]

/-- An instruction after whose rule its thread stays at it. -/
theorem afterFlow_hold (f : Form) (s : State) (w : Thread) : afterFlow f s .hold (s.withCurrent w) = s.withCurrent { w with lastIssue := s.cycle } := by
  unfold afterFlow
  rw [withCurrent_thread]
  change (Effect.thread (s.withCurrent w).cur _).apply _ = _
  rw [apply_thread_current, withCurrent_withCurrent]

/-- The PC moves past an instruction, whatever else its rule has changed. -/
theorem afterFlow_seq_of {f : Form} {s v : State} {w : Thread} (hw : v.thread? s.cur = some w) : afterFlow f s .seq v = v.withThread s.cur (w.advance f.len s.cycle) := by
  unfold afterFlow
  rw [hw]
  rfl

/-! ### The discards of the current thread, where the L1s are not fused -/

theorem tileOfCore_coreOf (k : Nat) : tileOfCore (coreOf k) = tileOf k := by
  simp only [tileOfCore, coreOf, tileOf]
  omega

/-- Dropping the nodes of a core's tile leaves the tiles that an acquire of the thread there leaves (R333). -/
theorem ends_dropNodes {s : State} {P : Unit → State → Prop} (h : P () { s with tiles := nodesDropped s }) : Ends (dropNodes (coreOf s.cur)) s P := by
  refine ends_look_bind ?_
  simp only [tileOfCore_coreOf]
  by_cases hd : roleOf s.cur = 3 ∧ (s.tile (tileOf s.cur)).nodes ≠ []
  · rw [nodesDropped, if_pos hd] at h
    exact ends_if_pos (by simpa [roleOf] using hd) (ends_emit h)
  · rw [nodesDropped, if_neg hd] at h
    exact ends_if_neg (by simpa [roleOf] using hd) (ends_pure h)

/-- An acquire of the current thread discards what `acquiredState` says (R155). -/
theorem ends_discardFor_current {s : State} {t : Thread} {sc : Scope} {P : Unit → State → Prop} (hf : unfused s) (h : P () (acquiredState s sc s)) :
    Ends (discardFor (coreOf s.cur) t sc) s P := by
  have hfused : (s.cluster (clusterOfTile (tileOf s.cur))).fused = false := hf
  have hflush (hsc : sc ≠ .thread) : Ends (discardAll (coreOf s.cur) l1Flush) s P := by
    simp only [acquiredState, acquiredCores, acquiredTiles, hsc, if_false] at h
    refine ends_look_bind ?_
    simp only [tileOfCore_coreOf, hfused, Bool.false_eq_true, if_false]
    exact ends_bind (ends_dropNodes (ends_modCore h))
  refine ends_look_bind ?_
  simp only [tileOfCore_coreOf, hfused]
  cases sc with
  | thread => exact ends_pure h
  | crew | flask | device | system => exact hflush nofun

/-! ### Its acquires -/

/-- A thread whose later accesses wait for what an acquire carries (R394). -/
def acquiring (s : State) (ids : List Nat) (t : Thread) : Thread := { t with after := outstanding s t.after ++ outstanding s ids }

theorem follows_of_settled {s : State} {ids : List Nat} {sc : Scope} {t : Thread} (h : (acquiring s ids t).after = [] ∨ sc = .thread) : follows s ids sc t = acquiring s ids t := by
  simp only [acquiring] at h
  simp only [follows, if_pos h, acquiring]

theorem follows_of_open {s : State} {ids : List Nat} {sc : Scope} {t : Thread} (h : ¬ ((acquiring s ids t).after = [] ∨ sc = .thread)) :
    follows s ids sc t = { acquiring s ids t with owed := stronger t.owed sc } := by
  simp only [acquiring] at h
  simp only [follows, if_neg h, acquiring]

/-- The discards of an acquire do not look at the thread itself. -/
theorem apply_thread_acquired (s : State) (sc : Scope) (t u : Thread) :
    (Effect.thread s.cur (some u)).apply (acquiredState s sc (s.withCurrent t)) = acquiredState s sc (s.withCurrent u) := by
  change acquiredState s sc ((s.withCurrent t).withCurrent u) = _
  rw [withCurrent_withCurrent]

theorem ends_modCur_acquired {s : State} {sc : Scope} {u : Thread} {f : Thread → Thread} {P : Unit → State → Prop} (h : P () (acquiredState s sc (s.withCurrent (f u)))) :
    Ends (modThread s.cur f) (acquiredState s sc (s.withCurrent u)) P := by
  refine ends_modThread (withCurrent_thread s u) ?_
  rwa [apply_thread_acquired]

/-- An acquire of the current thread: its later accesses wait for what it carries, and the discards are made now, or once more when that has been performed (R155, R394). -/
theorem ends_acquireFrom_current {s : State} {t : Thread} {ids : List Nat} {sc : Scope} {P : Unit → State → Prop} (ht : s.thread? s.cur = some t) (hf : unfused s)
    (h : P () (acquiredState s sc (s.withCurrent (follows s ids sc t)))) : Ends (acquireFrom s.cur ids sc) s P := by
  refine ends_bind (ends_look_bind (ends_modThread ht (?_ : Ends _ (s.withCurrent (acquiring s ids t)) P)))
  refine ends_look_bind ?_
  rw [withCurrent_thread]
  refine ends_bind (ends_discardFor_current (s := s.withCurrent _) hf ?_)
  by_cases hn : (acquiring s ids t).after = [] ∨ sc = .thread
  · rw [follows_of_settled hn] at h
    exact ends_if_pos (by simpa using hn) (ends_pure h)
  · rw [follows_of_open hn] at h
    exact ends_if_neg (by simpa using hn) (ends_modCur_acquired h)

/-- The rule of an instruction that ends with an acquire: the PC moves on. -/
theorem afterFlow_seq_acquired (f : Form) (s : State) (sc : Scope) (w : Thread) :
    afterFlow f s .seq (acquiredState s sc (s.withCurrent w)) = acquiredState s sc (s.withCurrent (w.advance f.len s.cycle)) := by
  unfold afterFlow
  rw [show (acquiredState s sc (s.withCurrent w)).thread? s.cur = some w from withCurrent_thread s w]
  exact apply_thread_acquired ..

/-- An acquire after a change of the current thread. -/
theorem ends_acquireFrom_issuing {s : State} {t : Thread} {ids : List Nat} {sc : Scope} {P : Unit → State → Prop} (hf : unfused s)
    (h : P () (acquiredState s sc (s.withCurrent (follows s ids sc t)))) : Ends (acquireFrom s.cur ids sc) (s.withCurrent t) P := by
  refine ends_acquireFrom_current (s := s.withCurrent t) (withCurrent_thread s t) hf ?_
  rwa [withCurrent_withCurrent]

/-! ### What a thread must not do in the runner slot, and what it releases -/

/-- What an instruction raises where a runner slot must not execute it (R65). -/
theorem stops_notInRunner {β : Type} {f : Unit → Act β} {s : State} {t : Thread} (hr : isRunner s.cur = true) :
    StopsWith (notInRunner s.cur >>= f) (s.withCurrent (t.issuing s)) (.trap (preciseTrap t s.insn .runnerWait 0)) := by
  refine stops_bind ?_
  rw [notInRunner, require, hr]
  exact stops_raise (s := s.withCurrent (t.issuing s)) (t := t.issuing s) (withCurrent_thread s _)

theorem ends_notInRunner {k : Nat} {s : State} {P : Unit → State → Prop} (hr : isRunner k = false) (h : P () s) : Ends (notInRunner k) s P :=
  ends_require (by rw [hr, Bool.not_false]) h

/-- The accesses that a release of the current thread carries are those from before it issued. -/
theorem releaseSet_issuing {s : State} {t : Thread} (ht : s.thread? s.cur = some t) : releaseSet (s.withCurrent (t.issuing s)) s.cur = releaseSet s s.cur := by
  unfold releaseSet
  rw [withCurrent_thread, ht]
  rfl

end Sys2Proof.Machine

/-!
CERTIFICATES. `YIELD` and `QUIT`, `PARK`, `WAKE` and `PRIO`, and `SELF` (R53-R59).
-/

namespace Sys2Proof.Claims
open Sys2Proof.Machine

theorem exec_yields {i : Instr} {gd : Guard} {len : Nat} (h : yields i = some (gd, len)) (s : State) : exec i s = yieldOp gd len s := by
  cases i with
  | yield | cYield | yieldIf1 | yieldIf2 | yieldIf3 | yieldIf4 | yieldIf5 | yieldIf6 | yieldIf7 | yieldIf8 | yieldIf9 | yieldIf10 | yieldIf11 | yieldIf12 | yieldIf13
    | yieldIf14 | yieldIf15 | yieldUnless1 | yieldUnless2 | yieldUnless3 | yieldUnless4 | yieldUnless5 | yieldUnless6 | yieldUnless7 | yieldUnless8 | yieldUnless9
    | yieldUnless10 | yieldUnless11 | yieldUnless12 | yieldUnless13 | yieldUnless14 | yieldUnless15 =>
    cases h
    rfl
  | _ => cases h

theorem isRunner_iff (k : Nat) : isRunner k = true ↔ k % 32 = 16 := by simp [isRunner, slotOf]

/-- `QUIT` and `C.QUIT` leave rotation (R53). -/
theorem quitOp_next {s : State} {t : Thread} {gd : Guard} (h : CanIssue s t gd {}) :
    quitOp gd s = .next (s.withCurrent { t.issuing s with status := .waiting .quit, due := [], heldTraps := [], lastIssue := s.cycle }) := by
  refine issue_eq h (vectorsLegal_none rfl rfl) nofun (ends_bind (ends_modCur (ends_pure ?_)))
  exact afterFlow_hold ..

/-- Settles O29: every form of `YIELD` is one operation, which waits in an elastic context and a general slot; `QUIT` holds its thread. -/
theorem yieldAndQuit : Obligations.YieldAndQuit := by
  refine ⟨fun i s t gd len hi h => ?_, fun s t => ⟨fun gd h => quitOp_next h, fun h => quitOp_next h⟩⟩
  rw [exec_yields hi]
  refine issue_eq h (vectorsLegal_none rfl rfl) nofun ?_
  have hstays : ((t.issuing s).fixed || isRunner s.cur) = true ↔ (t.issuing s).fixed = true ∨ s.cur % 32 = 16 := by rw [Bool.or_eq_true, isRunner_iff]
  by_cases hr : (t.issuing s).fixed = true ∨ s.cur % 32 = 16
  · refine ends_if_pos (hstays.mpr hr) (ends_pure ?_)
    rw [afterFlow_seq, State.ran]
    exact congrArg (fun u => s.withCurrent (Thread.advance u len s.cycle)) (if_pos hr).symm
  · refine ends_if_neg (mt hstays.mp hr) (ends_bind (ends_modCur (ends_pure ?_)))
    rw [afterFlow_seq, State.ran]
    exact congrArg (fun u => s.withCurrent (Thread.advance u len s.cycle)) (if_neg hr).symm

theorem clampPrio_eq_min (x : Word) : clampPrio x = BitVec.ofNat 2 (min x.toNat 3) := by
  unfold clampPrio
  split
  case isTrue h => rw [min_eq_left (Nat.le_of_lt h)]
  case isFalse h =>
    rw [min_eq_right (Nat.le_of_not_lt h)]
    rfl

theorem writeControl_prio (k : Nat) (t : Thread) (x : Word) :
    writeControl k t 0x038 x = if k % 32 = 16 then t else { t with prio := BitVec.ofNat 2 (min x.toNat 3) } := by
  rw [← clampPrio_eq_min]
  simp only [← isRunner_iff]
  rfl

/-- Settles O30: each instruction by the branch of its rule that the case takes. -/
theorem parkAndWake : Obligations.ParkAndWake := by
  refine ⟨fun s t gd => ⟨fun h hr => ⟨fun hw => ?_, fun hw hf => ?_⟩, fun h hr => ?_, fun a h => ?_⟩, fun s t gd a h => ?_⟩
  · refine issue_eq h (vectorsLegal_none rfl rfl) nofun (ends_bind (ends_notInRunner hr (ends_if_neg (Bool.eq_false_iff.mp hw) ?_)))
    refine ends_bind (ends_modCur (ends_pure ?_))
    exact afterFlow_hold ..
  · refine issue_eq h (vectorsLegal_none rfl rfl) nofun (ends_bind (ends_notInRunner hr (ends_if_pos hw ?_)))
    refine ends_bind (ends_modCur (ends_bind (ends_acquireFrom_issuing hf (ends_pure ?_))))
    exact afterFlow_seq_acquired ..
  · exact issue_trap h (vectorsLegal_none rfl rfl) nofun (stops_notInRunner hr)
  · simp only [← writeControl_prio]
    exact issue_ran h (vectorsLegal_none rfl rfl) nofun rfl
  · refine ⟨fun hx hslot => issue_eq h (vectorsLegal_none rfl rfl) nofun ?_, fun hx => issue_eq h (vectorsLegal_none rfl rfl) nofun ?_⟩
    · have hok : ¬ (decide (2 ^ 26 ≤ (t.readS a).toNat) || decide (16 ≤ (t.readS a).toNat % 32)) = true := by simpa using And.intro hx hslot
      refine ends_if_neg hok (ends_bind (ends_freshId (ends_look_bind (ends_bind (ends_emit (ends_pure ?_))))))
      refine (afterFlow_seq_of (w := t.issuing s) ?_).trans ?_
      · exact withCurrent_thread s _
      change State.withThread { s.withCurrent (t.issuing s) with
        wakes := s.wakes ++ [⟨s.nextId, (t.readS a).toNat, releaseSet (s.withCurrent (t.issuing s)) s.cur, dieOf s.cur⟩], nextId := s.nextId + 1 } s.cur _ = _
      rw [releaseSet_issuing h.thread]
      simp only [State.ran, State.withThread, State.withCurrent, mapPut_mapPut]
      rfl
    · have hbad : (decide (2 ^ 26 ≤ (t.readS a).toNat) || decide (16 ≤ (t.readS a).toNat % 32)) = true := by simpa using hx
      refine ends_if_pos hbad (ends_pure ?_)
      exact afterFlow_seq ..

/-- Settles O31. -/
theorem selfReads : Obligations.SelfReads := by
  intro s t gd d h
  have answer (k : BitVec 4) (x : Nat) (hx : selfWord (s.withCurrent (t.issuing s)) s.cur (t.issuing s) k.toNat = x) :
      exec (.self gd d k) s = .next (s.ran t 4 (fun u => if d = 0 then u else u.writeS d (mod64 x))) := by
    subst hx
    simp only [← writeS_eq_ite]
    refine issue_eq h (vectorsLegal_none rfl rfl) nofun (ends_look_bind (ends_bind (ends_modCur (ends_pure ?_))))
    exact afterFlow_seq ..
  refine ⟨answer 0 _ rfl, fun c f g hr hd hc hf hg => ⟨answer 1 _ ?_, answer 2 _ ?_, answer 3 _ ?_⟩⟩
  · simp [selfWord, hr, hd, hc]
    rfl
  · simp [selfWord, hr, hd, hf]
  · simp [selfWord, hr, hd, hf, hg]

end Sys2Proof.Claims

/-!
CERTIFICATE. The statement about barriers, which fails in one state: the current thread's key is 2^30. A crew's list of members gives that number, and every larger one, to a member on its way
(`travelKey`), so that the model looks for the current thread among the contexts on their way, does not find its arrival, and parks it at a phase that the statement calls complete.
-/

namespace Sys2Proof.Machine
open Sys2Proof.Claims

/-- The thread of the refutation, alone in crew 7. -/
def farThread : Thread := freshThread 0 7 0 0x1000

/-- The state: the thread is kept under the key 2^30. -/
def farState : State := { State.reset with
  threads := [(2 ^ 30, farThread)]
  crews := [(7, ⟨0, 0, 0, [2 ^ 30], [], 0, [], []⟩)]
  cur := 2 ^ 30 }

theorem farState_canonical : farState.canonical := by
  unfold State.canonical
  decide +kernel

theorem farThread_canIssue : CanIssue farState farThread ⟨0, false⟩ {} where
  thread := rfl
  active := rfl
  turn := rfl
  inRotation := rfl
  guardFree := ⟨rfl, rfl⟩
  guardTrue := rfl
  usesFree := ⟨rfl, rfl⟩

theorem farThread_last : lastToArrive farState false farThread := by
  refine ⟨List.mem_singleton.mpr rfl, fun m hm hne => ?_⟩
  exact absurd (List.mem_singleton.mp hm) hne

/-- The status of the thread in a slot after a step. -/
def statusAfter (k : Nat) : Step → Option Status
  | .next u => (u.thread? k).map (·.status)
  | _ => none

/-- `BARC` parks it, although it is the last of its crew to arrive. -/
theorem barc_parks : statusAfter farState.cur (exec (.barc ⟨0, false⟩) farState) = some (.parked (.barrier false 0 true)) := by decide +kernel

end Sys2Proof.Machine

namespace Sys2Proof.Claims
open Sys2Proof.Machine

/-- Refutes O34: the last arrival of a thread that is kept under the key 2^30 does not complete the phase. -/
theorem not_barriers : ¬ Obligations.Barriers := by
  intro h
  obtain ⟨-, -, hunit⟩ := h (.barc ⟨0, false⟩) farState farThread ⟨0, false⟩ false .wait rfl farThread_canIssue
  obtain ⟨-, -, hlast⟩ := hunit 0 rfl rfl rfl
  obtain ⟨u, w, hexec, -, -, hw, hactive, -⟩ := hlast rfl rfl farThread_last farState_canonical
  have hparked := barc_parks
  rw [hexec, statusAfter, hw, Option.map_some, hactive] at hparked
  exact absurd hparked (by decide)

end Sys2Proof.Claims

/-!
CERTIFICATE. The statement about the Fettler and the resume port, which fails in one state: the faulted request of a thread is of the kind that makes a peer's additions (`Ask.addRow`). The clause
on CONVERT excepts a `DIGEST` alone, but the model ends such additions by an answer to the peer, not by a trap of a thread.
-/

namespace Sys2Proof.Machine
open Sys2Proof.Claims

/-- The thread of the refutation, in slot 0, PARKED on a page fault of its request 51. -/
def faultedThread : Thread := { freshThread 5 0 0 0x2000 with
  status := .parked .fault
  ops := [⟨50, 0x1FFC, 0x12345679, true, {}, false, true, 0, false, 990, none⟩] }

/-- Its request: additions for peer 1. -/
def faultedReq : Req where
  id := 51
  who := .thread 0
  op := 50
  ctx := 5
  core := 0
  pc := 0x1FFC
  insn := 0x12345679
  wide := true
  ask := .addRow 1 false
  spans := [(0x2040, 8)]
  data := 0
  cmp := 0
  d := 0
  pf := 0
  vlong := false
  scope := .thread
  form := 0
  acq := false
  rel := false
  rmode := 0
  seq := 0
  runner := false
  waitlim := 0
  retrylim := 0
  resends := 0
  issued := 990
  arrived := 0
  after := []
  stage := .faulted
  expiring := false

/-- Its page fault. -/
def peerFault : PageFault := ⟨0, 0x2040, 0, 5, 0, 5, 0x1FFC, .request 51, 0⟩

/-- The state, in which the fault is answered. -/
def faultedState : State := { State.reset with
  threads := [(0, faultedThread)]
  reqs := [(51, faultedReq)]
  faults := [peerFault]
  input := .answer 0 0 5 5 0x2040 }

theorem faultedState_canonical : faultedState.canonical := by
  unfold State.canonical
  decide +kernel

/-- What has been sent out after a step. -/
def sentAfter : Step → Option (List Sent)
  | .next u => some u.sent
  | _ => none

/-- The CONVERT sends an answer to the peer. -/
theorem convert_answers_peer : sentAfter (exec .resumeConvert faultedState) = some [.peerAnswer 1 1 0x2040 0] := by decide +kernel

end Sys2Proof.Machine

namespace Sys2Proof.Claims
open Sys2Proof.Machine

/-- Refutes O49: a CONVERT that ends a peer's additions answers the peer, which the statement leaves out. -/
theorem not_fettlerEvents : ¬ Obligations.FettlerEvents := by
  intro h
  obtain ⟨hthread, -⟩ := h faultedState faultedState_canonical rfl
  obtain ⟨-, -, -, -, -, -, -, hanswer⟩ := hthread 0 faultedThread (by decide) rfl rfl
  obtain ⟨-, hconvert⟩ := hanswer peerFault 51 faultedReq rfl (by decide) (.inl rfl) rfl rfl rfl rfl rfl rfl rfl rfl rfl
  have hnext := hconvert nofun rfl _ rfl
  have hsent := convert_answers_peer
  rw [hnext, sentAfter] at hsent
  exact absurd hsent (by decide)

end Sys2Proof.Claims

/-!
SUPPORT. What a change leaves of the things that waits depend on, and the discards of any thread's acquires, in clusters of either mode (R146, R155, R157, R394).
-/

namespace Sys2Proof.Machine
open Sys2Proof.Claims

theorem withThread_thread?_other (s : State) {k j : Nat} (t : Thread) (h : j ≠ k) : (s.withThread k t).thread? j = s.thread? j := mapGet_mapPut_other _ _ _ _ h

/-! ### What waits depend on -/

/-- A sum over a map does not see a value put in that counts as much as the value before, or as the default of an absent one. -/
theorem flatMap_mapPut {α β : Type} {f : α → List β} {k : Nat} {x d : α} (hd : f d = []) : ∀ {m : NatMap α}, f x = f ((mapGet k m).getD d) →
    (mapPut k x m).flatMap (fun p => f p.2) = m.flatMap (fun p => f p.2)
  | [], h => by
    rw [mapGet_nil, Option.getD_none, hd] at h
    simp [mapPut, h]
  | (j, y) :: r, h => by
    rcases lt_trichotomy k j with hlt | rfl | hgt
    · rw [mapGet, if_neg (Nat.ne_of_gt hlt), if_pos hlt, Option.getD_none, hd] at h
      simp [mapPut, hlt, h]
    · rw [mapGet, if_pos rfl, Option.getD_some] at h
      simp [mapPut, h]
    · rw [mapGet, if_neg (Nat.ne_of_lt hgt), if_neg (Nat.lt_asymm hgt)] at h
      rw [mapPut, if_neg (Nat.lt_asymm hgt), if_neg (Nat.ne_of_gt hgt), List.flatMap_cons, List.flatMap_cons, flatMap_mapPut hd h]

/-- Nothing that waits depend on has changed: the requests, the page faults and the arrays' commands. -/
structure SameWaits (s u : State) : Prop where
  reqs : u.reqs = s.reqs
  faults : u.faults = s.faults
  fifo : ∀ n, (u.tile n).array.fifo = (s.tile n).array.fifo
  drains : ∀ mine, drains u mine = drains s mine

theorem SameWaits.refl (s : State) : SameWaits s s := ⟨rfl, rfl, fun _ => rfl, fun _ => rfl⟩

theorem SameWaits.trans {s u v : State} (h : SameWaits s u) (h' : SameWaits u v) : SameWaits s v :=
  ⟨h'.reqs.trans h.reqs, h'.faults.trans h.faults, fun n => (h'.fifo n).trans (h.fifo n), fun m => (h'.drains m).trans (h.drains m)⟩

/-- A tile's commands and the drains among them do not see the rest of the tile. -/
theorem sameWaits_of_tile {s u : State} {n : Nat} {x : Tile} (hr : u.reqs = s.reqs) (hf : u.faults = s.faults) (ht : u.tiles = mapPut n x s.tiles)
    (hx : x.array.fifo = (s.tile n).array.fifo) : SameWaits s u where
  reqs := hr
  faults := hf
  fifo j := by
    rw [State.tile, ht]
    by_cases hj : j = n
    · rw [hj, mapGet_mapPut_same, Option.getD_some, hx]
    · rw [mapGet_mapPut_other _ _ _ _ hj, State.tile]
  drains mine := by
    rw [Machine.drains, ht]
    refine flatMap_mapPut (f := fun t : Tile => (t.array.fifo.filter (fun c => c.work = .drain && mine c)).map (·.op)) (d := {}) rfl ?_
    rw [hx, State.tile]

theorem sameWaits_of_eq {s u : State} (hr : u.reqs = s.reqs) (hf : u.faults = s.faults) (ht : u.tiles = s.tiles) : SameWaits s u :=
  ⟨hr, hf, fun n => by rw [State.tile, ht, State.tile], fun mine => by rw [Machine.drains, ht, Machine.drains]⟩

theorem SameWaits.outstanding {s u : State} (h : SameWaits s u) (ids : List Nat) : outstanding u ids = outstanding s ids := by
  simp only [Machine.outstanding, h.reqs, h.drains]

theorem SameWaits.follows {s u : State} (h : SameWaits s u) (ids : List Nat) (sc : Scope) (t : Thread) : follows u ids sc t = follows s ids sc t := by
  simp only [Claims.follows, h.outstanding]

theorem SameWaits.ownReqs {s u : State} (h : SameWaits s u) (k : Nat) : ownReqs u k = ownReqs s k := by
  simp only [Machine.ownReqs, h.reqs]

theorem SameWaits.stepWaits {s u : State} (h : SameWaits s u) (k : Nat) : stepWaits u k = stepWaits s k := by
  simp only [Machine.stepWaits, h.ownReqs]

theorem SameWaits.faultOf {s u : State} (h : SameWaits s u) (k : Nat) : faultOf u k = faultOf s k := by
  simp only [Machine.faultOf, h.reqs, h.faults, h.fifo]

theorem SameWaits.goOn {s u : State} (h : SameWaits s u) (k : Nat) (t : Thread) : goOn u k t = goOn s k t := by
  simp only [Machine.goOn, h.faultOf, h.stepWaits]

theorem sameWaits_withThread (s : State) (k : Nat) (t : Thread) : SameWaits s (s.withThread k t) := sameWaits_of_eq rfl rfl rfl

/-- How a thread goes on whose wait is over. -/
theorem freed_goOn (s : State) (k : Nat) (t : Thread) : freed s k t (goOn s k t) := by
  refine ⟨fun ⟨hf, hw, he⟩ => ?_, fun hf => ?_⟩
  · simp [goOn, hf, hw, he]
  · simp [goOn, hf]

/-! ### The end of a wait -/

/-- Setting the PC drops bit 0. -/
@[simp] theorem setPc_pc (t : Thread) (x : Word) : (t.setPc x).pc = x &&& ~~~1 := by
  change x.extractLsb' 1 63 ++ 0#1 = x &&& ~~~1#64
  refine BitVec.eq_of_getLsbD_eq fun i hi => ?_
  rw [BitVec.getLsbD_append, BitVec.getLsbD_and, BitVec.getLsbD_not, BitVec.getLsbD_one, BitVec.getLsbD_extractLsb']
  rcases i with _ | i
  · simp
  · simp [Nat.add_comm, hi, show i < 63 by omega]

theorem toNat_append_zero (x : BitVec 63) : (x ++ 0#1).toNat = 2 * x.toNat := by
  rw [BitVec.toNat_append, Nat.shiftLeft_eq, BitVec.toNat_ofNat, Nat.zero_mod, Nat.or_zero, Nat.mul_comm, pow_one]

/-- A PC is even, and so is the one after a 32-bit instruction (R14). -/
theorem setPc_next_pc (t : Thread) : (t.setPc (t.pc + 4)).pc = t.pc + 4 := by
  have hnext : t.pc + 4#64 = (t.pcHalf + 2#63) ++ 0#1 := by
    refine BitVec.eq_of_toNat_eq ?_
    rw [toNat_append_zero, BitVec.toNat_add, BitVec.toNat_add, show t.pc.toNat = _ from toNat_append_zero t.pcHalf]
    simp only [BitVec.toNat_ofNat]
    omega
  change BitVec.extractLsb' 1 63 (t.pc + 4#64) ++ 0#1 = t.pc + 4#64
  rw [hnext, BitVec.extractLsb'_append_eq_left]

/-! ### Discards -/

theorem ends_ite {α : Type} {c : Prop} [Decidable c] {a b : Act α} {s : State} {P : α → State → Prop} (ha : Ends a s P) (hb : Ends b s P) : Ends (if c then a else b) s P := by
  split
  · exact ha
  · exact hb

/-- Only what discards drop has changed: lines of L1s, node caches, and departed bits of clusters (R155, R157, R333). -/
structure Discards (s u : State) : Prop where
  rest : ∃ tiles cores clusters, u = { s with tiles := tiles, cores := cores, clusters := clusters }
  tile : ∀ n, ∃ nodes, u.tile n = { s.tile n with nodes := nodes }
  core : ∀ n, ∃ l1, u.core n = { s.core n with l1 := l1 }
  drains : ∀ mine, drains u mine = drains s mine

theorem Discards.refl (s : State) : Discards s s := ⟨⟨s.tiles, s.cores, s.clusters, rfl⟩, fun n => ⟨(s.tile n).nodes, rfl⟩, fun n => ⟨(s.core n).l1, rfl⟩, fun _ => rfl⟩

theorem Discards.trans {s u v : State} (h : Discards s u) (h' : Discards u v) : Discards s v where
  rest := by
    obtain ⟨_, _, _, rfl⟩ := h.rest
    obtain ⟨a, b, c, hv⟩ := h'.rest
    exact ⟨a, b, c, hv⟩
  tile n := by
    obtain ⟨_, hu⟩ := h.tile n
    obtain ⟨y, hv⟩ := h'.tile n
    exact ⟨y, by rw [hv, hu]⟩
  core n := by
    obtain ⟨_, hu⟩ := h.core n
    obtain ⟨y, hv⟩ := h'.core n
    exact ⟨y, by rw [hv, hu]⟩
  drains m := (h'.drains m).trans (h.drains m)

theorem Discards.sameWaits {s u : State} (h : Discards s u) : SameWaits s u := by
  obtain ⟨a, b, c, rfl⟩ := h.rest
  refine ⟨rfl, rfl, fun n => ?_, h.drains⟩
  obtain ⟨_, hn⟩ := h.tile n
  rw [hn]

theorem Discards.threads {s u : State} (h : Discards s u) : u.threads = s.threads := by
  obtain ⟨_, _, _, rfl⟩ := h.rest
  rfl

theorem Discards.thread? {s u : State} (h : Discards s u) (k : Nat) : u.thread? k = s.thread? k := by
  rw [State.thread?, h.threads, State.thread?]

/-- Discards do not see how a thread stands. -/
theorem Discards.withThread {s u : State} {k : Nat} {t v : Thread} (h : Discards (s.withThread k t) u) : Discards (s.withThread k v) (u.withThread k v) := by
  obtain ⟨⟨tiles, cores, clusters, rfl⟩, htile, hcore, hdrains⟩ := h
  refine ⟨⟨tiles, cores, clusters, ?_⟩, htile, hcore, hdrains⟩
  simp only [State.withThread, mapPut_mapPut]

theorem ends_dropNodes_any (core : Nat) (s : State) : Ends (dropNodes core) s (fun _ u => Discards s u) := by
  refine ends_look_bind ?_
  by_cases hd : (core % 4 = 3 && !(s.tile (tileOfCore core)).nodes.isEmpty) = true
  · refine ends_if_pos hd (ends_emit ?_)
    have hw : SameWaits s ((Effect.tile (tileOfCore core) { s.tile (tileOfCore core) with nodes := [] }).apply s) := sameWaits_of_tile rfl rfl rfl rfl
    refine ⟨⟨_, s.cores, s.clusters, rfl⟩, fun n => ?_, fun n => ⟨(s.core n).l1, rfl⟩, hw.drains⟩
    by_cases hn : n = tileOfCore core
    · exact ⟨[], by subst hn; simp [State.tile, mapGet_mapPut_same]⟩
    · exact ⟨(s.tile n).nodes, by simp [State.tile, mapGet_mapPut_other _ _ _ _ hn]⟩
  · exact ends_if_neg hd (ends_pure (Discards.refl s))

theorem acquired_l1 (c : Core) : ∃ l1, acquired c = { c with l1 := l1 } := by
  unfold acquired
  split
  · exact ⟨c.l1, rfl⟩
  · exact ⟨_, rfl⟩

/-- Lines of one core's L1 go, and the node cache with the L1 of core 3. -/
theorem ends_dropLines {core : Nat} {f : Core → Core} (hf : ∀ c, ∃ l1, f c = { c with l1 := l1 }) (s : State) :
    Ends (do dropNodes core; modCore core f) s (fun _ u => Discards s u) := by
  refine ends_bind ((ends_dropNodes_any core s).mono fun _ u hu => ends_modCore (hu.trans ?_))
  refine ⟨⟨u.tiles, _, u.clusters, rfl⟩, fun n => ⟨(u.tile n).nodes, rfl⟩, fun n => ?_, fun _ => rfl⟩
  by_cases hn : n = core
  · subst hn
    refine (hf (u.core n)).imp fun l1 hl => ?_
    rw [← hl]
    exact congrArg (fun x : Option Core => x.getD {}) (mapGet_mapPut_same ..)
  · exact ⟨(u.core n).l1, by simp [State.core, mapGet_mapPut_other _ _ _ _ hn]⟩

theorem ends_l1Flush (core : Nat) (s : State) : Ends (l1Flush core) s (fun _ u => Discards s u) := ends_dropLines acquired_l1 s

theorem ends_l1Clear (core : Nat) (s : State) : Ends (l1Clear core) s (fun _ u => Discards s u) := ends_dropLines (fun _ => ⟨[], rfl⟩) s

theorem ends_clearDeparted (cl : Nat) (s : State) : Ends (clearDeparted cl) s (fun _ u => Discards s u) :=
  ends_look_bind (ends_look_bind (ends_emit ⟨⟨s.tiles, s.cores, _, rfl⟩, fun n => ⟨(s.tile n).nodes, rfl⟩, fun n => ⟨(s.core n).l1, rfl⟩, fun _ => rfl⟩))

/-- An acquire of a thread, of any scope and in a cluster of either mode, changes nothing but what it discards. -/
theorem ends_discardFor (core : Nat) (t : Thread) (sc : Scope) (s : State) : Ends (discardFor core t sc) s (fun _ u => Discards s u) := by
  have hall (s : State) : Ends (discardAll core l1Flush) s (fun _ u => Discards s u) := by
    refine ends_look_bind ?_
    by_cases hf : (s.cluster (clusterOfTile (tileOfCore core))).fused = true
    · refine ends_if_pos hf (ends_bind ((ends_forEach (Discards s) (Discards.refl s) fun x _ u hu => ?_).mono fun _ u hu => ?_))
      · exact (ends_l1Flush x u).mono fun _ v hv => hu.trans hv
      · exact (ends_clearDeparted _ u).mono fun _ v hv => hu.trans hv
    · exact ends_if_neg hf (ends_l1Flush core s)
  exact ends_look_bind (ends_ite (hall s) (ends_pure (Discards.refl s)))

/-- An acquire of any thread: its later accesses wait for what it carries, and what the acquire discards is discarded (R155, R394). -/
theorem ends_acquireFrom {k : Nat} {t : Thread} {ids : List Nat} {sc : Scope} {s : State} {P : Unit → State → Prop} (ht : s.thread? k = some t)
    (h : ∀ u, Discards (s.withThread k (follows s ids sc t)) u → P () u) : Ends (acquireFrom k ids sc) s P := by
  refine ends_bind (ends_look_bind (ends_modThread ht (?_ : Ends _ (s.withThread k (acquiring s ids t)) P)))
  refine ends_look_bind ?_
  rw [withThread_thread?]
  refine ends_bind ((ends_discardFor _ _ _ _).mono fun _ u hu => ?_)
  by_cases hn : (acquiring s ids t).after = [] ∨ sc = .thread
  · rw [follows_of_settled hn] at h
    exact ends_if_pos (by simpa using hn) (ends_pure (h u hu))
  · rw [follows_of_open hn] at h
    refine ends_if_neg (by simpa using hn) (ends_modThread ((hu.thread? k).trans (withThread_thread? ..)) (h _ hu.withThread))

/-- A parked thread whose wait has ended: past its instruction, it goes on where nothing else holds it. -/
def waitEnded (s : State) (k : Nat) (t : Thread) : Thread := { t.setPc (t.pc + 4) with status := goOn s k t, waitSince := none }

@[simp] theorem waitEnded_pc (s : State) (k : Nat) (t : Thread) : (waitEnded s k t).pc = t.pc + 4 := setPc_next_pc t
@[simp] theorem waitEnded_status (s : State) (k : Nat) (t : Thread) : (waitEnded s k t).status = goOn s k t := rfl

@[simp] theorem follows_pc (s : State) (ids : List Nat) (sc : Scope) (t : Thread) : (follows s ids sc t).pc = t.pc := rfl
@[simp] theorem follows_status (s : State) (ids : List Nat) (sc : Scope) (t : Thread) : (follows s ids sc t).status = t.status := rfl

theorem ends_endWait {k : Nat} {t : Thread} {s : State} {P : Unit → State → Prop} (ht : s.thread? k = some t)
    (h : P () (s.withThread k (waitEnded s k t))) : Ends (endWait k) s P :=
  ends_look_bind (ends_modThread ht h)

theorem ends_endWait_none {k : Nat} {s : State} {P : Unit → State → Prop} (ht : s.thread? k = none) (h : P () s) : Ends (endWait k) s P := by
  refine ends_look_bind (ends_modThread_any ?_)
  rwa [ht]

/-- A waiter goes on, and acquires. -/
theorem ends_resume {k : Nat} {t : Thread} {ids : List Nat} {sc : Scope} {s : State} (ht : s.thread? k = some t) :
    Ends (do endWait k; acquireFrom k ids sc) s (fun _ u => Discards (s.withThread k (follows s ids sc (waitEnded s k t))) u) := by
  refine ends_bind (ends_endWait ht (ends_acquireFrom (withThread_thread? ..) fun u hu => ?_))
  rwa [withThread_withThread, (sameWaits_withThread ..).follows] at hu

/-! ### The registers that a thread begins with -/

/-- A thread that begins with four arguments has them in s1-s4, and zero elsewhere (R51, R63). -/
theorem readS_of_arguments {t : Thread} {a : Nat → Word} (h : t.s = ((((Vector.replicate 16 0).set 1 (a 0)).set 2 (a 1)).set 3 (a 2)).set 4 (a 3)) (j : BitVec 4) :
    t.readS j = if 1 ≤ j.toNat ∧ j.toNat ≤ 4 then a (j.toNat - 1) else 0 := by
  by_cases h0 : j = 0
  · subst h0
    rfl
  · have hne : j.toNat ≠ 0 := fun hz => h0 (BitVec.eq_of_toNat_eq hz)
    rw [Thread.readS, if_neg h0, h]
    simp only [Vector.getElem_set, Vector.getElem_replicate]
    grind

end Sys2Proof.Machine

/-!
CERTIFICATE. Semaphores, with their waiters, and tile queues (R249-R254).
-/

namespace Sys2Proof.Machine
open Sys2Proof.Claims

/-! ### Waiters that leave -/

/-- The threads of a list have left their waits, each past its instruction, and no other thread has changed. -/
structure Released (s : State) (ws : List Nat) (u : State) : Prop where
  rest : ∃ threads tiles cores clusters, u = { s with threads := threads, tiles := tiles, cores := cores, clusters := clusters }
  waits : SameWaits s u
  gone : ∀ w ∈ ws, ∀ v, s.thread? w = some v → ∃ v', u.thread? w = some v' ∧ v'.status = goOn s w v ∧ v'.pc = v.pc + 4
  others : ∀ j, j ∉ ws → u.thread? j = s.thread? j

theorem released_nil (s : State) : Released s [] s := ⟨⟨s.threads, s.tiles, s.cores, s.clusters, rfl⟩, .refl s, nofun, fun _ _ => rfl⟩

theorem Released.cons {s u v : State} {w : Nat} {ws : List Nat} (h : Released s [w] u) (h' : Released u ws v) (hw : w ∉ ws) : Released s (w :: ws) v where
  rest := by
    obtain ⟨_, _, _, _, rfl⟩ := h.rest
    obtain ⟨a, b, c, d, hv⟩ := h'.rest
    exact ⟨a, b, c, d, hv⟩
  waits := h.waits.trans h'.waits
  gone x hx t ht := by
    rcases List.mem_cons.mp hx with rfl | hmem
    · rw [h'.others x hw]
      exact h.gone x (List.mem_singleton_self x) t ht
    · have hne : x ∉ [w] := fun h => hw (List.mem_singleton.mp h ▸ hmem)
      rw [← h.waits.goOn]
      exact h'.gone x hmem t ((h.others x hne).trans ht)
  others j hj := by
    obtain ⟨hne, hmem⟩ := not_or.mp (mt List.mem_cons.mpr hj)
    rw [h'.others j hmem, h.others j (mt List.mem_singleton.mp hne)]

/-- A thread that leaves its wait and then acquires. -/
theorem released_of_discards {s u : State} {w : Nat} {v v' : Thread} (hv : s.thread? w = some v) (hs : v'.status = goOn s w v) (hpc : v'.pc = v.pc + 4)
    (h : Discards (s.withThread w v') u) : Released s [w] u where
  rest := by
    obtain ⟨a, b, c, rfl⟩ := h.rest
    exact ⟨mapPut w v' s.threads, a, b, c, rfl⟩
  waits := (sameWaits_withThread s w v').trans h.sameWaits
  gone x hx t ht := by
    obtain rfl := List.mem_singleton.mp hx
    cases hv.symm.trans ht
    exact ⟨v', (h.thread? x).trans (withThread_thread? ..), hs, hpc⟩
  others j hj := (h.thread? j).trans (withThread_thread?_other _ _ (mt List.mem_singleton.mpr hj))

/-- The oldest waiters leave while units last (R250). -/
theorem ends_serveSem (rel : List Nat) : ∀ (ws : List Nat) (count : Nat) (s : State), ws.Nodup →
    Ends (serveSem ws.length count ws rel) s (fun r u => r = (count - (ws.take count).length, ws.drop count) ∧ Released s (ws.take count) u)
  | [], count, s, _ => ends_pure ⟨by simp, by simpa using released_nil s⟩
  | w :: rest, 0, s, _ => by
    rw [List.length_cons, serveSem, if_pos rfl]
    exact ends_pure ⟨rfl, released_nil s⟩
  | w :: rest, count + 1, s, hd => by
    obtain ⟨hw, hrest⟩ := List.nodup_cons.mp hd
    have hnext (u : State) (hu : Released s [w] u) : Ends (serveSem rest.length count rest rel) u
        (fun r v => r = (count + 1 - ((w :: rest).take (count + 1)).length, (w :: rest).drop (count + 1)) ∧ Released s ((w :: rest).take (count + 1)) v) := by
      refine (ends_serveSem rel rest count u hrest).mono fun r v ⟨hr, hv⟩ => ⟨?_, hu.cons hv fun hm => hw (List.mem_of_mem_take hm)⟩
      rw [hr]
      simp [Nat.succ_sub_succ]
    rw [List.length_cons, serveSem, if_neg (Nat.succ_ne_zero count)]
    cases ht : s.thread? w with
    | none =>
      refine ends_bind (ends_endWait_none ht (ends_look_bind ?_))
      rw [ht]
      refine ends_bind (ends_pure (hnext s ⟨⟨s.threads, s.tiles, s.cores, s.clusters, rfl⟩, .refl s, fun x hx v hv => ?_, fun _ _ => rfl⟩))
      rw [List.mem_singleton.mp hx, ht] at hv
      cases hv
    | some t =>
      refine ends_bind (ends_endWait ht (ends_look_bind ?_))
      rw [withThread_thread?]
      refine ends_bind (ends_acquireFrom (withThread_thread? ..) fun u hu => hnext u ?_)
      rw [withThread_withThread] at hu
      exact released_of_discards (v' := follows _ rel _ (waitEnded s w t)) ht rfl (waitEnded_pc s w t) hu

/-! ### Changes of the current thread's tile -/

/-- The state with the current thread changed, and with other tiles and cores. -/
def State.withShared (s : State) (tiles : NatMap Tile) (cores : NatMap Core) (w : Thread) : State := { s.withCurrent w with tiles := tiles, cores := cores }

theorem ends_modCur_shared {s : State} {tiles : NatMap Tile} {cores : NatMap Core} {w : Thread} {f : Thread → Thread} {P : Unit → State → Prop}
    (h : P () (s.withShared tiles cores (f w))) : Ends (modThread s.cur f) (s.withShared tiles cores w) P := by
  refine ends_modThread (withCurrent_thread s w) ?_
  change P () (State.withThread (s.withShared tiles cores w) s.cur (f w))
  simpa only [State.withShared, State.withCurrent, State.withThread, mapPut_mapPut] using h

theorem afterFlow_seq_shared (f : Form) (s : State) (tiles : NatMap Tile) (cores : NatMap Core) (w : Thread) :
    afterFlow f s .seq (s.withShared tiles cores w) = s.withShared tiles cores (w.advance f.len s.cycle) := by
  refine (afterFlow_seq_of (v := s.withShared tiles cores w) (withCurrent_thread s w)).trans ?_
  simp only [State.withShared, State.withCurrent, State.withThread, mapPut_mapPut]

theorem afterFlow_hold_shared (f : Form) (s : State) (tiles : NatMap Tile) (cores : NatMap Core) (w : Thread) :
    afterFlow f s .hold (s.withShared tiles cores w) = s.withShared tiles cores { w with lastIssue := s.cycle } := by
  unfold afterFlow
  rw [show (s.withShared tiles cores w).thread? s.cur = some w from withCurrent_thread s w]
  change State.withThread (s.withShared tiles cores w) s.cur _ = _
  simp only [State.withShared, State.withCurrent, State.withThread, mapPut_mapPut]

/-- A change of the current thread's tile leaves its clock. -/
theorem coreCycle_withShared {s : State} {x : Tile} {cores : NatMap Core} {w : Thread} (hx : x.ahead = (s.tile (tileOf s.cur)).ahead) :
    coreCycle (s.withShared (mapPut (tileOf s.cur) x s.tiles) cores w) (tileOf s.cur) = coreCycle s (tileOf s.cur) := by
  simp only [coreCycle, State.withShared, State.tile, mapGet_mapPut_same, Option.getD_some, hx]
  rfl

/-- Semaphores and queues are changed in the tile of the current thread. -/
theorem ends_modTile_shared {s : State} {f : Tile → Tile} {w : Thread} {P : Unit → State → Prop}
    (h : P () (s.withShared (mapPut (tileOf s.cur) (f (s.tile (tileOf s.cur))) s.tiles) s.cores w)) : Ends (modTile (tileOf s.cur) f) (s.withCurrent w) P :=
  ends_modTile h

/-- The node cache goes from the tile as it now stands. -/
theorem acquiredTiles_of_put {s u : State} {x : Tile} (hc : u.cur = s.cur) (hu : u.tiles = mapPut (tileOf s.cur) x s.tiles) (sc : Scope) :
    acquiredTiles u sc = mapPut (tileOf s.cur) (nodesAt s sc x) s.tiles := by
  have hx : u.tile (tileOf s.cur) = x := by rw [State.tile, hu, mapGet_mapPut_same, Option.getD_some]
  rw [acquiredTiles, nodesAt, nodesDropped, hc, hx, hu]
  by_cases hsc : sc = .thread
  · simp [hsc]
  by_cases hr : roleOf s.cur = 3
  · by_cases hn : x.nodes = []
    · simp [hsc, hr, ← hn]
    · simp [hsc, hr, hn, mapPut_mapPut]
  · simp [hsc, hr]

/-- An acquire of the current thread after a change of its tile. -/
theorem ends_acquireFrom_shared {s : State} {x : Tile} {t : Thread} {ids : List Nat} {sc : Scope} {P : Unit → State → Prop} (hf : unfused s)
    (hx : x.array.fifo = (s.tile (tileOf s.cur)).array.fifo)
    (h : P () (s.withShared (mapPut (tileOf s.cur) (nodesAt s sc x) s.tiles) (acquiredCores s sc) (follows s ids sc t))) :
    Ends (acquireFrom s.cur ids sc) (s.withShared (mapPut (tileOf s.cur) x s.tiles) s.cores t) P := by
  let u : State := { s with tiles := mapPut (tileOf s.cur) x s.tiles }
  have hw : SameWaits s u := sameWaits_of_tile rfl rfl rfl hx
  refine ends_acquireFrom_issuing (s := u) hf ?_
  have htiles : acquiredTiles u sc = mapPut (tileOf s.cur) (nodesAt s sc x) s.tiles := acquiredTiles_of_put (s := s) (u := u) rfl rfl sc
  rw [hw.follows, acquiredState, htiles]
  exact h

end Sys2Proof.Machine

namespace Sys2Proof.Claims
open Sys2Proof.Machine

/-! ### Semaphores -/

/-- A tile with one of its semaphores replaced. -/
def Tile.withSem (x : Tile) (k : BitVec 4) (m : Semaphore) : Tile := { x with sems := x.sems.set k.toNat m k.isLt }

theorem withSem_sem (x : Tile) (k : BitVec 4) (m : Semaphore) : (Tile.withSem x k m).sem k = m := Vector.getElem_set_self ..

theorem ownerOk_of_mayOwn {o : Option Nat} {ctx : Nat} : mayOwn o ctx → (match o with | none => true | some c => decide (c = ctx)) = true := by
  rintro (rfl | rfl)
  · rfl
  · exact decide_eq_true rfl

theorem ends_claimSem {s : State} {k : Nat} {t : Thread} {n : BitVec 4} {P : Semaphore → State → Prop} (ho : mayOwn ((s.tile (tileOf k)).sem n).owner t.ctx)
    (h : P { (s.tile (tileOf k)).sem n with owner := some t.ctx } s) : Ends (claimSem k t n) s P :=
  ends_look_bind (ends_bind (ends_require (ownerOk_of_mayOwn ho) (ends_pure h)))

/-- A unit of a semaphore is taken, and its releases acquired (R251). -/
theorem ends_takeUnit {s : State} {t u : Thread} {n : BitVec 4} {m : Semaphore} {P : Unit → State → Prop} (hf : unfused s)
    (h : P () (s.withShared (mapPut (tileOf s.cur) (nodesAt s t.scope (Tile.withSem (s.tile (tileOf s.cur)) n { m with count := m.count - 1 })) s.tiles)
      (acquiredCores s t.scope) (follows s m.rel t.scope u))) : Ends (takeUnit s.cur t n m) (s.withCurrent u) P :=
  ends_bind (ends_modTile_shared (ends_acquireFrom_shared hf rfl h))

/-- What a semaphore is left with when units have been added: the oldest waiters take theirs (R250). -/
def semServed (m : Semaphore) (ctx units : Nat) (rel : List Nat) : Semaphore :=
  { m with owner := some ctx, count := units - (m.waiters.take units).length, waiters := m.waiters.drop units, rel := rel }

/-- `SEMUP` lets waiters go, and then sets the semaphore. -/
theorem semup_next {s : State} {t : Thread} {gd : Guard} {b k : BitVec 4} {m : Semaphore} (h : CanIssue s t gd (touchS b)) (hm : (s.tile (tileOf s.cur)).sem k = m)
    (ho : mayOwn m.owner t.ctx) (hd : m.waiters.Nodup) (hcur : s.cur ∉ m.waiters) (hz : (t.readS b).toNat % 2 ^ 32 ≠ 0) :
    let units := min (m.count + (t.readS b).toNat % 2 ^ 32) (2 ^ 32 - 1)
    ∃ u, exec (.semup gd b k) s = .next u ∧ ∃ v, Released (s.withCurrent (t.issuing s)) (m.waiters.take units) v ∧ u = State.withThread
      { v with tiles := mapPut (tileOf s.cur) (Tile.withSem (v.tile (tileOf s.cur)) k (semServed m t.ctx units (outstanding s m.rel ++ releaseSet s s.cur))) v.tiles }
      s.cur ((t.issuing s).advance 4 s.cycle) := by
  intro units
  subst hm
  refine issue_next h (vectorsLegal_none rfl rfl) nofun (ends_bind (ends_claimSem ho (ends_if_neg hz ?_)))
  refine ends_look_bind (ends_look_bind (ends_bind ((ends_serveSem _ _ _ _ hd).mono ?_)))
  rintro _ v ⟨rfl, hv⟩
  refine ends_bind (ends_modTile (ends_pure ⟨v, hv, ?_⟩))
  refine (afterFlow_seq_of (w := t.issuing s) ?_).trans ?_
  · exact (hv.others s.cur fun hmem => hcur (List.mem_of_mem_take hmem)).trans (withCurrent_thread s _)
  · rw [releaseSet_issuing h.thread]
    rfl

/-! ### Queues -/

/-- A tile with one of its queues replaced. -/
def Tile.withQueue (x : Tile) (q : BitVec 4) (y : TileQueue) : Tile := { x with queues := x.queues.set (q.toNat % 4) y (Nat.mod_lt _ (by decide)) }

theorem ends_claimQueue {s : State} {k : Nat} {t : Thread} {q : BitVec 4} {x : TileQueue} {P : TileQueue → State → Prop} (hx : (s.tile (tileOf k)).queue q = x) (ho : mayOwn x.owner t.ctx)
    (h : P { x with owner := some t.ctx } s) : Ends (claimQueue k t q) s P := by
  subst hx
  exact ends_look_bind (ends_bind (ends_require (ownerOk_of_mayOwn ho) (ends_pure h)))

section
variable {s : State} {t : Thread} {gd : Guard} {d b q : BitVec 4} {x : TileQueue} (h : CanIssue s t gd (touches [touchS d, touchP b]))
  (hx : (s.tile (tileOf s.cur)).queue q = x) (ho : mayOwn x.owner t.ctx)
include h hx ho

/-- `QPOP` and `QPEEK` on an empty queue set the predicate (R254). -/
theorem popOp_empty (remove : Bool) (he : x.entries = []) : popOp gd d b q remove s = .next (s.withShared
    (mapPut (tileOf s.cur) (Tile.withQueue (s.tile (tileOf s.cur)) q { x with owner := some t.ctx }) s.tiles) s.cores (((t.issuing s).writeP b true).advance 4 s.cycle)) := by
  refine issue_eq h (vectorsLegal_none rfl rfl) nofun (ends_bind (ends_claimQueue hx ho ?_))
  cases x
  subst he
  refine ends_bind (ends_modTile_shared (ends_bind (ends_modCur_shared (ends_pure ?_))))
  exact afterFlow_seq_shared ..

/-- `QPOP` and `QPEEK` give the oldest entry, and acquire what its push released (R254). -/
theorem popOp_entry (remove : Bool) {w : Word} {rel : List Nat} {rest : List (Word × List Nat)} (he : x.entries = (w, rel) :: rest) (hf : unfused s) :
    popOp gd d b q remove s = .next (s.withShared
      (mapPut (tileOf s.cur) (nodesAt s t.scope (Tile.withQueue (s.tile (tileOf s.cur)) q { x with owner := some t.ctx, entries := if remove then rest else x.entries })) s.tiles)
      (acquiredCores s t.scope) ((follows s rel t.scope (((t.issuing s).writeS d w).writeP b false)).advance 4 s.cycle)) := by
  refine issue_eq h (vectorsLegal_none rfl rfl) nofun (ends_bind (ends_claimQueue hx ho ?_))
  cases x
  subst he
  refine ends_bind (ends_modTile_shared (ends_bind (ends_modCur_shared ?_)))
  refine ends_bind (ends_acquireFrom_shared hf rfl (ends_pure ?_))
  refine (afterFlow_seq_shared ..).trans ?_
  cases remove <;> rfl

end

/-- Settles O35: each instruction by the branch of its rule that the case takes; the waiters of a `SEMUP` leave one after another. -/
theorem semaphoresAndQueues : Obligations.SemaphoresAndQueues := by
  refine ⟨fun s t gd d b k => ?_, fun s t gd d b q => ?_⟩
  · intro n m put set taken ho
    refine ⟨fun h hz => ?_, fun h hd hcur hz => ?_, fun h hw hz => ?_, fun h hn => ⟨fun hc hf => ?_, fun hc => ?_⟩, fun h hr => ?_, fun h hr => ⟨fun hc hf => ?_, fun hc => ?_⟩⟩
    · refine issue_eq h (vectorsLegal_none rfl rfl) nofun (ends_bind (ends_claimSem ho (ends_if_pos hz (ends_pure ?_))))
      exact afterFlow_seq ..
    · obtain ⟨_, he, v, hv, rfl⟩ := semup_next h rfl ho hd hcur hz
      refine ⟨_, he, ?_, fun w hw x hx => ?_, ?_, fun j hj hl => ?_, ?_⟩
      · rw [State.tile, State.withThread, mapGet_mapPut_same, Option.getD_some, withSem_sem]
        rfl
      · have hne : w ≠ s.cur := fun he => hcur (he ▸ List.mem_of_mem_take hw)
        obtain ⟨x', hx', hstatus, hpc⟩ := hv.gone w hw x ((withThread_thread?_other s _ hne).trans hx)
        refine ⟨x', (withThread_thread?_other _ _ hne).trans hx', ?_, hpc⟩
        rw [hstatus]
        exact freed_goOn ..
      · exact (withThread_thread? ..).trans (withThread_thread? ..).symm
      · exact (withThread_thread?_other _ _ hj).trans ((hv.others j hl).trans (withThread_thread?_other s _ hj))
      · obtain ⟨_, _, _, _, rfl⟩ := hv.rest
        rfl
    · refine issue_eq h (vectorsLegal_none rfl rfl) nofun (ends_bind (ends_claimSem ho (ends_if_neg hz ?_)))
      refine ends_look_bind (ends_look_bind ?_)
      rw [releaseSet_issuing h.thread, show ((s.withCurrent (t.issuing s)).tile (tileOf s.cur)).sem k = m from rfl, hw]
      refine ends_bind (ends_pure (ends_bind (ends_modTile_shared (ends_pure ?_))))
      refine (afterFlow_seq_shared ..).trans ?_
      rfl
    · refine issue_eq h (vectorsLegal_none rfl rfl) nofun (ends_bind (ends_claimSem ho (ends_if_pos hc ?_)))
      refine ends_bind (ends_takeUnit hf (ends_bind (ends_modCur_shared (ends_pure ?_))))
      exact afterFlow_seq_shared ..
    · refine issue_eq h (vectorsLegal_none rfl rfl) nofun (ends_bind (ends_claimSem ho (ends_if_neg (Nat.not_lt_of_le hc.le) ?_)))
      refine ends_bind (ends_modTile_shared (ends_bind (ends_modCur_shared (ends_pure ?_))))
      exact afterFlow_seq_shared ..
    · exact issue_trap h (vectorsLegal_none rfl rfl) nofun (stops_notInRunner hr)
    · refine issue_eq h (vectorsLegal_none rfl rfl) nofun (ends_bind (ends_notInRunner hr (ends_bind (ends_claimSem ho (ends_if_pos hc ?_)))))
      refine ends_bind (ends_takeUnit hf (ends_pure ?_))
      exact afterFlow_seq_shared ..
    · refine issue_eq h (vectorsLegal_none rfl rfl) nofun (ends_bind (ends_notInRunner hr (ends_bind (ends_claimSem ho (ends_if_neg (Nat.not_lt_of_le hc.le) ?_)))))
      refine ends_bind (ends_modTile_shared (ends_look_bind (ends_bind (ends_modCur_shared (ends_pure ?_)))))
      refine (afterFlow_hold_shared ..).trans ?_
      rw [coreCycle_withShared (by rfl)]
      rfl
  · intro n x put set read ho
    refine ⟨fun h hd => ?_, fun h hb hf => ?_⟩
    · split
      case isTrue hl =>
        refine issue_eq h (vectorsLegal_none rfl rfl) nofun (ends_bind (ends_claimQueue rfl ho (ends_if_neg (Nat.not_le_of_lt hl) ?_)))
        refine ends_look_bind ?_
        rw [releaseSet_issuing h.thread]
        refine ends_bind (ends_modTile_shared (ends_bind (ends_modCur_shared (ends_pure ?_))))
        exact afterFlow_seq_shared ..
      case isFalse hl =>
        refine issue_eq h (vectorsLegal_none rfl rfl) nofun (ends_bind (ends_claimQueue rfl ho (ends_if_pos (Nat.le_of_not_lt hl) ?_)))
        refine ends_bind (ends_modTile_shared (ends_bind (ends_modCur_shared (ends_pure ?_))))
        exact afterFlow_seq_shared ..
    · split
      case h_1 he => exact ⟨popOp_empty h rfl ho true he, popOp_empty h rfl ho false he⟩
      case h_2 w rel rest he =>
        simp only [← writeS_eq_ite]
        exact ⟨popOp_entry h rfl ho true he hf, popOp_entry h rfl ho false he hf⟩

end Sys2Proof.Claims

/-!
CERTIFICATE. `SPAWN` and `SPAWNR` (R50-R52).
-/

namespace Sys2Proof.Machine
open Sys2Proof.Claims

/-! ### The slot that a spawn takes -/

/-- A thread in its turn holds its slot, so its changes open none. -/
theorem slotOpen_withCurrent {s : State} {t : Thread} (ht : s.thread? s.cur = some t) (w : Thread) (crew : Option Nat) (k : Nat) :
    slotOpen (s.withCurrent w) crew k = slotOpen s crew k := by
  have hnone : ((s.withCurrent w).thread? k).isNone = (s.thread? k).isNone := by
    by_cases hk : k = s.cur
    · subst hk
      rw [withCurrent_thread, ht]
      rfl
    · exact congrArg Option.isNone (withThread_thread?_other s w hk)
  rw [slotOpen, hnone]
  rfl

theorem spawnSlot_withCurrent {s : State} {t : Thread} (ht : s.thread? s.cur = some t) (w : Thread) (crew : Option Nat) :
    spawnSlot (s.withCurrent w) crew = spawnSlot s crew := by
  funext core
  simp only [spawnSlot, queuedFor, slotOpen_withCurrent ht]
  rfl

/-- The slot that a spawn takes is empty. -/
theorem thread_of_spawnSlot {s : State} {crew : Option Nat} {core slot : Nat} (h : spawnSlot s crew core = some slot) : s.thread? slot = none := by
  have hopen := List.find?_some h
  simp only [slotOpen, Bool.and_eq_true, Option.isNone_iff_eq_none] at hopen
  exact hopen.1.1

/-! ### The child -/

/-- A child as it enters its slot: its incarnation is the count of earlier starts (R43). -/
def childIn (s : State) (k slot : Nat) (t : Thread) (pc : Word) : Thread := { childOf s k slot t pc with inc := (mapGet slot s.starts).getD 0 }

/-- A child has s1-s4 of its parent, and zero elsewhere (R51). -/
theorem childIn_readS (s : State) (k slot : Nat) (t : Thread) (pc : Word) (j : BitVec 4) :
    (childIn s k slot t pc).readS j = if 1 ≤ j.toNat ∧ j.toNat ≤ 4 then t.readS j else 0 := by
  rw [readS_of_arguments (t := childIn s k slot t pc) (a := fun i => t.readS (BitVec.ofNat 4 (i + 1))) rfl]
  refine if_ctx_congr Iff.rfl (fun h => ?_) fun _ => rfl
  rw [Nat.sub_add_cancel h.1, BitVec.ofNat_toNat, BitVec.setWidth_eq]

/-- What a started child is, and what its start leaves. -/
structure ChildStarted (s : State) (k slot : Nat) (t : Thread) (pc : Word) (u : State) : Prop where
  child : ∃ c, u.thread? slot = some c ∧ c.pc = pc &&& ~~~1 ∧ c.status = .active ∧ c.ctx = t.ctx ∧ c.inc = (mapGet slot s.starts).getD 0 ∧ c.s = (childIn s k slot t pc).s
  others : ∀ j, j ≠ slot → u.thread? j = s.thread? j
  starts : u.starts = mapPut slot ((mapGet slot s.starts).getD 0 + 1) s.starts
  rest : u.mem = s.mem ∧ u.empties = s.empties ∧ u.reqs = s.reqs

theorem ends_startChild (k slot : Nat) (t : Thread) (pc : Word) (s : State) : Ends (startChild k slot t pc) s (fun _ u => ChildStarted s k slot t pc u) := by
  have hacquire (sc : Scope) (crews : NatMap Crew) : Ends (acquireFrom slot [] sc)
      (State.withThread { s with starts := mapPut slot ((mapGet slot s.starts).getD 0 + 1) s.starts, crews := crews } slot (childIn s k slot t pc))
      (fun _ u => ChildStarted s k slot t pc u) := by
    refine ends_acquireFrom (withThread_thread? ..) fun u hu => ?_
    rw [withThread_withThread] at hu
    have hchild := (hu.thread? slot).trans (withThread_thread? ..)
    have hothers (j : Nat) (hj : j ≠ slot) := (hu.thread? j).trans (withThread_thread?_other _ _ hj)
    obtain ⟨_, _, _, rfl⟩ := hu.rest
    exact ⟨⟨_, hchild, setPc_pc t pc, rfl, rfl, rfl, rfl⟩, hothers, rfl, rfl, rfl, rfl⟩
  refine ends_look_bind (ends_bind (ends_look_bind (ends_emit_bind (ends_emit ?_))))
  by_cases hd : t.detached = true
  · exact ends_if_pos hd (hacquire _ s.crews)
  · refine ends_if_neg hd ?_
    split
    next c _ => exact ends_emit_bind (hacquire _ (mapPut t.crew { c with members := c.members ++ [slot] } s.crews))
    · exact hacquire _ s.crews

/-- A spawn starts its child on the first core of its list with room (R50). -/
theorem ends_spawnOn {k slot : Nat} {t : Thread} {pc : Word} {s : State} {P : Bool → State → Prop} (h : Ends (startChild k slot t pc) s (fun _ u => P true u)) :
    ∀ l : List Nat, l.findSome? (spawnSlot s (crewOf t)) = some slot → Ends (spawnOn k t pc l) s P
  | c :: rest, hl => by
    refine ends_look_bind ?_
    cases hc : spawnSlot s (crewOf t) c with
    | some j =>
      rw [List.findSome?_cons, hc] at hl
      cases hl
      exact ends_bind (h.mono fun _ _ hu => ends_pure hu)
    | none =>
      rw [List.findSome?_cons, hc] at hl
      exact ends_spawnOn h rest hl

end Sys2Proof.Machine

namespace Sys2Proof.Claims
open Sys2Proof.Machine

theorem thread_of_findSome {s : State} {crew : Option Nat} {l : List Nat} {slot : Nat} (h : l.findSome? (spawnSlot s crew) = some slot) : s.thread? slot = none := by
  obtain ⟨c, _, hc⟩ := List.exists_of_findSome?_eq_some h
  exact thread_of_spawnSlot hc

/-- A spawn by a list of cores: the child starts, and its parent goes on with p[D] false. -/
theorem spawnOp_starts {s : State} {t : Thread} {gd : Guard} {d b : BitVec 4} {uses : Touch} {cores : Nat → Thread → Option (List Nat)} {l : List Nat} {slot : Nat}
    (h : CanIssue s t gd (touches [touchP d, uses, touchS b, touchS 1, touchS 2, touchS 3, touchS 4])) (hroom : t.detached = false → (crewMembers s t.crew).length < 64)
    (hl : cores s.cur (t.issuing s) = some l) (hslot : l.findSome? (spawnSlot s (crewOf t)) = some slot) :
    ∃ u c, spawnOp gd d uses b cores s = .next u ∧ u.thread? s.cur = some ((t.issuing s).writeP d false |>.advance 4 s.cycle) ∧ u.thread? slot = some c
      ∧ c.pc = t.readS b &&& ~~~1 ∧ c.status = .active ∧ c.ctx = t.ctx ∧ c.inc = (mapGet slot s.starts).getD 0 ∧ mapGet slot u.starts = some (c.inc + 1)
      ∧ (∀ j : BitVec 4, c.readS j = if 1 ≤ j.toNat ∧ j.toNat ≤ 4 then t.readS j else 0) ∧ u.mem = s.mem ∧ u.empties = s.empties ∧ u.reqs = s.reqs := by
  have hcur : s.cur ≠ slot := by
    rintro rfl
    cases h.thread.symm.trans (thread_of_findSome hslot)
  have hroom' : ¬ (!t.detached && decide (64 ≤ (crewMembers s t.crew).length)) = true := by
    simpa using hroom
  suffices hnext : ∃ u, spawnOp gd d uses b cores s = .next u ∧ ∃ v, ChildStarted (s.withCurrent (t.issuing s)) s.cur slot (t.issuing s) (t.readS b) v
      ∧ u = v.withThread s.cur ((t.issuing s).writeP d false |>.advance 4 s.cycle) by
    obtain ⟨_, hu, v, ⟨⟨c, hc, hpc, hstatus, hctx, hinc, hs⟩, hothers, hstarts, hrest⟩, rfl⟩ := hnext
    refine ⟨_, c, hu, withThread_thread? .., (withThread_thread?_other _ _ hcur.symm).trans hc, hpc, hstatus, hctx, hinc, ?_, fun j => ?_, hrest⟩
    · rw [hinc]
      exact (congrArg (mapGet slot) hstarts).trans (mapGet_mapPut_same ..)
    · exact (congrArg (fun x : Vector Word 16 => if j = 0 then 0 else x[j.toNat]) hs).trans (childIn_readS ..)
  refine issue_next h (vectorsLegal_none rfl rfl) nofun (ends_look_bind ?_)
  rw [hl]
  have hl' : l.findSome? (spawnSlot (s.withCurrent (t.issuing s)) (crewOf (t.issuing s))) = some slot := by
    rw [spawnSlot_withCurrent h.thread]
    exact hslot
  refine ends_if_neg hroom' (ends_bind (ends_spawnOn ((ends_startChild _ _ _ _ _).mono fun _ v hv => ?_) l hl'))
  refine ends_bind (ends_modThread ((hv.others s.cur hcur).trans (withCurrent_thread s _)) (ends_pure ⟨v, hv, ?_⟩))
  refine (afterFlow_seq_of (v := v.withThread s.cur _) (withThread_thread? ..)).trans ?_
  rw [withThread_withThread]
  rfl

theorem touches_skip_empty (x : Touch) (l : List Touch) : touches (x :: {} :: l) = touches (x :: l) := by
  simp [touches, Touch.union]

/-- Settles O32: `SPAWN` tries the core that it names, `SPAWNR` the cores of its tile from the next one on. -/
theorem spawnStarts : Obligations.SpawnStarts := by
  intro s t gd d a b slot _ hroom
  refine ⟨fun h ha hslot => ?_, fun h hslot => ?_⟩
  · refine spawnOp_starts h hroom (if_pos ha) ?_
    rw [List.findSome?_cons, issuing_readS, hslot]
  · have hl : CanIssue s t gd (touches [touchP d, {}, touchS b, touchS 1, touchS 2, touchS 3, touchS 4]) := by rwa [touches_skip_empty]
    exact spawnOp_starts (cores := fun k _ => some ([1, 2, 3, 4].map (fun i => coreOf k / 4 * 4 + (coreOf k + i) % 4))) hl hroom rfl hslot

end Sys2Proof.Claims

/-!
SUPPORT. The events of threads that wake them, move them, and start handlers (R53-R65, R182, R183).
-/

namespace Sys2Proof.Machine
open Sys2Proof.Claims

/-! ### Wakes (R56) -/

theorem ends_breakTiming {k : Nat} {s : State} {t : Thread} {P : Unit → State → Prop} (ht : s.thread? k = some t)
    (h : ∀ b, P () (s.withThread k { t with broken := b })) : Ends (breakTiming k) s P := by
  refine ends_look_bind ?_
  rw [ht]
  refine ends_ite (ends_modThread ht (h true)) (ends_pure ?_)
  rw [← withThread_self ht]
  exact h t.broken

/-- The state with a wake taken off the ones on their way. -/
def State.withoutWake (s : State) (w : Waking) : State := { s with wakes := s.wakes.filter (·.id ≠ w.id) }

section
variable {s : State} {w : Waking} (hi : s.input = .one w.id) (hw : s.wakes.find? (·.id = w.id) = some w)
include hi hw

/-- A wake is discarded where its slot is empty or holds another incarnation. -/
theorem wakeArrival_discarded (h : s.thread? (w.tid % 2 ^ 18) = none ∨ ∃ v, s.thread? (w.tid % 2 ^ 18) = some v ∧ v.inc.toNat ≠ w.tid / 2 ^ 18) :
    exec .wakeArrival s = .next (s.withoutWake w) := by
  refine commit_eq (t := s.withoutWake w) ?_
  rw [hi]
  simp only [hw]
  refine ends_emit_bind ?_
  rcases h with h | ⟨v, h, hne⟩
  · rw [h]
    exact ends_pure rfl
  · rw [h]
    exact ends_if_pos hne (ends_pure rfl)

variable {k : Nat} {t : Thread} (htid : w.tid = t.inc.toNat * 2 ^ 18 + k) (hk : k < 2 ^ 18) (ht : s.thread? k = some t)
include htid hk ht

/-- A thread that goes on takes the wake bit. -/
theorem wakeArrival_active (hs : t.status = .active) (hd : w.fromDie = dieOf k) :
    exec .wakeArrival s = .next ((s.withoutWake w).withThread k { t with wake := true, wakeRel := t.wakeRel ++ w.rel }) := by
  have hslot : w.tid % 2 ^ 18 = k := by omega
  have hinc : ¬ t.inc.toNat ≠ w.tid / 2 ^ 18 := by omega
  refine commit_eq (t := (s.withoutWake w).withThread k { t with wake := true, wakeRel := t.wakeRel ++ w.rel }) ?_
  rw [hi]
  simp only [hw]
  refine ends_emit_bind ?_
  rw [hslot, ht]
  refine ends_if_neg hinc (ends_if_neg (not_not_intro hd) ?_)
  simp only [hs]
  exact ends_modThread ht (by rw [← hs]; rfl)

/-- A thread that waits in `PARK` goes on, and acquires. -/
theorem wakeArrival_parked (hs : t.status = .parked .wake) :
    ∃ u, exec .wakeArrival s = .next u ∧ ∃ v, u.thread? k = some v ∧ freed s k t v.status ∧ v.pc = t.pc + 4 ∧ v.wake = t.wake := by
  have hslot : w.tid % 2 ^ 18 = k := by omega
  have hinc : ¬ t.inc.toNat ≠ w.tid / 2 ^ 18 := by omega
  have hwoken (x : State) (v : Thread) (hx : SameWaits s x) (hv : x.thread? k = some v) (he : v.entering = t.entering) (hpc : v.pc = t.pc) (hwake : v.wake = t.wake) :
      Ends (do endWait k; acquireFrom k w.rel .device) x (fun _ u => ∃ v, u.thread? k = some v ∧ freed s k t v.status ∧ v.pc = t.pc + 4 ∧ v.wake = t.wake) := by
    refine (ends_resume hv).mono fun _ u hu => ⟨_, (hu.thread? k).trans (withThread_thread? ..), ?_, ?_, hwake⟩
    · have hgoOn : goOn x k v = goOn s k t := by rw [hx.goOn, goOn, goOn, he]
      rw [follows_status, waitEnded_status, hgoOn]
      exact freed_goOn s k t
    · rw [follows_pc, waitEnded_pc, hpc]
  refine commit_next ?_
  rw [hi]
  simp only [hw]
  refine ends_emit_bind ?_
  rw [hslot, ht]
  refine ends_if_neg hinc ?_
  simp only [hs]
  refine ends_ite (ends_bind (ends_breakTiming (s := s.withoutWake w) ht fun b => ?_)) ?_
  · exact hwoken _ _ (sameWaits_of_eq rfl rfl rfl) (withThread_thread? ..) rfl rfl rfl
  · exact hwoken _ t (sameWaits_of_eq rfl rfl rfl) ht rfl rfl rfl

end

/-! ### Moves (R60-R62) -/

/-- The state with a context queued at its target. -/
def State.withQueued (s : State) (i : Nat) (m : Migrant) : State := { s with migrants := mapPut i { m with arrived := some s.nextId } s.migrants, nextId := s.nextId + 1 }

theorem runQueueArrival_joins {s : State} {i : Nat} {m : Migrant} (hi : s.input = .one i) (hm : mapGet i s.migrants = some m) (ha : m.arrived = none) (hf : m.thread.fixed = false) :
    exec .runQueueArrival s = .next (s.withQueued i m) := by
  refine commit_eq (t := s.withQueued i m) ?_
  rw [hi]
  simp only [hm]
  refine ends_bind (ends_due (by rw [ha]; rfl) (ends_bind (ends_freshId (ends_emit ?_))))
  rw [hf]
  rfl

/-! ### Messages (R182, R183) -/

/-- The state with a message at the end of its core's runner queue. -/
def State.withMessage (s : State) (core : Nat) (m : Message) : State := { s with cores := mapPut core { s.core core with runnerQ := (s.core core).runnerQ ++ [m] } s.cores }

theorem ends_queueMessage {s : State} {core : Nat} {m : Message} {P : Bool → State → Prop} (hroom : runnerPlaces (s.core core) < 8) (hm : m.parked = none)
    (h : P true (s.withMessage core m)) : Ends (queueMessage core m) s P := by
  refine ends_look_bind (ends_if_pos hroom (ends_bind (ends_modCore (ends_pure ?_))))
  rw [← hm]
  exact h

theorem messageArrival_queues {s : State} {i k : Nat} {r : Req} {t : Thread} {core : Nat} {pc : Word} {words : List Word} {seq : Option Nat} (h : Arriving s i r k t)
    (hr : r.ask = .message core 0 pc words seq) (ha : r.acq = false) (hroom : runnerPlaces (s.core core) < 8) (hd : t.detached = true) :
    exec .messageArrival s = .next (performedWith (s.withMessage core ⟨pc, words, seq, r.ctx, r.core, 0, r.after, none, .device⟩) i k t r.op []) := by
  refine commit_eq (t := performedWith (s.withMessage core ⟨pc, words, seq, r.ctx, r.core, 0, r.after, none, .device⟩) i k t r.op []) ?_
  rw [h.input]
  refine ends_bind (ends_needReq h.there (ends_bind (ends_due (by simp [h.sent, h.ready]) ?_)))
  simp only [hr, h.issuer, h.thread, hd, if_true]
  refine ends_if_neg (not_not_intro rfl) (ends_bind (ends_queueMessage hroom rfl (ends_if_pos rfl ?_)))
  refine ends_complete h.issuer ha h.thread ?_
  rw [h.self]

/-! ### Handlers (R63) -/

/-- A handler's thread as it enters the runner slot: its words in s1-s4, and the defaults of its core. -/
def handlerOf (s : State) (core : Nat) (m : Message) : Thread :=
  applyDefaults (s.core core).defaults { freshThread m.ctx 0 0 m.pc with
    inc := (mapGet (keyOf core 16) s.starts).getD 0
    s := (((Vector.replicate 16 0).set 1 (m.words.getD 0 0)).set 2 (m.words.getD 1 0)).set 3 (m.words.getD 2 0) |>.set 4 (m.words.getD 3 0)
    detached := true, scope := .device, fixed := (s.tile (tileOfCore core)).fixed, after := m.rel }

theorem handlerStart_runs {s : State} {core : Nat} {m : Message} (hi : s.input = .one core) (hready : dieReady s (core / 2048) = true) (hnone : s.thread? (keyOf core 16) = none)
    (hq : (s.core core).runnerQ = [m]) (hseq : m.seq = none) (hparked : m.parked = none) :
    ∃ u, exec .handlerStart s = .next u ∧ u.thread? (keyOf core 16) = some (follows s [] m.scope (handlerOf s core m)) ∧ (u.core core).runnerQ = [] := by
  have htake : takeMessage (s.core core) [m] = some (m, []) := by
    simp only [takeMessage, mayStart, hseq, if_true]
  refine commit_next ?_
  rw [hi]
  refine ends_bind (ends_due (by simp [hnone, hready]) ?_)
  simp only [hq, htake, hparked, hseq]
  refine ends_bind (ends_modCore ?_)
  let x : State := { s with
    cores := mapPut core { s.core core with runnerQ := [] } s.cores
    starts := mapPut (keyOf core 16) ((mapGet (keyOf core 16) s.starts).getD 0 + 1) s.starts }
  refine ends_bind (ends_look_bind (ends_emit_bind (ends_emit ?_)))
  have hx : SameWaits s (x.withThread (keyOf core 16) (handlerOf s core m)) := sameWaits_of_eq rfl rfl rfl
  refine ends_acquireFrom (s := x.withThread _ (handlerOf s core m)) (withThread_thread? ..) fun u hu => ?_
  rw [withThread_withThread, hx.follows] at hu
  refine ⟨(hu.thread? _).trans (withThread_thread? ..), ?_⟩
  obtain ⟨_, hcore⟩ := hu.core core
  rw [hcore]
  exact congrArg (fun c : Option Core => (c.getD {}).runnerQ) (mapGet_mapPut_same ..)

end Sys2Proof.Machine

/-!
SUPPORT. A thread that leaves its slot: what its departure and its end change, and what they leave (R42, R53, R60-R62, R68).
-/

namespace Sys2Proof.Machine
open Sys2Proof.Claims

/-! ### Logs -/

/-- A log whose updates all keep a property keeps it. -/
theorem ends_emitAll {s : State} (I : State → Prop) (hs : I s) : ∀ {l : List Effect}, (∀ e ∈ l, ∀ u, I u → I (e.apply u)) → Ends (emitAll l) s (fun _ u => I u)
  | [], _ => ends_pure hs
  | e :: _, h => ends_emit_bind (ends_emitAll I (h e (List.mem_cons_self ..) s hs) fun x hx => h x (List.mem_cons_of_mem _ hx))

/-! ### Maps -/

theorem threads_rise {s : State} (hs : s.canonical) : keysRise s.threads = true := by
  obtain ⟨-, -, -, -, h, -⟩ := hs
  exact h

theorem migrants_rise {s : State} (hs : s.canonical) : keysRise s.migrants = true := by
  obtain ⟨-, -, -, -, -, -, -, -, -, -, -, -, -, -, -, -, -, -, -, -, h, -⟩ := hs
  exact h

theorem crews_rise {s : State} (hs : s.canonical) : keysRise s.crews = true := by
  obtain ⟨-, -, -, -, -, -, -, -, -, -, -, -, -, -, -, -, -, -, -, -, -, h, -⟩ := hs
  exact h

theorem flasks_rise {s : State} (hs : s.canonical) : keysRise s.flasks = true := by
  obtain ⟨-, -, -, -, -, -, -, -, -, -, -, -, -, -, -, -, -, -, -, -, -, -, h, -⟩ := hs
  exact h

theorem thread?_removed {s : State} {k : Nat} (h : keysRise s.threads = true) : ((Effect.thread k none).apply s).thread? k = none :=
  mapGet_mapDel_same k s.threads none h

theorem mem_of_mem_mapDel {α : Type} {k : Nat} {x : Nat × α} : ∀ {m : NatMap α}, x ∈ mapDel k m → x ∈ m
  | [], h => h
  | (j, y) :: r, h => by
    unfold mapDel at h
    split at h
    · exact h
    · split at h
      · exact List.mem_cons_of_mem _ h
      · rcases List.mem_cons.mp h with rfl | hr
        · exact List.mem_cons_self ..
        · exact List.mem_cons_of_mem _ (mem_of_mem_mapDel hr)

/-! ### The parts of a departure -/

theorem ends_endGroup_none {k : Nat} {t : Thread} {s : State} {P : Unit → State → Prop} (ht : s.thread? k = some t) (hg : t.group = none) (h : P () s) : Ends (endGroup k) s P := by
  refine ends_look_bind ?_
  rw [ht]
  simp only [hg]
  exact ends_pure h

/-- Where the flasks alone have changed, and in them the cycle of a last issue. -/
structure KeptIssue (s u : State) : Prop where
  rest : ∃ flasks, u = { s with flasks := flasks }
  flasks : ∀ n f, mapGet n s.flasks = some f → ∃ x, mapGet n u.flasks = some { f with leftIssue := x }
  rise : keysRise s.flasks = true → keysRise u.flasks = true

theorem ends_keepIssue (t : Thread) (s : State) : Ends (keepIssue t) s (fun _ u => KeptIssue s u) := by
  have hself : KeptIssue s s := ⟨⟨s.flasks, rfl⟩, fun n f hf => ⟨f.leftIssue, hf⟩, id⟩
  refine ends_look_bind ?_
  split
  case h_1 f hf =>
    refine ends_ite (ends_emit ⟨⟨_, rfl⟩, fun n g hg => ?_, keysRise_mapPut _ _ _⟩) (ends_pure hself)
    by_cases hn : n = t.flask
    · subst hn
      cases hf.symm.trans hg
      exact ⟨some s.cycle, mapGet_mapPut_same ..⟩
    · exact ⟨g.leftIssue, (mapGet_mapPut_other _ _ _ _ hn).trans hg⟩
  case h_2 => exact ends_pure hself

/-- Bytes and accumulators alone have changed. -/
def Cleared (s u : State) : Prop := ∃ mem accs, u = { s with mem := mem, accs := accs }

theorem ends_clear_bytes {s u : State} (hu : Cleared s u) (p : Nat → Prop) [DecidablePred p] (key : Nat → Nat) (l : List Nat) :
    Ends (emitAll (l.filterMap (fun i => if p i then none else some (.byte (key i) 0)))) u (fun _ v => Cleared s v) := by
  refine ends_emitAll (Cleared s) hu fun e he v ⟨mem, accs, hv⟩ => ?_
  obtain ⟨i, _, hi⟩ := List.mem_filterMap.mp he
  split at hi
  · cases hi
  · cases hi
    exact ⟨_, accs, by rw [hv]; rfl⟩

theorem ends_clear_accs {s u : State} (hu : Cleared s u) (l : List (Nat × BitVec 32)) :
    Ends (emitAll (l.map (fun e => .acc e.1 0))) u (fun _ v => Cleared s v) := by
  refine ends_emitAll (Cleared s) hu fun e he v ⟨mem, accs, hv⟩ => ?_
  obtain ⟨x, _, rfl⟩ := List.mem_map.mp he
  exact ⟨mem, _, by rw [hv]; rfl⟩

/-- What a tile gives back when the last thread of a context has left it is in its own state, in coefficient memory and in accumulators (R128, R201, R249, R252). -/
theorem ends_releaseTile (n : Nat) (s : State) : Ends (releaseTile n) s (fun _ u => (∃ mem accs tiles, u = { s with mem := mem, accs := accs, tiles := tiles }) ∧ SameWaits s u) := by
  have hself : Cleared s s := ⟨s.mem, s.accs, rfl⟩
  refine ends_look_bind ?_
  extract_lets x gone free y putTile clearAccs
  have hfifo : y.array.fifo = x.array.fifo := by
    change (if free = true then clearArray x.array else x.array).fifo = x.array.fifo
    split <;> rfl
  have hput (u : State) (hu : Cleared s u) : Ends (putTile ()) u (fun _ v => (∃ mem accs tiles, v = { s with mem := mem, accs := accs, tiles := tiles }) ∧ SameWaits s v) := by
    obtain ⟨mem, accs, rfl⟩ := hu
    exact ends_ite (ends_pure ⟨⟨mem, accs, s.tiles, rfl⟩, sameWaits_of_eq rfl rfl rfl⟩) (ends_emit ⟨⟨mem, accs, _, rfl⟩, sameWaits_of_tile rfl rfl rfl hfifo⟩)
  have haccs (u : State) (hu : Cleared s u) : Ends (clearAccs ()) u (fun _ v => (∃ mem accs tiles, v = { s with mem := mem, accs := accs, tiles := tiles }) ∧ SameWaits s v) :=
    ends_ite (ends_bind ((ends_clear_accs hu _).mono fun _ v hv => hput v hv)) (hput u hu)
  exact ends_ite (ends_bind ((ends_clear_bytes hself _ _ _).mono fun _ u hu => haccs u hu)) (haccs s hself)

theorem ends_renameMember (t : Thread) (old new : Nat) (s : State) : Ends (renameMember t old new) s (fun _ u => ∃ crews, u = { s with crews := crews }) := by
  refine ends_look_bind ?_
  split
  · exact ends_ite (ends_pure ⟨s.crews, rfl⟩) (ends_emit ⟨_, rfl⟩)
  · exact ends_pure ⟨s.crews, rfl⟩

theorem ends_noteDeparture (t : Thread) (a b : Nat) (s : State) : Ends (noteDeparture t a b) s (fun _ u => ∃ clusters, u = { s with clusters := clusters }) :=
  ends_ite (ends_pure ⟨s.clusters, rfl⟩) (ends_look_bind (ends_emit ⟨_, rfl⟩))

/-! ### Moves (R60-R62) -/

/-- A thread on its way, as it left its slot. -/
def leavingMigrant (k : Nat) (t : Thread) (l : Leaving) : Migrant := ⟨{ t with windows := [], status := .active, waitSince := none }, tileOf k, l.target, l.hardware, none, none⟩

theorem migrationDeparture_leaves {s : State} {k : Nat} {t : Thread} {l : Leaving} (hs : s.canonical) (hi : s.input = .one k) (ht : s.thread? k = some t) (hst : t.status = .leaving l)
    (hops : t.ops = []) (hagain : l.again = none) (hroom : hardwarePlaces s l.target < 4) (hgroup : t.group = none) :
    ∃ u, exec .migrationDeparture s = .next u ∧ u.thread? k = none ∧ mapGet s.nextId u.migrants = some (leavingMigrant k t l) := by
  -- the last part, once the slot is empty
  have hgone (x : State) (hx : x.thread? k = none) : Ends (do
      renameMember t k (travelKey s.nextId)
      noteDeparture t (tileOf k) (tileOfCore l.target)
      emit (.migrant s.nextId (some (leavingMigrant k t l)))
      releaseTile (tileOf k)) x (fun _ u => u.thread? k = none ∧ mapGet s.nextId u.migrants = some (leavingMigrant k t l)) := by
    refine ends_bind ((ends_renameMember t k _ x).mono fun _ a ⟨crews, ha⟩ => ?_)
    refine ends_bind ((ends_noteDeparture t _ _ a).mono fun _ b ⟨clusters, hb⟩ => ?_)
    refine ends_emit_bind ((ends_releaseTile _ _).mono fun _ c ⟨⟨mem, accs, tiles, hc⟩, _⟩ => ?_)
    subst ha hb hc
    exact ⟨hx, mapGet_mapPut_same ..⟩
  refine commit_next ?_
  rw [hi]
  refine ends_bind (ends_needThread ht ?_)
  rw [hst]
  refine ends_bind (ends_due (by simp [hops, hagain]) (ends_if_pos hroom (ends_pure_bind ?_)))
  refine (fun h => ends_ite h (ends_bind (ends_endGroup_none ht hgroup h))) ?_
  refine ends_bind (ends_freshId (ends_look_bind ?_))
  extract_lets unit leave
  have hleave (tiles : NatMap Tile) : Ends (leave ()) { s with nextId := s.nextId + 1, tiles := tiles }
      (fun _ u => u.thread? k = none ∧ mapGet s.nextId u.migrants = some (leavingMigrant k t l)) := by
    refine ends_look_bind ?_
    simp only [show ({ s with nextId := s.nextId + 1, tiles := tiles } : State).thread? k = some t from ht]
    refine ends_bind ((ends_keepIssue t _).mono fun _ a ha => ends_emit_bind (hgone _ ?_))
    obtain ⟨flasks, rfl⟩ := ha.rest
    exact thread?_removed (show keysRise s.threads = true from threads_rise hs)
  exact ends_ite (ends_bind (ends_modTile (hleave _))) (hleave s.tiles)

/-- A context as it enters a slot: after a `MIGR` with v0-v7 and e0-e7 zero, in SHORT mode, with BROKEN set and in the regime of the tile (R60). -/
def enteredThread (s : State) (core : Nat) (m : Migrant) : Thread :=
  if m.hardware then m.thread
  else { m.thread with e := Vector.replicate 8 0, v := Vector.replicate 8 0, long := false, broken := true, fixed := (s.tile (tileOfCore core)).fixed }

theorem runQueueEntry_enters {s : State} {k core i : Nat} {m : Migrant} (hs : s.canonical) (hi : s.input = .one core) (hready : dieReady s (core / 2048) = true)
    (hqueue : (generalSlots core).filterMap (fun j => (queuedFor s j).map (fun x => (j, x))) = [(k, i, m)]) (hparked : m.parked = none)
    (hnone : ∀ x ∈ s.migrants, x.2.target = core → x.2.parked = none) :
    ∃ u, exec .runQueueEntry s = .next u ∧ mapGet i u.migrants = none ∧ u.thread? k = some { enteredThread s core m with inc := (mapGet k s.starts).getD 0 }
      ∧ mapGet k u.starts = some ((mapGet k s.starts).getD 0 + 1) := by
  refine commit_next ?_
  rw [hi]
  refine ends_bind (ends_due hready ?_)
  simp only [hqueue, List.foldl_nil, hparked]
  refine ends_emit_bind (ends_look_bind ?_)
  have hparkedOnes : (mapDel i s.migrants).filter (fun x => decide (x.2.target = core) && x.2.parked.isSome) = [] := by
    rw [List.filter_eq_nil_iff]
    intro x hx hc
    simp only [Bool.and_eq_true, decide_eq_true_eq] at hc
    rw [hnone x (mem_of_mem_mapDel hx) hc.1] at hc
    exact absurd hc.2 Bool.false_ne_true
  rw [show ((Effect.migrant i none).apply s).migrants = mapDel i s.migrants from rfl, hparkedOnes]
  refine ends_bind (ends_look_bind (ends_emit_bind (ends_emit ?_)))
  refine ends_bind ((ends_renameMember _ _ _ _).mono fun _ a ⟨crews, ha⟩ => ?_)
  have hdiscard (x : State) (tiles : NatMap Tile) (hx : x = { a with tiles := tiles }) : Ends (discardFor core (enteredThread s core m) .device) x (fun _ u =>
      mapGet i u.migrants = none ∧ u.thread? k = some { enteredThread s core m with inc := (mapGet k s.starts).getD 0 } ∧ mapGet k u.starts = some ((mapGet k s.starts).getD 0 + 1)) := by
    refine (ends_discardFor _ _ _ _).mono fun _ u hu => ?_
    obtain ⟨_, _, _, rfl⟩ := hu.rest
    subst hx ha
    exact ⟨mapGet_mapDel_same i s.migrants none (migrants_rise hs), mapGet_mapPut_same .., mapGet_mapPut_same ..⟩
  exact ends_ite (ends_bind (ends_modTile (hdiscard _ _ rfl))) (hdiscard a a.tiles rfl)

end Sys2Proof.Machine

/-!
SUPPORT. What the end of a thread does to its crew and flask: the phase that completes without it, and the units that end with it (R42, R53, R67, R68).
-/

namespace Sys2Proof.Machine
open Sys2Proof.Claims

/-! ### Writes to save areas (R295, R299, R304) -/

/-- Memory alone has changed, with what is kept about it, and reports have been sent. -/
def Pokes (s u : State) : Prop := ∃ mem bad old granules sent, u = { s with mem := mem, bad := bad, old := old, granules := granules, sent := sent }

theorem Pokes.refl (s : State) : Pokes s s := ⟨s.mem, s.bad, s.old, s.granules, s.sent, rfl⟩

theorem Pokes.trans {s u v : State} (h : Pokes s u) (h' : Pokes u v) : Pokes s v := by
  obtain ⟨_, _, _, _, _, rfl⟩ := h
  obtain ⟨a, b, c, d, e, hv⟩ := h'
  exact ⟨a, b, c, d, e, hv⟩

/-- An update of memory, or of what is kept about it. -/
def Effect.pokes : Effect → Prop
  | .byte .. | .bad .. | .old .. => True
  | _ => False

theorem pokes_apply {e : Effect} (he : e.pokes) (s : State) : Pokes s (e.apply s) := by
  cases e with
  | byte | bad | old => exact ⟨_, _, _, _, _, rfl⟩
  | _ => exact he.elim

theorem ends_emitAll_pokes {l : List Effect} (hl : ∀ e ∈ l, e.pokes) (s : State) : Ends (emitAll l) s (fun _ u => Pokes s u) :=
  ends_emitAll (Pokes s) (Pokes.refl s) fun e he u hu => hu.trans (pokes_apply (hl e he) u)

theorem pokes_pokeLog {e : Effect} : ∀ {n a x : Nat}, e ∈ pokeLog a n x → e.pokes
  | n + 1, a, x, he => by
    rcases List.mem_cons.mp he with rfl | h
    · trivial
    · exact pokes_pokeLog h

theorem pokes_cureLog {e : Effect} {a n : Nat} (he : e ∈ cureLog a n) : e.pokes := by
  obtain ⟨i, _, hi⟩ := List.mem_filterMap.mp he
  obtain ⟨_, hi⟩ := Option.ite_none_right_eq_some.mp hi
  cases hi
  trivial

theorem ends_keepOld (a n : Nat) (s : State) : Ends (keepOld a n) s (fun _ u => Pokes s u) := by
  refine ends_look_bind (ends_ite (ends_pure (Pokes.refl s)) (ends_emitAll_pokes (fun e he => ?_) s))
  obtain ⟨i, _, hi⟩ := List.mem_filterMap.mp he
  obtain ⟨_, hi⟩ := Option.ite_none_right_eq_some.mp hi
  cases hi
  trivial

theorem ends_poke (a n x : Nat) (s : State) : Ends (poke a n x) s (fun _ u => Pokes s u) := by
  refine ends_bind ((ends_keepOld a n s).mono fun _ u hu => ends_look_bind (ends_bind ((ends_emitAll_pokes (fun e => pokes_pokeLog) u).mono fun _ v hv => ?_)))
  exact ends_ite (ends_pure (hu.trans hv)) ((ends_emitAll_pokes (fun e => pokes_cureLog) v).mono fun _ w hw => (hu.trans hv).trans hw)

theorem ends_pokePhysical (a n x : Nat) (s : State) : Ends (pokePhysical a n x) s (fun _ u => Pokes s u) := by
  refine ends_bind ((ends_poke a n x s).mono fun _ u hu => ends_forEach (Pokes s) hu fun i _ v hv => ends_look_bind ?_)
  split
  · exact ends_pure hv
  · split
    · exact ends_pure hv
    · exact ends_ite (ends_emit (hv.trans ⟨_, _, _, _, _, rfl⟩)) (ends_pure hv)

theorem ends_readSave (k off n : Nat) (s : State) : Ends (readSave k off n) s (fun _ u => Pokes s u) := by
  refine ends_look_bind ?_
  split
  · exact ends_bind (ends_reportErrors.mono fun _ u ⟨_, hu, _⟩ => ends_pure ⟨_, _, _, _, _, hu⟩)
  · exact ends_pure (Pokes.refl s)

theorem ends_pokeSave (k off n x : Nat) (s : State) : Ends (pokeSave k off n x) s (fun _ u => Pokes s u) := by
  refine ends_look_bind ?_
  split
  · exact ends_pure (Pokes.refl s)
  · exact ends_pokePhysical _ n x s

theorem ends_maskSave (k off n clear set : Nat) (s : State) : Ends (maskSave k off n clear set) s (fun _ u => Pokes s u) :=
  ends_bind ((ends_readSave k off n s).mono fun _ u hu => (ends_pokeSave k off n _ u).mono fun _ _ hv => hu.trans hv)

/-! ### Phases (R67) -/

/-- The crews stay as they are, and no thread comes to be. -/
structure Keeps (s u : State) : Prop where
  crews : u.crews = s.crews
  absent : ∀ k, s.thread? k = none → u.thread? k = none

theorem Keeps.refl (s : State) : Keeps s s := ⟨rfl, fun _ h => h⟩
theorem Keeps.trans {s u v : State} (h : Keeps s u) (h' : Keeps u v) : Keeps s v := ⟨h'.crews.trans h.crews, fun k hk => h'.absent k (h.absent k hk)⟩

theorem keeps_of_eq {s u : State} (ht : u.threads = s.threads) (hc : u.crews = s.crews) : Keeps s u :=
  ⟨hc, fun k hk => by rwa [State.thread?, ht]⟩

theorem Pokes.keeps {s u : State} (h : Pokes s u) : Keeps s u := by
  obtain ⟨_, _, _, _, _, rfl⟩ := h
  exact keeps_of_eq rfl rfl

theorem Discards.keeps {s u : State} (h : Discards s u) : Keeps s u := by
  obtain ⟨_, _, _, rfl⟩ := h.rest
  exact keeps_of_eq rfl rfl

theorem keeps_withThread {s : State} {k : Nat} {t : Thread} (ht : s.thread? k = some t) (v : Thread) : Keeps s (s.withThread k v) := by
  refine ⟨rfl, fun j hj => (withThread_thread?_other s v ?_).trans hj⟩
  rintro rfl
  cases ht.symm.trans hj

theorem ends_modMember (m : Nat) (f : Thread → Thread) (s : State) : Ends (modMember m f) s (fun _ u => Keeps s u) := by
  by_cases hm : 2 ^ 30 ≤ m
  · refine ends_if_pos hm (ends_look_bind ?_)
    split
    · exact ends_emit (keeps_of_eq rfl rfl)
    · exact ends_pure (Keeps.refl s)
  · refine ends_if_neg hm ?_
    cases ht : s.thread? m with
    | none =>
      refine ends_modThread_any ?_
      rw [ht]
      exact Keeps.refl s
    | some t => exact ends_modThread ht (keeps_withThread ht (f t))

theorem ends_releaseWaiters (flask : Bool) (members : List Nat) (phase : BitVec 32) (rel : List Nat) (s : State) :
    Ends (releaseWaiters flask members phase rel) s (fun _ u => Keeps s u) := by
  refine ends_forEach (Keeps s) (Keeps.refl s) fun m _ u hu => ends_look_bind ?_
  split
  case h_1 => exact ends_pure hu
  case h_2 t ht =>
    cases hst : t.status with
    | parked p =>
      cases p with
      | barrier f w own =>
        refine ends_ite ?_ (ends_pure hu)
        exact (ends_resume ht).mono fun _ v hv => (hu.trans (keeps_withThread ht _)).trans hv.keeps
      | _ => exact ends_pure hu
    | spilled =>
      dsimp only
      split
      · exact ends_ite ((ends_maskSave _ _ _ _ _ u).mono fun _ v hv => hu.trans hv.keeps) (ends_pure hu)
      · exact ends_pure hu
    | _ => exact ends_pure hu

/-- A crew in the phase after its present one, whose arrivals' releases its waiters acquire. -/
def Crew.inNextPhase (s : State) (c : Crew) : Crew := { c with phase := c.phase + 1, rel := [], prev := outstanding s c.prev ++ outstanding s c.rel }

/-- Some member has not arrived at its barrier, or is nowhere. -/
def someoneStill (s : State) (flask : Bool) (members : List Nat) : Prop := ∃ m ∈ members, ∀ t, memberThread s m = some t → (flagsAt flask t).arrived = false

/-- What the check of a unit's phase leaves: while a member has still to arrive, everything; else the phase of a crew completes. -/
structure PhaseChecked (flask : Bool) (n : Nat) (members : List Nat) (s u : State) : Prop where
  absent : ∀ k, s.thread? k = none → u.thread? k = none
  crews : flask = true → u.crews = s.crews
  skipped : someoneStill s flask members → u = s
  completed : flask = false → members ≠ [] → (∀ m ∈ members, ∃ t, memberThread s m = some t ∧ t.barCrew.arrived = true) →
    ∀ c, mapGet n s.crews = some c → mapGet n u.crews = some (Crew.inNextPhase s c)

theorem ends_completeIf (flask : Bool) (n : Nat) (members : List Nat) (s : State) : Ends (completeIf flask n members) s (fun _ u => PhaseChecked flask n members s u) := by
  have hkept {u : State} (hu : Keeps s u) (hsk : ¬ someoneStill s flask members) (hc : flask = false → mapGet n s.crews = none) : PhaseChecked flask n members s u := by
    refine ⟨hu.absent, fun _ => hu.crews, fun h => absurd h hsk, fun hf _ _ c hn => ?_⟩
    cases (hc hf).symm.trans hn
  refine ends_look_bind ?_
  split
  case isTrue h =>
    refine ends_pure ⟨fun _ hk => hk, fun _ => rfl, fun _ => rfl, fun hf hne hall => ?_⟩
    simp only [Bool.or_eq_true, List.isEmpty_iff, hne, false_or, Bool.not_eq_true', List.all_eq_false] at h
    obtain ⟨m, hm, hstill⟩ := h
    obtain ⟨t, ht, ha⟩ := hall m hm
    rw [ht, hf] at hstill
    exact absurd ha hstill
  case isFalse h =>
    have hsk : ¬ someoneStill s flask members := by
      rintro ⟨m, hm, hstill⟩
      simp only [Bool.or_eq_true, not_or, Bool.not_eq_true', List.all_eq_false, not_exists, not_and, not_not] at h
      have ha := h.2 m hm
      cases ht : memberThread s m with
      | none =>
        rw [ht] at ha
        cases ha
      | some t =>
        rw [ht] at ha
        exact Bool.false_ne_true ((hstill t ht).symm.trans ha)
    refine ends_bind ((ends_forEach (Keeps s) (Keeps.refl s) fun m _ u hu => (ends_modMember m _ u).mono fun _ v hv => hu.trans hv).mono fun _ u hu => ?_)
    cases flask with
    | true =>
      refine ends_if_pos rfl ?_
      split
      · exact ends_pure (hkept hu hsk nofun)
      · refine ends_emit_bind ((ends_releaseWaiters _ _ _ _ _).mono fun _ v hv => hkept (hu.trans (Keeps.trans ?_ hv)) hsk nofun)
        exact keeps_of_eq rfl rfl
    | false =>
      refine ends_if_neg Bool.false_ne_true ?_
      split
      case h_1 hc => exact ends_pure (hkept hu hsk fun _ => hc)
      case h_2 c hc =>
        refine ends_emit_bind ((ends_releaseWaiters _ _ _ _ _).mono fun _ v hv => ⟨fun k hk => hv.absent k (hu.absent k hk), nofun, fun h => absurd h hsk, fun _ _ _ x hx => ?_⟩)
        cases hc.symm.trans hx
        rw [hv.crews]
        exact mapGet_mapPut_same ..

/-! ### A slot that empties (R53) -/

/-- A slot has emptied; its crew and flask still count its thread. -/
structure Vacated (s : State) (k : Nat) (u : State) : Prop where
  waits : SameWaits s u
  gone : u.thread? k = none
  others : ∀ j, j ≠ k → u.thread? j = s.thread? j
  crews : u.crews = s.crews
  grids : u.grids = s.grids
  migrants : u.migrants = s.migrants
  flasks : ∀ n f, mapGet n s.flasks = some f → ∃ x, mapGet n u.flasks = some { f with leftIssue := x }
  rise : keysRise s.flasks = true → keysRise u.flasks = true

theorem ends_endGroup {k : Nat} {t : Thread} {s : State} (ht : s.thread? k = some t) :
    Ends (endGroup k) s (fun _ u => ∃ gctxs g, u = State.withThread { s with gctxs := gctxs } k { t with group := g }) := by
  refine ends_look_bind ?_
  rw [ht]
  dsimp only
  split
  case h_1 hg => exact ends_pure ⟨s.gctxs, t.group, (withThread_self ht).symm⟩
  case h_2 g hg =>
    split
    · exact ends_modThread ht ⟨s.gctxs, none, rfl⟩
    · exact ends_ite (ends_emit_bind (ends_modThread ht ⟨_, none, rfl⟩)) (ends_emit_bind (ends_modThread ht ⟨_, none, rfl⟩))

theorem ends_releaseUnit (k : Nat) (s : State) : Ends (releaseUnit k) s (fun _ u => (∃ tiles, u = { s with tiles := tiles }) ∧ SameWaits s u) :=
  ends_look_bind (ends_ite (ends_modTile ⟨⟨_, rfl⟩, sameWaits_of_tile rfl rfl rfl rfl⟩) (ends_pure ⟨⟨s.tiles, rfl⟩, .refl s⟩))

/-- The end of a thread: its slot empties, and then it leaves its units. -/
theorem ends_vacate {k : Nat} {t : Thread} {s : State} {P : Unit → State → Prop} (hs : s.canonical) (ht : s.thread? k = some t)
    (h : ∀ u, Vacated s k u → Ends (if t.detached then pure () else leaveUnits k t) u P) : Ends (vacate k) s P := by
  refine ends_look_bind ?_
  rw [ht]
  refine ends_bind ((ends_endGroup ht).mono fun _ a ⟨gctxs, g, ha⟩ => ?_)
  refine ends_bind ((ends_releaseUnit k a).mono fun _ b ⟨⟨tiles, hb⟩, hbw⟩ => ?_)
  refine ends_bind ((ends_keepIssue t b).mono fun _ c hc => ends_emit_bind ?_)
  refine ends_bind ((ends_releaseTile _ _).mono fun _ d ⟨⟨mem, accs, tiles', hd⟩, hdw⟩ => h d ?_)
  obtain ⟨⟨flasks, rfl⟩, hflasks, hrise⟩ := hc
  have ha' : SameWaits s a := by
    subst ha
    exact sameWaits_of_eq rfl rfl rfl
  have hb' : SameWaits b ((Effect.thread k none).apply { b with flasks := flasks }) := sameWaits_of_eq rfl rfl rfl
  have hwaits := (ha'.trans hbw).trans (hb'.trans hdw)
  subst ha hb hd
  have hthreads : keysRise (mapPut k { t with group := g } s.threads) = true := keysRise_mapPut _ _ _ (threads_rise hs)
  exact ⟨hwaits, mapGet_mapDel_same _ _ none hthreads, fun j hj => (mapGet_mapDel_other _ _ _ none hthreads hj).trans (mapGet_mapPut_other _ _ _ _ hj),
    rfl, rfl, rfl, hflasks, hrise⟩

theorem quitSlotEmpty_next {s : State} {k : Nat} {t : Thread} {P : State → Prop} (hs : s.canonical) (hi : s.input = .one k) (ht : s.thread? k = some t) (hst : t.status = .waiting .quit)
    (hops : t.ops = []) (h : ∀ u, Vacated s k u → Ends (if t.detached then pure () else leaveUnits k t) u (fun _ v => P v)) : ∃ u, exec .quitSlotEmpty s = .next u ∧ P u := by
  refine commit_next ?_
  rw [hi]
  exact ends_bind (ends_needThread ht (ends_bind (ends_due (by simp [hst, hops]) (ends_vacate hs ht h))))

/-! ### A member that leaves its units (R42, R53, R68) -/

/-- A step that is made or not, before the same rest. -/
theorem ends_ite_bind {α : Type} {c : Prop} [Decidable c] {a : Act Unit} {rest : Act α} {s : State} {P : α → State → Prop} (Q : State → Prop)
    (ha : Ends a s (fun _ u => Q u)) (hs : Q s) (h : ∀ u, Q u → Ends rest u P) : Ends (if c then do a; rest else rest) s P :=
  ends_ite (ends_bind (ha.mono fun _ u hu => h u hu)) (h s hs)

theorem ends_setFusion (cl : Nat) (fused : Bool) (s : State) : Ends (setFusion cl fused) s (fun _ u => Discards s u) := by
  refine ends_bind ((ends_forEach (Discards s) (Discards.refl s) fun c _ u hu => ?_).mono fun _ u hu => ends_look_bind (ends_emit (hu.trans ?_)))
  · exact ends_look_bind (ends_ite (ends_pure hu) ((ends_l1Clear c u).mono fun _ v hv => hu.trans hv))
  · exact ⟨⟨u.tiles, u.cores, _, rfl⟩, fun n => ⟨(u.tile n).nodes, rfl⟩, fun n => ⟨(u.core n).l1, rfl⟩, fun _ => rfl⟩

section
variable {s u : State} {k : Nat} {t : Thread} {c : Crew} {f : Flask} (hu : Vacated s k u) (hc : mapGet t.crew s.crews = some c) (hf : mapGet t.flask s.flasks = some f)
include hu hc hf

/-- The last member of a crew ends it, and with the last crew of a flask the flask. -/
theorem ends_leaveUnits_last (hs : s.canonical) (hrest : c.members.filter (· ≠ k) = []) : Ends (leaveUnits k t) u (fun _ v => v.thread? k = none ∧ mapGet t.crew v.crews = none
    ∧ (f.crews = [t.crew] → mapGet t.flask v.flasks = none ∧ ∀ g, mapGet f.grid s.grids = some g → mapGet f.grid v.grids = some { g with done := g.done + 1 })) := by
  obtain ⟨x, hx⟩ := hu.flasks _ _ hf
  have hcrew : mapGet t.crew (mapDel t.crew u.crews) = none := mapGet_mapDel_same _ _ none (by rw [hu.crews]; exact crews_rise hs)
  refine ends_look_bind ?_
  rw [hu.crews, hc]
  refine ends_if_pos (by rw [hrest]; rfl) (ends_emit_bind (ends_look_bind ?_))
  rw [show mapGet t.flask ((Effect.crew t.crew none).apply u).flasks = _ from hx]
  dsimp only
  split
  case isTrue hlast =>
    refine ends_emit_bind ?_
    have hflask : mapGet t.flask (mapDel t.flask u.flasks) = none := mapGet_mapDel_same _ _ none (hu.rise (flasks_rise hs))
    refine ends_look_bind (ends_look_bind (ends_ite_bind (Discards _) (ends_setFusion _ _ _) (Discards.refl _) fun v hv => ends_look_bind ?_))
    obtain ⟨_, _, _, rfl⟩ := hv.rest
    have hgrids : ∀ g, mapGet f.grid s.grids = some g → mapGet f.grid u.grids = some g := fun g hg => by rwa [hu.grids]
    split
    case h_1 g hg =>
      refine ends_emit ⟨hu.gone, hcrew, fun _ => ⟨hflask, fun y hy => ?_⟩⟩
      cases (hgrids y hy).symm.trans hg
      exact mapGet_mapPut_same ..
    case h_2 hg =>
      refine ends_pure ⟨hu.gone, hcrew, fun _ => ⟨hflask, fun y hy => ?_⟩⟩
      cases (hgrids y hy).symm.trans hg
  case isFalse hmore =>
    refine ends_emit_bind (ends_look_bind ((ends_completeIf true _ _ _).mono fun _ v hv => ⟨hv.absent k hu.gone, ?_, fun hone => absurd ?_ hmore⟩))
    · rw [hv.crews rfl]
      exact hcrew
    · simp [hone]

/-- While other members stay, a phase completes without the one that leaves when all of them have arrived. -/
theorem ends_leaveUnits_others (hmem : t.crew ∈ f.crews) (hrest : c.members.filter (· ≠ k) ≠ []) :
    let rest := c.members.filter (· ≠ k)
    Ends (leaveUnits k t) u (fun _ v => v.thread? k = none
      ∧ ((∃ m ∈ rest, ∀ v, memberThread s m = some v → v.barCrew.arrived = false ∧ v.barFlask.arrived = false) →
        mapGet t.crew v.crews = some { c with members := rest } ∧ ∀ j, j ≠ k → v.thread? j = s.thread? j)
      ∧ ((∀ m ∈ rest, ∃ v, memberThread s m = some v ∧ v.barCrew.arrived = true) → mapGet t.crew v.crews = some (Crew.inNextPhase s { c with members := rest }))) := by
  intro rest
  obtain ⟨x, hx⟩ := hu.flasks _ _ hf
  let left : State := (Effect.crew t.crew (some { c with members := rest })).apply u
  have hcrew : mapGet t.crew left.crews = some { c with members := rest } := mapGet_mapPut_same ..
  have hwaits : SameWaits s left := hu.waits.trans (sameWaits_of_eq rfl rfl rfl)
  have hmember (m : Nat) (hm : m ∈ rest) : memberThread left m = memberThread s m := by
    have hmk : m ≠ k := by simpa using (List.mem_filter.mp hm).2
    simp only [memberThread, show left.migrants = s.migrants from hu.migrants, show left.thread? m = s.thread? m from hu.others m hmk]
  have hflask (m : Nat) (hm : m ∈ rest) : m ∈ flaskMembers left t.flask := by
    simp only [flaskMembers, show mapGet t.flask left.flasks = _ from hx, Option.map_some, Option.getD_some]
    refine List.mem_flatMap.mpr ⟨t.crew, hmem, ?_⟩
    simpa only [crewMembers, hcrew, Option.map_some, Option.getD_some] using hm
  refine ends_look_bind ?_
  rw [hu.crews, hc]
  refine ends_if_neg (by rwa [List.isEmpty_iff]) (ends_emit_bind (ends_bind ((ends_completeIf false _ _ left).mono fun _ v hv => ends_look_bind ?_)))
  refine (ends_completeIf true _ _ _).mono fun _ w hw => ⟨hw.absent k (hv.absent k hu.gone), fun ⟨m, hm, hstill⟩ => ?_, fun hall => ?_⟩
  · obtain rfl := hv.skipped ⟨m, hm, fun y hy => (hstill y ((hmember m hm).symm.trans hy)).1⟩
    obtain rfl := hw.skipped ⟨m, hflask m hm, fun y hy => (hstill y ((hmember m hm).symm.trans hy)).2⟩
    exact ⟨hcrew, hu.others⟩
  · rw [hw.crews rfl, hv.completed rfl hrest (fun m hm => by rw [hmember m hm]; exact hall m hm) _ hcrew]
    simp only [Crew.inNextPhase, hwaits.outstanding]

end

end Sys2Proof.Machine

namespace Sys2Proof.Claims
open Sys2Proof.Machine

/-- Settles O48: each event by the branch of its rule that the case takes; a phase completes, or does not, by who of the members that stay has arrived. -/
theorem threadEvents : Obligations.ThreadEvents := by
  intro s k t hs
  have hmember {P : State → Prop} (hi : s.input = .one k) (ht : s.thread? k = some t) (hst : t.status = .waiting .quit) (hops : t.ops = []) (hd : t.detached = false)
      (h : ∀ u, Vacated s k u → Ends (leaveUnits k t) u (fun _ v => P v)) : ∃ u, exec .quitSlotEmpty s = .next u ∧ P u :=
    quitSlotEmpty_next hs hi ht hst hops fun u hu => ends_if_neg (by simp [hd]) (h u hu)
  refine ⟨fun hi ht hst hops hd => quitSlotEmpty_next hs hi ht hst hops fun u hu => ends_if_pos hd (ends_pure ⟨hu.gone, hu.others⟩), fun w hi hw htid hk ht => ⟨fun hst hd => wakeArrival_active hi hw htid hk ht hst hd, fun hst => ?_⟩,
    fun hi ht hst hops hd c f hc hf hmem => ?_, fun w hi hw h => wakeArrival_discarded hi hw h, fun l hi ht hst hops hagain hroom hgroup => ?_,
    fun i m hi hm ha hf => runQueueArrival_joins hi hm ha hf, fun core i m hi hready hqueue hparked hnone => ?_,
    fun i r core pc words seq h hr ha hroom hd => messageArrival_queues h hr ha hroom hd, fun core m hi hready hnone hq hseq hparked => ?_⟩
  · obtain ⟨u, hu, v, hv⟩ := wakeArrival_parked hi hw htid hk ht hst
    exact ⟨u, v, hu, hv⟩
  · intro rest
    by_cases hrest : rest = []
    · obtain ⟨u, hu, hgone, hcrew, hunits⟩ := hmember hi ht hst hops hd fun x hx => ends_leaveUnits_last hx hc hf hs hrest
      exact ⟨u, hu, hgone, fun hne => absurd hrest hne, fun hne => absurd hrest hne, fun _ => ⟨hcrew, hunits⟩⟩
    · obtain ⟨u, hu, hgone, hstays, hcompletes⟩ := hmember hi ht hst hops hd fun x hx => ends_leaveUnits_others hx hc hf hmem hrest
      exact ⟨u, hu, hgone, fun _ => hstays, fun _ => hcompletes, fun he => absurd he hrest⟩
  · obtain ⟨u, hu, hgone, hm⟩ := migrationDeparture_leaves hs hi ht hst hops hagain hroom hgroup
    exact ⟨u, _, hu, hgone, hm, rfl, rfl, rfl, rfl, rfl⟩
  · intro moved
    obtain ⟨u, hu, hgone, hentered, hstarts⟩ := runQueueEntry_enters hs hi hready hqueue hparked hnone
    exact ⟨u, hu, hgone, hentered, hstarts⟩
  · obtain ⟨u, hu, hv, hqueue⟩ := handlerStart_runs hi hready hnone hq hseq hparked
    refine ⟨u, _, hu, hv, setPc_pc t m.pc, rfl, rfl, rfl, ?_, hqueue, fun j => ?_, rfl, rfl⟩
    · exact List.append_nil _
    · exact readS_of_arguments (t := handlerOf s core m) (a := fun i => m.words.getD i 0) rfl j

end Sys2Proof.Claims

/-!
SUPPORT. The integer operations of the machine (R78-R84) as the rules give them: each function that an instruction computes with equals the number that its rule states, modulo the width.
-/

namespace Sys2Proof.Claims
open Sys2Proof.Machine

/-! ### Sums, differences and products -/

theorem sub_eq_ofInt {w : Nat} (x y : BitVec w) : x - y = BitVec.ofInt w (x.toNat - y.toNat) := by
  rw [Int.sub_eq_add_neg, BitVec.ofInt_add, BitVec.ofInt_neg, BitVec.sub_eq_add_neg]
  simp

theorem mul_eq_ofNat {w : Nat} (x y : BitVec w) : x * y = BitVec.ofNat w (x.toNat * y.toNat) := by
  rw [BitVec.ofNat_mul]
  simp

theorem add_two_mul_signExtend_eq {n : Nat} (x : Word) (off : BitVec n) : x + 2 * off.signExtend 64 = intMod64 (x.toNat + 2 * off.toInt) := by
  rw [BitVec.signExtend, intMod64, BitVec.ofInt_add, BitVec.ofInt_mul]
  simp

/-! ### The lesser and the greater of two -/

theorem minMax_min_signed {w : Nat} (x y : BitVec w) : minMax false false x y = BitVec.ofInt w (min x.toInt y.toInt) := by
  unfold minMax
  by_cases h : x.toInt < y.toInt
  · simp [BitVec.slt, h, min_eq_left h.le]
  · simp [BitVec.slt, h, min_eq_right (not_lt.mp h)]

theorem minMax_max_signed {w : Nat} (x y : BitVec w) : minMax true false x y = BitVec.ofInt w (max x.toInt y.toInt) := by
  unfold minMax
  by_cases h : x.toInt < y.toInt
  · simp [BitVec.slt, h, max_eq_right h.le]
  · simp [BitVec.slt, h, max_eq_left (not_lt.mp h)]

theorem minMax_min_unsigned {w : Nat} (x y : BitVec w) : minMax false true x y = BitVec.ofNat w (min x.toNat y.toNat) := by
  unfold minMax
  by_cases h : x.toNat < y.toNat
  · simp [BitVec.ult, h, min_eq_left h.le]
  · simp [BitVec.ult, h, min_eq_right (not_lt.mp h)]

theorem minMax_max_unsigned {w : Nat} (x y : BitVec w) : minMax true true x y = BitVec.ofNat w (max x.toNat y.toNat) := by
  unfold minMax
  by_cases h : x.toNat < y.toNat
  · simp [BitVec.ult, h, max_eq_right h.le]
  · simp [BitVec.ult, h, max_eq_left (not_lt.mp h)]

/-- By the NS bit of a packed instruction (R83). -/
theorem minMax_min_ns {w : Nat} (ns : BitVec 1) (x y : BitVec w) :
    minMax false (ns == 1) x y = if ns = 0 then BitVec.ofInt w (min x.toInt y.toInt) else BitVec.ofNat w (min x.toNat y.toNat) := by
  obtain rfl | rfl := BitVec.eq_zero_or_eq_one ns
  · exact minMax_min_signed x y
  · exact minMax_min_unsigned x y

theorem minMax_max_ns {w : Nat} (ns : BitVec 1) (x y : BitVec w) :
    minMax true (ns == 1) x y = if ns = 0 then BitVec.ofInt w (max x.toInt y.toInt) else BitVec.ofNat w (max x.toNat y.toNat) := by
  obtain rfl | rfl := BitVec.eq_zero_or_eq_one ns
  · exact minMax_max_signed x y
  · exact minMax_max_unsigned x y

/-! ### Shifts -/

theorem shiftLeft_eq {w : Nat} (x : BitVec w) (n : Nat) : shiftLeft x n = if w ≤ n then 0 else BitVec.ofNat w (x.toNat * 2 ^ n) := by
  unfold shiftLeft
  congr 1
  apply BitVec.eq_of_toNat_eq
  simp [Nat.shiftLeft_eq]

theorem shiftRight_eq {w : Nat} (x : BitVec w) (n : Nat) : shiftRight x n = if w ≤ n then 0 else BitVec.ofNat w (x.toNat / 2 ^ n) := by
  unfold shiftRight
  congr 1
  apply BitVec.eq_of_toNat_eq
  rw [BitVec.toNat_ushiftRight, BitVec.toNat_ofNat, Nat.shiftRight_eq_div_pow, Nat.mod_eq_of_lt ((Nat.div_le_self ..).trans_lt x.isLt)]

theorem shiftSigned_eq {w : Nat} (x : BitVec w) (n : Nat) :
    shiftSigned x n = if w ≤ n then (if x.msb then BitVec.allOnes w else 0) else BitVec.ofInt w (x.toInt / 2 ^ n) := by
  unfold shiftSigned
  rw [BitVec.sshiftRight, Int.shiftRight_eq_div_pow]
  norm_cast

theorem shiftSigned_eq_sar (x : Word) (n : Nat) : shiftSigned x n = sar x n := by
  rw [shiftSigned_eq, sar]
  simp only [BitVec.msb_eq_toInt, decide_eq_true_eq]
  rfl

/-- The two parts of a rotation share no bit, so that their union is their sum. -/
theorem rotate_eq_rol (x : Word) (n : Nat) : rotate x n = rol x n := by
  have hn : n % 64 < 64 := Nat.mod_lt _ (by decide)
  rw [rotate, rol]
  generalize n % 64 = m at hn
  have hdisjoint : x <<< m &&& x >>> (64 - m) = 0#64 := by
    apply BitVec.eq_of_getLsbD_eq
    intro i hi
    simp only [BitVec.getLsbD_and, BitVec.getLsbD_shiftLeft, BitVec.getLsbD_ushiftRight, BitVec.getLsbD_zero]
    by_cases h : i < m
    · simp [h]
    · simp [BitVec.getLsbD_of_ge x (64 - m + i) (by omega)]
  rw [BitVec.rotateLeft_def, Nat.mod_eq_of_lt hn, ← BitVec.add_eq_or_of_and_eq_zero _ _ hdisjoint]
  apply BitVec.eq_of_toNat_eq
  simp [mod64, Nat.shiftLeft_eq, Nat.shiftRight_eq_div_pow]

/-! ### Counts and reversals -/

theorem leadingZeros_eq {w : Nat} (x : BitVec w) (n : Nat) : leadingZeros x n = ((List.range n).find? (fun i => x.getLsbD (n - 1 - i))).getD n := by
  induction n with
  | zero => rfl
  | succ n ih =>
    rw [leadingZeros, List.range_succ_eq_map, List.find?_cons]
    cases h : x.getLsbD n with
    | true => simp [h]
    | false =>
      have hshift : ((fun i => x.getLsbD (n + 1 - 1 - i)) ∘ Nat.succ) = fun i => x.getLsbD (n - 1 - i) := by
        funext i
        simp only [Function.comp]
        congr 1
        omega
      simp only [ih, List.find?_map, hshift]
      cases List.find? (fun i => x.getLsbD (n - 1 - i)) (List.range n) <;> simp [h, Nat.add_comm]

theorem trailingZeros_eq {w : Nat} (x : BitVec w) {n : Nat} (hn : n ≤ w) : trailingZeros x n = ((List.range n).find? (fun i => x.getLsbD (w - n + i))).getD n := by
  induction n with
  | zero => rfl
  | succ n ih =>
    rw [trailingZeros, List.range_succ_eq_map, List.find?_cons]
    cases h : x.getLsbD (w - (n + 1)) with
    | true => simp
    | false =>
      have hshift : ((fun i => x.getLsbD (w - (n + 1) + i)) ∘ Nat.succ) = fun i => x.getLsbD (w - n + i) := by
        funext i
        simp only [Function.comp]
        congr 1
        omega
      simp only [ih (by omega), List.find?_map, hshift]
      cases List.find? (fun i => x.getLsbD (w - n + i)) (List.range n) <;> simp [Nat.add_comm]

theorem countOnes_eq {w : Nat} (x : BitVec w) (n : Nat) : countOnes x n = ((List.range n).filter (fun i => x.getLsbD i)).length := by
  induction n with
  | zero => rfl
  | succ n ih =>
    rw [countOnes, ih, List.range_succ, List.filter_append, List.length_append]
    cases h : x.getLsbD n <;> simp [h]

theorem getLsbD_foldl_or {w : Nat} {α : Type} (f : α → BitVec w) (i : Nat) (l : List α) (x : BitVec w) :
    (l.foldl (fun x j => x ||| f j) x).getLsbD i = (x.getLsbD i || l.any (fun j => (f j).getLsbD i)) := by
  induction l generalizing x with
  | nil => simp
  | cons a l ih => simp [ih, Bool.or_assoc]

theorem shiftRight_and_0xFF_eq (x : Word) (k : Nat) : x >>> k &&& 0xFF = (x.extractLsb' k 8).setWidth 64 := by
  apply BitVec.eq_of_toNat_eq
  have hmask : (x.toNat >>> k) &&& 255 = (x.toNat >>> k) % 256 := Nat.and_two_pow_sub_one_eq_mod _ 8
  simp only [BitVec.ofNat_eq_ofNat, BitVec.toNat_and, BitVec.toNat_ushiftRight, BitVec.toNat_ofNat, Nat.reducePow, Nat.reduceMod, hmask, BitVec.toNat_setWidth, BitVec.extractLsb'_toNat]
  omega

/-- Bit by bit: each bit of the result lies in one byte, and comes from that of the mirrored byte. -/
theorem swapBytes_eq (x : Word) : swapBytes x = x.extractLsb' 0 8 ++ x.extractLsb' 8 8 ++ x.extractLsb' 16 8 ++ x.extractLsb' 24 8 ++ x.extractLsb' 32 8 ++ x.extractLsb' 40 8
    ++ x.extractLsb' 48 8 ++ x.extractLsb' 56 8 := by
  apply BitVec.eq_of_getLsbD_eq
  intro i hi
  have hbytes : List.range 8 = [0, 1, 2, 3, 4, 5, 6, 7] := rfl
  simp only [swapBytes, hbytes, getLsbD_foldl_or, shiftRight_and_0xFF_eq]
  simp only [List.any_cons, List.any_nil, BitVec.ofNat_eq_ofNat, BitVec.getLsbD_zero, BitVec.getLsbD_append, BitVec.getLsbD_extractLsb', BitVec.getLsbD_shiftLeft, BitVec.getLsbD_setWidth]
  grind

/-! ### Division -/

theorem divSigned_eq (x y : Word) :
    divSigned x y = if y = 0 then mod64 (2 ^ 64 - 1) else if x.toInt = -2 ^ 63 ∧ y.toInt = -1 then mod64 (2 ^ 63) else intMod64 (x.toInt.tdiv y.toInt) := by
  unfold divSigned
  split
  · rfl
  · split
    · next h =>
      obtain ⟨hx, hy⟩ := h
      rw [hx, hy]
      rfl
    · rfl

theorem divUnsigned_eq (x y : Word) : divUnsigned x y = if y = 0 then mod64 (2 ^ 64 - 1) else mod64 (x.toNat / y.toNat) := rfl

theorem remSigned_eq (x y : Word) :
    remSigned x y = if y = 0 then x else if x.toInt = -2 ^ 63 ∧ y.toInt = -1 then 0 else intMod64 (x.toInt - y.toInt * x.toInt.tdiv y.toInt) := by
  unfold remSigned
  split
  · rfl
  · split
    · next h =>
      obtain ⟨hx, hy⟩ := h
      rw [hx, hy]
      rfl
    · rw [Int.tmod_def]
      rfl

theorem remUnsigned_eq (x y : Word) : remUnsigned x y = if y = 0 then x else mod64 (x.toNat - y.toNat * (x.toNat / y.toNat)) := by
  rw [remUnsigned, Nat.mod_eq_sub]
  rfl

/-! ### Lanes -/

theorem testBit_joinLanes {w i : Nat} (hi : i < w) (l : List (BitVec w)) (k : Nat) (hk : k < l.length) : (joinLanes w l).testBit (w * k + i) = l[k].getLsbD i := by
  induction l generalizing k with
  | nil => simp at hk
  | cons x r ih =>
    rw [joinLanes, Nat.add_comm, Nat.testBit_two_pow_mul_add _ x.isLt]
    cases k with
    | zero => simp [hi, BitVec.getLsbD]
    | succ k =>
      have hge : ¬ w * (k + 1) + i < w := by rw [Nat.mul_succ]; omega
      have hsub : w * (k + 1) + i - w = w * k + i := by rw [Nat.mul_succ]; omega
      rw [if_neg hge, hsub, ih k (Nat.lt_of_succ_lt_succ hk)]
      rfl

/-- Nothing passes from one lane to another (R83). -/
theorem extractLsb'_mapLanes {n w : Nat} (f : Nat → BitVec w) {k : Nat} (hk : k < n / w) : (mapLanes n w f).extractLsb' (w * k) w = f k := by
  have hfit : w * k + w ≤ n := by
    calc w * k + w = w * (k + 1) := rfl
      _ ≤ w * (n / w) := Nat.mul_le_mul_left w hk
      _ ≤ n := Nat.mul_div_le n w
  apply BitVec.eq_of_getLsbD_eq
  intro i hi
  have hlt : w * k + i < n := by omega
  rw [BitVec.getLsbD_extractLsb', mapLanes, BitVec.getLsbD_ofNat, testBit_joinLanes hi _ k (by simpa using hk)]
  simp [hi, hlt]

/-! ### Conditions -/

/-- One code of R84 after the other. -/
theorem condition_eq_holds {cc : BitVec 4} (h : cc.toNat ≤ 11) (x y : Word) : condition cc x y = holds cc.toNat x y := by
  unfold condition holds
  generalize cc.toNat = n at h
  interval_cases n <;> simp [BitVec.slt, BitVec.sle, BitVec.ult, BitVec.ule, BitVec.toNat_inj, bne, beq_eq_decide]

/-! ### Control registers (R75) -/

theorem zeroExtend_eq_mod64 {n : Nat} (x : BitVec n) : x.zeroExtend 64 = mod64 x.toNat := (BitVec.ofNat_toNat ..).symm

theorem readControl_of_controlValue {s : State} {t : Thread} {n x : Nat} (h : controlValue s t n = some x) : readControl s s.cur (t.issuing s) n = mod64 x := by
  unfold controlValue at h
  split at h <;> cases h
  case h_1 | h_2 | h_3 | h_4 | h_8 => rfl
  case h_5 => simp [readControl, mod64, clusterOfTile, tileOf, Nat.div_div_eq_div_mul]
  case h_6 => simp [readControl, mod64, dieOf, dieOfTile, tileOf, Nat.div_div_eq_div_mul]
  case h_7 | h_9 | h_10 | h_11 | h_13 | h_14 | h_15 => exact zeroExtend_eq_mod64 _
  case h_12 => cases hd : t.div0 <;> simp [readControl, hd, mod64]
  case h_16 => cases hi : t.inreg <;> cases hb : t.broken <;> cases hf : t.fixed <;> simp [readControl, hi, hb, hf, mod64]
  case h_17 | h_18 | h_19 | h_21 | h_22 => simp [readControl, mod64]
  case h_20 =>
    apply BitVec.eq_of_toNat_eq
    simp [readControl, mod64, Nat.shiftLeft_eq, Nat.mul_comm]

theorem writeControl_of_controlWrite {k n : Nat} {x : Word} {f : Thread → Thread} (h : controlWrite k n x = some f) : (fun u => writeControl k u n x) = f := by
  unfold controlWrite at h
  split at h <;> cases h
  case h_8 =>
    have hclamp : clampPrio x = BitVec.ofNat 2 (min x.toNat 3) := by
      unfold clampPrio
      split
      · next h => rw [min_eq_left h.le]
      · next h =>
        rw [min_eq_right (not_lt.mp h)]
        rfl
    funext u
    simp [writeControl, isRunner, slotOf, hclamp]
  all_goals rfl

end Sys2Proof.Claims

/-!
SUPPORT. What each form of scalar instruction does when it issues, said once: it changes the register that it computes and moves the PC (R14, R71, R72).
-/

namespace Sys2Proof.Claims
open Sys2Proof.Machine

section
variable {s : State} {t : Thread} {gd : Guard} {len : Nat} {d a b : BitVec 4} {uses : Touch}

theorem scalarOp_ran {f : Word → Word → Word} {x : Word} (h : CanIssue s t gd uses) (hu : touches [touchS d, touchS a, touchS b] = uses) (hf : f (t.readS a) (t.readS b) = x) :
    scalarOp gd len d a b f s = .next (s.ran t len (fun u => if d = 0 then u else u.writeS d x)) := by
  subst hu hf
  simp only [← writeS_eq_ite]
  exact issue_ran h (vectorsLegal_none rfl rfl) nofun rfl

/-- A scalar operation that computes what a table gives. -/
theorem scalarOp_computes {i : Instr} {c : Computes} (a b : BitVec 4) (f : Word → Word → Word) (hexec : exec i = scalarOp c.guard c.len c.d a b f)
    (hu : touches [touchS c.d, touchS a, touchS b] = c.uses) (hf : f (t.readS a) (t.readS b) = c.result) (h : CanIssue s t c.guard c.uses) :
    exec i s = .next (s.ran t c.len (fun u => if c.d = 0 then u else u.writeS c.d c.result)) := by
  rw [hexec]
  exact scalarOp_ran h hu hf

theorem unaryOp_computes {i : Instr} {c : Computes} (a : BitVec 4) (f : Word → Word) (hexec : exec i = unaryOp c.guard c.len c.d a f)
    (hu : (touchS c.d).union (touchS a) = c.uses) (hf : f (t.readS a) = c.result) (h : CanIssue s t c.guard c.uses) :
    exec i s = .next (s.ran t c.len (fun u => if c.d = 0 then u else u.writeS c.d c.result)) :=
  scalarOp_computes a 0 (fun x _ => f x) hexec (by simpa using hu) hf h

/-- A packed instruction writes the word whose lanes are those of the rule (R83). -/
theorem packedOp_ran {w : BitVec 2} (f : (n : Nat) → BitVec n → BitVec n → Word → BitVec n) {g : BitVec (laneWidth w) → BitVec (laneWidth w) → BitVec (laneWidth w)}
    (h : CanIssue s t gd (touches [touchS d, touchS a, touchS b])) (hf : ∀ x y, f (laneWidth w) x y (t.readS b) = g x y) :
    ∃ r : Word, (∀ k < 64 / laneWidth w, r.extractLsb' (laneWidth w * k) (laneWidth w)
        = g ((t.readS a).extractLsb' (laneWidth w * k) (laneWidth w)) ((t.readS b).extractLsb' (laneWidth w * k) (laneWidth w)))
      ∧ packedOp gd d a b w f s = .next (s.ran t 4 (fun u => if d = 0 then u else u.writeS d r)) :=
  ⟨_, fun _ hk => (extractLsb'_mapLanes _ hk).trans (hf _ _), scalarOp_ran h rfl rfl⟩

theorem compareOp_ran (f : Word → Word → Bool) {x : Bool} (h : CanIssue s t gd uses) (hu : touches [touchP d, touchS a, touchS b] = uses) (hf : f (t.readS a) (t.readS b) = x) :
    compareOp gd len d a b f s = .next (s.ran t len (fun u => u.writeP d x)) := by
  subst hu hf
  exact issue_ran h (vectorsLegal_none rfl rfl) nofun rfl

theorem predicateOp_ran (f : Bool → Bool → Bool) {x : Bool} (h : CanIssue s t gd uses) (hu : touches [touchP d, touchP a, touchP b] = uses) (hf : f (t.readP a) (t.readP b) = x) :
    predicateOp gd d a b f s = .next (s.ran t 4 (fun u => u.writeP d x)) := by
  subst hu hf
  exact issue_ran h (vectorsLegal_none rfl rfl) nofun rfl

/-- A condition that an instruction requires and that is false traps at the instruction (R144). -/
theorem stops_require {c : Cause} {addr : Word} {α : Type} {rest : Unit → Act α} {ok : Bool} (hok : ok = false) :
    StopsWith (require ok c addr >>= rest) (s.withCurrent (t.issuing s)) (.trap (preciseTrap t s.insn c addr)) := by
  subst hok
  exact stops_bind (stops_raise (t := t.issuing s) (withCurrent_thread s _))

theorem divideOp_traps {f : Word → Word → Word} (h : CanIssue s t gd (touches [touchS d, touchS a, touchS b])) (hb : t.readS b = 0) (hdiv : t.div0 = true) :
    divideOp gd d a b f s = commit "TRAP_ENTRY" (enterTrap s.cur (preciseTrap t s.insn .div0 0) false) s :=
  issue_trap h (vectorsLegal_none rfl rfl) nofun (stops_require (by simp [hb, hdiv]))

theorem divideOp_ran {f : Word → Word → Word} (h : CanIssue s t gd (touches [touchS d, touchS a, touchS b])) (hb : t.readS b ≠ 0 ∨ t.div0 = false) :
    divideOp gd d a b f s = .next (s.ran t 4 (fun u => if d = 0 then u else u.writeS d (f (t.readS a) (t.readS b)))) := by
  simp only [← writeS_eq_ite]
  refine issue_eq h (vectorsLegal_none rfl rfl) nofun (ends_bind (ends_require ?_ (ends_bind (ends_modCur (ends_pure (afterFlow_seq ..))))))
  obtain hb | hb := hb <;> simp_all

/-- A branch that issues goes to its target: its condition is its guard (R87). -/
theorem branchOp_jumped {off : Word} (h : CanIssue s t gd {}) : branchOp gd len off s = .next (s.jumped t (t.pc + 2 * off) id) :=
  issue_eq h (vectorsLegal_none rfl rfl) nofun (ends_pure (afterFlow_jump ..))

theorem branchOp_skipped {off : Word} (h : HasTurn s t) (hfree : t.free (touchP gd.p)) (hg : guardHolds gd t = false) :
    branchOp gd len off s = .next (s.withCurrent { t.ticked.advance len s.cycle with word := s.insn }) :=
  issue_skipped h (vectorsLegal_none rfl rfl) hfree hg

theorem jumpOp_jumped {off : Word} (h : CanIssue s t always (touchS d)) :
    jumpOp len d off s = .next (s.jumped t (t.pc + 2 * off) (fun u => if d = 0 then u else u.writeS d (t.pc + 4))) := by
  simp only [← writeS_eq_ite]
  exact issue_jumped h (vectorsLegal_none rfl rfl) nofun rfl

end

@[simp] theorem union_touchP_zero (x : Touch) : x.union (touchP 0#4) = x := by simp [Touch.union, touchP]

end Sys2Proof.Claims

/-!
CERTIFICATES. The scalar instructions: results, shifts, division, packed lanes, predicates, branches and jumps, and the control registers.
-/

namespace Sys2Proof.Claims
open Sys2Proof.Machine

/-- The integer instructions of R78. -/
theorem exec_arithmetic {i : Instr} {s : State} {t : Thread} {c : Computes} (h : arithmetic t i = some c) (hc : CanIssue s t c.guard c.uses) :
    exec i s = .next (s.ran t c.len (fun u => if c.d = 0 then u else u.writeS c.d c.result)) := by
  cases i with
  | add gd d a b => cases h; exact scalarOp_computes a b (· + ·) rfl rfl (BitVec.add_def ..) hc
  | sub gd d a b => cases h; exact scalarOp_computes a b (· - ·) rfl rfl (sub_eq_ofInt ..) hc
  | mul gd d a b => cases h; exact scalarOp_computes a b (· * ·) rfl rfl (mul_eq_ofNat ..) hc
  | mulh gd d a b => cases h; exact scalarOp_computes a b mulHigh rfl rfl rfl hc
  | mulhn gd d a b => cases h; exact scalarOp_computes a b mulHighUnsigned rfl rfl rfl hc
  | and gd d a b => cases h; exact scalarOp_computes a b (· &&& ·) rfl rfl rfl hc
  | or gd d a b => cases h; exact scalarOp_computes a b (· ||| ·) rfl rfl rfl hc
  | xor gd d a b => cases h; exact scalarOp_computes a b (· ^^^ ·) rfl rfl rfl hc
  | andn gd d a b => cases h; exact scalarOp_computes a b (fun x y => x &&& ~~~y) rfl rfl rfl hc
  | min gd d a b => cases h; exact scalarOp_computes a b (minMax false false) rfl rfl (minMax_min_signed ..) hc
  | max gd d a b => cases h; exact scalarOp_computes a b (minMax true false) rfl rfl (minMax_max_signed ..) hc
  | minn gd d a b => cases h; exact scalarOp_computes a b (minMax false true) rfl rfl (minMax_min_unsigned ..) hc
  | maxn gd d a b => cases h; exact scalarOp_computes a b (minMax true true) rfl rfl (minMax_max_unsigned ..) hc
  | clz gd d a => cases h; exact unaryOp_computes a (fun x => BitVec.ofNat 64 (leadingZeros x 64)) rfl (by simp) (congrArg mod64 (leadingZeros_eq ..)) hc
  | ctz gd d a => cases h; exact unaryOp_computes a (fun x => BitVec.ofNat 64 (trailingZeros x 64)) rfl (by simp) (congrArg mod64 (by simp [trailingZeros_eq])) hc
  | pop gd d a => cases h; exact unaryOp_computes a (fun x => BitVec.ofNat 64 (countOnes x 64)) rfl (by simp) (congrArg mod64 (countOnes_eq ..)) hc
  | brev gd d a => cases h; exact unaryOp_computes a BitVec.reverse rfl (by simp) rfl hc
  | bswap gd d a => cases h; exact unaryOp_computes a swapBytes rfl (by simp) (swapBytes_eq _) hc
  | sel gd d a b k =>
    cases h
    simp only [← writeS_eq_ite]
    exact issue_ran hc (vectorsLegal_none rfl rfl) nofun rfl
  | _ => cases h

/-- The immediate forms of R81, and the 16-bit forms of R89 as the instructions that they abbreviate. -/
theorem exec_immediates {i : Instr} {s : State} {t : Thread} {c : Computes} (h : immediates t i = some c) (hc : CanIssue s t c.guard c.uses) :
    exec i s = .next (s.ran t c.len (fun u => if c.d = 0 then u else u.writeS c.d c.result)) := by
  cases i with
  | addi gd d a imm => cases h; exact unaryOp_computes a (· + imm.signExtend 64) rfl (by simp) (add_signExtend_eq ..) hc
  | andi gd d a imm => cases h; exact unaryOp_computes a (· &&& imm.signExtend 64) rfl (by simp) rfl hc
  | ori gd d a imm => cases h; exact unaryOp_computes a (· ||| imm.signExtend 64) rfl (by simp) rfl hc
  | xori gd d a imm => cases h; exact unaryOp_computes a (· ^^^ imm.signExtend 64) rfl (by simp) rfl hc
  | shli gd d a imm => cases h; exact unaryOp_computes a (shiftLeft · imm.toNat) rfl (by simp) (shiftLeft_eq ..) hc
  | shri gd d a imm => cases h; exact unaryOp_computes a (shiftRight · imm.toNat) rfl (by simp) (shiftRight_eq ..) hc
  | sari gd d a imm => cases h; exact unaryOp_computes a (shiftSigned · imm.toNat) rfl (by simp) (shiftSigned_eq_sar ..) hc
  | roli gd d a imm => cases h; exact unaryOp_computes a (rotate · imm.toNat) rfl (by simp) (rotate_eq_rol ..) hc
  | cMov d a => cases h; exact scalarOp_computes a 0 (· ||| ·) rfl (by simp) (BitVec.or_zero ..) hc
  | cAdd d a => cases h; exact scalarOp_computes d a (· + ·) rfl (by simp) (BitVec.add_def ..) hc
  | cSub d a => cases h; exact scalarOp_computes d a (· - ·) rfl (by simp) (sub_eq_ofInt ..) hc
  | cAddi d imm => cases h; exact unaryOp_computes d (· + imm.signExtend 64) rfl (by simp) (add_signExtend_eq ..) hc
  | cLdi d imm => cases h; exact unaryOp_computes 0 (· + imm.signExtend 64) rfl (by simp) (BitVec.zero_add ..) hc
  | cShli d imm => cases h; exact unaryOp_computes d (shiftLeft · imm.toNat) rfl (by simp) (shiftLeft_eq ..) hc
  | cNop => cases h; exact unaryOp_computes 0 (· + 0) rfl rfl rfl hc
  | _ => cases h

/-- Settles O9: the two families, each by the operation that its instructions issue as. -/
theorem integerResults : Obligations.IntegerResults :=
  ⟨fun _ _ _ _ => exec_arithmetic, fun _ _ _ _ => exec_immediates⟩

/-- Settles O10: each shift equals that of its rule, by the amount that the instruction takes from the low 8 bits. -/
theorem shiftsByLowEightBits : Obligations.Shifts := by
  intro i s t c h hc
  cases i with
  | shl gd d a b => cases h; exact scalarOp_computes a b (fun x y => shiftLeft x (y.toNat % 256)) rfl rfl (shiftLeft_eq ..) hc
  | shr gd d a b => cases h; exact scalarOp_computes a b (fun x y => shiftRight x (y.toNat % 256)) rfl rfl (shiftRight_eq ..) hc
  | sar gd d a b => cases h; exact scalarOp_computes a b (fun x y => shiftSigned x (y.toNat % 256)) rfl rfl (shiftSigned_eq_sar ..) hc
  | rol gd d a b => cases h; exact scalarOp_computes a b (fun x y => rotate x (y.toNat % 256)) rfl rfl (rotate_eq_rol ..) hc
  | _ => cases h

/-- Each division of R79 is a division operation whose function gives the result of the rule. -/
theorem exec_divisions {i : Instr} {t : Thread} {gd : Guard} {d a b : BitVec 4} {x : Word} (h : divisions t i = some (gd, d, a, b, x)) :
    ∃ f : Word → Word → Word, exec i = divideOp gd d a b f ∧ f (t.readS a) (t.readS b) = x := by
  cases i with
  | div => cases h; exact ⟨divSigned, rfl, divSigned_eq ..⟩
  | divn => cases h; exact ⟨divUnsigned, rfl, divUnsigned_eq ..⟩
  | rem => cases h; exact ⟨remSigned, rfl, remSigned_eq ..⟩
  | remn => cases h; exact ⟨remUnsigned, rfl, remUnsigned_eq ..⟩
  | _ => cases h

/-- Settles O11: a division requires a divisor or a disabled trap before it writes. -/
theorem division : Obligations.Division := by
  intro i s t gd d a b x h hc
  obtain ⟨f, hexec, rfl⟩ := exec_divisions h
  rw [hexec]
  exact ⟨fun hb hdiv => divideOp_traps hc hb hdiv, fun hb => divideOp_ran hc hb⟩

/-- Settles O12: the lanes of the result are those that its instruction computes, each equal to that of the rule. -/
theorem packedLanes : Obligations.PackedLanes := by
  intro i s t gd d a b w f _ h hc
  cases i with
  | padd => cases h; exact packedOp_ran (fun _ x y _ => x + y) hc fun x y => BitVec.add_def x y
  | psub => cases h; exact packedOp_ran (fun _ x y _ => x - y) hc fun x y => sub_eq_ofInt x y
  | pmul => cases h; exact packedOp_ran (fun _ x y _ => x * y) hc fun x y => mul_eq_ofNat x y
  | pmin _ _ _ _ _ ns => cases h; exact packedOp_ran (fun _ x y _ => minMax false (ns == 1) x y) hc fun x y => minMax_min_ns ns x y
  | pmax _ _ _ _ _ ns => cases h; exact packedOp_ran (fun _ x y _ => minMax true (ns == 1) x y) hc fun x y => minMax_max_ns ns x y
  | pshl _ _ _ _ _ bc => cases h; exact packedOp_ran (fun _ x y n => shiftLeft x (packedAmount bc y n)) hc fun x _ => shiftLeft_eq x _
  | pshr _ _ _ _ _ bc => cases h; exact packedOp_ran (fun _ x y n => shiftRight x (packedAmount bc y n)) hc fun x _ => shiftRight_eq x _
  | psar _ _ _ _ _ bc => cases h; exact packedOp_ran (fun _ x y n => shiftSigned x (packedAmount bc y n)) hc fun x _ => shiftSigned_eq x _
  | _ => cases h

/-- Settles O13: a well-formed instruction has a condition code that R84 assigns. -/
theorem predicates : Obligations.Predicates := by
  intro i s t gd len d uses b hwf h hc
  cases i with
  | cmp gd d a b cc =>
    cases h
    exact compareOp_ran (condition cc) hc rfl (condition_eq_holds (by simp_all [Instr.wf]) ..)
  | cmpi gd d a cc imm =>
    cases h
    exact compareOp_ran (fun x _ => condition cc x (imm.signExtend 64)) hc (by simp) (condition_eq_holds (by simp_all [Instr.wf]) ..)
  | cCmp d a cc =>
    cases h
    have hcc : (cc.zeroExtend 4).toNat = cc.toNat := BitVec.toNat_setWidth_of_le (by decide)
    exact compareOp_ran (fun x _ => condition (cc.zeroExtend 4) x 0) hc (by simp) (hcc ▸ condition_eq_holds (by omega) ..)
  | pand => cases h; exact predicateOp_ran (· && ·) hc rfl rfl
  | por => cases h; exact predicateOp_ran (· || ·) hc rfl rfl
  | pxor => cases h; exact predicateOp_ran (· ^^ ·) hc rfl rfl
  | pnot => cases h; exact predicateOp_ran (fun x _ => !x) hc (by simp) rfl
  | _ => cases h

/-- Each branch is a branch operation to the target of the rule. -/
theorem exec_branch {i : Instr} {pc : Word} {gd : Guard} {len : Nat} {target : Word} (h : branch pc i = some (gd, len, target)) :
    ∃ off, exec i = branchOp gd len off ∧ pc + 2 * off = target := by
  cases i with
  | br gd off => cases h; exact ⟨_, rfl, add_two_mul_signExtend_eq pc off⟩
  | cBr pf off => cases h; exact ⟨_, rfl, add_two_mul_signExtend_eq pc off⟩
  | _ => cases h

/-- Settles O14: a jump computes its target in words, modulo 2^64; a `JALR` writes after it has found its target even. -/
theorem branchesAndJumps : Obligations.BranchesAndJumps := by
  refine ⟨fun i s t gd len target h => ?_, fun s t d a => ⟨fun off h => ?_, fun off h => ?_, fun off h => ?_⟩⟩
  · obtain ⟨off, hexec, rfl⟩ := exec_branch h
    rw [hexec]
    exact ⟨branchOp_jumped, branchOp_skipped⟩
  · rw [← add_two_mul_signExtend_eq]
    exact jumpOp_jumped h
  · rw [← add_two_mul_signExtend_eq]
    exact jumpOp_jumped h
  · dsimp only
    rw [← add_signExtend_eq]
    split
    · next hodd => exact issue_trap h (vectorsLegal_none rfl rfl) nofun (stops_require (by simp [hodd]))
    · next heven =>
      simp only [← writeS_eq_ite]
      exact issue_eq h (vectorsLegal_none rfl rfl) nofun (ends_bind (ends_require (by simpa using heven) (ends_bind (ends_modCur (ends_pure (afterFlow_jump ..))))))

/-- Settles O15: `GETC` and `SETC` by the registers of the map. -/
theorem controlRegisters : Obligations.ControlRegisters := by
  refine ⟨fun s t gd d i x hx h => ?_, fun s t gd d i f hf h => ?_⟩
  · rw [← readControl_of_controlValue hx]
    simp only [← writeS_eq_ite]
    exact issue_ran h (vectorsLegal_none rfl rfl) nofun rfl
  · rw [← writeControl_of_controlWrite hf]
    exact issue_ran h (vectorsLegal_none rfl rfl) nofun rfl

end Sys2Proof.Claims

/-!
SUPPORT. Floating point: the sign and the zero of a code's magnitude, and the class of a code by its fields (R91, R109).
-/

namespace Sys2Proof.Machine
open Sys2Proof.Claims

/-! ### Signs of rationals -/

/-- Lowest terms keep zero zero and a positive number positive. -/
theorem Q.norm_num_zero {q : Q} (h : q.num = 0) : q.norm.num = 0 := by
  simp only [Q.norm]
  split
  · exact h
  · simp [h]

theorem Q.norm_num_pos {q : Q} (h : 0 < q.num) : 0 < q.norm.num := by
  simp only [Q.norm]
  split
  · exact h
  · have hdvd : (Nat.gcd q.num.natAbs q.den : Int) ∣ q.num := Int.natCast_dvd.mpr (Nat.gcd_dvd_left _ _)
    exact Int.ediv_pos_of_pos_of_dvd h (by positivity) hdvd

theorem Q.pow2_num_pos (e : Int) : 0 < (Q.pow2 e).num := by
  unfold Q.pow2
  split
  · simp
  · exact Int.one_pos

/-- A natural number times a power of two is zero where the number is, and positive elsewhere. -/
theorem Q.scale_ofNat_zero (e : Int) : (Q.scale (Q.ofNat 0) e).num = 0 := Q.norm_num_zero (by simp [Q.ofNat])

theorem Q.scale_ofNat_pos {m : Nat} (hm : 0 < m) (e : Int) : 0 < (Q.scale (Q.ofNat m) e).num :=
  Q.norm_num_pos (Int.mul_pos (by simpa [Q.ofNat] using hm) (Q.pow2_num_pos e))

/-! ### The value of a code (R91) -/

/-- The fraction, the exponent field and the sign of a code. -/
def FloatFmt.fraction (f : FloatFmt) (x : Nat) : Nat := x % 2 ^ f.mbits
def FloatFmt.exponent (f : FloatFmt) (x : Nat) : Nat := x / 2 ^ f.mbits % 2 ^ f.ebits
abbrev FloatFmt.negative (f : FloatFmt) (x : Nat) : Prop := x / 2 ^ (f.ebits + f.mbits) % 2 = 1

/-- The magnitude that a code's fraction and exponent field stand for. -/
def FloatFmt.magnitude (f : FloatFmt) (x : Nat) : Q :=
  if f.exponent x = 0 then Q.scale (Q.ofNat (f.fraction x)) (f.minExp - f.mbits)
  else Q.scale (Q.ofNat (2 ^ f.mbits + f.fraction x)) ((f.exponent x : Int) - f.bias - f.mbits)

/-- The value of a code that is neither an infinity nor a NaN. -/
def FloatFmt.number (f : FloatFmt) (x : Nat) : Val :=
  if (f.magnitude x).isZero then .zero (f.negative x) else .num (if f.negative x then (f.magnitude x).neg else f.magnitude x)

theorem FloatFmt.decode_ieee {f : FloatFmt} (h : f.kind = .ieee) (x : Nat) : f.decode x =
    if f.exponent x = 2 ^ f.ebits - 1 then (if f.fraction x = 0 then .inf (f.negative x) else .nan (decide (f.fraction x < 2 ^ (f.mbits - 1))) (f.negative x)) else f.number x := by
  simp only [FloatFmt.decode, h]
  rfl

theorem FloatFmt.decode_e4m3 {f : FloatFmt} (h : f.kind = .e4m3) (x : Nat) : f.decode x =
    if f.exponent x = 2 ^ f.ebits - 1 ∧ f.fraction x = 2 ^ f.mbits - 1 then .nan false (f.negative x) else f.number x := by
  simp only [FloatFmt.decode, h]
  rfl

theorem FloatFmt.decode_finite {f : FloatFmt} (h : f.kind = .finite) (x : Nat) : f.decode x = f.number x := by
  simp only [FloatFmt.decode, h]
  rfl

theorem FloatFmt.magnitude_zero {f : FloatFmt} {x : Nat} (he : f.exponent x = 0) (hm : f.fraction x = 0) : (f.magnitude x).num = 0 := by
  rw [FloatFmt.magnitude, if_pos he, hm]
  exact Q.scale_ofNat_zero _

theorem FloatFmt.magnitude_pos {f : FloatFmt} {x : Nat} (h : f.exponent x ≠ 0 ∨ f.fraction x ≠ 0) : 0 < (f.magnitude x).num := by
  unfold FloatFmt.magnitude
  split
  · next he => exact Q.scale_ofNat_pos (Nat.pos_of_ne_zero (h.resolve_left (not_not_intro he))) _
  · exact Q.scale_ofNat_pos (by positivity) _

/-! ### The class of a code (R109) -/

/-- The class bit of a number by its fields: zero, subnormal or normal, of either sign. -/
def FloatFmt.numberClass (f : FloatFmt) (x : Nat) : Nat :=
  if f.exponent x = 0 then (if f.fraction x = 0 then (if f.negative x then 3 else 4) else if f.negative x then 2 else 5)
  else if f.negative x then 1 else 6

theorem classOf_of_number {f : FloatFmt} {x : Nat} (h : f.decode x = f.number x) : classOf f x = f.numberClass x := by
  by_cases hz : f.exponent x = 0 ∧ f.fraction x = 0
  · obtain ⟨he, hm⟩ := hz
    simp [classOf, h, FloatFmt.number, Q.isZero, FloatFmt.magnitude_zero he hm, FloatFmt.numberClass, he, hm]
  · have hpos : 0 < (f.magnitude x).num := FloatFmt.magnitude_pos (not_and_or.mp hz)
    have hsub : f.subnormal x = decide (f.exponent x = 0) := by
      by_cases he : f.exponent x = 0
      · have hm : x % 2 ^ f.mbits ≠ 0 := fun hm => hz ⟨he, hm⟩
        rw [FloatFmt.exponent] at he
        simp [FloatFmt.subnormal, FloatFmt.exponent, he, hm]
      · rw [FloatFmt.exponent] at he
        simp [FloatFmt.subnormal, FloatFmt.exponent, he]
    have hsign : (if f.negative x then (f.magnitude x).neg else f.magnitude x).isNeg = decide (f.negative x) := by
      split
      · next hneg =>
        rw [decide_eq_true hneg]
        simpa [Q.isNeg, Q.neg] using hpos
      · next hneg =>
        rw [decide_eq_false hneg]
        simpa [Q.isNeg] using hpos.le
    simp only [classOf, h, FloatFmt.number, Q.isZero, hpos.ne', decide_false, Bool.false_eq_true, if_false, hsub, hsign, decide_eq_true_eq, FloatFmt.numberClass]
    by_cases he : f.exponent x = 0
    · have hm : f.fraction x ≠ 0 := fun hm => hz ⟨he, hm⟩
      simp only [he, hm, if_true, if_false]
    · simp [he]

theorem classBit_eq (f : FloatFmt) (x : Nat) : classBit f x =
    if f.kind = .ieee ∧ f.exponent x = 2 ^ f.ebits - 1 then
      (if f.fraction x = 0 then (if f.negative x then 0 else 7) else if f.fraction x < 2 ^ (f.mbits - 1) then 8 else 9)
    else if f.kind = .e4m3 ∧ f.exponent x = 2 ^ f.ebits - 1 ∧ f.fraction x = 2 ^ f.mbits - 1 then 9 else f.numberClass x := rfl

/-- The class that the value of a code gives is the class that its fields give. -/
theorem classOf_eq_classBit (f : FloatFmt) (x : Nat) : classOf f x = classBit f x := by
  rw [classBit_eq]
  cases hk : f.kind with
  | ieee =>
    have hd := FloatFmt.decode_ieee hk x
    by_cases ht : f.exponent x = 2 ^ f.ebits - 1
    · by_cases hm : f.fraction x = 0 <;> simp [classOf, hd, ht, hm]
    · simp only [ht, if_false] at hd
      simp [classOf_of_number hd, ht]
  | e4m3 =>
    have hd := FloatFmt.decode_e4m3 hk x
    by_cases ht : f.exponent x = 2 ^ f.ebits - 1 ∧ f.fraction x = 2 ^ f.mbits - 1
    · simp [classOf, hd, ht]
    · rw [if_neg ht] at hd
      simp [classOf_of_number hd, ht]
  | finite => simp [classOf_of_number (FloatFmt.decode_finite hk x)]

end Sys2Proof.Machine

/-!
CERTIFICATE. The scalar floating instructions (R94-R96, R106-R112).
-/

namespace Sys2Proof.Claims
open Sys2Proof.Machine

/-- A rule that changes the thread's registers and forfeits some of its next turns (R96, R111). -/
theorem issue_forfeits {f : Form} {s : State} {t : Thread} {g : Thread → Thread} {n : Nat} {body : Nat → Thread → Act Flow}
    (h : CanIssue s t f.guard (f.uses t)) (hv : vectorsLegal f t) (h3 : f.core3 = true → roleOf s.cur = 3)
    (hb : body s.cur (t.issuing s) = (do modThread s.cur g; forfeit s.cur n; return .seq)) : issue f body s = .next (s.ran t f.len (fun u => forfeits n (g u))) := by
  refine issue_eq h hv h3 ?_
  rw [hb]
  refine ends_bind (ends_modCur (ends_bind ?_))
  by_cases hn : n = 0
  · rw [forfeit, if_pos hn]
    simp only [forfeits, if_pos hn]
    exact ends_pure (ends_pure (afterFlow_seq ..))
  · rw [forfeit, if_neg hn]
    simp only [forfeits, if_neg hn]
    exact ends_modCur (ends_pure (afterFlow_seq ..))

/-- Each scalar floating instruction issues as its operation. -/
theorem exec_floats {i : Instr} {gd : Guard} {op : FloatOp} {d a b : BitVec 4} {ty : BitVec 2} (h : floats i = some (gd, op, d, a, b, ty)) :
    exec i = floatOp gd op d a b ty := by
  cases i with
  | fadd | fsub | fmul | ffma | fdiv | fsqrt | fmin | fmax => cases h; rfl
  | _ => cases h

/-- The turns of a division or square root, by the format of T. -/
theorem turns_typeFmt (op : FloatOp) (ty : BitVec 2) : op.turns (typeFmt ty) = arithmeticTurns op ty := by
  cases op <;> revert ty <;> decide

/-- Settles O16: each instruction writes what its operation gives, and the class of a code is the same by its value and by its fields. -/
theorem floatScalars : Obligations.FloatScalars := by
  refine ⟨fun i s t gd op d a b ty hi h => ?_, fun s t gd d a b => ⟨fun ty cc _ h => ?_, fun dst src _ h => ?_, fun c _ h => ?_⟩⟩
  · rw [exec_floats hi, ← turns_typeFmt]
    simp only [← writeS_eq_ite]
    exact issue_forfeits h (vectorsLegal_none rfl rfl) nofun rfl
  · exact issue_forfeits h (vectorsLegal_none rfl rfl) nofun rfl
  · simp only [← writeS_eq_ite]
    exact issue_forfeits h (vectorsLegal_none rfl rfl) nofun rfl
  · simp only [← writeS_eq_ite, ← classOf_eq_classBit]
    exact issue_ran h (vectorsLegal_none rfl rfl) nofun rfl

end Sys2Proof.Claims

/-!
CERTIFICATE. The statement about the values of the engines, which fails for one state: a row command that has read a word of its head (`EngineCmd.parts`), which `Performing` does not keep empty. Such a
command answers from the words that it has read (R349, R350), but the statement takes the whole head from memory as it is at the command's turn; a word of memory that has changed since tells the two apart.
-/

namespace Sys2Proof.Machine
open Sys2Proof.Claims

/-- The thread of the refutation, in slot 0 of core 2 of tile 0, with its `DKL` in flight. -/
def staleThread : Thread := { freshThread 5 0 0 0x2000 with
  ops := [⟨50, 0x1FFC, 0x12345679, true, {}, false, false, 0, false, 990, none⟩] }

/-- A plate of BF16 whose column 0 has 1.0 as its element 0. -/
def stalePlate : Plate := ⟨1, 0, false, [[0x80#8, 0x3F#8]], [], []⟩

/-- The data of the row: its element 0 is 1.0, the interval goes from 0 to 1024.0, and the head lies at offset 0x10000 of the store. -/
def staleData : List Nat := [0x3F80, 0x3C00, 0, 0x44800000, 0xFFFFFFFFF10000, 9, 77, 4]

/-- The row command, which has read word 0 of its head: 1.0 in column 0 of row 0. -/
def staleRow : EngineCmd where
  work := .row staleData
  key := 64
  op := 50
  core := 2
  ctx := 5
  pc := 0x1FFC
  token := 6
  a := 0
  b := 0
  e := Vector.replicate 8 0
  rmode := 0
  approx := 0
  fmta := 0
  fmtb := 0
  fmts := 0
  coefbase := 0
  scope := .flask
  after := []
  untimed := false
  accepted := true
  descA := 0
  descB := 0
  bases := 0
  amax := 0
  refused := none
  absent := none
  done := 0
  row := []
  got := []
  flags := 0
  top := .zero false
  update := none
  failed := false
  stopped := false
  converted := false
  parts := [⟨0, 0x3F800000, 0xFFFFFFFFF10000, localKey 0 0x10000, (0, 0)⟩]

/-- The state: that column of the head now holds a NaN, and the rest of it zeros. -/
def staleState : State := { State.reset with
  threads := [(64, staleThread)]
  input := .one 0
  mem := [(localKey 0 0x10002, 0xC0#8), (localKey 0 0x10003, 0x7F#8)]
  tiles := [(0, { array := { active := some stalePlate, fifo := [staleRow] } })] }

theorem staleState_canonical : staleState.canonical := by
  unfold State.canonical
  decide +kernel

theorem staleRow_performing : Performing staleState 0 2 staleRow 64 staleThread where
  input := rfl
  head := rfl
  going := rfl
  accepted := rfl
  fresh := ⟨rfl, rfl, rfl, rfl, rfl, rfl, rfl, rfl⟩
  issuer := ⟨rfl, rfl⟩
  crowd := by decide
  array := nofun
  coefs := nofun

/-- The model answers with a record, whose tau is that of the 1.0 read before. -/
theorem staleRow_writes : writesAfter 64 (exec .deckleRowCommand staleState) = [hit 6 4 (Claims.recordBytes 0 0x44800000 0x44800000 (fun _ => 0) 9 77 3)] := by decide +kernel

end Sys2Proof.Machine

namespace Sys2Proof.Claims
open Sys2Proof.Machine

/-- Refutes O59: a row command that has read a word of its head answers from what it read, where the statement has the answer from what memory holds now. -/
theorem not_engineValues : ¬ Obligations.EngineValues := by
  intro h
  obtain ⟨-, hvalues⟩ := h
  obtain ⟨harray, -⟩ := hvalues staleState 0 64 staleRow staleThread staleState_canonical rfl
  obtain ⟨-, -, hrow⟩ := harray staleRow_performing
  obtain ⟨hmiss, -⟩ := hrow staleData stalePlate rfl rfl rfl rfl rfl (by decide)
  obtain ⟨u, hexec, hended, -⟩ := hmiss ⟨0, by decide, by decide +kernel⟩
  have hw := staleRow_writes
  rw [hexec, writesAfter, hended.issuer] at hw
  exact absurd hw (by decide +kernel)

end Sys2Proof.Claims

/-!
SUPPORT. What the engines of a tile leave when they end a command, bytes stored in the local store, and rows of accumulators: one rule for each, which says what has changed and that nothing else has.
-/

namespace Sys2Proof.Machine
open Sys2Proof.Claims

/-! ### Tiles and their FIFOs -/

/-- The state with a tile as it now stands. -/
def State.withTile (s : State) (n : Nat) (x : Tile) : State := { s with tiles := mapPut n x s.tiles }

@[simp] theorem withTile_tile (s : State) (n : Nat) (x : Tile) : (s.withTile n x).tile n = x := by
  rw [State.tile, State.withTile, mapGet_mapPut_same, Option.getD_some]

@[simp] theorem engineQ_setEngineQ (e : Nat) (q : List EngineCmd) (t : Tile) : engineQ (setEngineQ e q t) e = q := by
  match e with
  | 0 => rfl
  | 1 => rfl
  | _ + 2 => rfl

/-- A FIFO replaced leaves all else of the array, and the owner of coefficient memory. -/
theorem setEngineQ_array (e : Nat) (q : List EngineCmd) (t : Tile) : (setEngineQ e q t).array = { t.array with fifo := (setEngineQ e q t).array.fifo } := by
  match e with
  | 0 => rfl
  | 1 => rfl
  | _ + 2 => rfl

@[simp] theorem setEngineQ_coefOwner (e : Nat) (q : List EngineCmd) (t : Tile) : (setEngineQ e q t).coefOwner = t.coefOwner := by
  match e with
  | 0 => rfl
  | 1 => rfl
  | _ + 2 => rfl

/-- The end of a command wakes no thread and frees nothing on a tile where none waits for room and the owners still have threads. -/
structure Quiet (s : State) (n : Nat) : Prop where
  crowd : ∀ x ∈ s.threads, tileOf x.1 = n → x.2.status ≠ .waiting .room
  array : ∀ x, (s.tile n).array.holder = some x → contextOn s n x = true
  coefs : ∀ x, (s.tile n).coefOwner = some x → contextOn s n x = true

theorem Quiet.of_eq {s u : State} {n : Nat} (h : Quiet s n) (ht : u.threads = s.threads) (hm : u.migrants = s.migrants)
    (ha : (u.tile n).array.holder = (s.tile n).array.holder) (hc : (u.tile n).coefOwner = (s.tile n).coefOwner) : Quiet u n := by
  have hon (x : Nat) : contextOn u n x = contextOn s n x := by simp only [contextOn, ht, hm]
  exact ⟨by rw [ht]; exact h.crowd, by simpa only [hon, ha] using h.array, by simpa only [hon, hc] using h.coefs⟩

/-- What a tile's engines hold is the same. -/
structure SameEngines (s : State) (n : Nat) (u : State) : Prop where
  rest : ∃ tiles, u = { s with tiles := tiles }
  queue : ∀ e, engineQ (u.tile n) e = engineQ (s.tile n) e
  array : (u.tile n).array = (s.tile n).array

theorem ends_rouseRoom {s : State} {n : Nat} {P : Unit → State → Prop} (h : Quiet s n) (hP : P () s) : Ends (rouseRoom n) s P := by
  have hnone : s.threads.filter (fun kt => tileOf kt.1 = n && kt.2.status = .waiting .room) = [] := by
    refine List.filter_eq_nil_iff.mpr fun x hx => ?_
    simpa using h.crowd x hx
  refine ends_look_bind ?_
  rw [hnone]
  exact ends_pure hP

/-- Nothing of the engines returns to having no owner while the owners have threads on the tile (R128, R201). -/
theorem ends_releaseTile_quiet {s : State} {n : Nat} (h : Quiet s n) : Ends (releaseTile n) s (fun _ u => SameEngines s n u) := by
  refine ends_look_bind ?_
  extract_lets x gone free y putTile clearAccs
  have hcoef : gone x.coefOwner = false := by
    cases ho : x.coefOwner with
    | none => rfl
    | some c => simp only [gone, h.coefs c ho, Bool.not_true]
  have hfree : free = false := by
    cases ho : x.array.holder with
    | none => simp only [free, ho, gone, Bool.false_and]
    | some c => simp only [free, ho, gone, h.array c ho, Bool.not_true, Bool.false_and]
  have harray : y.array = x.array := by simp only [y, hfree, Bool.false_eq_true, if_false]
  have hqueue (e : Nat) : engineQ y e = engineQ x e := by
    match e with
    | 0 => rfl
    | 1 => rfl
    | _ + 2 => simp only [engineQ, harray]
  refine ends_if_neg (by simp [hcoef]) (ends_if_neg (by simp [hfree]) (ends_ite (ends_pure ⟨⟨s.tiles, rfl⟩, fun _ => rfl, rfl⟩) (ends_emit ?_)))
  change SameEngines s n (s.withTile n y)
  exact ⟨⟨_, rfl⟩, fun e => by rw [withTile_tile]; exact hqueue e, by rw [withTile_tile]; exact harray⟩

/-- A command has left its engine, and nothing else of the tile's engines has changed. -/
structure Retired (s : State) (n e op : Nat) (u : State) : Prop where
  rest : ∃ tiles, u = { s with tiles := tiles }
  queue : engineQ (u.tile n) e = (engineQ (s.tile n) e).filter (·.op ≠ op)
  array : (u.tile n).array = { (s.tile n).array with fifo := (u.tile n).array.fifo }

theorem ends_retire {s : State} {n e op : Nat} (h : Quiet s n) : Ends (retire n e op) s (fun _ u => Retired s n e op u) := by
  refine ends_bind (ends_modTile ?_)
  set x := setEngineQ e ((engineQ (s.tile n) e).filter (·.op ≠ op)) (s.tile n) with hx
  change Ends _ (s.withTile n x) _
  have hquiet : Quiet (s.withTile n x) n :=
    h.of_eq rfl rfl (by rw [withTile_tile, hx, setEngineQ_array]) (by rw [withTile_tile, hx, setEngineQ_coefOwner])
  refine ends_bind (ends_rouseRoom hquiet ((ends_releaseTile_quiet hquiet).mono fun _ u hu => ?_))
  obtain ⟨tiles, rfl⟩ := hu.rest
  have harray := hu.array
  rw [withTile_tile] at harray
  refine ⟨⟨tiles, rfl⟩, ?_, ?_⟩
  · rw [hu.queue, withTile_tile, hx, engineQ_setEngineQ]
  · rw [harray, hx]
    exact setEngineQ_array _ _ _

/-! ### Commands that end -/

/-- A command has left its engine, and its issuer's operation has the result `r`. -/
def Closes (s : State) (n e : Nat) (c : EngineCmd) (t : Thread) (r : Result) (u : State) : Prop :=
  ∃ v, Retired s n e c.op v ∧ u = v.withThread c.key (finished c.op r t)

section
variable {s u : State} {n e k : Nat} {c : EngineCmd} {t : Thread} {r : Result}

theorem Closes.array (h : Closes s n e c t r u) : (u.tile n).array = { (s.tile n).array with fifo := (u.tile n).array.fifo } := by
  obtain ⟨v, hv, rfl⟩ := h
  exact hv.array

theorem Closes.accs (h : Closes s n e c t r u) : u.accs = s.accs := by
  obtain ⟨v, hv, rfl⟩ := h
  obtain ⟨_, rfl⟩ := hv.rest
  rfl

theorem Closes.mem (h : Closes s n e c t r u) : u.mem = s.mem := by
  obtain ⟨v, hv, rfl⟩ := h
  obtain ⟨_, rfl⟩ := hv.rest
  rfl

theorem Closes.empties (h : Closes s n e c t r u) : u.empties = s.empties := by
  obtain ⟨v, hv, rfl⟩ := h
  obtain ⟨_, rfl⟩ := hv.rest
  rfl

/-- The command has ended from a state `b` on, where what was done before its end changed no thread and no FIFO, and no memory but what `w` admits. -/
theorem Closes.endedBy {b : State} {w : Nat → Prop} (h : Closes s n e c t r u) (hk : c.key = k) (hq : engineQ (s.tile n) e = engineQ (b.tile n) e) (ht : s.threads = b.threads)
    (hm : ∀ a, ¬ w a → Memory.read s.mem a = Memory.read b.mem a) : EndedBy b n e c k t r w u := by
  have hmem := h.mem
  obtain ⟨v, hv, rfl⟩ := h
  have hthreads : v.threads = b.threads := by
    obtain ⟨_, rfl⟩ := hv.rest
    exact ht
  subst hk
  refine ⟨?_, withThread_thread? .., fun j hj => ?_, fun a ha => by rw [hmem, hm a ha]⟩
  · rw [← hq, ← hv.queue]
    rfl
  · rw [withThread_thread?_other _ _ hj, State.thread?, hthreads, State.thread?]

theorem ends_retire_finish (h : Quiet s n) (ht : s.thread? c.key = some t) :
    Ends (do retire n e c.op; finish c.key c.op r) s (fun _ u => Closes s n e c t r u) := by
  refine ends_bind ((ends_retire h).mono fun _ v hv => ends_finish (t := t) ?_ ⟨v, hv, rfl⟩)
  obtain ⟨_, rfl⟩ := hv.rest
  exact ht

theorem ends_endCmd {tok : Word} {fl : Flags} {wrote : Bool} (h : Quiet s n) (ht : s.thread? c.key = some t) :
    Ends (endCmd n e c tok fl wrote) s (fun _ u =>
      Closes s n e c t { writes := [.s c.token tok, .flags (c.flags ||| fl)], acquire := if wrote || c.named then some .device else none } u) :=
  ends_retire_finish h ht

theorem ends_trapCmd {cause : Cause} {addr info : Nat} {o : PendOp} (h : Quiet s n) (ht : s.thread? c.key = some t) (ho : t.ops.find? (·.id = c.op) = some o) :
    Ends (trapCmd n e c cause addr info) s (fun _ u => Closes s n e c t { trap := some (opTrap o cause addr info false) } u) := by
  refine ends_bind ((ends_retire h).mono fun _ v hv => ends_look_bind ?_)
  have hvt : v.thread? c.key = some t := by
    obtain ⟨_, rfl⟩ := hv.rest
    exact ht
  rw [hvt]
  simp only [ho]
  exact ends_finish hvt ⟨v, hv, rfl⟩

end

/-! ### Bytes stored -/

/-- Memory with the low `n` bytes of a number at a key. -/
def storedBytes (m : List Host.Cell) (a : Nat) : Nat → Nat → List Host.Cell
  | 0, _ => m
  | n + 1, x => storedBytes (Memory.write m a (BitVec.ofNat 8 x)) (a + 1) n (x / 256)

theorem wf_storedBytes : ∀ {n a x : Nat} {m : List Host.Cell}, Memory.wf m = true → Memory.wf (storedBytes m a n x) = true
  | 0, _, _, _, h => h
  | _ + 1, _, _, _, h => by
    rw [storedBytes]
    exact wf_storedBytes (Memory.wf_write _ _ _ h)

theorem read_storedBytes : ∀ {n a x : Nat} {m : List Host.Cell} (b : Nat), Memory.wf m = true →
    Memory.read (storedBytes m a n x) b = if a ≤ b ∧ b < a + n then BitVec.ofNat 8 (x / 256 ^ (b - a)) else Memory.read m b
  | 0, a, x, m, b, _ => by simp only [storedBytes, Nat.add_zero, show ¬ (a ≤ b ∧ b < a) by omega, if_false]
  | n + 1, a, x, m, b, h => by
    rw [storedBytes, read_storedBytes b (Memory.wf_write _ _ _ h)]
    by_cases hb : b = a
    · subst hb
      rw [if_neg (by omega), if_pos (by omega), Memory.read_write_same _ _ _ h, Nat.sub_self, pow_zero, Nat.div_one]
    · rw [Memory.read_write_other _ _ _ _ h hb]
      by_cases hin : a + 1 ≤ b ∧ b < a + 1 + n
      · rw [if_pos hin, if_pos (by omega), Nat.div_div_eq_div_mul, ← pow_succ', show b - (a + 1) + 1 = b - a by omega]
      · rw [if_neg hin, if_neg (by omega)]

theorem ends_emitAll_pokeLog : ∀ {n a x : Nat} {s : State}, Ends (emitAll (pokeLog a n x)) s (fun _ u => u = { s with mem := storedBytes s.mem a n x })
  | 0, _, _, _ => ends_pure rfl
  | _ + 1, _, _, _ => ends_emit_bind (ends_emitAll_pokeLog.mono fun _ _ hu => hu)

/-- A store changes the bytes that it writes and, outside a tile, what fetch may still take (R16). -/
theorem ends_poke_plain {a n x : Nat} {s : State} (hb : s.bad = []) : Ends (poke a n x) s (fun _ u => ∃ old, u = { s with mem := storedBytes s.mem a n x, old := old }) := by
  have hold : Ends (keepOld a n) s (fun _ u => ∃ old, u = { s with old := old }) := by
    refine ends_look_bind (ends_ite (ends_pure ⟨s.old, rfl⟩) (ends_emitAll (fun u => ∃ old, u = { s with old := old }) ⟨s.old, rfl⟩ fun e he u hu => ?_))
    obtain ⟨i, _, hi⟩ := List.mem_filterMap.mp he
    obtain ⟨_, hi⟩ := Option.ite_none_right_eq_some.mp hi
    cases hi
    obtain ⟨old, rfl⟩ := hu
    exact ⟨_, rfl⟩
  refine ends_bind (hold.mono ?_)
  rintro _ _ ⟨old, rfl⟩
  refine ends_look_bind (ends_bind (ends_emitAll_pokeLog.mono ?_))
  rintro _ _ rfl
  exact ends_if_pos (by simp [hb]) (ends_pure ⟨old, rfl⟩)

/-- Memory alone has changed, with what fetch may still take, and no byte but those that `w` admits. -/
structure StoredIn (s : State) (w : Nat → Prop) (u : State) : Prop where
  rest : ∃ mem old, u = { s with mem := mem, old := old }
  wf : Memory.wf u.mem = true
  other : ∀ b, ¬ w b → Memory.read u.mem b = Memory.read s.mem b

section
variable {s u : State} {w : Nat → Prop}

theorem StoredIn.bad (h : StoredIn s w u) : u.bad = s.bad := by
  obtain ⟨_, _, rfl⟩ := h.rest
  rfl

theorem StoredIn.threads (h : StoredIn s w u) : u.threads = s.threads := by
  obtain ⟨_, _, rfl⟩ := h.rest
  rfl

theorem StoredIn.migrants (h : StoredIn s w u) : u.migrants = s.migrants := by
  obtain ⟨_, _, rfl⟩ := h.rest
  rfl

theorem StoredIn.tiles (h : StoredIn s w u) : u.tiles = s.tiles := by
  obtain ⟨_, _, rfl⟩ := h.rest
  rfl

theorem StoredIn.accs (h : StoredIn s w u) : u.accs = s.accs := by
  obtain ⟨_, _, rfl⟩ := h.rest
  rfl

end

theorem StoredIn.refl {s : State} {w : Nat → Prop} (h : Memory.wf s.mem = true) : StoredIn s w s := ⟨⟨s.mem, s.old, rfl⟩, h, fun _ _ => rfl⟩

theorem ends_poke_in {a n x : Nat} {s u : State} {w : Nat → Prop} (hb : s.bad = []) (hu : StoredIn s w u) (hw : ∀ b, a ≤ b → b < a + n → w b) :
    Ends (poke a n x) u (fun _ v => StoredIn s w v) := by
  obtain ⟨⟨mem, old, rfl⟩, hwf, hother⟩ := hu
  refine (ends_poke_plain (s := { s with mem := mem, old := old }) hb).mono ?_
  rintro _ _ ⟨old', rfl⟩
  refine ⟨⟨_, old', rfl⟩, wf_storedBytes hwf, fun b hnot => ?_⟩
  rw [← hother b hnot]
  exact (read_storedBytes b hwf).trans (if_neg fun hin => hnot (hw b hin.1 hin.2))

/-! ### Loops over a range -/

/-- A loop over the numbers below `m` whose body takes a property from each number to the next. -/
theorem ends_forEach_range {f : Nat → Act Unit} (I : Nat → State → Prop) {m : Nat} {s : State} (hs : I 0 s)
    (h : ∀ i < m, ∀ t, I i t → Ends (f i) t (fun _ u => I (i + 1) u)) : Ends (forEach (List.range m) f) s (fun _ u => I m u) := by
  suffices hfrom : ∀ (l a : Nat) (t : State), a + l = m → I a t → Ends (forEach (List.range' a l) f) t (fun _ u => I m u) by
    rw [List.range_eq_range']
    exact hfrom m 0 s (Nat.zero_add m) hs
  intro l
  induction l with
  | zero =>
    rintro a t rfl ht
    exact ends_forEach_nil ht
  | succ l ih =>
    intro a t ha ht
    rw [List.range'_succ]
    exact ends_forEach_cons ((h a (by omega) t ht).mono fun _ u hu => ih (a + 1) u (by omega) hu)

/-- Rows of `size` bytes have been stored, one after another, and no other byte has changed. -/
structure StoredRows (s : State) (key : Nat → Nat) (size : Nat) (x : Nat → Nat) (m : Nat) (u : State) : Prop where
  inside : StoredIn s (fun b => ∃ i, i < m ∧ key i ≤ b ∧ b < key i + size) u
  rows : ∀ i < m, ∀ j < size, Memory.read u.mem (key i + j) = BitVec.ofNat 8 (x i / 256 ^ j)

theorem ends_storeRows {s : State} {key : Nat → Nat} {size m : Nat} {x : Nat → Nat} (hb : s.bad = []) (hs : Memory.wf s.mem = true)
    (hkey : ∀ i j, i < j → j < m → key i + size ≤ key j) : Ends (forEach (List.range m) (fun i => poke (key i) size (x i))) s (fun _ u => StoredRows s key size x m u) := by
  refine ends_forEach_range (fun i u => StoredRows s key size x i u) ⟨StoredIn.refl hs, fun i hi => absurd hi (Nat.not_lt_zero i)⟩ ?_
  rintro i hi _ ⟨⟨⟨mem, old, rfl⟩, hwf, hother⟩, hrows⟩
  refine (ends_poke_plain (s := { s with mem := mem, old := old }) hb).mono ?_
  rintro _ _ ⟨old', rfl⟩
  have hread (b : Nat) := read_storedBytes (a := key i) (n := size) (x := x i) b hwf
  refine ⟨⟨⟨_, old', rfl⟩, wf_storedBytes hwf, fun b hnot => ?_⟩, fun l hl j hj => ?_⟩
  · rw [← hother b fun ⟨l, hl, hin⟩ => hnot ⟨l, Nat.lt_succ_of_lt hl, hin⟩]
    exact (hread b).trans (if_neg fun hin => hnot ⟨i, Nat.lt_succ_self i, hin⟩)
  · rcases Nat.lt_succ_iff_lt_or_eq.mp hl with hlt | rfl
    · have hapart := hkey l i hlt hi
      exact ((hread _).trans (if_neg (by omega))).trans (hrows l hlt j hj)
    · refine (hread _).trans ?_
      rw [if_pos (by omega), Nat.add_sub_cancel_left]

/-! ### Numbers in memory -/

theorem peek_lt (m : List Host.Cell) : ∀ n a, peek m a n < 256 ^ n
  | 0, _ => Nat.one_pos
  | n + 1, a => by
    have h := peek_lt m n (a + 1)
    have hb : (Memory.read m a).toNat < 256 := (Memory.read m a).isLt
    rw [peek, pow_succ']
    omega

/-- The number that the bytes of a number make. -/
theorem peek_of_bytes {m : List Host.Cell} : ∀ {n a x : Nat}, (∀ i < n, Memory.read m (a + i) = BitVec.ofNat 8 (x / 256 ^ i)) → peek m a n = x % 256 ^ n
  | 0, _, _, _ => (Nat.mod_one _).symm
  | n + 1, a, x, h => by
    have h0 : Memory.read m a = BitVec.ofNat 8 x := by simpa using h 0 (Nat.succ_pos n)
    have hrest : peek m (a + 1) n = x / 256 % 256 ^ n := peek_of_bytes fun i hi => by
      rw [Nat.add_right_comm, Nat.div_div_eq_div_mul, ← pow_succ']
      exact h (i + 1) (Nat.succ_lt_succ hi)
    rw [peek, h0, hrest, pow_succ', Nat.mod_mul]
    rfl

/-- The bytes of a number in memory. -/
theorem peek_div (m : List Host.Cell) : ∀ {n a i : Nat}, i < n → peek m a n / 256 ^ i % 256 = (Memory.read m (a + i)).toNat
  | n + 1, a, i, h => by
    have hb : (Memory.read m a).toNat < 256 := (Memory.read m a).isLt
    cases i with
    | zero =>
      change ((Memory.read m a).toNat + 256 * peek m (a + 1) n) / 256 ^ 0 % 256 = (Memory.read m a).toNat
      omega
    | succ i =>
      rw [peek, pow_succ', ← Nat.div_div_eq_div_mul, show ((Memory.read m a).toNat + 256 * peek m (a + 1) n) / 256 = peek m (a + 1) n by omega,
        peek_div m (Nat.lt_of_succ_lt_succ h), Nat.add_right_comm, Nat.add_assoc]

/-! ### Rows of accumulators -/

theorem accs_rise {s : State} (hs : s.canonical) : keysRise s.accs = true := by
  obtain ⟨-, -, -, -, -, -, -, h, -⟩ := hs
  exact h

theorem mem_wf {s : State} (hs : s.canonical) : Memory.wf s.mem = true := hs.1

theorem apply_acc_acc {s : State} {n row j r col : Nat} {x : BitVec 32} (hs : keysRise s.accs = true) (hj : j < 64) (hcol : col < 64) :
    ((Effect.acc (accKey n row j) x).apply s).acc n r col = if r = row ∧ col = j then x else s.acc n r col := by
  by_cases h : r = row ∧ col = j
  · obtain ⟨rfl, rfl⟩ := h
    simp only [State.acc, Effect.apply, and_self, if_true]
    split
    · next hx =>
      rw [mapSet, mapGet_mapDel_same _ _ none hs, hx]
      rfl
    · rw [mapSet, mapGet_mapPut_same, Option.getD_some]
  · have hne : accKey n r col ≠ accKey n row j := by
      unfold accKey
      omega
    simp only [State.acc, Effect.apply, h, if_false]
    split
    · rw [mapSet, mapGet_mapDel_other _ _ _ none hs hne]
    · rw [mapSet, mapGet_mapPut_other _ _ _ _ hne]

/-- Accumulators alone have changed. -/
structure AccsSet (s u : State) : Prop where
  rest : ∃ accs, u = { s with accs := accs }
  rise : keysRise u.accs = true

section
variable {s u : State}

theorem AccsSet.threads (h : AccsSet s u) : u.threads = s.threads := by
  obtain ⟨_, rfl⟩ := h.rest
  rfl

theorem AccsSet.migrants (h : AccsSet s u) : u.migrants = s.migrants := by
  obtain ⟨_, rfl⟩ := h.rest
  rfl

theorem AccsSet.tile (h : AccsSet s u) (n : Nat) : u.tile n = s.tile n := by
  obtain ⟨_, rfl⟩ := h.rest
  rfl

theorem AccsSet.mem (h : AccsSet s u) : u.mem = s.mem := by
  obtain ⟨_, rfl⟩ := h.rest
  rfl

end

theorem AccsSet.refl {s : State} (h : keysRise s.accs = true) : AccsSet s s := ⟨⟨s.accs, rfl⟩, h⟩

theorem AccsSet.trans {s u v : State} (h : AccsSet s u) (h' : AccsSet u v) : AccsSet s v := by
  obtain ⟨accs, rfl⟩ := h.rest
  obtain ⟨accs', rfl⟩ := h'.rest
  exact ⟨⟨accs', rfl⟩, h'.rise⟩

theorem ends_setColumns {n row : Nat} : ∀ {xs : List Nat} {o : Nat} {s : State}, keysRise s.accs = true → o + xs.length ≤ 64 →
    Ends (emitAll ((xs.zipIdx o).map (fun x => .acc (accKey n row x.2) (BitVec.ofNat 32 x.1)))) s (fun _ u => AccsSet s u
      ∧ ∀ r col, col < 64 → u.acc n r col = if r = row ∧ o ≤ col ∧ col < o + xs.length then BitVec.ofNat 32 (xs.getD (col - o) 0) else s.acc n r col)
  | [], o, s, hs, _ => ends_pure ⟨AccsSet.refl hs, fun r col _ => (if_neg (by simp only [List.length_nil]; omega)).symm⟩
  | x :: xs, o, s, hs, hl => by
    rw [List.length_cons] at hl
    have hrise : keysRise ((Effect.acc (accKey n row o) (BitVec.ofNat 32 x)).apply s).accs = true := keysRise_mapSet _ _ _ hs
    refine ends_emit_bind ((ends_setColumns (o := o + 1) hrise (by omega)).mono fun _ u ⟨⟨⟨accs, hu⟩, hrise'⟩, hget⟩ => ⟨⟨⟨accs, hu⟩, hrise'⟩, fun r col hcol => ?_⟩)
    rw [hget r col hcol, apply_acc_acc hs (by omega) hcol]
    by_cases ho : r = row ∧ col = o
    · obtain ⟨rfl, rfl⟩ := ho
      rw [if_neg (by omega), if_pos ⟨rfl, rfl⟩, if_pos ⟨rfl, by simp⟩]
      simp
    · rw [if_neg ho]
      by_cases hin : r = row ∧ o + 1 ≤ col ∧ col < o + 1 + xs.length
      · rw [if_pos hin, if_pos ⟨hin.1, by omega, by simp only [List.length_cons]; omega⟩, show col - o = (col - (o + 1)) + 1 by omega, List.getD_cons_succ]
      · rw [if_neg hin, if_neg (by simp only [List.length_cons]; omega)]

/-- A row of accumulators set from column 0 on changes no other. -/
theorem ends_setRow {n row : Nat} {xs : List Nat} {s : State} (hs : keysRise s.accs = true) (hl : xs.length ≤ 64) :
    Ends (setRow n row xs) s (fun _ u => AccsSet s u ∧ ∀ r col, col < 64 → u.acc n r col = if r = row ∧ col < xs.length then BitVec.ofNat 32 (xs.getD col 0) else s.acc n r col) :=
  (ends_setColumns (o := 0) hs (by omega)).mono fun _ _ ⟨hu, hget⟩ => ⟨hu, fun r col hcol => by simpa using hget r col hcol⟩

end Sys2Proof.Machine

/-!
SUPPORT. The array at work on commands that move no numbers: planes, monitor, counters, and rows of accumulators read into memory (R202, R208, R211-R213, R216, R217).
-/

namespace Sys2Proof.Machine
open Sys2Proof.Claims

/-! ### The command at its turn -/

/-- The threads are the same, and the contexts that own the array and the coefficient memory of a tile. -/
structure SameOwners (s : State) (n : Nat) (u : State) : Prop where
  threads : u.threads = s.threads
  migrants : u.migrants = s.migrants
  holder : (u.tile n).array.holder = (s.tile n).array.holder
  coefOwner : (u.tile n).coefOwner = (s.tile n).coefOwner

theorem SameOwners.of_tiles {s u : State} {n : Nat} (ht : u.threads = s.threads) (hm : u.migrants = s.migrants) (hx : u.tiles = s.tiles) : SameOwners s n u := by
  have htile : u.tile n = s.tile n := by rw [State.tile, hx, State.tile]
  exact ⟨ht, hm, by rw [htile], by rw [htile]⟩

section
variable {s : State} {n e k : Nat} {c : EngineCmd} {t : Thread}

theorem quiet_of_performing (h : Performing s n e c k t) : Quiet s n := ⟨h.crowd, h.array, h.coefs⟩

theorem nextCmd_of_performing (h : Performing s n e c k t) : nextCmd (s.tile n) e = some c := by
  have hgoing : engineStopped (s.tile n) e = false := by
    simpa [engineStopped] using h.going
  rw [nextCmd, hgoing, h.head]
  simp [h.accepted]

theorem thread_of_performing (h : Performing s n e c k t) : s.thread? c.key = some t := by
  rw [h.issuer.1]
  exact h.issuer.2

/-- The command ends in a state that its work has left, with the threads and the owners that there were. -/
theorem ends_endCmd_performing {u : State} {tok : Word} {fl : Flags} {wrote : Bool} (h : Performing s n e c k t) (hu : SameOwners s n u) :
    Ends (endCmd n e c tok fl wrote) u (fun _ v => Closes u n e c t { writes := [.s c.token tok, .flags fl], acquire := if wrote || c.named then some .device else none } v) := by
  obtain ⟨hthreads, hmigrants, hholder, hcoefs⟩ := hu
  obtain ⟨-, -, -, -, -, -, hflags, -⟩ := h.fresh
  refine (ends_endCmd ((quiet_of_performing h).of_eq hthreads hmigrants hholder hcoefs) (t := t) ?_).mono fun _ v hv => ?_
  · rw [State.thread?, hthreads]
    exact thread_of_performing h
  · rwa [hflags, show (0 ||| fl : Flags) = fl from BitVec.zero_or] at hv

end

theorem ends_modArray {n : Nat} {f : MatrixArray → MatrixArray} {s : State} {P : Unit → State → Prop}
    (h : P () (s.withTile n { s.tile n with array := f (s.tile n).array })) : Ends (modArray n f) s P := ends_modTile h

/-! ### Planes, the monitor, and single values -/

section
variable {s : State} {n k : Nat} {c : EngineCmd} {t : Thread}

/-- A command that changes the array alone, and then has been performed. -/
theorem ends_modArray_retire {f : MatrixArray → MatrixArray} (h : Performing s n 2 c k t) (hf : (f (s.tile n).array).holder = (s.tile n).array.holder) :
    Ends (do modArray n f; retire n 2 c.op) s (fun _ u => (u.tile n).array = { f (s.tile n).array with fifo := (u.tile n).array.fifo } ∧ u.accs = s.accs ∧ u.threads = s.threads ∧ u.mem = s.mem) := by
  have hquiet : Quiet (s.withTile n { s.tile n with array := f (s.tile n).array }) n :=
    (quiet_of_performing h).of_eq rfl rfl (by rw [withTile_tile]; exact hf) (by rw [withTile_tile])
  refine ends_bind (ends_modArray ((ends_retire hquiet).mono fun _ u hu => ?_))
  · have harray := hu.array
    rw [withTile_tile] at harray
    obtain ⟨_, rfl⟩ := hu.rest
    exact ⟨harray, rfl, rfl, rfl⟩

theorem arrayCommand_swap (h : Performing s n 2 c k t) (hw : c.work = .swap) : ∃ u, exec .arrayCommand s = .next u
    ∧ (u.tile n).array.active = (s.tile n).array.shadow ∧ (u.tile n).array.shadow = (s.tile n).array.active ∧ u.accs = s.accs ∧ u.threads = s.threads ∧ u.mem = s.mem := by
  refine commit_next ?_
  simp only [h.input, nextCmd_of_performing h, hw]
  refine (ends_modArray_retire h rfl).mono fun _ u ⟨harray, hrest⟩ => ⟨?_, ?_, hrest⟩ <;> rw [harray]

theorem arrayCommand_cfg (h : Performing s n 2 c k t) (hw : c.work = .cfg) : ∃ u, exec .arrayCommand s = .next u
    ∧ (u.tile n).array.monitor = configure c.a.toNat (s.tile n).array.monitor ∧ u.accs = s.accs ∧ u.threads = s.threads ∧ u.mem = s.mem := by
  refine commit_next ?_
  simp only [h.input, nextCmd_of_performing h, hw]
  refine (ends_modArray_retire h rfl).mono fun _ u ⟨harray, hrest⟩ => ⟨?_, hrest⟩
  rw [harray]

/-- A command has ended, no memory has changed, and neither has the array but for its FIFO. -/
def EndsAlone (s : State) (n e : Nat) (c : EngineCmd) (k : Nat) (t : Thread) (r : Result) (u : State) : Prop :=
  EndedBy s n e c k t r (fun _ => False) u ∧ (u.tile n).array = { (s.tile n).array with fifo := (u.tile n).array.fifo } ∧ u.accs = s.accs

theorem Closes.endsAlone {e : Nat} {r : Result} {u : State} (hu : Closes s n e c t r u) (hk : c.key = k) : EndsAlone s n e c k t r u :=
  ⟨hu.endedBy hk rfl rfl (fun _ _ => rfl), hu.array, hu.accs⟩

theorem ends_retire_alone {r : Result} (h : Performing s n 2 c k t) : Ends (do retire n 2 c.op; finish c.key c.op r) s (fun _ u => EndsAlone s n 2 c k t r u) :=
  (ends_retire_finish (quiet_of_performing h) (thread_of_performing h)).mono fun _ _ hu => hu.endsAlone h.issuer.1

theorem arrayCommand_pop (h : Performing s n 2 c k t) (hw : c.work = .pop) : ∃ u, exec .arrayCommand s = .next u
    ∧ EndsAlone s n 2 c k t { writes := [.s c.token ((s.acc n (bits c.a.toNat 6 0) (bits c.a.toNat 13 8)).zeroExtend 64)] } u := by
  refine commit_next ?_
  simp only [h.input, nextCmd_of_performing h, hw]
  exact ends_retire_alone h

theorem arrayCommand_drain (h : Performing s n 2 c k t) (hw : c.work = .drain) : ∃ u, exec .arrayCommand s = .next u ∧ EndsAlone s n 2 c k t { acquire := some .thread } u := by
  refine commit_next ?_
  simp only [h.input, nextCmd_of_performing h, hw]
  exact ends_retire_alone h

theorem arrayCommand_mon {i : Nat} (h : Performing s n 2 c k t) (hi : i < 4) (hw : c.work = .mon i) : ∃ u, exec .arrayCommand s = .next u
    ∧ EndsAlone s n 2 c k t { writes := [.s c.token (mod64 ([(s.tile n).array.monitor.samp, (s.tile n).array.monitor.esum, (s.tile n).array.monitor.emax, (s.tile n).array.monitor.skip].getD i 0))] } u := by
  refine commit_next ?_
  simp only [h.input, nextCmd_of_performing h, hw]
  interval_cases i <;> exact ends_retire_alone h

end

/-! ### Rows of accumulators in memory (R211) -/

theorem getD_map_range {α : Type} {f : Nat → α} {m i : Nat} {d : α} (hi : i < m) : ((List.range m).map f).getD i d = f i := by
  rw [List.getD_eq_getElem _ _ (by simpa using hi), List.getElem_map, List.getElem_range]

/-- A field of joined numbers of one size. -/
theorem joinBytes_field (w : Nat) : ∀ (l : List Nat) (i : Nat), i < l.length → joinBytes (l.map (fun x => (x, w))) / 256 ^ (w * i) % 256 ^ w = l.getD i 0 % 256 ^ w
  | x :: l, 0, _ => by simp [joinBytes]
  | x :: l, i + 1, h => by
    have hpos : 0 < 256 ^ w := by positivity
    rw [List.map_cons, joinBytes, Nat.mul_succ, Nat.add_comm (w * i), pow_add, ← Nat.div_div_eq_div_mul, Nat.add_mul_div_left _ _ hpos, Nat.div_eq_of_lt (Nat.mod_lt _ hpos), Nat.zero_add,
      joinBytes_field w l i (by simpa using h), List.getD_cons_succ]

theorem StoredRows.peek {s u : State} {key : Nat → Nat} {size m : Nat} {x : Nat → Nat} (h : StoredRows s key size x m u) {i o n : Nat} (hi : i < m) (ho : o + n ≤ size) :
    Machine.peek u.mem (key i + o) n = x i / 256 ^ o % 256 ^ n := by
  refine peek_of_bytes fun j hj => ?_
  rw [Nat.add_assoc, h.rows i hi (o + j) (by omega), pow_add, Nat.div_div_eq_div_mul]

/-- Rows of accumulators set to +0. -/
theorem ends_zeroRows {n r0 m : Nat} {s : State} (hs : keysRise s.accs = true) : Ends (forEach (List.range m) (fun i => setRow n (r0 + i) (List.replicate 64 0))) s (fun _ u =>
    AccsSet s u ∧ ∀ r col, col < 64 → u.acc n r col = if r0 ≤ r ∧ r < r0 + m then 0 else s.acc n r col) := by
  refine ends_forEach_range (fun i u => AccsSet s u ∧ ∀ r col, col < 64 → u.acc n r col = if r0 ≤ r ∧ r < r0 + i then 0 else s.acc n r col) ⟨.refl hs, fun r col _ => ?_⟩ ?_
  · exact (if_neg (by omega)).symm
  · intro i _ u ⟨hu, hget⟩
    refine (ends_setRow hu.rise (by simp)).mono fun _ v ⟨hv, hget'⟩ => ⟨hu.trans hv, fun r col hcol => (hget' r col hcol).trans ?_⟩
    by_cases hr : r = r0 + i
    · rw [if_pos ⟨hr, by simpa using hcol⟩, if_pos (by omega), List.getD_replicate _ hcol]
      rfl
    · rw [if_neg (fun hc => hr hc.1), hget r col hcol]
      exact if_congr (by omega) rfl rfl

/-- A part of a range of the window, in the store. -/
theorem storeAt_add {n va : Nat} (h : windowBase ≤ va) (d : Nat) : storeAt n (va + d) = storeAt n va + d := by
  simp only [storeAt, localKey]
  omega

theorem windowBase_le_of_inWindow {va : Nat} (h : inWindow va = true) : windowBase ≤ va := by
  simp only [inWindow, Bool.and_eq_true, decide_eq_true_eq] at h
  exact h.1

section
variable {s : State} {n k : Nat} {c : EngineCmd} {t : Thread} {zero : Bool}

/-- What the array has read into memory: the rows of the accumulators named, each at its address, and those accumulators are +0 after it where `zero` says so. -/
structure RowsRead (s : State) (n : Nat) (c : EngineCmd) (zero : Bool) (u : State) : Prop where
  bytes : ∀ i col, i < bits c.b.toNat 7 0 → col < 64 →
    peek u.mem (storeAt n (c.a.toNat + i * bits c.b.toNat 47 16) + 4 * col) 4 = (s.acc n (bits c.b.toNat 14 8 + i) col).toNat
  active : (u.tile n).array.active = (s.tile n).array.active
  shadow : (u.tile n).array.shadow = (s.tile n).array.shadow
  accs : ∀ r col, r < 128 → col < 64 →
    u.acc n r col = if zero = true ∧ bits c.b.toNat 14 8 ≤ r ∧ r < bits c.b.toNat 14 8 + bits c.b.toNat 7 0 then 0 else s.acc n r col

theorem arrayCommand_read (hs : s.canonical) (hb : s.bad = []) (h : Performing s n 2 c k t) (hw : c.work = .read zero) (hrows : rowsOk c.a c.b 256 true)
    (hres : ∀ i, i < bits c.b.toNat 7 0 → reservedRange s c.ctx n (c.a.toNat + i * bits c.b.toNat 47 16) 256 = false) (hstride : 256 ≤ bits c.b.toNat 47 16) :
    ∃ u, exec .arrayCommand s = .next u
      ∧ EndedBy s n 2 c k t { writes := [.s c.token 0, .flags 0], acquire := some .device }
          (fun x => ∃ i, i < bits c.b.toNat 7 0 ∧ storeAt n (c.a.toNat + i * bits c.b.toNat 47 16) ≤ x ∧ x < storeAt n (c.a.toNat + i * bits c.b.toNat 47 16) + 256) u
      ∧ RowsRead s n c zero u := by
  obtain ⟨-, -, -, -, hwindow⟩ := hrows
  refine commit_next ?_
  simp only [h.input, nextCmd_of_performing h, hw]
  refine ends_look_bind (ends_bind (ends_due (List.all_eq_true.mpr fun i hi => ?_) (ends_bind ?_)))
  · rw [shapeStride, hres i (List.mem_range.mp hi), Bool.not_false]
  -- the rows lie one after another
  have hkey (i j : Nat) (hij : i < j) (hj : j < bits c.b.toNat 7 0) : storeAt n (c.a.toNat + i * bits c.b.toNat 47 16) + 256 ≤ storeAt n (c.a.toNat + j * bits c.b.toNat 47 16) := by
    have hd : j * bits c.b.toNat 47 16 = i * bits c.b.toNat 47 16 + (j - i) * bits c.b.toNat 47 16 := by rw [← Nat.add_mul, Nat.add_sub_cancel' hij.le]
    have hle : 256 ≤ (j - i) * bits c.b.toNat 47 16 := le_trans hstride (Nat.le_mul_of_pos_left _ (Nat.sub_pos_of_lt hij))
    rw [hd, ← Nat.add_assoc, storeAt_add (windowBase_le_of_inWindow (hwindow rfl i (hij.trans hj)).1)]
    omega
  refine (ends_storeRows (key := fun i => storeAt n (c.a.toNat + i * bits c.b.toNat 47 16)) (x := fun i => joinBytes ((List.range 64).map (fun col => ((s.acc n (shapeRow0 c.b + i) col).toNat, 4))))
    hb (mem_wf hs) hkey).mono fun _ u hu => ?_
  have hbytes (i col : Nat) (hi : i < bits c.b.toNat 7 0) (hcol : col < 64) :
      peek u.mem (storeAt n (c.a.toNat + i * bits c.b.toNat 47 16) + 4 * col) 4 = (s.acc n (bits c.b.toNat 14 8 + i) col).toNat := by
    have hfield := joinBytes_field 4 ((List.range 64).map (fun col => (s.acc n (shapeRow0 c.b + i) col).toNat)) col (by simpa using hcol)
    rw [List.map_map] at hfield
    refine ((hu.peek hi (by omega)).trans hfield).trans ?_
    rw [getD_map_range hcol]
    exact Nat.mod_eq_of_lt (s.acc n (bits c.b.toNat 14 8 + i) col).isLt
  have hin := hu.inside
  -- the command ends in a state whose accumulators alone may have changed since
  have hend (v : State) (hv : AccsSet u v) (hget : ∀ r col, col < 64 → v.acc n r col
      = if zero = true ∧ bits c.b.toNat 14 8 ≤ r ∧ r < bits c.b.toNat 14 8 + bits c.b.toNat 7 0 then 0 else s.acc n r col) :
      Ends (endCmd n 2 c 0 0 true) v (fun _ v =>
        EndedBy s n 2 c k t { writes := [.s c.token 0, .flags 0], acquire := some .device }
          (fun x => ∃ i, i < bits c.b.toNat 7 0 ∧ storeAt n (c.a.toNat + i * bits c.b.toNat 47 16) ≤ x ∧ x < storeAt n (c.a.toNat + i * bits c.b.toNat 47 16) + 256) v
        ∧ RowsRead s n c zero v) := by
    obtain ⟨accs, rfl⟩ := hv.rest
    have htile : ({ u with accs := accs } : State).tile n = s.tile n := by rw [State.tile, State.tile, hin.tiles]
    refine (ends_endCmd_performing (u := { u with accs := accs }) h (.of_tiles hin.threads hin.migrants hin.tiles)).mono fun _ x hx => ?_
    refine ⟨hx.endedBy h.issuer.1 (by rw [htile]) hin.threads hin.other, fun i col hi hcol => ?_, ?_, ?_, fun r col _ hcol => ?_⟩
    · rw [hx.mem]
      exact hbytes i col hi hcol
    · rw [hx.array, htile]
    · rw [hx.array, htile]
    · rw [State.acc, hx.accs]
      exact hget r col hcol
  have hacc (r col : Nat) : u.acc n r col = s.acc n r col := by rw [State.acc, hin.accs, State.acc]
  have hrise : keysRise u.accs = true := by
    rw [hin.accs]
    exact accs_rise hs
  cases zero with
  | false => exact ends_pure_bind (hend u (.refl hrise) fun r col _ => by simp [hacc])
  | true => exact ends_bind ((ends_zeroRows hrise).mono fun _ v ⟨hv, hget⟩ => hend v hv fun r col hcol => (hget r col hcol).trans (by simp [shapeRow0, shapeM, hacc]))

end

end Sys2Proof.Machine

/-!
SUPPORT. Plate loads and streams of the array at work, and a row command that finds no plate (R205-R210, R349).
-/

namespace Sys2Proof.Machine
open Sys2Proof.Claims

/-! ### Ranges of the local store -/

theorem spoiled_of_sound {s : State} (hb : s.bad = []) (a n : Nat) : spoiled s a n = false := by
  rw [spoiled, hb]
  rfl

theorem localRanges_ok {s : State} {tile : Nat} (hb : s.bad = []) : ∀ {l : List (Nat × Nat)}, (∀ p ∈ l, leavesWindow p.1 p.2 = false) →
    localRanges s tile l = .ok (l.map (fun p => peek s.mem (storeAt tile p.1) p.2))
  | [], _ => rfl
  | (va, m) :: l, h => by
    rw [localRanges, localRanges_ok hb fun p hp => h p (List.mem_cons_of_mem _ hp)]
    simp only [h _ List.mem_cons_self, spoiled_of_sound hb, Bool.and_false, Bool.false_eq_true, if_false]
    rfl

theorem leavesWindow_nothing (va : Nat) : leavesWindow va 0 = false := rfl

theorem getD_toBytes_peek (m : List Host.Cell) {n a j : Nat} (hj : j < n) : (toBytes n (peek m a n)).getD j 0 = Memory.read m (a + j) := by
  rw [toBytes, getD_map_range hj]
  refine BitVec.eq_of_toNat_eq ?_
  rw [BitVec.toNat_ofNat]
  exact peek_div m hj

section
variable {s : State} {n k : Nat} {c : EngineCmd} {t : Thread} {f : Format}

/-- What the array has loaded: the shadow plane holds the bytes of the columns, and no accumulator has changed. -/
structure PlateLoaded (s : State) (n : Nat) (c : EngineCmd) (fmt : Nat) (u : State) : Prop where
  accs : u.accs = s.accs
  active : (u.tile n).array.active = (s.tile n).array.active
  shadow : ∃ p, (u.tile n).array.shadow = some p ∧ p.fmt = fmt ∧ p.sparse = false
    ∧ ∀ i j, i < 64 → j < columnBytes fmt false → (p.columns.getD i []).getD j 0 = Memory.read s.mem (storeAt n (c.a.toNat + i * bits c.b.toNat 20 0) + j)

theorem arrayCommand_plate (hb : s.bad = []) (h : Performing s n 2 c k t) (hw : c.work = .plate false) (hf : formatOf c.descB = some f) (hscale : f.skind = 0)
    (hin : ∀ i, i < 64 → leavesWindow (c.a.toNat + i * bits c.b.toNat 20 0) (columnBytes f.fmt false) = false) :
    ∃ u, exec .arrayCommand s = .next u ∧ EndedBy s n 2 c k t { writes := [.s c.token 0, .flags 0] } (fun _ => False) u ∧ PlateLoaded s n c f.fmt u := by
  obtain ⟨hrefused, -, -, -, -, -, -, hfailed⟩ := h.fresh
  refine commit_next ?_
  simp only [h.input, nextCmd_of_performing h, hw]
  refine ends_bind (ends_modArray ?_)
  simp only [hrefused, hf, hfailed, Bool.false_eq_true, if_false]
  set s1 := s.withTile n { s.tile n with array := { (s.tile n).array with shadow := none } } with hs1
  refine ends_look_bind ?_
  rw [localRanges_ok (s := s1) hb]
  · simp only [List.append_nil, List.map_append, List.map_map]
    refine ends_bind (ends_modArray ?_)
    rw [hs1, withTile_tile]
    refine Ends.mono (ends_endCmd_performing h ?_) fun _ u hu => ?_
    · exact ⟨rfl, rfl, by rw [withTile_tile], by rw [withTile_tile]⟩
    have hnamed : c.named = false := by rw [EngineCmd.named, hw]; rfl
    have harray := hu.array
    rw [hnamed] at hu
    rw [withTile_tile] at harray
    refine ⟨hu.endedBy h.issuer.1 ?_ rfl fun _ _ => rfl, hu.accs, ?_, _, by rw [harray], rfl, rfl, fun i j hi hj => ?_⟩
    · rw [withTile_tile]; rfl
    · rw [harray]
    · rw [List.take_left' (by simp), List.map_map, getD_map_range hi]
      exact getD_toBytes_peek _ hj
  · intro p hp
    simp only [List.append_nil, List.mem_append, List.mem_map, List.mem_range] at hp
    rcases hp with ⟨i, hi, rfl⟩ | ⟨i, hi, rfl⟩
    · exact hin i hi
    · rw [scaleBytes, if_pos hscale]
      exact leavesWindow_nothing _

end

/-! ### Streams -/

/-- What a stream's rows leave: accumulators and the monitor of a tile may have changed, and of the accumulators none but the rows from `lo` below `hi`. -/
structure Streamed (s : State) (n lo hi : Nat) (u : State) : Prop where
  threads : u.threads = s.threads
  migrants : u.migrants = s.migrants
  mem : u.mem = s.mem
  tile : ∃ m, u.tile n = { s.tile n with array := { (s.tile n).array with monitor := m } }
  rise : keysRise u.accs = true
  other : ∀ r col, col < 64 → (r < lo ∨ hi ≤ r) → u.acc n r col = s.acc n r col

theorem Streamed.refl {s : State} {n lo hi : Nat} (h : keysRise s.accs = true) : Streamed s n lo hi s := ⟨rfl, rfl, rfl, ⟨_, rfl⟩, h, fun _ _ _ _ => rfl⟩

/-- One row more, and the monitor after it. -/
theorem Streamed.row {s u v : State} {n lo hi : Nat} {m : Monitor} (hu : Streamed s n lo hi u) (hv : AccsSet u v) (hget : ∀ r col, col < 64 → (r < lo ∨ hi ≤ r) → v.acc n r col = u.acc n r col) :
    Streamed s n lo hi (v.withTile n { v.tile n with array := { (v.tile n).array with monitor := m } }) := by
  obtain ⟨old, htile⟩ := hu.tile
  refine ⟨hv.threads.trans hu.threads, hv.migrants.trans hu.migrants, hv.mem.trans hu.mem, ⟨m, ?_⟩, hv.rise, fun r col hcol hr => (hget r col hcol hr).trans (hu.other r col hcol hr)⟩
  rw [withTile_tile, hv.tile, htile]

theorem length_streamRow (approx : BitVec 9) (sampled : Bool) (fmt : Nat) (row : List Val) : ∀ (l : List (Val × List (Nat × Val))) (m : Monitor), (streamRow approx sampled fmt row l m).1.length = l.length
  | [], _ => rfl
  | _ :: l, _ => by
    rw [streamRow]
    exact congrArg (· + 1) (length_streamRow approx sampled fmt row l _)

theorem ends_streamRows {c : EngineCmd} {zero : Bool} {n fmt lo hi : Nat} {ws : List (List (Nat × Val))} {s : State} (hws : ws.length = 64) : ∀ {l : List (Nat × List Val)} {fl : Flags} {u : State},
    Streamed s n lo hi u → (∀ x ∈ l, lo ≤ shapeRow0 c.b + x.1 ∧ shapeRow0 c.b + x.1 < hi) → Ends (streamRows c zero n fmt ws l fl) u (fun _ v => Streamed s n lo hi v)
  | [], _, _, hu, _ => ends_pure hu
  | (i, row) :: l, fl, u, hu, hl => by
    obtain ⟨hlo, hhi⟩ := hl _ List.mem_cons_self
    refine ends_look_bind (ends_bind (Ends.mono (ends_setRow hu.rise ?_) fun _ v ⟨hv, hget⟩ => ends_bind (ends_modArray (ends_streamRows hws ?_ fun x hx => hl x (List.mem_cons_of_mem _ hx)))))
    · rw [length_streamRow, List.length_zip, List.length_map, List.length_range, hws]
      exact le_refl 64
    · exact hu.row hv fun r col hcol hr => (hget r col hcol).trans (if_neg (by omega))

section
variable {s : State} {n k : Nat} {c : EngineCmd} {t : Thread}

/-- What a stream leaves: the planes, and every row of accumulators but those that it names. -/
structure RowsStreamed (s : State) (n : Nat) (c : EngineCmd) (u : State) : Prop where
  active : (u.tile n).array.active = (s.tile n).array.active
  shadow : (u.tile n).array.shadow = (s.tile n).array.shadow
  others : ∀ r col, col < 64 → (r < bits c.b.toNat 14 8 ∨ bits c.b.toNat 14 8 + bits c.b.toNat 7 0 ≤ r) → u.acc n r col = s.acc n r col

theorem arrayCommand_stream {f : Format} {p : Plate} {zero : Bool} (hs : s.canonical) (hb : s.bad = []) (h : Performing s n 2 c k t) (hw : c.work = .stream false zero) (hf : formatOf c.descA = some f)
    (hactive : (s.tile n).array.active = some p) (hclass : classNum f.fmt = classNum p.fmt) (hscale : f.skind = 0)
    (hin : ∀ i, i < bits c.b.toNat 7 0 → leavesWindow (c.a.toNat + i * bits c.b.toNat 47 16) (rowBytes f.fmt (depthOf p.fmt p.sparse)) = false) :
    ∃ u, exec .arrayCommand s = .next u ∧ ∃ fl, EndedBy s n 2 c k t { writes := [.s c.token 0, .flags fl] } (fun _ => False) u ∧ RowsStreamed s n c u := by
  obtain ⟨hrefused, -, -, -, -, -, -, hfailed⟩ := h.fresh
  refine commit_next ?_
  simp only [h.input, nextCmd_of_performing h, hw]
  refine ends_look_bind ?_
  simp only [hrefused, hf, hfailed, hactive, hclass, ne_eq, not_true_eq_false, Bool.false_eq_true, if_false]
  refine ends_look_bind ?_
  rw [localRanges_ok hb]
  · refine ends_bind (Ends.mono (ends_streamRows (s := s) (lo := bits c.b.toNat 14 8) (hi := bits c.b.toNat 14 8 + bits c.b.toNat 7 0) (by simp) (.refl (accs_rise hs)) fun x hx => ?_) fun fl u hu => ?_)
    · have hx := List.mem_range.mp (List.of_mem_zip hx).1
      exact ⟨Nat.le_add_right _ _, Nat.add_lt_add_left hx _⟩
    · obtain ⟨m, htile⟩ := hu.tile
      have hnamed : c.named = false := by rw [EngineCmd.named, hw]; rfl
      refine (ends_endCmd_performing h ⟨hu.threads, hu.migrants, by rw [htile], by rw [htile]⟩).mono fun _ v hv => ⟨fl, ?_, ?_, ?_, fun r col hcol hr => ?_⟩
      · rw [hnamed] at hv
        exact hv.endedBy h.issuer.1 (by rw [htile]; rfl) hu.threads fun a _ => by rw [hu.mem]
      · rw [hv.array, htile]
      · rw [hv.array, htile]
      · rw [State.acc, hv.accs]
        exact hu.other r col hcol hr
  · intro p hp
    simp only [List.mem_append, List.mem_map, List.mem_range] at hp
    rcases hp with ⟨i, hi, rfl⟩ | ⟨i, hi, rfl⟩
    · exact hin i hi
    · rw [scaleBytes, if_pos hscale]
      exact leavesWindow_nothing _

/-! ### A row command without a plate (R349) -/

theorem rowCommand_unplated {data : List Nat} {o : PendOp} (h : Performing s n 2 c k t) (hw : c.work = .row data) (hactive : (s.tile n).array.active = none) (ho : t.ops.find? (·.id = c.op) = some o) :
    ∃ u, exec .deckleRowCommand s = .next u ∧ EndsAlone s n 2 c k t { trap := some (opTrap o .malformedMetadata 0 0 false) } u := by
  refine commit_next ?_
  simp only [h.input, nextCmd_of_performing h, hw, hactive]
  exact (ends_trapCmd (quiet_of_performing h) (thread_of_performing h) ho).mono fun _ _ hu => hu.endsAlone h.issuer.1

end

end Sys2Proof.Machine

/-!
SUPPORT. The state-space block at work: where a scan stores (R242, R243).
-/

namespace Sys2Proof.Machine
open Sys2Proof.Claims

theorem scanSpoiled_of_sound {s : State} (hb : s.bad = []) (tile : Nat) (l : List (Nat × Nat)) : scanSpoiled s tile l = none := by
  have hnone : l.find? (fun r => decide (0 < r.2) && spoiled s (localKey tile (r.1 - windowBase)) r.2) = none :=
    List.find?_eq_none.mpr fun r _ => by simp [spoiled_of_sound hb]
  rw [scanSpoiled, hnone]
  rfl

/-- Stores in a loop, each at bytes that `w` admits. -/
theorem ends_forEach_poke_in {key x : Nat → Nat} {size m : Nat} {s u : State} {w : Nat → Prop} (hb : s.bad = []) (hu : StoredIn s w u)
    (hw : ∀ i < m, ∀ b, key i ≤ b → b < key i + size → w b) : Ends (forEach (List.range m) (fun i => poke (key i) size (x i))) u (fun _ v => StoredIn s w v) :=
  ends_forEach_range (fun _ v => StoredIn s w v) hu fun i hi _ hv => ends_poke_in hb hv (hw i hi)

theorem windowBase_le_of_range {va m : Nat} (hm : 0 < m) (h : leavesWindow va m = false) : windowBase ≤ va := by
  simp only [leavesWindow, hm, decide_true, Bool.true_and, Bool.not_eq_false', Bool.and_eq_true] at h
  exact windowBase_le_of_inWindow h.1

/-- A scan stores its outputs at the steps that are left, and ends without an error. -/
theorem ends_scanLoop {c : EngineCmd} {n len steps : Nat} {s : State} {w : Nat → Prop} (hb : s.bad = []) (hbase : 0 < steps → windowBase ≤ (c.e[4]).toNat)
    (hw : ∀ b, storeAt n (c.e[4]).toNat ≤ b → b < storeAt n (c.e[4]).toNat + 256 * steps → w b) : ∀ {fuel t0 : Nat} {hs : List (List Val)} {f : Flags} {u : State}, StoredIn s w u →
    Ends (scanLoop n c len steps fuel t0 hs f) u (fun r v => (∃ x, r = .ok x) ∧ StoredIn s w v)
  | 0, _, _, _, _, hu => ends_pure ⟨⟨_, rfl⟩, hu⟩
  | fuel + 1, t0, hs, f, u, hu => by
    by_cases hlt : steps ≤ t0
    · exact ends_if_pos hlt (ends_pure ⟨⟨_, rfl⟩, hu⟩)
    · refine ends_if_neg hlt (ends_look_bind ?_)
      have he : c.e.toList.getD 4 0 = c.e[4] := by rw [List.getD_eq_getElem _ _ (by simp), Vector.getElem_toList]
      simp only [scanSpoiled_of_sound (hu.bad.trans hb), he]
      refine ends_bind ((ends_forEach_poke_in (key := fun j => storeAt n ((c.e[4]).toNat + 256 * t0 + 256 * j)) hb hu fun j hj b hlo hhi => ?_).mono fun _ v hv => ends_scanLoop hb hbase hw hv)
      rw [Nat.add_assoc, storeAt_add (hbase (by omega))] at hlo hhi
      exact hw b (by omega) (by omega)

/-- The bytes that a scan may write: its state and its outputs (R242). -/
def scanBytes (n : Nat) (c : EngineCmd) (x : Nat) : Prop :=
  (storeAt n c.a.toNat ≤ x ∧ x < storeAt n c.a.toNat + 4096) ∨ (storeAt n (c.e[4]).toNat ≤ x ∧ x < storeAt n (c.e[4]).toNat + 256 * bits c.b.toNat 15 0)

section
variable {s : State} {n k : Nat} {c : EngineCmd} {t : Thread}

theorem sscanExecution_scan (hs : s.canonical) (hb : s.bad = []) (h : Performing s n 2 c k t) (hw : c.work = .scan) (hstate : reservedRange s c.ctx n c.a.toNat 4096 = false)
    (hout : reservedRange s c.ctx n (c.e[4]).toNat (256 * bits c.b.toNat 15 0) = false) (hstateIn : leavesWindow c.a.toNat 4096 = false) (houtIn : leavesWindow (c.e[4]).toNat (256 * bits c.b.toNat 15 0) = false) :
    ∃ u, exec .sscanExecution s = .next u ∧ ∃ fl, ((u.tile n).array = { (s.tile n).array with fifo := (u.tile n).array.fifo } ∧ u.accs = s.accs)
      ∧ EndedBy s n 2 c k t { writes := [.s c.token 0, .flags fl], acquire := some .device } (scanBytes n c) u := by
  refine commit_next ?_
  simp only [h.input, nextCmd_of_performing h]
  refine ends_bind (ends_due (decide_eq_true hw) (ends_bind (ends_due (by simp [hstate, hout]) ?_)))
  simp only [scanSpoiled_of_sound hb, ite_self]
  refine ends_bind ((ends_scanLoop (w := scanBytes n c) hb (fun hpos => windowBase_le_of_range (by omega) houtIn) (fun _ hlo hhi => Or.inr ⟨hlo, hhi⟩) (.refl (mem_wf hs))).mono ?_)
  rintro _ u ⟨⟨⟨hs', fl⟩, rfl⟩, hu⟩
  have hbase : windowBase ≤ c.a.toNat := windowBase_le_of_range (by omega) hstateIn
  refine ends_bind ((ends_forEach_poke_in (key := fun d => storeAt n (c.a.toNat + 64 * d)) hb hu fun d hd b hlo hhi => ?_).mono fun _ v hv => ?_)
  · rw [storeAt_add hbase] at hlo hhi
    exact Or.inl ⟨by omega, by omega⟩
  · have htile : v.tile n = s.tile n := by rw [State.tile, hv.tiles, State.tile]
    refine (ends_endCmd_performing h (.of_tiles hv.threads hv.migrants hv.tiles)).mono fun _ x hx => ⟨fl, ⟨?_, ?_⟩, ?_⟩
    · rw [hx.array, htile]
    · rw [hx.accs, hv.accs]
    · exact hx.endedBy h.issuer.1 (by rw [htile]) hv.threads hv.other

end

end Sys2Proof.Machine

/-!
SUPPORT. The copy engine at work on a word of the local store (R178, R232), and the engines' commands that have no row (R230, R236).
-/

namespace Sys2Proof.Machine
open Sys2Proof.Claims

/-! ### Accesses of an engine in the local window -/

theorem engineReach_window {ctx tile window va : Nat} {m : AccessMode} (h : inWindow va = true) : engineReach ctx tile window va m = pure (.ok (storeAt window va)) := if_pos h

theorem ends_readWord_window {c : EngineCmd} {tile window va : Nat} {s : State} {P : Except RowEnd (Nat × Bool) → State → Prop} (hb : s.bad = []) (h : inWindow va = true)
    (hP : P (.ok (peek s.mem (storeAt window va) 8, !isEmptyWord s (storeAt window va))) s) : Ends (readWord c tile window va) s P := by
  have hsound : loadSpoiled s va (storeAt window va) 8 = false := by rw [loadSpoiled, hb]; rfl
  have hbytes : loadBytes s va (storeAt window va) 8 = peek s.mem (storeAt window va) 8 := by rw [loadBytes, h]; rfl
  rw [readWord, engineReach_window h]
  refine ends_pure_bind (ends_look_bind ?_)
  rw [hsound, hbytes]
  exact ends_pure hP

/-- The reservation of an aligned word of a local store is kept under the word's own key. -/
theorem holdKey_storeAt {window va : Nat} (hva : va % 8 = 0) : holdKey va (storeAt window va) = storeAt window va := by
  have hlow : 2 ^ 49 ≤ storeAt window va := by
    rw [storeAt, localKey]
    omega
  have hword : wordOf (storeAt window va) = storeAt window va := by
    simp only [wordOf, storeAt, localKey, windowBase]
    omega
  rw [holdKey, if_pos, hword]
  rw [onTile, decide_eq_true hlow, Bool.true_and, Bool.or_eq_true, decide_eq_true_eq, decide_eq_true_eq]
  exact lt_or_ge _ _

theorem ends_reachStep_window {c : EngineCmd} {tile window va : Nat} {m : AccessMode} {s : State} {P : Except RowEnd Nat → State → Prop} (h : inWindow va = true) (hva : va % 8 = 0)
    (hfree : reserved s (storeAt window va) = false) (hP : P (.ok (storeAt window va)) s) : Ends (reachStep c tile window va 8 m) s P := by
  rw [reachStep, engineReach_window h]
  refine ends_pure_bind (ends_look_bind ?_)
  rw [holdKey_storeAt hva, hfree]
  exact ends_pure hP

/-- A word on which no waiter is listed settles at once. -/
theorem ends_settle_unlisted {hk w : Nat} {s : State} {P : Unit → State → Prop} (h : s.home hk = {}) (hP : P () s) : Ends (settle hk w) s P := by
  have hnone : waiters s hk = [] := by rw [waiters, h]; rfl
  have hloop (fuel : Nat) : Ends (settleLoop hk w fuel) s P := by
    cases fuel with
    | zero => exact ends_pure hP
    | succ fuel =>
      refine ends_look_bind ?_
      rw [hnone]
      exact ends_ite (ends_pure hP) (ends_ite (ends_pure_bind (ends_pure hP)) (ends_pure hP))
  exact ends_look_bind (hloop _)

/-- A reserved range has no reserved word of the local store at its start. -/
theorem reserved_of_range {s : State} {ctx tile va m : Nat} (h : inWindow va = true) (hva : va % 8 = 0) (hm : 0 < m) (hfree : reservedRange s ctx tile va m = false) : reserved s (storeAt tile va) = false := by
  cases hholds : s.holds with
  | nil =>
    rw [reserved, State.hold, hholds]
    rfl
  | cons x l =>
    rw [reservedRange, hholds, List.isEmpty_cons, Bool.not_false, Bool.true_and, List.any_eq_false] at hfree
    have hword : wordOf va + 8 * 0 = va := by
      rw [wordOf]
      omega
    have hfirst := hfree 0 (List.mem_range.mpr (Nat.succ_pos _))
    simp only [hword, h, if_true, Nat.lt_add_of_pos_right hm, decide_true, Bool.true_and, Bool.not_eq_true] at hfirst
    exact hfirst

/-! ### One word copied -/

section
variable {s : State} {n k : Nat} {c : EngineCmd} {t : Thread}

/-- A copy of one word within the local store, which keeps the word's state (R178, R230). -/
structure CopiesWord (n : Nat) (c : EngineCmd) : Prop where
  work : c.work = .copy
  rows : bits (c.e[2]).toNat 55 32 = 1
  length : bits (c.e[2]).toNat 31 0 = 8
  treat : bits (c.e[2]).toNat 58 56 = 0
  sourceOwn : bits (c.e[5]).toNat 15 15 = 0
  targetOwn : bits (c.e[5]).toNat 31 31 = 0
  source : inWindow (c.e[0]).toNat = true ∧ (c.e[0]).toNat % 8 = 0
  target : inWindow (c.e[1]).toNat = true ∧ (c.e[1]).toNat % 8 = 0

/-- A word of memory has been written with its state; the other bytes and states, the threads and the tiles are the same. -/
structure WordPut (s : State) (key x : Nat) (empty : Bool) (u : State) : Prop where
  threads : u.threads = s.threads
  migrants : u.migrants = s.migrants
  tiles : u.tiles = s.tiles
  bytes : peek u.mem key 8 = x % 256 ^ 8
  other : ∀ b, ¬ (key ≤ b ∧ b < key + 8) → Memory.read u.mem b = Memory.read s.mem b
  state : isEmptyWord u key = empty
  states : ∀ w, w ≠ key → isEmptyWord u w = isEmptyWord s w

theorem isEmptyWord_apply_empty {s : State} (hs : keysRise s.empties = true) (w key : Nat) (e : Bool) :
    isEmptyWord ((Effect.empty key e).apply s) w = if w = key then e else isEmptyWord s w := by
  by_cases hw : w = key
  · subst hw
    cases e with
    | true => simp [isEmptyWord, Effect.apply, mapGet_mapPut_same]
    | false => simp [isEmptyWord, Effect.apply, mapGet_mapDel_same _ _ none hs]
  · cases e with
    | true => simp [isEmptyWord, Effect.apply, mapGet_mapPut_other _ _ _ _ hw, hw]
    | false => simp [isEmptyWord, Effect.apply, mapGet_mapDel_other _ _ _ none hs hw, hw]

theorem empties_rise (hs : s.canonical) : keysRise s.empties = true := by
  obtain ⟨-, h, -⟩ := hs
  exact h

theorem ends_writeWord_window {window va x : Nat} {full : Bool} (hs : s.canonical) (hb : s.bad = []) (h : inWindow va = true) (hlist : s.home (homeKey c.ctx window va) = {}) :
    Ends (writeWord c 0 window va (storeAt window va) x full) s (fun _ u => WordPut s (storeAt window va) x (!full) u) := by
  refine ends_bind (ends_bind ((ends_poke_plain hb).mono ?_))
  rintro _ u ⟨old, hu⟩
  refine ends_if_pos h (ends_pure (ends_if_neg (by decide) (ends_emit_bind (ends_settle_unlisted ?_ ?_))))
  · rw [hu]
    exact hlist
  · subst hu
    have hread (b : Nat) := read_storedBytes (a := storeAt window va) (n := 8) (x := x) b (mem_wf hs)
    have hrise := empties_rise hs
    have hstate (w : Nat) := isEmptyWord_apply_empty (s := { s with mem := storedBytes s.mem (storeAt window va) 8 x, old := old }) hrise w (storeAt window va) (!full)
    refine ⟨rfl, rfl, rfl, peek_of_bytes fun i hi => ?_, fun b hnot => ?_, ?_, fun w hw => ?_⟩
    · refine (hread _).trans ?_
      rw [if_pos (by omega), Nat.add_sub_cancel_left]
    · exact (hread b).trans (if_neg hnot)
    · exact (hstate _).trans (if_pos rfl)
    · exact (hstate w).trans (if_neg hw)

/-! ### The steps of its row -/

theorem CopiesWord.of_eq {d : EngineCmd} (h : CopiesWord n c) (hw : d.work = c.work) (he : d.e = c.e) : CopiesWord n d := by
  obtain ⟨h1, h2, h3, h4, h5, h6, h7, h8⟩ := h
  rw [← he] at h2 h3 h4 h5 h6 h7 h8
  exact ⟨hw.trans h1, h2, h3, h4, h5, h6, h7, h8⟩

theorem copyTargets_own (h : CopiesWord n c) : copyTargets n c = [n] := by
  simp [copyTargets, h.work, h.targetOwn]

theorem copySource_own (h : CopiesWord n c) : copySource n c = n := by
  simp [copySource, h.sourceOwn]

theorem rowAt_first (base stride : Word) : rowAt base 0 stride = base.toNat := by
  simp [rowAt]

theorem rowWords_one {va : Nat} (h : va < 2 ^ 64) : rowWords va 1 = [va] := by
  rw [rowWords, List.range_one, List.map_singleton, Nat.mul_zero, Nat.add_zero, Nat.mod_eq_of_lt h]

theorem copyReads_word (h : CopiesWord n c) (hdone : c.done = 0) : copyReads c = [.readWord (c.e[0]).toNat] := by
  have hrow : rowWords (c.e[0]).toNat 1 = [(c.e[0]).toNat] := rowWords_one (c.e[0]).isLt
  simp [copyReads, h.work, copyTreat, h.treat, copyLen, h.length, hrow, hdone, rowAt_first]

theorem copyWrites_word {x : Nat} {full : Bool} (h : CopiesWord n c) (hdone : c.done = 0) (hgot : c.got = [(x, full)]) : copyWrites c = .ok [.write (c.e[1]).toNat x full] := by
  have hrow : rowWords (c.e[1]).toNat 1 = [(c.e[1]).toNat] := rowWords_one (c.e[1]).isLt
  simp [copyWrites, copyTreat, h.treat, copyLen, h.length, hrow, hdone, rowAt_first, hgot, treatedState]

/-- Writing reads nothing, and neither does a read of one word with its state: no granule is taken from one age. -/
theorem ends_wholeGranules_nothing {ctx core : Nat} {P : Unit → State → Prop} (hP : P () s) : Ends (wholeGranules ctx core []) s P := ends_pure hP

section
variable {lay : EngineCmd → Act (Except RowEnd EngineCmd)} {step : EngineStep} {rest : List EngineStep} {P : EngineCmd × RowEnd → State → Prop}

theorem ends_runSteps_next (hstep : step ≠ .lay) (hg : granuleReads (step :: rest) = []) (h : Ends (runStep n c lay step) s (fun r u => r.2 = .done ∧ Ends (runSteps n lay r.1 rest) u P)) :
    Ends (runSteps n lay c (step :: rest)) s P := by
  rw [runSteps, hg]
  refine ends_bind (ends_wholeGranules_nothing (ends_bind (h.mono ?_)))
  rintro ⟨d, e⟩ u ⟨rfl, hrest⟩
  exact ends_if_neg hstep hrest

theorem ends_runSteps_lay {d : EngineCmd} (hlay : lay c = pure (.ok d)) (hP : P (d, .done) s) : Ends (runSteps n lay c (.lay :: rest)) s P := by
  refine ends_bind (ends_wholeGranules_nothing (ends_bind (a := runStep n c lay .lay) (ends_bind ?_)))
  rw [hlay]
  exact ends_pure (ends_pure (ends_if_pos rfl (ends_pure hP)))

end

theorem ends_runStep_readWord {lay : EngineCmd → Act (Except RowEnd EngineCmd)} (hb : s.bad = []) (h : CopiesWord n c) : Ends (runStep n c lay (.readWord (c.e[0]).toNat)) s (fun r u =>
    r = ({ c with got := c.got ++ [(peek s.mem (storeAt n (c.e[0]).toNat) 8, !isEmptyWord s (storeAt n (c.e[0]).toNat))] }, .done) ∧ u = s) := by
  obtain ⟨hin, -⟩ := h.source
  have hown := copySource_own h
  have hwork := h.work
  cases c
  subst hwork
  refine ends_bind ?_
  rw [hown]
  exact ends_readWord_window hb hin (ends_pure ⟨rfl, rfl⟩)

theorem ends_runStep_write {lay : EngineCmd → Act (Except RowEnd EngineCmd)} {x : Nat} {full : Bool} (hs : s.canonical) (hb : s.bad = []) (h : CopiesWord n c) (hlist : s.home (homeKey c.ctx n (c.e[1]).toNat) = {})
    (hfree : reserved s (storeAt n (c.e[1]).toNat) = false) : Ends (runStep n c lay (.write (c.e[1]).toNat x full)) s (fun r u => r = (c, .done) ∧ WordPut s (storeAt n (c.e[1]).toNat) x (!full) u) := by
  obtain ⟨hin, haligned⟩ := h.target
  have htreat : copyTreat c.e = 0 := h.treat
  refine ends_bind (ends_bind ?_)
  rw [copyTargets_own h, htreat]
  refine ends_bind (ends_reachStep_window hin haligned hfree (ends_pure_bind (ends_pure ?_)))
  refine ends_bind (ends_forEach_cons ((ends_writeWord_window hs hb hin hlist).mono fun _ u hu => ends_forEach_nil (ends_pure (ends_pure ⟨rfl, hu⟩))))

theorem ends_runRow_word (hs : s.canonical) (hb : s.bad = []) (h : CopiesWord n c) (hdone : c.done = 0) (hrow : c.row = []) (hgot : c.got = []) (hlist : s.home (homeKey c.ctx n (c.e[1]).toNat) = {})
    (hfree : reserved s (storeAt n (c.e[1]).toNat) = false) :
    Ends (runRow n copyReads (fun d => return laid d (copyWrites d)) c) s (fun r u => (∃ got, r = ({ c with row := [], got := got }, .done))
      ∧ WordPut s (storeAt n (c.e[1]).toNat) (peek s.mem (storeAt n (c.e[0]).toNat) 8) (isEmptyWord s (storeAt n (c.e[0]).toNat)) u) := by
  have hread : (copyReads c ++ [.lay] : List EngineStep) = [.readWord (c.e[0]).toNat, .lay] := by rw [copyReads_word h hdone]; rfl
  refine ends_bind ?_
  simp only [hrow, List.isEmpty_nil, if_true, hread]
  -- the word is read with its state
  refine ends_runSteps_next EngineStep.noConfusion rfl ((ends_runStep_readWord hb h).mono ?_)
  rintro _ u ⟨rfl, rfl⟩
  refine ⟨rfl, ?_⟩
  -- its write is laid
  simp only [hgot, List.nil_append]
  set w := (peek u.mem (storeAt n (c.e[0]).toNat) 8, !isEmptyWord u (storeAt n (c.e[0]).toNat)) with hw
  have hlaid : laid { c with got := [w] } (copyWrites { c with got := [w] }) = .ok { c with row := [.write (c.e[1]).toNat w.1 w.2], got := [w] } :=
    congrArg (laid { c with got := [w] }) (copyWrites_word (c := { c with got := [w] }) (h.of_eq rfl rfl) hdone rfl)
  refine ends_runSteps_lay (congrArg pure hlaid) (ends_runSteps_next EngineStep.noConfusion rfl ?_)
  -- and made
  refine (ends_runStep_write (c := { c with row := [.write (c.e[1]).toNat w.1 w.2], got := [w] }) hs hb (h.of_eq rfl rfl) hlist hfree).mono ?_
  rintro _ u ⟨rfl, hu⟩
  refine ⟨rfl, ends_pure ⟨⟨_, rfl⟩, ?_⟩⟩
  rwa [hw, Bool.not_not] at hu

/-! ### Copies -/

theorem named_of_work (hw : c.work.namesSurface = true) : c.named = decide (bits (c.e[6]).toNat 0 0 = 1) := by rw [EngineCmd.named, hw, Bool.true_and]

/-- A command without a row ends; its token acquires the surface that it names (R230, R356). -/
theorem ends_endCmd_rowless {e : Nat} (h : Performing s n e c k t) (hw : c.work.namesSurface = true) :
    Ends (endCmd n e c 0 0 false) s (fun _ u => EndedBy s n e c k t { writes := [.s c.token 0, .flags 0], acquire := if bits (c.e[6]).toNat 0 0 = 1 then some .device else none } (fun _ => False) u) := by
  refine (ends_endCmd_performing h (.of_tiles rfl rfl rfl)).mono fun _ u hu => ?_
  rw [named_of_work hw, Bool.false_or] at hu
  simp only [decide_eq_true_eq] at hu
  exact hu.endedBy h.issuer.1 rfl rfl fun _ _ => rfl

theorem copyExecution_nothing (h : Performing s n 0 c k t) (hw : c.work = .copy) (hnone : bits (c.e[2]).toNat 55 32 = 0 ∨ bits (c.e[2]).toNat 31 0 = 0) :
    ∃ u, exec .copyExecution s = .next u
      ∧ EndedBy s n 0 c k t { writes := [.s c.token 0, .flags 0], acquire := if bits (c.e[6]).toNat 0 0 = 1 then some .device else none } (fun _ => False) u := by
  obtain ⟨hrefused, -⟩ := h.fresh
  refine commit_next ?_
  simp only [h.input, nextCmd_of_performing h, hrefused, hw]
  refine ends_if_pos ?_ (ends_endCmd_rowless h (by rw [hw]; rfl))
  rw [Bool.or_eq_true, decide_eq_true_eq, decide_eq_true_eq]
  exact hnone

theorem copyExecution_word (hs : s.canonical) (hb : s.bad = []) (h : Performing s n 0 c k t) (hword : CopiesWord n c) (hlist : s.home (homeKey c.ctx n (c.e[1]).toNat) = {})
    (hrange : reservedRange s c.ctx n (c.e[1]).toNat 8 = false) :
    ∃ u, exec .copyExecution s = .next u
      ∧ EndedBy s n 0 c k t { writes := [.s c.token 0, .flags 0], acquire := some .device } (fun x => storeAt n (c.e[1]).toNat ≤ x ∧ x < storeAt n (c.e[1]).toNat + 8) u
      ∧ peek u.mem (storeAt n (c.e[1]).toNat) 8 = peek s.mem (storeAt n (c.e[0]).toNat) 8 ∧ isEmptyWord u (storeAt n (c.e[1]).toNat) = isEmptyWord s (storeAt n (c.e[0]).toNat)
      ∧ ∀ w, w ≠ storeAt n (c.e[1]).toNat → isEmptyWord u w = isEmptyWord s w := by
  obtain ⟨hrefused, -, hdone, hrow, hgot, habsent, -⟩ := h.fresh
  obtain ⟨hin, haligned⟩ := hword.target
  refine commit_next ?_
  simp only [h.input, nextCmd_of_performing h, hrefused, hword.work, habsent, copyRows, copyLen, hword.rows, hword.length, hdone]
  refine ends_if_neg (by decide) (ends_bind (ends_bind ((ends_runRow_word hs hb hword hdone hrow hgot hlist (reserved_of_range hin haligned (by decide) hrange)).mono ?_)))
  rintro _ u ⟨⟨got, rfl⟩, hu⟩
  refine ends_pure ((ends_endCmd_performing h (.of_tiles hu.threads hu.migrants hu.tiles)).mono fun _ v hv => ⟨?_, ?_, ?_, fun w hw => ?_⟩)
  · exact hv.endedBy h.issuer.1 (by rw [State.tile, hu.tiles, State.tile]) hu.threads hu.other
  · rw [hv.mem, hu.bytes, Nat.mod_eq_of_lt (peek_lt _ _ _)]
  · rw [isEmptyWord, hv.empties]
    exact hu.state
  · rw [isEmptyWord, hv.empties]
    exact hu.states w hw

theorem conversionExecution_nothing (h : Performing s n 1 c k t) (hw : c.work = .convert) (hrows : bits (c.e[2]).toNat 55 32 = 0) (ha : (formatOf c.descA).isSome = true) (hb : (formatOf c.descB).isSome = true) :
    ∃ u, exec .conversionExecution s = .next u
      ∧ EndedBy s n 1 c k t { writes := [.s c.token 0, .flags 0], acquire := if bits (c.e[6]).toNat 0 0 = 1 then some .device else none } (fun _ => False) u := by
  obtain ⟨hrefused, hupdate, -, -, -, -, -, hfailed⟩ := h.fresh
  obtain ⟨fa, hfa⟩ := Option.isSome_iff_exists.mp ha
  obtain ⟨fb, hfb⟩ := Option.isSome_iff_exists.mp hb
  refine commit_next ?_
  simp only [h.input, nextCmd_of_performing h, hupdate, hrefused, hfa, hfb, hfailed, hrows]
  exact ends_if_neg Bool.false_ne_true (ends_if_pos trivial (ends_endCmd_rowless h (by rw [hw]; rfl)))

end

end Sys2Proof.Machine

/-!
SUPPORT. Acceptance of the only command that an engine holds (R202, R225; log 33).
-/

namespace Sys2Proof.Machine
open Sys2Proof.Claims

/-- A step that may be made before the rest. -/
theorem ends_ite_do {α : Type} {b : Prop} [Decidable b] {a : Act Unit} {rest : Act α} {s : State} {P : α → State → Prop} (h : Ends (if b then a else pure ()) s (fun _ u => Ends rest u P)) :
    Ends (if b then do a; rest else rest) s P := by
  split at h
  · exact ends_if_pos ‹_› (ends_bind h)
  · exact ends_if_neg ‹_› (ends_bind h)

theorem ends_breaks {k : Nat} {s : State} {t : Thread} {b : Bool} {P : Unit → State → Prop} (ht : s.thread? k = some t) (hP : P () (s.withThread k (breaks b t))) :
    Ends (if b then breakTiming k else pure ()) s P := by
  cases b with
  | false =>
    rw [show breaks false t = t from rfl, withThread_self ht] at hP
    exact ends_pure hP
  | true =>
    refine ends_look_bind ?_
    rw [ht]
    by_cases hfixed : t.fixed = true
    · rw [breaks, if_pos (by rw [hfixed]; rfl)] at hP
      exact ends_if_pos hfixed (ends_modThread ht hP)
    · rw [breaks, if_neg (by simp [hfixed]), withThread_self ht] at hP
      exact ends_if_neg hfixed (ends_pure hP)

theorem ends_tokenOnly {k op : Nat} {s : State} {t : Thread} {P : Unit → State → Prop} (ht : s.thread? k = some t) (hP : P () (s.withThread k (roused (tokenPending op t)))) :
    Ends (tokenOnly k op) s P := by
  refine ends_bind (ends_modThread ht (ends_rouse (t := tokenPending op t) (withThread_thread? ..) ?_))
  rwa [← withThread_withThread s k (tokenPending op t)] at hP

/-- An engine of a tile holds one command, which its thread has pushed and which has nothing left to wait for, and nothing to read at its acceptance. -/
structure Waiting (s : State) (n e k : Nat) (c : EngineCmd) (t : Thread) : Prop where
  input : s.input = .two k c.op
  tile : tileOf k = n
  thread : s.thread? k = some t
  owed : t.owed = none
  key : c.key = k
  accepted : c.accepted = false
  stopped : c.stopped = false
  alone : engineQ (s.tile n) e = [c]
  found : waitingCmd (s.tile n) c.op = some (e, c)
  released : outstanding s c.after = []
  refused : c.refused = none
  reads : acceptReads c = []
  absent : absentOf s n c = none

/-- The command as acceptance leaves it. -/
def EngineCmd.taken (c : EngineCmd) (failed : Bool) : EngineCmd := { c with accepted := true, converted := false, absent := none, failed := failed }

/-- What acceptance does once the command has its place: the trap of its formats, or its completion. -/
def acceptanceEnd (c d : EngineCmd) : Act Unit :=
  match formatFault c with
  | some (cause, a) => deferredTrap d.key d.op cause a
  | none => if d.work.completesAtAcceptance then completeAtAcceptance d else pure ()

/-- The command `d` stands in its engine, its issuer is `v`, and no other thread and no memory has changed. -/
structure AcceptedAs (s : State) (n e k : Nat) (d : EngineCmd) (v : Thread) (u : State) : Prop where
  queue : engineQ (u.tile n) e = [d]
  mem : u.mem = s.mem
  others : ∀ j, j ≠ k → u.thread? j = s.thread? j
  issuer : u.thread? k = some v

section
variable {s : State} {n e k : Nat} {c : EngineCmd} {t : Thread}

theorem ends_settleFor_unowed {core : Nat} {P : Unit → State → Prop} (ht : s.thread? k = some t) (howed : t.owed = none) (hP : P () s) : Ends (settleFor k core) s P := by
  refine ends_bind (ends_look_bind ?_)
  rw [ht]
  simp only [howed]
  refine ends_pure (ends_look_bind ?_)
  rw [ht]
  simp only [howed]
  exact ends_pure hP

theorem engineAcceptance_alone {v : Thread} (h : Waiting s n e k c t) (hwork : c.work ≠ .convert) (hscan : c.work = .scan → bits c.b.toNat 15 0 ≠ 0)
    (hend : ∀ u : State, u.thread? k = some (breaks c.untimed t) → Ends (acceptanceEnd c (c.taken (formatFault c).isSome)) u (fun _ w => w = u.withThread k v)) :
    ∃ u, exec .engineAcceptance s = .next u ∧ AcceptedAs s n e k (c.taken (formatFault c).isSome) v u := by
  obtain ⟨hinput, rfl, ht, howed, hkey, haccepted, hstopped, halone, hfound, hreleased, hrefused, hreads, habsent⟩ := h
  refine commit_next ?_
  simp only [hinput, hfound]
  refine ends_bind (ends_due ?_ (ends_bind (ends_due ?_ (ends_bind (ends_settleFor_unowed ht howed ?_)))))
  · simp [engineStopped, halone, hkey, hstopped, hreleased]
  · simp [halone]
  have hshared : basesShared c = false := by simp [basesShared, hwork]
  have hany : (engineQ (s.tile (tileOf k)) e).any (fun d => d.accepted && d.untimed) = false := by simp [halone, haccepted]
  have hsteps : ¬ (c.work = .scan ∧ c.b.toNat % 2 ^ 16 = 0) := fun ⟨hw, hzero⟩ => hscan hw (by simpa [bits] using hzero)
  have hheld : c.refused.isSome = false := by rw [hrefused]; rfl
  simp only [hheld, hreads]
  refine ends_bind (ends_pure ?_)
  simp only [hshared, hany, hheld, habsent, Bool.or_false, Bool.false_eq_true, if_false]
  refine ends_ite_do (ends_breaks (hkey ▸ ht) (ends_bind (ends_modTile ?_)))
  set x := s.withThread c.key (breaks c.untimed t) with hx
  have hq : engineQ (x.tile (tileOf k)) e = [c] := halone
  simp only [hq]
  have hlast {u : State} (hu : u = (x.withTile (tileOf k) (setEngineQ e [c.taken (formatFault c).isSome] (x.tile (tileOf k)))).withThread k v) :
      AcceptedAs s (tileOf k) e k (c.taken (formatFault c).isSome) v u := by
    subst hu hkey
    refine ⟨?_, rfl, fun j hj => ?_, withThread_thread? ..⟩
    · exact (congrArg (engineQ · e) (withTile_tile ..)).trans (engineQ_setEngineQ ..)
    · rw [withThread_thread?_other _ _ hj]
      exact withThread_thread?_other _ _ hj
  have hgone : [c].filter (fun d => decide (d.op ≠ c.op)) = [] := by simp
  simp only [hgone, List.filter_nil, List.nil_append, List.append_nil]
  have hdone := hend (x.withTile (tileOf k) (setEngineQ e [c.taken (formatFault c).isSome] (x.tile (tileOf k)))) (by rw [hx, hkey]; exact withThread_thread? ..)
  have hscanned {u : State} (hu : u = (x.withTile (tileOf k) (setEngineQ e [c.taken (formatFault c).isSome] (x.tile (tileOf k)))).withThread k v) {a : Act Unit} :
      Ends (if (decide (c.work = .scan) && decide (c.b.toNat % 2 ^ 16 = 0)) = true then a else pure ()) u (fun _ w => AcceptedAs s (tileOf k) e k (c.taken (formatFault c).isSome) v w) :=
    ends_if_neg (by simpa using hsteps) (ends_pure (hlast hu))
  rw [acceptanceEnd] at hdone
  cases hf : formatFault c with
  | some f =>
    obtain ⟨cause, a⟩ := f
    simp only [hf] at hdone hscanned ⊢
    exact ends_bind (hdone.mono fun _ u hu => hscanned hu)
  | none =>
    simp only [hf] at hdone hscanned ⊢
    exact ends_ite_do (hdone.mono fun _ u hu => hscanned hu)

/-! ### Commands that read no formats -/

theorem formatFault_unread (ha : c.work.readsA = false) (hb : c.work.readsB = false) : formatFault c = none := by
  simp only [formatFault, ha, hb, Bool.or_self, Bool.false_and, Bool.false_eq_true, if_false, List.append_nil]
  split
  · next h => simp [misaligned] at h
  · split
    · next h _ => simp [h, EngineWork.readsB] at hb
    · rfl

/-- The issuer once a command that reads no formats has its place (R208, R226). -/
def acceptedThread (c : EngineCmd) (t : Thread) : Thread :=
  if c.work ∈ [.swap, .cfg] then finished c.op {} (breaks c.untimed t)
  else if c.work.completesAtAcceptance then roused (tokenPending c.op (breaks c.untimed t))
  else breaks c.untimed t

theorem completeAtAcceptance_tokenless {d : EngineCmd} (h : d.work ∈ [.swap, .cfg]) : completeAtAcceptance d = finish d.key d.op {} := by
  rw [completeAtAcceptance]
  split
  · rfl
  · rfl
  · next hswap hcfg => exact absurd (List.mem_pair.mp h) (not_or.mpr ⟨hswap, hcfg⟩)

theorem completeAtAcceptance_token {d : EngineCmd} (h : d.work ∉ [.swap, .cfg]) : completeAtAcceptance d = tokenOnly d.key d.op := by
  rw [completeAtAcceptance]
  split
  · next hw => simp [hw] at h
  · next hw => simp [hw] at h
  · rfl

theorem ends_acceptanceEnd_unread {u : State} {failed : Bool} (hfault : formatFault c = none) (hkey : c.key = k) (hu : u.thread? k = some (breaks c.untimed t)) :
    Ends (acceptanceEnd c (c.taken failed)) u (fun _ w => w = u.withThread k (acceptedThread c t)) := by
  subst hkey
  rw [acceptanceEnd, hfault, acceptedThread]
  by_cases hbare : c.work ∈ [.swap, .cfg]
  · have hcompletes : (c.taken failed).work.completesAtAcceptance = true := by
      rcases List.mem_pair.mp hbare with hw | hw <;> rw [EngineCmd.taken, hw] <;> rfl
    rw [if_pos hbare]
    refine ends_if_pos hcompletes ?_
    rw [completeAtAcceptance_tokenless (d := c.taken failed) hbare]
    exact ends_finish hu rfl
  · rw [if_neg hbare]
    by_cases hcompletes : c.work.completesAtAcceptance = true
    · rw [if_pos hcompletes]
      refine ends_if_pos hcompletes ?_
      rw [completeAtAcceptance_token (d := c.taken failed) hbare]
      exact ends_tokenOnly hu rfl
    · rw [if_neg hcompletes]
      exact ends_if_neg hcompletes (ends_pure (withThread_self hu).symm)

theorem engineAcceptance_unread (h : Waiting s n e k c t) (ha : c.work.readsA = false) (hb : c.work.readsB = false) (hscan : c.work = .scan → bits c.b.toNat 15 0 ≠ 0) :
    ∃ u, exec .engineAcceptance s = .next u ∧ AcceptedAs s n e k (c.taken false) (acceptedThread c t) u := by
  have hfault := formatFault_unread ha hb
  have hall := engineAcceptance_alone (v := acceptedThread c t) h (fun hw => by simp [hw, EngineWork.readsA] at ha) hscan fun u hu => ends_acceptanceEnd_unread hfault h.key hu
  rwa [hfault] at hall

/-! ### Misaligned format registers (R104, R205) -/

theorem misaligned_of_find {l : List Word} {x : Word} (h : l.find? (fun y => decide (y.toNat % 8 ≠ 0)) = some x) : misaligned l = some x.toNat := by
  rw [misaligned, List.find?_map]
  exact congrArg (Option.map (·.toNat)) h

theorem engineAcceptance_misaligned {o : PendOp} {x : Word} (h : Waiting s n e k c t) (hwork : c.work ≠ .convert) (hscan : c.work ≠ .scan) (hfault : formatFault c = some (.align, x.toNat)) (ho : t.ops.find? (·.id = c.op) = some o) :
    ∃ u, exec .engineAcceptance s = .next u ∧ AcceptedAs s n e k (c.taken true) (finished c.op { trap := some (opTrap o .align x.toNat 0 false) } (breaks c.untimed t)) u := by
  have hall := engineAcceptance_alone (v := finished c.op { trap := some (opTrap o .align x.toNat 0 false) } (breaks c.untimed t)) h hwork (fun hw => absurd hw hscan) fun u hu => ?_
  · rwa [hfault] at hall
  · have hops : (breaks c.untimed t).ops = t.ops := by rw [breaks]; split <;> rfl
    rw [acceptanceEnd, hfault]
    refine ends_look_bind ?_
    rw [show (c.taken (Option.isSome (some (Cause.align, x.toNat)))).key = k from h.key, hu]
    simp only [hops, show (c.taken (Option.isSome (some (Cause.align, x.toNat)))).op = c.op from rfl, ho]
    exact ends_finish hu rfl

theorem formatFault_plate {sparse : Bool} {x : Word} (hw : c.work = .plate sparse) (hx : [c.fmtb, c.fmts].find? (fun y => decide (y.toNat % 8 ≠ 0)) = some x) : formatFault c = some (.align, x.toNat) := by
  have hmis := misaligned_of_find hx
  simp [formatFault, hw, EngineWork.readsA, EngineWork.readsB, hmis]

theorem formatFault_stream {memory zero : Bool} {x : Word} (hw : c.work = .stream memory zero) (hx : [c.fmta, c.fmts].find? (fun y => decide (y.toNat % 8 ≠ 0)) = some x) : formatFault c = some (.align, x.toNat) := by
  have hmis := misaligned_of_find hx
  simp [formatFault, hw, EngineWork.readsA, EngineWork.readsB, hmis]

end

end Sys2Proof.Machine

/-!
OBLIGATION O50. What the engines do with the commands they hold.
-/

namespace Sys2Proof.Claims
open Sys2Proof.Machine

/-- The monitor that a setting makes (R216). -/
theorem configure_eq (x : Nat) (m : Monitor) : (configure x m).on = decide (bits x 40 40 = 1) ∧ (configure x m).ks = min (bits x 36 32) 16 ∧ (configure x m).seed = bits x 31 16
    ∧ ((configure x m).samp, (configure x m).esum, (configure x m).emax, (configure x m).skip) = if bits x 41 41 = 1 then (0, 0, 0, 0) else (m.samp, m.esum, m.emax, m.skip) := by
  refine ⟨rfl, rfl, rfl, ?_⟩
  by_cases h : bits x 41 41 = 1
  · simp only [configure, h, if_true]
  · simp only [configure, h, if_false]

/-- Settles O50: each command's work is run to the end of the command, of which it is known that it changes what its engine names and its issuer's operation alone. -/
theorem engineEvents : Obligations.EngineEvents := by
  intro s n k c t hs
  refine ⟨fun e _ hinput htile ht howed hkey haccepted hstopped halone hfound hreleased hrefused hreads habsent hscan => ?_, fun h => ?_, fun h hw => ?_, fun h hw hrows ha hb => conversionExecution_nothing h hw hrows ha hb⟩
  · have hwaiting : Waiting s n e k c t := ⟨hinput, htile, ht, howed, hkey, haccepted, hstopped, halone, hfound, hreleased, hrefused, hreads, habsent⟩
    refine ⟨fun ha hb => ?_, fun o x hx ho => ?_⟩
    · obtain ⟨u, hu, hqueue, hmem, hothers, hissuer⟩ := engineAcceptance_unread hwaiting ha hb hscan
      exact ⟨u, hu, hqueue, hmem, hothers, hissuer⟩
    · have hmis : ∃ u, exec .engineAcceptance s = .next u ∧ AcceptedAs s n e k (c.taken true) (finished c.op { trap := some (opTrap o .align x.toNat 0 false) } (breaks c.untimed t)) u := by
        rcases hx with ⟨⟨sparse, hw⟩, hx⟩ | ⟨⟨zero, hw⟩, hx⟩
        · exact engineAcceptance_misaligned hwaiting (by simp [hw]) (by simp [hw]) (formatFault_plate hw hx) ho
        · exact engineAcceptance_misaligned hwaiting (by simp [hw]) (by simp [hw]) (formatFault_stream hw hx) ho
      obtain ⟨u, hu, hqueue, hmem, hothers, hissuer⟩ := hmis
      refine ⟨u, hu, hqueue, hmem, hothers, hissuer.trans ?_⟩
      rw [opTrap, BitVec.ofNat_toNat]
      rfl
  · refine ⟨fun hw => arrayCommand_swap h hw, fun hw => ?_, fun hw => arrayCommand_pop h hw, fun hw => arrayCommand_drain h hw, fun i hi hw => arrayCommand_mon h hi hw, fun zero hw hrows hres hstride hb => ?_,
      fun f hw hf hscale hb hin => ?_, fun zero f p hw hf hactive hclass hscale hb hin => ?_, fun data o hw hactive ho => rowCommand_unplated h hw hactive ho, fun hw hb _ hstate hout hstateIn houtIn => ?_⟩
    · obtain ⟨u, hu, hmonitor, haccs, hthreads, hmem⟩ := arrayCommand_cfg h hw
      refine ⟨u, hu, hthreads, hmem, haccs, ?_⟩
      rw [hmonitor]
      exact configure_eq ..
    · obtain ⟨u, hu, hended, hbytes, hactive, hshadow, haccs⟩ := arrayCommand_read hs hb h hw hrows hres hstride
      exact ⟨u, hu, hended, hbytes, hactive, hshadow, haccs⟩
    · obtain ⟨u, hu, hended, haccs, hactive, hshadow⟩ := arrayCommand_plate hb h hw hf hscale hin
      exact ⟨u, hu, hended, haccs, hactive, hshadow⟩
    · obtain ⟨u, hu, fl, hended, hplane, hshadow, hothers⟩ := arrayCommand_stream hs hb h hw hf hactive hclass hscale hin
      exact ⟨fl, u, hu, hended, hplane, hshadow, hothers⟩
    · obtain ⟨u, hu, fl, hsame, hended⟩ := sscanExecution_scan hs hb h hw hstate hout hstateIn houtIn
      exact ⟨u, fl, hu, hsame, hended⟩
  · refine ⟨fun hnone => copyExecution_nothing h hw hnone, fun hrows hlength htreat hsource htarget hb hsrc hsrc8 hdst hdst8 hlist hrange => ?_⟩
    exact copyExecution_word hs hb h ⟨hw, hrows, hlength, htreat, hsource, htarget, ⟨hsrc, hsrc8⟩, ⟨hdst, hdst8⟩⟩ hlist hrange

end Sys2Proof.Claims

/-!
SUPPORT. How a vector instruction ends (R76, R96, R113, R124): its lanes make up one register of the thread's mode, which it delivers at once in SHORT mode, with the turns that it forfeits, and as an
operation in flight in LONG mode.
-/

namespace Sys2Proof.Claims
open Sys2Proof.Machine

/-- A form that both modes have is legal where SHORT mode has the registers that it names (R113). -/
theorem vectorsLegal_of_lt {f : Form} {t : Thread} (hs : f.short = false) (hv : t.long = false → ∀ v ∈ f.vectors, v.toNat < 8) : vectorsLegal f t := by
  cases hl : t.long with
  | true => simp [vectorsLegal, hl, hs]
  | false => simpa [vectorsLegal, hl, hs] using hv hl

/-! ### Lanes of a register -/

/-- The register of the thread's mode whose lanes of width w are given (R113, R116). -/
def ofLanes (t : Thread) (w : Nat) (f : Nat → BitVec w) : LongVec := BitVec.ofNat 2048 (joinLanes w ((List.range (vecBits t / w)).map f))

theorem vecBits_le (t : Thread) : vecBits t ≤ 2048 := by
  unfold vecBits
  split <;> decide

theorem part_ofLanes {t : Thread} {w k : Nat} (f : Nat → BitVec w) (hk : k < vecBits t / w) : part w (ofLanes t w f) k = f k := by
  have hfit : w * k + w ≤ 2048 := by
    calc w * k + w = w * (k + 1) := rfl
      _ ≤ w * (vecBits t / w) := Nat.mul_le_mul_left w hk
      _ ≤ vecBits t := Nat.mul_div_le _ w
      _ ≤ 2048 := vecBits_le t
  apply BitVec.eq_of_getLsbD_eq
  intro i hi
  have hlt : w * k + i < 2048 := by omega
  rw [part, BitVec.getLsbD_extractLsb', ofLanes, BitVec.getLsbD_ofNat, testBit_joinLanes hi _ k (by simpa using hk)]
  simp [hi, hlt]

theorem extractLsb'_ofNat_low (x : Nat) : (BitVec.ofNat 2048 x).extractLsb' 0 256 = BitVec.ofNat 256 x := by
  apply BitVec.eq_of_getLsbD_eq
  intro i hi
  have hlt : i < 2048 := by omega
  simp only [BitVec.getLsbD_extractLsb', BitVec.getLsbD_ofNat, hi, hlt, decide_true, Bool.true_and, Nat.zero_add]

/-! ### Delivery -/

section
variable {s : State} {t : Thread} {u : Thread} {dest : Touch} {w : RegWrite} {fl : Option Flags}

/-- A thread with the flags of an instruction that can set one. -/
def raisedFlags (fl : Option Flags) (u : Thread) : Thread := match fl with | some x => u.orFlags x | none => u

/-- The operation in flight of a vector result in LONG mode: it opens no window (R124). -/
def vectorOperation (s : State) (t : Thread) (dest : Touch) (w : RegWrite) (fl : Option Flags) : PendOp :=
  ⟨s.nextId, t.pc, s.insn, Machine.isWide s.insn, if fl.isSome then dest.union touchFlags else dest, true, false, 0, false, s.cycle,
    some { writes := match fl with | some x => [w, .flags x] | none => [w] }⟩

theorem deliversResult_short {now : Thread → Thread} {n : Nat} (hl : t.long = false) :
    deliversResult s t dest w now fl n = s.ran t 4 (fun u => forfeits n (raisedFlags fl (now u))) := by
  simp only [deliversResult, hl]
  rfl

theorem deliversResult_long {now : Thread → Thread} {n : Nat} (hl : t.long = true) :
    deliversResult s t dest w now fl n = { s.ran t 4 (fun u => { u with ops := u.ops ++ [vectorOperation s t dest w fl] }) with nextId := s.nextId + 1 } := by
  simp only [deliversResult, hl]
  rfl

theorem ends_forfeit {n : Nat} {P : Unit → State → Prop} (hP : P () (s.withCurrent (forfeits n u))) : Ends (forfeit s.cur n) (s.withCurrent u) P := by
  by_cases hn : n = 0
  · rw [forfeits, if_pos hn] at hP
    exact ends_if_pos hn (ends_pure hP)
  · rw [forfeits, if_neg hn] at hP
    exact ends_if_neg hn (ends_modCur hP)

theorem ends_vectorResult_short {now : Thread → Thread} {P : Unit → State → Prop} (hl : t.long = false) (hw : slotWrite s.cur w = modThread s.cur now)
    (hP : P () (s.withCurrent (raisedFlags fl (now u)))) : Ends (vectorResult s.cur t dest w fl) (s.withCurrent u) P := by
  refine ends_if_neg (by simp [hl]) ?_
  rw [hw]
  refine ends_bind (ends_modCur ?_)
  cases fl with
  | some x => exact ends_modCur hP
  | none => exact ends_pure hP

theorem ends_vectorResult_long {P : Unit → State → Prop} (hl : t.long = true)
    (hP : P () ({ s with nextId := s.nextId + 1 }.withCurrent { u with ops := u.ops ++ [vectorOperation s t dest w fl] })) :
    Ends (vectorResult s.cur t dest w fl) (s.withCurrent u) P := by
  refine ends_if_pos hl (ends_bind (ends_freshId (ends_look_bind ?_)))
  exact ends_modCur (s := { s with nextId := s.nextId + 1 }) (by cases fl <;> exact hP)

/-- A rule that ends with a vector result, and in SHORT mode with the turns that it forfeits, leaves what the statements say that it delivers. -/
theorem ends_deliversResult {f : Form} {w' : RegWrite} {now : Thread → Thread} {n : Nat} {rest : Act Flow} (hlen : f.len = 4)
    (hlong : t.long = true → w' = w ∧ rest = pure .seq) (hshort : t.long = false → slotWrite s.cur w' = modThread s.cur now ∧ rest = (do forfeit s.cur n; return .seq)) :
    Ends (do vectorResult s.cur (t.issuing s) dest w' fl; rest) (s.withCurrent (t.issuing s)) (fun flow v => afterFlow f s flow v = deliversResult s t dest w now fl n) := by
  cases hl : t.long with
  | true =>
    obtain ⟨rfl, rfl⟩ := hlong hl
    rw [deliversResult_long hl]
    refine ends_bind (ends_vectorResult_long hl (ends_pure ?_))
    exact (afterFlow_seq f { s with nextId := s.nextId + 1 } _).trans (by rw [hlen]; rfl)
  | false =>
    obtain ⟨hw, rfl⟩ := hshort hl
    rw [deliversResult_short hl]
    refine ends_bind (ends_vectorResult_short hl hw (ends_bind (ends_forfeit (ends_pure ?_))))
    rw [afterFlow_seq, hlen]
    rfl

end

section
variable {s : State} {t : Thread} {gd : Guard} {d a b : BitVec 4}

/-- The same for a result in vector register D. -/
theorem ends_delivers {f : Form} {x : Nat} {fl : Option Flags} {n : Nat} {rest : Act Flow} (hlen : f.len = 4)
    (hlong : t.long = true → rest = pure .seq) (hshort : t.long = false → rest = (do forfeit s.cur n; return .seq)) :
    Ends (do vectorResult s.cur (t.issuing s) (touchVec d t) (vecWrite t d x) fl; rest) (s.withCurrent (t.issuing s))
      (fun flow v => afterFlow f s flow v = delivers s t d (BitVec.ofNat 2048 x) fl n) := by
  refine ends_deliversResult hlen (fun hl => ⟨by rw [vecWrite, if_pos hl], hlong hl⟩) fun hl => ⟨?_, hshort hl⟩
  rw [vecWrite, if_neg (by simp [hl]), extractLsb'_ofNat_low]
  rfl

/-- And for one in s[D]. -/
theorem ends_deliversScalar {f : Form} {x : Word} {fl : Option Flags} {n : Nat} {rest : Act Flow} (hlen : f.len = 4)
    (hlong : t.long = true → rest = pure .seq) (hshort : t.long = false → rest = (do forfeit s.cur n; return .seq)) :
    Ends (do vectorResult s.cur (t.issuing s) (touchS d) (.s d x) fl; rest) (s.withCurrent (t.issuing s))
      (fun flow v => afterFlow f s flow v = deliversScalar s t d x fl n) := by
  refine ends_deliversResult hlen (fun hl => ⟨rfl, hlong hl⟩) fun hl => ⟨?_, hshort hl⟩
  simp only [← writeS_eq_ite]
  rfl

/-! ### Integer and floating lanes (R117-R119) -/

/-- A lane-wise integer instruction delivers the register whose lanes are those of its rule (R117). -/
theorem vectorOp_delivers {w : BitVec 2} (f : (n : Nat) → BitVec n → BitVec n → BitVec n → BitVec n)
    {g : BitVec (laneWidth w) → BitVec (laneWidth w) → BitVec (laneWidth w) → BitVec (laneWidth w)}
    (h : CanIssue s t gd (touches [touchVec d t, touchVec a t, touchVec b t])) (hv : t.long = false → ∀ v ∈ [d, a, b], v.toNat < 8) (hf : ∀ x y m, f (laneWidth w) x y m = g x y m) :
    ∃ r : LongVec, (∀ k < vecBits t / laneWidth w, part (laneWidth w) r k
        = g (part (laneWidth w) (register s t a) k) (part (laneWidth w) (register s t b) k) (part (laneWidth w) (register s t d) k))
      ∧ vectorOp gd d a b w f s = .next (delivers s t d r none 0) :=
  ⟨ofLanes t (laneWidth w) (fun k => f (laneWidth w) (part (laneWidth w) (register s t a) k) (part (laneWidth w) (register s t b) k) (part (laneWidth w) (register s t d) k)),
    fun _ hk => (part_ofLanes _ hk).trans (hf ..),
    issue_eq h (vectorsLegal_of_lt rfl hv) nofun (ends_look_bind (ends_delivers rfl (fun _ => rfl) fun _ => rfl))⟩

end

end Sys2Proof.Claims

/-!
SUPPORT. The order of a reduction (R120): the rounds of the machine halve a list, and give what the statements' `pairwise` gives on its elements.
-/

namespace Sys2Proof.Claims
open Sys2Proof.Machine

/-! ### Flags of many combinations -/

@[simp] theorem orAll_nil : orAll [] = 0 := rfl
@[simp] theorem orAll_cons (x : Flags) (l : List Flags) : orAll (x :: l) = x ||| orAll l := by
  rw [orAll, List.foldl_cons, BitVec.or_comm, List.foldl_assoc]
  rfl

theorem orAll_append (l m : List Flags) : orAll (l ++ m) = orAll l ||| orAll m := by
  induction l with
  | nil => simp
  | cons x l ih => simp [ih, BitVec.or_assoc]

theorem orAll_map_or {α : Type} (f g : α → Flags) (l : List α) : orAll (l.map (fun i => f i ||| g i)) = orAll (l.map f) ||| orAll (l.map g) := by
  induction l with
  | nil => simp
  | cons x l ih =>
    simp only [List.map_cons, orAll_cons, ih]
    ac_rfl

theorem any_or {α : Type} (f g : α → Bool) (l : List α) : l.any (fun i => f i || g i) = (l.any f || l.any g) := by
  induction l with
  | nil => rfl
  | cons x l ih =>
    simp only [List.any_cons, ih]
    ac_rfl

/-! ### Rounds -/

/-- Two values combined, with the flags of both and of their combination, and whether the normaliser serves one of the three. -/
def combined (f : Nat → Nat → Nat × Flags × Bool) (x y : Nat × Flags × Bool) : Nat × Flags × Bool :=
  ((f x.1 y.1).1, x.2.1 ||| y.2.1 ||| (f x.1 y.1).2.1, x.2.2 || y.2.2 || (f x.1 y.1).2.2)

theorem range_two_pow_succ (n : Nat) : List.range (2 ^ (n + 1)) = List.range (2 ^ n) ++ (List.range (2 ^ n)).map (· + 2 ^ n) := by
  rw [Nat.pow_succ, Nat.mul_two, List.range_add]
  simp only [Nat.add_comm]

/-- A round combines each element of the first half with the one half the length further. -/
theorem zip_halves {α β : Type} (x : Nat → α) (f : α × α → β) (n : Nat) :
    (List.zip (((List.range (2 ^ (n + 1))).map x).take (2 ^ n)) (((List.range (2 ^ (n + 1))).map x).drop (2 ^ n))).map f
      = (List.range (2 ^ n)).map (fun i => f (x i, x (i + 2 ^ n))) := by
  have hlen : ((List.range (2 ^ n)).map x).length = 2 ^ n := by simp
  rw [range_two_pow_succ, List.map_append, List.take_left' hlen, List.drop_left' hlen, List.map_map, List.zip_map', List.map_map]
  rfl

/-- The rounds over 2^n values, each with the flags that it has raised and its service by the normaliser, give their pairwise combination. -/
theorem reduceRounds_eq_pairwise (f : Nat → Nat → Nat × Flags × Bool) : ∀ (n fuel : Nat) (x : Nat → Nat × Flags × Bool), n ≤ fuel →
    reduceRounds f fuel ((List.range (2 ^ n)).map (fun i => (x i).1)) (orAll ((List.range (2 ^ n)).map (fun i => (x i).2.1))) ((List.range (2 ^ n)).any (fun i => (x i).2.2))
      = pairwise (combined f) n x
  | 0, fuel, x, _ => by cases fuel <;> simp [reduceRounds, pairwise]
  | n + 1, fuel + 1, x, h => by
    have hlen : ¬ ((List.range (2 ^ (n + 1))).map (fun i => (x i).1)).length ≤ 1 := by simp
    have hhalf : ((List.range (2 ^ (n + 1))).map (fun i => (x i).1)).length / 2 = 2 ^ n := by simp [Nat.pow_succ]
    rw [pairwise, ← reduceRounds_eq_pairwise f n fuel _ (Nat.le_of_succ_le_succ h)]
    simp only [reduceRounds, if_neg hlen, hhalf, zip_halves, List.map_map, List.any_map]
    simp only [combined, orAll_map_or, any_or, range_two_pow_succ, List.map_append, List.map_map, List.any_append, List.any_map, orAll_append]
    rfl

theorem orAll_replicate_zero (n : Nat) : orAll (List.replicate n 0) = 0 := by
  induction n with
  | zero => rfl
  | succ n ih => rw [List.replicate_succ, orAll_cons, ih, BitVec.or_self]

/-- The same where nothing has been raised before the first round. -/
theorem reduceRounds_fresh (f : Nat → Nat → Nat × Flags × Bool) (x : Nat → Nat) {m n fuel : Nat} (hm : m = 2 ^ n) (hn : n ≤ fuel) :
    reduceRounds f fuel ((List.range m).map x) 0 false = pairwise (combined f) n (fun k => (x k, 0, false)) := by
  rw [← reduceRounds_eq_pairwise f n fuel _ hn, hm]
  have hany : (List.range (2 ^ n)).any (fun _ => false) = false := List.any_eq_false.mpr (by simp)
  simp only [List.map_const', orAll_replicate_zero, hany]

/-- A map that carries one combination to another carries the one result to the other. -/
theorem pairwise_map {α β : Type} {f : α → α → α} {g : β → β → β} (φ : α → β) (h : ∀ x y, φ (f x y) = g (φ x) (φ y)) :
    ∀ (n : Nat) (x : Nat → α), φ (pairwise f n x) = pairwise g n (fun i => φ (x i))
  | 0, _ => rfl
  | n + 1, x => by simp only [pairwise, pairwise_map φ h n, h]

/-- The lanes of a width of R116 or R118 are as many as a power of two, and at most 256. -/
theorem lanes_eq_two_pow {w : Nat} (hw : w = 8 ∨ w = 16 ∨ w = 32 ∨ w = 64) (t : Thread) : vecBits t / w = 2 ^ rounds t w ∧ rounds t w ≤ 9 := by
  unfold rounds vecBits
  rcases hw with rfl | rfl | rfl | rfl <;> split <;> decide

theorem width_typeFmt (ty : BitVec 2) : (typeFmt ty).width = 8 ∨ (typeFmt ty).width = 16 ∨ (typeFmt ty).width = 32 ∨ (typeFmt ty).width = 64 := by
  revert ty
  decide

theorem width_laneCode {e : BitVec 4} (h : e.toNat ≤ 3) : 8 * 2 ^ e.toNat = 8 ∨ 8 * 2 ^ e.toNat = 16 ∨ 8 * 2 ^ e.toNat = 32 ∨ 8 * 2 ^ e.toNat = 64 := by
  generalize e.toNat = n at h
  interval_cases n <;> decide

/-! ### Reductions to a scalar -/

section
variable {s : State} {t : Thread} {gd : Guard} {d a : BitVec 4}

theorem reduceOp_delivers {n : Nat} {float : Bool} {f : Thread → Nat → Nat → Nat × Flags × Bool} {extend : Nat → Word} {r : Nat × Flags × Bool} (hn : n = 8 ∨ n = 16 ∨ n = 32 ∨ n = 64)
    (h : CanIssue s t gd (touches [touchS d, touchVec a t, if float then touchFlags else {}])) (hv : t.long = false → ∀ v ∈ [a], v.toNat < 8)
    (hr : pairwise (combined (f (t.issuing s))) (rounds t n) (fun k => ((part n (register s t a) k).toNat, 0, false)) = r) :
    reduceOp gd d a n float f extend s = .next (deliversScalar s t d (extend r.1) (if float then some r.2.1 else none) (if r.2.2 then 2 else 0)) := by
  obtain ⟨hcount, hfuel⟩ := lanes_eq_two_pow hn t
  have hrounds := (reduceRounds_fresh (f (t.issuing s)) (fun k => (part n (register s t a) k).toNat) hcount hfuel).trans hr
  refine issue_eq h (vectorsLegal_of_lt rfl hv) nofun (ends_look_bind ?_)
  refine hrounds.symm ▸ ?_
  exact ends_deliversScalar rfl (fun hl => if_pos hl) (fun hl => if_neg (by simp [hl]))

end

/-! ### The lane that a reduction by order keeps -/

theorem minMax_eq_lesser_signed (n : Nat) (x y : BitVec n) : minMax false false x y = if x.toInt ≤ y.toInt then x else y := by
  rw [minMax_min_signed, min_def]
  split <;> exact BitVec.ofInt_toInt

theorem minMax_eq_greater_signed (n : Nat) (x y : BitVec n) : minMax true false x y = if y.toInt ≤ x.toInt then x else y := by
  rw [minMax_max_signed, max_comm, max_def]
  split <;> exact BitVec.ofInt_toInt

theorem minMax_eq_lesser_unsigned (n : Nat) (x y : BitVec n) : minMax false true x y = if x.toNat ≤ y.toNat then x else y := by
  rw [minMax_min_unsigned, min_def]
  split <;> simp

theorem minMax_eq_greater_unsigned (n : Nat) (x y : BitVec n) : minMax true true x y = if y.toNat ≤ x.toNat then x else y := by
  rw [minMax_max_unsigned, max_comm, max_def]
  split <;> simp

/-- A combination of two lanes on the numbers that they are, which raises no flag. -/
def onNumbers {w : Nat} (f : BitVec w → BitVec w → BitVec w) (x y : Nat) : Nat × Flags × Bool := ((f (BitVec.ofNat w x) (BitVec.ofNat w y)).toNat, 0, false)

theorem pairwise_onNumbers {w : Nat} (f : BitVec w → BitVec w → BitVec w) (n : Nat) (x : Nat → BitVec w) :
    pairwise (combined (onNumbers f)) n (fun k => ((x k).toNat, 0, false)) = ((pairwise f n x).toNat, 0, false) :=
  (pairwise_map (fun x : BitVec w => (x.toNat, (0 : Flags), false)) (fun x y => by simp [combined, onNumbers]) n x).symm

theorem union_empty (x : Touch) : x.union {} = x := by simp [Touch.union]

section
variable {s : State} {t : Thread} {gd : Guard} {d a e : BitVec 4}

/-- An integer reduction combines the lanes as numbers of their width, and raises no flag. -/
theorem reduceInt_delivers {signed : Bool} {f : (n : Nat) → BitVec n → BitVec n → BitVec n} {w : Nat} {r : BitVec w} (he : e.toNat ≤ 3) (hw : w = 8 * 2 ^ e.toNat)
    (h : CanIssue s t gd (touches [touchS d, touchVec a t])) (hv : t.long = false → ∀ v ∈ [a], v.toNat < 8) (hr : pairwise (f w) (rounds t w) (part w (register s t a)) = r) :
    reduceInt gd d a e signed f s = .next (deliversScalar s t d (if signed then intMod64 r.toInt else mod64 r.toNat) none 0) := by
  have hmod : e.toNat % 4 = e.toNat := Nat.mod_eq_of_lt (Nat.lt_succ_of_le he)
  have hwidth : w = 8 ∨ w = 16 ∨ w = 32 ∨ w = 64 := hw ▸ width_laneCode he
  have hpair := pairwise_onNumbers (f w) (rounds t w) (part w (register s t a))
  rw [hr] at hpair
  have hextend : (if signed then (BitVec.ofNat w r.toNat).signExtend 64 else BitVec.ofNat 64 r.toNat) = if signed then intMod64 r.toInt else mod64 r.toNat := by
    simp [BitVec.signExtend, intMod64, mod64]
  rw [reduceInt, hmod, ← hw, ← hextend]
  have hno : touches [touchS d, touchVec a t, if false then touchFlags else {}] = touches [touchS d, touchVec a t] := union_empty _
  exact reduceOp_delivers (r := (r.toNat, 0, false)) hwidth (hno ▸ h) hv hpair

/-- A floating reduction combines the lanes as the scalar operation does, with no third operand. -/
theorem reduceFloat_delivers {op : FloatOp} (h : CanIssue s t gd (touches [touchS d, touchVec a t, touchFlags])) (hv : t.long = false → ∀ v ∈ [a], v.toNat < 8) :
    let f := typeFmt (e.extractLsb' 0 2)
    let r := pairwise (combined (fun x y => floatLane op f t.rmode x y 0)) (rounds t f.width) (fun k => ((part f.width (register s t a) k).toNat, 0, false))
    reduceFloat gd op d a e s = .next (deliversScalar s t d (mod64 r.1) (some r.2.1) (if r.2.2 then 2 else 0)) := by
  intro f r
  exact reduceOp_delivers (width_typeFmt _) h hv rfl

end

/-- Each integer reduction issues as one whose function combines two lanes as its rule says. -/
theorem exec_reductions {i : Instr} {gd : Guard} {d a e : BitVec 4} {signed : Bool} {f : (w : Nat) → BitVec w → BitVec w → BitVec w} (hwf : i.wf = true)
    (h : reductions i = some (gd, d, a, e, signed, f)) : exec i = reduceInt gd d a e signed f ∧ vectorFields i = [a] ∧ e.toNat ≤ 3 := by
  cases i with
  | vredAdd => cases h; exact ⟨rfl, rfl, by simp_all [Instr.wf]⟩
  | vredMinI => cases h; simp only [← minMax_eq_lesser_signed]; exact ⟨rfl, rfl, by simp_all [Instr.wf]⟩
  | vredMaxI => cases h; simp only [← minMax_eq_greater_signed]; exact ⟨rfl, rfl, by simp_all [Instr.wf]⟩
  | vredMinN => cases h; simp only [← minMax_eq_lesser_unsigned]; exact ⟨rfl, rfl, by simp_all [Instr.wf]⟩
  | vredMaxN => cases h; simp only [← minMax_eq_greater_unsigned]; exact ⟨rfl, rfl, by simp_all [Instr.wf]⟩
  | _ => cases h

theorem exec_floatReductions {i : Instr} {gd : Guard} {op : FloatOp} {d a e : BitVec 4} (h : floatReductions i = some (gd, op, d, a, e)) :
    exec i = reduceFloat gd op d a e ∧ vectorFields i = [a] := by
  cases i with
  | vredFadd | vredFmin | vredFmax => cases h; exact ⟨rfl, rfl⟩
  | _ => cases h

end Sys2Proof.Claims

/-!
SUPPORT. What vector instructions use of their tile: its long-vector unit (R114), and its coefficient memory with its owner and its entries (R125, R128).
-/

namespace Sys2Proof.Claims
open Sys2Proof.Machine

/-! ### The unit of a tile -/

@[simp] theorem issuing_pending (t : Thread) (s : State) : (t.issuing s).pending = t.pending := by
  simp [Thread.pending, Thread.issuing, Thread.ticked, Function.comp_def]

/-- A `VLONG` that finds its tile's unit attached reports whether another thread holds it (R114). -/
theorem vlong_taken {s : State} {t : Thread} {gd : Guard} {d : BitVec 4} {k : Nat} (h : CanIssue s t gd (touchP d)) (hk : (s.tile (tileOf s.cur)).unit = some k) :
    exec (.vlong gd d) s = .next (s.ran t 4 (fun u => u.writeP d (k ≠ s.cur))) := by
  refine issue_eq h (vectorsLegal_none rfl rfl) nofun (ends_look_bind ?_)
  rw [show ((s.withCurrent (t.issuing s)).tile (tileOf s.cur)).unit = some k from hk]
  exact ends_bind (ends_modCur (ends_pure (afterFlow_seq ..)))

/-- One that finds it free attaches it, zeroed (R114). -/
theorem vlong_attaches {s : State} {t : Thread} {gd : Guard} {d : BitVec 4} (h : CanIssue s t gd (touchP d)) (hfree : (s.tile (tileOf s.cur)).unit = none) :
    exec (.vlong gd d) s = .next { s.ran t 4 (fun u => { u.writeP d false with long := true })
      with tiles := mapPut (tileOf s.cur) { s.tile (tileOf s.cur) with unit := some s.cur, w := Vector.replicate 16 0 } s.tiles } := by
  refine issue_eq h (vectorsLegal_none rfl rfl) nofun (ends_look_bind ?_)
  rw [show ((s.withCurrent (t.issuing s)).tile (tileOf s.cur)).unit = none from hfree]
  exact ends_bind (ends_modTile_shared (ends_bind (ends_modCur_shared (ends_pure (afterFlow_seq_shared ..)))))

/-- `VSHORT` does nothing in a thread that does not hold the unit (R114). -/
theorem vshort_idle {s : State} {t : Thread} {gd : Guard} (h : CanIssue s t gd {}) (hown : (s.tile (tileOf s.cur)).unit ≠ some s.cur) : exec (.vshort gd) s = .next (s.ran t 4 id) :=
  issue_eq h (vectorsLegal_none rfl rfl) nofun (ends_look_bind (ends_if_neg hown (ends_pure (afterFlow_seq ..))))

/-- It releases the unit that its thread holds, once no w register is to be written (R114). -/
theorem vshort_releases {s : State} {t : Thread} {gd : Guard} (h : CanIssue s t gd {}) (hown : (s.tile (tileOf s.cur)).unit = some s.cur) (hw : t.pending.w = 0) :
    exec (.vshort gd) s = .next { s.ran t 4 (fun u => { u with long := false }) with tiles := mapPut (tileOf s.cur) { s.tile (tileOf s.cur) with unit := none } s.tiles } := by
  refine issue_eq h (vectorsLegal_none rfl rfl) nofun (ends_look_bind (ends_if_pos hown (ends_if_neg (by simp [hw]) ?_)))
  refine ends_bind (ends_look_bind (ends_if_pos hown (ends_modTile_shared ?_)))
  exact ends_bind (ends_modCur_shared (ends_pure (afterFlow_seq_shared ..)))

end Sys2Proof.Claims

namespace Sys2Proof.Machine
open Sys2Proof.Claims

/-! ### Coefficient memory -/

/-- A loop of checks that all pass changes nothing. -/
theorem ends_forEach_checks {α : Type} {l : List α} {f : α → Act Unit} {s : State} {P : Unit → State → Prop} (h : ∀ x ∈ l, Ends (f x) s (fun _ u => u = s)) (hP : P () s) :
    Ends (forEach l f) s P := by
  refine (ends_forEach (· = s) rfl ?_).mono fun _ u hu => hu ▸ hP
  rintro x hx u rfl
  exact h x hx

/-- The coefficient memory of the current thread's tile, where it may own it, is its context's from then on (R128). -/
theorem ends_claimCoef {s : State} {t : Thread} {P : Unit → State → Prop} (h : mayOwn (s.tile (tileOf s.cur)).coefOwner t.ctx)
    (hP : P () ({ s with tiles := coefClaimed s t }.withCurrent (t.issuing s))) : Ends (claimCoef s.cur (t.issuing s)) (s.withCurrent (t.issuing s)) P := by
  refine ends_look_bind ?_
  obtain h | h := h
  · rw [show ((s.withCurrent (t.issuing s)).tile (tileOf s.cur)).coefOwner = none from h]
    rw [coefClaimed, if_pos h] at hP
    exact ends_modTile hP
  · rw [show ((s.withCurrent (t.issuing s)).tile (tileOf s.cur)).coefOwner = some t.ctx from h]
    rw [coefClaimed, if_neg (by simp [h])] at hP
    exact ends_require (decide_eq_true rfl) hP

theorem ends_needEntries {c : Coefs} {l : List CoefFn} {s : State} {P : Unit → State → Prop} (h : ∀ g ∈ l, (c.entry g).isSome = true) (hP : P () s) : Ends (needEntries c l) s P :=
  ends_forEach_checks (fun g hg => ends_require (h g hg) rfl) hP

end Sys2Proof.Machine

namespace Sys2Proof.Claims
open Sys2Proof.Machine

theorem exec_functions {i : Instr} {gd : Guard} {f : CoefFn} {d a ty : BitVec 4} (h : functions i = some (gd, f, d, a, ty)) :
    exec i = vfnOp gd f d a ty ∧ vectorFields i = [d, a] := by
  cases i with
  | vfnExp2 | vfnLog2 | vfnRcp | vfnRsq | vfnSin | vfnCos => cases h; exact ⟨rfl, rfl⟩
  | _ => cases h

/-- A claim of coefficient memory changes no vector register. -/
theorem register_coefClaimed (s : State) (t : Thread) (a : BitVec 4) : register { s with tiles := coefClaimed s t } t a = register s t a := by
  unfold register coefClaimed
  split
  · split
    · simp only [State.tile, mapGet_mapPut_same, Option.getD_some, Tile.readW]
    · rfl
  · rfl

theorem delivers_tiles (s : State) (T : NatMap Tile) (t : Thread) (d : BitVec 4) (r : LongVec) (fl : Option Flags) (n : Nat) :
    delivers { s with tiles := T } t d r fl n = { delivers s t d r fl n with tiles := T } := by
  unfold delivers deliversResult
  split <;> rfl

end Sys2Proof.Claims

/-!
SUPPORT. The requests that instructions send (R122, R132, R144, R151): the checks of their addresses, in their order, and what sending one leaves.
-/

namespace Sys2Proof.Machine
open Sys2Proof.Claims

/-- The outcome is that the instruction of the turn raises a precise trap (R144). -/
def Traps (s : State) (t : Thread) (c : Cause) (addr : Word) (o : Step) : Prop := o = commit "TRAP_ENTRY" (enterTrap s.cur (preciseTrap t s.insn c addr) false) s

/-- The outcome of an access: an address that is not canonical traps, and one that is and is misaligned does (R132, R144). -/
def Checks (s : State) (t : Thread) (va : Word) (n : Nat) (o : Step) : Prop :=
  (2 ^ 56 ≤ va.toNat → Traps s t .protection va o) ∧ (va.toNat < 2 ^ 56 → va.toNat % n ≠ 0 → Traps s t .align va o)

/-- The same for the lanes of an access: the first whose address is not canonical, and where all are the first that is misaligned (R122). -/
def ChecksLanes (s : State) (t : Thread) (l : List Word) (n : Nat) (o : Step) : Prop :=
  (∀ x, l.find? (fun y => decide (2 ^ 56 ≤ y.toNat)) = some x → Traps s t .protection x o)
    ∧ ((∀ y ∈ l, y.toNat < 2 ^ 56) → ∀ x, l.find? (fun y => decide (y.toNat % n ≠ 0)) = some x → Traps s t .align x o)

section
variable {s : State} {t : Thread} {va : Word} {n : Nat} {α : Type} {rest : Unit → Act α}

/-! ### One address -/

theorem not_canonical_eq : (fun y : Word => !canonical y.toNat) = fun y => decide (2 ^ 56 ≤ y.toNat) := by
  funext y
  rw [canonical, vaEnd, ← decide_not, decide_eq_decide]
  exact Nat.not_lt

theorem ends_needCanonical {v : State} {P : Unit → State → Prop} (h : va.toNat < 2 ^ 56) (hP : P () v) : Ends (needCanonical va) v P := ends_require (decide_eq_true h) hP

theorem ends_needAligned {v : State} {P : Unit → State → Prop} (h : va.toNat % n = 0) (hP : P () v) : Ends (needAligned va n) v P := ends_require (decide_eq_true h) hP

theorem stops_needCanonical (h : 2 ^ 56 ≤ va.toNat) : StopsWith (needCanonical va >>= rest) (s.withCurrent (t.issuing s)) (.trap (preciseTrap t s.insn .protection va)) :=
  stops_require (decide_eq_false (Nat.not_lt_of_le h))

theorem stops_needAligned (h : va.toNat % n ≠ 0) : StopsWith (needAligned va n >>= rest) (s.withCurrent (t.issuing s)) (.trap (preciseTrap t s.insn .align va)) :=
  stops_require (decide_eq_false h)

/-- A rule that begins with both checks. -/
theorem issue_checks {f : Form} {body : Nat → Thread → Act Flow} {rest : Unit → Act Flow} (h : CanIssue s t f.guard (f.uses t)) (hv : vectorsLegal f t) (h3 : f.core3 = true → roleOf s.cur = 3)
    (hb : body s.cur (t.issuing s) = needCanonical va >>= fun _ => needAligned va n >>= rest) : Checks s t va n (issue f body s) := by
  refine ⟨fun hva => issue_trap h hv h3 ?_, fun hva hn => issue_trap h hv h3 ?_⟩
  · rw [hb]
    exact stops_needCanonical hva
  · rw [hb]
    exact stops_after (ends_needCanonical hva (stops_needAligned hn))

/-! ### The lanes of an access -/

theorem stops_forEach_require {ok : Word → Bool} {c : Cause} {x : Word} : ∀ {l : List Word}, l.find? (fun y => !ok y) = some x →
    StopsWith (forEach l (fun y => require (ok y) c y)) (s.withCurrent (t.issuing s)) (.trap (preciseTrap t s.insn c x))
  | y :: l, hx => by
    cases hok : ok y with
    | true =>
      rw [List.find?_cons_of_neg (by simp [hok])] at hx
      exact stops_after (ends_require hok (stops_forEach_require hx))
    | false =>
      rw [List.find?_cons_of_pos (by simp [hok])] at hx
      cases hx
      exact stops_require hok

theorem ends_needLanes {v : State} {l : List Word} {P : Unit → State → Prop} (h : ∀ x ∈ l, addressOk x n) (hP : P () v) : Ends (needLanes l n) v P :=
  ends_bind (ends_forEach_checks (fun x hx => ends_needCanonical (h x hx).1 rfl) (ends_forEach_checks (fun x hx => ends_needAligned (h x hx).2 rfl) hP))

/-- A rule that checks the lanes before anything else of it takes effect. -/
theorem issue_checksLanes {f : Form} {body : Nat → Thread → Act Flow} {l : List Word} {rest : Unit → Act Flow} (h : CanIssue s t f.guard (f.uses t)) (hv : vectorsLegal f t)
    (h3 : f.core3 = true → roleOf s.cur = 3)
    (hb : ∀ w, StopsWith (needLanes l n >>= rest) (s.withCurrent (t.issuing s)) w → StopsWith (body s.cur (t.issuing s)) (s.withCurrent (t.issuing s)) w) :
    ChecksLanes s t l n (issue f body s) := by
  refine ⟨fun x hx => issue_trap h hv h3 (hb _ (stops_bind (stops_bind ?_))), fun hall x hx => issue_trap h hv h3 (hb _ (stops_bind (stops_after ?_)))⟩
  · exact stops_forEach_require (ok := fun y => canonical y.toNat) (by rwa [not_canonical_eq])
  · refine ends_forEach_checks (fun y hy => ends_needCanonical (hall y hy) rfl) ?_
    exact stops_forEach_require (ok := fun y => decide (y.toNat % n = 0)) (by simpa only [ne_eq, decide_not] using hx)

end

/-! ### Sending -/

section
variable {s : State} {t : Thread} {dest extra : Touch} {la : BitVec 4} {ask : Ask} {spans : List (Nat × Nat)} {g : Req → Req}

/-- An operation opens in the current thread, under the next id (R23). -/
theorem ends_openOp {u : Thread} {P : Nat → State → Prop} (hP : P s.nextId ({ s with nextId := s.nextId + 1 }.withCurrent (opened s dest extra la u))) :
    Ends (openOp s.cur dest extra la) (s.withCurrent u) P :=
  ends_bind (ends_freshId (ends_look_bind (ends_bind (ends_modCur (s := { s with nextId := s.nextId + 1 }) (ends_pure hP)))))

/-- The state with a request on its way behind what it must wait for, beside the operation that it is of (R153, R187, R394). -/
def State.sending (s : State) (t : Thread) (r : Req) : State :=
  { s with reqs := mapPut (s.nextId + 1) { r with after := barring s s.cur t [] r.rel } s.reqs, nextId := s.nextId + 2 }

theorem ends_sendReq {u : Thread} {P : Unit → State → Prop} (hg : (g (request s t ask spans)).spans = spans)
    (hP : P () ((s.sending t (g (request s t ask spans))).withCurrent (breaks (!(g (request s t ask spans)).spans.all (fun x => inWindow x.1)) u))) :
    Ends (sendReq s.cur (t.issuing s) s.nextId ask spans g) ({ s with nextId := s.nextId + 1 }.withCurrent u) P := by
  refine ends_bind (ends_freshId (ends_look_bind (ends_emit_bind ?_)))
  change Ends _ ((s.sending t (g (request s t ask spans))).withCurrent u) P
  rw [hg] at hP
  cases hall : spans.all (fun x => inWindow x.1) with
  | true =>
    rw [hall] at hP
    exact ends_pure hP
  | false =>
    rw [hall] at hP
    refine ends_breaks (b := true) (withCurrent_thread (s.sending t (g (request s t ask spans))) u) ?_
    rwa [← withCurrent_withCurrent (s.sending t (g (request s t ask spans))) u] at hP

/-- A rule that ends with the sending of a request leaves what the statements say that it sends. -/
theorem ends_sends {f : Form} (hg : (g (request s t ask spans)).spans = spans) :
    Ends (do let op ← openOp s.cur dest extra la; sendReq s.cur (t.issuing s) op ask spans g; return .seq) (s.withCurrent (t.issuing s))
      (fun flow v => afterFlow f s flow v = sends s t f.len dest extra la (g (request s t ask spans))) := by
  refine ends_bind (ends_openOp (ends_bind (ends_sendReq hg (ends_pure ?_))))
  exact afterFlow_seq f (s.sending t (g (request s t ask spans))) _

end

end Sys2Proof.Machine

namespace Sys2Proof.Claims
open Sys2Proof.Machine

/-! ### The families of accesses -/

theorem offset4_eq_offset (t : Thread) (s : State) (off : BitVec 4) (n : Nat) : offset4 (t.issuing s) off n = offset t off n := by
  have hscaled : off.signExtend 64 * BitVec.ofNat 64 n = intMod64 (off.toInt * n) := by rw [intMod64, BitVec.ofInt_mul, BitVec.ofInt_natCast, BitVec.signExtend]
  rw [offset4, offset, hscaled]
  rfl

theorem neg_ofNat_eq_intMod64 (k : Nat) : -BitVec.ofNat 64 (8 * k) = intMod64 (-8 * k) := by
  rw [intMod64, Int.neg_mul, BitVec.ofInt_neg]
  norm_cast

/-- Each scalar load issues as one load operation, at the offset of its form. -/
theorem exec_loads {t : Thread} {i : Instr} {gd : Guard} {len : Nat} {d a : BitVec 4} {off : Word} {n : Nat} {signed acq : Bool} {la : BitVec 4}
    (h : loads t i = some (gd, len, d, a, off, n, signed, acq, la)) : ∃ offsetOf, exec i = loadOp gd len d a offsetOf n signed acq la ∧ ∀ s, offsetOf (t.issuing s) = off := by
  cases i with
  | ld | ldSigned => cases h; exact ⟨_, rfl, fun s => offset4_eq_offset ..⟩
  | cLd => cases h; exact ⟨_, rfl, fun _ => rfl⟩
  | cPop => cases h; exact ⟨_, rfl, fun _ => neg_ofNat_eq_intMod64 _⟩
  | _ => cases h

theorem exec_stores {t : Thread} {i : Instr} {gd : Guard} {len : Nat} {d a : BitVec 4} {off : Word} {n : Nat} {rel : Bool} {la : BitVec 4}
    (h : stores t i = some (gd, len, d, a, off, n, rel, la)) : ∃ offsetOf, exec i = storeOp gd len d a offsetOf n rel la ∧ ∀ s, offsetOf (t.issuing s) = off := by
  cases i with
  | st => cases h; exact ⟨_, rfl, fun s => offset4_eq_offset ..⟩
  | cSt => cases h; exact ⟨_, rfl, fun _ => rfl⟩
  | cPush => cases h; exact ⟨_, rfl, fun _ => neg_ofNat_eq_intMod64 _⟩
  | _ => cases h

theorem exec_fullEmpties {t : Thread} {i : Instr} {gd : Guard} {op : FeOp} {d a pf : BitVec 4} {off : Word} {form : BitVec 2} {la : BitVec 4} {uses dest : Touch}
    (h : fullEmpties t i = some (gd, op, d, a, pf, off, form, la, uses, dest)) :
    ∃ offsetOf, exec i = fullEmptyOp gd op d a pf offsetOf form la uses dest ∧ ∀ s, offsetOf (t.issuing s) = off := by
  cases i with
  | ldw | ldc | stf | stff => cases h; exact ⟨_, rfl, fun s => offset4_eq_offset ..⟩
  | ldxW | ldxC | stfx | feset | feclr | fetest => cases h; exact ⟨_, rfl, fun _ => rfl⟩
  | _ => cases h

theorem exec_atomics {i : Instr} {gd : Guard} {op : AmoOp} {d a b la : BitVec 4} {n : Nat} {fl : Bool} (h : atomics i = some (gd, op, d, a, b, la, n, fl)) :
    exec i = atomicOp gd op d a b la ∧ op.align = n ∧ op.flags = fl := by
  cases i with
  | amoAdd | amoAnd | amoOr | amoXor | amoMin | amoMax | amoMinn | amoMaxn | amoSwap | amoCas | amoFaddF32 | amoFaddBf16 | amoOrdAdd | amoOrdFadd | amaxrs =>
    cases h; exact ⟨rfl, rfl, rfl⟩
  | _ => cases h

theorem waits_eq (op : FeOp) : op.waits = waits op := by cases op <;> rfl

/-! ### Their checks -/

section
variable {s : State} {t : Thread} {gd : Guard} {d a : BitVec 4}

theorem loadOp_checks {len n : Nat} {off : Thread → Word} {signed acq : Bool} {la : BitVec 4} (h : CanIssue s t gd (touches [touchS d, touchS a])) :
    Checks s t (t.readS a + off (t.issuing s)) n (loadOp gd len d a off n signed acq la s) := issue_checks h (vectorsLegal_none rfl rfl) nofun rfl

theorem storeOp_checks {len n : Nat} {off : Thread → Word} {rel : Bool} {la : BitVec 4} (h : CanIssue s t gd (touches [touchS d, touchS a])) :
    Checks s t (t.readS a + off (t.issuing s)) n (storeOp gd len d a off n rel la s) := issue_checks h (vectorsLegal_none rfl rfl) nofun rfl

theorem ldp_checks {off : BitVec 4} {ord : BitVec 1} {la : BitVec 4} (h : CanIssue s t gd ((if d = 0 then {} else touches [touchS d, touchS (d + 1)]).union (touchS a))) :
    Checks s t (t.readS a + offset t off 16) 16 (exec (.ldp gd d a off ord la) s) := by
  rw [← offset4_eq_offset t s]
  exact issue_checks h (vectorsLegal_none rfl rfl) nofun rfl

theorem atomicOp_checks {op : AmoOp} {b la : BitVec 4} (h : CanIssue s t gd (((touchS d).union (if op.flags then touchFlags else {})).union ((touchS a).union (touchS b)))) :
    Checks s t (t.readS a) op.align (atomicOp gd op d a b la s) := issue_checks h (vectorsLegal_none rfl rfl) nofun rfl

/-- A full/empty operation that waits needs a general slot once its address is canonical (R173). -/
theorem fullEmptyOp_checks {op : FeOp} {pf : BitVec 4} {off : Thread → Word} {form : BitVec 2} {la : BitVec 4} {uses dest : Touch} (h : CanIssue s t gd (uses.union (touchS a))) :
    let va := t.readS a + off (t.issuing s)
    let o := fullEmptyOp gd op d a pf off form la uses dest s
    let refused := waits op = true ∧ isRunner s.cur = true
    (2 ^ 56 ≤ va.toNat → Traps s t .protection va o) ∧ (va.toNat < 2 ^ 56 → refused → Traps s t .runnerWait 0 o)
      ∧ (va.toNat < 2 ^ 56 → ¬ refused → va.toNat % 8 ≠ 0 → Traps s t .align va o) := by
  intro va o refused
  refine ⟨fun hva => issue_trap h (vectorsLegal_none rfl rfl) nofun (stops_needCanonical hva), fun hva hr => ?_, fun hva hr hn => ?_⟩
  · obtain ⟨hw, hrun⟩ := hr
    refine issue_trap h (vectorsLegal_none rfl rfl) nofun (stops_after (ends_needCanonical hva ?_))
    simp only [waits_eq, hw, if_true]
    exact stops_notInRunner hrun
  · refine issue_trap h (vectorsLegal_none rfl rfl) nofun (stops_after (ends_needCanonical hva ?_))
    cases hw : waits op with
    | true =>
      simp only [waits_eq, hw, if_true]
      exact stops_after (ends_notInRunner (by simpa [refused, hw] using hr) (stops_needAligned hn))
    | false =>
      simp only [waits_eq, hw, Bool.false_eq_true, if_false]
      exact stops_needAligned hn

end

/-! ### Vector accesses (R121-R123) -/

/-- The start addresses of the lanes that `VLDS` accesses (R122). -/
def stridedLanes (t : Thread) (a b : BitVec 4) (w : Nat) : List Word := (List.range (vecBits t / w)).map (fun i => t.readS a + mod64 (i * (t.readS b).toNat))
/-- The start addresses of the lanes that `VGATH` and `VSCAT` access (R122). -/
def indexedLanes (s : State) (t : Thread) (a b : BitVec 4) (w : Nat) : List Word :=
  (List.range (vecBits t / w)).map (fun i => t.readS a + mod64 ((part w (register s t b) i).toNat * (w / 8)))

theorem ofNat_mul_eq_mod64 (i : Nat) (x : Word) : BitVec.ofNat 64 i * x = mod64 (i * x.toNat) := by
  rw [mod64, BitVec.ofNat_mul, BitVec.ofNat_toNat, BitVec.setWidth_eq]

theorem stridedLanes_eq (t : Thread) (a b : BitVec 4) (w : Nat) :
    (List.range (vecBits t / w)).map (fun i => t.readS a + BitVec.ofNat 64 i * t.readS b) = stridedLanes t a b w := by
  simp only [stridedLanes, ofNat_mul_eq_mod64]

theorem toNat_lt_of_vecBits {t : Thread} {n : Nat} (x : BitVec n) (h : vecBits t = n) : x.toNat < 2 ^ vecBits t := h ▸ x.isLt

/-- A register of SHORT mode is zero-extended (R113). -/
theorem register_lt (s : State) (t : Thread) (i : BitVec 4) : (register s t i).toNat < 2 ^ vecBits t := by
  by_cases hl : t.long = true
  · rw [register, if_pos hl]
    exact toNat_lt_of_vecBits _ (if_pos hl)
  · rw [register, if_neg hl, BitVec.zeroExtend, BitVec.toNat_setWidth_of_le (by decide)]
    exact toNat_lt_of_vecBits _ (if_neg hl)

section
variable {s : State} {t : Thread} {gd : Guard} {d a b fn la : BitVec 4} (hd : t.long = true ∨ d.toNat < 8)
include hd

/-- A form that names vector registers D, or D and B, is legal in LONG mode and where these are below 8 (R113). -/
theorem vectorsLegal_of_one {f : Form} (hs : f.short = false) (hf : f.vectors = [d]) : vectorsLegal f t :=
  vectorsLegal_of_lt hs fun hl => by simpa [hf, hl] using hd

theorem vectorsLegal_of_two {f : Form} (hb : t.long = true ∨ b.toNat < 8) (hs : f.short = false) (hf : f.vectors = [d, b]) : vectorsLegal f t :=
  vectorsLegal_of_lt hs fun hl => by simpa [hf, hl] using And.intro hd hb

/-! ### The checks of each vector form -/

theorem vld_checks (h : CanIssue s t gd (touches [touchVec d t, touchS a])) : ChecksLanes s t (wholeParts t (t.readS a)) 32 (exec (.vld gd d a la) s) :=
  issue_checksLanes h (vectorsLegal_of_one hd rfl rfl) nofun fun _ hw => hw

theorem vst_checks (h : CanIssue s t gd (touches [touchVec d t, touchS a])) : ChecksLanes s t (wholeParts t (t.readS a)) 32 (exec (.vst gd d a la) s) :=
  issue_checksLanes h (vectorsLegal_of_one hd rfl rfl) nofun fun _ hw => hw

theorem vlds_checks (h : CanIssue s t gd (touches [touchVec d t, touchS a, touchS b])) :
    ChecksLanes s t (stridedLanes t a b (fnWidth fn)) (fnWidth fn / 8) (exec (.vlds gd d a b fn la) s) := by
  rw [← stridedLanes_eq]
  exact issue_checksLanes h (vectorsLegal_of_one hd rfl rfl) nofun fun _ hw => hw

theorem vgath_checks (hb : t.long = true ∨ b.toNat < 8) (h : CanIssue s t gd (touches [touchVec d t, touchS a, touchVec b t])) :
    ChecksLanes s t (indexedLanes s t a b (fnWidth fn)) (fnWidth fn / 8) (exec (.vgath gd d a b fn la) s) :=
  issue_checksLanes h (vectorsLegal_of_two hd hb rfl rfl) nofun fun _ hw => stops_after (ends_look hw)

theorem vscat_checks (hb : t.long = true ∨ b.toNat < 8) (h : CanIssue s t gd (touches [touchVec d t, touchS a, touchVec b t])) :
    ChecksLanes s t (indexedLanes s t a b (fnWidth fn)) (fnWidth fn / 8) (exec (.vscat gd d a b fn la) s) :=
  issue_checksLanes h (vectorsLegal_of_two hd hb rfl rfl) nofun fun _ hw => stops_after (ends_look hw)

/-! ### What each vector form sends -/

theorem vld_sends (h : CanIssue s t gd (touches [touchVec d t, touchS a])) (hok : ∀ x ∈ wholeParts t (t.readS a), addressOk x 32) :
    exec (.vld gd d a la) s = .next (sends s t 4 (touchVec d t) {} la { request s t (.gather 64) [((t.readS a).toNat, vecBits t / 8)] with d := d }) :=
  issue_eq h (vectorsLegal_of_one hd rfl rfl) nofun (ends_bind (ends_needLanes hok (ends_sends (g := fun r => { r with d := d }) rfl)))

theorem vst_sends (h : CanIssue s t gd (touches [touchVec d t, touchS a])) (hok : ∀ x ∈ wholeParts t (t.readS a), addressOk x 32) :
    exec (.vst gd d a la) s = .next (sends s t 4 {} {} la { request s t (.scatter 64) [((t.readS a).toNat, vecBits t / 8)] with data := (register s t d).toNat }) :=
  issue_eq h (vectorsLegal_of_one hd rfl rfl) nofun (ends_bind (ends_needLanes hok (ends_look_bind (ends_sends (g := fun r => { r with data := (register s t d).toNat }) rfl))))

theorem vlds_sends (h : CanIssue s t gd (touches [touchVec d t, touchS a, touchS b])) (hok : ∀ x ∈ stridedLanes t a b (fnWidth fn), addressOk x (fnWidth fn / 8)) :
    exec (.vlds gd d a b fn la) s
      = .next (sends s t 4 (touchVec d t) {} la { request s t (.gather (fnWidth fn)) (laneSpans (stridedLanes t a b (fnWidth fn)) (fnWidth fn / 8)) with d := d }) := by
  rw [← stridedLanes_eq] at hok ⊢
  exact issue_eq h (vectorsLegal_of_one hd rfl rfl) nofun (ends_bind (ends_needLanes hok (ends_sends (g := fun r => { r with d := d }) rfl)))

theorem vgath_sends (hb : t.long = true ∨ b.toNat < 8) (h : CanIssue s t gd (touches [touchVec d t, touchS a, touchVec b t]))
    (hok : ∀ x ∈ indexedLanes s t a b (fnWidth fn), addressOk x (fnWidth fn / 8)) :
    exec (.vgath gd d a b fn la) s
      = .next (sends s t 4 (touchVec d t) {} la { request s t (.gather (fnWidth fn)) (laneSpans (indexedLanes s t a b (fnWidth fn)) (fnWidth fn / 8)) with d := d }) :=
  issue_eq h (vectorsLegal_of_two hd hb rfl rfl) nofun (ends_look_bind (ends_bind (ends_needLanes hok (ends_sends (g := fun r => { r with d := d }) rfl))))

theorem vscat_sends (hb : t.long = true ∨ b.toNat < 8) (h : CanIssue s t gd (touches [touchVec d t, touchS a, touchVec b t]))
    (hok : ∀ x ∈ indexedLanes s t a b (fnWidth fn), addressOk x (fnWidth fn / 8)) :
    exec (.vscat gd d a b fn la) s
      = .next (sends s t 4 {} {} la { request s t (.scatter (fnWidth fn)) (laneSpans (indexedLanes s t a b (fnWidth fn)) (fnWidth fn / 8)) with data := (register s t d).toNat }) := by
  rw [← Nat.mod_eq_of_lt (register_lt s t d)]
  exact issue_eq h (vectorsLegal_of_two hd hb rfl rfl) nofun
    (ends_look_bind (ends_bind (ends_needLanes hok (ends_sends (g := fun r => { r with data := (register s t d).toNat % 2 ^ vecBits t }) rfl))))

end

end Sys2Proof.Claims

/-!
CERTIFICATES. The vector instructions: lanes, floating lanes, reductions, the mode, the functions, and the accesses to memory, with the checks of every access's address (R113-R130, R144).
-/

namespace Sys2Proof.Claims
open Sys2Proof.Machine

/-- Settles O17: each instruction delivers the register made of its lanes, and the lane of each rule is that of its operation. -/
theorem vectorResults : Obligations.VectorResults := by
  refine ⟨fun i s t gd d a b w f _ hi hok h => ?_, fun s t gd d a b => ⟨fun ty cc hok h => ?_, fun sz hok h => ?_, fun sz hok h => ?_⟩⟩
  · cases i with
    | vadd => cases hi; exact vectorOp_delivers (fun _ x y _ => x + y) h hok.1 fun x y _ => BitVec.add_def x y
    | vsub => cases hi; exact vectorOp_delivers (fun _ x y _ => x - y) h hok.1 fun x y _ => sub_eq_ofInt x y
    | vmul => cases hi; exact vectorOp_delivers (fun _ x y _ => x * y) h hok.1 fun x y _ => mul_eq_ofNat x y
    | vminI => cases hi; exact vectorOp_delivers (fun _ x y _ => minMax false false x y) h hok.1 fun x y _ => minMax_min_signed x y
    | vmaxI => cases hi; exact vectorOp_delivers (fun _ x y _ => minMax true false x y) h hok.1 fun x y _ => minMax_max_signed x y
    | vminN => cases hi; exact vectorOp_delivers (fun _ x y _ => minMax false true x y) h hok.1 fun x y _ => minMax_min_unsigned x y
    | vmaxN => cases hi; exact vectorOp_delivers (fun _ x y _ => minMax true true x y) h hok.1 fun x y _ => minMax_max_unsigned x y
    | vand => cases hi; exact vectorOp_delivers (fun _ x y _ => x &&& y) h hok.1 fun _ _ _ => rfl
    | vor => cases hi; exact vectorOp_delivers (fun _ x y _ => x ||| y) h hok.1 fun _ _ _ => rfl
    | vxor => cases hi; exact vectorOp_delivers (fun _ x y _ => x ^^^ y) h hok.1 fun _ _ _ => rfl
    | vshl => cases hi; exact vectorOp_delivers (fun _ x y _ => shiftLeft x (y.toNat % 256)) h hok.1 fun x _ _ => shiftLeft_eq x _
    | vshr => cases hi; exact vectorOp_delivers (fun _ x y _ => shiftRight x (y.toNat % 256)) h hok.1 fun x _ _ => shiftRight_eq x _
    | vsar => cases hi; exact vectorOp_delivers (fun _ x y _ => shiftSigned x (y.toNat % 256)) h hok.1 fun x _ _ => shiftSigned_eq x _
    | vsel => cases hi; exact vectorOp_delivers (fun _ x y m => if m.msb then x else y) h hok.1 fun _ _ _ => rfl
    | vcmp _ _ _ _ _ cc => cases hi; exact vectorOp_delivers (fun n x y _ => if condition cc x y then BitVec.allOnes n else 0) h hok.1 fun _ _ _ => rfl
    | _ => cases hi
  · intro f w x y lane served
    refine ⟨ofLanes t w (fun k => if (lane k).1 then BitVec.allOnes w else 0), fun _ hk => part_ofLanes _ hk, ?_⟩
    refine issue_eq h (vectorsLegal_of_lt rfl hok.1) nofun (ends_look_bind ?_)
    simp only [List.map_map, List.any_map]
    exact ends_delivers rfl (fun hl => if_pos hl) (fun hl => if_neg (by simp [hl]))
  · exact ⟨ofLanes t _ (fun _ => (t.readS a).extractLsb' 0 _), fun _ hk => part_ofLanes _ hk,
      issue_eq h (vectorsLegal_of_lt rfl hok.1) nofun (ends_delivers rfl (fun _ => rfl) fun _ => rfl)⟩
  · exact ⟨ofLanes t _ (fun k => part _ (register s t a) ((part _ (register s t b) k).toNat % (vecBits t / _))), fun _ hk => part_ofLanes _ hk,
      issue_eq h (vectorsLegal_of_lt rfl hok.1) nofun (ends_look_bind (ends_delivers rfl (fun _ => rfl) fun _ => rfl))⟩

/-- Each lane-wise floating instruction issues as its operation, and names the vector registers of that. -/
theorem exec_vectorFloats {i : Instr} {gd : Guard} {op : FloatOp} {d a b : BitVec 4} {ty : BitVec 2} (h : vectorFloats i = some (gd, op, d, a, b, ty)) :
    exec i = vectorFloat gd op d a b ty ∧ ∀ v ∈ [d, a, b], v ∈ vectorFields i := by
  cases i with
  | vfadd | vfsub | vfmul | vffma | vfdiv | vfmin | vfmax => cases h; exact ⟨rfl, fun _ hv => hv⟩
  | vfsqrt => cases h; exact ⟨rfl, by simp [vectorFields]⟩
  | _ => cases h

/-- Settles O18: every instruction is the operation of its table on the lanes. -/
theorem vectorFloatLanes : Obligations.VectorFloats := by
  intro i s t gd op d a b ty hi hok h f w lane served
  obtain ⟨hexec, hfields⟩ := exec_vectorFloats hi
  refine ⟨ofLanes t w (fun k => BitVec.ofNat w (lane k).1), fun _ hk => part_ofLanes _ hk, ?_⟩
  rw [hexec, ← turns_typeFmt]
  refine issue_eq h (vectorsLegal_of_lt rfl fun hl v hv => hok.1 hl v (hfields v hv)) nofun (ends_look_bind ?_)
  simp only [List.map_map, List.any_map]
  exact ends_delivers rfl (fun hl => if_pos hl) (fun hl => if_neg (by simp [hl]))

/-- Settles O19: the machine's rounds are the fixed order, on the integer lanes as numbers of their width and on the floating ones with the flags that they have raised. -/
theorem reductionsInFixedOrder : Obligations.Reductions := by
  refine fun i s t hwf hok => ⟨fun gd d a e signed f hi h => ?_, fun gd op d a e hi h => ?_⟩
  · obtain ⟨hexec, hfields, he⟩ := exec_reductions hwf hi
    rw [hexec]
    exact reduceInt_delivers he rfl h (hfields ▸ hok.1) rfl
  · obtain ⟨hexec, hfields⟩ := exec_floatReductions hi
    rw [hexec]
    exact reduceFloat_delivers h (hfields ▸ hok.1)

/-- Settles O20: the unit as `VLONG` and `VSHORT` find it. -/
theorem vectorMode : Obligations.VectorMode := by
  intro s t gd n
  refine ⟨fun d _ h => ⟨fun hown => ?_, fun k hk hne => ?_, vlong_attaches h⟩, fun h => ⟨vshort_idle h, vshort_releases h⟩⟩
  · rw [vlong_taken h hown]
    simp
  · rw [vlong_taken h hk]
    simp [hne]

/-- Settles O21: the claim of the coefficient memory changes no vector register, and its entries pass, so that the rule comes to its lanes. -/
theorem vectorFunctions : Obligations.VectorFunctions := by
  intro i s t gd f d a ty _ hi hok h hown c hentries w e lane served
  obtain ⟨hexec, hfields⟩ := exec_functions hi
  refine ⟨ofLanes t w (fun k => BitVec.ofNat w (lane k).1), fun _ hk => part_ofLanes _ hk, ?_⟩
  rw [hexec, ← delivers_tiles]
  refine issue_eq h (vectorsLegal_of_lt rfl (hfields ▸ hok.1)) nofun (ends_bind (ends_claimCoef hown (ends_look_bind (ends_bind (ends_needEntries hentries ?_)))))
  have hread : readVec ({ s with tiles := coefClaimed s t }.withCurrent (t.issuing s)) s.cur (t.issuing s) a = register s t a := register_coefClaimed s t a
  simp only [hread, List.map_map, List.any_map]
  exact ends_delivers (s := { s with tiles := coefClaimed s t }) rfl (fun hl => if_pos hl) (fun hl => if_neg (by simp [hl]))

/-- Settles O24: every form checks its address before anything else of it takes effect. -/
theorem addressTraps : Obligations.AddressTraps := by
  refine ⟨fun i s t => ⟨fun gd len d a off n signed acq la hi h => ?_, fun gd len d a off n rel la hi h => ?_, fun gd d a off ord la hi _ h => ?_,
    fun gd op d a pf off form la uses dest hi h => ?_, fun gd op d a b la n fl hi h => ?_⟩, fun s t gd d a b fn la hd => ⟨fun h => ⟨vld_checks hd h, vst_checks hd h⟩,
    fun _ h => vlds_checks hd h, fun hb h => ⟨fun _ => vgath_checks hd hb h, fun _ => vscat_checks hd hb h⟩⟩⟩
  · obtain ⟨offsetOf, hexec, hoff⟩ := exec_loads hi
    rw [hexec, ← hoff s]
    exact loadOp_checks h
  · obtain ⟨offsetOf, hexec, hoff⟩ := exec_stores hi
    rw [hexec, ← hoff s]
    exact storeOp_checks h
  · rw [hi]
    exact ldp_checks h
  · obtain ⟨offsetOf, hexec, hoff⟩ := exec_fullEmpties hi
    rw [hexec, ← hoff s]
    exact fullEmptyOp_checks h
  · obtain ⟨hexec, rfl, rfl⟩ := exec_atomics hi
    rw [hexec]
    exact atomicOp_checks h

/-- Settles O25: once its lanes have passed their checks, each form sends its request. -/
theorem vectorMemoryIssues : Obligations.VectorMemoryIssues :=
  fun _ _ _ _ _ _ _ _ hd => ⟨fun h hok => ⟨vld_sends hd h hok, vst_sends hd h hok⟩, fun _ h hok => vlds_sends hd h hok,
    fun hb h hok => ⟨fun _ => vgath_sends hd hb h hok, fun _ => vscat_sends hd hb h hok⟩⟩

end Sys2Proof.Claims

/-!
SUPPORT. What each scalar load and store sends once its address has passed its checks (R89, R151).
-/

namespace Sys2Proof.Claims
open Sys2Proof.Machine

section
variable {s : State} {t : Thread} {gd : Guard} {d a : BitVec 4}

theorem loadOp_sends {len n : Nat} {off : Thread → Word} {va : Word} {signed acq : Bool} {la : BitVec 4} (h : CanIssue s t gd (touches [touchS d, touchS a]))
    (hva : t.readS a + off (t.issuing s) = va) (hok : addressOk va n) :
    loadOp gd len d a off n signed acq la s = .next (sends s t len (touchS d) {} la { request s t (.load signed) [(va.toNat, n)] with d := d, acq := acq }) := by
  subst hva
  obtain ⟨hcanonical, haligned⟩ := hok
  exact issue_eq h (vectorsLegal_none rfl rfl) nofun
    (ends_bind (ends_needCanonical hcanonical (ends_bind (ends_needAligned haligned (ends_sends (g := fun r => { r with d := d, acq := acq }) rfl)))))

theorem storeOp_sends {len n : Nat} {off : Thread → Word} {va : Word} {rel : Bool} {la : BitVec 4} (h : CanIssue s t gd (touches [touchS d, touchS a]))
    (hva : t.readS a + off (t.issuing s) = va) (hok : addressOk va n) :
    storeOp gd len d a off n rel la s = .next (sends s t len {} {} la { request s t .store [(va.toNat, n)] with data := (t.readS d).toNat % 256 ^ n, rel := rel }) := by
  subst hva
  obtain ⟨hcanonical, haligned⟩ := hok
  exact issue_eq h (vectorsLegal_none rfl rfl) nofun
    (ends_bind (ends_needCanonical hcanonical (ends_bind (ends_needAligned haligned (ends_sends (g := fun r => { r with data := (t.readS d).toNat % 256 ^ n, rel := rel }) rfl)))))

theorem ldp_sends {off : BitVec 4} {ord : BitVec 1} {la : BitVec 4} (h : CanIssue s t gd ((if d = 0 then {} else touches [touchS d, touchS (d + 1)]).union (touchS a)))
    (hok : addressOk (t.readS a + offset t off 16) 16) :
    exec (.ldp gd d a off ord la) s = .next (sends s t 4 (if d = 0 then {} else touches [touchS d, touchS (d + 1)]) {} la
      { request s t .loadPair [((t.readS a + offset t off 16).toNat, 16)] with d := d, acq := ord == 1 }) := by
  rw [← offset4_eq_offset t s] at hok ⊢
  obtain ⟨hcanonical, haligned⟩ := hok
  exact issue_eq h (vectorsLegal_none rfl rfl) nofun
    (ends_bind (ends_needCanonical hcanonical (ends_bind (ends_needAligned haligned (ends_sends (g := fun r => { r with d := d, acq := ord == 1 }) rfl)))))

end

end Sys2Proof.Claims

/-!
CERTIFICATE. Loads and stores send their requests (R89, R151).
-/

namespace Sys2Proof.Claims
open Sys2Proof.Machine

/-- Settles O23: every form is the load or the store operation at the offset of its table. -/
theorem accessesIssue : Obligations.AccessesIssue := by
  refine ⟨fun i s t gd len d a off n signed acq la hi h hok => ?_, fun s t gd d a off ord la _ => ldp_sends, fun i s t gd len d a off n rel la hi h hok => ?_⟩
  · obtain ⟨offsetOf, hexec, hoff⟩ := exec_loads hi
    rw [hexec]
    exact loadOp_sends h (by rw [hoff]) hok
  · obtain ⟨offsetOf, hexec, hoff⟩ := exec_stores hi
    rw [hexec]
    exact storeOp_sends h (by rw [hoff]) hok

end Sys2Proof.Claims

/-!
SUPPORT. What prefetches are made of: translation of an address that no table maps, the granule at its home, and a line that comes into an L1 of its own (R141, R142, R154, R304).
-/

namespace Sys2Proof.Machine
open Sys2Proof.Claims

/-! ### Reports, and states that differ in caches -/

theorem reported_refl (s : State) : Reported s s := ⟨[], rfl, fun _ => rfl⟩

theorem reported_trans {s t u : State} (h : Reported s t) (h' : Reported t u) : Reported s u := by
  obtain ⟨r, rfl, hr⟩ := h
  obtain ⟨r', rfl, hr'⟩ := h'
  exact ⟨r' ++ r, by simp, fun hb => by rw [hr hb, hr' hb]; rfl⟩

theorem reported_withThread {s u : State} (h : Reported s u) (k : Nat) (t : Thread) : Reported (s.withThread k t) (u.withThread k t) := by
  obtain ⟨r, rfl, hr⟩ := h
  exact ⟨r, rfl, hr⟩

theorem caches_withThread {s u : State} (h : Caches s u) (k : Nat) (t : Thread) : Caches (s.withThread k t) (u.withThread k t) := by
  obtain ⟨tlb, gs, n, r, rfl, hr⟩ := h
  exact ⟨tlb, gs, n, r, rfl, hr⟩

/-- Data lost is reported beside what else the caches have changed (R304). -/
theorem caches_report {s u : State} (h : Caches s u) (hb : s.bad ≠ []) (x : Sent) : Caches s ((Effect.send x).apply u) := by
  obtain ⟨tlb, gs, n, r, rfl, -⟩ := h
  exact ⟨tlb, gs, n, x :: r, rfl, fun h => absurd h hb⟩

theorem ends_reportWords {ws : List Nat} {s : State} : Ends (forEach ws (fun w => reportErrors w 8)) s (fun _ u => Reported s u) :=
  ends_forEach _ (reported_refl s) (fun _ _ _ ht => ends_reportErrors.mono (fun _ _ hu => reported_trans ht hu))

theorem ends_reportContext {die ctx : Nat} {s : State} : Ends (reportContext die ctx) s (fun _ u => Reported s u) := ends_look_bind ends_reportWords

theorem ends_reportWalk_reported {ctx va : Nat} {s : State} : Ends (reportWalk ctx va) s (fun _ u => Reported s u) := by
  refine ends_look_bind (ends_bind (ends_reportContext.mono fun _ t ht => ?_))
  split
  · exact ends_reportWords.mono fun _ u hu => reported_trans ht hu
  · exact ends_pure ht

/-- An address that neither the tables nor the caches translate is translated to nothing, with reports of the walk at most (R141, R304). -/
theorem ends_translate_missing {ctx va cause : Nat} {s : State} (hw : walk s ctx va = .missing cause)
    (hnone : ∀ x ∈ (s.slice (homeHash va)).first ++ (s.slice (lastSlice va)).last, x.serves ctx va = false) : Ends (translate ctx va) s (fun w u => w = .missing cause ∧ Reported s u) := by
  have hheld : ((s.slice (homeHash va)).first ++ (s.slice (lastSlice va)).last).filter (·.serves ctx va) = [] :=
    List.filter_eq_nil_iff.mpr fun x hx => Bool.eq_false_iff.mp (hnone x hx)
  refine ends_look_bind ?_
  dsimp only
  rw [hheld, hw]
  refine ends_pure_bind ?_
  split
  · exact ends_pure ⟨rfl, reported_refl s⟩
  · exact ends_bind (ends_reportWalk_reported.mono fun _ u hu => ends_pure ⟨rfl, hu⟩)

/-! ### Granules at their homes -/

theorem viewOf_of_plain {s : State} {va key : Nat} (h : (s.die (homeDie va)).views = []) : viewOf s va key = none := by rw [viewOf, h, List.find?_nil]

theorem loadBytes_of_plain {s : State} {va key n : Nat} (h : (s.die (homeDie va)).views = []) : loadBytes s va key n = peek s.mem key n := by
  rw [loadBytes, if_pos (by simp [h])]

theorem loadSpoiled_of_plain {s : State} {va key n : Nat} (h : (s.die (homeDie va)).views = []) : loadSpoiled s va key n = spoiled s key n := by
  rw [loadSpoiled, if_pos (by simp [h]), spoiled, ← Bool.and_assoc, Bool.and_self]

/-- Addresses of one granule lie, through a leaf, in one granule of memory. -/
theorem key_div_of_granule {ctx va va' : Nat} {l : CachedLeaf} {s : State} (hm : Mapped s ctx va l) (h : va' / 256 = va / 256) : l.key va' / 256 = l.key va / 256 := by
  obtain ⟨a, b, ha, hb, hle⟩ := leaf_aligned hm
  unfold CachedLeaf.key
  dsimp only
  split
  · simp only [hbmKey]
    omega
  · simp only [hostKey]
    omega

/-- The slice `home` holds the granule at a key, and took it first. -/
def HeldAt (s : State) (key home : Nat) : Prop := ∃ g, mapGet (key / 256) s.granules = some g ∧ g.holder.home = home

/-- The home of an address holds the granule from then on (R142). -/
theorem ends_atHome_held {ctx va : Nat} {l : CachedLeaf} {s : State} (ho : OneHome s va l) :
    Ends (atHome ctx va (l.key va) l false) s (fun k u => k = l.key va ∧ Caches s u ∧ HeldAt u (l.key va) (homeHash va)) := by
  cases hg : mapGet (l.key va / 256) s.granules with
  | none =>
    refine ends_look_bind ?_
    extract_lets me index first
    have hhome : me.home = homeHash va := homeHash_granule va
    rw [show mapGet index s.granules = none from hg]
    refine ends_bind (ends_makeRoom (hhome ▸ ho.room) (ends_bind (ends_hbmBefore (ends_emit_bind (ends_pure ?_)))))
    exact ⟨rfl, caches_granule .., _, mapGet_mapPut_same .., hhome⟩
  | some g =>
    refine (ends_atHome ho).mono fun k u ⟨hk, hc, _, hp⟩ => ⟨hk, hc, ?_⟩
    obtain hsame | ⟨g', hput, _, hhome⟩ := hp
    · exact ⟨g, hsame ▸ hg, (ho.sole g hg).2⟩
    · exact ⟨g', by rw [hput, mapGet_mapPut_same], hhome⟩

/-- So does a load of a byte that no decoded view holds, through a leaf that is not of device type (R142, R368). -/
theorem ends_placeOf_held {ctx va : Nat} {l : CachedLeaf} {s t : State} (ho : OneHome s va l) (h : Translates l s t) (hmt : l.mt ≠ 2) (hv : (s.die (homeDie va)).views = []) :
    Ends (placeOf ctx va l false) t (fun k u => k = l.key va ∧ Caches s u ∧ HeldAt u (l.key va) (homeHash va)) := by
  have hview : viewOf t va (l.key va) = none := by
    obtain ⟨-, -, -, hdie, -⟩ := caches_same h.caches
    exact viewOf_of_plain (hdie _ ▸ hv)
  refine ends_look_bind (ends_if_neg (by simp [hmt, hview]) ?_)
  exact (ends_atHome_held (oneHome_of_translates h ho)).mono fun k u ⟨hk, hc, hheld⟩ => ⟨hk, caches_trans h.caches hc, hheld⟩

/-! ### Lines of an L1 of its own -/

theorem l1Core_unfused {s : State} {core : Nat} (va : Nat) (hf : (s.cluster (clusterOfTile (tileOfCore core))).fused = false) : l1Core s core va = core := by
  simp [l1Core, hf]

@[simp] theorem core_mapPut_same (s : State) (n : Nat) (c : Core) : ({ s with cores := mapPut n c s.cores } : State).core n = c := by
  simp [State.core, mapGet_mapPut_same]

/-- Only lines of one core's L1 have gone: whatever is put in place of those left is what would be put in place of those that were there. -/
structure DropsLines (core : Nat) (s u : State) : Prop where
  only : ∃ cores, u = { s with cores := cores }
  lines : (u.core core).l1.Sublist (s.core core).l1
  put : ∀ l1, mapPut core { u.core core with l1 := l1 } u.cores = mapPut core { s.core core with l1 := l1 } s.cores

theorem DropsLines.refl (core : Nat) (s : State) : DropsLines core s s := ⟨⟨s.cores, rfl⟩, List.Sublist.refl _, fun _ => rfl⟩

/-- The cores after the line of a context at an address has gone from one core's L1 (R158). -/
def lineDropped (s : State) (core ctx va : Nat) : NatMap Core :=
  if (l1Find s core ctx va).isNone then s.cores else mapPut core { s.core core with l1 := (s.core core).l1.filter (fun l => !(l.ctx = ctx && l.line = va / 32)) } s.cores

section
variable {s : State} {core ctx va : Nat} (hf : (s.cluster (clusterOfTile (tileOfCore core))).fused = false)
include hf

theorem ends_l1Drop_unfused {P : Unit → State → Prop} (h : P () { s with cores := lineDropped s core ctx va }) : Ends (l1Drop core ctx va) s P := by
  refine ends_look_bind ?_
  unfold lineDropped at h
  rw [l1Core_unfused va hf]
  split
  case isTrue hn =>
    rw [if_pos hn] at h
    exact ends_pure h
  case isFalse hn =>
    rw [if_neg hn] at h
    exact ends_modCore h

theorem ends_dropOlderHalf {v0 k0 : Nat} : Ends (dropOlderHalf core ctx v0 k0) s (fun _ u => DropsLines core s u) := by
  refine ends_look_bind ?_
  extract_lets v
  split
  · exact ends_pure (.refl core s)
  · refine ends_ite (ends_pure (.refl core s)) (ends_l1Drop_unfused hf ?_)
    unfold lineDropped
    split
    · exact .refl core s
    · exact ⟨⟨_, rfl⟩, by simp, fun l1 => by simp [mapPut_mapPut]⟩

/-- A line comes into an L1 in place of at most lines of its own (R5, R154). -/
theorem ends_l1Fill_unfused {line : L1Line} : Ends (l1Fill core va line) s (fun _ u => ∃ n kept, kept.Sublist (s.core core).l1
    ∧ u = { s with cores := mapPut core { s.core core with l1 := line :: kept } s.cores, freeCtr := n }) := by
  refine ends_look_bind ?_
  rw [l1Core_unfused va hf]
  extract_lets c lines set jp
  have hput (n : Nat) {kept : List L1Line} (hk : kept.Sublist lines) : Ends (jp kept) { s with freeCtr := n } (fun _ u => ∃ n kept, kept.Sublist (s.core core).l1
      ∧ u = { s with cores := mapPut core { s.core core with l1 := line :: kept } s.cores, freeCtr := n }) := ends_modCore ⟨n, kept, hk, rfl⟩
  split
  · exact ends_pure_bind (hput s.freeCtr (List.Sublist.refl _))
  · exact ends_bind (ends_look_bind (ends_emit_bind (ends_pure (ends_pure_bind (hput _ List.filter_sublist)))))

end

end Sys2Proof.Machine

/-!
SUPPORT. Prefetches, by what their translation finds (R158, R159).
-/

namespace Sys2Proof.Machine
open Sys2Proof.Claims

/-! ### Prefetches (R158, R159) -/

theorem clusterOfTile_coreOf_unfused {s : State} (hf : unfused s) : (s.cluster (clusterOfTile (tileOfCore (coreOf s.cur)))).fused = false := by
  rwa [tileOfCore_coreOf]

/-- The line that a prefetch brings of an address (R154, R158). -/
def prefetchedLine (s : State) (ctx va : Nat) (l : CachedLeaf) : L1Line :=
  ⟨ctx, va / 32, BitVec.ofNat 256 (peek s.mem (l.key (va / 32 * 32)) 32), l.x, l.w, l.mt = 1, false, l.va, l.size⟩

/-- An error that a load meets is one of a word of memory (R303). -/
theorem bad_of_loadSpoiled {s u : State} {va key n : Nat} (hu : Caches s u) (h : loadSpoiled u va key n = true) : s.bad ≠ [] := by
  obtain ⟨_, _, _, _, rfl, -⟩ := hu
  rintro hb
  simp [loadSpoiled, hb] at h

section
variable {s : State} {k va : Nat} {t : Thread} {fill : Bool} {l : CachedLeaf}

theorem not_elsewhere (hm : Mapped s t.ctx va l) : ¬ (!canonical va || inWindow va) = true := by
  simp [show canonical va = true from decide_eq_true hm.canonical, hm.shared]

theorem ends_prefetch_nowhere {P : Unit → State → Prop} (hva : inWindow va = true ∨ canonical va = false) (hP : P () s) : Ends (prefetch k t va fill) s P :=
  ends_if_pos (by obtain h | h := hva <;> simp [h]) (ends_pure hP)

theorem ends_prefetch_missing {cause : Nat} (hc : canonical va = true) (hin : inWindow va = false) (hw : walk s t.ctx va = .missing cause)
    (hnone : ∀ x ∈ (s.slice (homeHash va)).first ++ (s.slice (lastSlice va)).last, x.serves t.ctx va = false) : Ends (prefetch k t va fill) s (fun _ u => Reported s u) := by
  refine ends_if_neg (by simp [hc, hin]) (ends_bind ((ends_translate_missing hw hnone).mono ?_))
  rintro w u ⟨rfl, hu⟩
  exact ends_pure hu

/-- A prefetch that the page does not allow has translated its address, and no more. -/
theorem ends_prefetch_refused (hm : Mapped s t.ctx va l) (hno : l.mt = 2 ∨ permits l (some (clusterOfTile (tileOf k))) {} = false) :
    Ends (prefetch k t va fill) s (fun _ u => Caches s u) := by
  refine ends_if_neg (not_elsewhere hm) (ends_bind ((ends_translate hm).mono ?_))
  rintro w u ⟨rfl, hu⟩
  exact ends_if_pos (by simpa using hno) (ends_pure hu.caches)

end

/-! ### Prefetches that the page allows -/

theorem spoiled_of_caches {s u : State} {a n : Nat} (h : Caches s u) : spoiled u a n = spoiled s a n := by
  obtain ⟨tlb, gs, c, r, rfl, -⟩ := h
  rfl

/-- The line that comes into an L1 whose translations and granules have changed, and the other half of its 64 bytes that may leave it (R154, R197). -/
theorem ends_fillLine {s u : State} {core ctx va v0 k0 : Nat} {line : L1Line} (hu : Caches s u) (hf : (s.cluster (clusterOfTile (tileOfCore core))).fused = false) :
    Ends (do dropOlderHalf core ctx v0 k0; l1Fill core va line) u (fun _ x => ∃ lines, lines.Sublist (s.core core).l1
      ∧ Caches { s with cores := mapPut core { s.core core with l1 := line :: lines } s.cores } x) := by
  obtain ⟨tlb, gs, c, r, rfl, hr⟩ := hu
  refine ends_bind ((ends_dropOlderHalf (s := { s with tlb := tlb, granules := gs, freeCtr := c, sent := r ++ s.sent }) hf).mono fun _ v hv => ?_)
  obtain ⟨⟨cores, rfl⟩, hlines, hput⟩ := hv
  refine (ends_l1Fill_unfused (s := { s with tlb := tlb, granules := gs, freeCtr := c, sent := r ++ s.sent, cores := cores }) hf).mono ?_
  rintro _ x ⟨n, kept, hkept, rfl⟩
  refine ⟨kept, hkept.trans hlines, tlb, gs, n, r, ?_, hr⟩
  rw [hput]
  rfl

section
variable {s : State} {k va : Nat} {t : Thread} {l : CachedLeaf} (hm : Mapped s t.ctx va l) (hmt : l.mt ≠ 2) (hp : permits l (some (clusterOfTile (tileOf k))) {} = true)
include hm

theorem oneHome_of_granule {line v0 : Nat} (ho : SoleHome s line l) (hline : line / 256 = va / 256) (hv0 : v0 / 256 = va / 256) : OneHome s v0 l := by
  have hkey : l.key v0 / 256 = l.key line / 256 := by rw [key_div_of_granule hm hv0, key_div_of_granule hm hline]
  have hhash : homeHash v0 = homeHash line := homeHash_eq_of_granule (hv0.trans hline.symm)
  exact oneHome_of_soleHome (by rwa [SoleHome, hkey, hhash])

/-- The dies of the homes of a granule's addresses hold the views of one. -/
theorem plain_of_granule {u : State} {v0 : Nat} (hu : Caches s u) (hv0 : v0 / 256 = va / 256) : (u.die (homeDie v0)).views = [] := by
  obtain ⟨-, -, -, hdie, -⟩ := caches_same hu
  rw [hdie, homeDie, homeHash_eq_of_granule hv0]
  exact hm.plain

include hmt hp

/-- The granule of a prefetch into the home slice is there afterwards, whether or not it holds lost data (R158, R304). -/
theorem ends_prefetch_home (ho : SoleHome s (va / 32 * 32) l) :
    Ends (prefetch k t va false) s (fun _ u => Caches s u ∧ HeldAt u (l.key (va / 32 * 32)) (homeHash va)) := by
  have hgranule : va / 64 * 64 / 256 = va / 256 := by omega
  have hline : va / 32 * 32 / 256 = va / 256 := by omega
  have hkey : l.key (va / 64 * 64) / 256 = l.key (va / 32 * 32) / 256 := by rw [key_div_of_granule hm hgranule, key_div_of_granule hm hline]
  refine ends_if_neg (not_elsewhere hm) (ends_bind ((ends_translate hm).mono ?_))
  rintro w v ⟨rfl, hv⟩
  refine ends_if_neg (by simp [hmt, hp]) (ends_bind ((ends_placeOf_held (oneHome_of_granule hm ho hline hgranule) hv hmt (plain_of_granule hm (caches_refl s) hgranule)).mono ?_))
  rintro k0 u ⟨rfl, hu, hheld⟩
  rw [HeldAt, hkey, homeHash_eq_of_granule hgranule] at hheld
  refine ends_look_bind (ends_if_neg (by simp) ?_)
  by_cases hlost : loadSpoiled u (va / 64 * 64) (l.key (va / 64 * 64)) 64 = true
  · exact ends_if_pos hlost (ends_emit ⟨caches_report hu (bad_of_loadSpoiled hu hlost) _, hheld⟩)
  · exact ends_if_neg hlost (ends_if_pos rfl (ends_pure ⟨hu, hheld⟩))

/-- The line of a prefetch into an L1 comes there, in place of at most lines of it, unless it is there or holds lost data (R158, R304). -/
theorem ends_prefetch_line (ho : SoleHome s (va / 32 * 32) l) (hf : (s.cluster (clusterOfTile (tileOfCore (coreOf k)))).fused = false) :
    Ends (prefetch k t va true) s (fun _ u =>
      ((l1Find s (coreOf k) t.ctx va).isSome = true ∨ spoiled s (l.key (va / 32 * 32)) 32 = true → Caches s u)
      ∧ ((l1Find s (coreOf k) t.ctx va).isSome = false → spoiled s (l.key (va / 32 * 32)) 32 = false → ∃ lines, lines.Sublist (s.core (coreOf k)).l1
          ∧ Caches { s with cores := mapPut (coreOf k) { s.core (coreOf k) with l1 := prefetchedLine s t.ctx va l :: lines } s.cores } u)) := by
  have hline : va / 32 * 32 / 256 = va / 256 := by omega
  refine ends_if_neg (not_elsewhere hm) (ends_bind ((ends_translate hm).mono ?_))
  rintro w v ⟨rfl, hv⟩
  refine ends_if_neg (by simp [hmt, hp]) (ends_bind ((ends_placeOf (oneHome_of_granule hm ho hline hline) hv).mono ?_))
  rintro k0 u ⟨rfl, hu⟩
  have hu := hu.caches
  have hplain := plain_of_granule hm hu hline
  obtain ⟨hmem, -, -, -, hfind⟩ := caches_same hu
  have hspoiled : loadSpoiled u (va / 32 * 32) (l.key (va / 32 * 32)) 32 = spoiled s (l.key (va / 32 * 32)) 32 := by
    rw [loadSpoiled_of_plain hplain, spoiled_of_caches hu]
  refine ends_look_bind ?_
  by_cases hthere : (l1Find s (coreOf k) t.ctx va).isSome = true
  · exact ends_if_pos (by simp [hfind, hthere]) (ends_pure ⟨fun _ => hu, fun h => absurd hthere (by simp [h])⟩)
  refine ends_if_neg (by simp [hfind, hthere]) ?_
  by_cases hlost : spoiled s (l.key (va / 32 * 32)) 32 = true
  · refine ends_if_pos (hspoiled.trans hlost) (ends_emit ⟨fun _ => caches_report hu (bad_of_loadSpoiled hu (hspoiled.trans hlost)) _, fun _ h => absurd hlost (by simp [h])⟩)
  refine ends_if_neg (hspoiled ▸ hlost) (ends_if_neg (by simp) ?_)
  have hbytes : loadBytes u (va / 32 * 32) (l.key (va / 32 * 32)) 32 = peek s.mem (l.key (va / 32 * 32)) 32 := by rw [loadBytes_of_plain hplain, hmem]
  simp only [if_true, hbytes]
  refine (ends_fillLine hu hf).mono fun _ x hx => ⟨fun h => absurd h (by simp [hthere, hlost]), fun _ _ => hx⟩

end

end Sys2Proof.Machine

/-!
SUPPORT. Cache operations, invalidations of translations, one discard after another, and fences (R155, R158, R159, R191-R193).
-/

namespace Sys2Proof.Machine
open Sys2Proof.Claims

/-! ### Cache operations (R158) -/

/-- The state in which a cache operation does its work, its operation open, and the state that one leaves which has done nothing. -/
def cacheOpened (s : State) (t : Thread) (la : BitVec 4) : State := { s with nextId := s.nextId + 1 }.withCurrent (opened s {} {} la (t.issuing s))
def cacheDone (s : State) (t : Thread) (la : BitVec 4) : State := { s.ran t 4 (fun u => finished s.nextId {} (opened s {} {} la u)) with nextId := s.nextId + 1 }

/-- The current thread past a cache operation that has ended. -/
def pastCacheOp (s : State) (t : Thread) (la : BitVec 4) : Thread := (finished s.nextId {} (opened s {} {} la (t.issuing s))).advance 4 s.cycle

section
variable {s : State} {t : Thread} {gd : Guard} {a la : BitVec 4} {f : Nat → Thread → Act Unit}

/-- A cache operation ends at once, with what it has changed beside its thread (R158). -/
theorem cacheOp_next {P : State → Prop} (h : CanIssue s t gd (touchS a))
    (hf : Ends (f s.cur (t.issuing s)) (cacheOpened s t la) (fun _ u => u.threads = (cacheOpened s t la).threads ∧ P (u.withThread s.cur (pastCacheOp s t la)))) :
    ∃ u, cacheOp gd a la f s = .next u ∧ P u := by
  refine issue_next h (vectorsLegal_none rfl rfl) nofun (ends_bind (ends_openOp (ends_bind (hf.mono fun _ u ⟨hthreads, hP⟩ => ?_))))
  have ht : u.thread? s.cur = some (opened s {} {} la (t.issuing s)) := by rw [State.thread?, hthreads]; exact withCurrent_thread ..
  refine ends_bind (ends_finish ht (ends_pure ?_))
  rwa [afterFlow_seq_of (withThread_thread? ..), withThread_withThread]

/-- The same, for a state that is known. -/
theorem cacheOp_eq {x : State} (h : CanIssue s t gd (touchS a))
    (hf : Ends (f s.cur (t.issuing s)) (cacheOpened s t la) (fun _ u => u.threads = (cacheOpened s t la).threads ∧ u.withThread s.cur (pastCacheOp s t la) = x)) :
    cacheOp gd a la f s = .next x := by
  obtain ⟨u, hu, rfl⟩ := cacheOp_next (P := (· = x)) h hf
  exact hu

theorem cacheOpened_past : (cacheOpened s t la).withThread s.cur (pastCacheOp s t la) = cacheDone s t la := by
  simp only [cacheOpened, cacheDone, pastCacheOp, State.ran, State.withCurrent, State.withThread, mapPut_mapPut]

theorem caches_pastCacheOp {u : State} {cores : NatMap Core} (h : Caches { cacheOpened s t la with cores := cores } u) :
    u.threads = (cacheOpened s t la).threads ∧ Caches { cacheDone s t la with cores := cores } (u.withThread s.cur (pastCacheOp s t la)) := by
  obtain ⟨-, -, hthreads, -, -⟩ := caches_same h
  have hdone : State.withThread { cacheOpened s t la with cores := cores } s.cur (pastCacheOp s t la) = { cacheDone s t la with cores := cores } :=
    congrArg (fun v : State => { v with cores := cores }) cacheOpened_past
  exact ⟨hthreads, hdone ▸ caches_withThread h s.cur (pastCacheOp s t la)⟩

theorem reported_pastCacheOp {u : State} (h : Reported (cacheOpened s t la) u) :
    u.threads = (cacheOpened s t la).threads ∧ Reported (cacheDone s t la) (u.withThread s.cur (pastCacheOp s t la)) := by
  have hpast := reported_withThread h s.cur (pastCacheOp s t la)
  rw [cacheOpened_past] at hpast
  obtain ⟨_, rfl, -⟩ := h
  exact ⟨rfl, hpast⟩

end

/-! ### Discards of a core's own L1 -/

/-- Every line of the current core's L1 goes, and on core 3 its tile's nodes (R158, R193, R333). -/
theorem ends_l1Clear_current {s : State} {P : Unit → State → Prop}
    (h : P () { s with cores := mapPut (coreOf s.cur) { s.core (coreOf s.cur) with l1 := [] } s.cores, tiles := nodesDropped s }) : Ends (l1Clear (coreOf s.cur)) s P :=
  ends_bind (ends_dropNodes (ends_modCore h))

theorem ends_discardAll_unfused {s : State} {each : Nat → Act Unit} {P : Unit → State → Prop} (hf : unfused s) (h : Ends (each (coreOf s.cur)) s P) :
    Ends (discardAll (coreOf s.cur) each) s P :=
  ends_look_bind (ends_if_neg (by simp [clusterOfTile_coreOf_unfused hf]) h)

/-! ### Invalidations of translations (R159) -/

/-- A check that is made unless a condition holds, and that passes. -/
theorem ends_unless {α : Type} {c : Prop} [Decidable c] {check : Act Unit} {rest : Act α} {s : State} {P : α → State → Prop} (h : ¬ c → Ends check s (fun _ u => u = s))
    (hrest : Ends rest s P) : Ends (if c then rest else do check; rest) s P := by
  split
  case isTrue => exact hrest
  case isFalse hc => exact ends_bind ((h hc).mono fun _ u hu => hu ▸ hrest)

theorem stops_unless {α : Type} {c : Prop} [Decidable c] {check : Act Unit} {rest : Act α} {s : State} {w : Stop} (h : ¬ c → Ends check s (fun _ u => u = s))
    (hrest : StopsWith rest s w) : StopsWith (if c then rest else do check; rest) s w := by
  split
  case isTrue => exact hrest
  case isFalse hc => exact stops_after ((h hc).mono fun _ u hu => hu ▸ hrest)

section
variable {s : State} {t : Thread} {gd : Guard} {a b la : BitVec 4} {all : Bool} (h : CanIssue s t gd (touches [touchS a, touchS b])) (hva : all = false → (t.readS a).toNat < 2 ^ 56)
include h hva

/-- A context with SYS 1 sends the invalidation, with reports of the table's words in error at most (R159, R304). -/
theorem tinvOp_sends (hsys : contextSys s (dieOf s.cur) t.ctx = true) : ∃ u, tinvOp gd a b la all s = .next u
    ∧ Reported (sends s t 4 {} {} la (request s t (.tinv ((t.readS b).toNat % 4096) (if all then none else some (t.readS a).toNat)) [])) u := by
  refine issue_next h (vectorsLegal_none rfl rfl) nofun ?_
  refine ends_unless (fun hall => ends_needCanonical (hva (Bool.eq_false_iff.mpr hall)) rfl) (ends_bind (ends_reportContext.mono ?_))
  rintro _ _ ⟨r, rfl, hr⟩
  refine ends_look_bind (ends_bind (ends_require hsys ?_))
  exact (ends_sends (s := { s with sent := r ++ s.sent }) (f := { guard := gd }) (g := id) rfl).mono fun _ _ hv => ⟨r, hv, hr⟩

theorem tinvOp_traps (hsys : contextSys s (dieOf s.cur) t.ctx = false) : tinvOp gd a b la all s = commit "TRAP_ENTRY" (enterTrap s.cur (preciseTrap t s.insn .protection 0) false) s := by
  refine issue_trap h (vectorsLegal_none rfl rfl) nofun ?_
  refine stops_unless (fun hall => ends_needCanonical (hva (Bool.eq_false_iff.mpr hall)) rfl) (stops_after (ends_reportContext.mono ?_))
  rintro _ _ ⟨r, rfl, -⟩
  exact stops_after (ends_look (stops_require (s := { s with sent := r ++ s.sent }) hsys))

end

/-! ### One discard after another (R155, R333) -/

theorem acquired_acquired (c : Core) : acquired (acquired c) = acquired c := by
  cases h : c.l1.isEmpty <;> simp [acquired, h]

theorem core_of_acquired {s v : State} {sc : Scope} (hv : v.cores = acquiredCores s sc) :
    v.core (coreOf s.cur) = if sc = .thread then s.core (coreOf s.cur) else acquired (s.core (coreOf s.cur)) := by
  unfold acquiredCores at hv
  split at hv
  case isTrue hsc => rw [if_pos hsc, State.core, hv, State.core]
  case isFalse hsc => rw [if_neg hsc, State.core, hv, mapGet_mapPut_same, Option.getD_some]

section
variable {s v : State} (hc : v.cur = s.cur)
include hc

theorem nodesDropped_of_tiles (hv : v.tiles = s.tiles) : nodesDropped v = nodesDropped s := by
  have htile : v.tile (tileOf s.cur) = s.tile (tileOf s.cur) := by rw [State.tile, hv, State.tile]
  rw [nodesDropped, hc, htile, hv, nodesDropped]

theorem nodesDropped_of_dropped (hv : v.tiles = nodesDropped s) : nodesDropped v = nodesDropped s := by
  by_cases hd : roleOf s.cur = 3 ∧ (s.tile (tileOf s.cur)).nodes ≠ []
  · have hempty : (v.tile (tileOf v.cur)).nodes = [] := by rw [State.tile, hc, hv, nodesDropped, if_pos hd, mapGet_mapPut_same, Option.getD_some]
    rw [← hv, nodesDropped, if_neg fun h => h.2 hempty]
  · exact nodesDropped_of_tiles hc (hv.trans (if_neg hd))

theorem nodesDropped_of_acquired {sc : Scope} (hv : v.tiles = acquiredTiles s sc) : nodesDropped v = nodesDropped s := by
  unfold acquiredTiles at hv
  split at hv
  · exact nodesDropped_of_tiles hc hv
  · exact nodesDropped_of_dropped hc hv

/-- What is put in place of the lines that an acquire has left is put in place of those that were there. -/
theorem put_of_acquired {sc : Scope} (hv : v.cores = acquiredCores s sc) (l1 : List L1Line) :
    mapPut (coreOf v.cur) { v.core (coreOf v.cur) with l1 := l1 } v.cores = mapPut (coreOf s.cur) { s.core (coreOf s.cur) with l1 := l1 } s.cores := by
  obtain ⟨left, hleft⟩ := acquired_l1 (s.core (coreOf s.cur))
  rw [hc, core_of_acquired hv, hv, acquiredCores]
  by_cases hsc : sc = .thread
  · rw [if_pos hsc, if_pos hsc]
  · rw [if_neg hsc, if_neg hsc, hleft, mapPut_mapPut]

/-- Two acquires discard what the wider of them does. -/
theorem acquiredCores_of_acquired {first second : Scope} (hv : v.cores = acquiredCores s first) : acquiredCores v second = acquiredCores s (either second first) := by
  by_cases hsecond : second = .thread
  · rw [acquiredCores, either, if_pos hsecond, if_pos hsecond, hv]
  rw [either, if_neg hsecond, acquiredCores, if_neg hsecond, hc, core_of_acquired hv, hv]
  by_cases hfirst : first = .thread
  · simp only [acquiredCores, hfirst, hsecond, if_true, if_false]
  · simp only [acquiredCores, hfirst, hsecond, if_false, mapPut_mapPut, acquired_acquired]

theorem acquiredTiles_of_acquired {first second : Scope} (hv : v.tiles = acquiredTiles s first) : acquiredTiles v second = acquiredTiles s (either second first) := by
  by_cases hsecond : second = .thread
  · rw [acquiredTiles, either, if_pos hsecond, if_pos hsecond, hv]
  · rw [either, if_neg hsecond, acquiredTiles, if_neg hsecond, acquiredTiles, if_neg hsecond, nodesDropped_of_acquired hc hv]

end

/-! ### Rules that stall -/

theorem stops_if_pos {α : Type} {c : Prop} [Decidable c] {a b : Act α} {s : State} {w : Stop} (hc : c) (h : StopsWith a s w) : StopsWith (if c then a else b) s w := by
  rwa [if_pos hc]

/-- What stops an instruction's own rule stops the instruction (R144). -/
theorem stops_plan_body {f : Form} {body : Nat → Thread → Act Flow} {s : State} {t : Thread} {w : Stop} (h : CanIssue s t f.guard (f.uses t)) (hv : vectorsLegal f t)
    (h3 : f.core3 = true → roleOf s.cur = 3) (hb : StopsWith (body s.cur (t.issuing s)) (s.withCurrent (t.issuing s)) w) : StopsWith (plan f body) s w := by
  have haway : (f.core3 && decide (roleOf s.cur ≠ 3)) = false := by
    cases hf : f.core3 with
    | false => rfl
    | true => simp [h3 hf]
  rw [vectorsLegal] at hv
  unfold plan
  refine stops_after (ends_look (stops_after (ends_current h.thread ?_)))
  simp only [h.active, h.turn, h.inRotation, hv, haway, ne_eq, not_true_eq_false, Bool.false_eq_true, if_false]
  refine stops_after (ends_clear h.guardFree ?_)
  simp only [h.guardTrue, Bool.not_true, Bool.false_eq_true, if_false]
  exact stops_after (ends_clear h.usesFree (stops_after (ends_emit (stops_bind hb))))

/-- An instruction whose own rule stalls leaves its thread WAITING at it (R44, R47). -/
theorem issue_stall {f : Form} {body : Nat → Thread → Act Flow} {s : State} {t : Thread} {w : Wait} (h : CanIssue s t f.guard (f.uses t)) (hv : vectorsLegal f t)
    (h3 : f.core3 = true → roleOf s.cur = 3) (hb : StopsWith (body s.cur (t.issuing s)) (s.withCurrent (t.issuing s)) (.stall w)) :
    issue f body s = .next (s.withCurrent (waiting s t w)) := issue_of_stops_stall h.thread (stops_plan_body h hv h3 hb)

/-! ### Fences (R191-R193) -/

section
variable {s : State} {t : Thread}

theorem outstanding_of_fenceReady (h : fenceReady s t) : outstanding s t.after = [] := by
  obtain ⟨-, hout, -, -⟩ := h
  exact hout

/-- A fence finds nothing to wait for in a thread that has nothing outstanding. -/
theorem fenceWaits_of_ready (release : Bool) (h : fenceReady s t) : fenceWaits (s.withCurrent (t.issuing s)) s.cur (t.issuing s) release = false := by
  obtain ⟨hown, hout, hops, haccepted⟩ := h
  have hown' : ownAccesses (s.withCurrent (t.issuing s)) s.cur = [] := hown
  have hout' : outstanding (s.withCurrent (t.issuing s)) t.after = [] := hout
  have hops' : (t.issuing s).ops.any (fun o => !o.token && o.result.isSome) = false := by
    simp only [Thread.issuing, Thread.ticked, List.any_map, List.any_eq_false, Function.comp_apply]
    intro o ho
    by_cases hr : o.result = none
    · simp [hr]
    · simp [hops o ho hr]
  have hengines : unaccepted (s.withCurrent (t.issuing s)) s.cur = false := by
    simp only [unaccepted, State.withCurrent_tiles, List.any_eq_false]
    intro x hx
    simp only [List.any_eq_true, not_exists, not_and]
    intro c hc
    by_cases hk : c.key = s.cur
    · simp [haccepted x hx c hc hk]
    · simp [hk]
  simp [fenceWaits, hown', hout', hops', hengines]

/-- One with a release part finds an earlier access, or a command that has not been accepted. -/
theorem fenceWaits_of_held (h : fenceHeld s) : fenceWaits (s.withCurrent (t.issuing s)) s.cur (t.issuing s) true = true := by
  obtain hown | ⟨x, hx, c, hc, hk, ha⟩ := h
  · have hown' : ownAccesses (s.withCurrent (t.issuing s)) s.cur ≠ [] := hown
    simp [fenceWaits, hown']
  · have hengines : unaccepted (s.withCurrent (t.issuing s)) s.cur = true := by
      simp only [unaccepted, State.withCurrent_tiles, List.any_eq_true]
      exact ⟨x, hx, c, hc, by simp [hk, ha]⟩
    simp [fenceWaits, hengines]

/-- A thread whose acquires wait for nothing makes the discard that it owes (R394). -/
theorem ends_settleOwed_current {P : Unit → State → Prop} (hf : unfused s) (hout : outstanding s t.after = [])
    (h : P () (acquiredState s (t.owed.getD .thread) (s.withCurrent { t with owed := none }))) : Ends (settleOwed s.cur) (s.withCurrent t) P := by
  refine ends_look_bind ?_
  rw [withCurrent_thread]
  have hnone : (outstanding (s.withCurrent t) t.after).isEmpty = true := List.isEmpty_iff.mpr hout
  obtain howed | ⟨sc, howed⟩ := Option.eq_none_or_eq_some t.owed
  · have hself : { t with owed := none } = t := by rw [← howed]
    rw [hself, howed] at h
    simp only [howed]
    exact ends_pure h
  · rw [howed] at h
    simp only [howed]
    refine ends_if_pos hnone (ends_bind (ends_modCur ?_))
    exact ends_discardFor_current (s := s.withCurrent _) hf h

/-- A fence discards what an earlier acquire has left it to, and what its own acquire at a scope names. -/
theorem ends_discardFor_settled {first second : Scope} {w : Thread} {P : Unit → State → Prop} (hf : unfused s)
    (h : P () (acquiredState s (either second first) (s.withCurrent w))) : Ends (discardFor (coreOf s.cur) t second) (acquiredState s first (s.withCurrent w)) P := by
  refine ends_discardFor_current (s := acquiredState s first (s.withCurrent w)) hf ?_
  have hcores := acquiredCores_of_acquired (s := s) (v := acquiredState s first (s.withCurrent w)) (second := second) rfl rfl
  have htiles := acquiredTiles_of_acquired (s := s) (v := acquiredState s first (s.withCurrent w)) (second := second) rfl rfl
  rw [acquiredState, hcores, htiles]
  exact h

variable {gd : Guard}

/-- A fence with nothing to wait for goes on, and discards (R192). -/
theorem fenceOp_ready {acquire release : Bool} {sc : Scope} (h : CanIssue s t gd {}) (hf : unfused s) (hr : fenceReady s t) :
    fenceOp gd acquire release sc s = .next (acquiredState s (if acquire then either (actScope s.cur sc) (t.owed.getD .thread) else t.owed.getD .thread)
      (s.ran t 4 (fun u => { u with owed := none }))) := by
  refine issue_eq h (vectorsLegal_none rfl rfl) nofun (ends_look_bind (ends_if_neg (by simp [fenceWaits_of_ready release hr]) ?_))
  refine ends_bind (ends_settleOwed_current (t := t.issuing s) hf (outstanding_of_fenceReady (t := t) hr) ?_)
  cases acquire with
  | true => exact ends_bind (ends_discardFor_settled hf (ends_pure (afterFlow_seq_acquired ..)))
  | false => exact ends_pure (afterFlow_seq_acquired ..)

/-- `FENCE.i` empties an L1 in which an earlier acquire has just made its discard (R193). -/
theorem ends_l1Clear_acquired {sc : Scope} {w : Thread} {P : Unit → State → Prop}
    (h : P () (s.withShared (nodesDropped s) (mapPut (coreOf s.cur) { s.core (coreOf s.cur) with l1 := [] } s.cores) w)) :
    Ends (l1Clear (coreOf s.cur)) (acquiredState s sc (s.withCurrent w)) P := by
  refine ends_l1Clear_current (s := acquiredState s sc (s.withCurrent w)) ?_
  have hcores := put_of_acquired (s := s) (v := acquiredState s sc (s.withCurrent w)) rfl rfl []
  have htiles := nodesDropped_of_acquired (s := s) (v := acquiredState s sc (s.withCurrent w)) rfl rfl
  rw [hcores, htiles]
  exact h

/-- So does `FENCE.i`, which drops all that its L1 holds and what has been fetched ahead (R193). -/
theorem execFenceI_ready (h : CanIssue s t gd {}) (hf : unfused s) (hr : fenceReady s t) :
    execFenceI gd s = .next { s.ran t 4 (fun u => { u with owed := none, fetchFrom := s.nextId + 1 }) with
      cores := mapPut (coreOf s.cur) { s.core (coreOf s.cur) with l1 := [] } s.cores, tiles := nodesDropped s, nextId := s.nextId + 1 } := by
  refine issue_eq h (vectorsLegal_none rfl rfl) nofun (ends_look_bind (ends_if_neg (by simp [fenceWaits_of_ready true hr]) ?_))
  refine ends_bind (ends_settleOwed_current (t := t.issuing s) hf (outstanding_of_fenceReady (t := t) hr) (ends_bind (ends_freshId (ends_bind ?_))))
  refine ends_modCur_acquired (s := { s with nextId := s.nextId + 1 }) (ends_look_bind ?_)
  refine ends_if_neg (Bool.eq_false_iff.mp hf) (ends_bind (ends_l1Clear_acquired (s := { s with nextId := s.nextId + 1 }) (ends_pure ?_)))
  exact afterFlow_seq_shared _ { s with nextId := s.nextId + 1 } _ _ _

/-- One that must wait leaves its thread WAITING for its earlier accesses (R192). -/
theorem fenceOp_held {acquire : Bool} {sc : Scope} (h : CanIssue s t gd {}) (hw : fenceHeld s) : fenceOp gd acquire true sc s = .next (s.withCurrent (waiting s t .earlier)) :=
  issue_stall h (vectorsLegal_none rfl rfl) nofun (stops_after (ends_look (stops_if_pos (fenceWaits_of_held hw) (stops_bind stops_stop))))

theorem execFenceI_held (h : CanIssue s t gd {}) (hw : fenceHeld s) : execFenceI gd s = .next (s.withCurrent (waiting s t .earlier)) :=
  issue_stall h (vectorsLegal_none rfl rfl) nofun (stops_after (ends_look (stops_if_pos (fenceWaits_of_held hw) (stops_bind stops_stop))))

end

end Sys2Proof.Machine

/-!
SUPPORT. The cache operations as instructions, in the terms of the statements (R158).
-/

namespace Sys2Proof.Claims
open Sys2Proof.Machine

@[simp] theorem touchS_zero_union (x : Touch) : (touchS 0#4).union x = x := by simp [touchS, Touch.union]

/-! ### Cache operations -/

/-- `CCTL.pf` and `CCTL.pfs` are one operation (R158). -/
def prefetchOp (gd : Guard) (a la : BitVec 4) (fill : Bool) : State → Step := cacheOp gd a la (fun k t => prefetch k t (t.readS a).toNat fill)

theorem exec_cctlPf (gd : Guard) (a la : BitVec 4) : exec (.cctlPf gd a la) = prefetchOp gd a la true := rfl
theorem exec_cctlPfs (gd : Guard) (a la : BitVec 4) : exec (.cctlPfs gd a la) = prefetchOp gd a la false := rfl

/-- The opening of an instruction has no part in translation. -/
theorem mapped_cacheOpened {s : State} {t : Thread} {la : BitVec 4} {va : Nat} {l : CachedLeaf} (hm : Mapped s t.ctx va l) : Mapped (cacheOpened s t la) (t.issuing s).ctx va l :=
  ⟨hm.canonical, hm.shared, hm.leaf, hm.known, hm.plain⟩

section
variable {s : State} {t : Thread} {gd : Guard} {a la : BitVec 4} {fill : Bool} {l : CachedLeaf} (h : CanIssue s t gd (touchS a))
include h

/-- A prefetch instruction ends with what the prefetch has changed. -/
theorem prefetchOp_next {P Q : State → Prop} (hends : Ends (prefetch s.cur (t.issuing s) (t.readS a).toNat fill) (cacheOpened s t la) (fun _ u => Q u))
    (hQ : ∀ u, Q u → u.threads = (cacheOpened s t la).threads ∧ P (u.withThread s.cur (pastCacheOp s t la))) : ∃ u, prefetchOp gd a la fill s = .next u ∧ P u :=
  cacheOp_next h (hends.mono fun _ u hu => hQ u hu)

theorem prefetchOp_nowhere (hva : inWindow (t.readS a).toNat = true ∨ canonical (t.readS a).toNat = false) :
    prefetchOp gd a la fill s = .next (cacheDone s t la) :=
  cacheOp_eq h (ends_prefetch_nowhere hva ⟨rfl, cacheOpened_past⟩)

theorem prefetchOp_missing {cause : Nat} (hc : canonical (t.readS a).toNat = true) (hin : inWindow (t.readS a).toNat = false)
    (hw : walk s t.ctx (t.readS a).toNat = .missing cause)
    (hnone : ∀ x ∈ (s.slice (homeHash (t.readS a).toNat)).first ++ (s.slice (lastSlice (t.readS a).toNat)).last, x.serves t.ctx (t.readS a).toNat = false) :
    ∃ u, prefetchOp gd a la fill s = .next u ∧ Reported (cacheDone s t la) u :=
  prefetchOp_next h (ends_prefetch_missing hc hin hw hnone) fun _ hu => reported_pastCacheOp hu

section
variable (hm : Mapped s t.ctx (t.readS a).toNat l)
include hm

theorem prefetchOp_refused (hno : l.mt = 2 ∨ permits l (some (clusterOfTile (tileOf s.cur))) {} = false) :
    ∃ u, prefetchOp gd a la fill s = .next u ∧ Caches (cacheDone s t la) u :=
  prefetchOp_next h (ends_prefetch_refused (mapped_cacheOpened hm) hno) fun _ hu => caches_pastCacheOp hu

variable (ho : SoleHome s ((t.readS a).toNat / 32 * 32) l) (hmt : l.mt ≠ 2) (hp : permits l (some (clusterOfTile (tileOf s.cur))) {} = true)
include ho hmt hp

theorem prefetchOp_home : ∃ u g, prefetchOp gd a la false s = .next u ∧ Caches (cacheDone s t la) u
    ∧ mapGet (l.key ((t.readS a).toNat / 32 * 32) / 256) u.granules = some g ∧ g.holder.home = homeHash (t.readS a).toNat := by
  obtain ⟨u, hu, hc, g, hg, hhome⟩ := prefetchOp_next (la := la)
    (P := fun u => Caches (cacheDone s t la) u ∧ HeldAt u (l.key ((t.readS a).toNat / 32 * 32)) (homeHash (t.readS a).toNat)) h
    (ends_prefetch_home (mapped_cacheOpened hm) hmt hp ho) fun _ ⟨hc, hheld⟩ => (caches_pastCacheOp hc).imp_right fun hc => ⟨hc, hheld⟩
  exact ⟨u, g, hu, hc, hg, hhome⟩

variable (hf : unfused s)
include hf

theorem prefetchOp_idle (hno : (l1Find s (coreOf s.cur) t.ctx (t.readS a).toNat).isSome = true ∨ spoiled s (l.key ((t.readS a).toNat / 32 * 32)) 32 = true) :
    ∃ u, prefetchOp gd a la true s = .next u ∧ Caches (cacheDone s t la) u :=
  prefetchOp_next h (ends_prefetch_line (mapped_cacheOpened hm) hmt hp ho (clusterOfTile_coreOf_unfused hf)) fun _ ⟨hidle, _⟩ => caches_pastCacheOp (hidle hno)

theorem prefetchOp_fills (hfind : (l1Find s (coreOf s.cur) t.ctx (t.readS a).toNat).isSome = false) (hgood : spoiled s (l.key ((t.readS a).toNat / 32 * 32)) 32 = false) :
    ∃ u lines, prefetchOp gd a la true s = .next u ∧ lines.Sublist (s.core (coreOf s.cur)).l1
      ∧ Caches { cacheDone s t la with
          cores := mapPut (coreOf s.cur) { s.core (coreOf s.cur) with l1 := prefetchedLine s t.ctx (t.readS a).toNat l :: lines } s.cores } u := by
  obtain ⟨u, hu, lines, hlines, hc⟩ := prefetchOp_next (la := la)
    (P := fun u => ∃ lines, lines.Sublist (s.core (coreOf s.cur)).l1 ∧ Caches { cacheDone s t la with
      cores := mapPut (coreOf s.cur) { s.core (coreOf s.cur) with l1 := prefetchedLine s t.ctx (t.readS a).toNat l :: lines } s.cores } u) h
    (ends_prefetch_line (mapped_cacheOpened hm) hmt hp ho (clusterOfTile_coreOf_unfused hf)) fun u ⟨_, hfills⟩ => by
      obtain ⟨lines, hlines, hc⟩ := hfills hfind hgood
      exact (caches_pastCacheOp hc).imp_right fun hc => ⟨lines, hlines, hc⟩
  exact ⟨u, lines, hu, hlines, hc⟩

end

theorem cctlInv_drops (hf : unfused s) :
    exec (.cctlInv gd a la) s = .next { cacheDone s t la with cores := lineDropped s (coreOf s.cur) t.ctx (t.readS a).toNat } :=
  cacheOp_eq (la := la) h (ends_l1Drop_unfused (s := cacheOpened s t la) (clusterOfTile_coreOf_unfused hf)
    ⟨rfl, congrArg (fun v : State => { v with cores := lineDropped s (coreOf s.cur) t.ctx (t.readS a).toNat }) cacheOpened_past⟩)

end

theorem cctlInva_clears {s : State} {t : Thread} {gd : Guard} {la : BitVec 4} (h : CanIssue s t gd {}) (hf : unfused s) : exec (.cctlInva gd la) s
    = .next { cacheDone s t la with cores := mapPut (coreOf s.cur) { s.core (coreOf s.cur) with l1 := [] } s.cores, tiles := nodesDropped s } :=
  cacheOp_eq (a := 0) h (ends_discardAll_unfused (s := cacheOpened s t la) hf (ends_l1Clear_current ⟨rfl,
    congrArg (fun v : State => { v with cores := mapPut (coreOf s.cur) { s.core (coreOf s.cur) with l1 := [] } s.cores, tiles := nodesDropped s }) cacheOpened_past⟩))

end Sys2Proof.Claims

/-!
CERTIFICATE. Cache operations and fences (R158, R159, R191-R193).
-/

namespace Sys2Proof.Claims
open Sys2Proof.Machine

/-- Settles O28: the prefetches by what their translation finds, the rest by the branch of the rule; a fence that goes on makes the discard that its thread owes and its own, which together are the wider one. -/
theorem cacheAndFences : Obligations.CacheAndFences := by
  refine ⟨fun s t gd a b la => ⟨fun h => ⟨fun hva => ⟨prefetchOp_nowhere h hva, prefetchOp_nowhere h hva⟩,
      fun cause hc hin hw hnone => ⟨prefetchOp_missing h hc hin hw hnone, prefetchOp_missing h hc hin hw hnone⟩,
      fun l hm hno => ⟨prefetchOp_refused h hm hno, prefetchOp_refused h hm hno⟩,
      fun l hm ho hmt hp => ⟨prefetchOp_home h hm ho hmt hp, fun hf => ⟨prefetchOp_idle h hm ho hmt hp hf, prefetchOp_fills h hm ho hmt hp hf⟩⟩⟩,
    fun hf => ⟨fun h => cctlInv_drops h hf, fun h => cctlInva_clears h hf⟩, fun hsys => ⟨fun h hva => ?_, fun h => ?_⟩, fun hsys => ⟨fun h hva => ?_, fun h => ?_⟩, fun h hva => ?_⟩,
    fun s t gd sz h hf => ⟨fun hr => ⟨fenceOp_ready h hf hr, fenceOp_ready h hf hr, fenceOp_ready h hf hr, execFenceI_ready h hf hr⟩, fun hw i hi => ?_⟩⟩
  · exact tinvOp_sends h (fun _ => hva) hsys
  · exact tinvOp_sends (a := 0) (all := true) (by simpa using h) nofun hsys
  · exact tinvOp_traps h (fun _ => hva) hsys
  · exact tinvOp_traps (a := 0) (all := true) (by simpa using h) nofun hsys
  · exact issue_trap h (vectorsLegal_none rfl rfl) nofun (stops_needCanonical hva)
  · simp only [List.mem_cons, List.not_mem_nil, or_false] at hi
    obtain rfl | rfl | rfl := hi
    · exact fenceOp_held h hw
    · exact fenceOp_held h hw
    · exact execFenceI_held h hw

end Sys2Proof.Claims

/-!
SUPPORT. What full/empty operations, atomics, active messages and coefficient loads send once their operands have passed their checks (R126, R161-R165, R175-R177, R181, R241).
-/

namespace Sys2Proof.Claims
open Sys2Proof.Machine

section
variable {s : State} {t : Thread} {gd : Guard} {d a b la : BitVec 4}

theorem acquires_eq (op : FeOp) : op.acquires = acquires op := by cases op <;> rfl

/-- What the runner slot must not do is no obstacle to what does not wait, nor in a general slot (R173). -/
theorem ends_waitsInSlot {op : FeOp} {k : Nat} {v : State} {P : Unit → State → Prop} (hw : waits op = true → isRunner k = false) (h : P () v) :
    Ends (if op.waits then notInRunner k else pure ()) v P := by
  rw [waits_eq]
  cases hwaits : waits op with
  | true => exact ends_notInRunner (hw hwaits) h
  | false => exact ends_pure h

theorem fullEmptyOp_sends {op : FeOp} {pf : BitVec 4} {off : Thread → Word} {form : BitVec 2} {uses dest : Touch} {va : Word} (h : CanIssue s t gd (uses.union (touchS a)))
    (hva : t.readS a + off (t.issuing s) = va) (hok : addressOk va 8) (hw : waits op = true → isRunner s.cur = false) :
    fullEmptyOp gd op d a pf off form la uses dest s = .next (sends s t 4 dest {} la { request s t (.fullEmpty op) [(va.toNat, 8)] with
      d := d, pf := pf, data := (t.readS d).toNat, form := form.toNat, scope := formScope s.cur t form, acq := acquires op, rel := !acquires op }) := by
  subst hva
  obtain ⟨hcanonical, haligned⟩ := hok
  rw [← acquires_eq]
  exact issue_eq h (vectorsLegal_none rfl rfl) nofun (ends_bind (ends_needCanonical hcanonical (ends_ite_do (ends_waitsInSlot hw (ends_bind (ends_needAligned haligned
    (ends_sends (g := fun r => { r with d := d, pf := pf, data := (t.readS d).toNat, form := form.toNat, scope := formScope s.cur t form, acq := op.acquires, rel := !op.acquires }) rfl)))))))

theorem atomicOp_sends {op : AmoOp} (h : CanIssue s t gd (((touchS d).union (if op.flags then touchFlags else {})).union ((touchS a).union (touchS b))))
    (hok : addressOk (t.readS a) op.align) :
    atomicOp gd op d a b la s = .next (sends s t 4 ((touchS d).union (if op.flags then touchFlags else {})) {} la { request s t (.atomic op) [((t.readS a).toNat, op.align)] with
      d := d, data := (t.readS b).toNat, cmp := t.readS d, seq := (t.readE 6).toNat % 2 ^ 32, scope := actScope s.cur t.scope, acq := true, rel := true }) := by
  obtain ⟨hcanonical, haligned⟩ := hok
  exact issue_eq h (vectorsLegal_none rfl rfl) nofun (ends_bind (ends_needCanonical hcanonical (ends_bind (ends_needAligned haligned (ends_sends
    (g := fun r => { r with d := d, data := (t.readS b).toNat, cmp := t.readS d, seq := (t.readE 6).toNat % 2 ^ 32, scope := actScope s.cur t.scope, acq := true, rel := true }) rfl)))))

/-! ### Active messages and coefficient loads -/

theorem exec_messages {i : Instr} {seq : Bool} (h : messages i = some (gd, a, b, la, seq)) : exec i = messageOp gd a b la seq := by
  cases i with
  | rmsg | rmsgSeq => cases h; rfl
  | _ => cases h

/-- The message of an `RMSG`, which waits for all earlier accesses of its thread (R181, R182). -/
def messageRequest (s : State) (t : Thread) (a b : BitVec 4) (seq : Bool) : Req :=
  let x := (t.readS a).toNat
  let device := x / 2 ^ 16 % 2 ^ 16
  { request s t (.message (x % 2 ^ 13) device (t.readS b) [t.readS 1, t.readS 2, t.readS 3, t.readS 4] (if seq then some ((t.readE 6).toNat % 2 ^ 32) else none)) [] with
    rel := true, scope := if device = 0 then .device else .system }

/-- The target of an `RMSG` is on another module, or on another die of this one (R277). -/
def messageLeaves (s : State) (t : Thread) (a : BitVec 4) : Bool :=
  (t.readS a).toNat / 2 ^ 16 % 2 ^ 16 ≠ 0 || dieOf s.cur ≠ (t.readS a).toNat % 2 ^ 13 / 2048

theorem messageOp_sends {seq : Bool} (h : CanIssue s t gd (touches [touchS a, touchS b, touchS 1, touchS 2, touchS 3, touchS 4])) :
    messageOp gd a b la seq s = .next { s.ran t 4 (fun u => breaks (messageLeaves s t a) (opened s {} {} la u)) with
      reqs := mapPut (s.nextId + 1) { messageRequest s t a b seq with after := barring s s.cur t [] true } s.reqs, nextId := s.nextId + 2 } := by
  refine issue_eq h (vectorsLegal_none rfl rfl) nofun (ends_bind (ends_openOp (ends_bind (ends_sendReq
    (g := fun r => { r with rel := true, scope := if (t.readS a).toNat / 2 ^ 16 % 2 ^ 16 = 0 then .device else .system }) rfl
    (ends_ite_do (ends_breaks (b := messageLeaves s t a) (withCurrent_thread (s.sending t (messageRequest s t a b seq)) _) ?_))))))
  exact ends_pure ((congrArg _ (withCurrent_withCurrent (s.sending t (messageRequest s t a b seq)) _ _)).trans (afterFlow_seq _ (s.sending t (messageRequest s t a b seq)) _))

theorem coefld_sends (h : CanIssue s t gd (touches [touchS a, touchS b, touchCoef])) (hok : addressOk (t.readS a) 8)
    (hend : (t.readS a).toNat + (t.readS b).toNat / 2 ^ 16 % 2 ^ 14 ≤ 2 ^ 56) (hoff : (t.readS b).toNat % 2 ^ 13 % 8 = 0) (hlen : (t.readS b).toNat / 2 ^ 16 % 2 ^ 14 % 8 = 0)
    (hpos : 0 < (t.readS b).toNat / 2 ^ 16 % 2 ^ 14) (hfits : (t.readS b).toNat % 2 ^ 13 + (t.readS b).toNat / 2 ^ 16 % 2 ^ 14 ≤ 8192) (hown : (s.tile (tileOf s.cur)).coefOwner = some t.ctx) :
    exec (.coefld gd a b la) s
      = .next (sends s t 4 touchCoef {} la (request s t (.coef ((t.readS b).toNat % 2 ^ 13)) [((t.readS a).toNat, (t.readS b).toNat / 2 ^ 16 % 2 ^ 14)])) := by
  obtain ⟨hcanonical, haligned⟩ := hok
  refine issue_eq h (vectorsLegal_none rfl rfl) nofun (ends_bind (ends_needCanonical hcanonical (ends_bind (ends_require (decide_eq_true hend)
    (ends_bind (ends_claimCoef (.inr hown) ?_))))))
  have hkept : ({ s with tiles := coefClaimed s t } : State) = s := by rw [coefClaimed, if_neg (by simp [hown])]
  rw [hkept]
  exact ends_bind (ends_needAligned haligned (ends_bind (ends_require (decide_eq_true hoff) (ends_bind (ends_require (decide_eq_true hlen)
    (ends_bind (ends_require (decide_eq_true hpos) (ends_bind (ends_require (decide_eq_true hfits) (ends_sends (g := id) rfl))))))))))

theorem coefld_leaves (h : CanIssue s t gd (touches [touchS a, touchS b, touchCoef])) (hva : (t.readS a).toNat < 2 ^ 56)
    (hend : 2 ^ 56 < (t.readS a).toNat + (t.readS b).toNat / 2 ^ 16 % 2 ^ 14) : Traps s t .protection (mod64 (2 ^ 56)) (exec (.coefld gd a b la) s) :=
  issue_trap h (vectorsLegal_none rfl rfl) nofun (stops_after (ends_needCanonical hva (stops_require (decide_eq_false (Nat.not_le_of_lt hend)))))

end

end Sys2Proof.Claims

/-!
CERTIFICATES. Full/empty operations, atomics, active messages and coefficient loads send their requests (R126, R161-R165, R175-R177, R181, R182, R241).
-/

namespace Sys2Proof.Claims
open Sys2Proof.Machine

/-- Settles O26: every form is the full/empty or the atomic operation of its table. -/
theorem wordOperationsIssue : Obligations.WordOperationsIssue := by
  refine ⟨fun i s t gd op d a pf off form la uses dest hi h hok hw => ?_, fun i s t gd op d a b la n fl hi => ?_⟩
  · obtain ⟨offsetOf, hexec, hoff⟩ := exec_fullEmpties hi
    rw [hexec]
    exact fullEmptyOp_sends h (by rw [hoff]) hok hw
  · obtain ⟨hexec, rfl, rfl⟩ := exec_atomics hi
    rw [hexec]
    exact fun h hok => atomicOp_sends h hok

/-- Settles O27: both forms of `RMSG` are one operation; a `COEFLD` that passes its checks finds itself the owner. -/
theorem messagesAndCoefficients : Obligations.MessagesAndCoefficients := by
  refine ⟨fun i s t gd a b la seq hi h => ?_, fun s t gd a b la h => ⟨fun hok hend hoff hlen hpos hfits hown => coefld_sends h hok hend hoff hlen hpos hfits hown,
    fun hva hend => coefld_leaves h hva hend⟩⟩
  rw [exec_messages hi]
  exact messageOp_sends h

end Sys2Proof.Claims

/-!
SUPPORT. What a home does to a word of a local store: how a request comes to it, which parts of the state an acquire and a store leave alone, and what the operations of a home make of the rest (R164, R167).
-/

namespace Sys2Proof.Machine
open Sys2Proof.Claims

/-! ### A request comes to its word -/

/-- The request is for one aligned word of the local window. -/
structure Req.OfLocalWord (r : Req) (va : Nat) : Prop where
  spans : r.spans = [(va, 8)]
  window : inWindow va = true
  aligned : va % 8 = 0

section
variable {s : State} {r : Req} {va : Nat} (h : r.OfLocalWord va)
include h

theorem Req.OfLocalWord.va_eq : r.va = va := by rw [Req.va, h.spans]; rfl

theorem Req.OfLocalWord.va_window : inWindow r.va = true := h.va_eq ▸ h.window

theorem Req.OfLocalWord.holdKey_eq : r.holdKey (storeKey r va) = storeKey r va := by
  rw [Req.holdKey, h.va_eq]
  exact holdKey_storeAt h.aligned

theorem Req.OfLocalWord.pageUsed_eq {ctx : Nat} {before : Nat × Nat} : pageUsed s ctx r.va before = (0, 0) := if_pos h.va_window

theorem Req.OfLocalWord.usedPage_eq (hsent : r.stage = .sent) : r.usedPage s = (0, 0) := by
  rw [Req.usedPage, hsent]
  exact h.pageUsed_eq

/-- The list of a word of the local window is served under the reservation of the word itself. -/
theorem Req.OfLocalWord.reservedFor_eq (key : Nat) : reservedFor s r.homeKey key = reserved s key := by
  rw [reservedFor, listHold, if_pos]
  rw [Req.homeKey, Machine.homeKey, if_pos h.va_window]
  omega

/-- A word of a local store without errors is reached as it lies. -/
theorem ends_reachWord_window {writes fills : Bool} {P : Unit → State → Prop} (hb : s.bad = []) (hP : Ends (arriveWord r (storeKey r va)) s P) : Ends (reachWord r writes fills) s P := by
  have hword : wordOf r.va = va := by
    have := h.aligned
    rw [h.va_eq, wordOf]
    omega
  have hreach : reach r.ctx (some r.tile) va { write := writes, fe := true } = pure (.ok (storeKey r va, 0)) := if_pos h.window
  have hsound : spoiled s (storeKey r va) 8 = false := by rw [spoiled, hb]; rfl
  unfold reachWord
  rw [hword, hreach]
  refine ends_pure_bind (ends_look_bind ?_)
  simp only [hsound, h.va_window, Bool.false_and, Bool.false_eq_true, if_false, if_true]
  exact hP

end

theorem ends_settleOwed_none {k : Nat} {s : State} {t : Thread} {P : Unit → State → Prop} (ht : s.thread? k = some t) (howed : t.owed = none) (hP : P () s) : Ends (settleOwed k) s P := by
  refine ends_look_bind ?_
  simp only [ht, howed]
  exact ends_pure hP

/-- A request of a core that is due arrives as a whole. -/
theorem requestArrival_next {s : State} {i k : Nat} {r : Req} {t : Thread} {P : State → Prop} (h : Ready s i r k t) (hin : s.input = .one i) (hsent : r.stage = .sent) (hparts : r.parts = [])
    (hfirst : ownEarlier s r r.spans = false) (hask : ∀ ctx va, r.ask ≠ .tinv ctx va) (hP : Ends (arrival "REQUEST_ARRIVAL" r none) s (fun _ u => P u)) :
    ∃ u, exec .requestArrival s = .next u ∧ P u := by
  obtain ⟨hthere, -, hissuer, hready, -, hthread, hsettled⟩ := h
  have hleft : r.left = r.spans := by rw [Req.left, hparts]; rfl
  refine commit_next ?_
  rw [hin]
  refine ends_bind (ends_needReq hthere (ends_bind (ends_due (by simp [hsent, hready]) ?_)))
  extract_lets mine arrives settles
  have hrest : Ends (do
      settleOwed k
      due "REQUEST_ARRIVAL" (!ownEarlier s r r.left)
      arrival "REQUEST_ARRIVAL" r none) s (fun _ u => P u) :=
    ends_bind (ends_settleOwed_none hthread hsettled (ends_bind (ends_due (by rw [hleft, hfirst]; rfl) hP)))
  split
  · exact absurd ‹_› (hask _ _)
  · simp only [settles, arrives, mine, hissuer, hsent, Option.bind_none]
    exact hrest

/-! ### What acquires discard, and what fetch may still take, set aside -/

/-- `u` differs from `s` at most in caches and clusters, from which acquires discard, in the nodes that tiles cache, and in what fetch may still take. -/
def Aside (s u : State) : Prop := ∃ tiles cores clusters old, u = { s with tiles := tiles, cores := cores, clusters := clusters, old := old }

theorem Aside.refl (s : State) : Aside s s := ⟨s.tiles, s.cores, s.clusters, s.old, rfl⟩

theorem Discards.aside {s u v : State} (h : Discards u v) (hu : Aside s u) : Aside s v := by
  obtain ⟨_, _, _, _, rfl⟩ := hu
  obtain ⟨_, _, _, rfl⟩ := h.rest
  exact ⟨_, _, _, _, rfl⟩

theorem Aside.thread? {s u : State} (h : Aside s u) (k : Nat) : u.thread? k = s.thread? k := by
  obtain ⟨_, _, _, _, rfl⟩ := h
  rfl

theorem Aside.withThread {s u : State} {k : Nat} {t : Thread} (h : Aside s u) : Aside (s.withThread k t) (u.withThread k t) := by
  obtain ⟨_, _, _, _, rfl⟩ := h
  exact ⟨_, _, _, _, rfl⟩

/-- The action makes `x` of `s`, but for what it discards. -/
def Makes (a : Act Unit) (s x : State) : Prop := ∀ v, Aside s v → Ends a v (fun _ u => Aside x u)

theorem Makes.ends {a : Act Unit} {s x : State} {P : State → Prop} (h : Makes a s x) (hP : ∀ u, Aside x u → P u) : Ends a s (fun _ u => P u) :=
  (h s (.refl s)).mono fun _ u hu => hP u hu

theorem makes_bind {a : Act Unit} {b : Unit → Act Unit} {s x y : State} (ha : Makes a s x) (hb : Makes (b ()) x y) : Makes (a >>= b) s y :=
  fun v hv => ends_bind ((ha v hv).mono fun _ u hu => hb u hu)

theorem makes_emit_empty (s : State) (w : Nat) (e : Bool) : Makes (emit (.empty w e)) s ((Effect.empty w e).apply s) := by
  rintro _ ⟨_, _, _, _, rfl⟩
  exact ends_emit ⟨_, _, _, _, rfl⟩

/-- A request of a thread ends with register writes, and if it acquires discards what its scope names. -/
theorem makes_complete {r : Req} {k : Nat} {s : State} {t : Thread} (hw : r.who = .thread k) (ht : s.thread? k = some t) (ws : List RegWrite) :
    Makes (complete r ws) s (performedWith s r.id k t r.op ws) := by
  rintro _ ⟨tiles, cores, clusters, old, rfl⟩
  set v : State := { s with tiles := tiles, cores := cores, clusters := clusters, old := old }
  have hperformed : Ends (performed r) v (fun _ u => Aside ((s.withoutReq r.id).withThread k (roused t)) u) := by
    refine ends_emit_bind ?_
    rw [hw]
    refine ends_look_bind ?_
    rw [show ((Effect.req r.id none).apply v).thread? k = some t from ht]
    have hgone : Aside (s.withoutReq r.id) (v.withoutReq r.id) := ⟨_, _, _, _, rfl⟩
    exact ends_ite_bind (fun u => Aside (s.withoutReq r.id) u ∧ u.thread? k = some t) ((ends_discardFor _ _ _ _).mono fun _ u hu => ⟨hu.aside hgone, (hu.thread? k).trans ht⟩)
      ⟨hgone, ht⟩ fun u ⟨hu, hut⟩ => ends_rouse hut hu.withThread
  refine ends_bind (hperformed.mono fun _ u hu => ?_)
  rw [hw]
  refine ends_finish ((hu.thread? k).trans (withThread_thread? ..)) ?_
  have hdone : Aside _ (u.withThread k (finished r.op { writes := ws } (roused t))) := hu.withThread
  rwa [withThread_withThread] at hdone

theorem makes_poke {s : State} (hb : s.bad = []) (a n x : Nat) : Makes (poke a n x) s { s with mem := storedBytes s.mem a n x } := by
  rintro _ ⟨tiles, cores, clusters, old, rfl⟩
  refine (ends_poke_plain (s := { s with tiles := tiles, cores := cores, clusters := clusters, old := old }) hb).mono ?_
  rintro _ _ ⟨_, rfl⟩
  exact ⟨_, _, _, _, rfl⟩

/-- A store to the local window meets no line of an L1. -/
theorem makes_fillWord {r : Req} {s : State} (hb : s.bad = []) (hwin : inWindow r.va = true) (w : Nat) : Makes (fillWord r w) s { s with mem := storedBytes s.mem w 8 (r.data % 2 ^ 64) } :=
  makes_bind (makes_poke hb w 8 _) fun _ hv => ends_if_pos hwin (ends_pure hv)

theorem makes_settle_unlisted {s : State} {hk w : Nat} (h : s.home hk = {}) : Makes (settle hk w) s s := by
  rintro _ ⟨_, _, _, _, rfl⟩
  exact ends_settle_unlisted h ⟨_, _, _, _, rfl⟩

/-! ### One word and its state -/

/-- What memory and the states of words hold is what they held, but for the word at a key, of which the data and the state are given. -/
structure WordLeft (s : State) (key data : Nat) (empty : Bool) (mem : List Host.Cell) (empties : NatMap Unit) : Prop where
  wf : Memory.wf mem = true
  rise : keysRise empties = true
  bytes : peek mem key 8 = data
  state : (mapGet key empties).isSome = empty
  other : ∀ a, a < key ∨ key + 8 ≤ a → Memory.read mem a = Memory.read s.mem a
  states : ∀ w, w ≠ key → (mapGet w empties).isSome = isEmptyWord s w

theorem WordLeft.refl {s : State} (hs : s.canonical) (key : Nat) : WordLeft s key (peek s.mem key 8) (isEmptyWord s key) s.mem s.empties where
  wf := mem_wf hs
  rise := empties_rise hs
  bytes := rfl
  state := rfl
  other _ _ := rfl
  states _ _ := rfl

theorem WordLeft.marked {s u : State} {key data : Nat} {empty : Bool} (h : WordLeft s key data empty u.mem u.empties) (e : Bool) :
    WordLeft s key data e u.mem ((Effect.empty key e).apply u).empties where
  wf := h.wf
  rise := by
    cases e with
    | true => exact keysRise_mapPut _ _ _ h.rise
    | false => exact keysRise_mapDel _ _ h.rise
  bytes := h.bytes
  state := (isEmptyWord_apply_empty h.rise key key e).trans (if_pos rfl)
  other := h.other
  states w hw := ((isEmptyWord_apply_empty h.rise w key e).trans (if_neg hw)).trans (h.states w hw)

theorem WordLeft.stored {s : State} {key data : Nat} {empty : Bool} {mem : List Host.Cell} {empties : NatMap Unit} (h : WordLeft s key data empty mem empties) (x : Nat) :
    WordLeft s key (x % 2 ^ 64) empty (storedBytes mem key 8 (x % 2 ^ 64)) empties where
  wf := wf_storedBytes h.wf
  rise := h.rise
  bytes := by
    rw [peek_of_bytes (x := x % 2 ^ 64), show 256 ^ 8 = 2 ^ 64 by norm_num, Nat.mod_mod]
    intro i hi
    rw [read_storedBytes _ h.wf, if_pos (by omega), Nat.add_sub_cancel_left]
  state := h.state
  other a ha := ((read_storedBytes a h.wf).trans (if_neg (by omega))).trans (h.other a ha)
  states := h.states

end Sys2Proof.Machine

/-!
SUPPORT. Full/empty operations at a word of a local store: what the table's operations leave, how a request joins a list, and how a change of state serves the one that waits there (R160-R168).
-/

namespace Sys2Proof.Machine
open Sys2Proof.Claims

/-! ### Full/empty operations at a word without waiters (R164, R165) -/

/-- A request is finished with register writes and gone, its word is left with the given data and state, and no other thread and no list has changed. -/
structure Answered (s : State) (i k op : Nat) (t : Thread) (key : Nat) (ws : List RegWrite) (data : Nat) (empty : Bool) (u : State) : Prop where
  reqs : u.reqs = mapDel i s.reqs
  threads : u.threads = mapPut k (finished op { writes := ws } (roused t)) s.threads
  homes : u.homes = s.homes
  word : WordLeft s key data empty u.mem u.empties

theorem Aside.answered {s x u : State} {i k op key data : Nat} {t : Thread} {ws : List RegWrite} {empty : Bool} (hu : Aside x u) (h : Answered s i k op t key ws data empty x) :
    Answered s i k op t key ws data empty u := by
  obtain ⟨_, _, _, _, rfl⟩ := hu
  exact ⟨h.reqs, h.threads, h.homes, h.word⟩

/-- The state once a filling store has written its word and made it FULL. -/
def filled (s : State) (key data : Nat) : State := (Effect.empty key false).apply { s with mem := storedBytes s.mem key 8 (data % 2 ^ 64) }

theorem WordLeft.filled {s u : State} {key data : Nat} {empty : Bool} (h : WordLeft s key data empty u.mem u.empties) (x : Nat) :
    WordLeft s key (x % 2 ^ 64) false (filled u key x).mem (filled u key x).empties :=
  (h.stored x).marked (u := { u with mem := storedBytes u.mem key 8 (x % 2 ^ 64) }) false

theorem makes_fillFull {r : Req} {s x : State} (hb : s.bad = []) (hwin : inWindow r.va = true) {key : Nat} {rest : Unit → Act Unit} (h : Makes (rest ()) (filled s key r.data) x) :
    Makes (do fillWord r key; emit (.empty key false); rest ()) s x :=
  makes_bind (makes_fillWord hb hwin key) (makes_bind (makes_emit_empty _ key false) h)

section
variable {s : State} {r : Req} {k : Nat} {t : Thread} (hs : s.canonical) (hw : r.who = .thread k) (ht : s.thread? k = some t) (key : Nat) (ws : List RegWrite)
include hs hw ht

theorem ends_complete_answered : Ends (complete r ws) s (fun _ u => Answered s r.id k r.op t key ws (peek s.mem key 8) (isEmptyWord s key) u) :=
  Makes.ends (makes_complete hw ht ws) fun _ hu => hu.answered ⟨rfl, rfl, rfl, .refl hs key⟩

variable {hk : Nat} (hhome : s.home hk = {})
include hhome

theorem ends_consume_answered : Ends (do complete r ws; emit (.empty key true); settle hk key) s (fun _ u => Answered s r.id k r.op t key ws (peek s.mem key 8) true u) :=
  Makes.ends (makes_bind (makes_complete hw ht ws) (makes_bind (makes_emit_empty _ key true) (makes_settle_unlisted hhome))) fun _ hu =>
    hu.answered ⟨rfl, rfl, rfl, (WordLeft.refl hs key).marked true⟩

theorem ends_mark_answered (e : Bool) : Ends (do emit (.empty key e); complete r ws; settle hk key) s (fun _ u => Answered s r.id k r.op t key ws (peek s.mem key 8) e u) :=
  Makes.ends (makes_bind (makes_emit_empty s key e) (makes_bind (makes_complete (s := (Effect.empty key e).apply s) hw ht ws) (makes_settle_unlisted hhome))) fun _ hu =>
    hu.answered ⟨rfl, rfl, rfl, (WordLeft.refl hs key).marked e⟩

theorem ends_fill_answered (hb : s.bad = []) (hwin : inWindow r.va = true) :
    Ends (do fillWord r key; emit (.empty key false); complete r ws; settle hk key) s (fun _ u => Answered s r.id k r.op t key ws (r.data % 2 ^ 64) false u) :=
  Makes.ends (makes_fillFull hb hwin (rest := fun _ => do complete r ws; settle hk key) (makes_bind (makes_complete (s := filled s key r.data) hw ht ws) (makes_settle_unlisted hhome))) fun _ hu =>
    hu.answered ⟨rfl, rfl, rfl, (WordLeft.refl hs key).filled r.data⟩

end

/-- The home has nothing for the word, which holds no error. -/
structure Req.AtFreeWord (r : Req) (s : State) (va : Nat) : Prop extends r.OfLocalWord va where
  sound : s.bad = []
  free : s.hold (storeKey r va) = {}

theorem Req.AtFreeWord.unreserved {s : State} {r : Req} {va : Nat} (h : r.AtFreeWord s va) : reserved s (r.holdKey (storeKey r va)) = false := by
  rw [h.holdKey_eq, reserved, h.free]
  rfl

/-- An operation that the table serves is served at its word. -/
theorem ends_arriveWord_served {s : State} {r : Req} {k va : Nat} {t : Thread} {op : FeOp} {ws : List RegWrite} {data : Option Nat} {empty : Bool} (hs : s.canonical)
    (hask : r.ask = .fullEmpty op) (hl : r.AtFreeWord s va) (hw : r.who = .thread k) (ht : s.thread? k = some t) (hhome : s.home r.homeKey = {})
    (h : served op r.d r.pf (r.data % 2 ^ 64) (isEmptyWord s (storeKey r va)) (mod64 (peek s.mem (storeKey r va) 8)) = some (ws, data, empty)) :
    Ends (arriveWord r (storeKey r va)) s (fun _ u => Answered s r.id k r.op t (storeKey r va) ws (data.getD (peek s.mem (storeKey r va) 8)) empty u) := by
  have hunreserved := hl.unreserved
  have hconsume (ws : List RegWrite) := ends_consume_answered hs hw ht (storeKey r va) ws hhome
  have hfill (ws : List RegWrite) := ends_fill_answered hs hw ht (storeKey r va) ws hhome hl.sound hl.va_window
  refine ends_look_bind ?_
  simp only [hask, hunreserved, Bool.false_eq_true, if_false]
  have hanswer (q : Req) (hq : q.who = .thread k) (ws : List RegWrite) := ends_complete_answered hs hq ht (storeKey r va) ws
  have hfails (ws : List RegWrite) := hanswer { r with ask := .fullEmpty op, acq := false } hw ws
  generalize isEmptyWord s (storeKey r va) = e at h hanswer hfails ⊢
  cases op with
  | ldw =>
    cases e with
    | true => cases h
    | false => cases h; exact hanswer r hw _
  | ldc =>
    cases e with
    | true => cases h
    | false => cases h; exact hconsume _
  | stf =>
    cases e with
    | true => cases h; exact hfill _
    | false => cases h
  | stff => cases h; exact hfill _
  | ldxw =>
    cases e with
    | true => cases h; exact hfails _
    | false => cases h; exact hanswer r hw _
  | ldxc =>
    cases e with
    | true => cases h; exact hfails _
    | false => cases h; exact hconsume _
  | stfx =>
    cases e with
    | true => cases h; exact hfill _
    | false => cases h; exact hanswer r hw _
  | feset => cases h; exact ends_mark_answered hs hw ht (storeKey r va) _ hhome false
  | feclr => cases h; exact ends_mark_answered hs hw ht (storeKey r va) _ hhome true
  | fetest => cases h; exact hanswer r hw _

/-- An operation for which the table has no entry goes on the word's list. -/
theorem ends_arriveWord_waits {s : State} {r : Req} {va : Nat} {op : FeOp} {P : Unit → State → Prop} (hask : r.ask = .fullEmpty op) (hl : r.AtFreeWord s va)
    (h : served op r.d r.pf (r.data % 2 ^ 64) (isEmptyWord s (storeKey r va)) (mod64 (peek s.mem (storeKey r va) 8)) = none) (hP : Ends (enlist r) s P) :
    Ends (arriveWord r (storeKey r va)) s P := by
  have hunreserved := hl.unreserved
  refine ends_look_bind ?_
  simp only [hask, hunreserved, Bool.false_eq_true, if_false]
  generalize isEmptyWord s (storeKey r va) = e at h ⊢
  cases op with
  | ldw | ldc =>
    cases e with
    | true => exact hP
    | false => cases h
  | stf =>
    cases e with
    | true => cases h
    | false => exact hP
  | ldxw | ldxc | stfx => cases e <;> cases h
  | stff | feset | feclr | fetest => cases h

/-! ### A word on whose list one request waits -/

/-- A request joins the list of a word on which none waits, where a hardware entry is free. -/
theorem ends_enlist {s : State} {r : Req} {va : Nat} {P : Unit → State → Prop} (hthere : mapGet r.id s.reqs = some r) (hl : r.OfLocalWord va) (hsent : r.stage = .sent)
    (hhome : s.home r.homeKey = {}) (hroom : (listedAt s r.slice false).length < homeEntries r.slice)
    (hP : P () { s with
      homes := mapPut r.homeKey { list := [r.id] } s.homes
      reqs := mapPut r.id { r with stage := .listed none, arrived := (mapGet r.slice s.arrivals).getD 0, page := (0, 0) } s.reqs
      arrivals := mapPut r.slice ((mapGet r.slice s.arrivals).getD 0 + 1) s.arrivals }) : Ends (enlist r) s P := by
  refine ends_look_bind (ends_bind (ends_look_bind (ends_emit_bind (ends_pure ?_))))
  rw [hhome, hl.usedPage_eq hsent]
  refine ends_if_pos hroom (ends_bind (ends_emit (ends_modReq (s := Effect.apply _ _) hthere ?_)))
  exact hP

theorem mem_mapDel {α : Type} {k : Nat} {e : Nat × α} : ∀ {m : NatMap α}, e ∈ mapDel k m → e ∈ m
  | [], h => h
  | (j, y) :: r, h => by
    unfold mapDel at h
    split at h
    · exact h
    · split at h
      · exact List.mem_cons_of_mem _ h
      · exact (List.mem_cons.mp h).elim (fun h => h ▸ List.mem_cons_self) fun h => List.mem_cons_of_mem _ (mem_mapDel h)

theorem listedAt_withoutReq {s : State} {sl : Nat} {parked : Bool} (i : Nat) (h : listedAt s sl parked = []) : listedAt (s.withoutReq i) sl parked = [] := by
  simp only [listedAt, List.filter_eq_nil_iff, List.mem_map] at h ⊢
  rintro q ⟨e, he, rfl⟩
  exact h _ ⟨e, mem_mapDel he, rfl⟩

/-- The request `q` of the thread `v` waits alone on the list of its word, in a hardware entry, at a home with none parked. -/
structure WaitsAlone (s : State) (j m : Nat) (q : Req) (v : Thread) : Prop where
  there : mapGet j s.reqs = some q
  self : q.id = j
  issuer : q.who = .thread m
  thread : s.thread? m = some v
  stage : q.stage = .listed none
  list : s.home q.homeKey = { list := [j] }
  unparked : listedAt s q.slice true = []

/-- The state once the waiter has left its list, and once its operation is finished. -/
def State.withoutWaiter (s : State) (j : Nat) (q : Req) : State := { s with homes := mapDel q.homeKey s.homes, reqs := mapPut j { q with stage := .sent } s.reqs }
def State.afterServing (s : State) (j m : Nat) (q : Req) (v : Thread) (ws : List RegWrite) : State := { performedWith s j m v q.op ws with homes := mapDel q.homeKey s.homes }

theorem performedWith_withoutWaiter (s : State) (j m : Nat) (q : Req) (v : Thread) (ws : List RegWrite) :
    performedWith (s.withoutWaiter j q) j m v q.op ws = s.afterServing j m q v ws := by
  simp only [performedWith, State.withoutWaiter, State.afterServing, mapDel_mapPut]

theorem performedWith_filled (s : State) (key data j m op : Nat) (v : Thread) (ws : List RegWrite) :
    performedWith (filled s key data) j m v op ws = filled (performedWith s j m v op ws) key data := rfl

section
variable {s : State} {j m : Nat} {q : Req} {v : Thread} (h : WaitsAlone s j m q v)
include h

theorem WaitsAlone.waiters_eq : waiters s q.homeKey = [q] := by
  rw [waiters, h.list]
  simp [h.there]

theorem makes_unlist : Makes (unlist q) s (s.withoutWaiter j q) := by
  rintro _ ⟨_, _, _, _, rfl⟩
  exact ends_unlist h.there h.self h.stage h.list h.unparked ⟨_, _, _, _, rfl⟩

theorem makes_serve (hwin : inWindow q.va = true) (old : Nat) : Makes (serve q old) s (s.afterServing j m q v [.s q.d (mod64 old)]) := by
  have hdone := makes_complete (s := s.withoutWaiter j q) h.issuer h.thread [.s q.d (mod64 old)]
  rw [h.self, performedWith_withoutWaiter] at hdone
  refine makes_bind (makes_unlist h) ?_
  simp only [hwin, if_true, h.issuer]
  exact hdone

theorem makes_fillWaiter (hb : s.bad = []) (hwin : inWindow q.va = true) (key : Nat) {x : State} {rest : Unit → Act Unit}
    (hrest : Makes (rest ()) (filled (s.afterServing j m q v []) key q.data) x) : Makes (do unlist q; fillWord q key; emit (.empty key false); complete q []; rest ()) s x := by
  have hdone := makes_complete (s := filled (s.withoutWaiter j q) key q.data) h.issuer h.thread []
  rw [h.self, performedWith_filled, performedWith_withoutWaiter] at hdone
  exact makes_bind (makes_unlist h) (makes_fillFull (s := s.withoutWaiter j q) (rest := fun _ => do complete q []; rest ()) hb hwin (makes_bind hdone hrest))

end

/-! ### The rounds of R167 -/

section
variable {s u : State} (h : Aside s u)
include h

theorem Aside.mem : u.mem = s.mem := by
  obtain ⟨_, _, _, _, rfl⟩ := h
  rfl

theorem Aside.home (hk : Nat) : u.home hk = s.home hk := by
  obtain ⟨_, _, _, _, rfl⟩ := h
  rfl

theorem Aside.waiters (hk : Nat) : waiters u hk = waiters s hk := by
  obtain ⟨_, _, _, _, rfl⟩ := h
  rfl

theorem Aside.reservedFor (hk w : Nat) : reservedFor u hk w = reservedFor s hk w := by
  obtain ⟨_, _, _, _, rfl⟩ := h
  rfl

theorem Aside.isEmptyWord (w : Nat) : isEmptyWord u w = isEmptyWord s w := by
  obtain ⟨_, _, _, _, rfl⟩ := h
  rfl

end

section
variable {s x : State} {hk w fuel : Nat} {q : Req}

theorem makes_settleLoop_unlisted (h : s.home hk = {}) : Makes (settleLoop hk w fuel) s s := by
  intro u hu
  have hnone : waiters u hk = [] := by rw [waiters, hu.home, h]; rfl
  cases fuel with
  | zero => exact ends_pure hu
  | succ fuel =>
    refine ends_look_bind ?_
    rw [hnone]
    exact ends_ite (ends_pure hu) (ends_ite (ends_pure_bind (ends_pure hu)) (ends_pure hu))

variable (hq : waiters s hk = [q]) (hfree : reservedFor s hk w = false)
include hq hfree

theorem makes_settleLoop_ldw (hfull : isEmptyWord s w = false) (hask : q.ask = .fullEmpty .ldw) (hserve : Makes (serve q (peek s.mem w 8)) s x) : Makes (settleLoop hk w (fuel + 1)) s x := by
  intro u hu
  refine ends_look_bind ?_
  rw [hu.waiters, hu.reservedFor, hu.isEmptyWord, hu.mem, hq, hfree, hfull]
  simp only [Ask.isLdw, Ask.isConsumer, hask, List.filter_cons, List.filter_nil, List.find?_cons, List.find?_nil]
  exact ends_bind (ends_forEach_cons ((hserve u hu).mono fun _ v hv => ends_forEach_nil (ends_pure hv)))

theorem makes_settleLoop_ldc (hfull : isEmptyWord s w = false) (hask : q.ask = .fullEmpty .ldc) (hserve : Makes (serve q (peek s.mem w 8)) s x) (hend : x.home hk = {}) :
    Makes (settleLoop hk w (fuel + 1)) s ((Effect.empty w true).apply x) := by
  have hrest : Makes (do emit (.empty w true); settleLoop hk w fuel) x ((Effect.empty w true).apply x) :=
    makes_bind (makes_emit_empty x w true) (makes_settleLoop_unlisted (s := (Effect.empty w true).apply x) hend)
  intro u hu
  refine ends_look_bind ?_
  rw [hu.waiters, hu.reservedFor, hu.isEmptyWord, hu.mem, hq, hfree, hfull]
  have hno : [q].filter (·.ask.isLdw) = [] := by simp [hask, Ask.isLdw]
  have hfind : [q].find? (fun r => r.ask.isConsumer && r.takeable (peek s.mem w 8)) = some q := by simp [hask, Ask.isConsumer, Req.takeable]
  have hplain : q.ask.isAtomic = false := by rw [hask]; rfl
  simp only [hno, Bool.false_eq_true, if_false, Bool.not_false, if_true]
  refine ends_bind (ends_forEach_nil ?_)
  simp only [hfind, hplain, Bool.false_eq_true, if_false]
  exact makes_bind hserve hrest u hu

theorem makes_settleLoop_stf (hempty : isEmptyWord s w = true) (hask : q.ask = .fullEmpty .stf)
    (hfill : Makes (do unlist q; fillWord q w; emit (.empty w false); complete q []; settleLoop hk w fuel) s x) : Makes (settleLoop hk w (fuel + 1)) s x := by
  intro u hu
  refine ends_look_bind ?_
  rw [hu.waiters, hu.reservedFor, hu.isEmptyWord, hq, hfree, hempty]
  simp only [Ask.isStf, hask, List.find?_cons]
  exact hfill u hu

end

/-! ### An operation whose change of state serves a waiter (R167) -/

theorem reqs_rise {s : State} (hs : s.canonical) : keysRise s.reqs = true := by
  obtain ⟨-, -, -, -, -, -, -, -, -, -, -, -, -, -, -, -, -, h, -⟩ := hs
  exact h

theorem homes_rise {s : State} (hs : s.canonical) : keysRise s.homes = true := by
  obtain ⟨-, -, -, -, -, -, -, -, -, -, -, -, -, -, h, -⟩ := hs
  exact h

theorem holds_rise {s : State} (hs : s.canonical) : keysRise s.holds = true := by
  obtain ⟨-, -, -, -, -, -, -, -, -, -, -, -, -, -, -, -, h, -⟩ := hs
  exact h

theorem makes_settle {s x : State} {hk w : Nat} (h : ∀ fuel, Makes (settleLoop hk w (fuel + 1)) s x) : Makes (settle hk w) s x :=
  fun u hu => ends_look_bind (h _ u hu)

/-- Two operations are finished and gone with the list of their word, which is left with the given data and state, and no other thread has changed. -/
structure BothAnswered (s : State) (r : Req) (k : Nat) (t : Thread) (q : Req) (m : Nat) (v : Thread) (key : Nat) (mine its : List RegWrite) (data : Nat) (empty : Bool) (u : State) : Prop where
  reqs : u.reqs = mapDel q.id (mapDel r.id s.reqs)
  threads : u.threads = mapPut m (finished q.op { writes := its } (roused v)) (mapPut k (finished r.op { writes := mine } (roused t)) s.threads)
  homes : u.homes = mapDel q.homeKey s.homes
  word : WordLeft s key data empty u.mem u.empties

theorem Aside.bothAnswered {s x u : State} {r q : Req} {k m key data : Nat} {t v : Thread} {mine its : List RegWrite} {empty : Bool} (hu : Aside x u)
    (h : BothAnswered s r k t q m v key mine its data empty x) : BothAnswered s r k t q m v key mine its data empty u := by
  obtain ⟨_, _, _, _, rfl⟩ := hu
  exact ⟨h.reqs, h.threads, h.homes, h.word⟩

/-- The state in which the filling store has ended, and the waiter is to be served. -/
def afterFilling (s : State) (r : Req) (k : Nat) (t : Thread) (key : Nat) : State := filled (performedWith s r.id k t r.op []) key r.data

/-- The request `r` of the thread `t` comes to a free word for which the request `q` of another thread `v` waits alone. -/
structure Meets (s : State) (r : Req) (k : Nat) (t : Thread) (q : Req) (m : Nat) (v : Thread) (va : Nat) : Prop where
  canonical : s.canonical
  atWord : r.AtFreeWord s va
  issuer : r.who = .thread k
  thread : s.thread? k = some t
  waits : WaitsAlone s q.id m q v
  sameHome : q.homeKey = r.homeKey
  window : inWindow q.va = true
  otherReq : q.id ≠ r.id
  otherThread : m ≠ k

section
variable {s : State} {r q : Req} {k m va : Nat} {t v : Thread} (h : Meets s r k t q m v va)
include h

/-- The end of the first operation leaves the waiter as it was. -/
theorem Meets.waits_after (ws : List RegWrite) : WaitsAlone (performedWith s r.id k t r.op ws) q.id m q v where
  there := (mapGet_mapDel_other _ _ _ none (reqs_rise h.canonical) h.otherReq).trans h.waits.there
  self := rfl
  issuer := h.waits.issuer
  thread := (mapGet_mapPut_other _ _ _ _ h.otherThread).trans h.waits.thread
  stage := h.waits.stage
  list := h.waits.list
  unparked := listedAt_withoutReq r.id h.waits.unparked

theorem Meets.unreservedFor : reservedFor s r.homeKey (storeKey r va) = false := by
  rw [h.atWord.reservedFor_eq, reserved, h.atWord.free]
  rfl

theorem Meets.home_gone : ({ s with homes := mapDel q.homeKey s.homes } : State).home r.homeKey = {} := by
  rw [State.home, ← h.sameHome, mapGet_mapDel_same _ _ none (homes_rise h.canonical)]
  rfl

theorem ends_arriveWord_fills {x : State} (hask : r.ask = .fullEmpty .stf) (hempty : isEmptyWord s (storeKey r va) = true)
    (hsettle : Makes (settle r.homeKey (storeKey r va)) (afterFilling s r k t (storeKey r va)) x) : Ends (arriveWord r (storeKey r va)) s (fun _ u => Aside x u) := by
  have hunreserved := h.atWord.unreserved
  have hmakes : Makes (do fillWord r (storeKey r va); emit (.empty (storeKey r va) false); complete r []; settle r.homeKey (storeKey r va)) s x :=
    makes_fillFull (rest := fun _ => do complete r []; settle r.homeKey (storeKey r va)) h.atWord.sound h.atWord.va_window
      (makes_bind (makes_complete (s := filled s (storeKey r va) r.data) h.issuer h.thread []) hsettle)
  refine ends_look_bind ?_
  simp only [hask, hunreserved, hempty, Bool.false_eq_true, if_false, Bool.not_true]
  exact hmakes.ends fun _ hu => hu

theorem Meets.filled_word : WordLeft s (storeKey r va) (r.data % 2 ^ 64) false (afterFilling s r k t (storeKey r va)).mem (afterFilling s r k t (storeKey r va)).empties :=
  (WordLeft.refl h.canonical (storeKey r va)).filled r.data

/-- What a load that waited is given is what the store has brought. -/
theorem Meets.serve_filled : Makes (serve q (peek (afterFilling s r k t (storeKey r va)).mem (storeKey r va) 8)) (afterFilling s r k t (storeKey r va))
    ((afterFilling s r k t (storeKey r va)).afterServing q.id m q v [.s q.d (mod64 r.data)]) := by
  have hwait : WaitsAlone (afterFilling s r k t (storeKey r va)) q.id m q v := by
    obtain ⟨hthere, hself, hissuer, hthread, hstage, hlist, hunparked⟩ := h.waits_after []
    exact ⟨hthere, hself, hissuer, hthread, hstage, hlist, hunparked⟩
  have hdata : mod64 (peek (afterFilling s r k t (storeKey r va)).mem (storeKey r va) 8) = mod64 r.data := by
    rw [h.filled_word.bytes]
    exact BitVec.eq_of_toNat_eq (by simp [mod64])
  rw [← hdata]
  exact makes_serve hwait h.window _

theorem Meets.waiters_eq : waiters (afterFilling s r k t (storeKey r va)) r.homeKey = [q] := by
  rw [← h.sameHome]
  exact (h.waits_after []).waiters_eq

theorem ends_stf_serves_ldw (hask : r.ask = .fullEmpty .stf) (hq : q.ask = .fullEmpty .ldw) (hempty : isEmptyWord s (storeKey r va) = true) :
    Ends (arriveWord r (storeKey r va)) s (fun _ u => BothAnswered s r k t q m v (storeKey r va) [] [.s q.d (mod64 r.data)] (r.data % 2 ^ 64) false u) :=
  (ends_arriveWord_fills h hask hempty (makes_settle fun _ => makes_settleLoop_ldw h.waiters_eq h.unreservedFor h.filled_word.state hq h.serve_filled)).mono fun _ _ hu =>
    hu.bothAnswered ⟨rfl, rfl, rfl, h.filled_word⟩

theorem ends_stf_serves_ldc (hask : r.ask = .fullEmpty .stf) (hq : q.ask = .fullEmpty .ldc) (hempty : isEmptyWord s (storeKey r va) = true) :
    Ends (arriveWord r (storeKey r va)) s (fun _ u => BothAnswered s r k t q m v (storeKey r va) [] [.s q.d (mod64 r.data)] (r.data % 2 ^ 64) true u) :=
  (ends_arriveWord_fills h hask hempty (makes_settle fun _ => makes_settleLoop_ldc h.waiters_eq h.unreservedFor h.filled_word.state hq h.serve_filled h.home_gone)).mono fun _ _ hu =>
    hu.bothAnswered ⟨rfl, rfl, rfl, h.filled_word.marked true⟩

theorem ends_ldc_serves_stf (hask : r.ask = .fullEmpty .ldc) (hq : q.ask = .fullEmpty .stf) (hfull : isEmptyWord s (storeKey r va) = false) :
    Ends (arriveWord r (storeKey r va)) s (fun _ u =>
      BothAnswered s r k t q m v (storeKey r va) [.s r.d (mod64 (peek s.mem (storeKey r va) 8))] [] (q.data % 2 ^ 64) false u) := by
  have hunreserved := h.atWord.unreserved
  set mine : List RegWrite := [.s r.d (mod64 (peek s.mem (storeKey r va) 8))]
  set x : State := (Effect.empty (storeKey r va) true).apply (performedWith s r.id k t r.op mine)
  have hword : WordLeft s (storeKey r va) (peek s.mem (storeKey r va) 8) true x.mem x.empties := (WordLeft.refl h.canonical (storeKey r va)).marked true
  have hwait : WaitsAlone x q.id m q v := by
    obtain ⟨hthere, hself, hissuer, hthread, hstage, hlist, hunparked⟩ := h.waits_after mine
    exact ⟨hthere, hself, hissuer, hthread, hstage, hlist, hunparked⟩
  have hwaiters : waiters x r.homeKey = [q] := by
    rw [← h.sameHome]
    exact hwait.waiters_eq
  have hloop (fuel : Nat) : Makes (settleLoop r.homeKey (storeKey r va) (fuel + 1)) x (filled (x.afterServing q.id m q v []) (storeKey r va) q.data) :=
    makes_settleLoop_stf hwaiters h.unreservedFor hword.state hq
      (makes_fillWaiter hwait h.atWord.sound h.window (storeKey r va) (rest := fun _ => settleLoop r.homeKey (storeKey r va) fuel)
        (makes_settleLoop_unlisted (s := filled (x.afterServing q.id m q v []) (storeKey r va) q.data) h.home_gone))
  have hmakes : Makes (do complete r mine; emit (.empty (storeKey r va) true); settle r.homeKey (storeKey r va)) s (filled (x.afterServing q.id m q v []) (storeKey r va) q.data) :=
    makes_bind (makes_complete h.issuer h.thread mine) (makes_bind (makes_emit_empty _ (storeKey r va) true) (makes_settle hloop))
  refine ends_look_bind ?_
  simp only [hask, hunreserved, hfull, Bool.false_eq_true, if_false, Bool.not_false, if_true]
  exact hmakes.ends fun _ hu => hu.bothAnswered ⟨rfl, rfl, rfl, WordLeft.filled (u := x.afterServing q.id m q v []) hword q.data⟩

end

end Sys2Proof.Machine

/-!
SUPPORT. The take and the put of an atomic at a word of a local store (R174-R176).
-/

namespace Sys2Proof.Machine
open Sys2Proof.Claims

/-- An unordered atomic takes a FULL word that is free. -/
theorem ends_arriveWord_takes {s : State} {r : Req} {va : Nat} {op : AmoOp} {P : Unit → State → Prop} (hthere : mapGet r.id s.reqs = some r) (hask : r.ask = .atomic op) (hop : unordered op)
    (hsent : r.stage = .sent) (hl : r.AtFreeWord s va) (hfull : isEmptyWord s (storeKey r va) = false)
    (hP : P () { s with
      holds := mapPut (storeKey r va) { resv := some r.id } s.holds
      reqs := mapPut r.id { r with stage := .taken (mod64 (peek s.mem (storeKey r va) 8)) (storeKey r va), page := (0, 0) } s.reqs }) :
    Ends (arriveWord r (storeKey r va)) s P := by
  have hunreserved := hl.unreserved
  have hordered : op.ordered = false := by
    obtain ⟨hadd, hfadd⟩ := hop
    cases op with
    | ordAdd => exact absurd rfl hadd
    | ordFadd => exact absurd rfl hfadd
    | _ => rfl
  have htake : Ends (take r (storeKey r va) (peek s.mem (storeKey r va) 8)) s P := by
    refine ends_look_bind ?_
    rw [hl.holdKey_eq, hl.free, hl.usedPage_eq hsent]
    exact ends_bind (ends_emit (ends_modReq (s := { s with holds := mapPut (storeKey r va) { resv := some r.id } s.holds }) hthere hP))
  refine ends_look_bind ?_
  simp only [hask, hordered, hunreserved, hfull, Bool.false_eq_true, if_false, Bool.not_false, if_true]
  exact htake

/-! ### The put -/

/-- The integer atomics set no flag, and put what R175 says. -/
theorem amoNew_putWord {op : AmoOp} {old new cmp : Word} {data va : Nat} {mode : BitVec 2} (h : putWord op old (mod64 data) cmp = some new) :
    (amoNew op old.toNat data cmp va mode).1 = new.toNat ∧ op.flags = false := by
  have hold : BitVec.ofNat 64 old.toNat = old := by simp
  have hmax (x y : Word) : minMax true false x y = if x.toInt ≤ y.toInt then y else x := by
    rw [minMax_max_signed, max_def]
    split <;> exact BitVec.ofInt_toInt
  have hmaxn (x y : Word) : minMax true true x y = if x.toNat ≤ y.toNat then y else x := by
    rw [minMax_max_unsigned, max_def]
    split <;> simp
  cases op with
  | add | and | or | xor | swap | cas => cases h; exact ⟨by simp only [amoNew, hold, mod64], rfl⟩
  | min => cases h; exact ⟨by simp only [amoNew, hold, mod64, minMax_eq_lesser_signed]; rfl, rfl⟩
  | minn => cases h; exact ⟨by simp only [amoNew, hold, mod64, minMax_eq_lesser_unsigned]; rfl, rfl⟩
  | max => cases h; exact ⟨by simp only [amoNew, hold, mod64, hmax]; rfl, rfl⟩
  | maxn => cases h; exact ⟨by simp only [amoNew, hold, mod64, hmaxn]; rfl, rfl⟩
  | _ => cases h

theorem locate_onTile {s : State} {hk : Nat} (h : onTile hk = true) : locate s hk = hk := if_pos h

theorem onTile_storeKey {r : Req} {va : Nat} (hcore : r.core < 8192) (hwin : inWindow va = true) : onTile (storeKey r va) = true := by
  have htile : r.tile < 2048 := Nat.div_lt_of_lt_mul hcore
  have hva : va < 2 ^ 56 := by
    obtain ⟨-, hva⟩ := Bool.and_eq_true_iff.mp hwin
    exact of_decide_eq_true hva
  have hlow : 2 ^ 49 ≤ storeKey r va := by
    rw [storeKey, localKey]
    omega
  have hhigh : storeKey r va < 2 ^ 58 := by
    rw [storeKey, localKey, windowBase]
    omega
  rw [onTile, decide_eq_true hlow, decide_eq_true hhigh, Bool.and_self]

section
variable {s u : State} (h : Aside s u)
include h

theorem Aside.hold (n : Nat) : u.hold n = s.hold n := by
  obtain ⟨_, _, _, _, rfl⟩ := h
  rfl

theorem Aside.dies : u.dies = s.dies := by
  obtain ⟨_, _, _, _, rfl⟩ := h
  rfl

theorem Aside.bufferedAt (slice : Nat) : bufferedAt u slice = bufferedAt s slice := by
  obtain ⟨_, _, _, _, rfl⟩ := h
  rfl

/-- What is kept for a word is kept no more. -/
theorem Aside.released (rk : Nat) : Aside { s with holds := mapDel rk s.holds } ((Effect.hold rk none).apply u) := by
  obtain ⟨_, _, _, _, rfl⟩ := h
  exact ⟨_, _, _, _, rfl⟩

end

theorem ends_putHold_none {s : State} {n : Nat} {P : Unit → State → Prop} (h : P () ((Effect.hold n none).apply s)) : Ends (putHold n {}) s P := ends_emit h

theorem makes_forEach_nil {α : Type} (f : α → Act Unit) (s : State) : Makes (forEach [] f) s s := fun _ hu => ends_forEach_nil hu

theorem makes_presentHeld_none {s : State} {rk : Nat} (h : s.hold rk = {}) : Makes (presentHeld rk) s { s with holds := mapDel rk s.holds } := by
  intro u hu
  refine ends_look_bind ?_
  rw [hu.hold, h]
  exact ends_bind (ends_putHold_none (ends_forEach_nil (hu.released rk)))

theorem makes_pumpAll_unowed {s : State} (h : ∀ d ∈ s.dies, d.2.owed = []) : Makes pumpAll s s := by
  intro u hu
  have hnone : s.dies.filter (fun d => !d.2.owed.isEmpty) = [] := List.filter_eq_nil_iff.mpr fun d hd => by simp [h d hd]
  refine ends_look_bind ?_
  rw [hu.dies, hnone]
  exact ends_forEach_nil hu

/-- Once an atomic that nothing waits for has put its word, its reservation ends. -/
theorem makes_afterPut {s : State} {r : Req} {rk i : Nat} (w : Nat) (hrise : keysRise s.holds = true) (hhold : s.hold rk = { resv := some i }) (hbuffered : bufferedAt s r.slice = [])
    (hhome : s.home r.homeKey = {}) (howed : ∀ d ∈ s.dies, d.2.owed = []) : Makes (afterPut r rk w) s { s with holds := mapDel rk (mapDel rk s.holds) } := by
  have hgone : ({ s with holds := mapDel rk s.holds } : State).hold rk = {} := by
    rw [State.hold, mapGet_mapDel_same _ _ none hrise]
    rfl
  have hrest (f : Nat → Act Unit) (again : Req → Act Unit) : Makes (do forEach [] again; presentHeld rk; settle r.homeKey w; forEach [] f; pumpAll) { s with holds := mapDel rk s.holds }
      { s with holds := mapDel rk (mapDel rk s.holds) } :=
    makes_bind (makes_forEach_nil again _) (makes_bind (makes_presentHeld_none hgone) (makes_bind (makes_settle_unlisted (s := { s with holds := mapDel rk (mapDel rk s.holds) }) hhome)
      (makes_bind (makes_forEach_nil f _) (makes_pumpAll_unowed howed))))
  intro u hu
  have hnone : bufferedAt ((Effect.hold rk none).apply u) r.slice = [] := ((hu.released rk).bufferedAt _).trans hbuffered
  refine ends_look_bind ?_
  rw [hu.hold, hhold]
  refine ends_bind (ends_putHold_none (ends_look_bind ?_))
  simp only [hnone, List.filter_nil, oldest, List.foldl_nil]
  exact hrest _ _ _ (hu.released rk)

/-- What the put of an atomic leaves: its word with the new value, its operation with the value taken, and no reservation. -/
def State.put (s : State) (r : Req) (k : Nat) (t : Thread) (rk : Nat) (old : Word) (new : Nat) : State :=
  { performedWith { s with mem := storedBytes s.mem rk 8 new } r.id k t r.op [.s r.d old] with holds := mapDel rk (mapDel rk s.holds) }

theorem bufferedAt_withoutReq {s : State} {slice : Nat} (i : Nat) (h : bufferedAt s slice = []) : bufferedAt (s.withoutReq i) slice = [] := by
  simp only [bufferedAt, List.filter_eq_nil_iff, List.mem_map] at h ⊢
  rintro q ⟨e, he, rfl⟩
  exact h _ ⟨e, mem_mapDel he, rfl⟩

theorem put_next {s : State} {r : Req} {k rk : Nat} {t : Thread} {op : AmoOp} {old new : Word} (hs : s.canonical) (hthere : mapGet r.id s.reqs = some r) (hin : s.input = .one r.id)
    (hw : r.who = .thread k) (ht : s.thread? k = some t) (hask : r.ask = .atomic op) (hstage : r.stage = .taken old rk) (hwin : inWindow r.va = true) (htile : onTile rk = true)
    (hb : s.bad = []) (hhold : s.hold rk = { resv := some r.id }) (hbuffered : bufferedAt s r.slice = []) (hhome : s.home r.homeKey = {}) (howed : ∀ d ∈ s.dies, d.2.owed = [])
    (hput : putWord op old (mod64 r.data) r.cmp = some new) : ∃ u, exec .put s = .next u ∧ Aside (s.put r k t rk old new.toNat) u := by
  obtain ⟨hnew, hflags⟩ := amoNew_putWord (va := r.va) (mode := r.rmode) hput
  have hrise := holds_rise hs
  have hrest : Makes (do complete r ([.s r.d old] ++ []); afterPut r rk rk) { s with mem := storedBytes s.mem rk 8 new.toNat } (s.put r k t rk old new.toNat) :=
    makes_bind (makes_complete (s := { s with mem := storedBytes s.mem rk 8 new.toNat }) hw ht [.s r.d old])
      (makes_afterPut (s := performedWith { s with mem := storedBytes s.mem rk 8 new.toNat } r.id k t r.op [.s r.d old]) rk hrise hhold (bufferedAt_withoutReq r.id hbuffered)
        hhome howed)
  refine commit_next ?_
  rw [hin]
  refine ends_bind (ends_needReq hthere ?_)
  simp only [hstage, hask]
  rw [locate_onTile htile, hnew, hflags]
  refine ends_bind ((makes_poke hb rk 8 new.toNat s (.refl s)).mono fun _ u hu => ?_)
  simp only [hwin, if_true, Bool.false_eq_true, if_false]
  exact hrest u hu

end Sys2Proof.Machine

/-!
CERTIFICATES. Full/empty operations and atomics at a word of a local store (R160-R167, R170, R174-R176).
-/

namespace Sys2Proof.Claims
open Sys2Proof.Machine

/-- A full/empty operation or an atomic arrives at its word. -/
theorem requestArrival_atWord {s : State} {i k va : Nat} {r : Req} {t : Thread} {P : State → Prop} (h : Ready s i r k t) (hin : s.input = .one i) (hsent : r.stage = .sent) (hparts : r.parts = [])
    (hfirst : ownEarlier s r r.spans = false) (hask : (∃ op, r.ask = .fullEmpty op) ∨ ∃ op, r.ask = .atomic op) (hl : r.AtFreeWord s va)
    (hP : Ends (arriveWord r (storeKey r va)) s (fun _ u => P u)) : ∃ u, exec .requestArrival s = .next u ∧ P u := by
  refine requestArrival_next h hin hsent hparts hfirst ?_ (ends_bind (ends_due rfl ?_))
  · rintro ctx a hr
    rcases hask with ⟨op, hop⟩ | ⟨op, hop⟩ <;> simp [hr] at hop
  · rcases hask with ⟨op, hop⟩ | ⟨op, hop⟩
    all_goals
      simp only [hop, arrive]
      exact ends_reachWord_window hl.toOfLocalWord hl.sound hP

/-- Settles O42: the table names the branch of the operation's rule; a waiter is served in the round of R167 that its own operation takes. -/
theorem fullEmptyArrives : Obligations.FullEmptyArrives := by
  intro s i r k t va op hs h hask hspans hwin hva hb key hfree
  obtain rfl := h.self
  have hl : r.AtFreeWord s va := ⟨⟨hspans, hwin, hva⟩, hb, hfree⟩
  have harrives {P : State → Prop} : Ends (arriveWord r key) s (fun _ u => P u) → ∃ u, exec .requestArrival s = .next u ∧ P u :=
    requestArrival_atWord h.toReady h.input h.sent h.whole h.first (.inl ⟨op, hask⟩) hl
  refine ⟨fun hhome => ?_, fun j m q v hji hmk hhome hq hqid hqwho hv hqstage hctx hcore hqspans hunparked => ?_⟩
  · split
    next ws data empty hserved =>
      obtain ⟨u, hu, hreqs, hthreads, hhomes, hword⟩ := harrives (ends_arriveWord_served hs hask hl h.issuer h.thread hhome hserved)
      refine ⟨u, hu, hreqs, ?_, hword.bytes, hword.state, hword.other, hword.states, hhomes, fun j hj => ?_⟩
      · rw [State.thread?, hthreads, mapGet_mapPut_same]
      · rw [State.thread?, hthreads, mapGet_mapPut_other _ _ _ _ hj, State.thread?]
    next hserved =>
      intro hroom
      obtain ⟨u, hu, rfl⟩ := harrives (ends_arriveWord_waits hask hl hserved (ends_enlist h.there hl.toOfLocalWord h.sent hhome hroom rfl))
      exact hu
  · subst hqid
    intro word both
    have htile : q.tile = r.tile := by rw [Req.tile, Req.tile, hcore]
    have hqva : q.va = r.va := by rw [Req.va, Req.va, hqspans]
    have hkey : q.homeKey = r.homeKey := by rw [Req.homeKey, Req.homeKey, hctx, htile, hqva]
    have hslice : q.slice = r.slice := by rw [Req.slice, Req.slice, htile, hqva]
    have hmeets : Meets s r k t q m v va := ⟨hs, hl, h.issuer, h.thread, ⟨hq, rfl, hqwho, hv, hqstage, hkey ▸ hhome, hslice ▸ hunparked⟩, hkey, hqva ▸ hl.va_window, hji, hmk⟩
    have hboth {mine its : List RegWrite} {data : Nat} {empty : Bool} (hends : Ends (arriveWord r key) s (fun _ u => BothAnswered s r k t q m v key mine its data empty u)) :
        both mine its data empty := by
      obtain ⟨u, hu, hreqs, hthreads, hhomes, hword⟩ := harrives hends
      refine ⟨u, hu, hreqs, ?_, ?_, ?_, fun x hxk hxm => ?_, hword.bytes, hword.state, hword.other, hword.states⟩
      · rw [State.home, hhomes, hkey, mapGet_mapDel_same _ _ none (homes_rise hs)]
        rfl
      · rw [State.thread?, hthreads, mapGet_mapPut_other _ _ _ _ hmk.symm, mapGet_mapPut_same]
      · rw [State.thread?, hthreads, mapGet_mapPut_same]
      · rw [State.thread?, hthreads, mapGet_mapPut_other _ _ _ _ hxm, mapGet_mapPut_other _ _ _ _ hxk, State.thread?]
    refine ⟨?_, ?_, ?_⟩
    · rintro rfl hempty hqask
      exact hboth (ends_stf_serves_ldw hmeets hask hqask hempty)
    · rintro rfl hempty hqask
      exact hboth (ends_stf_serves_ldc hmeets hask hqask hempty)
    · rintro rfl hfull hqask
      exact hboth (ends_ldc_serves_stf hmeets hask hqask hfull)

/-- Settles O43: the take is the arrival of the request at its word, and the put ends with a home that has nobody to serve. -/
theorem atomicsTakeAndPut : Obligations.AtomicsTakeAndPut := by
  intro s i r k t va op hs hthere hself hissuer hin hthread hsettled hcore hask hop hparts hspans hwin hva hb key old
  subst hself
  have hword : r.OfLocalWord va := ⟨hspans, hwin, hva⟩
  refine ⟨fun hsent hready hfirst hfree hfull => ?_, fun x new hstage hhold hhome hbuffered howed hput => ?_⟩
  · have hl : r.AtFreeWord s va := ⟨hword, hb, hfree⟩
    obtain ⟨u, hu, rfl⟩ := requestArrival_atWord ⟨hthere, rfl, hissuer, hready, hcore, hthread, hsettled⟩ hin hsent hparts hfirst (.inr ⟨op, hask⟩) hl
      (ends_arriveWord_takes hthere hask hop hsent hl hfull rfl)
    exact hu
  · obtain ⟨u, hu, _, _, _, _, rfl⟩ := put_next hs hthere hin hissuer hthread hask hstage hword.va_window (onTile_storeKey hcore hwin) hb hhold hbuffered hhome howed hput
    have hstored := (WordLeft.refl hs key).stored new.toNat
    rw [Nat.mod_eq_of_lt new.isLt] at hstored
    refine ⟨_, hu, hstored.bytes, hstored.other, rfl, ?_, rfl, rfl, mapGet_mapPut_same ..⟩
    have hgone : mapGet key (mapDel key (mapDel key s.holds)) = none := mapGet_mapDel_same _ _ none (keysRise_mapDel _ _ (holds_rise hs))
    exact congrArg (fun x : Option Hold => x.getD {}) hgone

end Sys2Proof.Claims

/-!
SUPPORT. The commands that instructions give the engines of a tile (R200-R203, R225, R229-R237, R242): the checks of a command in their order, and what pushing it leaves.
-/

namespace Sys2Proof.Machine
open Sys2Proof.Claims

/-! ### Checks that pass -/

/-- An action that finishes and leaves the state as it is. -/
def Passes (a : Act Unit) (v : State) : Prop := Ends a v (fun _ u => u = v)

theorem Passes.then {α : Type} {a : Act Unit} {f : Unit → Act α} {v : State} {P : α → State → Prop} (h : Passes a v) (hf : Ends (f ()) v P) : Ends (a >>= f) v P :=
  ends_bind (h.mono fun _ _ hu => hu ▸ hf)

theorem Passes.stops {α : Type} {a : Act Unit} {f : Unit → Act α} {v : State} {w : Stop} (h : Passes a v) (hf : StopsWith (f ()) v w) : StopsWith (a >>= f) v w :=
  stops_after (h.mono fun _ _ hu => hu ▸ hf)

theorem stops_if_neg {α : Type} {p : Prop} [Decidable p] {a b : Act α} {v : State} {w : Stop} (hp : ¬ p) (h : StopsWith b v w) : StopsWith (if p then a else b) v w := by
  rwa [if_neg hp]

theorem passes_pure {v : State} : Passes (pure ()) v := ends_pure rfl

theorem passes_ite {p : Prop} [Decidable p] {a : Act Unit} {v : State} (h : p → Passes a v) : Passes (if p then a else pure ()) v := by
  by_cases hp : p
  · exact ends_if_pos hp (h hp)
  · exact ends_if_neg hp passes_pure

theorem passes_require {ok : Bool} {c : Cause} {x : Word} {v : State} (h : ok = true) : Passes (require ok c x) v := ends_require h rfl

theorem passes_needAligned {x : Word} {n : Nat} {v : State} (h : x.toNat % n = 0) : Passes (needAligned x n) v := passes_require (decide_eq_true h)

theorem passes_forEach {α : Type} {l : List α} {f : α → Act Unit} {v : State} (h : ∀ x ∈ l, Passes (f x) v) : Passes (forEach l f) v := ends_forEach_checks h rfl

theorem passes_addresses {l : List Word} {v : State} (h : ∀ x ∈ l, x.toNat < 2 ^ 56) : Passes (forEach l needCanonical) v :=
  passes_forEach fun x hx => ends_needCanonical (h x hx) rfl

/-! ### The rule of a command -/

/-- The array's holder is looked at for a command of the array alone (R201, R225). -/
def needEngine (e k : Nat) (t : Thread) : Act Unit := if e = 2 then needArray k t else pure ()

/-- A command of the array makes its context the holder (R201). -/
def takeEngine (e k : Nat) (t : Thread) : Act Unit := if e = 2 then takeArray k t else pure ()

/-- What a command does once it has room: its operation opens, and it goes to the end of its FIFO with what it captures (R33, R76, R202, R225). -/
def pushCommand (k : Nat) (t : Thread) (c : Command) (also : Act Unit) : Act Flow := do
  let op ← openOp k c.dest c.extra c.la
  takeEngine c.engine k t
  also
  pushCmd k c.engine { captureCmd (← look) k t c.work op c.d c.a c.b with untimed := c.untimed }
  return .seq

/-- The rule that every command follows: canonical addresses, the role core, the holder of the array, the command's own checks, room, and the push (R144, R200-R202, R225). -/
def commandBody (k : Nat) (t : Thread) (c : Command) (addresses checks also : Act Unit) : Act Flow := do
  addresses
  needRole k c.engine
  needEngine c.engine k t
  checks
  needRoom k c.engine
  pushCommand k t c also

/-- What a command does beside in the current thread: `g`, which leaves alone what its accesses wait for. -/
def AlsoDoes (s : State) (also : Act Unit) (g : Thread → Thread) : Prop :=
  (∀ u, (g u).after = u.after) ∧ ∀ (n : Nat) (T : NatMap Tile) (w : Thread) (P : Unit → State → Prop),
    P () (State.withShared { s with nextId := n } T s.cores (g w)) → Ends also (State.withShared { s with nextId := n } T s.cores w) P

theorem alsoDoes_nothing (s : State) : AlsoDoes s (pure ()) id := ⟨fun _ => rfl, fun _ _ _ _ hP => ends_pure hP⟩

theorem alsoDoes_modThread (s : State) {g : Thread → Thread} (hg : ∀ u, (g u).after = u.after) : AlsoDoes s (modThread s.cur g) g :=
  ⟨hg, fun n _ _ _ hP => ends_modCur_shared (s := { s with nextId := n }) hP⟩

/-- In this state the instruction gives the engine the command `c`, by a rule whose checks, other than of its core, its engine's holder and its room, all pass. -/
structure GivesCommand (s : State) (t : Thread) (i : Instr) (c : Command) (f : Form) (body : Nat → Thread → Act Flow) (addresses checks also : Act Unit) : Prop where
  exec_eq : exec i s = issue f body s
  body_eq : body s.cur (t.issuing s) = commandBody s.cur (t.issuing s) c addresses checks also
  guard : f.guard = c.guard
  uses : f.uses t = c.uses
  vectors : f.vectors = []
  short : f.short = false
  core3 : f.core3 = false
  len : f.len = 4
  addresses : Passes addresses (s.withCurrent (t.issuing s))
  checks : Passes checks (s.withCurrent (t.issuing s))
  also : AlsoDoes s also c.also

/-! ### The push -/

/-- The current thread's tile stands as `x` among the tiles `T`, with its commands as before, and the other tiles as before. -/
structure TileIs (s : State) (T : NatMap Tile) (x : Tile) : Prop where
  tile : (mapGet (tileOf s.cur) T).getD {} = x
  put : ∀ y, mapPut (tileOf s.cur) y T = mapPut (tileOf s.cur) y s.tiles
  waits : SameWaits s { s with tiles := T }

theorem tileIs_self (s : State) : TileIs s s.tiles (s.tile (tileOf s.cur)) := ⟨rfl, fun _ => rfl, .refl s⟩

theorem tileIs_put {s : State} {x : Tile} (hx : x.array.fifo = (s.tile (tileOf s.cur)).array.fifo) : TileIs s (mapPut (tileOf s.cur) x s.tiles) x where
  tile := withTile_tile s (tileOf s.cur) x
  put y := by rw [mapPut_mapPut]
  waits := sameWaits_of_tile rfl rfl rfl hx

/-- The tile as a command of an engine finds it when it is pushed: a context that commands the array holds it (R201). -/
def heldFor (e ctx : Nat) (x : Tile) : Tile := if e = 2 then { x with array := { x.array with holder := some ctx } } else x

theorem engineQ_heldFor (e ctx : Nat) (x : Tile) : engineQ (heldFor e ctx x) e = engineQ x e := by
  by_cases he : e = 2
  · subst he
    rfl
  · rw [heldFor, if_neg he]

section
variable {s : State} {t : Thread} {T : NatMap Tile} {x : Tile}

/-- What a command captures of its thread and its core is the same after its own operation has opened and its context has taken the array (R33, R76). -/
theorem captureCmd_shared {n : Nat} {w : Thread} (ht : s.thread? s.cur = some t) (hT : TileIs s T x) (hw : w.after = t.after)
    (work : EngineWork) (op : Nat) (d : BitVec 4) (a b : Word) :
    captureCmd (State.withShared { s with nextId := n } T s.cores w) s.cur (t.issuing s) work op d a b = captureCmd s s.cur t work op d a b := by
  set v := State.withShared { s with nextId := n } T s.cores w
  have hwaits : SameWaits s v := hT.waits.trans (sameWaits_of_eq rfl rfl rfl)
  have hthread : v.thread? s.cur = some w := withCurrent_thread s w
  have hreleases : releaseSet v s.cur = releaseSet s s.cur := by
    simp only [releaseSet, ownAccesses, hwaits.ownReqs, hthread, ht, hw, hwaits.outstanding]
  unfold captureCmd
  rw [hreleases]
  rfl

theorem ends_takeEngine {e n : Nat} {w : Thread} {P : Unit → State → Prop}
    (hP : ∀ T, TileIs s T (heldFor e t.ctx (s.tile (tileOf s.cur))) → P () (State.withShared { s with nextId := n } T s.cores w)) :
    Ends (takeEngine e s.cur (t.issuing s)) (State.withCurrent { s with nextId := n } w) P := by
  unfold takeEngine
  unfold heldFor at hP
  split at hP
  · next he => exact ends_if_pos he (ends_modTile (hP _ (tileIs_put rfl)))
  · next he => exact ends_if_neg he (ends_pure (hP _ (tileIs_self s)))

theorem ends_pushCmd {e n : Nat} {w : Thread} {c : EngineCmd} {P : Unit → State → Prop} (hT : TileIs s T x)
    (hP : P () (State.withShared { s with nextId := n } (mapPut (tileOf s.cur) (setEngineQ e (engineQ x e ++ [c]) x) s.tiles) s.cores
      (breaks (c.untimed || (engineQ x e).any (·.untimed)) w))) :
    Ends (pushCmd s.cur e c) (State.withShared { s with nextId := n } T s.cores w) P := by
  have htile (v : Thread) : (State.withShared { s with nextId := n } T s.cores v).tile (tileOf s.cur) = x := hT.tile
  have hthread (v : Thread) : (State.withShared { s with nextId := n } T s.cores w).withThread s.cur v = State.withShared { s with nextId := n } T s.cores v := by
    simp only [State.withShared, State.withCurrent, State.withThread, mapPut_mapPut]
  refine ends_look_bind ?_
  rw [htile]
  refine ends_ite_do (ends_breaks (s := State.withShared { s with nextId := n } T s.cores w) (withCurrent_thread { s with nextId := n } w) ?_)
  rw [hthread]
  refine ends_modTile ?_
  rw [htile]
  rw [← hT.put] at hP
  exact hP

/-- The push leaves the operation open, the array held for a command of the array, the command at the end of its FIFO, and the PC past the instruction (R33, R76, R201, R202, R277). -/
theorem ends_pushCommand {c : Command} {f : Form} {also : Act Unit} (ht : s.thread? s.cur = some t) (hlen : f.len = 4) (halso : AlsoDoes s also c.also) :
    let held := heldFor c.engine t.ctx (s.tile (tileOf s.cur))
    let q := engineQ (s.tile (tileOf s.cur)) c.engine
    Ends (pushCommand s.cur (t.issuing s) c also) (s.withCurrent (t.issuing s)) (fun flow v => afterFlow f s flow v =
      { s.ran t 4 (fun u => breaks (c.untimed || q.any (·.untimed)) (c.also (opened s c.dest c.extra c.la u))) with
        tiles := mapPut (tileOf s.cur) (setEngineQ c.engine (q ++ [{ captureCmd s s.cur t c.work s.nextId c.d c.a c.b with untimed := c.untimed }]) held) s.tiles
        nextId := s.nextId + 1 }) := by
  intro held q
  have hq : engineQ held c.engine = q := engineQ_heldFor ..
  refine ends_bind (ends_openOp (ends_bind (ends_takeEngine fun T hT => ends_bind (halso.2 _ _ _ _ (ends_look_bind ?_)))))
  rw [captureCmd_shared (w := c.also (opened s c.dest c.extra c.la (t.issuing s))) ht hT (halso.1 _)]
  refine ends_bind (ends_pushCmd hT (ends_pure ?_))
  rw [hq, ← hlen]
  exact afterFlow_seq_shared f { s with nextId := s.nextId + 1 } ..

end

/-! ### What a command does at its issue -/

section
variable {s : State} {t : Thread} {i : Instr} {c : Command} {f : Form} {body : Nat → Thread → Act Flow} {addresses checks also : Act Unit}

theorem passes_needRole {k e : Nat} {v : State} (h : roleOf k = e ∧ isRunner k = false) : Passes (needRole k e) v := passes_require (by simp [h])

theorem passes_needEngine {e : Nat} (h : e = 2 → arrayOpen s t.ctx) : Passes (needEngine e s.cur (t.issuing s)) (s.withCurrent (t.issuing s)) := by
  by_cases he : e = 2
  · refine ends_if_pos he (ends_look_bind ?_)
    obtain hfree | hown := h he
    · rw [show ((s.withCurrent (t.issuing s)).tile (tileOf s.cur)).array.holder = none from hfree]
      exact passes_pure
    · rw [show ((s.withCurrent (t.issuing s)).tile (tileOf s.cur)).array.holder = some t.ctx from hown]
      exact passes_require (decide_eq_true rfl)
  · exact ends_if_neg he passes_pure

namespace GivesCommand

theorem legal (h : GivesCommand s t i c f body addresses checks also) : vectorsLegal f t ∧ (f.core3 = true → roleOf s.cur = 3) :=
  ⟨vectorsLegal_none h.vectors h.short, fun h3 => absurd h3 (by simp [h.core3])⟩

theorem canIssue (h : GivesCommand s t i c f body addresses checks also) (hc : CanIssue s t c.guard c.uses) : CanIssue s t f.guard (f.uses t) := by
  rwa [h.guard, h.uses]

/-- A command that its rule stops with a precise trap enters the trap. -/
theorem traps {r : TrapReq} (h : GivesCommand s t i c f body addresses checks also) (hc : CanIssue s t c.guard c.uses)
    (hb : StopsWith (commandBody s.cur (t.issuing s) c addresses checks also) (s.withCurrent (t.issuing s)) (.trap r)) :
    exec i s = commit "TRAP_ENTRY" (enterTrap s.cur r false) s := by
  rw [h.exec_eq]
  exact issue_trap (h.canIssue hc) h.legal.1 h.legal.2 (h.body_eq ▸ hb)

/-- On another core or in the runner slot it traps PROTECTION (R200, R225). -/
theorem misplaced (h : GivesCommand s t i c f body addresses checks also) (hc : CanIssue s t c.guard c.uses) (hplace : ¬ (roleOf s.cur = c.engine ∧ isRunner s.cur = false)) :
    Traps s t .protection 0 (exec i s) :=
  h.traps hc (h.addresses.stops (stops_require (by simpa using hplace)))

/-- While another context holds the array it traps PROTECTION (R201). -/
theorem excluded (h : GivesCommand s t i c f body addresses checks also) (hc : CanIssue s t c.guard c.uses) (hplace : roleOf s.cur = c.engine ∧ isRunner s.cur = false)
    (he : c.engine = 2) (hheld : ¬ arrayOpen s t.ctx) : Traps s t .protection 0 (exec i s) := by
  refine h.traps hc (h.addresses.stops ((passes_needRole hplace).stops (stops_bind ?_)))
  refine stops_if_pos he (stops_after (ends_look ?_))
  cases hholder : (s.tile (tileOf s.cur)).array.holder with
  | none => exact absurd (.inl hholder) hheld
  | some x =>
    have hx : x ≠ t.ctx := fun hx => hheld (.inr (hx ▸ hholder))
    rw [show ((s.withCurrent (t.issuing s)).tile (tileOf s.cur)).array.holder = some x from hholder]
    change StopsWith (require (decide (x = t.ctx)) .protection 0) _ _
    rw [decide_eq_false hx]
    exact stops_raise (t := t.issuing s) (withCurrent_thread s _)

/-- Behind a full FIFO its thread waits (R202). -/
theorem waits (h : GivesCommand s t i c f body addresses checks also) (hc : CanIssue s t c.guard c.uses) (hplace : roleOf s.cur = c.engine ∧ isRunner s.cur = false)
    (hopen : c.engine = 2 → arrayOpen s t.ctx) (hfull : 16 ≤ (engineQ (s.tile (tileOf s.cur)) c.engine).length) :
    exec i s = .next (s.withCurrent (waiting s t .room)) := by
  rw [h.exec_eq]
  refine issue_stall (h.canIssue hc) h.legal.1 h.legal.2 ?_
  rw [h.body_eq]
  refine h.addresses.stops ((passes_needRole hplace).stops ((passes_needEngine hopen).stops (h.checks.stops (stops_bind ?_))))
  refine stops_after (ends_look ?_)
  exact stops_if_neg (Nat.not_lt.mpr hfull) stops_stop

/-- With room it is pushed. -/
theorem pushes (h : GivesCommand s t i c f body addresses checks also) (hc : CanIssue s t c.guard c.uses) (hplace : roleOf s.cur = c.engine ∧ isRunner s.cur = false)
    (hopen : c.engine = 2 → arrayOpen s t.ctx) (hroom : (engineQ (s.tile (tileOf s.cur)) c.engine).length < 16) :
    let held := heldFor c.engine t.ctx (s.tile (tileOf s.cur))
    let q := engineQ (s.tile (tileOf s.cur)) c.engine
    exec i s = .next { s.ran t 4 (fun u => breaks (c.untimed || q.any (·.untimed)) (c.also (opened s c.dest c.extra c.la u))) with
        tiles := mapPut (tileOf s.cur) (setEngineQ c.engine (q ++ [{ captureCmd s s.cur t c.work s.nextId c.d c.a c.b with untimed := c.untimed }]) held) s.tiles
        nextId := s.nextId + 1 } := by
  intro held q
  rw [h.exec_eq]
  refine issue_eq (h.canIssue hc) h.legal.1 h.legal.2 ?_
  rw [h.body_eq]
  refine h.addresses.then ((passes_needRole hplace).then ((passes_needEngine hopen).then (h.checks.then ?_)))
  refine Passes.then (ends_look_bind (ends_if_pos hroom passes_pure)) ?_
  exact ends_pushCommand hc.thread h.len h.also

end GivesCommand

end

/-! ### Commands without a published cost (R277) -/

theorem not_allLocal_eq (l : List Word) : (!allLocal (l.map (·.toNat))) = l.any outside := by
  simp only [allLocal, List.all_map, List.not_all_eq_any_not]
  rfl

theorem rowEnds_eq {base stride : Word} {rows : Nat} {i : Int} (h : stride = intMod64 i) : rowEnds base rows stride = (outerRows base.toNat rows i).map (·.toNat) := by
  have hlast : intMod64 (base.toNat + (rows - 1 : Nat) * i) = base + BitVec.ofNat 64 (rows - 1) * stride := by
    rw [h, intMod64, BitVec.ofInt_add, BitVec.ofInt_mul, BitVec.ofInt_natCast, BitVec.ofInt_natCast, BitVec.ofNat_toNat, BitVec.setWidth_eq]
    rfl
  simp only [rowEnds, outerRows, hlast, List.map, mod64, BitVec.toNat_ofNat, Nat.mod_eq_of_lt base.isLt]

theorem listed_eq (p : Prop) [Decidable p] (x : Word) : (if p then [x.toNat] else []) = (if p then [x] else []).map (·.toNat) := by
  split <;> rfl

theorem any_outside_listed (p : Prop) [Decidable p] (x : Word) : (if p then [x] else []).any outside = (decide p && outside x) := by
  by_cases hp : p <;> simp [hp]

theorem usesSide_iff (n : Nat) : (usesSide n = true) = (n ∈ [4, 5]) := by simp [usesSide]

theorem copyUntimed_eq (t : Thread) (s : State) : copyUntimed (t.issuing s) = copyOutside t := by
  change copyUntimed t = copyOutside t
  unfold copyUntimed copyOutside
  rw [rowEnds_eq (stride := copySrcStride t.e) (i := ((t.readE 3).extractLsb' 0 32).toInt) rfl, rowEnds_eq (stride := copyDstStride t.e) (i := ((t.readE 3).extractLsb' 32 32).toInt) rfl]
  simp only [usesSide_iff]
  rw [listed_eq, listed_eq, ← List.map_append, ← List.map_append, ← List.map_append, not_allLocal_eq]
  simp only [List.any_append, any_outside_listed]
  rfl

theorem convertUntimed_eq (t : Thread) :
    (!allLocal (rowEnds (t.readE 0) (bits (t.readE 2).toNat 55 32) (BitVec.ofNat 64 (bits (t.readE 3).toNat 31 0))
      ++ rowEnds (t.readE 1) (bits (t.readE 2).toNat 55 32) (BitVec.ofNat 64 (bits (t.readE 3).toNat 63 32)) ++ [t.fmta.toNat, t.fmtb.toNat, t.fmts.toNat]
      ++ (if t.readE 4 = 0 then [] else [(t.readE 4).toNat]) ++ (if bits (t.readE 6).toNat 0 0 = 1 then [(t.readE 6).toNat] else [])))
    = ((outerRows (t.readE 0).toNat (bits (t.readE 2).toNat 55 32) (bits (t.readE 3).toNat 31 0) ++ outerRows (t.readE 1).toNat (bits (t.readE 2).toNat 55 32) (bits (t.readE 3).toNat 63 32)).any outside
        || outside t.fmta || outside t.fmtb || outside t.fmts || (decide (t.readE 4 ≠ 0) && outside (t.readE 4)) || (decide (bits (t.readE 6).toNat 0 0 = 1) && outside (t.readE 6))) := by
  have hstride (n : Nat) : BitVec.ofNat 64 n = intMod64 n := (BitVec.ofInt_natCast ..).symm
  rw [rowEnds_eq (hstride _), rowEnds_eq (hstride _), show [t.fmta.toNat, t.fmtb.toNat, t.fmts.toNat] = [t.fmta, t.fmtb, t.fmts].map (·.toNat) from rfl,
    ← ite_not, listed_eq, listed_eq, ← List.map_append, ← List.map_append, ← List.map_append, ← List.map_append, not_allLocal_eq]
  simp only [List.any_append, any_outside_listed, List.any_cons, List.any_nil, Bool.or_false, Bool.or_assoc]

/-! ### Sets of registers -/

theorem union_comm (x y : Touch) : x.union y = y.union x := by simp [Touch.union, BitVec.or_comm, Bool.or_comm]

theorem union_assoc (x y z : Touch) : (x.union y).union z = x.union (y.union z) := by simp [Touch.union, BitVec.or_assoc, Bool.or_assoc]

theorem union_empty (x : Touch) : x.union {} = x := by simp [Touch.union]

theorem touches_three_of_last (d a b : Touch) : (touches [a, b]).union d = touches [d, a, b] := by
  rw [touches_two, touches_three, union_comm, union_assoc]

theorem touches_four_of_last (d a b x : Touch) : (touches [a, b]).union (d.union x) = touches [d, a, b, x] := by
  rw [← union_assoc, touches_three_of_last]
  rfl

theorem touches_two_of_last (d a : Touch) : a.union d = touches [d, a] := by rw [touches_two, union_comm]

/-! ### The families -/

/-- In this state the instruction gives the engine the command, by some rule of that kind. -/
def Gives (s : State) (t : Thread) (i : Instr) (c : Command) : Prop := ∃ f body addresses checks also, GivesCommand s t i c f body addresses checks also

section
variable {s : State} {t : Thread} {gd : Guard} {la d : BitVec 4} {a b : Thread → Word} {addrs : Thread → List Word} {untimed : Thread → Bool} {checks : Thread → Act Unit} {i : Instr} {c : Command}

/-- An instruction of the array in the form of `arrayOp` (R200-R202). -/
theorem arrayOp_gives {uses dest : Touch} {work : EngineWork} {also : Nat → Thread → Act Unit} (hexec : exec i s = arrayOp gd uses dest la d a b work addrs untimed checks also s)
    (hc : (c.guard, c.engine, c.dest, c.extra, c.la, c.work, c.d, c.a, c.b) = (gd, 2, dest, {}, la, work, d, a (t.issuing s), b (t.issuing s)))
    (huses : uses.union dest = c.uses) (huntimed : untimed (t.issuing s) = c.untimed) (haddrs : ∀ x ∈ addrs (t.issuing s), x.toNat < 2 ^ 56)
    (hchecks : Passes (checks (t.issuing s)) (s.withCurrent (t.issuing s))) (halso : AlsoDoes s (also s.cur (t.issuing s)) c.also) : Gives s t i c := by
  obtain ⟨guard, engine, uses', dest', extra, la', work', d', a', b', untimed', also', needs⟩ := c
  simp only [Prod.mk.injEq] at hc huntimed huses
  obtain ⟨rfl, rfl, rfl, rfl, rfl, rfl, rfl, rfl, rfl⟩ := hc
  subst huntimed huses
  exact ⟨_, _, _, _, _, hexec, rfl, rfl, rfl, rfl, rfl, rfl, rfl, passes_addresses haddrs, hchecks, halso⟩

/-- An instruction of the copy or the conversion engine, in the form of `commandOp` (R226, R229, R236). -/
theorem commandOp_gives {e : Nat} {uses extra : Touch} {work : Thread → EngineWork} (he : e = 0 ∨ e = 1) (hexec : exec i s = commandOp gd e e la d uses extra a b work addrs checks untimed s)
    (hc : (c.guard, c.engine, c.dest, c.la, c.work, c.d, c.a, c.b) = (gd, e, {}, la, work (t.issuing s), d, a (t.issuing s), b (t.issuing s)))
    (huses : uses.union (touchS d) = c.uses) (hextra : (touchS d).union extra = c.extra) (huntimed : untimed (t.issuing s) = c.untimed) (haddrs : ∀ x ∈ addrs (t.issuing s), x.toNat < 2 ^ 56)
    (hchecks : Passes (checks (t.issuing s)) (s.withCurrent (t.issuing s))) (halso : c.also = id) : Gives s t i c := by
  obtain ⟨guard, engine, uses', dest', extra, la', work', d', a', b', untimed', also', needs⟩ := c
  simp only [Prod.mk.injEq] at hc huntimed huses hextra halso
  obtain ⟨rfl, rfl, rfl, rfl, rfl, rfl, rfl, rfl⟩ := hc
  subst huntimed huses hextra halso
  refine ⟨_, _, _, _, pure (), hexec, ?_, rfl, rfl, rfl, rfl, rfl, rfl, passes_addresses haddrs, hchecks, alsoDoes_nothing s⟩
  obtain rfl | rfl := he <;> rfl

end

/-! ### The checks of each family -/

section
variable {s v : State} {t : Thread} {gd : Guard} {d a b la : BitVec 4}

theorem passes_needRows {x y : Word} {span : Nat} {window : Bool} (h : rowsOk x y span window) : Passes (needRows x y span window) v := by
  obtain ⟨⟨_, halign⟩, hm, hrow0, hstride, hwindow⟩ := h
  refine (passes_require (decide_eq_true hm)).then ((passes_require (decide_eq_true hrow0)).then ((passes_needAligned halign).then ((passes_require (decide_eq_true hstride)).then ?_)))
  refine passes_ite fun hw => passes_forEach fun i hi => passes_require ?_
  obtain ⟨hfirst, hlast⟩ := hwindow hw i (List.mem_range.mp hi)
  exact Bool.and_eq_true_iff.mpr ⟨hfirst, hlast⟩

theorem lt_of_inWindow {x : Word} (h : inWindow x.toNat = true) : x.toNat < 2 ^ 56 := by
  simp only [inWindow, Bool.and_eq_true, decide_eq_true_eq] at h
  exact h.2

theorem rowsOk_canonical {x y : Word} {span : Nat} {window : Bool} (h : rowsOk x y span window) : ∀ z ∈ [x], z.toNat < 2 ^ 56 := by
  simpa using h.1.1

theorem copyOk_canonical {peer : Bool} (h : copyOk t peer) : ∀ z ∈ [t.readE 0, t.readE 1], z.toNat < 2 ^ 56 := by
  obtain ⟨⟨hdst, _⟩, ⟨hsrc, _⟩, _⟩ := h
  simpa using And.intro hdst hsrc

theorem convertOk_canonical (h : convertOk t) : ∀ z ∈ [t.readE 0, t.readE 1, t.readE 4], z.toNat < 2 ^ 56 := by
  obtain ⟨⟨hdst, _⟩, ⟨hsrc, _⟩, ⟨hamax, _⟩, _⟩ := h
  simpa using And.intro hdst (And.intro hsrc hamax)

theorem passes_copyChecks {peer : Bool} (h : copyOk t peer) : Passes (copyChecks peer t) v := by
  obtain ⟨⟨_, hdst⟩, ⟨_, hsrc⟩, hlen, hds, hss, htreat, hside, hpeer⟩ := h
  refine (passes_needAligned hdst).then ((passes_needAligned hsrc).then ((passes_require (decide_eq_true hlen)).then ((passes_require (decide_eq_true hds)).then
    ((passes_require (decide_eq_true hss)).then (ends_ite_do (Ends.mono (passes_ite fun hu => passes_needAligned (hside (usesSide_iff _ ▸ hu))) ?_))))))
  rintro _ _ rfl
  refine (passes_require (decide_eq_true htreat)).then (passes_require ?_)
  cases peer with
  | false => rfl
  | true => exact decide_eq_true (hpeer rfl)

theorem passes_convertChecks (h : convertOk t) : Passes (convertChecks t) v := by
  obtain ⟨⟨_, hdst⟩, ⟨_, hsrc⟩, ⟨_, hamax⟩, hlen, hds, hss, hmode⟩ := h
  exact (passes_require (decide_eq_true hlen)).then ((passes_needAligned hdst).then ((passes_needAligned hsrc).then ((passes_needAligned hamax).then
    ((passes_require (decide_eq_true hds)).then ((passes_require (decide_eq_true hss)).then (passes_require (decide_eq_true hmode)))))))

/-! ### Each command -/

theorem not_allLocal_two (x y : Word) : (!allLocal [x.toNat, y.toNat]) = (outside x || outside y) := by
  rw [show [x.toNat, y.toNat] = [x, y].map (·.toNat) from rfl, not_allLocal_eq, List.any_cons, List.any_cons, List.any_nil, Bool.or_false]

theorem plateOp_gives {sparse : Bool} {i : Instr} {c : Command} (hexec : exec i s = plateOp gd d a b la sparse s)
    (hc : (c.guard, c.engine, c.dest, c.extra, c.la, c.work, c.d, c.a, c.b) = (gd, 2, touchS d, {}, la, .plate sparse, d, t.readS a, t.readS b))
    (huses : c.uses = touches [touchS d, touchS a, touchS b]) (huntimed : c.untimed = (outside t.fmtb || outside t.fmts)) (halso : c.also = id)
    (hwindow : inWindow (t.readS a).toNat = true) (halign : (t.readS a).toNat % 8 = 0) (hstride : bits (t.readS b).toNat 20 0 % 8 = 0) (hmasks : sparse = true → addressOk (t.readE 4) 8) :
    Gives s t i c := by
  refine arrayOp_gives hexec hc (by rw [huses, touches_three_of_last]) (by rw [huntimed, ← not_allLocal_two]; rfl) ?_ ?_ (halso ▸ alsoDoes_nothing s)
  · intro x hx
    cases sparse with
    | false =>
      obtain rfl : x = t.readS a := List.mem_singleton.mp hx
      exact lt_of_inWindow hwindow
    | true =>
      obtain rfl | rfl : x = t.readS a ∨ x = t.readE 4 := List.mem_pair.mp hx
      · exact lt_of_inWindow hwindow
      · exact (hmasks rfl).1
  · exact (passes_require hwindow).then ((passes_needAligned halign).then ((passes_require (decide_eq_true hstride)).then (passes_ite fun hs => passes_needAligned (hmasks hs).2)))

/-- The regions of a scan as words with their lengths (R242). -/
def scanWords (t : Thread) (a b : BitVec 4) : List (Word × Nat) :=
  let n := bits (t.readS b).toNat 15 0
  [(t.readS a, 4096), (t.readE 0, 256 * n), (t.readE 1, 256 * n), (t.readE 2, 64 * n), (t.readE 3, 64 * n), (t.readE 4, 256 * n)]

theorem scanRegions_eq (t : Thread) (a b : BitVec 4) : scanRegions (t.readS a) (t.readS b) t.e = (scanWords t a b).map (fun r => (r.1.toNat, r.2)) := rfl

/-- What `SSCAN` checks beside the addresses of its regions (R125, R128, R242). -/
def scanChecks (k : Nat) (t : Thread) (a b : BitVec 4) : Act Unit := do
  let l := bits (t.readS b).toNat 23 16
  let rs := scanRegions (t.readS a) (t.readS b) t.e
  claimCoef k t
  require (decide (1 ≤ l) && decide (l ≤ 64)) .protection (BitVec.ofNat 64 l)
  forEach rs (fun r => require (!leavesWindow r.1 r.2) .protection (BitVec.ofNat 64 r.1))
  forEach rs (fun r => needAligned (BitVec.ofNat 64 r.1) 8)
  needEntries (coefsOf (← look) k t) [.exp2]

/-- A check of every region of a scan is one of every word and length of the list that the statement gives. -/
theorem passes_regions {f : Nat × Nat → Act Unit} (h : ∀ r ∈ scanWords t a b, Passes (f (r.1.toNat, r.2)) v) : Passes (forEach (scanRegions (t.readS a) (t.readS b) t.e) f) v := by
  rw [scanRegions_eq]
  refine passes_forEach fun r hr => ?_
  obtain ⟨x, hx, rfl⟩ := List.mem_map.mp hr
  exact h x hx

theorem not_leavesWindow {x : Word} {n : Nat} (h : 0 < n → inWindow x.toNat = true ∧ inWindow (x.toNat + n - 1) = true) : (!leavesWindow x.toNat n) = true := by
  unfold leavesWindow
  by_cases hn : 0 < n
  · obtain ⟨hfirst, hlast⟩ := h hn
    simp [hfirst, hlast]
  · simp [hn]

theorem passes_claimCoef (h : (s.tile (tileOf s.cur)).coefOwner = some t.ctx) : Passes (claimCoef s.cur (t.issuing s)) (s.withCurrent (t.issuing s)) := by
  refine ends_look_bind ?_
  rw [show ((s.withCurrent (t.issuing s)).tile (tileOf s.cur)).coefOwner = some t.ctx from h]
  exact passes_require (decide_eq_true rfl)

theorem sscan_gives {c : Command} (hc : Claims.command s t (.sscan gd d a b la) = some c) (hneeds : c.needs) : Gives s t (.sscan gd d a b la) c := by
  cases hc
  obtain ⟨hl, hu, hregions, howner, hentry⟩ := hneeds
  have hword (x : Word) : BitVec.ofNat 64 x.toNat = x := (BitVec.ofNat_toNat ..).trans (BitVec.setWidth_eq x)
  refine ⟨_, _, forEach (scanRegions (t.readS a) (t.readS b) t.e) (fun r => needCanonical (BitVec.ofNat 64 r.1)), scanChecks s.cur (t.issuing s) a b, pure (), rfl, ?_, rfl, rfl, rfl, rfl, rfl, rfl, ?_, ?_, alsoDoes_nothing s⟩
  · simp only [commandBody, scanChecks, bind_assoc]
    rfl
  · exact passes_regions fun r hr => ends_needCanonical (by rw [hword]; exact (hregions r hr).1.1) rfl
  · refine (passes_claimCoef howner).then ((passes_require (by simp [hl, hu])).then ?_)
    refine (passes_regions fun r hr => passes_require (not_leavesWindow (hregions r hr).2)).then ?_
    refine (passes_regions fun r hr => passes_needAligned (by rw [hword]; exact (hregions r hr).1.2)).then ?_
    exact ends_look_bind (ends_needEntries (fun g hg => by rwa [List.mem_singleton.mp hg]) rfl)

theorem command_gives {i : Instr} {c : Command} (hc : Claims.command s t i = some c) (hneeds : c.needs) : Gives s t i c := by
  cases i with
  | mls =>
    cases hc
    obtain ⟨hwindow, halign, hstride⟩ := hneeds
    exact plateOp_gives rfl rfl rfl rfl rfl hwindow halign hstride nofun
  | mlss =>
    cases hc
    obtain ⟨hwindow, halign, hstride, hmasks⟩ := hneeds
    exact plateOp_gives rfl rfl rfl rfl rfl hwindow halign hstride fun _ => hmasks
  | mma | mmaz =>
    cases hc
    exact arrayOp_gives rfl rfl (touches_four_of_last ..) (not_allLocal_two ..) (rowsOk_canonical hneeds) (passes_needRows hneeds) (alsoDoes_nothing s)
  | mmaM | mmazM =>
    cases hc
    exact arrayOp_gives rfl rfl (touches_four_of_last ..) rfl (rowsOk_canonical hneeds) (passes_needRows hneeds) (alsoDoes_nothing s)
  | mrd | mrdZ =>
    cases hc
    exact arrayOp_gives rfl rfl (touches_three_of_last ..) rfl (rowsOk_canonical hneeds) (passes_needRows hneeds) (alsoDoes_nothing s)
  | mswap | mdrain =>
    cases hc
    exact arrayOp_gives rfl rfl (empty_union _) rfl nofun passes_pure (alsoDoes_nothing s)
  | mcfg =>
    cases hc
    exact arrayOp_gives rfl rfl (union_empty _) rfl nofun passes_pure (alsoDoes_modThread s fun _ => rfl)
  | mpop =>
    cases hc
    exact arrayOp_gives rfl rfl (touches_two_of_last ..) rfl nofun passes_pure (alsoDoes_nothing s)
  | mmon =>
    cases hc
    exact arrayOp_gives rfl rfl (empty_union _) rfl nofun passes_pure (alsoDoes_nothing s)
  | cpy =>
    cases hc
    exact commandOp_gives (.inl rfl) rfl rfl (empty_union _) (union_empty _) (copyUntimed_eq t s) (copyOk_canonical hneeds) (passes_copyChecks hneeds) rfl
  | cpym =>
    cases hc
    exact commandOp_gives (.inl rfl) rfl rfl (touches_two_of_last ..) (union_empty _) (copyUntimed_eq t s) (copyOk_canonical hneeds) (passes_copyChecks hneeds) rfl
  | cpyr =>
    cases hc
    exact commandOp_gives (.inl rfl) rfl rfl (touches_two_of_last ..) rfl rfl (copyOk_canonical hneeds) (passes_copyChecks hneeds) rfl
  | cnv =>
    cases hc
    exact commandOp_gives (.inr rfl) rfl rfl (empty_union _) rfl (convertUntimed_eq t) (convertOk_canonical hneeds) (passes_convertChecks hneeds) rfl
  | sscan => exact sscan_gives hc hneeds
  | _ => cases hc

end

end Sys2Proof.Machine

/-!
CERTIFICATES. The commands of the tile engines as they issue (R200-R202, R225, R277).
-/

namespace Sys2Proof.Claims
open Sys2Proof.Machine

/-- Settles O37: every command follows one rule, whose checks stop it in their order and whose push leaves what the statement says. -/
theorem engineCommandsIssue : Obligations.EngineCommandsIssue := by
  refine ⟨fun i s t c _ hcommand hissue hneeds => ?_, fun i s t c _ hcommand hissue hrole hslot hopen hroom hneeds => ?_⟩
  · obtain ⟨f, body, addresses, checks, also, hgives⟩ := command_gives hcommand hneeds
    exact ⟨hgives.misplaced hissue, hgives.excluded hissue, hgives.waits hissue⟩
  · obtain ⟨f, body, addresses, checks, also, hgives⟩ := command_gives hcommand hneeds
    exact hgives.pushes hissue ⟨hrole, hslot⟩ hopen hroom

end Sys2Proof.Claims

/-!
SUPPORT. The order in which `VPRUNE48` keeps the elements of a group: by magnitude, a NaN above all, and the lower index first among equals (R220).
-/

namespace Sys2Proof.Machine
open Sys2Proof.Claims

/-! ### The first of a finite set under a strict order -/

section
variable {α : Type} [LinearOrder α]

/-- How many of the indices below n stand above an index. -/
def standing (f : Nat → α) (n i : Nat) : Nat := ((Finset.range n).filter (fun j => f i < f j)).card

theorem standing_lt {f : Nat → α} {n i : Nat} (hi : i < n) : standing f n i < n := by
  have hssub : (Finset.range n).filter (fun j => f i < f j) ⊂ Finset.range n :=
    Finset.filter_ssubset.mpr ⟨i, Finset.mem_range.mpr hi, lt_irrefl _⟩
  exact (Finset.card_lt_card hssub).trans_eq (Finset.card_range n)

theorem standing_lt_standing {f : Nat → α} {n i j : Nat} (hj : j < n) (h : f i < f j) : standing f n j < standing f n i := by
  refine Finset.card_lt_card (Finset.ssubset_iff_of_subset ?_ |>.mpr ⟨j, ?_, ?_⟩)
  · exact Finset.monotone_filter_right _ fun k _ hk => h.trans hk
  · simpa using ⟨hj, h⟩
  · simp

/-- The fewer stand above an index, the higher it stands. -/
theorem lt_of_standing_lt {f : Nat → α} {n i j : Nat} (hi : i < n) (hinj : Set.InjOn f (Finset.range n)) (hj : j < n) (h : standing f n i < standing f n j) : f j < f i := by
  by_contra hle
  obtain heq | hlt := (not_lt.mp hle).eq_or_lt
  · rw [hinj (by simpa using hi) (by simpa using hj) heq] at h
    exact lt_irrefl _ h
  · exact absurd (standing_lt_standing hj hlt) (by omega)

/-- Of distinct indices, c have fewer than c above them. -/
theorem card_standing_lt {f : Nat → α} {n c : Nat} (hinj : Set.InjOn f (Finset.range n)) (hc : c ≤ n) : ((Finset.range n).filter (fun i => standing f n i < c)).card = c := by
  have hstanding : Set.InjOn (standing f n) (Finset.range n) := by
    intro i hi j hj h
    by_contra hij
    simp only [Finset.coe_range, Set.mem_Iio] at hi hj
    obtain hlt | hlt := lt_or_gt_of_ne (fun hf => hij (hinj (by simpa using hi) (by simpa using hj) hf))
    · exact absurd (standing_lt_standing hj hlt) (by omega)
    · exact absurd (standing_lt_standing hi hlt) (by omega)
  have himage : (Finset.range n).image (standing f n) = Finset.range n := by
    refine Finset.eq_of_subset_of_card_le (Finset.image_subset_iff.mpr fun i hi => ?_) (Finset.card_image_of_injOn hstanding).ge
    exact Finset.mem_range.mpr (standing_lt (Finset.mem_range.mp hi))
  calc ((Finset.range n).filter (fun i => standing f n i < c)).card
      = (((Finset.range n).filter (fun i => standing f n i < c)).image (standing f n)).card := (Finset.card_image_of_injOn (hstanding.mono fun i hi => Finset.mem_of_mem_filter i hi)).symm
    _ = ((Finset.range n).filter (· < c)).card := by rw [← Finset.filter_image (p := (· < c)), himage]
    _ = c := by rw [show (Finset.range n).filter (· < c) = Finset.range c by ext i; simp; omega, Finset.card_range]

end

/-! ### Ranks -/

theorem Q.lt_iff {a b : Q} (ha : 0 < a.den) (hb : 0 < b.den) : Q.lt a b = true ↔ ratio a < ratio b := by
  rw [Q.lt, decide_eq_true_iff, ratio, ratio, div_lt_div_iff₀ (by exact_mod_cast ha) (by exact_mod_cast hb)]
  exact_mod_cast Iff.rfl

theorem Q.eq_iff {a b : Q} (ha : 0 < a.den) (hb : 0 < b.den) : Q.eq a b = true ↔ ratio a = ratio b := by
  rw [Q.eq, decide_eq_true_iff, ratio, ratio, div_eq_div_iff (by exact_mod_cast ha.ne') (by exact_mod_cast hb.ne')]
  exact_mod_cast Iff.rfl

/-- A rank on the rational line, with the rank of a NaN above it (R220). -/
def height : Option Q → WithTop ℚ
  | none => ⊤
  | some q => (ratio q : ℚ)

/-- The denominators of ranks are positive. -/
def Ranked (r : Option Q) : Prop := ∀ q, r = some q → 0 < q.den

/-- Where an index stands: its rank, and among equals the lower index above. -/
def place (ranks : List (Option Q)) (i : Nat) : WithTop ℚ ×ₗ ℕᵒᵈ := toLex (height (ranks.getD i none), OrderDual.toDual i)

theorem place_injective (ranks : List (Option Q)) : Function.Injective (place ranks) := fun _ _ h => congrArg (fun x => (ofLex x).2) h

theorem outranks_iff {ranks : List (Option Q)} (h : ∀ i, Ranked (ranks.getD i none)) (i j : Nat) : outranks ranks i j = true ↔ place ranks j < place ranks i := by
  have hi := h i
  have hj := h j
  rw [place, place, Prod.Lex.toLex_lt_toLex, outranks]
  cases hp : ranks.getD i none with
  | none =>
    cases hq : ranks.getD j none with
    | none => simp [height]
    | some q => simp [height]
  | some p =>
    cases hq : ranks.getD j none with
    | none => simp [height]
    | some q => simp [height, Q.lt_iff (hj q hq) (hi p hp), Q.eq_iff (hi p hp) (hj q hq), eq_comm (a := ratio p)]

/-- A count over a list of indices is that of a set. -/
theorem length_filter_range {p : Nat → Bool} {P : Nat → Prop} [DecidablePred P] (h : ∀ i, p i = true ↔ P i) (n : Nat) :
    ((List.range n).filter p).length = ((Finset.range n).filter P).card := by
  rw [← Nat.count_eq_card_filter_range, Nat.count, List.countP_eq_length_filter, List.filter_congr fun i _ => ?_]
  rw [Bool.eq_iff_iff, h, decide_eq_true_iff]

/-- The kept indices are the four that stand highest. -/
theorem keepFour_eq {ranks : List (Option Q)} (h : ∀ i, Ranked (ranks.getD i none)) : keepFour ranks = (List.range 8).filter (fun i => decide (standing (place ranks) 8 i < 4)) := by
  have habove (i j : Nat) : (decide (j ≠ i) && outranks ranks j i) = true ↔ place ranks i < place ranks j := by
    rw [Bool.and_eq_true, decide_eq_true_iff, outranks_iff h]
    exact and_iff_right_of_imp fun hlt hij => absurd hlt (by rw [hij]; exact lt_irrefl _)
  exact List.filter_congr fun i _ => by rw [length_filter_range (habove i), standing]

theorem length_keepFour {ranks : List (Option Q)} (h : ∀ i, Ranked (ranks.getD i none)) : (keepFour ranks).length = 4 := by
  rw [keepFour_eq h, length_filter_range fun _ => decide_eq_true_iff]
  exact card_standing_lt (place_injective ranks).injOn (by decide)

theorem mem_keepFour {ranks : List (Option Q)} (h : ∀ i, Ranked (ranks.getD i none)) (i : Nat) : i ∈ keepFour ranks ↔ i < 8 ∧ standing (place ranks) 8 i < 4 := by
  simp [keepFour_eq h]

theorem pairwise_keepFour (ranks : List (Option Q)) : (keepFour ranks).Pairwise (· < ·) := (List.pairwise_lt_range (n := 8)).filter _

theorem lt_of_mem_keepFour {ranks : List (Option Q)} {j : Nat} (h : j ∈ keepFour ranks) : j < 8 := List.mem_range.mp (List.mem_of_mem_filter h)

/-- What is kept stands above what is not. -/
theorem place_lt_of_kept {ranks : List (Option Q)} (h : ∀ i, Ranked (ranks.getD i none)) {j l : Nat} (hj : j ∈ keepFour ranks) (hl : l < 8) (hn : l ∉ keepFour ranks) :
    place ranks l < place ranks j := by
  obtain ⟨hj8, hj4⟩ := (mem_keepFour h j).mp hj
  have hl4 : ¬ standing (place ranks) 8 l < 4 := fun hl4 => hn ((mem_keepFour h l).mpr ⟨hl, hl4⟩)
  exact lt_of_standing_lt hj8 (place_injective ranks).injOn hl (by omega)

/-! ### Elements of the prune formats (R219) -/

/-- A value is no number, or one below 2^64 with a positive denominator. -/
def Val.small : Val → Bool
  | .num q => decide (0 < q.den) && Q.lt q.abs (Q.pow2 64)
  | _ => true

/-- The numbers of the prune formats lie below the magnitude at which their infinities rank. -/
theorem small_plainDecode : ∀ c ∈ [8, 3, 4], ∀ x < 256, (plainDecode c x).small = true := by decide +kernel

/-- The rank of a value (R220). -/
def Val.rank : Val → Option Q
  | .nan _ _ => none
  | .inf _ => some (Q.pow2 64)
  | .zero _ => some ⟨0, 1⟩
  | .num q => some q.abs

theorem pruneRank_eq (c x : Nat) : pruneRank c x = (plainDecode c x).rank := by
  unfold pruneRank Val.rank
  rfl

theorem Val.rank_ranked {v : Val} (h : v.small = true) : Ranked v.rank := by
  cases v with
  | nan => nofun
  | inf | zero =>
    rintro q ⟨⟩
    decide
  | num p =>
    rintro q ⟨⟩
    simp only [Val.small, Bool.and_eq_true, decide_eq_true_eq] at h
    exact h.1

/-- One value has the greater magnitude, as the statement compares them. -/
def Val.above (u v : Val) : Bool :=
  match u, v with
  | .nan _ _, .nan _ _ => false
  | .nan _ _, _ => true
  | _, .nan _ _ => false
  | .inf _, .inf _ => false
  | .inf _, _ => true
  | _, .inf _ => false
  | u, v => Q.lt v.toQ.abs u.toQ.abs

theorem Val.above_iff {u v : Val} (hu : u.small = true) (hv : v.small = true) : u.above v = true ↔ height v.rank < height u.rank := by
  have hbelow {q : Q} (h : (Val.num q).small = true) : 0 < q.abs.den ∧ ratio q.abs < ratio (Q.pow2 64) := by
    simp only [Val.small, Bool.and_eq_true, decide_eq_true_eq] at h
    exact ⟨h.1, (Q.lt_iff (a := q.abs) h.1 (by decide)).mp h.2⟩
  have habs : Q.abs ⟨0, 1⟩ = ⟨0, 1⟩ := rfl
  have hzero : ratio ⟨0, 1⟩ < ratio (Q.pow2 64) := (Q.lt_iff (by decide) (by decide)).mp (by decide)
  cases u with
  | nan =>
    cases v with
    | nan => simp [Val.above, Val.rank, height]
    | inf | zero | num => simp [Val.above, Val.rank, height]
  | inf =>
    cases v with
    | nan | inf => simp [Val.above, Val.rank, height]
    | zero => simpa [Val.above, Val.rank, height] using hzero
    | num q => simpa [Val.above, Val.rank, height] using (hbelow hv).2
  | zero =>
    cases v with
    | nan => simp [Val.above, Val.rank, height]
    | inf => simpa [Val.above, Val.rank, height] using hzero.le
    | zero => simp [Val.above, Val.rank, height, Val.toQ, Q.lt]
    | num q => simpa [Val.above, Val.rank, height, Val.toQ, habs] using Q.lt_iff (hbelow hv).1 (by decide)
  | num p =>
    cases v with
    | nan => simp [Val.above, Val.rank, height]
    | inf => simpa [Val.above, Val.rank, height] using (hbelow hu).2.le
    | zero => simpa [Val.above, Val.rank, height, Val.toQ, habs] using Q.lt_iff (by decide) (hbelow hu).1
    | num q => simpa [Val.above, Val.rank, height, Val.toQ] using Q.lt_iff (hbelow hv).1 (hbelow hu).1

theorem pruneCode_eq (ty : BitVec 2) : pruneCode ty.toNat = if ty = 0 then 8 else if ty = 1 then 3 else 4 := by decide +revert

theorem pruneCode_mem (ty : BitVec 2) : pruneCode ty.toNat ∈ [8, 3, 4] := by decide +revert

theorem ranked_pruneRank (ty : BitVec 2) (x : BitVec 8) : Ranked (pruneRank (pruneCode ty.toNat) x.toNat) := by
  rw [pruneRank_eq]
  exact Val.rank_ranked (small_plainDecode _ (pruneCode_mem ty) _ x.isLt)

theorem greater_iff (ty : BitVec 2) (x y : BitVec 8) :
    greater ty x y = true ↔ height (pruneRank (pruneCode ty.toNat) y.toNat) < height (pruneRank (pruneCode ty.toNat) x.toNat) := by
  rw [pruneRank_eq, pruneRank_eq, ← Val.above_iff (small_plainDecode _ (pruneCode_mem ty) _ x.isLt) (small_plainDecode _ (pruneCode_mem ty) _ y.isLt), pruneCode_eq]
  rfl

end Sys2Proof.Machine

/-!
SUPPORT. What `VPRUNE48` writes: the packed elements and the mask, byte by byte (R220).
-/

namespace Sys2Proof.Machine
open Sys2Proof.Claims

/-! ### Bytes of a register -/

/-- Byte k of a register. -/
def element (v : Quad) (k : Nat) : BitVec 8 := v.extractLsb' (8 * k) 8

theorem elemAt_toNat (v : Quad) (k : Nat) : elemAt 8 v.toNat k = (element v k).toNat := by
  rw [elemAt, element, BitVec.extractLsb'_toNat, Nat.shiftRight_eq_div_pow]

/-- The number of a list of bytes, the first lowest. -/
def ofBytes (l : List Nat) : Nat := joinBytes (l.map (fun x => (x, 1)))

theorem ofBytes_lt : ∀ l : List Nat, ofBytes l < 256 ^ l.length
  | [] => Nat.one_pos
  | x :: l => by
    have ih := ofBytes_lt l
    have hx : x % 256 < 256 := Nat.mod_lt _ (by decide)
    simp only [ofBytes] at ih
    simp only [ofBytes, List.map_cons, joinBytes, List.length_cons, pow_succ]
    omega

theorem testBit_ofBytes {l : List Nat} {g j : Nat} (hg : g < l.length) (hj : j < 8) : (ofBytes l).testBit (8 * g + j) = (l.getD g 0).testBit j := by
  have hbyte (x : Nat) : x.testBit j = (x % 2 ^ 8).testBit j := by rw [Nat.testBit_mod_two_pow, decide_eq_true hj, Bool.true_and]
  have hfield := joinBytes_field 1 l g hg
  rw [one_mul, show 256 ^ g = 2 ^ (8 * g) from (pow_mul 2 8 g).symm] at hfield
  rw [Nat.add_comm, ← Nat.testBit_div_two_pow, hbyte, hbyte (l.getD g 0)]
  exact congrArg (Nat.testBit · j) hfield

theorem element_ofBytes {l : List Nat} {k : Nat} (hk : k < l.length) (h32 : k < 32) : element (BitVec.ofNat 256 (ofBytes l)) k = BitVec.ofNat 8 (l.getD k 0) := by
  refine BitVec.eq_of_getLsbD_eq fun j hj => ?_
  rw [element, BitVec.getLsbD_extractLsb', BitVec.getLsbD_ofNat, BitVec.getLsbD_ofNat, testBit_ofBytes hk hj, decide_eq_true (show 8 * k + j < 256 by omega), Bool.true_and]

theorem upper_ofBytes {l : List Nat} (hl : l.length ≤ 16) : (BitVec.ofNat 256 (ofBytes l)).extractLsb' 128 128 = 0 := by
  have hlt : ofBytes l < 2 ^ 128 := (ofBytes_lt l).trans_le ((Nat.pow_le_pow_right (n := 256) (by decide) hl).trans_eq (by norm_num))
  refine BitVec.eq_of_toNat_eq ?_
  rw [BitVec.extractLsb'_toNat, BitVec.toNat_ofNat, Nat.mod_eq_of_lt (hlt.trans (by norm_num)), Nat.shiftRight_eq_div_pow, Nat.div_eq_of_lt hlt]
  rfl

/-- The bits of a sum of rising powers of two are the exponents. -/
theorem testBit_sum_two_pow {l : List Nat} (h : l.Pairwise (· < ·)) (j : Nat) : (l.map (2 ^ ·)).sum.testBit j = true ↔ j ∈ l := by
  rw [← Nat.mem_bitIndices, Nat.bitIndices_sum_map_two_pow h.sortedLT]

/-! ### Four groups of four -/

/-- A list of four is that of its members by index. -/
theorem eq_map_getD_of_length_four {l : List Nat} (h : l.length = 4) : l = (List.range 4).map (fun m => l.getD m 0) :=
  List.ext_getElem (by simp [h]) fun i hi _ => by simp [hi]

theorem getD_flatMap_range_four {α : Type} (f : Nat → Nat → α) (x : α) {g m : Nat} (hg : g < 4) (hm : m < 4) :
    ((List.range 4).flatMap (fun g => (List.range 4).map (f g))).getD (4 * g + m) x = f g m := by
  interval_cases g <;> interval_cases m <;> rfl

theorem length_flatMap_range_four {α : Type} (f : Nat → Nat → α) : ((List.range 4).flatMap (fun g => (List.range 4).map (f g))).length = 16 := rfl

/-! ### What is kept of a group -/

section
variable (ty : BitVec 2) (v : Quad)

/-- The ranks of a group's elements, and the indices that are kept of it. -/
def groupRanks (g : Nat) : List (Option Q) := (List.range 8).map (fun j => pruneRank (pruneCode ty.toNat) (element v (8 * g + j)).toNat)
def keptIndices (g : Nat) : List Nat := keepFour (groupRanks ty v g)

theorem groupRanks_getD (g : Nat) {j : Nat} (hj : j < 8) : (groupRanks ty v g).getD j none = pruneRank (pruneCode ty.toNat) (element v (8 * g + j)).toNat := getD_map_range hj

theorem groupRanks_ranked (g i : Nat) : Ranked ((groupRanks ty v g).getD i none) := by
  by_cases hi : i < 8
  · rw [groupRanks_getD ty v g hi]
    exact ranked_pruneRank ty _
  · rw [List.getD_eq_default _ _ (by simpa [groupRanks] using hi)]
    nofun

theorem length_keptIndices (g : Nat) : (keptIndices ty v g).length = 4 := length_keepFour (groupRanks_ranked ty v g)

theorem pairwise_keptIndices (g : Nat) : (keptIndices ty v g).Pairwise (· < ·) := pairwise_keepFour _

theorem lt_of_mem_keptIndices {g j : Nat} (h : j ∈ keptIndices ty v g) : j < 8 := lt_of_mem_keepFour h

/-- Nothing that is left out is greater than what is kept, and what is kept of equals has the lower index (R220). -/
theorem kept_greatest {g j l : Nat} (hj : j ∈ keptIndices ty v g) (hl : l < 8) (hn : l ∉ keptIndices ty v g) :
    greater ty (element v (8 * g + l)) (element v (8 * g + j)) = false ∧ (greater ty (element v (8 * g + j)) (element v (8 * g + l)) = false → j < l) := by
  have hplace := place_lt_of_kept (groupRanks_ranked ty v g) hj hl hn
  rw [place, place, groupRanks_getD ty v g hl, groupRanks_getD ty v g (lt_of_mem_keptIndices ty v hj), Prod.Lex.toLex_lt_toLex] at hplace
  simp only [← Bool.not_eq_true, greater_iff, not_lt]
  obtain hlt | ⟨heq, hlow⟩ := hplace
  · exact ⟨hlt.le, fun hle => absurd hlt (not_lt.mpr hle)⟩
  · exact ⟨heq.le, fun _ => hlow⟩

/-! ### What is written -/

/-- The bytes of the packed elements, and those of the mask. -/
def packedBytes : List Nat := (List.range 4).flatMap (fun g => (keptIndices ty v g).map (fun j => (element v (8 * g + j)).toNat))
def maskBytes : List Nat := (List.range 4).map (fun g => ((keptIndices ty v g).map (2 ^ ·)).sum)

/-- The packed elements as a register, and the mask. -/
def packed48 : Quad := BitVec.ofNat 256 (ofBytes (packedBytes ty v))
def mask48 : BitVec 32 := BitVec.ofNat 32 (ofBytes (maskBytes ty v))

theorem packedBytes_eq : packedBytes ty v = (List.range 4).flatMap (fun g => (List.range 4).map (fun m => (element v (8 * g + (keptIndices ty v g).getD m 0)).toNat)) := by
  refine List.flatMap_congr fun g _ => ?_
  conv_lhs => rw [eq_map_getD_of_length_four (length_keptIndices ty v g)]
  rw [List.map_map]
  rfl

theorem length_packedBytes : (packedBytes ty v).length = 16 := by rw [packedBytes_eq, length_flatMap_range_four]

theorem element_packed48 {g m : Nat} (hg : g < 4) (hm : m < 4) : element (packed48 ty v) (4 * g + m) = element v (8 * g + (keptIndices ty v g).getD m 0) := by
  rw [packed48, element_ofBytes (by rw [length_packedBytes]; omega) (by omega), packedBytes_eq, getD_flatMap_range_four _ _ hg hm, BitVec.ofNat_toNat, BitVec.setWidth_eq]

theorem upper_packed48 : (packed48 ty v).extractLsb' 128 128 = 0 := upper_ofBytes (length_packedBytes ty v).le

theorem mem_keptIndices_iff {g j : Nat} (hg : g < 4) (hj : j < 8) : j ∈ keptIndices ty v g ↔ (mask48 ty v).getLsbD (8 * g + j) = true := by
  rw [mask48, BitVec.getLsbD_ofNat, decide_eq_true (show 8 * g + j < 32 by omega), Bool.true_and, testBit_ofBytes (by simpa [maskBytes] using hg) hj, maskBytes, getD_map_range hg,
    testBit_sum_two_pow (pairwise_keptIndices ..)]

theorem mask48_word : (mask48 ty v).zeroExtend 64 = BitVec.ofNat 64 (ofBytes (maskBytes ty v)) := by
  have hlt := ofBytes_lt (maskBytes ty v)
  rw [show (maskBytes ty v).length = 4 from rfl] at hlt
  refine BitVec.eq_of_toNat_eq ?_
  rw [mask48, BitVec.zeroExtend, BitVec.toNat_setWidth, BitVec.toNat_ofNat, BitVec.toNat_ofNat, Nat.mod_eq_of_lt (hlt.trans_eq (by norm_num))]

end

/-! ### The instruction -/

@[simp] theorem issuing_readV (t : Thread) (s : State) (a : BitVec 4) : (t.issuing s).readV a = t.readV a := rfl

/-- The forms for v0-v7 alone are legal in SHORT mode with fields below 8 (R219). -/
theorem vectorsLegal_short {f : Form} {t : Thread} {d a : BitVec 4} (hl : t.long = false) (hd : d.toNat < 8) (ha : a.toNat < 8) (hf : f.vectors = [d, a]) : vectorsLegal f t := by
  simp [vectorsLegal, hl, hf, hd, ha]

/-- `VPRUNE48` writes the packed elements and the mask (R220). -/
theorem vprune48_ran {s : State} {t : Thread} {gd : Guard} {d a b : BitVec 4} {ty : BitVec 2} (hissue : CanIssue s t gd (touches [touchV d, touchV a, touchS b]))
    (hl : t.long = false) (hd : d.toNat < 8) (ha : a.toNat < 8) :
    exec (.vprune48 gd d a b ty) s = .next (s.ran t 4 (fun u => (u.writeV d (packed48 ty (t.readV a))).writeS b ((mask48 ty (t.readV a)).zeroExtend 64))) := by
  refine issue_ran hissue (vectorsLegal_short hl hd ha rfl) nofun ?_
  refine congrArg (fun g : Thread → Thread => (do modThread s.cur g; return .seq : Act Flow)) (funext fun u => ?_)
  rw [mask48_word, issuing_readV]
  congr 3
  · simp only [ofBytes, packedBytes, keptIndices, groupRanks, elemAt_toNat, List.map_map, List.flatMap_map, List.map_flatMap, Function.comp_def]
    refine congrArg joinBytes (List.flatMap_congr fun g _ => List.map_congr_left fun j hj => ?_)
    rw [getD_map_range (lt_of_mem_keptIndices ty _ hj)]
  · simp only [maskBytes, keptIndices, groupRanks, elemAt_toNat, List.map_map, Function.comp_def]

end Sys2Proof.Machine

/-!
SUPPORT. The rationals of the model as rationals of Mathlib, and rounding: a value that a format holds rounds to its own code, so that what has been rounded once is not changed by rounding it again (R90-R93).
-/

namespace Sys2Proof.Machine
open Sys2Proof.Claims

/-! ### Values of rationals -/

theorem Q.norm_den_pos {q : Q} (h : 0 < q.den) : 0 < q.norm.den := by
  simp only [Q.norm]
  split
  · exact h
  · exact Nat.div_pos (Nat.gcd_le_right _ h) (Nat.gcd_pos_of_pos_right _ h)

theorem ratio_norm {q : Q} (h : 0 < q.den) : ratio q.norm = ratio q := by
  simp only [Q.norm]
  split
  · rfl
  · have hg : (Nat.gcd q.num.natAbs q.den : ℚ) ≠ 0 := by exact_mod_cast (Nat.gcd_pos_of_pos_right _ h).ne'
    simp only [ratio]
    rw [Int.cast_div (Int.natCast_dvd.mpr (Nat.gcd_dvd_left _ _)) (by exact_mod_cast hg), Nat.cast_div (Nat.gcd_dvd_right _ _) hg, Int.cast_natCast, div_div_div_cancel_right₀ hg]

theorem Q.mul_den_pos {a b : Q} (ha : 0 < a.den) (hb : 0 < b.den) : 0 < (Q.mul a b).den := Q.norm_den_pos (Nat.mul_pos ha hb)

theorem Q.add_den_pos {a b : Q} (ha : 0 < a.den) (hb : 0 < b.den) : 0 < (Q.add a b).den := by
  unfold Q.add
  split
  · exact Q.norm_den_pos ha
  · exact Q.norm_den_pos (Nat.mul_pos ha hb)

theorem ratio_mul {a b : Q} (ha : 0 < a.den) (hb : 0 < b.den) : ratio (Q.mul a b) = ratio a * ratio b := by
  rw [Q.mul, ratio_norm (Nat.mul_pos ha hb)]
  simp only [ratio, Int.cast_mul, Nat.cast_mul, mul_div_mul_comm]

theorem ratio_pow2 (e : Int) : ratio (Q.pow2 e) = 2 ^ e := by
  unfold Q.pow2
  split
  · next h =>
    obtain ⟨n, rfl⟩ := Int.eq_ofNat_of_zero_le h
    simp [ratio]
  · next h =>
    obtain ⟨n, hn⟩ := Int.eq_ofNat_of_zero_le (show 0 ≤ -e by omega)
    obtain rfl : e = -n := by omega
    simp [ratio]

theorem Q.pow2_den_pos (e : Int) : 0 < (Q.pow2 e).den := by
  unfold Q.pow2
  split
  · exact Nat.one_pos
  · exact Nat.two_pow_pos _

theorem Q.scale_den_pos {q : Q} (h : 0 < q.den) (e : Int) : 0 < (Q.scale q e).den := Q.mul_den_pos h (Q.pow2_den_pos e)

theorem ratio_scale_ofNat (n : Nat) (e : Int) : ratio (Q.scale (Q.ofNat n) e) = n * 2 ^ e := by
  rw [Q.scale, ratio_mul Nat.one_pos (Q.pow2_den_pos e), ratio_pow2]
  simp [ratio, Q.ofNat]

theorem ratio_neg (q : Q) : ratio q.neg = -ratio q := by simp [ratio, Q.neg, neg_div]

theorem ratio_abs (q : Q) : ratio q.abs = |ratio q| := by
  simp only [ratio, Q.abs, abs_div, Nat.abs_cast, Nat.cast_natAbs, Int.cast_abs, Int.cast_id]

/-! ### The binary exponent -/

/-- A positive number has one binary exponent. -/
theorem exponent_unique {x : ℚ} {e e' : Int} (h : (2 : ℚ) ^ e ≤ x) (h' : x < 2 ^ (e + 1)) (k : (2 : ℚ) ^ e' ≤ x) (k' : x < 2 ^ (e' + 1)) : e = e' := by
  have h1 : e < e' + 1 := (zpow_lt_zpow_iff_right₀ one_lt_two).mp (h.trans_lt k')
  have h2 : e' < e + 1 := (zpow_lt_zpow_iff_right₀ one_lt_two).mp (k.trans_lt h')
  omega

theorem log2_bounds {n : Nat} (h : n ≠ 0) : (2 : ℚ) ^ (Nat.log2 n : Int) ≤ n ∧ (n : ℚ) < 2 ^ ((Nat.log2 n : Int) + 1) := by
  have h1 : 2 ^ Nat.log2 n ≤ n := Nat.log2_self_le h
  have h2 : n < 2 ^ (Nat.log2 n + 1) := Nat.lt_log2_self
  exact ⟨by exact_mod_cast h1, by exact_mod_cast h2⟩

/-- `Q.log2` is the binary exponent of a nonzero number. -/
theorem Q.log2_spec {q : Q} (hd : 0 < q.den) (hn : q.num ≠ 0) : (2 : ℚ) ^ Q.log2 q ≤ |ratio q| ∧ |ratio q| < 2 ^ (Q.log2 q + 1) := by
  obtain ⟨hn1, hn2⟩ := log2_bounds (Int.natAbs_ne_zero.mpr hn)
  obtain ⟨hd1, hd2⟩ := log2_bounds hd.ne'
  have habs : |ratio q| = (q.num.natAbs : ℚ) / q.den := by rw [← ratio_abs]; simp [ratio, Q.abs]
  have hdq : (0 : ℚ) < q.den := by exact_mod_cast hd
  set a : Int := ((Nat.log2 q.num.natAbs : Nat) : Int)
  set b : Int := ((Nat.log2 q.den : Nat) : Int)
  have hlow : (2 : ℚ) ^ (a - b - 1) < |ratio q| := by
    rw [habs, lt_div_iff₀ hdq]
    calc (2 : ℚ) ^ (a - b - 1) * q.den < 2 ^ (a - b - 1) * 2 ^ (b + 1) := by gcongr
      _ = 2 ^ a := by rw [← zpow_add₀ two_ne_zero]; congr 1; omega
      _ ≤ _ := hn1
  have hhigh : |ratio q| < (2 : ℚ) ^ (a - b + 1) := by
    rw [habs, div_lt_iff₀ hdq]
    calc (q.num.natAbs : ℚ) < 2 ^ (a + 1) := hn2
      _ = 2 ^ (a - b + 1) * 2 ^ b := by rw [← zpow_add₀ two_ne_zero]; congr 1; omega
      _ ≤ _ := by gcongr
  simp only [Q.log2]
  split
  · next hlt =>
    rw [Q.lt_iff (a := q.abs) hd (Q.pow2_den_pos _), ratio_abs, ratio_pow2] at hlt
    exact ⟨hlow.le, by simpa using hlt⟩
  · next hge =>
    rw [Q.lt_iff (a := q.abs) hd (Q.pow2_den_pos _), ratio_abs, ratio_pow2, not_lt] at hge
    exact ⟨hge, hhigh⟩

theorem Q.log2_eq {q : Q} {e : Int} (hd : 0 < q.den) (hn : q.num ≠ 0) (h1 : (2 : ℚ) ^ e ≤ |ratio q|) (h2 : |ratio q| < 2 ^ (e + 1)) : Q.log2 q = e := by
  obtain ⟨k1, k2⟩ := Q.log2_spec hd hn
  exact exponent_unique k1 k2 h1 h2

/-! ### Rounding to an integer -/

/-- An integer rounds to itself. -/
theorem roundNat_exact (mode : BitVec 2) (neg : Bool) (n : Nat) {d : Nat} (hd : 0 < d) : roundNat mode neg (n * d) d = (n, false) := by
  simp [roundNat, Nat.mul_div_cancel _ hd, Nat.mul_mod_left, hd.ne]

/-- Rounding does not pass an integer. -/
theorem roundNat_le {mode : BitVec 2} {neg : Bool} {n d m : Nat} (h : n < m * d) : (roundNat mode neg n d).1 ≤ m := by
  have hq : n / d < m := Nat.div_lt_of_lt_mul (by rwa [Nat.mul_comm])
  have hstep (up : Bool) : (if up then n / d + 1 else n / d) ≤ m := by cases up <;> simp <;> omega
  exact hstep _

/-- Rounding to a unit of 2^e rounds a fraction of naturals (R93). -/
theorem roundUnit_eq {q : Q} (hd : 0 < q.den) (e : Int) :
    ∃ n d : Nat, 0 < d ∧ (n : ℚ) / d = |ratio q| / 2 ^ e ∧ ∀ mode neg, roundUnit mode neg q e = roundNat mode neg n d := by
  have habs : |ratio q| = (q.num.natAbs : ℚ) / q.den := by rw [← ratio_abs]; simp [ratio, Q.abs]
  by_cases he : 0 ≤ e
  · refine ⟨q.num.natAbs, q.den * 2 ^ e.toNat, Nat.mul_pos hd (Nat.two_pow_pos _), ?_, fun mode neg => by rw [roundUnit, if_pos he]⟩
    obtain ⟨n, rfl⟩ := Int.eq_ofNat_of_zero_le he
    rw [habs, div_div]
    simp
  · refine ⟨q.num.natAbs * 2 ^ (-e).toNat, q.den, hd, ?_, fun mode neg => by rw [roundUnit, if_neg he]⟩
    obtain ⟨n, hn⟩ := Int.eq_ofNat_of_zero_le (show 0 ≤ -e by omega)
    obtain rfl : e = -n := by omega
    rw [habs, zpow_neg, div_inv_eq_mul, neg_neg]
    simp [mul_div_right_comm]

theorem roundUnit_exact (mode : BitVec 2) (neg : Bool) {q : Q} {m : Nat} {e : Int} (hd : 0 < q.den) (h : |ratio q| = m * 2 ^ e) : roundUnit mode neg q e = (m, false) := by
  obtain ⟨n, d, hpos, hval, hround⟩ := roundUnit_eq hd e
  rw [h, mul_div_cancel_right₀ _ (by positivity), div_eq_iff (by exact_mod_cast hpos.ne')] at hval
  rw [hround, show n = m * d by exact_mod_cast hval]
  exact roundNat_exact mode neg m hpos

theorem roundUnit_le {mode : BitVec 2} {neg : Bool} {q : Q} {m : Nat} {e : Int} (hd : 0 < q.den) (h : |ratio q| < m * 2 ^ e) : (roundUnit mode neg q e).1 ≤ m := by
  obtain ⟨n, d, hpos, hval, hround⟩ := roundUnit_eq hd e
  rw [← div_lt_iff₀ (by positivity), ← hval, div_lt_iff₀ (by exact_mod_cast hpos)] at h
  rw [hround]
  exact roundNat_le (by exact_mod_cast h)

/-! ### Codes that round to themselves -/

theorem FloatFmt.exponent_lt (f : FloatFmt) (x : Nat) : f.exponent x < 2 ^ f.ebits := Nat.mod_lt _ (Nat.two_pow_pos _)
theorem FloatFmt.fraction_lt (f : FloatFmt) (x : Nat) : f.fraction x < 2 ^ f.mbits := Nat.mod_lt _ (Nat.two_pow_pos _)

/-- A code is made of its sign, its exponent field and its fraction (R90). -/
theorem FloatFmt.code_eq {f : FloatFmt} {x : Nat} (hx : x < 2 ^ f.width) : x = f.sign (decide (f.negative x)) + (f.exponent x * 2 ^ f.mbits + f.fraction x) := by
  have hlow : x % 2 ^ (f.ebits + f.mbits) = f.exponent x * 2 ^ f.mbits + f.fraction x := by
    rw [Nat.add_comm, pow_add, Nat.mod_mul, Nat.add_comm, Nat.mul_comm]
    rfl
  rw [FloatFmt.width, Nat.add_assoc, Nat.add_comm, pow_succ] at hx
  have hbit : x / 2 ^ (f.ebits + f.mbits) < 2 := Nat.div_lt_of_lt_mul hx
  have hsign : f.sign (decide (f.negative x)) = 2 ^ (f.ebits + f.mbits) * (x / 2 ^ (f.ebits + f.mbits)) := by
    obtain h | h := Nat.le_one_iff_eq_zero_or_eq_one.mp (Nat.le_of_lt_succ hbit)
    · simp [FloatFmt.sign, FloatFmt.negative, h]
    · simp [FloatFmt.sign, FloatFmt.negative, h]
  rw [hsign, ← hlow, Nat.div_add_mod]

theorem FloatFmt.magnitude_den_pos (f : FloatFmt) (x : Nat) : 0 < (f.magnitude x).den := by
  unfold FloatFmt.magnitude
  split <;> exact Q.scale_den_pos Nat.one_pos _

/-- The magnitude of a code by its fields (R91). -/
theorem FloatFmt.ratio_magnitude (f : FloatFmt) (x : Nat) : ratio (f.magnitude x) =
    if f.exponent x = 0 then (f.fraction x : ℚ) * 2 ^ (f.minExp - f.mbits) else ((2 ^ f.mbits + f.fraction x : Nat) : ℚ) * 2 ^ ((f.exponent x : Int) - f.bias - f.mbits) := by
  unfold FloatFmt.magnitude
  split <;> exact ratio_scale_ofNat ..

section
variable {f : FloatFmt} {q : Q} (hd : 0 < q.den) (hn : q.num ≠ 0)
include hd hn

/-- A number below the smallest normal magnitude that is a multiple of the unit there rounds to its subnormal code. -/
theorem FloatFmt.roundNum_subnormal (mode : BitVec 2) (sat : Bool) {m : Nat} (hm : m < 2 ^ f.mbits) (h : |ratio q| = m * 2 ^ (f.minExp - f.mbits)) :
    f.roundNum mode sat q = (f.sign q.isNeg + m, 0) := by
  have hlt : |ratio q| < 2 ^ f.minExp := by
    calc |ratio q| = m * 2 ^ (f.minExp - f.mbits) := h
      _ < 2 ^ (f.mbits : Int) * 2 ^ (f.minExp - f.mbits) := by gcongr; exact_mod_cast hm
      _ = 2 ^ f.minExp := by rw [← zpow_add₀ two_ne_zero]; congr 1; omega
  have hel : Q.log2 q < f.minExp := (zpow_lt_zpow_iff_right₀ one_lt_two).mp ((Q.log2_spec hd hn).1.trans_lt hlt)
  simp only [FloatFmt.roundNum, if_pos hel, roundUnit_exact mode q.isNeg hd h, flagIf, Bool.false_and, Bool.false_eq_true, if_false]
  rfl

/-- A number of a normal code rounds to it. -/
theorem FloatFmt.roundNum_normal (hk : f.kind = .ieee) (mode : BitVec 2) (sat : Bool) {e m : Nat} (he : e ≠ 0) (htop : e + 1 < 2 ^ f.ebits) (hm : m < 2 ^ f.mbits)
    (h : |ratio q| = (2 ^ f.mbits + m : Nat) * 2 ^ ((e : Int) - f.bias - f.mbits)) : f.roundNum mode sat q = (f.sign q.isNeg + (e * 2 ^ f.mbits + m), 0) := by
  have hel : Q.log2 q = (e : Int) - f.bias := by
    have hunit : (2 : ℚ) ^ (f.mbits : Int) * 2 ^ ((e : Int) - f.bias - f.mbits) = 2 ^ ((e : Int) - f.bias) := by rw [← zpow_add₀ two_ne_zero]; congr 1; omega
    have hsig : 2 ^ f.mbits + m < 2 ^ (f.mbits + 1) := by rw [pow_succ]; omega
    refine Q.log2_eq hd hn ?_ ?_
    · rw [h, ← hunit]
      gcongr
      exact_mod_cast Nat.le_add_right _ m
    · rw [h, zpow_add_one₀ two_ne_zero, ← hunit, mul_right_comm, ← zpow_add_one₀ two_ne_zero]
      gcongr
      exact_mod_cast hsig
  have hge : ¬ (e : Int) - f.bias < f.minExp := by simp only [FloatFmt.minExp]; omega
  have hcarry : 2 ^ f.mbits + m ≠ 2 ^ (f.mbits + 1) := by rw [pow_succ]; omega
  have hmax : ¬ f.maxCode < e * 2 ^ f.mbits + m := by
    have hle : (e + 1) * 2 ^ f.mbits ≤ (2 ^ f.ebits - 1) * 2 ^ f.mbits := Nat.mul_le_mul_right _ (by omega)
    rw [Nat.succ_mul] at hle
    simp only [FloatFmt.maxCode, hk]
    omega
  simp only [FloatFmt.roundNum, hel, roundUnit_exact mode q.isNeg hd h, if_neg hcarry, if_neg hge]
  rw [show ((e : Int) - f.bias + f.bias).toNat = e by omega, Nat.add_sub_cancel_left, if_neg hmax]
  rfl

end

/-- The value of a code that is no NaN rounds to the code, exactly (R91, R93). -/
theorem FloatFmt.roundIeee_decode {f : FloatFmt} (hk : f.kind = .ieee) (mode : BitVec 2) {x : Nat} (hx : x < 2 ^ f.width) (hnan : f.exponent x = 2 ^ f.ebits - 1 → f.fraction x = 0) :
    roundIeee f mode (f.decode x) = (x, 0) := by
  have hcode := FloatFmt.code_eq hx
  rw [FloatFmt.decode_ieee hk]
  by_cases htop : f.exponent x = 2 ^ f.ebits - 1
  · rw [if_pos htop, if_pos (hnan htop), roundIeee, FloatFmt.infCode, ← htop]
    rw [hnan htop, Nat.add_zero] at hcode
    rw [← hcode]
  rw [if_neg htop, FloatFmt.number]
  by_cases hzero : f.exponent x = 0 ∧ f.fraction x = 0
  · obtain ⟨he, hm⟩ := hzero
    rw [Q.isZero, FloatFmt.magnitude_zero he hm, decide_eq_true rfl, if_pos rfl, roundIeee]
    rw [he, hm, Nat.zero_mul, Nat.add_zero] at hcode
    rw [← hcode]
  have hpos : 0 < (f.magnitude x).num := FloatFmt.magnitude_pos (not_and_or.mp hzero)
  set q : Q := if f.negative x then (f.magnitude x).neg else f.magnitude x with hq
  have hd : 0 < q.den := by
    rw [hq]; split <;> exact f.magnitude_den_pos x
  have hn : q.num ≠ 0 := by
    rw [hq]; split
    · exact neg_ne_zero.mpr hpos.ne'
    · exact hpos.ne'
  have hsign : q.isNeg = decide (f.negative x) := by
    by_cases hneg : f.negative x
    · rw [hq, if_pos hneg, decide_eq_true hneg]
      exact decide_eq_true (neg_neg_of_pos hpos)
    · rw [hq, if_neg hneg, decide_eq_false hneg]
      exact decide_eq_false (not_lt.mpr hpos.le)
  have hratio : |ratio q| = ratio (f.magnitude x) := by
    have hmag : |ratio (f.magnitude x)| = ratio (f.magnitude x) := abs_of_nonneg (div_nonneg (by exact_mod_cast hpos.le) (Nat.cast_nonneg _))
    rw [hq]; split
    · rw [ratio_neg, abs_neg, hmag]
    · exact hmag
  rw [FloatFmt.ratio_magnitude] at hratio
  rw [Q.isZero, decide_eq_false hpos.ne', if_neg Bool.false_ne_true, roundIeee]
  by_cases he : f.exponent x = 0
  · rw [if_pos he] at hratio
    rw [FloatFmt.roundNum_subnormal hd hn mode false (f.fraction_lt x) hratio, hsign]
    rw [he, Nat.zero_mul, Nat.zero_add] at hcode
    rw [← hcode]
  · rw [if_neg he] at hratio
    have hlt := f.exponent_lt x
    rw [FloatFmt.roundNum_normal hd hn hk mode false he (by omega) (f.fraction_lt x) hratio, hsign, ← hcode]

/-! ### Rounding what has been rounded -/

/-- A number of the value, if it is one, has a positive denominator and is not zero. -/
def Val.Proper (v : Val) : Prop := ∀ q, v = .num q → 0 < q.den ∧ q.num ≠ 0

theorem overflow_f32_le (mode : BitVec 2) (neg : Bool) : fmtF32.overflow mode false neg ≤ 0x7F800000 := by decide +revert

theorem roundedCode_f32_le (mode : BitVec 2) (neg : Bool) (code : Nat) (fl fl' : Flags) :
    ∃ c ≤ 0x7F800000, (if fmtF32.maxCode < code then (fmtF32.sign neg + fmtF32.overflow mode false neg, fl) else (fmtF32.sign neg + code, fl')).1 = fmtF32.sign neg + c := by
  split
  · exact ⟨_, overflow_f32_le mode neg, rfl⟩
  · next hmax => exact ⟨_, (not_lt.mp hmax).trans (by decide), rfl⟩

/-- A nonzero number rounds to a code not above that of the infinity, with a sign. -/
theorem roundNum_f32 {q : Q} (hd : 0 < q.den) (hn : q.num ≠ 0) (mode : BitVec 2) : ∃ c ≤ 0x7F800000, (fmtF32.roundNum mode false q).1 = fmtF32.sign q.isNeg + c := by
  simp only [FloatFmt.roundNum]
  by_cases hel : Q.log2 q < fmtF32.minExp
  · rw [if_pos hel]
    have hlt : |ratio q| < (2 ^ 23 : Nat) * 2 ^ (fmtF32.minExp - fmtF32.mbits) := by
      calc |ratio q| < 2 ^ (Q.log2 q + 1) := (Q.log2_spec hd hn).2
        _ ≤ 2 ^ fmtF32.minExp := zpow_le_zpow_right₀ one_le_two hel
        _ = (2 ^ 23 : Nat) * 2 ^ (fmtF32.minExp - fmtF32.mbits) := by norm_num [FloatFmt.minExp, fmtF32]
    exact ⟨_, (roundUnit_le hd hlt).trans (by decide), rfl⟩
  · rw [if_neg hel]
    exact roundedCode_f32_le ..

theorem fmtF32_code (neg : Bool) {c : Nat} (hc : c ≤ 0x7F800000) : fmtF32.sign neg + c < 2 ^ fmtF32.width
    ∧ (fmtF32.exponent (fmtF32.sign neg + c) = 2 ^ fmtF32.ebits - 1 → fmtF32.fraction (fmtF32.sign neg + c) = 0) := by
  have hneg : fmtF32.sign neg = 0 ∨ fmtF32.sign neg = 2 ^ 31 := by cases neg <;> simp [FloatFmt.sign, fmtF32]
  simp only [FloatFmt.exponent, FloatFmt.fraction, FloatFmt.width, fmtF32] at hneg ⊢
  omega

/-- A value rounded to .f32 is not changed when it is rounded again (R93). -/
theorem roundNe32_rounded {v : Val} (h : v.Proper) : roundNe32 (fmtF32.decode (roundNe32 v)) = roundNe32 v := by
  have hcode (neg : Bool) (c : Nat) (hc : c ≤ 0x7F800000) : roundNe32 (fmtF32.decode (fmtF32.sign neg + c)) = fmtF32.sign neg + c := by
    obtain ⟨hx, hnan⟩ := fmtF32_code neg hc
    rw [roundNe32, FloatFmt.roundIeee_decode rfl 0 hx hnan]
  cases v with
  | nan =>
    change roundNe32 (fmtF32.decode 0x7FC00000) = 0x7FC00000
    rw [FloatFmt.decode_ieee rfl]
    rfl
  | inf neg => exact hcode neg _ (by decide)
  | zero neg => exact hcode neg 0 (by decide)
  | num q =>
    obtain ⟨hd, hn⟩ := h q rfl
    obtain ⟨c, hc, hround⟩ := roundNum_f32 hd hn 0
    rw [show roundNe32 (.num q) = fmtF32.sign q.isNeg + c from hround]
    exact hcode _ c hc

end Sys2Proof.Machine

/-!
SUPPORT. What `VSDOT48` writes, and when it traps: the pairs that a mask makes, and their exact sum, rounded once (R210, R221).
-/

namespace Sys2Proof.Machine
open Sys2Proof.Claims

/-! ### The sparse dot product (R221) -/

/-- The indices that a mask keeps of a group. -/
def maskKept (x : Word) (g : Nat) : List Nat := (List.range 8).filter (fun j => x.getLsbD (8 * g + j))

/-- The pairs of a pruned element and the dense element that it meets, in K order. -/
def sparsePairs (x : Word) (p v : Quad) : List (BitVec 8 × BitVec 8) :=
  (List.range 4).flatMap (fun g => (List.range 4).map (fun m => (element p (4 * g + m), element v (8 * g + (maskKept x g).getD m 0))))

theorem testBit_elemAt (x : Word) (g : Nat) {j : Nat} (hj : j < 8) : (BitVec.ofNat 8 (elemAt 8 x.toNat g)).getLsbD j = x.getLsbD (8 * g + j) := by
  rw [BitVec.getLsbD_ofNat, decide_eq_true hj, Bool.true_and, elemAt, Nat.testBit_mod_two_pow, decide_eq_true hj, Bool.true_and, Nat.testBit_div_two_pow, Nat.add_comm]
  rfl

theorem countOnes_mask (x : Word) (g : Nat) : countOnes (BitVec.ofNat 8 (elemAt 8 x.toNat g)) 8 = (maskKept x g).length := by
  rw [countOnes_eq, maskKept, List.filter_congr fun j hj => testBit_elemAt x g (List.mem_range.mp hj)]

/-- The bits of a mask of four groups, group by group. -/
theorem kept_eq_flatMap (x : Word) : (List.range 32).filter (fun i => decide (x.toNat / 2 ^ i % 2 = 1)) = (List.range 4).flatMap (fun g => (maskKept x g).map (8 * g + ·)) := by
  have hrange : List.range 32 = (List.range 4).flatMap (fun g => (List.range 8).map (8 * g + ·)) := rfl
  rw [hrange, List.filter_flatMap]
  refine List.flatMap_congr fun g _ => ?_
  rw [List.filter_map, maskKept]
  exact congrArg (List.map _) (List.filter_congr fun j _ => Nat.testBit_eq_decide_div_mod_eq.symm)

theorem zip_flatMap_range_four (f : Nat → Nat → Nat) : ((List.range 4).flatMap (fun g => (List.range 4).map (f g))).zip (List.range 16) =
    (List.range 4).flatMap (fun g => (List.range 4).map (fun m => (f g m, 4 * g + m))) := rfl

theorem pairs_eq {x : Word} (p v : Quad) (h : ∀ g < 4, (maskKept x g).length = 4) :
    (((List.range 32).filter (fun i => decide (x.toNat / 2 ^ i % 2 = 1))).zip (List.range 16)).map (fun ip => (elemAt 8 p.toNat ip.2, elemAt 8 v.toNat ip.1)) =
      (sparsePairs x p v).map (fun q => (q.1.toNat, q.2.toNat)) := by
  have hgroups : (List.range 4).flatMap (fun g => (maskKept x g).map (8 * g + ·)) = (List.range 4).flatMap (fun g => (List.range 4).map (fun m => 8 * g + (maskKept x g).getD m 0)) := by
    refine List.flatMap_congr fun g hg => ?_
    conv_lhs => rw [eq_map_getD_of_length_four (h g (List.mem_range.mp hg))]
    rw [List.map_map]
    rfl
  rw [kept_eq_flatMap, hgroups, zip_flatMap_range_four]
  simp only [sparsePairs, List.map_flatMap, List.map_map, Function.comp_def, elemAt_toNat]

/-- The first group whose mask does not keep four. -/
theorem find_malformed {x : Word} {g : Nat} (hg : g < 4) (hbad : (maskKept x g).length ≠ 4) (hbefore : ∀ h < g, (maskKept x h).length = 4) :
    (List.range 4).find? (fun g => decide (countOnes (BitVec.ofNat 8 (elemAt 8 x.toNat g)) 8 ≠ 4)) = some g := by
  simp only [countOnes_mask]
  exact List.find?_range_eq_some.mpr ⟨decide_eq_true hbad, List.mem_range.mpr hg, fun h hh => by simp [hbefore h hh]⟩

theorem find_malformed_none {x : Word} (h : ∀ g < 4, (maskKept x g).length = 4) :
    (List.range 4).find? (fun g => decide (countOnes (BitVec.ofNat 8 (elemAt 8 x.toNat g)) 8 ≠ 4)) = none := by
  simp only [countOnes_mask]
  exact List.find?_range_eq_none.mpr fun g hg => by simp [h g hg]

/-! ### Exact sums of products -/

theorem Q.foldl_add_den_pos {l : List Q} (h : ∀ q ∈ l, 0 < q.den) {a : Q} (ha : 0 < a.den) : 0 < (l.foldl Q.add a).den := by
  induction l generalizing a with
  | nil => exact ha
  | cons q r ih => exact ih (fun p hp => h p (List.mem_cons_of_mem _ hp)) (Q.add_den_pos ha (h q List.mem_cons_self))

theorem Val.toQ_den_pos {v : Val} (h : v.small = true) : 0 < v.toQ.den := by
  cases v with
  | nan | inf | zero => exact Nat.one_pos
  | num q => exact Val.rank_ranked h q.abs rfl

theorem mulVal_den_pos {a b : Val} (ha : 0 < a.toQ.den) (hb : 0 < b.toQ.den) : 0 < (mulVal a b).1.toQ.den := by
  unfold mulVal
  dsimp only
  split
  case h_9 => exact Q.mul_den_pos ha hb
  all_goals exact Nat.one_pos

/-- The exact sum of R210 is a nonzero number where it is a number. -/
theorem exactSum_proper {ts : List Val} (h : ∀ v ∈ ts, 0 < v.toQ.den) : (exactSum ts).1.Proper := by
  have hsum : 0 < (Q.sum (ts.map Val.toQ)).den := Q.foldl_add_den_pos (by simpa using h) Nat.one_pos
  simp only [exactSum]
  split
  · nofun
  split
  · nofun
  split
  · nofun
  split
  · nofun
  cases hz : (Q.sum (ts.map Val.toQ)).isZero with
  | true => nofun
  | false =>
    rintro q ⟨⟩
    exact ⟨hsum, of_decide_eq_false hz⟩

/-! ### The dot product -/

/-- The result of `VSDOT48` for a list of pairs, with its flags. -/
def dotResult (code : Nat) (pairs : List (Nat × Nat)) : Nat × Flags :=
  if code = 8 then (wrapInt 32 ((pairs.map (fun p => signedOf 8 p.1 * signedOf 8 p.2)).foldl (· + ·) 0), 0)
  else
    let ps := pairs.map (fun p => mulVal (plainDecode code p.1) (plainDecode code p.2))
    let (v, f) := sumTo32 (ps.map (·.1))
    (roundNe32 v, ps.foldl (fun g p => g ||| p.2) 0 ||| f)

theorem signedOf_toNat (x : BitVec 8) : signedOf 8 x.toNat = x.toInt := by
  rw [signedOf, Nat.mod_eq_of_lt x.isLt, BitVec.toInt_eq_toNat_cond]
  have := x.isLt
  split <;> split <;> omega

/-- Of integers it is their sum in 32 bits. -/
theorem dotResult_integers (l : List (BitVec 8 × BitVec 8)) : dotResult 8 (l.map (fun q => (q.1.toNat, q.2.toNat))) =
    (wrapInt 32 (l.map (fun q => q.1.toInt * q.2.toInt)).sum, 0) := by
  simp only [dotResult, if_true, List.map_map, Function.comp_def, signedOf_toNat, List.sum_eq_foldl]

theorem ofNat_wrapInt (i : Int) : BitVec.ofNat 256 (wrapInt 32 i) = (BitVec.ofInt 32 i).zeroExtend 256 := by
  refine BitVec.eq_of_toNat_eq ?_
  rw [BitVec.toNat_ofNat, BitVec.zeroExtend, BitVec.toNat_setWidth, BitVec.toNat_ofInt, wrapInt]
  rfl

/-- Of floating elements it is their exact sum, rounded once (R210, R221). -/
theorem dotResult_floats {code : Nat} (hcode : code ∈ [3, 4]) (l : List (BitVec 8 × BitVec 8)) :
    let products := l.map (fun q => mulVal (plainDecode code q.1.toNat) (plainDecode code q.2.toNat))
    let sum := exactSum (products.map (·.1))
    let rounded := roundIeee fmtF32 0 sum.1
    dotResult code (l.map (fun q => (q.1.toNat, q.2.toNat))) = (rounded.1, (products.map (·.2)).foldl (· ||| ·) 0 ||| (sum.2 ||| rounded.2)) := by
  intro products sum rounded
  have hproper : sum.1.Proper := by
    refine exactSum_proper fun v hv => ?_
    simp only [products, List.map_map, List.mem_map] at hv
    obtain ⟨q, _, rfl⟩ := hv
    have hden (x : BitVec 8) : 0 < (plainDecode code x.toNat).toQ.den := Val.toQ_den_pos (small_plainDecode code (List.mem_cons_of_mem _ hcode) _ x.isLt)
    exact mulVal_den_pos (hden q.1) (hden q.2)
  have hcode8 : code ≠ 8 := by rintro rfl; simp at hcode
  have hround : roundNe32 (fmtF32.decode rounded.1) = rounded.1 := roundNe32_rounded hproper
  rw [dotResult, if_neg hcode8, List.map_map]
  refine Prod.ext hround ?_
  rw [List.foldl_map]
  rfl

@[simp] theorem orFlags_zero (u : Thread) : u.orFlags 0 = u := by simp [Thread.orFlags]

section
variable {s : State} {t : Thread} {gd : Guard} {d a b : BitVec 4} {ty : BitVec 2}
  (hissue : CanIssue s t gd (touches [touchV d, touchV a, touchS b, touchFlags])) (hl : t.long = false) (hd : d.toNat < 8) (ha : a.toNat < 8)
include hissue hl hd ha

/-- `VSDOT48` traps at the first group whose mask does not keep four (R221). -/
theorem vsdot48_traps {g : Nat} (hg : g < 4) (hbad : (maskKept (t.readS b) g).length ≠ 4) (hbefore : ∀ h < g, (maskKept (t.readS b) h).length = 4) :
    Traps s t .malformedMetadata (mod64 g) (exec (.vsdot48 gd d a b ty) s) := by
  refine issue_trap hissue (vectorsLegal_short hl hd ha rfl) nofun ?_
  dsimp only
  rw [issuing_readS, find_malformed hg hbad hbefore]
  exact stops_raise (t := t.issuing s) (withCurrent_thread s _)

/-- With four in every group it writes the result and raises its flags (R221). -/
theorem vsdot48_ran (h : ∀ g < 4, (maskKept (t.readS b) g).length = 4) {r : Nat} {fl : Flags}
    (hresult : dotResult (pruneCode ty.toNat) ((sparsePairs (t.readS b) (t.readV a) (t.readV d)).map (fun q => (q.1.toNat, q.2.toNat))) = (r, fl)) :
    exec (.vsdot48 gd d a b ty) s = .next (s.ran t 4 (fun u => (u.writeV d (BitVec.ofNat 256 r)).orFlags fl)) := by
  refine issue_ran hissue (vectorsLegal_short hl hd ha rfl) nofun ?_
  dsimp only
  rw [issuing_readS, issuing_readV, issuing_readV, find_malformed_none h, pairs_eq _ _ h]
  change (match dotResult (pruneCode ty.toNat) ((sparsePairs (t.readS b) (t.readV a) (t.readV d)).map (fun q => (q.1.toNat, q.2.toNat))) with
    | (r, fl) => do
      modThread s.cur (fun u => (u.writeV d (BitVec.ofNat 256 r)).orFlags fl)
      return .seq : Act Flow) = _
  rw [hresult]

end

end Sys2Proof.Machine

/-!
CERTIFICATES. `VPRUNE48` and `VSDOT48` (R219-R221).
-/

namespace Sys2Proof.Claims
open Sys2Proof.Machine

/-- Settles O22: `VPRUNE48` keeps the four that stand highest in a strict order, and packs them; `VSDOT48` meets each packed element with its kept element, group by group, and rounds once. -/
theorem pruneAndSparseDot : Obligations.PruneAndSparseDot := by
  intro s t gd d a b ty hty hl hd ha
  refine ⟨fun hissue => ?_, fun hissue => ⟨fun g hg hbad hbefore => vsdot48_traps hissue hl hd ha hg hbad hbefore, fun hall => ⟨fun hint => ?_, fun hfloat => ?_⟩⟩⟩
  · refine ⟨packed48 ty (t.readV a), mask48 ty (t.readV a), fun g hg => ?_, upper_packed48 .., ?_⟩
    · exact ⟨keptIndices ty (t.readV a) g, length_keptIndices .., pairwise_keptIndices .., fun j hj => lt_of_mem_keptIndices ty _ hj, fun j hj => mem_keptIndices_iff ty _ hg hj,
        fun j hj l hl hn => kept_greatest ty _ hj hl hn, fun m hm => element_packed48 ty _ hg hm⟩
    · simp only [← writeS_eq_ite]
      exact vprune48_ran hissue hl hd ha
  · subst hint
    rw [vsdot48_ran (ty := 0) hissue hl hd ha hall (dotResult_integers _), ofNat_wrapInt]
    simp only [orFlags_zero]
    rfl
  · have hcode : pruneCode ty.toNat = if ty = 1 then 3 else 4 := by rw [pruneCode_eq, if_neg hfloat]
    have hmem : (if ty = 1 then 3 else 4) ∈ [3, 4] := by split <;> decide
    exact vsdot48_ran hissue hl hd ha hall (by rw [hcode]; exact dotResult_floats hmem _)

end Sys2Proof.Claims
